-- ==== Sys2Proof/Word.lean ====
section
/-! DEFINITION. The words of the part: bytes of a line or trunk frame, the 16-bit check, the 32-bit detail. -/

namespace Sys2Proof

/-- One byte of a line frame or one character of a trunk frame (R151, R188). -/
abbrev Byte := BitVec 8

/-- A 16-bit field: the CRC of R152, a trunk tag, a till sequence number. -/
abbrev Word16 := BitVec 16

/-- A 32-bit field: the detail of a VERDICT, a REPLY or an event (R175, R180, R190). -/
abbrev Word32 := BitVec 32

end Sys2Proof
end

