-- ==== Sys2Proof/Syntax.lean ====
section
/-! DEFINITION. The commands of the part: one constructor for each row of the table of operations and events. -/

namespace Sys2Proof

/-- The two line ports (R151). -/
inductive Port where
  | floor
  | room
  deriving DecidableEq, Repr

/-- The symbols of a line other than BREAK, which is a command of its own (section 9.2). -/
inductive LineSymbol where
  | dataBit
  | start
  | endOfData
  | endOfFrame
  | idleGap
  | idle
  | invalid
  deriving DecidableEq, Repr

/-- The commands: arrivals on the lines and the trunk, takings of frames and requests, and timer expiries.
A frame command (TENDER to UNKNOWN_KIND_FRAME) is the END-OF-FRAME that delivers the marked frame of that kind held in
the port's receiver; a request command is the Management Agent's taking of that request at the head of the receive
buffer (log entry 1). -/
inductive Instr where
  /-- POWER_ON (R196). -/
  | powerOn
  /-- FRAME_START (R153): START arrives. -/
  | frameStart (port : Port)
  /-- END_OF_DATA (R156): the data bits not yet collected, in line order, and then END-OF-DATA arrive. -/
  | endOfData (port : Port) (bits : List Bool)
  /-- MARK_BYTE (R157): a mark byte completes. -/
  | markByte (port : Port) (mark : Byte)
  /-- UNMARKED_FRAME_DROPPED (R156): END-OF-FRAME arrives for a frame the part did not mark. -/
  | unmarkedFrameDropped (port : Port)
  /-- SYMBOL_ERROR (R155, R163): an invalid symbol, or a framing symbol of another node during transmission. -/
  | symbolError (port : Port) (symbol : LineSymbol)
  /-- FRAMING_ERROR (R155): a symbol out of its place; `incomplete` says that the bits since the last byte, or the data
  as a whole, were not complete when it arrived. -/
  | framingError (port : Port) (symbol : LineSymbol) (incomplete : Bool)
  /-- LONG_FRAME (R155). -/
  | longFrame (port : Port)
  /-- BREAK (R155, R164). -/
  | breakPulse (port : Port)
  /-- LINE_IDLE (R153): the line becomes idle. -/
  | lineIdle (port : Port)
  /-- CURRENT_FRAME_CHOICE (R162). -/
  | currentFrameChoice (port : Port)
  /-- TRANSMIT_START (R163). -/
  | transmitStart (port : Port)
  /-- ARBITRATION_LOST (R160): at header bit `bit`, 0 the first sent. -/
  | arbitrationLost (port : Port) (bit : Nat)
  /-- HEADER_SENT (R163). -/
  | headerSent (port : Port)
  /-- SEND_CLASH (R160). -/
  | sendClash (port : Port)
  /-- DATA_SENT (R163). -/
  | dataSent (port : Port)
  /-- WINDOW_CLOSE (R164): an idle gap closes the window of the part's own transmission. -/
  | windowClose (port : Port)
  /-- SAFE_COMMAND_PLACED (R93). -/
  | safeCommandPlaced
  /-- TENDER (R47). -/
  | tender (port : Port)
  /-- REFUND (R48). -/
  | refund (port : Port)
  /-- PICKUP (R52). -/
  | pickup (port : Port)
  /-- CASHUP (R53). -/
  | cashup (port : Port)
  /-- TILL_OPEN (R54). -/
  | tillOpen (port : Port)
  /-- FLOAT_RECEIPT (R72). -/
  | floatReceipt (port : Port)
  /-- DECLARE (R62). -/
  | declare (port : Port)
  /-- MAKE_UP_FLOAT (R71). -/
  | makeUpFloat (port : Port)
  /-- MAKE_UP_CONSIGNMENT (R15). -/
  | makeUpConsignment (port : Port)
  /-- RESTOCK (R17). -/
  | restock (port : Port)
  /-- DROP (R81). -/
  | drop (port : Port)
  /-- WITHDRAW (R82). -/
  | withdraw (port : Port)
  /-- DEPOSIT (R83). -/
  | deposit (port : Port)
  /-- DOOR_OPEN (R91). -/
  | doorOpen (port : Port)
  /-- DOOR_CLOSED (R91). -/
  | doorClosed (port : Port)
  /-- OPEN_REQUEST (R86). -/
  | openRequest (port : Port)
  /-- OPEN_CANCEL (R88). -/
  | openCancel (port : Port)
  /-- OPEN_CONFIRM (R89). -/
  | openConfirm (port : Port)
  /-- DELAY_EXPIRY (R87). -/
  | delayExpiry
  /-- WINDOW_EXPIRY (R87). -/
  | windowExpiry
  /-- RELOCK_EXPIRY (R94). -/
  | relockExpiry
  /-- BAG_OPEN (R101). -/
  | bagOpen (port : Port)
  /-- BATCH (R104). -/
  | batch (port : Port)
  /-- HAND_KEY (R105). -/
  | handKey (port : Port)
  /-- BAG_CLOSE (R108). -/
  | bagClose (port : Port)
  /-- COUNT_ABORT (R109). -/
  | countAbort (port : Port)
  /-- COUNT_IDLE_EXPIRY (R103): the idle timer of count session `session`. -/
  | countIdleExpiry (session : Nat)
  /-- ANNOUNCE (R125). -/
  | announce (port : Port)
  /-- LOAD (R129). -/
  | load (port : Port)
  /-- RECEIVE (R130). -/
  | receive (port : Port)
  /-- SIGN (R132). -/
  | sign (port : Port)
  /-- EXCHANGE_TIMEOUT (R133). -/
  | exchangeTimeout
  /-- SIGN_TIMEOUT (R133). -/
  | signTimeout
  /-- DAY_CLOCK_ADVANCE (R148). -/
  | dayClockAdvance
  /-- OPAQUE_FRAME (R177). -/
  | opaqueFrame (port : Port)
  /-- UNKNOWN_KIND_FRAME (R173). -/
  | unknownKindFrame (port : Port)
  /-- TRUNK_FRAME_RECEIVED (R188): characters that arrive on the trunk's receive input. -/
  | trunkFrameReceived (chars : List Byte)
  /-- TRUNK_HOLD_INPUT (R189): the back office asserts or releases its HOLD input. -/
  | trunkHoldInput (asserted : Bool)
  /-- TRUNK_FRAME_START (R191). -/
  | trunkFrameStart
  /-- TRUNK_FRAME_SENT (R176). -/
  | trunkFrameSent
  /-- SEND (R178). -/
  | send
  /-- REQUEST_UNKNOWN (R190). -/
  | requestUnknown
  /-- TABLE_SELECT (R192). -/
  | tableSelect
  /-- TABLE_GET (R192). -/
  | tableGet
  /-- TABLE_PUT (R192), at a read-only table or past the last index. -/
  | tablePut
  /-- TABLE_PUT_DENOM (R5). -/
  | tablePutDenom
  /-- TABLE_PUT_NODE (R169). -/
  | tablePutNode
  /-- TABLE_PUT_WITNESS (R170). -/
  | tablePutWitness
  /-- TABLE_PUT_TILL (R42). -/
  | tablePutTill
  /-- TABLE_PUT_TIMING (R193). -/
  | tablePutTiming
  /-- TABLE_PUT_RING (R120). -/
  | tablePutRing
  /-- STATUS (R194). -/
  | status
  /-- EVENTS_READ (R184). -/
  | eventsRead
  /-- CLEAR_EVENTS (R185). -/
  | clearEvents
  /-- EVENT_ENABLE (R186). -/
  | eventEnable
  /-- TALLY_READ (R114), without clear. -/
  | tallyRead
  /-- TALLY_READ_CLEAR (R114), with clear. -/
  | tallyReadClear
  /-- DAY_OPEN (R142). -/
  | dayOpen
  /-- DAY_TRADE (R143). -/
  | dayTrade
  /-- DAY_CLOSE (R144), without force. -/
  | dayClose
  /-- DAY_CLOSE_FORCE (R144), with force. -/
  | dayCloseForce
  /-- SET_CLOCK (R149). -/
  | setClock
  /-- CONSIGN_HAND (R121). -/
  | consignHand
  /-- CONSIGN_RECALL (R122). -/
  | consignRecall
  /-- HATCH_RELEASE (R136). -/
  | hatchRelease
  /-- ORDER_CANCEL (R75). -/
  | orderCancel
  /-- SAFE_RELEASE (R92). -/
  | safeRelease
  /-- STOCK_SET (R18). -/
  | stockSet
  /-- SUSPECT_RELEASE (R19). -/
  | suspectRelease
  /-- TILL_SUSPEND (R57). -/
  | tillSuspend
  /-- RESTART (R195). -/
  | restart
  deriving DecidableEq, Repr

end Sys2Proof
end

