-- ==== Sys2Proof/WellFormed.lean ====
section
/-! DEFINITION. Which commands are well formed: the ranges of their operands. -/

namespace Sys2Proof

/-- A symbol that SYMBOL_ERROR can be about: an invalid one, or one of the three framing symbols (R155, R163). -/
def LineSymbol.isSymbolError : LineSymbol → Bool
  | .invalid => true
  | .start => true
  | .endOfData => true
  | .endOfFrame => true
  | .dataBit => false
  | .idleGap => false
  | .idle => false

/-- A symbol that FRAMING_ERROR can be about: any but an invalid one (R155). -/
def LineSymbol.isFraming : LineSymbol → Bool
  | .invalid => false
  | .dataBit => true
  | .start => true
  | .endOfData => true
  | .endOfFrame => true
  | .idleGap => true
  | .idle => true

/-- The operand checks: a header has 40 bits (R151), four count sessions (R99), and the two error commands carry a symbol
of their kind. Every other command is well formed with any operand. -/
def Instr.wf : Instr → Bool
  | .arbitrationLost _ bit => decide (bit < 40)
  | .countIdleExpiry session => decide (session < 4)
  | .symbolError _ symbol => symbol.isSymbolError
  | .framingError _ symbol _ => symbol.isFraming
  | .powerOn | .frameStart _ | .endOfData _ _ | .markByte _ _ | .unmarkedFrameDropped _ | .longFrame _ => true
  | .breakPulse _ | .lineIdle _ | .currentFrameChoice _ | .transmitStart _ | .headerSent _ | .sendClash _ => true
  | .dataSent _ | .windowClose _ | .safeCommandPlaced | .tender _ | .refund _ | .pickup _ | .cashup _ => true
  | .tillOpen _ | .floatReceipt _ | .declare _ | .makeUpFloat _ | .makeUpConsignment _ | .restock _ => true
  | .drop _ | .withdraw _ | .deposit _ | .doorOpen _ | .doorClosed _ | .openRequest _ | .openCancel _ => true
  | .openConfirm _ | .delayExpiry | .windowExpiry | .relockExpiry | .bagOpen _ | .batch _ | .handKey _ => true
  | .bagClose _ | .countAbort _ | .announce _ | .load _ | .receive _ | .sign _ | .exchangeTimeout => true
  | .signTimeout | .dayClockAdvance | .opaqueFrame _ | .unknownKindFrame _ | .trunkFrameReceived _ => true
  | .trunkHoldInput _ | .trunkFrameStart | .trunkFrameSent | .send | .requestUnknown | .tableSelect => true
  | .tableGet | .tablePut | .tablePutDenom | .tablePutNode | .tablePutWitness | .tablePutTill => true
  | .tablePutTiming | .tablePutRing | .status | .eventsRead | .clearEvents | .eventEnable | .tallyRead => true
  | .tallyReadClear | .dayOpen | .dayTrade | .dayClose | .dayCloseForce | .setClock | .consignHand => true
  | .consignRecall | .hatchRelease | .orderCancel | .safeRelease | .stockSet | .suspectRelease => true
  | .tillSuspend | .restart => true

end Sys2Proof
end

