-- ==== Sys2Proof/Decode.lean ====
section
/-! DEFINITION. The commands that a word spells by the table's bits: the table of operations and events gives no row bits. -/

namespace Sys2Proof

/-- No row of the table of operations and events has bits, so no word spells a command: frames and requests reach the part as
the bytes of R197, through END_OF_DATA and TRUNK_FRAME_RECEIVED, and are decoded in `Machine/Operands.lean`. -/
def decodeTableWord (_nbits _w : Nat) : Option Instr := none

end Sys2Proof
end

