-- ==== Sys2Proof/Config.lean ====
section
/-! DEFINITION. The fixed sizes of the part, and the values the manual leaves open: opaque constants without a body. -/

namespace Sys2Proof.Config

/-- The detail of a VERDICT or a REPLY for which no rule gives a detail (R2 says that one is carried): a value nothing
constrains, one for each such answer (log entry 4). -/
opaque freeDetail : Nat → Word32

/-- What a four-byte seconds-timer field carries once the timer has passed 4,294,967,295 (R197 gives the field four bytes
and no rule says what the timer does there, log entry 5). -/
opaque lateSecond : Nat → Word32

/-- Which port's marked frame RESTART takes first when both ports hold one (R195 gives no order, log entry 6). -/
opaque restartFloorFirst : Nat → Bool

/-- Bag records the register holds (R23). -/
def bagCapacity : Nat := 512

/-- Entries the safe inventory holds (R79). -/
def safeCapacity : Nat := 120

/-- Places of one port's outgoing queue (R161). -/
def outgoingPlaces : Nat := 8

/-- Places of the uplink queue (R176). -/
def uplinkPlaces : Nat := 32

/-- Places of the floor downlink queue (R178). -/
def floorDownlinkPlaces : Nat := 16

/-- Places of the room downlink queue (R178). -/
def roomDownlinkPlaces : Nat := 8

/-- Entries of the trunk's receive buffer (R189). -/
def bufferPlaces : Nat := 4

/-- Attempts a frame is given on a line (R164). -/
def attemptLimit : Nat := 4

/-- Inbound seals a descriptor records, and outbound seals it lists (R117, R130). -/
def consignmentSeals : Nat := 12

/-- The top of an unsigned 32-bit count or sum (R1, R9, R20, R111). -/
def top32 : Nat := 4294967295

/-- The ends of the signed 32-bit range of expected cash and variance (R1). -/
def low31 : Int := -2147483648
def high31 : Int := 2147483647

/-- The largest declared bag value, and the largest running total of a count session (R25, R104). -/
def topBagValue : Nat := 999999999

end Sys2Proof.Config
end

