-- ==== Sys2Proof/Machine/State.lean ====
section
/-! DEFINITION. The state of the part as plain data: every table, record, queue, port, timer and flag the manual names. -/

namespace Sys2Proof.Machine

/-! ## Named sets of values -/

/-- Kind of a denomination (R4). -/
inductive DenomKind where
  | note | coin
  deriving DecidableEq, Repr

/-- The four day states (R141). -/
inductive DayState where
  | night | opening | trading | closing
  deriving DecidableEq, Repr

/-- The six drawer states (R43). -/
inductive DrawerState where
  | closed | floated | opened | hold | cashedUp | suspended
  deriving DecidableEq, Repr

/-- The five bag kinds (R23). -/
inductive BagKind where
  | pickup | cashup | inbound | floatBag | consignment
  deriving DecidableEq, Repr

/-- The fourteen bag states (section 2.3). -/
inductive BagState where
  | sealed | received | inSafe | outForCount | counting | countSuspended | counted | madeUp | delivered | inHandling
  | loaded | hatchHeld | handedOver | restocked
  deriving DecidableEq, Repr

/-- Outcome of a count against its tolerance (R107). -/
inductive BagClass where
  | balanced | over | short
  deriving DecidableEq, Repr

/-- State of an order entry (R68). -/
inductive OrderState where
  | free | pending | madeUp
  deriving DecidableEq, Repr

/-- How the last order of an entry ended (R68). -/
inductive OrderOutcome where
  | none | done | cancelled | restocked
  deriving DecidableEq, Repr

/-- The way a bag entered the safe (R79). -/
inductive EntryWay where
  | chute | door
  deriving DecidableEq, Repr

/-- The seven lock states (section 5.4). -/
inductive LockState where
  | locked | delay | window | unlocked | opened | openForced | lockout
  deriving DecidableEq, Repr

/-- The delay chosen by the last OPEN_REQUEST taken (R80, R86). -/
inductive DelayKind where
  | day | night | courier
  deriving DecidableEq, Repr

/-- The commanded state of the safe (R93). -/
inductive BoltCommand where
  | lock | unlock
  deriving DecidableEq, Repr

/-- The three safe operations that R84 records. -/
inductive SafeOp where
  | drop | withdraw | deposit
  deriving DecidableEq, Repr

/-- State of a count session (R99). -/
inductive SessionState where
  | idle | counting | suspended
  deriving DecidableEq, Repr

/-- The three tally groups (R111). -/
inductive TallyGroup where
  | accepted | suspect | rejected
  deriving DecidableEq, Repr

/-- Mode of a tally group (R111). -/
inductive TallyMode where
  | wrap | hold
  deriving DecidableEq, Repr

/-- Owner of a consignment descriptor (R117). -/
inductive Owner where
  | office | part
  deriving DecidableEq, Repr

/-- Result of a descriptor's last call (R117). -/
inductive CallResult where
  | none | done | doneVariance | missed | refusedCourier | timedOut | aborted | recalled
  deriving DecidableEq, Repr

/-- Phase of the handover session (R124). -/
inductive Phase where
  | idle | exchange | signing
  deriving DecidableEq, Repr

/-- The line a node hangs on (R168). -/
inductive NodePort where
  | floor | room | none
  deriving DecidableEq, Repr

/-- The eight node roles (R168). -/
inductive Role where
  | till | tillBadge | carrier | counter | safe | hatch | courierReader | console
  deriving DecidableEq, Repr

/-- Verdict and result codes (R197). -/
inductive Code where
  | accepted | duplicate | hold | held
  | unknownNode | roleNotAllowed | wrongDayState | malformed | unknownKind
  | wrongTillState | wrongBagState | wrongLockState | doorShut
  | witnessMissing | duplicateConflict
  | sealInUse | registerFull | safeFull | unknownBag | pinned
  | stockShort | notStrapped | orderOpen | orderFull | stockHeld
  | sessionBusy | countLimit | valueRange | rejectsOpen | rejectsExceeded
  | protectedEntry | notInConsignment | outOfWindow | refusedCourier | hatchNotClear | notLoaded | noSession | inboundFull
  | busy | lockout
  | duplicateFace | clockSet | unknownTable
  deriving DecidableEq, Repr

/-- The 26 events, in code order (R182). -/
inductive Event where
  | dayChanged | tallyHalf | tallyFull | linkError | queueFull | sequenceGap | tenderUnapplied | declareVariance
  | pickupDue | drawerHold | expectedSaturated | stockShort | orderCancelled | countSuspended | suspectFound
  | bagVariance | chuteHeld | safeFull | windowExpired | handoverDone | windowMissed | inboundVariance
  | handoverAborted | safeLockout | doorForced | powerUp
  deriving DecidableEq, Repr

/-- The twelve tables of the table window (R192). -/
inductive TableId where
  | denom | node | witness | till | timing | ring | drawer | bag | safeList | order | stock | daySummary
  deriving DecidableEq, Repr

/-! ## Stock Unit (chapter 1) -/

/-- One entry of the denomination table (R4). -/
structure Denom where
  face : Nat
  kind : DenomKind
  strap : Nat
  packet : Nat
  enabled : Bool
  deriving DecidableEq, Repr

/-- The office stock of one code (R9). -/
structure StockRec where
  loose : Nat
  straps : Nat
  reserved : Nat
  suspect : Nat
  deriving DecidableEq, Repr

/-- The day accumulators and their saturation flag (R20). -/
structure Accumulators where
  opening : Nat
  countedIn : Nat
  restocked : Nat
  madeUp : Nat
  adjustment : Int
  saturated : Bool
  deriving DecidableEq, Repr

/-! ## Bag Register (chapter 2) -/

/-- One bag record (R23). -/
structure Bag where
  sealNo : Nat
  kind : BagKind
  state : BagState
  till : Option (Fin 160)
  order : Option (Fin 24)
  pin : Option (Fin 16)
  session : Option (Fin 4)
  declared : Nat
  counts : Option (Vector Nat 12)
  counted : Option Nat
  suspect : Option Nat
  variance : Option Int
  cls : Option BagClass
  unsigned : Bool
  day : Nat
  entered : Nat
  deriving DecidableEq, Repr

/-! ## Drawer Monitor (chapter 3) -/

/-- One entry of the till table (R41). -/
structure TillEntry where
  node : Byte
  badge : Byte
  targets : Vector Nat 12
  targetValue : Nat
  skimLevel : Nat
  hardLimit : Nat
  topUpCap : Nat
  skimFloor : Nat
  enabled : Bool
  deriving DecidableEq, Repr

/-- One drawer record (R43). -/
structure Drawer where
  state : DrawerState
  floatDelivered : Nat
  netTendered : Int
  refunds : Nat
  pickups : Nat
  cashup : Nat
  expected : Int
  saturated : Bool
  due : Bool
  pickupCount : Nat
  cashupDiff : Option Int
  countVariance : Int
  lastSeq : Option Nat
  lastCrc : Option Word16
  openOrder : Option (Fin 24)
  deriving DecidableEq, Repr

/-! ## Float Unit (chapter 4) -/

/-- One entry of the order table (R68). -/
structure Order where
  state : OrderState
  outcome : OrderOutcome
  till : Fin 160
  seq : Nat
  day : Nat
  issue : Vector Nat 12
  skim : Vector Nat 12
  shortStock : Vector Bool 12
  shortCap : Vector Bool 12
  issueValue : Nat
  skimValue : Nat
  declared : Nat
  difference : Int
  sealNo : Option Nat
  deriving DecidableEq, Repr

/-! ## Safe Controller (chapter 5) -/

/-- One inventory entry (R79). -/
structure SafeEntry where
  sealNo : Nat
  way : EntryWay
  second : Nat
  deriving DecidableEq, Repr

/-- The record of the last safe operation (R84). `detail` is the detail of its verdict, which a repeat is answered with. -/
structure LastOp where
  op : SafeOp
  sealNo : Nat
  node : Byte
  state : BagState
  detail : Word32
  deriving DecidableEq, Repr

/-- The safe's inventory, lock, commanded state and last operation (R79, R84, R85, R93). `timer` is the second at which the
one running lock timer expires. -/
structure Safe where
  inventory : List SafeEntry
  lock : LockState
  timer : Option Nat
  delayKind : DelayKind
  failed : Nat
  commanded : BoltCommand
  owed : Bool
  last : Option LastOp
  deriving DecidableEq, Repr

/-! ## Count Controller (chapter 6) -/

/-- One count session (R99). `timer` is the second at which its idle timer expires. -/
structure Session where
  state : SessionState
  bag : Nat
  kind : BagKind
  declared : Nat
  node : Byte
  accepted : Vector Nat 12
  suspect : Vector Nat 12
  rejected : Vector Nat 12
  unresolved : Nat
  total : Nat
  timer : Option Nat
  deriving DecidableEq, Repr

/-- One tally counter (R111). -/
structure Tally where
  count : Nat
  half : Bool
  full : Bool
  deriving DecidableEq, Repr

/-! ## Handover Controller (chapter 7) -/

/-- One consignment descriptor (R117). -/
structure Descriptor where
  owner : Owner
  number : Nat
  courier : Nat
  windowStart : Nat
  windowEnd : Nat
  outbound : List Nat
  inboundCount : Nat
  inboundValue : Nat
  result : CallResult
  received : List Nat
  second : Option Nat
  supervisor : Option Byte
  courierMark : Option Byte
  dayPassed : Bool
  deriving DecidableEq, Repr

/-- The next pointer, the refused-courier count and the handover session (R118, R124, R126). `timer` is the second at which
the session timer expires. -/
structure Handover where
  next : Fin 16
  refused : Nat
  phase : Phase
  slot : Option (Fin 16)
  timer : Option Nat
  deriving DecidableEq, Repr

/-! ## Day Controller (chapter 8) -/

/-- The day summary (R147). -/
structure Summary where
  taken : Bool
  day : Nat
  second : Nat
  minute : Nat
  opening : Nat
  countedIn : Nat
  restocked : Nat
  madeUp : Nat
  adjustment : Int
  saturated : Bool
  holding : Nat
  bagsCounted : Nat
  bagsHanded : Nat
  deriving DecidableEq, Repr

/-- Day state, day number, day clock, clock-set permission and summary (R141). `clockSecond` is the second at which the day
clock last took a value (R148). -/
structure Day where
  state : DayState
  number : Nat
  clock : Nat
  clockSecond : Nat
  armed : Bool
  summary : Summary
  deriving DecidableEq, Repr

/-! ## Ports (chapter 9) -/

/-- A line frame without its check: priority byte, kind, destination, source and body (R151). -/
structure LineFrame where
  pb : Byte
  kind : Byte
  dest : Byte
  src : Byte
  body : List Byte
  deriving DecidableEq, Repr

/-- What became of the receipt mark of a frame in its window (R156): none was given, the part is sending it, or it stands
first in the window. -/
inductive MarkAnswer where
  | none | sending | marked
  deriving DecidableEq, Repr

/-- A received frame in its mark window: the frame, its CRC field, the Inspector's answer and the gathered marks (R153, R156). -/
structure Window where
  frame : LineFrame
  crc : Word16
  answer : MarkAnswer
  marks : List Byte
  deriving DecidableEq, Repr

/-- The receiver's five states (R153); RECEIVING holds the data bits collected so far, MARK_WINDOW the frame. -/
inductive Receiver where
  | idle
  | receiving (bits : List Bool)
  | markWindow (w : Window)
  | waitIdle
  | ignoring
  deriving DecidableEq, Repr

/-- The transmitter's four states (R163). -/
inductive TxPhase where
  | idle | arbitrating | sending | awaitMarks
  deriving DecidableEq, Repr

/-- Where the current frame keeps its place (R162): a FILLED place of the outgoing queue, counted from the oldest, or the head
of the downlink queue. -/
inductive TxSource where
  | outgoing (place : Nat)
  | downlink
  deriving DecidableEq, Repr

/-- The current frame and its attempts used (R162). -/
structure Current where
  frame : LineFrame
  source : TxSource
  attempts : Nat
  deriving DecidableEq, Repr

/-- A port's transmitter (R162, R163): its state, its current frame, the mark bytes recorded in the window, and the bytes it
has driven on the line since its last START (log entry 12). -/
structure Transmitter where
  phase : TxPhase
  current : Option Current
  marks : List Byte
  driven : List Byte
  deriving DecidableEq, Repr

/-- The seven error counters of a port (R154). -/
structure LineErrors where
  check : Nat
  symbol : Nat
  framing : Nat
  longFrame : Nat
  breaks : Nat
  clash : Nat
  undelivered : Nat
  deriving DecidableEq, Repr

/-- The outgoing queue (R161): the number of RESERVED places, and the frames of the FILLED places in the order in which they
were placed. Every other place is FREE. -/
structure OutQueue where
  reserved : Nat
  filled : List LineFrame
  deriving DecidableEq, Repr

/-- One line port: receiver, transmitter, whether the line is idle (R163), outgoing queue, downlink queue (R178), counters. -/
structure LinePort where
  rx : Receiver
  tx : Transmitter
  lineIdle : Bool
  out : OutQueue
  down : List LineFrame
  errors : LineErrors
  deriving DecidableEq, Repr

/-! ## Frame Inspector and relay queues (chapter 10) -/

/-- One entry of the node table (R168). -/
structure Node where
  port : NodePort
  role : Role
  till : Fin 160
  slot : Fin 4
  enabled : Bool
  deriving DecidableEq, Repr

/-- One entry of the witness table (R170). -/
structure Witness where
  roleA : Role
  roleB : Role
  sameTill : Bool
  deriving DecidableEq, Repr

/-- One relay envelope (R176). -/
structure Envelope where
  port : Port
  second : Nat
  stamp : Code
  marks : List Byte
  frame : LineFrame
  deriving DecidableEq, Repr

/-- The uplink queue (R176): RESERVED places, and the envelopes of the FILLED places in the order they were filled. -/
structure Uplink where
  reserved : Nat
  filled : List Envelope
  deriving DecidableEq, Repr

/-! ## Event Unit (chapter 11) -/

/-- One event record (R180). -/
structure EventRec where
  pending : Bool
  enable : Bool
  detail : Word32
  count : Nat
  deriving DecidableEq, Repr

/-! ## Trunk Port and Management Agent (chapter 12) -/

/-- Mode and report enable of one tally group (R193). -/
structure TallySetting where
  mode : TallyMode
  report : Bool
  deriving DecidableEq, Repr

/-- The TIMING table (R193): the numbers of indices 0 to 13, and the tally groups of indices 14 to 16. -/
structure Timing where
  values : Vector Nat 14
  groups : Vector TallySetting 3
  deriving DecidableEq, Repr

/-- The trunk receiver (R188): hunting for the start character, or holding the characters after it. -/
inductive TrunkRx where
  | hunting
  | collecting (chars : List Byte)
  deriving DecidableEq, Repr

/-- An entry of the receive buffer (R189). -/
inductive TrunkEntry where
  | request (tag : Word16) (code : Byte) (fields : List Byte)
  | send (tag : Word16) (port pb kind dest : Byte) (body : List Byte)
  deriving DecidableEq, Repr

/-- A REPLY (R190). -/
structure Reply where
  tag : Word16
  code : Byte
  result : Code
  detail : Word32
  data : List Byte
  deriving DecidableEq, Repr

/-- What the trunk transmitter is sending (R191). -/
inductive TrunkSource where
  | reply | attention | relay
  deriving DecidableEq, Repr

/-- The trunk frame being sent and its characters (R188, R191). -/
structure Sending where
  source : TrunkSource
  chars : List Byte
  deriving DecidableEq, Repr

/-- The Trunk Port and the Agent's reply (R188 to R191): receiver, receive buffer, whether the SEND at the head waits for a
downlink place, the unsent reply, the frame being sent, the HOLD input, and the three counters. -/
structure Trunk where
  rx : TrunkRx
  buffer : List TrunkEntry
  sendWaits : Bool
  reply : Option Reply
  sending : Option Sending
  holdIn : Bool
  check : Nat
  framing : Nat
  overrun : Nat
  deriving DecidableEq, Repr

/-- The window pointer (R192). -/
structure Pointer where
  table : TableId
  index : Nat
  deriving DecidableEq, Repr

/-! ## The whole part -/

/-- The part: the queue of waiting commands, the seconds timer, and the state of every block.
`draws` counts the free details drawn so far; it is the model's own field (log entry 4). -/
structure State where
  pending : List Instr
  seconds : Nat
  denoms : Vector Denom 12
  stock : Vector StockRec 12
  acc : Accumulators
  bags : List Bag
  tills : Vector TillEntry 160
  drawers : Vector Drawer 160
  orders : Vector Order 24
  safe : Safe
  sessions : Vector Session 4
  tallies : Vector (Vector Tally 12) 3
  ring : Vector Descriptor 16
  call : Handover
  day : Day
  nodes : Vector Node 252
  witness : Vector Witness 7
  timing : Timing
  floor : LinePort
  room : LinePort
  uplink : Uplink
  trunk : Trunk
  pointer : Pointer
  events : Vector EventRec 26
  vector : Nat
  attention : Bool
  draws : Nat
  deriving DecidableEq, Repr

/-- Why the part would stop. No rule of the manual stops it: the one reason stands for a command whose operands are outside the
ranges of `Instr.wf` and that no sender can send; no meaning raises it. -/
inductive Fault where
  /-- An operand outside its range. Raised by no command (every meaning answers a next state, also for such an operand): safe. -/
  | operandRange
  deriving DecidableEq, Repr

/-- Why a command would be refused by the model. -/
inductive Refusal where
  /-- The command has no meaning yet, by its mnemonic in the table. Raised by an arm of `exec` alone: safe. -/
  | notModelled (mnemonic : String)
  deriving DecidableEq, Repr

/-! ## Power-on values -/

/-- R4: disabled, zeros, kind NOTE. -/
def Denom.reset : Denom := { face := 0, kind := .note, strap := 0, packet := 0, enabled := false }

/-- R9. -/
def StockRec.reset : StockRec := { loose := 0, straps := 0, reserved := 0, suspect := 0 }

/-- R20. -/
def Accumulators.reset : Accumulators :=
  { opening := 0, countedIn := 0, restocked := 0, madeUp := 0, adjustment := 0, saturated := false }

/-- R41. -/
def TillEntry.reset : TillEntry :=
  { node := 0, badge := 0, targets := Vector.replicate 12 0, targetValue := 0, skimLevel := 0, hardLimit := 0
    topUpCap := 0, skimFloor := 0, enabled := false }

/-- R43. -/
def Drawer.reset : Drawer :=
  { state := .closed, floatDelivered := 0, netTendered := 0, refunds := 0, pickups := 0, cashup := 0, expected := 0
    saturated := false, due := false, pickupCount := 0, cashupDiff := none, countVariance := 0, lastSeq := none
    lastCrc := none, openOrder := none }

/-- R68. -/
def Order.reset : Order :=
  { state := .free, outcome := .none, till := 0, seq := 0, day := 0, issue := Vector.replicate 12 0
    skim := Vector.replicate 12 0, shortStock := Vector.replicate 12 false, shortCap := Vector.replicate 12 false
    issueValue := 0, skimValue := 0, declared := 0, difference := 0, sealNo := none }

/-- R79, R84, R85, R93. -/
def Safe.reset : Safe :=
  { inventory := [], lock := .locked, timer := none, delayKind := .day, failed := 0, commanded := .lock, owed := false
    last := none }

/-- R99: IDLE, every other field 0 or absent. -/
def Session.reset : Session :=
  { state := .idle, bag := 0, kind := .pickup, declared := 0, node := 0, accepted := Vector.replicate 12 0
    suspect := Vector.replicate 12 0, rejected := Vector.replicate 12 0, unresolved := 0, total := 0, timer := none }

/-- R111. -/
def Tally.reset : Tally := { count := 0, half := false, full := false }

/-- R117. -/
def Descriptor.reset : Descriptor :=
  { owner := .office, number := 0, courier := 0, windowStart := 0, windowEnd := 0, outbound := [], inboundCount := 0
    inboundValue := 0, result := .none, received := [], second := none, supervisor := none, courierMark := none
    dayPassed := false }

/-- R118, R124, R126. -/
def Handover.reset : Handover := { next := 0, refused := 0, phase := .idle, slot := none, timer := none }

/-- R147. -/
def Summary.reset : Summary :=
  { taken := false, day := 0, second := 0, minute := 0, opening := 0, countedIn := 0, restocked := 0, madeUp := 0
    adjustment := 0, saturated := false, holding := 0, bagsCounted := 0, bagsHanded := 0 }

/-- R141. -/
def Day.reset : Day :=
  { state := .night, number := 0, clock := 0, clockSecond := 0, armed := true, summary := Summary.reset }

/-- R154. -/
def LineErrors.reset : LineErrors :=
  { check := 0, symbol := 0, framing := 0, longFrame := 0, breaks := 0, clash := 0, undelivered := 0 }

/-- R166: the transmitter IDLE with no current frame. -/
def Transmitter.reset : Transmitter := { phase := .idle, current := none, marks := [], driven := [] }

/-- R166: the receiver in WAIT_IDLE, every place FREE, every counter 0; R178: the downlink queue empty. -/
def LinePort.reset : LinePort :=
  { rx := .waitIdle, tx := Transmitter.reset, lineIdle := false, out := { reserved := 0, filled := [] }, down := []
    errors := LineErrors.reset }

/-- R168. -/
def Node.reset : Node := { port := .none, role := .till, till := 0, slot := 0, enabled := false }

/-- R170: PICKUP, CASHUP, FLOAT_RECEIPT, OPEN_REQUEST, OPEN_CONFIRM, MAKE_UP, SIGN. -/
def witnessReset : Vector Witness 7 :=
  #v[{ roleA := .tillBadge, roleB := .carrier, sameTill := true },
     { roleA := .tillBadge, roleB := .carrier, sameTill := true },
     { roleA := .tillBadge, roleB := .carrier, sameTill := true },
     { roleA := .console, roleB := .console, sameTill := false },
     { roleA := .console, roleB := .console, sameTill := false },
     { roleA := .console, roleB := .console, sameTill := false },
     { roleA := .console, roleB := .courierReader, sameTill := false }]

/-- R193: the defaults of the TIMING table. -/
def Timing.reset : Timing :=
  { values := #v[600, 1800, 120, 120, 60, 3, 300, 900, 180, 3, 500, 0, 100, 0]
    groups := Vector.replicate 3 { mode := .hold, report := true } }

/-- R176. -/
def Uplink.reset : Uplink := { reserved := 0, filled := [] }

/-- R188, R189, R196: the receiver hunts, the buffer is empty, the counters are 0. -/
def Trunk.reset : Trunk :=
  { rx := .hunting, buffer := [], sendWaits := false, reply := none, sending := none, holdIn := false, check := 0
    framing := 0, overrun := 0 }

/-- R180: enabled, not pending, detail 0, count 0. -/
def EventRec.reset : EventRec := { pending := false, enable := true, detail := 0, count := 0 }

/-- R180: POWER_UP is pending with count 1 at power-on. -/
def EventRec.powerUp : EventRec := { pending := true, enable := true, detail := 0, count := 1 }

/-- The part right after power-on (R196): every table and record at its power-on value, the kept vector 26 and the
attention-owed flag set (R183), no command waiting. -/
def State.reset : State :=
  { pending := []
    seconds := 0
    denoms := Vector.replicate 12 Denom.reset
    stock := Vector.replicate 12 StockRec.reset
    acc := Accumulators.reset
    bags := []
    tills := Vector.replicate 160 TillEntry.reset
    drawers := Vector.replicate 160 Drawer.reset
    orders := Vector.replicate 24 Order.reset
    safe := Safe.reset
    sessions := Vector.replicate 4 Session.reset
    tallies := Vector.replicate 3 (Vector.replicate 12 Tally.reset)
    ring := Vector.replicate 16 Descriptor.reset
    call := Handover.reset
    day := Day.reset
    nodes := Vector.replicate 252 Node.reset
    witness := witnessReset
    timing := Timing.reset
    floor := LinePort.reset
    room := LinePort.reset
    uplink := Uplink.reset
    trunk := Trunk.reset
    pointer := { table := .denom, index := 0 }
    events := (Vector.replicate 26 EventRec.reset).set 25 EventRec.powerUp
    vector := 26
    attention := true
    draws := 0 }

/-! ## Named updates: one for each field that a block changes -/

/-- The state with `pending` replaced. -/
def State.setPending (s : State) (x : List Instr) : State := { s with pending := x }

/-- The state with `seconds` replaced. -/
def State.setSeconds (s : State) (x : Nat) : State := { s with seconds := x }

/-- The state with `denoms` replaced. -/
def State.setDenoms (s : State) (x : Vector Denom 12) : State := { s with denoms := x }

/-- The state with `stock` replaced. -/
def State.setStock (s : State) (x : Vector StockRec 12) : State := { s with stock := x }

/-- The state with `acc` replaced. -/
def State.setAcc (s : State) (x : Accumulators) : State := { s with acc := x }

/-- The state with `bags` replaced. -/
def State.setBags (s : State) (x : List Bag) : State := { s with bags := x }

/-- The state with `tills` replaced. -/
def State.setTills (s : State) (x : Vector TillEntry 160) : State := { s with tills := x }

/-- The state with `drawers` replaced. -/
def State.setDrawers (s : State) (x : Vector Drawer 160) : State := { s with drawers := x }

/-- The state with `orders` replaced. -/
def State.setOrders (s : State) (x : Vector Order 24) : State := { s with orders := x }

/-- The state with `safe` replaced. -/
def State.setSafe (s : State) (x : Safe) : State := { s with safe := x }

/-- The state with `sessions` replaced. -/
def State.setSessions (s : State) (x : Vector Session 4) : State := { s with sessions := x }

/-- The state with `tallies` replaced. -/
def State.setTallies (s : State) (x : Vector (Vector Tally 12) 3) : State := { s with tallies := x }

/-- The state with `ring` replaced. -/
def State.setRing (s : State) (x : Vector Descriptor 16) : State := { s with ring := x }

/-- The state with `call` replaced. -/
def State.setCall (s : State) (x : Handover) : State := { s with call := x }

/-- The state with `day` replaced. -/
def State.setDay (s : State) (x : Day) : State := { s with day := x }

/-- The state with `nodes` replaced. -/
def State.setNodes (s : State) (x : Vector Node 252) : State := { s with nodes := x }

/-- The state with `witness` replaced. -/
def State.setWitness (s : State) (x : Vector Witness 7) : State := { s with witness := x }

/-- The state with `timing` replaced. -/
def State.setTiming (s : State) (x : Timing) : State := { s with timing := x }

/-- The state with `floor` replaced. -/
def State.setFloor (s : State) (x : LinePort) : State := { s with floor := x }

/-- The state with `room` replaced. -/
def State.setRoom (s : State) (x : LinePort) : State := { s with room := x }

/-- The state with `uplink` replaced. -/
def State.setUplink (s : State) (x : Uplink) : State := { s with uplink := x }

/-- The state with `trunk` replaced. -/
def State.setTrunk (s : State) (x : Trunk) : State := { s with trunk := x }

/-- The state with `pointer` replaced. -/
def State.setPointer (s : State) (x : Pointer) : State := { s with pointer := x }

/-- The state with `events` replaced. -/
def State.setEvents (s : State) (x : Vector EventRec 26) : State := { s with events := x }

/-- The state with `vector` replaced. -/
def State.setVector (s : State) (x : Nat) : State := { s with vector := x }

/-- The state with `attention` replaced. -/
def State.setAttention (s : State) (x : Bool) : State := { s with attention := x }

/-- The state with `draws` replaced. -/
def State.setDraws (s : State) (x : Nat) : State := { s with draws := x }

/-- The line port `p`. -/
def State.port (s : State) : Port → LinePort
  | .floor => s.floor
  | .room => s.room

/-- The state with the line port `p` replaced. -/
def State.setPort (s : State) (p : Port) (x : LinePort) : State :=
  match p with
  | .floor => s.setFloor x
  | .room => s.setRoom x

end Sys2Proof.Machine
end

