-- ==== Sys2Proof/Machine/Ops.lean ====
section
/-! DEFINITION. The shared operations: tables, ranges, bytes, the check, timers, and the places of the queues. -/

namespace Sys2Proof.Machine

/-! ## Rows of a table -/

/-- The table with row `i` replaced. -/
def put {α : Type} {n : Nat} (v : Vector α n) (i : Fin n) (x : α) : Vector α n := v.set i.val x i.isLt

/-- Every row replaced by `f` of it. -/
def mapRows {α β : Type} {n : Nat} (f : α → β) (v : Vector α n) : Vector β n := Vector.ofFn fun i => f v[i]

/-- Whether some row satisfies `p`. -/
def anyRow {α : Type} {n : Nat} (p : α → Bool) (v : Vector α n) : Bool := v.toList.any p

/-- The first index that satisfies `p`, in rising order. -/
def firstIndex (n : Nat) (p : Fin n → Bool) : Option (Fin n) := (List.finRange n).find? p

/-- The twelve denomination codes in rising order (R4). -/
def codes : List (Fin 12) := List.finRange 12

/-- The sum of `f` over the twelve codes. -/
def sumCodes (f : Fin 12 → Nat) : Nat := (codes.map f).sum

/-! ## Ranges (R1, R3) -/

/-- `n` clamped to the range from `lo` to `hi` (R3). -/
def clamp (lo hi n : Nat) : Nat := max lo (min hi n)

/-- `n` in an unsigned 32-bit range that saturates at its top, with whether it was held at the end (R1). -/
def satNat (n : Nat) : Nat × Bool := (min n Config.top32, decide (Config.top32 < n))

/-- `i` in the signed 32-bit range that saturates at both ends, with whether it was held at an end (R1). -/
def satInt (i : Int) : Int × Bool :=
  (max Config.low31 (min Config.high31 i), decide (i < Config.low31) || decide (Config.high31 < i))

/-- `n` as a Fin, held to the last value of its range. -/
def clampFin (n : Nat) (v : Nat) : Fin (n + 1) := ⟨min n v, by omega⟩

/-- `n` as a Fin where it lies in the range. -/
def inRange (n v : Nat) : Option (Fin n) := if h : v < n then some ⟨v, h⟩ else none

/-! ## Bytes (R197) -/

/-- `n` as `k` bytes, high byte first. -/
def be : Nat → Nat → List Byte
  | 0, _ => []
  | k + 1, n => BitVec.ofNat 8 (n / 256 ^ k) :: be k n

/-- `i` as `k` bytes in two's complement, high byte first. -/
def beInt (k : Nat) (i : Int) : List Byte := be k (i % (256 ^ k : Nat)).toNat

/-- The number that bytes with the high byte first hold. -/
def unbe (bs : List Byte) : Nat := bs.foldl (fun a b => a * 256 + b.toNat) 0

/-- The first `k` bytes as a number, and the bytes after them. -/
def takeNat (k : Nat) (bs : List Byte) : Option (Nat × List Byte) :=
  if bs.length < k then none else some (unbe (bs.take k), bs.drop k)

/-- `m` numbers of `k` bytes each, and the bytes after them. -/
def takeNats (k : Nat) : Nat → List Byte → Option (List Nat × List Byte)
  | 0, bs => some ([], bs)
  | m + 1, bs => do
    let (x, bs) ← takeNat k bs
    let (xs, bs) ← takeNats k m bs
    return (x :: xs, bs)

/-- A flag byte: 0 or 1 (R197). -/
def flagByte (b : Bool) : Byte := if b then 1 else 0

/-- The flag of a byte, where its code names one. -/
def takeFlag (bs : List Byte) : Option (Bool × List Byte) :=
  match bs with
  | b :: rest => if b = 0 then some (false, rest) else if b = 1 then some (true, rest) else none
  | [] => none

/-- An optional field: a presence byte and, where present, the field (R197). -/
def optBytes {α : Type} (f : α → List Byte) : Option α → List Byte
  | none => [0]
  | some a => 1 :: f a

/-- A list: a count byte and the items (R197). -/
def listBytes {α : Type} (f : α → List Byte) (xs : List α) : List Byte := BitVec.ofNat 8 xs.length :: xs.flatMap f

/-- The field of a seconds-timer value (R197); what it carries past 4,294,967,295 is open (log entry 5). -/
def secondBytes (n : Nat) : List Byte :=
  be 4 (if n ≤ Config.top32 then n else (Config.lateSecond n).toNat)

/-! ## The check (R152) -/

/-- `n` shifts of the CRC register with generator x^16 + x^12 + x^5 + 1. -/
def crcShift : Nat → Word16 → Word16
  | 0, r => r
  | n + 1, r => crcShift n (if r.msb then (r <<< 1) ^^^ 0x1021#16 else r <<< 1)

/-- One byte entering the CRC register, most significant bit first. -/
def crcByte (r : Word16) (b : Byte) : Word16 := crcShift 8 (r ^^^ (b.setWidth 16 <<< 8))

/-- The check of a run of bytes: the register starts at all ones and is sent as it stands (R152). -/
def crc16 (bs : List Byte) : Word16 := bs.foldl crcByte 0xFFFF#16

/-! ## Bits (R151) -/

/-- The eight bits of a byte, most significant first. -/
def bitsOf (b : Byte) : List Bool := (List.range 8).map b.getMsbD

/-- The bits of a run of bytes in line order. -/
def lineBits (bs : List Byte) : List Bool := bs.flatMap bitsOf

/-- The byte of eight bits, most significant first. -/
def byteOf (bits : List Bool) : Byte := BitVec.ofNat 8 (bits.foldl (fun a b => 2 * a + b.toNat) 0)

/-- The bytes that a run of bits completes, and the bits left over. -/
def splitBytes : List Bool → List Byte × List Bool
  | a :: b :: c :: d :: e :: f :: g :: h :: rest =>
    (byteOf [a, b, c, d, e, f, g, h] :: (splitBytes rest).1, (splitBytes rest).2)
  | rest => ([], rest)

/-! ## Line frames (R151, R165) -/

/-- The five header bytes. -/
def LineFrame.header (f : LineFrame) : List Byte := [f.pb, f.kind, f.dest, f.src, BitVec.ofNat 8 f.body.length]

/-- Header, body and CRC in line order. -/
def LineFrame.wire (f : LineFrame) : List Byte := f.header ++ f.body ++ be 2 (crc16 (f.header ++ f.body)).toNat

/-- The header as the number whose order decides arbitration (R151, R159). -/
def LineFrame.rank (f : LineFrame) : Nat := unbe f.header

/-- The mark modes (R157). -/
inductive MarkMode where
  | none | one | gather | reply
  deriving DecidableEq, Repr

/-- The mark mode field of a priority byte: bits 4 and 3 (R197). -/
def markMode (pb : Byte) : MarkMode :=
  if pb.extractLsb' 3 2 = 0#2 then .none
  else if pb.extractLsb' 3 2 = 1#2 then .one
  else if pb.extractLsb' 3 2 = 2#2 then .gather
  else .reply

/-- The three bits of a priority byte that are always zero (R151). -/
def zeroBitsClear (pb : Byte) : Bool := pb.extractLsb' 0 3 == 0#3

/-- A kind from 0x80 to 0xFF, relayed without inspection (R171, R177). -/
def opaqueKind (kind : Byte) : Bool := kind.msb

/-! ## Timers -/

/-- The seconds that remain to a deadline, or 0 when no timer runs (R80, R119). -/
def secondsLeft (s : State) (t : Option Nat) : Nat :=
  match t with
  | some at_ => at_ - s.seconds
  | none => 0

/-- A timer has expired when the seconds timer has reached its deadline (R85). -/
def expired (s : State) (t : Option Nat) : Bool :=
  match t with
  | some at_ => decide (at_ ≤ s.seconds)
  | none => false

/-! ## The TIMING table (R193) -/

def Timing.dayDelay (t : Timing) : Nat := t.values[0]
def Timing.nightDelay (t : Timing) : Nat := t.values[1]
def Timing.courierDelay (t : Timing) : Nat := t.values[2]
def Timing.openWindow (t : Timing) : Nat := t.values[3]
def Timing.relockTime (t : Timing) : Nat := t.values[4]
def Timing.confirmLimit (t : Timing) : Nat := t.values[5]
def Timing.idleTimeout (t : Timing) : Nat := t.values[6]
def Timing.exchangeTimeout (t : Timing) : Nat := t.values[7]
def Timing.signTimeout (t : Timing) : Nat := t.values[8]
def Timing.courierLimit (t : Timing) : Nat := t.values[9]
def Timing.declareTolerance (t : Timing) : Nat := t.values[10]

/-- The tolerance for a bag's kind (R107): PICKUP, CASHUP or INBOUND. -/
def Timing.tolerance (t : Timing) : BagKind → Nat
  | .pickup => t.values[11]
  | .cashup => t.values[12]
  | .inbound => t.values[13]
  | .floatBag => 0
  | .consignment => 0

/-- The range of each numbered entry (R193). -/
def timingRange : Vector (Nat × Nat) 14 :=
  #v[(0, 7200), (0, 14400), (0, 1800), (30, 600), (10, 300), (1, 9), (30, 3600), (60, 3600), (30, 900), (1, 9),
     (0, 100000), (0, 100000), (0, 100000), (0, 100000)]

/-- The bytes of each numbered entry: the fewest that hold its range (R197). -/
def timingWidth : Vector Nat 14 := #v[2, 2, 2, 2, 2, 1, 2, 2, 2, 1, 3, 3, 3, 3]

/-! ## Queue places (R161, R176, R178) -/

/-- FREE places of an outgoing queue (R161). -/
def OutQueue.free (q : OutQueue) : Nat := Config.outgoingPlaces - q.reserved - q.filled.length

/-- A RESERVED place is filled with a frame; with no RESERVED place nothing is placed (R161). -/
def OutQueue.fill (q : OutQueue) (f : LineFrame) : OutQueue :=
  if q.reserved = 0 then q else { reserved := q.reserved - 1, filled := q.filled ++ [f] }

/-- A RESERVED place becomes FREE (R161). -/
def OutQueue.release (q : OutQueue) : OutQueue := { q with reserved := q.reserved - 1 }

/-- A frame is placed in a FREE place, if there is one (R161). -/
def OutQueue.place (q : OutQueue) (f : LineFrame) : Option OutQueue :=
  if q.free = 0 then none else some { q with filled := q.filled ++ [f] }

/-- FREE places of the uplink queue (R176). -/
def Uplink.free (q : Uplink) : Nat := Config.uplinkPlaces - q.reserved - q.filled.length

/-- A RESERVED uplink place is filled with an envelope (R176). -/
def Uplink.fill (q : Uplink) (e : Envelope) : Uplink :=
  if q.reserved = 0 then q else { reserved := q.reserved - 1, filled := q.filled ++ [e] }

/-- Places of a port's downlink queue (R178). -/
def downlinkPlaces : Port → Nat
  | .floor => Config.floorDownlinkPlaces
  | .room => Config.roomDownlinkPlaces

/-! ## A port's parts -/

/-- The state with port `p`'s receiver replaced. -/
def State.setRx (s : State) (p : Port) (rx : Receiver) : State := s.setPort p { s.port p with rx := rx }

/-- The state with port `p`'s transmitter replaced. -/
def State.setTx (s : State) (p : Port) (tx : Transmitter) : State := s.setPort p { s.port p with tx := tx }

/-- The state with port `p`'s outgoing queue replaced. -/
def State.setOut (s : State) (p : Port) (q : OutQueue) : State := s.setPort p { s.port p with out := q }

/-- The state with port `p`'s downlink queue replaced. -/
def State.setDown (s : State) (p : Port) (q : List LineFrame) : State := s.setPort p { s.port p with down := q }

/-- The state with port `p`'s error counters replaced. -/
def State.setErrors (s : State) (p : Port) (e : LineErrors) : State := s.setPort p { s.port p with errors := e }

/-- The state with port `p`'s line-idle mark replaced. -/
def State.setLineIdle (s : State) (p : Port) (b : Bool) : State := s.setPort p { s.port p with lineIdle := b }

/-! ## Answers -/

/-- The answer to a marked frame (R175): a VERDICT with its code and detail, or the ADVICE of R70 with its status and body.
A detail of `none` is one that no rule states (log entry 4). -/
inductive Answer where
  | verdict (code : Code) (detail : Option Word32)
  | advice (status : Code) (body : List Byte)
  deriving DecidableEq, Repr

/-- A detail that is a number. -/
def num (n : Nat) : Option Word32 := some (BitVec.ofNat 32 n)

/-- A detail that is a signed figure, in two's complement (R197). -/
def signed (i : Int) : Option Word32 := some (BitVec.ofInt 32 i)

/-- The detail an answer carries: the one its rule gives, or the next free one; a free one is drawn once (log entry 4). -/
def drawDetail (d : Option Word32) (s : State) : Word32 × State :=
  match d with
  | some w => (w, s)
  | none => (Config.freeDetail s.draws, s.setDraws (s.draws + 1))

end Sys2Proof.Machine
end

