-- ==== Sys2Proof/Machine/Codes.lean ====
section
/-! DEFINITION. The codes of R197: verdicts and results, kinds, states and named values, as bytes and back. -/

namespace Sys2Proof.Machine

/-- Verdict and result codes, numbered upward from the first code of each group (R197). -/
def Code.byte : Code → Byte
  | .accepted => 0x00 | .duplicate => 0x01 | .hold => 0x02 | .held => 0x03
  | .unknownNode => 0x10 | .roleNotAllowed => 0x11 | .wrongDayState => 0x12 | .malformed => 0x13 | .unknownKind => 0x14
  | .wrongTillState => 0x20 | .wrongBagState => 0x21 | .wrongLockState => 0x22 | .doorShut => 0x23
  | .witnessMissing => 0x28 | .duplicateConflict => 0x29
  | .sealInUse => 0x30 | .registerFull => 0x31 | .safeFull => 0x32 | .unknownBag => 0x33 | .pinned => 0x34
  | .stockShort => 0x38 | .notStrapped => 0x39 | .orderOpen => 0x3A | .orderFull => 0x3B | .stockHeld => 0x3C
  | .sessionBusy => 0x40 | .countLimit => 0x41 | .valueRange => 0x42 | .rejectsOpen => 0x43 | .rejectsExceeded => 0x44
  | .protectedEntry => 0x48 | .notInConsignment => 0x49 | .outOfWindow => 0x4A | .refusedCourier => 0x4B
  | .hatchNotClear => 0x4C | .notLoaded => 0x4D | .noSession => 0x4E | .inboundFull => 0x4F
  | .busy => 0x50 | .lockout => 0x51
  | .duplicateFace => 0x58 | .clockSet => 0x59 | .unknownTable => 0x5A

/-- The kinds the Inspector acts on (R171). -/
inductive JobKind where
  | tender | refund | pickup | cashup | declare | floatReceipt | tillOpen
  | drop | withdraw | deposit | door | openRequest | openConfirm | openCancel
  | makeUp | restock
  | bagOpen | batch | bagClose | countAbort | handKey
  | announce | load | receive | sign
  deriving DecidableEq, Repr

/-- Kind codes in code order (R197). -/
def JobKind.byte : JobKind → Byte
  | .tender => 0x20 | .refund => 0x21 | .pickup => 0x22 | .cashup => 0x23 | .declare => 0x24 | .floatReceipt => 0x25
  | .tillOpen => 0x26
  | .drop => 0x40 | .withdraw => 0x41 | .deposit => 0x42 | .door => 0x43 | .openRequest => 0x44 | .openConfirm => 0x45
  | .openCancel => 0x46
  | .makeUp => 0x48 | .restock => 0x49
  | .bagOpen => 0x50 | .batch => 0x51 | .bagClose => 0x52 | .countAbort => 0x53 | .handKey => 0x54
  | .announce => 0x60 | .load => 0x61 | .receive => 0x62 | .sign => 0x63

/-- Every job kind. -/
def JobKind.all : List JobKind :=
  [.tender, .refund, .pickup, .cashup, .declare, .floatReceipt, .tillOpen, .drop, .withdraw, .deposit, .door,
   .openRequest, .openConfirm, .openCancel, .makeUp, .restock, .bagOpen, .batch, .bagClose, .countAbort, .handKey,
   .announce, .load, .receive, .sign]

/-- The job kind of a kind code, where it names one (R171). -/
def JobKind.ofByte (b : Byte) : Option JobKind := JobKind.all.find? fun k => k.byte = b

/-- The kinds the part itself sends (R165, R197). -/
def kindVerdict : Byte := 0x08
def kindAdvice : Byte := 0x09
def kindCall : Byte := 0x0A
def kindSafeCommand : Byte := 0x0B

/-! ## State codes (R197) -/

def DayState.code : DayState → Nat
  | .night => 0 | .opening => 1 | .trading => 2 | .closing => 3

def DrawerState.code : DrawerState → Nat
  | .closed => 0 | .floated => 1 | .opened => 2 | .hold => 3 | .cashedUp => 4 | .suspended => 5

def BagState.code : BagState → Nat
  | .sealed => 0 | .received => 1 | .inSafe => 2 | .outForCount => 3 | .counting => 4 | .countSuspended => 5
  | .counted => 6 | .madeUp => 7 | .delivered => 8 | .inHandling => 9 | .loaded => 10 | .hatchHeld => 11
  | .handedOver => 12 | .restocked => 13

def LockState.code : LockState → Nat
  | .locked => 0 | .delay => 1 | .window => 2 | .unlocked => 3 | .opened => 4 | .openForced => 5 | .lockout => 6

def SessionState.code : SessionState → Nat
  | .idle => 0 | .counting => 1 | .suspended => 2

def Phase.code : Phase → Nat
  | .idle => 0 | .exchange => 1 | .signing => 2

def CallResult.code : CallResult → Nat
  | .none => 0 | .done => 1 | .doneVariance => 2 | .missed => 3 | .refusedCourier => 4 | .timedOut => 5 | .aborted => 6
  | .recalled => 7

def OrderState.code : OrderState → Nat
  | .free => 0 | .pending => 1 | .madeUp => 2

def OrderOutcome.code : OrderOutcome → Nat
  | .none => 0 | .done => 1 | .cancelled => 2 | .restocked => 3

/-! ## Named values coded by their position in the owning rule's list (R197, last paragraph) -/

def DenomKind.code : DenomKind → Nat
  | .note => 0 | .coin => 1

def BagKind.code : BagKind → Nat
  | .pickup => 0 | .cashup => 1 | .inbound => 2 | .floatBag => 3 | .consignment => 4

def BagClass.code : BagClass → Nat
  | .balanced => 0 | .over => 1 | .short => 2

def EntryWay.code : EntryWay → Nat
  | .chute => 0 | .door => 1

def DelayKind.code : DelayKind → Nat
  | .day => 0 | .night => 1 | .courier => 2

def BoltCommand.code : BoltCommand → Nat
  | .lock => 0 | .unlock => 1

def Owner.code : Owner → Nat
  | .office => 0 | .part => 1

def NodePort.code : NodePort → Nat
  | .floor => 0 | .room => 1 | .none => 2

def Role.code : Role → Nat
  | .till => 0 | .tillBadge => 1 | .carrier => 2 | .counter => 3 | .safe => 4 | .hatch => 5 | .courierReader => 6
  | .console => 7

def TallyMode.code : TallyMode → Nat
  | .wrap => 0 | .hold => 1

def TallyGroup.code : TallyGroup → Nat
  | .accepted => 0 | .suspect => 1 | .rejected => 2

def portCode : Port → Nat
  | .floor => 0 | .room => 1

/-- The row of a tally group. -/
def TallyGroup.row : TallyGroup → Fin 3
  | .accepted => 0 | .suspect => 1 | .rejected => 2

/-! ## Named values of a written field: the first byte read, where its code names one (R3, R190) -/

/-- The value whose code is the first byte, and the bytes after it. -/
def takeNamed {α : Type} (all : List α) (code : α → Nat) : List Byte → Option (α × List Byte)
  | b :: rest => (all.find? fun a => code a = b.toNat).map fun a => (a, rest)
  | [] => none

def DenomKind.all : List DenomKind := [.note, .coin]
def NodePort.all : List NodePort := [.floor, .room, .none]
def Role.all : List Role := [.till, .tillBadge, .carrier, .counter, .safe, .hatch, .courierReader, .console]
def TallyMode.all : List TallyMode := [.wrap, .hold]
def TallyGroup.all : List TallyGroup := [.accepted, .suspect, .rejected]

/-! ## Events (R182) -/

/-- The code of an event, 1 to 26. -/
def Event.code : Event → Nat
  | .dayChanged => 1 | .tallyHalf => 2 | .tallyFull => 3 | .linkError => 4 | .queueFull => 5 | .sequenceGap => 6
  | .tenderUnapplied => 7 | .declareVariance => 8 | .pickupDue => 9 | .drawerHold => 10 | .expectedSaturated => 11
  | .stockShort => 12 | .orderCancelled => 13 | .countSuspended => 14 | .suspectFound => 15 | .bagVariance => 16
  | .chuteHeld => 17 | .safeFull => 18 | .windowExpired => 19 | .handoverDone => 20 | .windowMissed => 21
  | .inboundVariance => 22 | .handoverAborted => 23 | .safeLockout => 24 | .doorForced => 25 | .powerUp => 26

/-- The row of an event's record: its code less 1. -/
def Event.row (e : Event) : Fin 26 := ⟨e.code - 1, by cases e <;> decide⟩

/-- Every event, in code order. -/
def Event.all : List Event :=
  [.dayChanged, .tallyHalf, .tallyFull, .linkError, .queueFull, .sequenceGap, .tenderUnapplied, .declareVariance,
   .pickupDue, .drawerHold, .expectedSaturated, .stockShort, .orderCancelled, .countSuspended, .suspectFound,
   .bagVariance, .chuteHeld, .safeFull, .windowExpired, .handoverDone, .windowMissed, .inboundVariance,
   .handoverAborted, .safeLockout, .doorForced, .powerUp]

/-- The three indirect events (R181). -/
def Event.indirect : Event → Bool
  | .pickupDue => true | .tallyHalf => true | .tallyFull => true
  | .dayChanged => false | .linkError => false | .queueFull => false | .sequenceGap => false
  | .tenderUnapplied => false | .declareVariance => false | .drawerHold => false | .expectedSaturated => false
  | .stockShort => false | .orderCancelled => false | .countSuspended => false | .suspectFound => false
  | .bagVariance => false | .chuteHeld => false | .safeFull => false | .windowExpired => false
  | .handoverDone => false | .windowMissed => false | .inboundVariance => false | .handoverAborted => false
  | .safeLockout => false | .doorForced => false | .powerUp => false

/-- The seven classes (R182), in the order of the ATTENTION summaries (R197). -/
inductive EventClass where
  | day | link | till | stock | count | safe | handover
  deriving DecidableEq, Repr

def EventClass.all : List EventClass := [.day, .link, .till, .stock, .count, .safe, .handover]

/-- The class of an event (R182). -/
def Event.cls : Event → EventClass
  | .dayChanged => .day | .tallyHalf => .count | .tallyFull => .count | .linkError => .link | .queueFull => .link
  | .sequenceGap => .till | .tenderUnapplied => .till | .declareVariance => .till | .pickupDue => .till
  | .drawerHold => .till | .expectedSaturated => .till | .stockShort => .stock | .orderCancelled => .stock
  | .countSuspended => .count | .suspectFound => .count | .bagVariance => .count | .chuteHeld => .safe
  | .safeFull => .safe | .windowExpired => .safe | .handoverDone => .handover | .windowMissed => .handover
  | .inboundVariance => .handover | .handoverAborted => .handover | .safeLockout => .safe | .doorForced => .safe
  | .powerUp => .day

/-! ## Tables (R192) -/

/-- The table codes. -/
def TableId.code : TableId → Nat
  | .denom => 0x01 | .node => 0x02 | .witness => 0x03 | .till => 0x04 | .timing => 0x05 | .ring => 0x06
  | .drawer => 0x08 | .bag => 0x09 | .safeList => 0x0A | .order => 0x0B | .stock => 0x0C | .daySummary => 0x0D

def TableId.all : List TableId :=
  [.denom, .node, .witness, .till, .timing, .ring, .drawer, .bag, .safeList, .order, .stock, .daySummary]

/-- The first index of a table. -/
def TableId.first : TableId → Nat
  | .node => 2
  | .denom => 0 | .witness => 0 | .till => 0 | .timing => 0 | .ring => 0 | .drawer => 0 | .bag => 0 | .safeList => 0
  | .order => 0 | .stock => 0 | .daySummary => 0

/-- The last index of a table. -/
def TableId.last : TableId → Nat
  | .denom => 11 | .node => 0xFD | .witness => 6 | .till => 159 | .timing => 16 | .ring => 16 | .drawer => 159
  | .bag => 511 | .safeList => 120 | .order => 23 | .stock => 12 | .daySummary => 0

/-- The tables that TABLE_PUT never writes. -/
def TableId.readOnly : TableId → Bool
  | .drawer => true | .bag => true | .safeList => true | .order => true | .stock => true | .daySummary => true
  | .denom => false | .node => false | .witness => false | .till => false | .timing => false | .ring => false

end Sys2Proof.Machine
end

