-- ==== Sys2Proof/Machine/Flags.lean ====
section
/-! DEFINITION. The flags of the Event Unit: raising an event, indirect events, class summaries, state vector, attention-owed; and
the error counters whose every increment raises LINK_ERROR. -/

namespace Sys2Proof.Machine

/-- The record of an event (R180). -/
def State.event (s : State) (e : Event) : EventRec := s.events[e.row]

/-- A raising: the pending flag is set, the detail replaced, the occurrence count goes up by 1 and stays at 255 (R180). For an
indirect event this is the counting of a source flag's setting (R181); `syncIndirect` then sets its pending flag. -/
def raise (e : Event) (detail : Word32) (s : State) : State :=
  s.setEvents (put s.events e.row
    { s.event e with pending := true, detail := detail, count := min 255 ((s.event e).count + 1) })

/-- A raising whose detail is a number. -/
def raiseNum (e : Event) (n : Nat) (s : State) : State := raise e (BitVec.ofNat 32 n) s

/-- A raising whose detail has a number in bits 15 to 8 and one in bits 7 to 0 (R197). -/
def raisePair (e : Event) (a b : Nat) (s : State) : State := raiseNum e (a * 256 + b) s

/-- Some drawer's pickup-due flag is set (R50). -/
def pickupDueAny (s : State) : Bool := anyRow (fun d => d.due) s.drawers

/-- Some tally counter whose group's report enable is yes satisfies `p` (R113). -/
def tallyAny (p : Tally → Bool) (s : State) : Bool :=
  TallyGroup.all.any fun g => s.timing.groups[g.row].report && anyRow p s.tallies[g.row]

/-- The condition an indirect event's pending flag follows (R181); a direct event keeps its own flag. -/
def pendingCondition (s : State) (e : Event) : Bool :=
  match e with
  | .pickupDue => pickupDueAny s
  | .tallyHalf => tallyAny (fun t => t.half) s
  | .tallyFull => tallyAny (fun t => t.full) s
  | e => (s.event e).pending

/-- The pending flag of one event is set to `b`. -/
def setPending (e : Event) (b : Bool) (s : State) : State :=
  s.setEvents (put s.events e.row { s.event e with pending := b })

/-- The three indirect pending flags match their conditions as they stand at the end of the taking (R181). -/
def syncIndirect (s : State) : State :=
  s |> setPending .pickupDue (pickupDueAny s)
    |> setPending .tallyHalf (tallyAny (fun t => t.half) s)
    |> setPending .tallyFull (tallyAny (fun t => t.full) s)

/-- An event both pending and enabled (R182, R183). -/
def State.active (s : State) (e : Event) : Bool := (s.event e).pending && (s.event e).enable

/-- The class summary of a class: set while an event of the class is pending and enabled (R182). -/
def summary (s : State) (c : EventClass) : Bool := Event.all.any fun e => (e.cls == c) && s.active e

/-- The code of the highest event that is pending and enabled, or 0 (R183). -/
def topEvent (s : State) : Nat := Event.all.foldl (fun v e => if s.active e then max v e.code else v) 0

/-- The evaluation at the end of a taking: the attention-owed flag is set if the vector rises above its kept value, and the new
value is kept (R183). -/
def evaluateVector (s : State) : State :=
  (s.setAttention (s.attention || decide (s.vector < topEvent s))).setVector (topEvent s)

/-! ## Error counters (R154, R188, R189) -/

/-- The seven counters of a port, in the order of their detail codes (R197). -/
inductive LineCounter where
  | check | symbol | framing | longFrame | breaks | clash | undelivered
  deriving DecidableEq, Repr

def LineCounter.code : LineCounter → Nat
  | .check => 0 | .symbol => 1 | .framing => 2 | .longFrame => 3 | .breaks => 4 | .clash => 5 | .undelivered => 6

/-- One up, and 0 after 4,294,967,295 (R154). -/
def countUp (n : Nat) : Nat := if Config.top32 ≤ n then 0 else n + 1

def LineErrors.bump (e : LineErrors) : LineCounter → LineErrors
  | .check => { e with check := countUp e.check }
  | .symbol => { e with symbol := countUp e.symbol }
  | .framing => { e with framing := countUp e.framing }
  | .longFrame => { e with longFrame := countUp e.longFrame }
  | .breaks => { e with breaks := countUp e.breaks }
  | .clash => { e with clash := countUp e.clash }
  | .undelivered => { e with undelivered := countUp e.undelivered }

/-- A counter of port `p` goes up by 1 and LINK_ERROR is raised, its detail naming the port and the counter (R154). -/
def countError (p : Port) (c : LineCounter) (s : State) : State :=
  raisePair .linkError (portCode p) c.code (s.setErrors p ((s.port p).errors.bump c))

/-- The trunk's check counter goes up and LINK_ERROR is raised with port TRUNK (R188, R197). -/
def countTrunkCheck (s : State) : State :=
  raisePair .linkError 2 0 (s.setTrunk { s.trunk with check := countUp s.trunk.check })

/-- The trunk's framing counter goes up and LINK_ERROR is raised (R188, R197). -/
def countTrunkFraming (s : State) : State :=
  raisePair .linkError 2 2 (s.setTrunk { s.trunk with framing := countUp s.trunk.framing })

/-- The trunk's overrun counter goes up and LINK_ERROR is raised (R189, R197). -/
def countTrunkOverrun (s : State) : State :=
  raisePair .linkError 2 7 (s.setTrunk { s.trunk with overrun := countUp s.trunk.overrun })

/-- QUEUE_FULL is raised: the port, and the queue lacking a place, UPLINK 0 or OUTGOING 1 (R172, R197). -/
def raiseQueueFull (p : Port) (outgoing : Bool) (s : State) : State :=
  raisePair .queueFull (portCode p) (if outgoing then 1 else 0) s

/-! ## Reading and managing events (R184 to R186) -/

/-- The selection that names the events satisfying `p`: bit n − 1 for the event of code n (R197). -/
def selectionOf (p : Event → Bool) : Nat :=
  Event.all.foldl (fun n e => if p e then n + 2 ^ (e.code - 1) else n) 0

/-- Whether a selection names an event. -/
def selects (sel : Nat) (e : Event) : Bool := sel.testBit (e.code - 1)

/-- CLEAR_EVENTS: a selected direct event stops being pending and its count becomes 0; a selected indirect event's count becomes 0;
the details are kept (R185). -/
def clearSelected (sel : Nat) (s : State) : State :=
  Event.all.foldl (fun s e =>
    if selects sel e then
      s.setEvents (put s.events e.row
        { s.event e with pending := (s.event e).pending && e.indirect, count := 0 })
    else s) s

/-- EVENT_ENABLE: the enable of each selected event is set to the value (R186). -/
def enableSelected (sel : Nat) (value : Bool) (s : State) : State :=
  Event.all.foldl (fun s e =>
    if selects sel e then s.setEvents (put s.events e.row { s.event e with enable := value }) else s) s

/-- One event record in a reply: pending, enable, detail, count (R184, R197). -/
def eventBytes (r : EventRec) : List Byte :=
  [flagByte r.pending, flagByte r.enable] ++ be 4 r.detail.toNat ++ be 1 r.count

/-- The data of EVENTS_READ: the 26 records, the seven summaries, the vector (R184). -/
def eventsData (s : State) : List Byte :=
  Event.all.flatMap (fun e => eventBytes (s.event e)) ++ EventClass.all.map (fun c => flagByte (summary s c)) ++ be 1 s.vector

/-- The summaries byte of ATTENTION: bit 0 DAY to bit 6 HANDOVER (R197). -/
def summariesByte (s : State) : Byte :=
  BitVec.ofNat 8 (EventClass.all.foldr (fun c n => 2 * n + (summary s c).toNat) 0)

end Sys2Proof.Machine
end

