-- ==== Sys2Proof/Machine/Stock.lean ====
section
/-! DEFINITION. The Stock Unit: holdings, face order, additions, draws, reservations, accumulators (chapter 1). -/

namespace Sys2Proof.Machine

/-! ## Quantities -/

/-- Held: loose plus straps times the strap size (R9). -/
def held (d : Denom) (r : StockRec) : Nat := r.loose + r.straps * d.strap

/-- Held of a code. -/
def State.heldOf (s : State) (c : Fin 12) : Nat := held s.denoms[c] s.stock[c]

/-- Free: held less reserved (R9). -/
def State.freeOf (s : State) (c : Fin 12) : Nat := s.heldOf c - s.stock[c].reserved

/-- The value of a count for each code, at the faces in force. -/
def State.valueOf (s : State) (counts : Vector Nat 12) : Nat := sumCodes fun c => counts[c] * s.denoms[c].face

/-- The holding value: held times face over the enabled codes, without saturation (R21). -/
def holdingValue (s : State) : Nat :=
  sumCodes fun c => if s.denoms[c].enabled then s.heldOf c * s.denoms[c].face else 0

/-- A code put into a list in descending face value, behind the codes of the same face. -/
def insertFace (s : State) (c : Fin 12) : List (Fin 12) → List (Fin 12)
  | [] => [c]
  | d :: rest => if s.denoms[c].face ≤ s.denoms[d].face then d :: insertFace s c rest else c :: d :: rest

/-- Face order: the enabled codes from the highest face value to the lowest (R8). -/
def faceOrder (s : State) : List (Fin 12) :=
  (codes.filter fun c => s.denoms[c].enabled).foldl (fun l c => insertFace s c l) []

/-- The codes in the order of the STOCK lines: the enabled ones in face order, then the disabled ones in code order (R9, R192). Work that reads
all twelve codes in turn goes in this order (R8). -/
def stockOrder (s : State) : List (Fin 12) := faceOrder s ++ codes.filter fun c => !s.denoms[c].enabled

/-! ## Accumulators (R20) -/

/-- An amount added to the counted-in accumulator. -/
def addCountedIn (v : Nat) (s : State) : State :=
  s.setAcc { s.acc with countedIn := (satNat (s.acc.countedIn + v)).1
                        saturated := s.acc.saturated || (satNat (s.acc.countedIn + v)).2 }

/-- An amount added to the restocked accumulator. -/
def addRestocked (v : Nat) (s : State) : State :=
  s.setAcc { s.acc with restocked := (satNat (s.acc.restocked + v)).1
                        saturated := s.acc.saturated || (satNat (s.acc.restocked + v)).2 }

/-- An amount added to the made-up accumulator. -/
def addMadeUp (v : Nat) (s : State) : State :=
  s.setAcc { s.acc with madeUp := (satNat (s.acc.madeUp + v)).1
                        saturated := s.acc.saturated || (satNat (s.acc.madeUp + v)).2 }

/-- A signed amount added to the adjustment accumulator. -/
def addAdjustment (v : Int) (s : State) : State :=
  s.setAcc { s.acc with adjustment := (satInt (s.acc.adjustment + v)).1
                        saturated := s.acc.saturated || (satInt (s.acc.adjustment + v)).2 }

/-- DAY_OPEN at the stock: the opening value takes the holding value, the other four are 0, and the flag is clear unless the
holding value is above the range (R20). -/
def openAccumulators (s : State) : State :=
  s.setAcc { opening := (satNat (holdingValue s)).1, countedIn := 0, restocked := 0, madeUp := 0, adjustment := 0
             saturated := (satNat (holdingValue s)).2 }

/-! ## Additions (R12, R13) -/

/-- Pieces added to loose, with the carry into straps (R12). A count of 0 is no addition. -/
def addPieces (d : Denom) (r : StockRec) (n : Nat) : StockRec :=
  if n = 0 then r
  else { r with loose := (r.loose + n) % d.strap, straps := r.straps + (r.loose + n) / d.strap }

/-- An addition that would pass the range of a count: loose in its course, or straps after the carry (R12). -/
def additionRefused (d : Denom) (r : StockRec) (n : Nat) : Bool :=
  decide (n ≠ 0) && (decide (Config.top32 < r.loose + n) || decide (Config.top32 < r.straps + (r.loose + n) / d.strap))

/-- The stock after counts are added to loose for every code (R12). -/
def addAll (s : State) (counts : Vector Nat 12) : State :=
  s.setStock (Vector.ofFn fun c => addPieces s.denoms[c] s.stock[c] counts[c])

/-- The first code, in face order, whose addition is refused (R8, R12). -/
def firstRefused (s : State) (counts : Vector Nat 12) : Option (Fin 12) :=
  (stockOrder s).find? fun c => additionRefused s.denoms[c] s.stock[c] counts[c]

/-- The first code, in face order, that a close request is refused for: its addition, or its suspect hold (R8, R13). R106 names the
first code whose stock addition is refused; that a code whose suspect hold alone would pass its top is named too, in its own place
of that order, is the model's choice (log entry 23). -/
def closeRefused (s : State) (accepted suspect : Vector Nat 12) : Option (Fin 12) :=
  (stockOrder s).find? fun c => additionRefused s.denoms[c] s.stock[c] accepted[c] ||
    decide (Config.top32 < s.stock[c].suspect + suspect[c])

/-- A close request: accepted counts into loose with carry, suspect counts into the hold, the accepted value into counted-in
(R13). -/
def applyClose (accepted suspect : Vector Nat 12) (value : Nat) (s : State) : State :=
  addCountedIn value (s.setStock (Vector.ofFn fun c =>
    { addPieces s.denoms[c] s.stock[c] accepted[c] with suspect := s.stock[c].suspect + suspect[c] }))

/-! ## Draws and reservations (R10, R14, R16) -/

/-- Straps broken to bring loose up to a count (R14, step 1). -/
def strapsBroken (d : Denom) (r : StockRec) (n : Nat) : Nat := (n - r.loose + d.strap - 1) / d.strap

/-- A float draw of `n` pieces: straps are broken while loose is below `n`, then loose and reserved fall by `n` (R14). -/
def drawPieces (d : Denom) (r : StockRec) (n : Nat) : StockRec :=
  { r with loose := r.loose + strapsBroken d r n * d.strap - n
           straps := r.straps - strapsBroken d r n
           reserved := r.reserved - n }

/-- The float draw of an order's issue counts, its value into made-up (R14). -/
def drawFloat (issue : Vector Nat 12) (value : Nat) (s : State) : State :=
  addMadeUp value (s.setStock (Vector.ofFn fun c => drawPieces s.denoms[c] s.stock[c] issue[c]))

/-- A reserve request (R10). -/
def reserve (issue : Vector Nat 12) (s : State) : State :=
  s.setStock (Vector.ofFn fun c => { s.stock[c] with reserved := s.stock[c].reserved + issue[c] })

/-- A release request (R10). -/
def release (issue : Vector Nat 12) (s : State) : State :=
  s.setStock (Vector.ofFn fun c => { s.stock[c] with reserved := s.stock[c].reserved - issue[c] })

/-- Whole straps of a consignment's counts leave stock, its value into made-up (R16). -/
def drawStraps (counts : Vector Nat 12) (value : Nat) (s : State) : State :=
  addMadeUp value (s.setStock (Vector.ofFn fun c =>
    { s.stock[c] with straps := s.stock[c].straps - counts[c] / s.denoms[c].strap }))

/-! ## Whether a code is in use (R7) -/

/-- The terminal bag states (section 2.3). -/
def BagState.terminal : BagState → Bool
  | .counted => true | .delivered => true | .handedOver => true | .restocked => true
  | .sealed => false | .received => false | .inSafe => false | .outForCount => false | .counting => false
  | .countSuspended => false | .madeUp => false | .inHandling => false | .loaded => false | .hatchHeld => false

/-- A bag's count of a code, 0 where it carries no counts. -/
def Bag.countOf (b : Bag) (c : Fin 12) : Nat :=
  match b.counts with
  | some v => v[c]
  | none => 0

/-- A code is in use while stock, a bag that is not terminal, or a session that is not IDLE holds some of it (R7). -/
def inUse (s : State) (c : Fin 12) : Bool :=
  decide (0 < s.heldOf c) || decide (0 < s.stock[c].reserved) || decide (0 < s.stock[c].suspect) ||
  (s.bags.any fun b => !b.state.terminal && decide (0 < b.countOf c)) ||
  anyRow (fun (x : Session) => decide (x.state ≠ .idle) && (decide (0 < x.accepted[c]) || decide (0 < x.suspect[c])))
    s.sessions

end Sys2Proof.Machine
end

