-- ==== Sys2Proof/Machine/Bags.lean ====
section
/-! DEFINITION. The Bag Register: creation, the transitions and their refusals, pins, the unsigned flag, the night purge (chapter 2). -/

namespace Sys2Proof.Machine

/-- The record that holds a seal (R25: at most one does). -/
def findBag (s : State) (n : Nat) : Option Bag := s.bags.find? fun b => b.sealNo = n

/-- Whether the record of a seal is in a state. -/
def bagIn (s : State) (n : Nat) (st : BagState) : Bool :=
  match findBag s n with
  | some b => decide (b.state = st)
  | none => false

/-- The record of a seal replaced by `f` of it. -/
def changeBag (n : Nat) (f : Bag → Bag) (s : State) : State :=
  s.setBags (s.bags.map fun b => if b.sealNo = n then f b else b)

/-- A record in a new state, its entry second reset to the seconds timer (R27). -/
def Bag.moved (b : Bag) (st : BagState) (now : Nat) : Bag := { b with state := st, entered := now }

/-- PICKUP, CASHUP and INBOUND bags: the kinds whose contents are counted. -/
def BagKind.counted : BagKind → Bool
  | .pickup => true | .cashup => true | .inbound => true
  | .floatBag => false | .consignment => false

/-! ## Creation (R24 to R26) -/

/-- The first failing check of a create, if one fails (R25). -/
def createCheck (s : State) (n declared : Nat) : Option Code :=
  if n = 0 then some .malformed
  else if declared = 0 then some .malformed
  else if Config.topBagValue < declared then some .valueRange
  else if (findBag s n).isSome then some .sealInUse
  else if Config.bagCapacity ≤ s.bags.length then some .registerFull
  else none

/-- A new record: its day number and entry second are those of the taking, its unsigned flag is clear, and pin, session and
count figures are absent (R26). -/
def newBag (s : State) (kind : BagKind) (st : BagState) (n declared : Nat) (till : Option (Fin 160))
    (order : Option (Fin 24)) (counts : Option (Vector Nat 12)) : Bag :=
  { sealNo := n, kind := kind, state := st, till := till, order := order, pin := none, session := none
    declared := declared, counts := counts, counted := none, suspect := none, variance := none, cls := none
    unsigned := false, day := s.day.number, entered := s.seconds }

/-- A record added behind the ones present (R26, R38). -/
def addBag (b : Bag) (s : State) : State := s.setBags (s.bags ++ [b])

/-! ## Transitions (R27 to R32)

Each takes the record as it stands and answers its new self or the refusal. -/

/-- The answer of a transition request: UNKNOWN_BAG, the refusal of the transition, or the state with the record moved (R27). -/
def transition (n : Nat) (move : Bag → Except Code Bag) (s : State) : Except Code State :=
  match findBag s n with
  | none => .error .unknownBag
  | some b =>
    match move b with
    | .error c => .error c
    | .ok b' => .ok (changeBag n (fun _ => b') s)

/-- DROP (R28). -/
def moveDrop (now : Nat) (b : Bag) : Except Code Bag :=
  if b.kind.counted && (b.state = .sealed || b.state = .received) then .ok (b.moved .inSafe now)
  else .error .wrongBagState

/-- DEPOSIT (R28, R29, R31): from IN_HANDLING the pin is kept, from HATCH_HELD it is cleared. -/
def moveDeposit (now : Nat) (b : Bag) : Except Code Bag :=
  if b.state = .hatchHeld then .ok { b.moved .inSafe now with pin := none }
  else if b.kind.counted && (b.state = .sealed || b.state = .received || b.state = .outForCount) then
    .ok (b.moved .inSafe now)
  else if !b.kind.counted && b.state = .madeUp then .ok (b.moved .inSafe now)
  else if b.kind = .consignment && b.state = .inHandling then .ok (b.moved .inSafe now)
  else .error .wrongBagState

/-- The handover session is active on a slot (R29, R124). -/
def Handover.activeOn (h : Handover) (slot : Fin 16) : Bool := decide (h.phase ≠ .idle) && decide (h.slot = some slot)

/-- WITHDRAW (R28, R29). -/
def moveWithdraw (h : Handover) (now : Nat) (b : Bag) : Except Code Bag :=
  if b.state ≠ .inSafe then .error .wrongBagState
  else match b.kind with
    | .pickup => .ok (b.moved .outForCount now)
    | .cashup => .ok (b.moved .outForCount now)
    | .inbound => .ok (b.moved .outForCount now)
    | .floatBag => .ok (b.moved .madeUp now)
    | .consignment =>
      match b.pin with
      | none => .ok (b.moved .madeUp now)
      | some slot => if h.activeOn slot then .ok (b.moved .inHandling now) else .error .pinned

/-- BAG_OPEN by a session (R30): the pin is checked before the state. -/
def moveOpen (x : Fin 4) (now : Nat) (b : Bag) : Except Code Bag :=
  if b.pin.isSome then .error .pinned
  else if b.state = .outForCount then .ok { b.moved .counting now with session := some x }
  else if b.state = .countSuspended && b.session = some x then .ok (b.moved .counting now)
  else .error .wrongBagState

/-- Suspend on the idle timeout (R30). -/
def moveSuspend (now : Nat) (b : Bag) : Except Code Bag :=
  if b.state = .counting then .ok (b.moved .countSuspended now) else .error .wrongBagState

/-- Abort of a count by its session (R30). -/
def moveAbort (x : Fin 4) (now : Nat) (b : Bag) : Except Code Bag :=
  if (b.state = .counting || b.state = .countSuspended) && b.session = some x then
    .ok { b.moved .outForCount now with session := none }
  else .error .wrongBagState

/-- Close of a count by its session, with the four figures (R30, R107). -/
def moveClose (x : Fin 4) (counted suspect : Nat) (variance : Int) (cls : BagClass) (now : Nat) (b : Bag) :
    Except Code Bag :=
  if b.state = .counting && b.session = some x then
    .ok { b.moved .counted now with
          session := none, counted := some counted, suspect := some suspect, variance := some variance, cls := some cls }
  else .error .wrongBagState

/-- LOAD (R31). -/
def moveLoad (now : Nat) (b : Bag) : Except Code Bag :=
  if b.state = .inHandling then .ok (b.moved .loaded now) else .error .wrongBagState

/-- HATCH_RELEASE (R31). -/
def moveHatchRelease (now : Nat) (b : Bag) : Except Code Bag :=
  if b.state = .hatchHeld then .ok { b.moved .handedOver now with pin := none } else .error .wrongBagState

/-- Receipt of a float bag (R32). -/
def moveReceipt (now : Nat) (b : Bag) : Except Code Bag :=
  if b.kind = .floatBag && b.state = .madeUp then .ok (b.moved .delivered now) else .error .wrongBagState

/-- Restock (R32). -/
def moveRestock (now : Nat) (b : Bag) : Except Code Bag :=
  if !b.kind.counted && b.state = .madeUp then .ok (b.moved .restocked now) else .error .wrongBagState

/-- The sign: every LOADED bag among the seals becomes HANDED_OVER, keeping its pin (R31). -/
def signBags (seals : List Nat) (s : State) : State :=
  s.setBags (s.bags.map fun b =>
    if seals.contains b.sealNo && b.state = .loaded then b.moved .handedOver s.seconds else b)

/-- The abort of a handover: LOADED bags among the seals become HATCH_HELD keeping their pins, IN_HANDLING bags MADE_UP losing
theirs (R31). -/
def abortBags (seals : List Nat) (s : State) : State :=
  s.setBags (s.bags.map fun b =>
    if seals.contains b.sealNo && b.state = .loaded then b.moved .hatchHeld s.seconds
    else if seals.contains b.sealNo && b.state = .inHandling then { b.moved .madeUp s.seconds with pin := none }
    else b)

/-- The unsigned flag is set on every record of the seals (R35). -/
def flagUnsigned (seals : List Nat) (s : State) : State :=
  s.setBags (s.bags.map fun b => if seals.contains b.sealNo then { b with unsigned := true } else b)

/-! ## Pins (R33, R34) -/

/-- The first seal of a pin request that fails, with the answer (R33). `earlier` holds the seals already passed. -/
def pinCheck (s : State) : List Nat → List Nat → Option (Code × Nat)
  | _, [] => none
  | earlier, n :: rest =>
    match findBag s n with
    | none => some (.unknownBag, n)
    | some b =>
      if ¬(b.kind = .consignment ∧ b.state = .inSafe) then some (.wrongBagState, n)
      else if b.pin.isSome then some (.pinned, n)
      else if earlier.contains n then some (.malformed, n)
      else pinCheck s (n :: earlier) rest

/-- The records of the seals are pinned to a slot (R33). -/
def pinBags (slot : Fin 16) (seals : List Nat) (s : State) : State :=
  s.setBags (s.bags.map fun b => if seals.contains b.sealNo then { b with pin := some slot } else b)

/-- A descriptor return clears the slot's pin on IN_SAFE and HANDED_OVER records (R34). -/
def unpinReturned (slot : Fin 16) (s : State) : State :=
  s.setBags (s.bags.map fun b =>
    if b.pin = some slot && (b.state = .inSafe || b.state = .handedOver) then { b with pin := none } else b)

/-- A recall clears the slot's pin on IN_SAFE records (R34). -/
def unpinRecalled (slot : Fin 16) (s : State) : State :=
  s.setBags (s.bags.map fun b => if b.pin = some slot && b.state = .inSafe then { b with pin := none } else b)

/-! ## The night purge (R37) -/

/-- Records in a state. -/
def countState (s : State) (st : BagState) : Nat := (s.bags.filter fun b => b.state = st).length

/-- Every record in a terminal state is removed; the others keep their order (R37, R38). -/
def purge (s : State) : State := s.setBags (s.bags.filter fun b => !b.state.terminal)

end Sys2Proof.Machine
end

