-- ==== Sys2Proof/Machine/Operands.lean ====
section
/-! DEFINITION. The operands of frames and requests: a taken frame, and the byte layouts of line bodies and request fields (R197). -/

namespace Sys2Proof.Machine

/-- A frame as its job rule sees it: port, header and body, CRC field, gathered marks in window order, and for a guarded kind the
witness pair that R174 chose (role A, role B). -/
structure Taken where
  port : Port
  frame : LineFrame
  crc : Word16
  marks : List Byte
  pair : Option (Byte × Byte)
  deriving DecidableEq, Repr

/-! ## Runs of numbers -/

/-- Numbers of the given widths in bytes, and the bytes after them. -/
def leadFields : List Nat → List Byte → Option (List Nat × List Byte)
  | [], bs => some ([], bs)
  | w :: ws, bs =>
    match takeNat w bs with
    | none => none
    | some (x, bs) =>
      match leadFields ws bs with
      | none => none
      | some (xs, bs) => some (x :: xs, bs)

/-- Numbers of the given widths that make up the whole body. -/
def exactFields (ws : List Nat) (bs : List Byte) : Option (List Nat) :=
  match leadFields ws bs with
  | some (xs, []) => some xs
  | _ => none

/-- `n` pairs of a one-byte code and a `w`-byte count that make up the whole of the bytes. -/
def exactPairs (w : Nat) : Nat → List Byte → Option (List (Nat × Nat))
  | 0, [] => some []
  | 0, _ :: _ => none
  | n + 1, bs =>
    match leadFields [1, w] bs with
    | some ([c, x], rest) => (exactPairs w n rest).map fun ps => (c, x) :: ps
    | _ => none

/-! ## Line bodies (R197) -/

/-- An empty body. -/
def parseEmpty (body : List Byte) : Option Unit := if body = [] then some () else none

/-- TENDER: sequence, received, change, the amounts 0 to 999,999,999 (R44, R47). -/
def parseTender (body : List Byte) : Option (Nat × Nat × Nat) :=
  match exactFields [2, 4, 4] body with
  | some [q, r, c] => if r ≤ Config.topBagValue ∧ c ≤ Config.topBagValue then some (q, r, c) else none
  | _ => none

/-- REFUND: sequence, amount paid out, 0 to 999,999,999 (R44, R48). -/
def parseRefund (body : List Byte) : Option (Nat × Nat) :=
  match exactFields [2, 4] body with
  | some [q, a] => if a ≤ Config.topBagValue then some (q, a) else none
  | _ => none

/-- PICKUP and CASHUP: sequence, seal, declared value (R52, R53). -/
def parseSkim (body : List Byte) : Option (Nat × Nat × Nat) :=
  match exactFields [2, 4, 4] body with
  | some [q, n, v] => some (q, n, v)
  | _ => none

/-- FLOAT_RECEIPT: sequence, seal (R72). -/
def parseReceipt (body : List Byte) : Option (Nat × Nat) :=
  match exactFields [2, 4] body with
  | some [q, n] => some (q, n)
  | _ => none

/-- Pairs whose codes are codes of the denomination table. -/
def codedPairs (ps : List (Nat × Nat)) : Option (List (Fin 12 × Nat)) :=
  ps.mapM fun p => (inRange 12 p.1).map fun c => (c, p.2)

/-- DECLARE: sequence, pair count, pairs of code 0 to 11 and count 0 to 9,999 (R61). -/
def parseDeclare (body : List Byte) : Option (Nat × List (Fin 12 × Nat)) :=
  match leadFields [2, 1] body with
  | some ([q, n], rest) =>
    match exactPairs 2 n rest with
    | some ps => if ps.all (fun p => p.2 ≤ 9999) then (codedPairs ps).map fun cs => (q, cs) else none
    | none => none
  | _ => none

/-- A body that is a seal: DROP, WITHDRAW, DEPOSIT, RESTOCK, BAG_OPEN, LOAD. -/
def parseSeal (body : List Byte) : Option Nat :=
  match exactFields [4] body with
  | some [n] => some n
  | _ => none

/-- MAKE_UP of type FLOAT: type, order index, seal, length 6 (R71). -/
def parseMakeUpFloat (body : List Byte) : Option (Nat × Nat) :=
  match exactFields [1, 1, 4] body with
  | some [_, i, n] => some (i, n)
  | _ => none

/-- MAKE_UP of type CONSIGNMENT: type, seal, pair count 0 to 6, pairs of code and count, length 6 + 5n (R15). -/
def parseMakeUpConsignment (body : List Byte) : Option (Nat × List (Nat × Nat)) :=
  match leadFields [1, 4, 1] body with
  | some ([_, n, k], rest) => if k ≤ 6 then (exactPairs 4 k rest).map fun ps => (n, ps) else none
  | _ => none

/-- BATCH: code, accepted, suspect, rejected (R104). -/
def parseBatch (body : List Byte) : Option (Nat × Nat × Nat × Nat) :=
  match exactFields [1, 2, 2, 2] body with
  | some [c, a, b, r] => some (c, a, b, r)
  | _ => none

/-- HAND_KEY: session number, code, count, resolves flag and outcome SUSPECT (R105). -/
def parseHandKey (body : List Byte) : Option (Nat × Nat × Nat × Bool × Bool) :=
  match exactFields [1, 1, 2, 1] body with
  | some [x, c, n, f] => some (x, c, n, f.testBit 0, f.testBit 1)
  | _ => none

/-- ANNOUNCE: courier id (R125). -/
def parseAnnounce (body : List Byte) : Option Nat := parseSeal body

/-- RECEIVE: seal, declared value (R130). -/
def parseReceive (body : List Byte) : Option (Nat × Nat) :=
  match exactFields [4, 4] body with
  | some [n, v] => some (n, v)
  | _ => none

/-- COUNT_ABORT from a CONSOLE: session number (R109). -/
def parseSessionNumber (body : List Byte) : Option Nat :=
  match exactFields [1] body with
  | some [x] => some x
  | _ => none

/-! ## Frames the part sends (R165, R197) -/

/-- The part's own identity on every port. -/
def partNode : Byte := 0x01

/-- The priority byte of VERDICT and SAFE_COMMAND (priority 1, mode ONE), ADVICE (2, ONE) and CALL (3, NONE). -/
def pbVerdict : Byte := 0x28
def pbAdvice : Byte := 0x48
def pbCall : Byte := 0x60

/-- VERDICT: answered kind, answered CRC, code, detail (R175). -/
def verdictFrame (kind : Byte) (crc : Word16) (dest : Byte) (code : Code) (detail : Word32) : LineFrame :=
  { pb := pbVerdict, kind := kindVerdict, dest := dest, src := partNode
    body := kind :: (be 2 crc.toNat ++ code.byte :: be 4 detail.toNat) }

/-- ADVICE to a till node (R70). -/
def adviceFrame (dest : Byte) (body : List Byte) : LineFrame :=
  { pb := pbAdvice, kind := kindAdvice, dest := dest, src := partNode, body := body }

/-- CALL: till number and surplus, a broadcast (R51). -/
def callFrame (t : Fin 160) (surplus : Int) : LineFrame :=
  { pb := pbCall, kind := kindCall, dest := 0xFF, src := partNode
    body := BitVec.ofNat 8 t.val :: beInt 4 surplus }

/-- SAFE_COMMAND: the commanded state (R93). -/
def safeCommandFrame (dest : Byte) (c : BoltCommand) : LineFrame :=
  { pb := pbVerdict, kind := kindSafeCommand, dest := dest, src := partNode, body := [BitVec.ofNat 8 c.code] }

/-! ## The node table (R168) -/

/-- The row of a node identity from 0x02 to 0xFD. -/
def nodeRow (b : Byte) : Option (Fin 252) := if 2 ≤ b.toNat then inRange 252 (b.toNat - 2) else none

/-- The node table entry of an identity, where the table has one. -/
def State.node (s : State) (b : Byte) : Option Node := (nodeRow b).map fun i => s.nodes[i]

/-- The line a port serves. -/
def lineOf : Port → NodePort
  | .floor => .floor
  | .room => .room

/-- Registered on a port: enabled, and on that port (R168). -/
def registeredOn (s : State) (p : Port) (b : Byte) : Bool :=
  match s.node b with
  | some n => n.enabled && decide (n.port = lineOf p)
  | none => false

/-- The role of an identity, where it has an entry. -/
def roleOf (s : State) (b : Byte) : Option Role := (s.node b).map fun n => n.role

/-- The till number that the node table gives an identity (R44, R168). -/
def tillOf (s : State) (b : Byte) : Fin 160 :=
  match s.node b with
  | some n => n.till
  | none => 0

/-- The session slot that the node table gives an identity (R100, R168). -/
def slotOf (s : State) (b : Byte) : Fin 4 :=
  match s.node b with
  | some n => n.slot
  | none => 0

end Sys2Proof.Machine
end

