-- ==== Sys2Proof/Machine/Drawers.lean ====
section
/-! DEFINITION. The Drawer Monitor: movements, HOLD, pickup-due and CALL, the steps of a till frame, and the job rules of TENDER, REFUND,
PICKUP, CASHUP and TILL_OPEN (chapter 3). -/

namespace Sys2Proof.Machine

/-! ## Movements (R46) -/

/-- The drawer record of a till replaced. -/
def setDrawer (t : Fin 160) (d : Drawer) (s : State) : State := s.setDrawers (put s.drawers t d)

/-- A drawer whose expected cash changes by `delta`; the flag is set if it or the sum of the movement was held at an end. -/
def Drawer.shift (d : Drawer) (delta : Int) (held : Bool) : Drawer :=
  { d with expected := (satInt (d.expected + delta)).1
           saturated := d.saturated || held || (satInt (d.expected + delta)).2 }

/-- A tender applied: net tendered and expected cash take the net amount (R46, R47). -/
def Drawer.tendered (d : Drawer) (amount : Int) : Drawer :=
  Drawer.shift { d with netTendered := (satInt (d.netTendered + amount)).1 } amount (satInt (d.netTendered + amount)).2

/-- A refund applied (R46, R48). -/
def Drawer.refunded (d : Drawer) (amount : Nat) : Drawer :=
  Drawer.shift { d with refunds := (satNat (d.refunds + amount)).1 } (-amount) (satNat (d.refunds + amount)).2

/-- A pickup applied; the pickup count rises by 1 (R46, R52). -/
def Drawer.pickedUp (d : Drawer) (declared : Nat) : Drawer :=
  Drawer.shift { d with pickups := (satNat (d.pickups + declared)).1, pickupCount := min 65535 (d.pickupCount + 1) }
    (-declared) (satNat (d.pickups + declared)).2

/-- A cash-up applied: the difference is recorded and the drawer enters CASHED_UP (R46, R53). -/
def Drawer.cashedUpWith (d : Drawer) (declared : Nat) : Drawer :=
  Drawer.shift { d with cashup := (satNat (d.cashup + declared)).1
                        cashupDiff := some (satInt (d.expected - declared)).1
                        state := .cashedUp } (-declared) (satNat (d.cashup + declared)).2

/-- A float received; a CLOSED drawer enters FLOATED (R46, R55). -/
def Drawer.receivedFloat (d : Drawer) (value : Nat) : Drawer :=
  Drawer.shift { d with floatDelivered := (satNat (d.floatDelivered + value)).1
                        state := if d.state = .closed then .floated else d.state }
    value (satNat (d.floatDelivered + value)).2

/-- A drawer takes its new record; EXPECTED_SATURATED is raised if the saturated flag goes from clear to set (R46). -/
def applyMovement (t : Fin 160) (f : Drawer → Drawer) (s : State) : State :=
  if !s.drawers[t].saturated && (f s.drawers[t]).saturated then
    raiseNum .expectedSaturated t.val (setDrawer t (f s.drawers[t]) s)
  else setDrawer t (f s.drawers[t]) s

/-! ## HOLD and pickup calls (R49 to R51) -/

/-- A frame of the part's own placed in a FREE place of a port's outgoing queue (R161). -/
def placeOut (p : Port) (f : LineFrame) (s : State) : Option State :=
  match (s.port p).out.place f with
  | some q => some (s.setOut p q)
  | none => none

/-- The surplus: expected cash less the till's target value, exactly (R50). -/
def surplus (s : State) (t : Fin 160) : Int := s.drawers[t].expected - s.tills[t].targetValue

/-- Expected cash against the hard limit: a drawer in OPEN at or above it enters HOLD, one in HOLD below it returns to OPEN (R49). -/
def compareHold (t : Fin 160) (s : State) : State :=
  let d := s.drawers[t]
  if d.state = .opened ∧ (s.tills[t].hardLimit : Int) ≤ d.expected then
    raiseNum .drawerHold t.val (setDrawer t { d with state := .hold } s)
  else if d.state = .hold ∧ d.expected < s.tills[t].hardLimit then
    setDrawer t { d with state := .opened } s
  else s

/-- A drawer's pickup is due: it is in OPEN or HOLD and its surplus is at or above the skim level (R50). -/
def pickupDue (s : State) (t : Fin 160) : Bool :=
  (s.drawers[t].state = .opened || s.drawers[t].state = .hold) && decide ((s.tills[t].skimLevel : Int) ≤ surplus s t)

/-- A CALL is placed in the Floor Port's outgoing queue, or QUEUE_FULL is raised (R51). -/
def placeCall (t : Fin 160) (s : State) : State :=
  match placeOut .floor (callFrame t (surplus s t)) s with
  | some s' => s'
  | none => raiseQueueFull .floor true s

/-- The pickup-due flag follows R50; going from clear to set it raises PICKUP_DUE and sends a CALL (R51, R181). -/
def comparePickup (t : Fin 160) (s : State) : State :=
  if pickupDue s t && !s.drawers[t].due then
    placeCall t (raiseNum .pickupDue t.val (setDrawer t { s.drawers[t] with due := true } s))
  else setDrawer t { s.drawers[t] with due := pickupDue s t } s

/-- A drawer is re-evaluated after a change to its expected cash or state (R49, R50). -/
def reevaluate (t : Fin 160) (s : State) : State := comparePickup t (compareHold t s)

/-- A drawer enters SUSPENDED; its pickup-due flag clears (R57). -/
def suspendDrawer (d : Drawer) : Drawer := { d with state := .suspended, due := false }

/-! ## The steps of a till frame (R44, R45) -/

/-- The drawer states in which a kind is applied; a CLOSED drawer takes a DECLARE in OPENING only (R44, R61). -/
def appliedIn (k : JobKind) (day : DayState) (d : DrawerState) : Bool :=
  match k with
  | .tender | .refund | .pickup | .cashup => d = .opened || d = .hold
  | .tillOpen => d = .floated || d = .opened || d = .hold
  | .floatReceipt => d = .closed || d = .floated || d = .opened || d = .hold
  | .declare => d = .floated || d = .opened || d = .hold || (d = .closed && day = .opening)
  | _ => false

/-- A TENDER or REFUND refused at step 2 or step 5 raises TENDER_UNAPPLIED (R44). -/
def unapplied (k : JobKind) (t : Fin 160) (s : State) : State :=
  if k = .tender ∨ k = .refund then raiseNum .tenderUnapplied t.val s else s

/-- The kinds of which step 3 demands the till entry's badge node (R44). -/
def needsBadge (k : JobKind) : Bool := k = .pickup || k = .cashup || k = .floatReceipt

/-- Step 3 fails: the till entry names a badge node that is not among the gathered marks (R44). -/
def badgeMissing (k : JobKind) (e : TillEntry) (marks : List Byte) : Bool :=
  needsBadge k && decide (e.badge ≠ 0) && !marks.contains e.badge

/-- What step 4 finds (R45). -/
inductive SequenceFinding where
  | duplicate
  | conflict (last : Nat)
  | passes (gap : Nat)
  deriving DecidableEq, Repr

/-- The incoming sequence number and CRC compared with the record; the gap is 0 where none is raised (R45). -/
def sequenceCheck (d : Drawer) (q : Nat) (crc : Word16) : SequenceFinding :=
  match d.lastSeq with
  | none => .passes 0
  | some last =>
    if q = last then (if d.lastCrc = some crc then .duplicate else .conflict last)
    else .passes ((q + 65536 - last - 1) % 65536)

/-- SEQUENCE_GAP with till and gap, where there is a gap (R45, R197). -/
def raiseGap (t : Fin 160) (gap : Nat) (s : State) : State :=
  if gap = 0 then s else raiseNum .sequenceGap (t.val * 65536 + gap) s

/-- A decided frame's sequence number and CRC field are recorded (R45). -/
def recordSequence (t : Fin 160) (q : Nat) (crc : Word16) (s : State) : State :=
  setDrawer t { s.drawers[t] with lastSeq := some q, lastCrc := some crc } s

/-- Steps 5 and 6 of R44. -/
def tillSteps56 (k : JobKind) (t : Fin 160) (job : State → State × Answer) (s : State) : State × Answer :=
  if appliedIn k s.day.state s.drawers[t].state then job s
  else (unapplied k t s, .verdict .wrongTillState (num s.drawers[t].state.code))

/-- Steps 1 to 6 of R44 for a kind whose body parses to `a`, with the sequence number of `a` where the kind carries one. -/
def tillFrame {α : Type} (k : JobKind) (parsed : Option α) (seq : α → Option Nat)
    (copy : Fin 160 → State → Answer) (job : Fin 160 → α → State → State × Answer) (f : Taken) (s : State) :
    State × Answer :=
  match parsed with
  | none => (s, .verdict .malformed (num 0))
  | some a =>
    let t := tillOf s f.frame.src
    if !(s.tills[t].enabled && s.tills[t].node = f.frame.src) then
      (unapplied k t s, .verdict .unknownNode (num t.val))
    else if badgeMissing k s.tills[t] f.marks then
      (s, .verdict .witnessMissing (num s.tills[t].badge.toNat))
    else match seq a with
      | none => tillSteps56 k t (job t a) s
      | some q =>
        match sequenceCheck s.drawers[t] q f.crc with
        | .duplicate => (s, copy t s)
        | .conflict last => (s, .verdict .duplicateConflict (num last))
        | .passes gap => tillSteps56 k t (job t a) (recordSequence t q f.crc (raiseGap t gap s))

/-- The answer to a copy: DUPLICATE with expected cash (R45, R59). -/
def duplicateVerdict (t : Fin 160) (s : State) : Answer := .verdict .duplicate (signed s.drawers[t].expected)

/-- HOLD if the drawer is in HOLD, else ACCEPTED, with expected cash (R47, R59). -/
def drawerAnswer (t : Fin 160) (s : State) : Answer :=
  .verdict (if s.drawers[t].state = .hold then .hold else .accepted) (signed s.drawers[t].expected)

/-- The answer to a create that the register refused: the seal, and 0 for MALFORMED (R59). -/
def createRefusal (c : Code) (n : Nat) : Answer := .verdict c (num (if c = .malformed then 0 else n))

/-! ## Job rules -/

/-- The drawer's part of an applied movement: the record, and its re-evaluation. -/
def moveDrawer (t : Fin 160) (f : Drawer → Drawer) (s : State) : State := reevaluate t (applyMovement t f s)

/-- TENDER (R47). -/
def tenderJob (f : Taken) (s : State) : State × Answer :=
  tillFrame .tender (parseTender f.frame.body) (fun a => some a.1) duplicateVerdict
    (fun t a s =>
      let s' := moveDrawer t (fun d => d.tendered ((a.2.1 : Int) - a.2.2)) s
      (s', drawerAnswer t s')) f s

/-- REFUND (R48). -/
def refundJob (f : Taken) (s : State) : State × Answer :=
  tillFrame .refund (parseRefund f.frame.body) (fun a => some a.1) duplicateVerdict
    (fun t a s =>
      let s' := moveDrawer t (fun d => d.refunded a.2) s
      (s', drawerAnswer t s')) f s

/-- PICKUP (R52): the bag is created and the drawer falls by its declared value, or the register's refusal decides. -/
def pickupJob (f : Taken) (s : State) : State × Answer :=
  tillFrame .pickup (parseSkim f.frame.body) (fun a => some a.1) duplicateVerdict
    (fun t a s =>
      match createCheck s a.2.1 a.2.2 with
      | some c => (s, createRefusal c a.2.1)
      | none =>
        let s' := moveDrawer t (fun d => d.pickedUp a.2.2)
          (addBag (newBag s .pickup .sealed a.2.1 a.2.2 (some t) none none) s)
        (s', drawerAnswer t s')) f s

/-- CASHUP (R53). -/
def cashupJob (f : Taken) (s : State) : State × Answer :=
  tillFrame .cashup (parseSkim f.frame.body) (fun a => some a.1) duplicateVerdict
    (fun t a s =>
      match createCheck s a.2.1 a.2.2 with
      | some c => (s, createRefusal c a.2.1)
      | none =>
        let s' := moveDrawer t (fun d => d.cashedUpWith a.2.2)
          (addBag (newBag s .cashup .sealed a.2.1 a.2.2 (some t) none none) s)
        (s', drawerAnswer t s')) f s

/-- TILL_OPEN (R54). -/
def tillOpenJob (f : Taken) (s : State) : State × Answer :=
  tillFrame .tillOpen (parseEmpty f.frame.body) (fun _ => none) duplicateVerdict
    (fun t _ s =>
      if s.drawers[t].state = .floated then
        let s' := reevaluate t (setDrawer t { s.drawers[t] with state := .opened } s)
        (s', drawerAnswer t s')
      else (s, drawerAnswer t s)) f s

/-! ## Suspension, the trading day, count variance (R56 to R58) -/

/-- DAY_OPEN at a drawer: CLOSED, sums and flags clear, the open order left as it stands (R58). -/
def dayOpenDrawer (d : Drawer) : Drawer := { Drawer.reset with openOrder := d.openOrder }

/-- DAY_CLOSE FORCE at a drawer: FLOATED, OPEN and HOLD become SUSPENDED (R58). -/
def forceDrawer (d : Drawer) : Drawer :=
  if d.state = .floated || d.state = .opened || d.state = .hold then suspendDrawer d else d

/-- A count variance added to a drawer, saturating (R56). -/
def addCountVariance (t : Fin 160) (v : Int) (s : State) : State :=
  setDrawer t { s.drawers[t] with countVariance := (satInt (s.drawers[t].countVariance + v)).1 } s

end Sys2Proof.Machine
end

