-- ==== Sys2Proof/Machine/Count.lean ====
section
/-! DEFINITION. The Count Controller: count sessions, batches, hand keying, the close of a count and its aborts, and the tally counters
(chapter 6). -/

namespace Sys2Proof.Machine

/-- The largest count of a session (R99). -/
def topPieces : Nat := 65535

/-! ## Sessions (R99, R103) -/

/-- A session replaced. -/
def setSession (x : Fin 4) (v : Session) (s : State) : State := s.setSessions (put s.sessions x v)

/-- The second at which an idle timer started now expires (R103). -/
def idleDeadline (s : State) : Option Nat := some (s.seconds + s.timing.idleTimeout)

/-- A session's idle timer restarts from the full length while the session is COUNTING (R103). -/
def restartIdle (x : Fin 4) (s : State) : State :=
  if s.sessions[x].state = .counting then setSession x { s.sessions[x] with timer := idleDeadline s } s else s

/-- A BATCH or BAG_CLOSE that acts on a session: the idle timer restarts when the sender is the session's counter node (R103). -/
def counterActs (x : Fin 4) (node : Byte) (s : State) : State :=
  if s.sessions[x].node = node then restartIdle x s else s

/-- The record of a seal moved where the register accepts the move (R27). -/
def askRegister (n : Nat) (move : Bag → Except Code Bag) (s : State) : State :=
  match transition n move s with
  | .ok s' => s'
  | .error _ => s

/-- A session's state as a detail. -/
def sessionDetail (v : Session) : Option Word32 := num v.state.code

/-- The unsigned flag of a seal's record as a detail (R101). -/
def unsignedDetail (s : State) (n : Nat) : Option Word32 :=
  match findBag s n with
  | some b => num b.unsigned.toNat
  | none => num 0

/-! ## BAG_OPEN (R101, R102) -/

/-- BAG_OPEN to an IDLE session: the register's move, and the session COUNTING with every count 0 (R101). -/
def beginCount (x : Fin 4) (node : Byte) (n : Nat) (s : State) : State × Answer :=
  match findBag s n with
  | none => (s, .verdict .unknownBag (num n))
  | some b =>
    match moveOpen x s.seconds b with
    | .error c => (s, .verdict c (num n))
    | .ok b' =>
      (setSession x { Session.reset with
          state := .counting, bag := n, kind := b.kind, declared := b.declared, node := node, timer := idleDeadline s }
          (changeBag n (fun _ => b') s),
       .verdict .accepted (num b.unsigned.toNat))

/-- A resume: the record returns to COUNTING, the sender becomes the counter node, every count stands (R102). -/
def resumeCount (x : Fin 4) (node : Byte) (n : Nat) (s : State) : State × Answer :=
  (setSession x { s.sessions[x] with state := .counting, node := node, timer := idleDeadline s }
      (askRegister n (moveOpen x s.seconds) s),
   .verdict .accepted (unsignedDetail s n))

/-- BAG_OPEN by the session's state, its bag and its counter node (R101, R102). -/
def bagOpenRule (x : Fin 4) (node : Byte) (n : Nat) (s : State) : State × Answer :=
  match s.sessions[x].state with
  | .idle => beginCount x node n s
  | .counting =>
    if n = s.sessions[x].bag ∧ node = s.sessions[x].node then
      (restartIdle x s, .verdict .accepted (unsignedDetail s n))
    else (s, .verdict .sessionBusy (num s.sessions[x].bag))
  | .suspended =>
    if n = s.sessions[x].bag then resumeCount x node n s
    else (s, .verdict .sessionBusy (num s.sessions[x].bag))

/-- BAG_OPEN (R101, R102). A body of another length is refused MALFORMED (log entry 7). -/
def bagOpenJob (f : Taken) (s : State) : State × Answer :=
  match parseSeal f.frame.body with
  | none => (s, .verdict .malformed none)
  | some n => bagOpenRule (slotOf s f.frame.src) f.frame.src n s

/-! ## BATCH (R104) -/

/-- A session with a batch of a code added. -/
def Session.batched (v : Session) (c : Fin 12) (a u r value : Nat) : Session :=
  { v with accepted := put v.accepted c (v.accepted[c] + a)
           suspect := put v.suspect c (v.suspect[c] + u)
           rejected := put v.rejected c (v.rejected[c] + r)
           unresolved := v.unresolved + r
           total := v.total + value }

/-- One of the four counts of a batch would pass 65,535 (R104). -/
def batchOverflows (v : Session) (c : Fin 12) (a u r : Nat) : Bool :=
  decide (topPieces < v.accepted[c] + a) || decide (topPieces < v.suspect[c] + u) ||
  decide (topPieces < v.rejected[c] + r) || decide (topPieces < v.unresolved + r)

/-- The checks of R104 in their order, and the batch applied. -/
def batchRule (x : Fin 4) (node : Byte) (k a u r : Nat) (s : State) : State × Answer :=
  let v := s.sessions[x]
  if 500 < a ∨ 500 < u ∨ 500 < r then (s, .verdict .malformed (num 0))
  else if v.state ≠ .counting then (s, .verdict .wrongBagState (sessionDetail v))
  else if v.node ≠ node then (s, .verdict .sessionBusy (num v.bag))
  else match inRange 12 k with
    | none => (s, .verdict .malformed (num k))
    | some c =>
      if ¬(s.denoms[c].enabled ∧ s.denoms[c].kind = .note) then (s, .verdict .malformed (num k))
      else if batchOverflows v c a u r then (s, .verdict .countLimit (num k))
      else if Config.topBagValue < v.total + (a + u) * s.denoms[c].face then (s, .verdict .valueRange (num v.total))
      else
        (setSession x (v.batched c a u r ((a + u) * s.denoms[c].face)) s,
         .verdict .accepted (num (v.total + (a + u) * s.denoms[c].face)))

/-- BATCH (R104): the idle timer restarts, then the checks (R103). -/
def batchJob (f : Taken) (s : State) : State × Answer :=
  let x := slotOf s f.frame.src
  match parseBatch f.frame.body with
  | none => (counterActs x f.frame.src s, .verdict .malformed none)
  | some (k, a, u, r) => batchRule x f.frame.src k a u r (counterActs x f.frame.src s)

/-! ## HAND_KEY (R105) -/

/-- A session with a key of a code added. -/
def Session.keyed (v : Session) (c : Fin 12) (n value : Nat) (resolves outSuspect : Bool) : Session :=
  { v with accepted := if outSuspect then v.accepted else put v.accepted c (v.accepted[c] + n)
           suspect := if outSuspect then put v.suspect c (v.suspect[c] + n) else v.suspect
           unresolved := if resolves then v.unresolved - n else v.unresolved
           total := v.total + value }

/-- The checks of R105 after the session number, in their order, and the key applied. -/
def handKeyRule (x : Fin 4) (k n : Nat) (resolves outSuspect : Bool) (s : State) : State × Answer :=
  let v := s.sessions[x]
  if outSuspect && !resolves then (s, .verdict .malformed (num 0))
  else match inRange 12 k with
    | none => (s, .verdict .malformed (num k))
    | some c =>
      if !s.denoms[c].enabled then (s, .verdict .malformed (num k))
      else if resolves ∧ s.denoms[c].kind ≠ .note then (s, .verdict .malformed (num k))
      else if v.state ≠ .counting then (s, .verdict .wrongBagState (sessionDetail v))
      else if resolves ∧ v.unresolved < n then (s, .verdict .rejectsExceeded (num v.unresolved))
      else if topPieces < (if outSuspect then v.suspect[c] else v.accepted[c]) + n then
        (s, .verdict .countLimit (num k))
      else if Config.topBagValue < v.total + n * s.denoms[c].face then (s, .verdict .valueRange (num v.total))
      else
        (setSession x (v.keyed c n (n * s.denoms[c].face) resolves outSuspect) s,
         .verdict .accepted (num (if resolves then v.unresolved - n else v.unresolved)))

/-- HAND_KEY (R105): a session number above 3 is refused and acts on nothing; else the idle timer restarts, then the checks
(R100, R103). A body of another length names no session, so it restarts no timer: the model's choice (log entry 7). -/
def handKeyJob (f : Taken) (s : State) : State × Answer :=
  match parseHandKey f.frame.body with
  | none => (s, .verdict .malformed none)
  | some (i, k, n, resolves, outSuspect) =>
    match inRange 4 i with
    | none => (s, .verdict .malformed (num i))
    | some x => handKeyRule x k n resolves outSuspect (restartIdle x s)

/-! ## Tally counters (R111 to R113) -/

/-- The value at which the half flag is set: 2^31 (R112). -/
def tallyHalfMark : Nat := 2147483648

/-- A counter with `n` pieces added in its group's mode (R112): the flags are set when the count passes through or arrives at their
values, HOLD stops at the top, WRAP goes on from 0. -/
def Tally.add (m : TallyMode) (n : Nat) (t : Tally) : Tally :=
  match m with
  | .hold =>
    { count := min Config.top32 (t.count + n)
      half := t.half || (decide (t.count < tallyHalfMark) && decide (tallyHalfMark ≤ t.count + n))
      full := t.full || (decide (t.count < Config.top32) && decide (Config.top32 ≤ t.count + n)) }
  | .wrap =>
    { count := (t.count + n) % (Config.top32 + 1)
      half := t.half || (decide (t.count < tallyHalfMark) && decide (tallyHalfMark ≤ t.count + n)) ||
        decide (tallyHalfMark + Config.top32 + 1 ≤ t.count + n)
      full := t.full || (decide (t.count < Config.top32) && decide (Config.top32 ≤ t.count + n)) ||
        decide (Config.top32 + Config.top32 + 1 ≤ t.count + n) }

/-- The counter of a group and code. -/
def State.tally (s : State) (g : TallyGroup) (c : Fin 12) : Tally := s.tallies[g.row][c]

/-- The counter of a group and code replaced. -/
def setTally (g : TallyGroup) (c : Fin 12) (t : Tally) (s : State) : State :=
  s.setTallies (put s.tallies g.row (put s.tallies[g.row] c t))

/-- A flag of a counter goes from clear to set in a group whose report enable is yes: one raising (R113, R181). -/
def raiseTally (e : Event) (g : TallyGroup) (c : Fin 12) (old new : Bool) (s : State) : State :=
  if !old && new && s.timing.groups[g.row].report then raisePair e g.code c.val s else s

/-- An addition to one counter, with the raisings of the flags it sets (R112, R113). -/
def addTally (g : TallyGroup) (c : Fin 12) (n : Nat) (s : State) : State :=
  let old := s.tally g c
  let new := old.add s.timing.groups[g.row].mode n
  setTally g c new s |> raiseTally .tallyHalf g c old.half new.half |> raiseTally .tallyFull g c old.full new.full

/-- The counts a close adds to a group (R111). -/
def Session.groupCounts (v : Session) : TallyGroup → Vector Nat 12
  | .accepted => v.accepted
  | .suspect => v.suspect
  | .rejected => v.rejected

/-- The additions of a close: the groups in their order, the codes of each in face order (R8, R111, log entry 17). -/
def addTallies (v : Session) (s : State) : State :=
  TallyGroup.all.foldl (fun t g => (stockOrder s).foldl (fun t c => addTally g c (v.groupCounts g)[c] t) t) s

/-! ## BAG_CLOSE (R106 to R108) -/

/-- The class of a variance against a tolerance (R107). -/
def classOf (variance : Int) (tolerance : Nat) : BagClass :=
  if variance.natAbs ≤ tolerance then .balanced else if 0 < variance then .over else .short

/-- The drawer's part of a close: the variance of a PICKUP or CASHUP bag of the present day (R36, R56, R108). -/
def closeAtDrawer (b : Bag) (variance : Int) (s : State) : State :=
  match b.till with
  | some t => if (b.kind = .pickup ∨ b.kind = .cashup) ∧ b.day = s.day.number then addCountVariance t variance s else s
  | none => s

/-- The events of a close (R108, step 5). -/
def closeEvents (n suspectValue : Nat) (cls : BagClass) (s : State) : State :=
  let s1 := if cls = .balanced then s else raiseNum .bagVariance n s
  if 0 < suspectValue then raiseNum .suspectFound n s1 else s1

/-- A close that passes the checks, in the parts of R108: stock, register, drawer, tallies, events, session. -/
def applyCount (x : Fin 4) (b b' : Bag) (variance : Int) (cls : BagClass) (s : State) : State :=
  let v := s.sessions[x]
  s |> applyClose v.accepted v.suspect (s.valueOf v.accepted)
    |> changeBag v.bag (fun _ => b')
    |> closeAtDrawer b variance
    |> addTallies v
    |> closeEvents v.bag (s.valueOf v.suspect) cls
    |> setSession x Session.reset

/-- The variance of a session's counts at the faces in force (R107). -/
def sessionVariance (s : State) (v : Session) : Int :=
  (s.valueOf v.accepted : Int) + s.valueOf v.suspect - v.declared

/-- The checks of R106 in their order, and the close. -/
def bagCloseRule (x : Fin 4) (node : Byte) (s : State) : State × Answer :=
  let v := s.sessions[x]
  if v.state ≠ .counting then (s, .verdict .wrongBagState (sessionDetail v))
  else if v.node ≠ node then (s, .verdict .sessionBusy (num v.bag))
  else if 0 < v.unresolved then (s, .verdict .rejectsOpen (num v.unresolved))
  else match closeRefused s v.accepted v.suspect with
    | some c => (s, .verdict .countLimit (num c.val))
    | none =>
      match findBag s v.bag with
      | none => (s, .verdict .unknownBag (num v.bag))
      | some b =>
        let variance := sessionVariance s v
        let cls := classOf variance (s.timing.tolerance v.kind)
        match moveClose x (s.valueOf v.accepted) (s.valueOf v.suspect) variance cls s.seconds b with
        | .error c => (s, .verdict c (num v.bag))
        | .ok b' => (applyCount x b b' variance cls s, .verdict .accepted (signed variance))

/-- BAG_CLOSE (R106): the idle timer restarts, then the checks (R103). -/
def bagCloseJob (f : Taken) (s : State) : State × Answer :=
  let x := slotOf s f.frame.src
  match parseEmpty f.frame.body with
  | none => (counterActs x f.frame.src s, .verdict .malformed none)
  | some _ => bagCloseRule x f.frame.src (counterActs x f.frame.src s)

/-! ## COUNT_ABORT, RESTART and DAY_CLOSE FORCE (R109, R110) -/

/-- An abort: the record returns to OUT_FOR_COUNT, the session is IDLE with every count discarded (R109). -/
def abortSession (x : Fin 4) (s : State) : State :=
  setSession x Session.reset (askRegister s.sessions[x].bag (moveAbort x s.seconds) s)

/-- Every session in COUNTING or SUSPENDED is aborted (R110). -/
def abortSessions (s : State) : State :=
  (List.finRange 4).foldl (fun s x => if s.sessions[x].state = .idle then s else abortSession x s) s

/-- COUNT_ABORT by the session's state and the sender; a CONSOLE may abort whatever the counter node is (R109). -/
def countAbortRule (x : Fin 4) (node : Byte) (console : Bool) (s : State) : State × Answer :=
  let v := s.sessions[x]
  match v.state with
  | .idle => (s, .verdict .accepted (num 0))
  | .counting =>
    if console ∨ v.node = node then (abortSession x s, .verdict .accepted (num v.bag))
    else (s, .verdict .sessionBusy (num v.bag))
  | .suspended => (abortSession x s, .verdict .accepted (num v.bag))

/-- COUNT_ABORT (R100, R109): an empty body from a COUNTER, a session number from a CONSOLE. -/
def countAbortJob (f : Taken) (s : State) : State × Answer :=
  if roleOf s f.frame.src = some .console then
    match parseSessionNumber f.frame.body with
    | none => (s, .verdict .malformed none)
    | some i =>
      match inRange 4 i with
      | none => (s, .verdict .malformed (num i))
      | some x => countAbortRule x f.frame.src true s
  else
    match parseEmpty f.frame.body with
    | none => (s, .verdict .malformed none)
    | some _ => countAbortRule (slotOf s f.frame.src) f.frame.src false s

/-! ## Idle suspension (R103) -/

/-- The idle timer expires in COUNTING: record COUNT_SUSPENDED, session SUSPENDED with its sums kept, COUNT_SUSPENDED raised. -/
def suspendSession (x : Fin 4) (s : State) : State :=
  raiseNum .countSuspended s.sessions[x].bag
    (setSession x { s.sessions[x] with state := .suspended, timer := none }
      (askRegister s.sessions[x].bag (moveSuspend s.seconds) s))

/-! ## Reading the tallies (R114) -/

/-- The groups that a group code names: one, or all (R114, R197). -/
def namedGroups (k : Nat) : Option (List TallyGroup) :=
  if k = 3 then some TallyGroup.all else (TallyGroup.all.find? fun g => g.code = k).map fun g => [g]

/-- Every counter of a group set to 0 with its flags clear (R114). -/
def clearTallies (gs : List TallyGroup) (s : State) : State :=
  gs.foldl (fun s g => s.setTallies (put s.tallies g.row (Vector.replicate 12 Tally.reset))) s

end Sys2Proof.Machine
end

