-- ==== Sys2Proof/Machine/Couriers.lean ====
section
/-! DEFINITION. The Handover Controller: the consignment ring, the return of a descriptor, missed windows, the handover session and its
frames (chapter 7). -/

namespace Sys2Proof.Machine

/-! ## The ring (R117, R118) -/

/-- A descriptor replaced. -/
def setSlot (i : Fin 16) (d : Descriptor) (s : State) : State := s.setRing (put s.ring i d)

/-- The head: the descriptor that the next pointer names (R118). -/
def State.head (s : State) : Descriptor := s.ring[s.call.next]

/-- The session's phase, slot and timer replaced (R124). -/
def setPhase (p : Phase) (slot : Option (Fin 16)) (timer : Option Nat) (s : State) : State :=
  s.setCall { s.call with phase := p, slot := slot, timer := timer }

/-- The session becomes IDLE (R124). -/
def endSession (s : State) : State := setPhase .idle none none s

/-- The session enters EXCHANGE on a slot and the exchange timer starts (R127). -/
def enterExchange (i : Fin 16) (s : State) : State :=
  setPhase .exchange (some i) (some (s.seconds + s.timing.exchangeTimeout)) s

/-- The session enters SIGNING on a slot and the sign timer starts (R127, R129). -/
def enterSigning (i : Fin 16) (s : State) : State :=
  setPhase .signing (some i) (some (s.seconds + s.timing.signTimeout)) s

/-! ## Returning a descriptor, missed windows (R123, R137) -/

/-- A descriptor is returned with a result, but for the check of the new head (R123). R134 says that the mark nodes of an aborted call stay
absent, and no rule clears those of an earlier call at the hand; that a slot signed once, handed again without a write and then returned unsigned
keeps the earlier marks beside its new result is the model's choice (log entry 28). -/
def returnSlot (i : Fin 16) (r : CallResult) (s : State) : State :=
  let s1 := setSlot i { s.ring[i] with owner := .office, result := r, second := some s.seconds } (unpinReturned i s)
  s1.setCall { s1.call with next := s1.call.next + 1, refused := 0 }

/-- The head has missed its window: the session is IDLE, the head is PART's, and the day clock is later than the window end or the
day-passed flag is set (R137). -/
def headMissed (s : State) : Bool :=
  decide (s.call.phase = .idle) && decide (s.head.owner = .part) &&
    (decide (s.head.windowEnd < s.day.clock) || s.head.dayPassed)

/-- Missed heads are returned in slot order, each raising WINDOW_MISSED, up to the first that is not missed (R137); `n` bounds the
number of slots. -/
def checkMissed : Nat → State → State
  | 0, s => s
  | n + 1, s =>
    if headMissed s then
      checkMissed n (raiseNum .windowMissed s.call.next.val (returnSlot s.call.next .missed s))
    else s

/-- The missed-window check (R137): every PART-owned head whose window has passed is returned, at most all sixteen. -/
def missedCheck (s : State) : State := checkMissed 16 s

/-- The day-passed flag of every PART-owned descriptor is set (R137). -/
def passDay (s : State) : State :=
  s.setRing (mapRows (fun d => if d.owner = .part then { d with dayPassed := true } else d) s.ring)

/-! ## Handing and recalling (R121, R122) -/

/-- A hand that passes its checks: the outbound bags pinned, the descriptor PART's with its day-passed flag clear (R121). -/
def handSlot (i : Fin 16) (s : State) : State :=
  setSlot i { s.ring[i] with owner := .part, dayPassed := false } (pinBags i s.ring[i].outbound s)

/-- A recall: pins of IN_SAFE records cleared, result RECALLED, owner OFFICE, the second recorded; the next pointer stands
(R122). -/
def recallSlot (i : Fin 16) (s : State) : State :=
  setSlot i { s.ring[i] with owner := .office, result := .recalled, second := some s.seconds } (unpinRecalled i s)

/-! ## The end of a call (R132, R134) -/

/-- An abort of the session on a slot with a result (R134). -/
def abortCall (i : Fin 16) (r : CallResult) (s : State) : State :=
  let d := s.ring[i]
  s |> abortBags d.outbound
    |> flagUnsigned d.received
    |> returnSlot i r
    |> endSession
    |> raiseNum .handoverAborted i.val
    |> missedCheck

/-- The active session is aborted with a result; an IDLE session is left (R133, R135). -/
def abortHandover (r : CallResult) (s : State) : State :=
  match s.call.phase, s.call.slot with
  | .idle, _ => s
  | _, some i => abortCall i r s
  | _, none => s

/-- The declared value of a seal's record (R132). That a received seal whose record a purge has removed adds 0 is the model's choice (log
entry 27). -/
def declaredOf (s : State) (n : Nat) : Nat :=
  match findBag s n with
  | some b => b.declared
  | none => 0

/-- The received count and value agree with the booked ones (R132). A seal can stand twice among those received: its slot is handed again
without a write, a night purge has removed its record, and it is received anew. R132 sums the declared values of the records and does not say
whether that one record counts once or twice; that it counts twice, in the count and in the value, is the model's choice (log entry 27). -/
def inboundAgrees (s : State) (d : Descriptor) : Bool :=
  decide (d.received.length = d.inboundCount) && decide ((d.received.map (declaredOf s)).sum = d.inboundValue)

/-- The result of an accepted SIGN (R132). -/
def signResult (s : State) (d : Descriptor) : CallResult := if inboundAgrees s d then .done else .doneVariance

/-- An accepted SIGN on a slot, with the witness pair of R174 (R132). -/
def completeCall (i : Fin 16) (pair : Option (Byte × Byte)) (s : State) : State :=
  let d := s.ring[i]
  let s1 := signBags d.outbound s
  let s2 := if inboundAgrees s d then s1 else raiseNum .inboundVariance i.val s1
  s2 |> setSlot i { d with supervisor := pair.map Prod.fst, courierMark := pair.map Prod.snd }
    |> returnSlot i (signResult s d)
    |> endSession
    |> raiseNum .handoverDone i.val
    |> missedCheck

/-! ## ANNOUNCE (R125 to R127) -/

/-- The next pointer as a detail. -/
def nextDetail (s : State) : Option Word32 := num s.call.next.val

/-- The oldest HATCH_HELD record (R125). -/
def oldestHeld (s : State) : Option Bag := s.bags.find? fun b => b.state = .hatchHeld

/-- A wrong courier id: the count rises, and at the limit the head is returned (R126). The verdict's detail is the raised count also
where the return of the same taking leaves the count 0: the model's choice (log entry 23). -/
def refuseCourier (s : State) : State × Answer :=
  let k := min 9 (s.call.refused + 1)
  if k < s.timing.courierLimit then (s.setCall { s.call with refused := k }, .verdict .refusedCourier (num k))
  else
    (missedCheck (raiseNum .handoverAborted s.call.next.val (returnSlot s.call.next .refusedCourier s)),
     .verdict .refusedCourier (num k))

/-- An accepted ANNOUNCE (R127). -/
def acceptCourier (s : State) : State :=
  let s1 := if s.head.outbound = [] then enterSigning s.call.next s else enterExchange s.call.next s
  s1.setCall { s1.call with refused := 0 }

/-- The checks of R125 in their order. -/
def announceRule (id : Nat) (s : State) : State × Answer :=
  match s.call.phase, s.call.slot with
  | .exchange, some i | .signing, some i =>
    (s, .verdict (if id = s.ring[i].courier then .duplicate else .sessionBusy) (num i.val))
  | _, _ =>
    match oldestHeld s with
    | some b => (s, .verdict .hatchNotClear (num b.sealNo))
    | none =>
      if s.head.owner = .office then (s, .verdict .noSession (nextDetail s))
      else if ¬(s.head.windowStart ≤ s.day.clock ∧ s.day.clock ≤ s.head.windowEnd) then
        (s, .verdict .outOfWindow (num s.day.clock))
      else if id ≠ s.head.courier then refuseCourier s
      else (acceptCourier s, .verdict .accepted (num s.head.number))

/-- ANNOUNCE (R125). A body of another length is refused MALFORMED (log entry 7). -/
def announceJob (f : Taken) (s : State) : State × Answer :=
  match parseAnnounce f.frame.body with
  | none => (s, .verdict .malformed none)
  | some id => announceRule id s

/-! ## LOAD (R129) -/

/-- Outbound bags not yet LOADED (R129, R131). -/
def unloaded (s : State) (d : Descriptor) : Nat := (d.outbound.filter fun n => !bagIn s n .loaded).length

/-- The slot of the active session, if one is active (R124). -/
def State.activeSlot (s : State) : Option (Fin 16) := if s.call.phase = .idle then none else s.call.slot

/-- A LOAD the register accepted: with no bag left the session enters SIGNING (R129). -/
def afterLoad (i : Fin 16) (s : State) : State := if unloaded s s.ring[i] = 0 then enterSigning i s else s

/-- The checks of R129 in their order. -/
def loadRule (n : Nat) (s : State) : State × Answer :=
  match s.activeSlot with
  | none => (s, .verdict .noSession (nextDetail s))
  | some i =>
    if !s.ring[i].outbound.contains n then (s, .verdict .notInConsignment (num n))
    else if bagIn s n .loaded then (s, .verdict .duplicate (num (unloaded s s.ring[i])))
    else match transition n (moveLoad s.seconds) s with
      | .error c => (s, .verdict c (num n))
      | .ok s' => (afterLoad i s', .verdict .accepted (num (unloaded s' s'.ring[i])))

/-- LOAD (R129). -/
def loadJob (f : Taken) (s : State) : State × Answer :=
  match parseSeal f.frame.body with
  | none => (s, .verdict .malformed none)
  | some n => loadRule n s

/-! ## RECEIVE (R130) -/

/-- The seal stands among those received, with an INBOUND record of the same declared value (R130). -/
def receivedAlready (s : State) (d : Descriptor) (n v : Nat) : Bool :=
  d.received.contains n &&
    match findBag s n with
    | some b => decide (b.kind = .inbound) && decide (b.declared = v)
    | none => false

/-- The checks of R130 in their order. -/
def receiveRule (n v : Nat) (s : State) : State × Answer :=
  match s.activeSlot with
  | none => (s, .verdict .noSession (nextDetail s))
  | some i =>
    let d := s.ring[i]
    if receivedAlready s d n v then (s, .verdict .duplicate (num d.received.length))
    else if Config.consignmentSeals ≤ d.received.length then (s, .verdict .inboundFull (num Config.consignmentSeals))
    else match createCheck s n v with
      | some c => (s, .verdict c (num n))
      | none =>
        (setSlot i { d with received := d.received ++ [n] } (addBag (newBag s .inbound .received n v none none none) s),
         .verdict .accepted (num (d.received.length + 1)))

/-- RECEIVE (R130). -/
def receiveJob (f : Taken) (s : State) : State × Answer :=
  match parseReceive f.frame.body with
  | none => (s, .verdict .malformed none)
  | some (n, v) => receiveRule n v s

/-! ## SIGN (R131) -/

/-- SIGN by the session's phase (R131). -/
def signRule (pair : Option (Byte × Byte)) (s : State) : State × Answer :=
  match s.call.phase, s.call.slot with
  | .exchange, some i => (s, .verdict .notLoaded (num (unloaded s s.ring[i])))
  | .signing, some i => (completeCall i pair s, .verdict .accepted (num (signResult s s.ring[i]).code))
  | _, _ => (s, .verdict .noSession (nextDetail s))

/-- SIGN (R131). A body that is not empty is refused MALFORMED (log entry 7). -/
def signJob (f : Taken) (s : State) : State × Answer :=
  match parseEmpty f.frame.body with
  | none => (s, .verdict .malformed none)
  | some _ => signRule f.pair s

end Sys2Proof.Machine
end

