-- ==== Sys2Proof/Machine/Floats.lean ====
section
/-! DEFINITION. The Float Unit: the rebalance computation, orders, ADVICE, and the job rules of DECLARE, FLOAT_RECEIPT and MAKE_UP (FLOAT)
(chapter 4). -/

namespace Sys2Proof.Machine

/-! ## The rebalance computation (R64 to R66) -/

/-- The declared count of a code, 0 where no pair names it (R62, R64). -/
def declaredCount (ps : List (Fin 12 × Nat)) (c : Fin 12) : Nat :=
  match ps.find? fun p => p.1 = c with
  | some p => p.2
  | none => 0

/-- The declared value: count times face over the pairs (R63). -/
def declaredValue (s : State) (ps : List (Fin 12 × Nat)) : Nat := (ps.map fun p => p.2 * s.denoms[p.1].face).sum

/-- Packets wanted for a gap: rounded up to the next whole packet (R64, step 1). -/
def wantedPackets (target count packet : Nat) : Nat := (target - count + packet - 1) / packet

/-- Whether a code is issued at all: enabled, declared below target, and the day not CLOSING (R64). -/
def issues (s : State) (t : Fin 160) (ps : List (Fin 12 × Nat)) (c : Fin 12) : Bool :=
  s.denoms[c].enabled && decide (s.day.state ≠ .closing) && decide (declaredCount ps c < s.tills[t].targets[c])

/-- The granted packets: the wanted ones, as far as free stock holds them whole (R64, step 2). -/
def grantedPackets (s : State) (t : Fin 160) (ps : List (Fin 12 × Nat)) (c : Fin 12) : Nat :=
  if issues s t ps c then
    min (wantedPackets s.tills[t].targets[c] (declaredCount ps c) s.denoms[c].packet) (s.freeOf c / s.denoms[c].packet)
  else 0

/-- The short-stock flag: fewer packets granted than wanted (R64, step 4). -/
def shortOfStock (s : State) (t : Fin 160) (ps : List (Fin 12 × Nat)) (c : Fin 12) : Bool :=
  issues s t ps c && decide (s.freeOf c / s.denoms[c].packet <
    wantedPackets s.tills[t].targets[c] (declaredCount ps c) s.denoms[c].packet)

/-- The skim count of a code (R65). -/
def skimCount (s : State) (t : Fin 160) (ps : List (Fin 12 × Nat)) (c : Fin 12) : Nat :=
  if s.denoms[c].enabled ∧ s.tills[t].targets[c] < declaredCount ps c ∧ s.tills[t].skimFloor ≤ s.denoms[c].face then
    declaredCount ps c - s.tills[t].targets[c]
  else 0

/-- The issue counts before the cap. -/
def grantedIssue (s : State) (t : Fin 160) (ps : List (Fin 12 × Nat)) : Vector Nat 12 :=
  Vector.ofFn fun c => grantedPackets s t ps c * s.denoms[c].packet

/-- Packets taken from a code while the issue value is above the cap: as many as bring it to the cap, or all (R66). -/
def packetsRemoved (value cap packet face issue : Nat) : Nat :=
  min (issue / packet) ((value - cap + packet * face - 1) / (packet * face))

/-- The cap reduction (R66). R66 removes one packet at a time from the highest face that still has an issue, so it takes the codes in
face order, from each what is needed or all of it, setting the short-cap flag of each code it takes from. -/
def capReduce (s : State) (cap : Nat) :
    List (Fin 12) → Vector Nat 12 → Vector Bool 12 → Vector Nat 12 × Vector Bool 12
  | [], issue, flags => (issue, flags)
  | c :: rest, issue, flags =>
    if cap < s.valueOf issue ∧ 0 < issue[c] then
      capReduce s cap rest
        (put issue c (issue[c] -
          packetsRemoved (s.valueOf issue) cap s.denoms[c].packet s.denoms[c].face issue[c] * s.denoms[c].packet))
        (put flags c true)
    else capReduce s cap rest issue flags

/-- What the computation gives: issue, skim, short-stock and short-cap for each code. -/
structure Rebalance where
  issue : Vector Nat 12
  skim : Vector Nat 12
  shortStock : Vector Bool 12
  shortCap : Vector Bool 12
  deriving DecidableEq, Repr

/-- The rebalance computation of a till's declaration (R64 to R66). -/
def rebalance (s : State) (t : Fin 160) (ps : List (Fin 12 × Nat)) : Rebalance :=
  let capped := capReduce s s.tills[t].topUpCap (faceOrder s) (grantedIssue s t ps) (Vector.replicate 12 false)
  { issue := capped.1
    skim := Vector.ofFn fun c => skimCount s t ps c
    shortStock := Vector.ofFn fun c => shortOfStock s t ps c
    shortCap := capped.2 }

/-! ## Advice (R70) -/

/-- One line: code and flags, and the issue or the skim count, whichever is above 0 (R70, R197). -/
def adviceLine (r : Rebalance) (c : Fin 12) : List Byte :=
  BitVec.ofNat 8 (c.val + (if r.shortStock[c] then 16 else 0) + (if r.shortCap[c] then 32 else 0) +
      (if 0 < r.skim[c] then 64 else 0)) ::
    be 2 (if 0 < r.skim[c] then r.skim[c] else r.issue[c])

/-- The codes that have a line, in face order (R70). R8 gives a disabled code no place in face order; that a code of a kept order that has
been disabled since has no line in the ADVICE of a copy, while the skim value still holds it, is the model's choice (log entry 26). -/
def adviceCodes (s : State) (r : Rebalance) : List (Fin 12) :=
  (faceOrder s).filter fun c =>
    decide (0 < r.issue[c]) || decide (0 < r.skim[c]) || r.shortStock[c] || r.shortCap[c]

/-- The ADVICE body: the first nine lines, with the truncation bit where more are due (R70, R197). -/
def adviceBody (s : State) (status : Code) (order : Option (Fin 24)) (issueValue skimValue : Nat) (r : Rebalance) :
    List Byte :=
  let cs := adviceCodes s r
  (status.byte ||| (if 9 < cs.length then 0x80#8 else 0#8)) ::
    (match order with
     | some i => BitVec.ofNat 8 i.val
     | none => 0xFF#8) ::
    (be 4 issueValue ++ be 5 skimValue ++ BitVec.ofNat 8 (cs.take 9).length :: (cs.take 9).flatMap (adviceLine r))

/-- The figures an order recorded. -/
def Order.figures (o : Order) : Rebalance :=
  { issue := o.issue, skim := o.skim, shortStock := o.shortStock, shortCap := o.shortCap }

/-- The answer to a copy of a DECLARE: a fresh ADVICE of status DUPLICATE while the order it created stands, else the DUPLICATE
verdict (R70). -/
def declareCopy (t : Fin 160) (s : State) : Answer :=
  match s.drawers[t].openOrder with
  | some i =>
    if s.orders[i].state ≠ .free ∧ some s.orders[i].seq = s.drawers[t].lastSeq then
      .advice .duplicate
        (adviceBody s .duplicate (some i) s.orders[i].issueValue s.orders[i].skimValue s.orders[i].figures)
    else duplicateVerdict t s
  | none => duplicateVerdict t s

/-! ## Orders (R67 to R69) -/

/-- An order entry replaced. -/
def setOrder (i : Fin 24) (o : Order) (s : State) : State := s.setOrders (put s.orders i o)

/-- A drawer's open order set or cleared (R43). -/
def setOpenOrder (t : Fin 160) (o : Option (Fin 24)) (s : State) : State :=
  setDrawer t { s.drawers[t] with openOrder := o } s

/-- An order ends: its entry becomes FREE with the outcome, and the drawer's open order is cleared (R69). -/
def freeOrder (i : Fin 24) (outcome : OrderOutcome) (s : State) : State :=
  setOpenOrder s.orders[i].till none (setOrder i { s.orders[i] with state := .free, outcome := outcome } s)

/-- A PENDING order is cancelled: its reservation is released, it is freed as CANCELLED, and ORDER_CANCELLED is raised (R74). -/
def cancelOrder (i : Fin 24) (s : State) : State :=
  raiseNum .orderCancelled s.orders[i].till.val (freeOrder i .cancelled (release s.orders[i].issue s))

/-- Every PENDING order is cancelled (R74). R74 and R144 give no order among them; that the last index is the last to raise
ORDER_CANCELLED is the model's choice (log entry 17). -/
def cancelPending (s : State) : State :=
  (List.finRange 24).foldl (fun s i => if s.orders[i].state = .pending then cancelOrder i s else s) s

/-- The lowest-numbered FREE entry (R67). -/
def freeEntry (s : State) : Option (Fin 24) := firstIndex 24 fun i => s.orders[i].state = .free

/-! ## DECLARE (R61 to R67) -/

/-- The code that a DECLARE names twice (R62). Where two codes are each named twice, R62 does not say which one the detail names; the
one met first a second time, in the order of the pairs, is the model's choice (log entry 17). -/
def namedTwice : List (Fin 12) → List (Fin 12) → Option (Fin 12)
  | _, [] => none
  | seen, c :: rest => if seen.contains c then some c else namedTwice (c :: seen) rest

/-- The declared value differs from expected cash by more than the tolerance: DECLARE_VARIANCE is raised (R63). -/
def compareDeclared (t : Fin 160) (declared : Nat) (s : State) : State :=
  if s.timing.declareTolerance < ((declared : Int) - s.drawers[t].expected).natAbs then
    raiseNum .declareVariance t.val s
  else s

/-- STOCK_SHORT where some code carries a short flag (R67). -/
def raiseShort (t : Fin 160) (r : Rebalance) (s : State) : State :=
  if anyRow id r.shortStock || anyRow id r.shortCap then raiseNum .stockShort t.val s else s

/-- The order a declaration creates (R67, R68). -/
def newOrder (s : State) (t : Fin 160) (q : Nat) (ps : List (Fin 12 × Nat)) (r : Rebalance) : Order :=
  { state := .pending, outcome := .none, till := t, seq := q, day := s.day.number, issue := r.issue, skim := r.skim
    shortStock := r.shortStock, shortCap := r.shortCap, issueValue := s.valueOf r.issue, skimValue := s.valueOf r.skim
    declared := declaredValue s ps
    difference := (satInt (s.drawers[t].expected - declaredValue s ps)).1, sealNo := none }

/-- The result of a declaration acted on (R67): with an issue, an order is created and its issue reserved; in both cases the ADVICE. -/
def actOnRebalance (t : Fin 160) (i : Fin 24) (q : Nat) (ps : List (Fin 12 × Nat)) (s : State) : State × Answer :=
  let r := rebalance s t ps
  if 0 < s.valueOf r.issue then
    (setOpenOrder t (some i) (reserve r.issue (setOrder i (newOrder s t q ps r)
        (raiseShort t r (compareDeclared t (declaredValue s ps) s)))),
     .advice .accepted (adviceBody s .accepted (some i) (s.valueOf r.issue) (s.valueOf r.skim) r))
  else
    (raiseShort t r (compareDeclared t (declaredValue s ps) s),
     .advice .accepted (adviceBody s .accepted none 0 (s.valueOf r.skim) r))

/-- Step 6 of a DECLARE: the checks of R62, then the computation. -/
def declareRule (t : Fin 160) (a : Nat × List (Fin 12 × Nat)) (s : State) : State × Answer :=
  match s.drawers[t].openOrder with
  | some i => (s, .verdict .orderOpen (num i.val))
  | none =>
    match freeEntry s with
    | none => (s, .verdict .orderFull (num 0))
    | some i =>
      match a.2.find? fun p => !s.denoms[p.1].enabled with
      | some p => (s, .verdict .malformed (num p.1.val))
      | none =>
        match namedTwice [] (a.2.map fun p => p.1) with
        | some c => (s, .verdict .malformed (num c.val))
        | none => actOnRebalance t i a.1 a.2 s

/-- DECLARE (R44, R61, R62). -/
def declareJob (f : Taken) (s : State) : State × Answer :=
  tillFrame .declare (parseDeclare f.frame.body) (fun a => some a.1) declareCopy declareRule f s

/-! ## FLOAT_RECEIPT (R55, R72) -/

/-- Step 6 of a FLOAT_RECEIPT: the bag's checks, then drawer, bag and order in one taking (R72). -/
def receiptRule (t : Fin 160) (a : Nat × Nat) (s : State) : State × Answer :=
  match findBag s a.2 with
  | none => (s, .verdict .unknownBag (num a.2))
  | some b =>
    match moveReceipt s.seconds b with
    | .error c => (s, .verdict c (num a.2))
    | .ok b' =>
      if b.till ≠ some t then (s, .verdict .wrongBagState (b.till.elim none fun u => num u.val))
      else
        let s1 := changeBag a.2 (fun _ => b') s
        let s2 := match b.order with
          | some i => freeOrder i .done s1
          | none => s1
        let s3 := moveDrawer t (fun d => d.receivedFloat b.declared) (setOpenOrder t none s2)
        (s3, drawerAnswer t s3)

/-- FLOAT_RECEIPT (R44, R72). -/
def floatReceiptJob (f : Taken) (s : State) : State × Answer :=
  tillFrame .floatReceipt (parseReceipt f.frame.body) (fun a => some a.1) duplicateVerdict receiptRule f s

/-! ## MAKE_UP of type FLOAT (R71) -/

/-- The order made up: the draw, the bag, the order with its seal (R71). -/
def makeUpOrder (i : Fin 24) (n : Nat) (s : State) : State :=
  let o := s.orders[i]
  setOrder i { o with state := .madeUp, sealNo := some n }
    (addBag (newBag s .floatBag .madeUp n o.issueValue (some o.till) (some i) (some o.issue))
      (drawFloat o.issue o.issueValue s))

/-- MAKE_UP of type FLOAT (R71). A body of another length is refused MALFORMED (log entry 7). -/
def makeUpFloatJob (f : Taken) (s : State) : State × Answer :=
  match parseMakeUpFloat f.frame.body with
  | none => (s, .verdict .malformed none)
  | some (k, n) =>
    match inRange 24 k with
    | none => (s, .verdict .malformed (num k))
    | some i =>
      match s.orders[i].state with
      | .free => (s, .verdict .malformed (num k))
      | .madeUp => (s, .verdict .orderOpen (s.orders[i].sealNo.elim none num))
      | .pending =>
        match createCheck s n s.orders[i].issueValue with
        | some c => (s, .verdict c (num n))
        | none => (makeUpOrder i n s, .verdict .accepted (num s.orders[i].issueValue))

/-! ## MAKE_UP of type CONSIGNMENT (R15, R16) -/

/-- The pairs checked in the order they stand in; the first that fails decides (R15). -/
def consignmentPairs (s : State) : List (Fin 12) → List (Nat × Nat) → Except Code (List (Fin 12 × Nat))
  | _, [] => .ok []
  | seen, (k, n) :: rest =>
    match inRange 12 k with
    | none => .error .malformed
    | some c =>
      if !s.denoms[c].enabled || seen.contains c then .error .malformed
      else if n % s.denoms[c].strap ≠ 0 then .error .notStrapped
      else if s.freeOf c < n then .error .stockShort
      else if s.stock[c].straps < n / s.denoms[c].strap then .error .stockShort
      else match consignmentPairs s (c :: seen) rest with
        | .error e => .error e
        | .ok ps => .ok ((c, n) :: ps)

/-- The counts of a consignment, 0 for each code its pairs do not name (R16). -/
def pairCounts (ps : List (Fin 12 × Nat)) : Vector Nat 12 := Vector.ofFn fun c => declaredCount ps c

/-- MAKE_UP of type CONSIGNMENT (R15, R16). No rule gives a detail for its verdicts (log entry 4). -/
def makeUpConsignmentJob (f : Taken) (s : State) : State × Answer :=
  match parseMakeUpConsignment f.frame.body with
  | none => (s, .verdict .malformed none)
  | some (n, raw) =>
    match consignmentPairs s [] raw with
    | .error c => (s, .verdict c none)
    | .ok ps =>
      let counts := pairCounts ps
      let value := s.valueOf counts
      if value = 0 then (s, .verdict .malformed none)
      else if Config.topBagValue < value then (s, .verdict .valueRange none)
      else match createCheck s n value with
        | some c => (s, .verdict c none)
        | none =>
          (addBag (newBag s .consignment .madeUp n value none none (some counts)) (drawStraps counts value s),
           .verdict .accepted none)

/-- MAKE_UP, by the type its body names (R171). -/
def makeUpJob (f : Taken) (s : State) : State × Answer :=
  if f.frame.body.head? = some 1#8 then makeUpConsignmentJob f s else makeUpFloatJob f s

/-! ## RESTOCK (R17, R76) -/

/-- A bag restocked: its counts into loose, its value into the restocked accumulator, the bag RESTOCKED, a float order freed. -/
def restockBag (b b' : Bag) (s : State) : State :=
  let counts : Vector Nat 12 := Vector.ofFn fun c => b.countOf c
  let s1 := changeBag b.sealNo (fun _ => b') (addRestocked b.declared (addAll s counts))
  match b.order with
  | some i => freeOrder i .restocked s1
  | none => s1

/-- RESTOCK (R17). No rule gives a detail for its verdicts (log entry 4). -/
def restockJob (f : Taken) (s : State) : State × Answer :=
  match parseSeal f.frame.body with
  | none => (s, .verdict .malformed none)
  | some n =>
    match findBag s n with
    | none => (s, .verdict .unknownBag none)
    | some b =>
      match moveRestock s.seconds b with
      | .error c => (s, .verdict c none)
      | .ok b' =>
        match firstRefused s (Vector.ofFn fun c => b.countOf c) with
        | some _ => (s, .verdict .countLimit none)
        | none => (restockBag b b' s, .verdict .accepted none)

end Sys2Proof.Machine
end

