-- ==== Sys2Proof/Machine/Days.lean ====
section
/-! DEFINITION. The Day Controller: day states, the closing conditions and the completion of a close, the day summary and the day clock
(chapter 8). -/

namespace Sys2Proof.Machine

/-- The day state changes and DAY_CHANGED is raised with the new one (R141). -/
def changeDay (d : DayState) (s : State) : State := raiseNum .dayChanged d.code (s.setDay { s.day with state := d })

/-! ## Opening and trading (R142, R143) -/

/-- DAY_OPEN in NIGHT: day number, drawers, accumulators, clock-set permission, day state (R142). -/
def openDay (s : State) : State :=
  let s1 := openAccumulators ((s.setDay { s.day with number := (s.day.number + 1) % 65536, armed := false }).setDrawers
    (mapRows dayOpenDrawer s.drawers))
  changeDay .opening s1

/-- DAY_TRADE in OPENING (R143). -/
def tradeDay (s : State) : State := changeDay .trading s

/-! ## Closing (R144 to R147) -/

/-- The drawer states that let a close complete (R145). -/
def DrawerState.atRest : DrawerState → Bool
  | .closed => true | .cashedUp => true | .suspended => true
  | .floated => false | .opened => false | .hold => false

/-- A FLOAT bag in MADE_UP, or any bag in HATCH_HELD (R145). -/
def Bag.holdsClose (b : Bag) : Bool :=
  (decide (b.kind = .floatBag) && decide (b.state = .madeUp)) || decide (b.state = .hatchHeld)

/-- The six closing conditions (R145). -/
def closingConditions (s : State) : Bool :=
  !anyRow (fun (d : Drawer) => !d.state.atRest) s.drawers && !anyRow (fun (x : Session) => decide (x.state ≠ .idle)) s.sessions &&
    decide (s.call.phase = .idle) && !s.bags.any Bag.holdsClose && decide (s.safe.lock = .locked)

/-- What the closing conditions read (R145): a report is a change of one of these. -/
structure CloseInputs where
  drawers : List DrawerState
  sessions : List SessionState
  phase : Phase
  bags : List Nat
  lock : LockState
  deriving DecidableEq, Repr

/-- The inputs of the closing conditions as they stand. -/
def closeInputs (s : State) : CloseInputs :=
  { drawers := s.drawers.toList.map fun d => d.state
    sessions := s.sessions.toList.map fun x => x.state
    phase := s.call.phase
    bags := (s.bags.filter Bag.holdsClose).map fun b => b.sealNo
    lock := s.safe.lock }

/-- The summary of a close completing now, with the figures of the purge (R146, R147). -/
def takeSummary (s : State) (counted handed : Nat) : Summary :=
  { taken := true, day := s.day.number, second := s.seconds, minute := s.day.clock, opening := s.acc.opening
    countedIn := s.acc.countedIn, restocked := s.acc.restocked, madeUp := s.acc.madeUp, adjustment := s.acc.adjustment
    saturated := s.acc.saturated, holding := holdingValue s, bagsCounted := counted, bagsHanded := handed }

/-- The completion of a close: purge, summary, permission armed, NIGHT (R146). -/
def completeClose (s : State) : State :=
  let s1 := purge s
  changeDay .night (s1.setDay { s1.day with
    summary := takeSummary s1 (countState s .counted) (countState s .handedOver), armed := true })

/-- In CLOSING with all six conditions holding, the close completes (R145). -/
def testClosing (s : State) : State :=
  if s.day.state = .closing ∧ closingConditions s = true then completeClose s else s

/-- DAY_CLOSE in OPENING or TRADING: CLOSING, the PENDING orders cancelled, with force the drawers suspended and the sessions aborted, then
the test (R144). -/
def closeDay (force : Bool) (s : State) : State :=
  let s1 := cancelPending (changeDay .closing s)
  let s2 := if force then abortSessions (s1.setDrawers (mapRows forceDrawer s1.drawers)) else s1
  testClosing s2

/-! ## The day clock (R148, R149) -/

/-- The day clock takes a value now (R148). -/
def setClockTo (m : Nat) (s : State) : State := s.setDay { s.day with clock := m, clockSecond := s.seconds }

/-- 60 seconds have passed since the day clock last took a value (R148). -/
def clockDue (s : State) : Bool := decide (s.day.clockSecond + 60 ≤ s.seconds)

/-- An advance: up by 1, from 1439 to 0, where the day-passed flags are set; then the head is checked (R137, R148). -/
def advanceClock (s : State) : State :=
  if s.day.clock < 1439 then missedCheck (setClockTo (s.day.clock + 1) s)
  else missedCheck (passDay (setClockTo 0 s))

/-- A SET_CLOCK that passes its checks: the clock takes the value, the permission is spent, the head is checked (R149). -/
def setDayClock (m : Nat) (s : State) : State :=
  let s1 := setClockTo m s
  missedCheck (s1.setDay { s1.day with armed := false })

end Sys2Proof.Machine
end

