-- ==== Sys2Proof/Machine/Vault.lean ====
section
/-! DEFINITION. The Safe Controller: inventory, chute and door, the lock and its timers, and the commands to the safe (chapter 5). -/

namespace Sys2Proof.Machine

/-! ## Commands to the safe (R93) -/

/-- The enabled node of role SAFE with the lowest identity (R93). -/
def safeNode (s : State) : Option Byte :=
  (firstIndex 252 fun i => s.nodes[i].enabled && decide (s.nodes[i].role = .safe)).map fun i => BitVec.ofNat 8 (i.val + 2)

/-- A command is owed, a place of the Room Port's outgoing queue is FREE, and a SAFE node is enabled (R93). -/
def commandPlaceable (s : State) : Bool := s.safe.owed && decide (0 < s.room.out.free) && (safeNode s).isSome

/-- While a command is owed and it can be placed, one SAFE_COMMAND with the commanded state is placed in the Room Port's queue and the
flag clears (R93). -/
def placeSafeCommand (s : State) : State :=
  if commandPlaceable s then
    match safeNode s with
    | none => s
    | some b =>
      match placeOut .room (safeCommandFrame b s.safe.commanded) s with
      | none => s
      | some s' => s'.setSafe { s'.safe with owed := false }
  else s

/-- A command decided on: the commanded state, the command-owed flag, and its placing in the same taking where it can be placed
(R93). -/
def commandSafe (c : BoltCommand) (s : State) : State :=
  placeSafeCommand (s.setSafe { s.safe with commanded := c, owed := true })

/-! ## The lock (R85) -/

/-- The lock in a new state with its timer, the deadline of the state entered or none (R85). -/
def setLock (l : LockState) (timer : Option Nat) (s : State) : State := s.setSafe { s.safe with lock := l, timer := timer }

/-- The failed-attempt count replaced. -/
def setFailed (n : Nat) (s : State) : State := s.setSafe { s.safe with failed := n }

/-- The lock enters WINDOW and the window timer starts (R86, R87, R94). -/
def enterWindow (s : State) : State := setLock .window (some (s.seconds + s.timing.openWindow)) s

/-- The states in which the chute works (R81). -/
def LockState.chuteWorks : LockState → Bool
  | .locked => true | .delay => true | .window => true | .lockout => true
  | .unlocked => false | .opened => false | .openForced => false

/-- The states in which the door's gate works (R82, R83). -/
def LockState.doorStands : LockState → Bool
  | .opened => true | .openForced => true
  | .locked => false | .delay => false | .window => false | .lockout => false | .unlocked => false

/-- A lock state as a detail. -/
def lockDetail (s : State) : Option Word32 := num s.safe.lock.code

/-! ## Bags through the chute and the door (R79, R81 to R84) -/

/-- The repeat of the last safe operation, with the detail of its verdict (R84). -/
def repeatOf (op : SafeOp) (n : Nat) (node : Byte) (s : State) : Option Word32 :=
  match s.safe.last with
  | none => none
  | some l => if l.op = op ∧ l.sealNo = n ∧ l.node = node ∧ bagIn s n l.state then some l.detail else none

/-- The inventory with an entry behind the ones present (R79). -/
def enterSafe (n : Nat) (way : EntryWay) (s : State) : State :=
  s.setSafe { s.safe with inventory := s.safe.inventory ++ [{ sealNo := n, way := way, second := s.seconds }] }

/-- The inventory without the entry of a seal (R79). -/
def leaveSafe (n : Nat) (s : State) : State :=
  s.setSafe { s.safe with inventory := s.safe.inventory.filter fun e => !decide (e.sealNo = n) }

/-- The last safe operation recorded (R84). -/
def recordOp (op : SafeOp) (n : Nat) (node : Byte) (st : BagState) (detail : Nat) (s : State) : State :=
  s.setSafe { s.safe with last := some { op := op, sealNo := n, node := node, state := st
                                         detail := BitVec.ofNat 32 detail } }

/-- A bag enters the safe: record, inventory and last operation in one taking (R81, R83). -/
def acceptEntry (op : SafeOp) (way : EntryWay) (b' : Bag) (node : Byte) (s : State) : State :=
  recordOp op b'.sealNo node b'.state (s.safe.inventory.length + 1)
    (enterSafe b'.sealNo way (changeBag b'.sealNo (fun _ => b') s))

/-- DROP (R81). -/
def dropRule (n : Nat) (node : Byte) (s : State) : State × Answer :=
  if !s.safe.lock.chuteWorks then (raiseNum .chuteHeld n s, .verdict .held none)
  else match repeatOf .drop n node s with
    | some d => (s, .verdict .duplicate (some d))
    | none =>
      match findBag s n with
      | none => (raiseNum .chuteHeld n s, .verdict .unknownBag none)
      | some b =>
        match moveDrop s.seconds b with
        | .error c => (s, .verdict c none)
        | .ok b' =>
          if Config.safeCapacity ≤ s.safe.inventory.length then (raiseNum .safeFull n s, .verdict .safeFull none)
          else (acceptEntry .drop .chute b' node s, .verdict .accepted (num (s.safe.inventory.length + 1)))

/-- DEPOSIT (R83). R82 gives the details of DOOR_SHUT and of the register's refusals; that a DEPOSIT's DOOR_SHUT carries the lock state too,
while the detail of its UNKNOWN_BAG and WRONG_BAG_STATE is left free, is the model's choice (log entry 23). -/
def depositRule (n : Nat) (node : Byte) (s : State) : State × Answer :=
  if !s.safe.lock.doorStands then (s, .verdict .doorShut (lockDetail s))
  else match repeatOf .deposit n node s with
    | some d => (s, .verdict .duplicate (some d))
    | none =>
      match findBag s n with
      | none => (s, .verdict .unknownBag none)
      | some b =>
        match moveDeposit s.seconds b with
        | .error c => (s, .verdict c none)
        | .ok b' =>
          if Config.safeCapacity ≤ s.safe.inventory.length then (raiseNum .safeFull n s, .verdict .safeFull none)
          else (acceptEntry .deposit .door b' node s, .verdict .accepted (num (s.safe.inventory.length + 1)))

/-- WITHDRAW (R82). -/
def withdrawRule (n : Nat) (node : Byte) (s : State) : State × Answer :=
  if !s.safe.lock.doorStands then (s, .verdict .doorShut (lockDetail s))
  else match repeatOf .withdraw n node s with
    | some d => (s, .verdict .duplicate (some d))
    | none =>
      match findBag s n with
      | none => (s, .verdict .unknownBag (num n))
      | some b =>
        match moveWithdraw s.call s.seconds b with
        | .error c => (s, .verdict c (num n))
        | .ok b' =>
          (recordOp .withdraw n node b'.state b'.state.code (leaveSafe n (changeBag n (fun _ => b') s)),
           .verdict .accepted (num b'.state.code))

/-- A frame whose body is a seal, under its rule; a body of another length is refused MALFORMED (log entry 7). -/
def sealJob (rule : Nat → Byte → State → State × Answer) (f : Taken) (s : State) : State × Answer :=
  match parseSeal f.frame.body with
  | none => (s, .verdict .malformed none)
  | some n => rule n f.frame.src s

/-- DROP (R81). -/
def dropJob (f : Taken) (s : State) : State × Answer := sealJob dropRule f s

/-- WITHDRAW (R82). -/
def withdrawJob (f : Taken) (s : State) : State × Answer := sealJob withdrawRule f s

/-- DEPOSIT (R83). -/
def depositJob (f : Taken) (s : State) : State × Answer := sealJob depositRule f s

/-! ## The door switch (R91) -/

/-- A report OPEN: UNLOCKED goes to OPEN; a bolted lock goes to OPEN_FORCED and DOOR_FORCED is raised with the state left (R91). -/
def doorOpened (s : State) : State :=
  match s.safe.lock with
  | .unlocked => setLock .opened none s
  | .opened => s
  | .openForced => s
  | .locked => raiseNum .doorForced s.safe.lock.code (setLock .openForced none s)
  | .delay => raiseNum .doorForced s.safe.lock.code (setLock .openForced none s)
  | .window => raiseNum .doorForced s.safe.lock.code (setLock .openForced none s)
  | .lockout => raiseNum .doorForced s.safe.lock.code (setLock .openForced none s)

/-- A report CLOSED: OPEN and OPEN_FORCED go to LOCKED with a LOCK commanded (R91). -/
def doorClosed (s : State) : State :=
  if s.safe.lock.doorStands then commandSafe .lock (setLock .locked none s) else s

/-- DOOR OPEN, and a DOOR whose body is neither report, which is refused MALFORMED (R91). -/
def doorOpenJob (f : Taken) (s : State) : State × Answer :=
  if f.frame.body = [0#8] then (doorOpened s, .verdict .accepted (lockDetail (doorOpened s)))
  else (s, .verdict .malformed none)

/-- DOOR CLOSED (R91). -/
def doorClosedJob (f : Taken) (s : State) : State × Answer :=
  if f.frame.body = [1#8] then (doorClosed s, .verdict .accepted (lockDetail (doorClosed s)))
  else (s, .verdict .malformed none)

/-- DOOR, by its report. -/
def doorJob (f : Taken) (s : State) : State × Answer :=
  if f.frame.body = [1#8] then doorClosedJob f s else doorOpenJob f s

/-! ## Opening by right (R86 to R90) -/

/-- The delay an OPEN_REQUEST takes: its kind and its length in seconds (R86). -/
def chooseDelay (s : State) : DelayKind × Nat :=
  if s.call.phase = .exchange then (.courier, s.timing.courierDelay)
  else if s.day.state = .night then (.night, s.timing.nightDelay)
  else (.day, s.timing.dayDelay)

/-- OPEN_REQUEST (R86). -/
def openRequestJob (f : Taken) (s : State) : State × Answer :=
  if f.frame.body ≠ [] then (s, .verdict .malformed none)
  else if s.safe.lock ≠ .locked then (s, .verdict .busy (lockDetail s))
  else
    let s1 := s.setSafe { s.safe with delayKind := (chooseDelay s).1 }
    (if (chooseDelay s).2 = 0 then enterWindow s1
     else setLock .delay (some (s.seconds + (chooseDelay s).2)) s1,
     .verdict .accepted (num (chooseDelay s).2))

/-- OPEN_CANCEL (R88). No rule gives a detail for ACCEPTED (log entry 4). -/
def openCancelJob (f : Taken) (s : State) : State × Answer :=
  if f.frame.body ≠ [] then (s, .verdict .malformed none)
  else if s.safe.lock = .delay ∨ s.safe.lock = .window then (setLock .locked none s, .verdict .accepted none)
  else (s, .verdict .wrongLockState (lockDetail s))

/-- OPEN_CONFIRM with satisfying marks (R89). -/
def openConfirmJob (f : Taken) (s : State) : State × Answer :=
  if f.frame.body ≠ [] then (s, .verdict .malformed none)
  else if s.safe.lock ≠ .window then (s, .verdict .wrongLockState (lockDetail s))
  else
    (commandSafe .unlock (setFailed 0 (setLock .unlocked (some (s.seconds + s.timing.relockTime)) s)),
     .verdict .accepted (num s.timing.relockTime))

/-- An OPEN_CONFIRM refused for its witness marks (R90): counted in WINDOW, and at the limit the lock goes to LOCKOUT. `n` is the
number of marks that qualified (R173). -/
def confirmFailed (n : Nat) (s : State) : State × Answer :=
  if s.safe.lock ≠ .window then (s, .verdict .witnessMissing (num n))
  else
    let k := min 9 (s.safe.failed + 1)
    if k < s.timing.confirmLimit then (setFailed k s, .verdict .witnessMissing (num k))
    else
      (commandSafe .lock (raiseNum .safeLockout k (setLock .lockout none (setFailed k s))), .verdict .lockout (num k))

/-! ## Expiries and release (R87, R92, R94) -/

/-- SAFE_RELEASE in LOCKOUT (R92). -/
def releaseLockout (s : State) : State := commandSafe .lock (setFailed 0 (setLock .locked none s))

/-- The delay timer expires in DELAY (R87). -/
def delayExpired (s : State) : State := enterWindow s

/-- The window timer expires in WINDOW (R87). -/
def windowExpired (s : State) : State := raiseNum .windowExpired s.safe.failed (setLock .locked none s)

/-- The relock timer expires in UNLOCKED (R94). -/
def relockExpired (s : State) : State := commandSafe .lock (setLock .locked none s)

/-- RESTART at the lock (R96): DELAY and WINDOW return to LOCKED, and the command is owed again. -/
def restartLock (s : State) : State :=
  let s1 := if s.safe.lock = .delay ∨ s.safe.lock = .window then setLock .locked none s else s
  s1.setSafe { s1.safe with owed := true }

end Sys2Proof.Machine
end

