-- ==== Sys2Proof/Machine/Settle.lean ====
section
/-! DEFINITION. The end of a taking: the closing test, an owed safe command, a waiting SEND, the indirect events and the state vector;
and with them the Agent's reply and the downlink queues (R93, R145, R178, R181, R183, R190). -/

namespace Sys2Proof.Machine

/-! ## The Agent's reply (R190) -/

/-- The entry at the head leaves the receive buffer (R190). -/
def popRequest (s : State) : State := s.setTrunk { s.trunk with buffer := s.trunk.buffer.tail, sendWaits := false }

/-- The REPLY to a request, unsent; a detail no rule states is drawn free (R190, log entry 4). -/
def answerRequest (tag : Word16) (code : Byte) (result : Code) (detail : Option Word32) (data : List Byte) (s : State) :
    State :=
  let p := drawDetail detail s
  p.2.setTrunk { p.2.trunk with
    reply := some { tag := tag, code := code, result := result, detail := p.1, data := data } }

/-! ## SEND (R178) -/

/-- Registered: enabled, and on a port that is not NONE (R168). -/
def registered (s : State) (b : Byte) : Bool :=
  match s.node b with
  | some n => n.enabled && decide (n.port ≠ .none)
  | none => false

/-- The port of a port byte (R197). -/
def portOfByte (b : Byte) : Option Port := if b = 0 then some .floor else if b = 1 then some .room else none

/-- The first check of R178 fails. -/
def sendMalformed (port pb : Byte) (body : List Byte) : Bool :=
  (portOfByte port).isNone || decide (40 < body.length) || markMode pb == .reply || !zeroBitsClear pb

/-- The second check of R178 passes: the destination is a registered device, or the broadcast. -/
def sendDestination (s : State) (dest : Byte) : Bool := registered s dest || dest == 0xFF#8

/-- The queue a SEND goes to (R178). -/
def sendQueue (s : State) (port dest : Byte) : Port :=
  if registeredOn s .floor dest || (dest == 0xFF#8 && port == 0#8) then .floor else .room

/-- The line frame of a SEND: source 0x00 (R178). -/
def sendFrame (pb kind dest : Byte) (body : List Byte) : LineFrame :=
  { pb := pb, kind := kind, dest := dest, src := 0, body := body }

/-- A downlink queue has a FREE place (R178). -/
def downlinkFree (s : State) (p : Port) : Bool := decide ((s.port p).down.length < downlinkPlaces p)

/-- A SEND placed at its queue's tail and answered ACCEPTED with request code 0x00; its detail is not stated (R178, log entry 4). -/
def placeSend (tag : Word16) (p : Port) (f : LineFrame) (s : State) : State :=
  answerRequest tag 0 .accepted none [] (popRequest (s.setDown p ((s.port p).down ++ [f])))

/-- The SEND that waits at the head is placed once its queue has a FREE place (R178). -/
def placeWaiting (s : State) : State :=
  match s.trunk.sendWaits, s.trunk.buffer with
  | true, .send tag port pb kind dest body :: _ =>
    if downlinkFree s (sendQueue s port dest) then
      placeSend tag (sendQueue s port dest) (sendFrame pb kind dest body) s
    else s
  | _, _ => s

/-- A SEND waits, and its queue has a FREE place (R178). -/
def waitingPlaceable (s : State) : Bool :=
  match s.trunk.sendWaits, s.trunk.buffer with
  | true, .send _ port _ _ dest _ :: _ => downlinkFree s (sendQueue s port dest)
  | _, _ => false

/-! ## The end of a taking -/

/-- The closing test, where the taking `s` to `s'` reported: it entered CLOSING or changed what a condition reads (R145, log entry 19). -/
def testReports (s s' : State) : State :=
  if s.day.state = .closing ∧ closeInputs s = closeInputs s' then s' else testClosing s'

/-- A SAFE_COMMAND owed is placed in the taking that frees a place or enables a node for it (R93). -/
def placeIfFreed (s s' : State) : State := if commandPlaceable s then s' else placeSafeCommand s'

/-- A waiting SEND is placed in the taking that frees a place of its queue (R178). -/
def sendIfFreed (s s' : State) : State := if waitingPlaceable s then s' else placeWaiting s'

/-- The end of every taking: the indirect events and the state vector (R181, R183). -/
def settleEvents (s : State) : State := evaluateVector (syncIndirect s)

/-- The end of a taking that led from `s` to `s'`. -/
def settle (s s' : State) : State := settleEvents (sendIfFreed s (placeIfFreed s (testReports s s')))

/-- The end of RESTART's taking: the SAFE_COMMAND it sets owed is not placed within it (R96, R161, log entry 8). -/
def settleRestart (s s' : State) : State := settleEvents (sendIfFreed s (testReports s s'))

/-- The outcome of a taking with effect `f`. -/
def taking (f : State → State) (s : State) : Host.Outcome State Fault Refusal := .next (settle s (f s))

end Sys2Proof.Machine
end

