-- ==== Sys2Proof/Machine/Inspect.lean ====
section
/-! DEFINITION. The Frame Inspector: the receipt mark and its reservations, the checks of a taken frame, the witness marks, the answer and
the relay envelope (chapter 10). -/

namespace Sys2Proof.Machine

/-! ## Kinds and their senders (R171) -/

/-- The roles that may send a kind (R171). -/
def JobKind.senders : JobKind → List Role
  | .tender | .refund | .pickup | .cashup | .declare | .floatReceipt | .tillOpen => [.till]
  | .drop | .withdraw | .deposit | .door => [.safe]
  | .openRequest | .openConfirm | .openCancel | .makeUp | .restock | .handKey | .sign => [.console]
  | .bagOpen | .batch | .bagClose => [.counter]
  | .countAbort => [.counter, .console]
  | .announce | .load | .receive => [.hatch]

/-- The seven till kinds (R171). -/
def JobKind.till : JobKind → Bool
  | .tender | .refund | .pickup | .cashup | .declare | .floatReceipt | .tillOpen => true
  | .drop | .withdraw | .deposit | .door | .openRequest | .openConfirm | .openCancel | .makeUp | .restock => false
  | .bagOpen | .batch | .bagClose | .countAbort | .handKey | .announce | .load | .receive | .sign => false

/-- The destination a kind must carry: the back office for a till kind, the part for a room job kind (R171). -/
def JobKind.dest (k : JobKind) : Byte := if k.till then 0 else partNode

/-- The entry of the witness table for a guarded kind (R170). -/
def JobKind.guardRow : JobKind → Option (Fin 7)
  | .pickup => some 0 | .cashup => some 1 | .floatReceipt => some 2 | .openRequest => some 3 | .openConfirm => some 4
  | .makeUp => some 5 | .sign => some 6
  | .tender | .refund | .declare | .tillOpen | .drop | .withdraw | .deposit | .door | .openCancel | .restock => none
  | .bagOpen | .batch | .bagClose | .countAbort | .handKey | .announce | .load | .receive => none

/-- The mark mode a kind must carry: GATHER for a guarded kind, ONE for every other (R171). -/
def JobKind.mode (k : JobKind) : MarkMode := if k.guardRow.isSome then .gather else .one

/-- The day states in which a kind is allowed (section 8.6). -/
def JobKind.allowedIn (k : JobKind) (d : DayState) : Bool :=
  match k with
  | .drop | .withdraw | .deposit | .door | .openRequest | .openConfirm | .openCancel | .restock => true
  | .cashup => d = .trading || d = .closing
  | .tillOpen => d = .opening || d = .trading
  | .tender | .refund | .pickup | .declare | .floatReceipt | .makeUp => d ≠ .night
  | .bagOpen | .batch | .bagClose | .countAbort | .handKey | .announce | .load | .receive | .sign => d ≠ .night

/-- The job rule of a kind (R173, step 7). -/
def JobKind.job : JobKind → Taken → State → State × Answer
  | .tender => tenderJob | .refund => refundJob | .pickup => pickupJob | .cashup => cashupJob | .declare => declareJob
  | .floatReceipt => floatReceiptJob | .tillOpen => tillOpenJob
  | .drop => dropJob | .withdraw => withdrawJob | .deposit => depositJob | .door => doorJob
  | .openRequest => openRequestJob | .openConfirm => openConfirmJob | .openCancel => openCancelJob
  | .makeUp => makeUpJob | .restock => restockJob
  | .bagOpen => bagOpenJob | .batch => batchJob | .bagClose => bagCloseJob | .countAbort => countAbortJob
  | .handKey => handKeyJob
  | .announce => announceJob | .load => loadJob | .receive => receiveJob | .sign => signJob

/-! ## The receipt mark (R172) -/

/-- Addressed to the part: destination 0x00 or 0x01, source 0x02 to 0xFD, and a mark mode with a window (R172). -/
def addressed (f : LineFrame) : Bool :=
  (f.dest == 0#8 || f.dest == 1#8) && (nodeRow f.src).isSome && markMode f.pb != .none

/-- A FREE place of the uplink queue becomes RESERVED (R172, R176). -/
def reserveUplink (s : State) : State := s.setUplink { s.uplink with reserved := s.uplink.reserved + 1 }

/-- A FREE place of a port's outgoing queue becomes RESERVED (R161, R172). -/
def reserveOut (p : Port) (s : State) : State := s.setOut p { (s.port p).out with reserved := (s.port p).out.reserved + 1 }

/-- The Inspector's answer to a frame offered at END-OF-DATA, with its reservations or QUEUE_FULL (R172, R177). That an opaque frame from a
source not registered on the port raises nothing also where no uplink place is FREE is the model's choice (log entry 25). -/
def offer (p : Port) (f : LineFrame) (s : State) : State × MarkAnswer :=
  if !addressed f then (s, .none)
  else if opaqueKind f.kind && !registeredOn s p f.src then (s, .none)
  else if s.uplink.free = 0 then (raiseQueueFull p false s, .none)
  else if opaqueKind f.kind then (reserveUplink s, .sending)
  else if (s.port p).out.free = 0 then (raiseQueueFull p true s, .none)
  else (reserveOut p (reserveUplink s), .sending)

/-- The reservations of a frame that turned out not to be marked are released (R156). -/
def releaseReservations (p : Port) (f : LineFrame) (s : State) : State :=
  let s1 := s.setUplink { s.uplink with reserved := s.uplink.reserved - 1 }
  if opaqueKind f.kind then s1 else s1.setOut p (s1.port p).out.release

/-! ## Witness marks (R174) -/

/-- A mark put into an ascending list, each identity taken once. -/
def insertMark (b : Byte) : List Byte → List Byte
  | [] => [b]
  | c :: rest => if b = c then c :: rest else if b.toNat < c.toNat then b :: c :: rest else c :: insertMark b rest

/-- The candidates, in ascending order of identity (R174). -/
def candidates (s : State) (f : Taken) : List Byte :=
  (f.marks.foldl (fun l b => insertMark b l) []).filter fun b =>
    b != partNode && b != f.frame.src && registeredOn s f.port b

/-- A role that carries a till number (R168). -/
def Role.carriesTill : Role → Bool
  | .till => true | .tillBadge => true
  | .carrier => false | .counter => false | .safe => false | .hatch => false | .courierReader => false | .console => false

/-- A candidate serves in a role: it has it, and with the same-till flag set a role with a till number names the source's till (R174). -/
def serves (s : State) (f : Taken) (sameTill : Bool) (r : Role) (b : Byte) : Bool :=
  decide (roleOf s b = some r) && (!sameTill || !r.carriesTill || decide (tillOf s b = tillOf s f.frame.src))

/-- The first pair of distinct candidates that serve in role A and role B, by the lowest A and then the lowest B (R174). -/
def choosePair (s : State) (w : Witness) (f : Taken) (cs : List Byte) : List Byte → Option (Byte × Byte)
  | [] => none
  | a :: rest =>
    if serves s f w.sameTill w.roleA a then
      match cs.find? fun b => b != a && serves s f w.sameTill w.roleB b with
      | some b => some (a, b)
      | none => choosePair s w f cs rest
    else choosePair s w f cs rest

/-- The witness pair of a frame under an entry of the witness table (R174). -/
def witnessPair (s : State) (w : Witness) (f : Taken) : Option (Byte × Byte) :=
  choosePair s w f (candidates s f) (candidates s f)

/-- The number of marks that qualify in role A or role B (R173, step 6). With the same-till flag set, a mark that has the role but
another till's number serves in no pair and is not counted: the model's choice (log entry 23). -/
def qualified (s : State) (w : Witness) (f : Taken) : Nat :=
  ((candidates s f).filter fun b => serves s f w.sameTill w.roleA b || serves s f w.sameTill w.roleB b).length

/-! ## Inspection (R173) -/

/-- Step 5: destination, mark mode, zero bits, and the type of a MAKE_UP (R173). -/
def formed (k : JobKind) (f : LineFrame) : Bool :=
  f.dest == k.dest && markMode f.pb == k.mode && zeroBitsClear f.pb &&
    (k != .makeUp || f.body.head? == some 0#8 || f.body.head? == some 1#8)

/-- A node's role as a detail. -/
def roleDetail (s : State) (b : Byte) : Option Word32 := (roleOf s b).elim none fun r => num r.code

/-- Steps 1 to 5: the kind of a frame that passes them, or the verdict of the first that fails (R173). -/
def inspectForm (f : Taken) (s : State) : Except Answer JobKind :=
  if !registeredOn s f.port f.frame.src then .error (.verdict .unknownNode (num f.frame.src.toNat))
  else match JobKind.ofByte f.frame.kind with
    | none => .error (.verdict .unknownKind (num f.frame.kind.toNat))
    | some k =>
      if !(k.senders.any fun r => roleOf s f.frame.src = some r) then
        .error (.verdict .roleNotAllowed (roleDetail s f.frame.src))
      else if !k.allowedIn s.day.state then .error (.verdict .wrongDayState (num s.day.state.code))
      else if !formed k f.frame then .error (.verdict .malformed (num 0))
      else .ok k

/-- Steps 6 and 7: the witness marks of a guarded kind, then the job rule (R173, R174). A failing OPEN_CONFIRM goes to the Safe Controller
first (R90). -/
def witnessAndRun (k : JobKind) (f : Taken) (s : State) : State × Answer :=
  match k.guardRow with
  | none => k.job f s
  | some i =>
    match witnessPair s s.witness[i] f with
    | some pair => k.job { f with pair := some pair } s
    | none =>
      if k = .openConfirm then confirmFailed (qualified s s.witness[i] f) s
      else (s, .verdict .witnessMissing (num (qualified s s.witness[i] f)))

/-- What decides a marked frame of a kind that is not opaque: the first failing step of R173, or its job rule. -/
def decideFrame (f : Taken) (s : State) : State × Answer :=
  match inspectForm f s with
  | .error a => (s, a)
  | .ok k => witnessAndRun k f s

/-! ## Answer and envelope (R175, R176) -/

/-- The stamp of an answer: HOLD is stamped ACCEPTED, every other answer its own code (R176). -/
def Answer.stamp : Answer → Code
  | .verdict c _ => if c = .hold then .accepted else c
  | .advice status _ => status

/-- The answer fills the outgoing place reserved for it (R175). -/
def fillAnswer (f : Taken) (a : Answer) (s : State) : State :=
  match a with
  | .verdict c d =>
    (drawDetail d s).2.setOut f.port (((drawDetail d s).2.port f.port).out.fill
      (verdictFrame f.frame.kind f.crc f.frame.src c (drawDetail d s).1))
  | .advice _ body => s.setOut f.port ((s.port f.port).out.fill (adviceFrame f.frame.src body))

/-- The envelope of a taken frame fills its reserved uplink place (R176). -/
def fillEnvelope (f : Taken) (stamp : Code) (s : State) : State :=
  s.setUplink (s.uplink.fill
    { port := f.port, second := s.seconds, stamp := stamp, marks := f.marks, frame := f.frame })

/-- A decided frame's answer and its envelope (R175, R176). -/
def answerAndRelay (f : Taken) (a : Answer) (s : State) : State := fillEnvelope f a.stamp (fillAnswer f a s)

/-- A marked frame is taken: an opaque one is relayed blind, any other is decided, answered and relayed (R175 to R177). -/
def takeFrame (f : Taken) (s : State) : State :=
  if opaqueKind f.frame.kind then fillEnvelope f .accepted s
  else answerAndRelay f (decideFrame f s).2 (decideFrame f s).1

/-- A frame in its window as the Inspector takes it: port, frame, CRC, gathered marks. -/
def Window.taken (w : Window) (p : Port) : Taken := { port := p, frame := w.frame, crc := w.crc, marks := w.marks, pair := none }

/-- A frame whose window has ended: a marked one is taken, an unmarked one has no effect and its reservations are released (R156). -/
def endWindow (p : Port) (w : Window) (s : State) : State :=
  match w.answer with
  | .marked => takeFrame (w.taken p) s
  | .sending => releaseReservations p w.frame s
  | .none => s

/-! ## END-OF-FRAME for a marked frame of a kind -/

/-- END-OF-FRAME arrives on a port whose receiver holds, in MARK_WINDOW, a marked frame of the command's kind: the receiver enters IDLE and
the frame is taken (R156). With no such frame the command finds nothing to take (log entry 1). -/
def deliver (p : Port) (isKind : LineFrame → Bool) (s : State) : Host.Outcome State Fault Refusal :=
  match (s.port p).rx with
  | .markWindow w =>
    if w.answer = .marked ∧ isKind w.frame = true then
      taking (fun s => takeFrame (w.taken p) (s.setRx p .idle)) s
    else .next s
  | _ => .next s

/-- A frame of a job kind. -/
def isJob (k : JobKind) (f : LineFrame) : Bool := f.kind == k.byte

/-- A MAKE_UP of type CONSIGNMENT (R197). -/
def isConsignment (f : LineFrame) : Bool := isJob .makeUp f && f.body.head? == some 1#8

/-- A DOOR report CLOSED (R197). -/
def isDoorClosed (f : LineFrame) : Bool := isJob .door f && f.body == [1#8]

/-- A kind the Inspector does not act on (R171). -/
def isUnknown (f : LineFrame) : Bool := !opaqueKind f.kind && (JobKind.ofByte f.kind).isNone

end Sys2Proof.Machine
end

