-- ==== Sys2Proof/Machine/Lines.lean ====
section
/-! DEFINITION. The Floor Port and the Room Port: the receiver's and the transmitter's states, errors, attempts, and RESTART at a port
(chapter 9). -/

namespace Sys2Proof.Machine

/-- A command that applies takes effect `f`; one that the state rules out leaves the state (log entry 1). -/
def takingIf (applies : Bool) (f : State → State) (s : State) : Host.Outcome State Fault Refusal :=
  if applies then taking f s else .next s

/-- The transmitter holds the line (R163). -/
def txActive (s : State) (p : Port) : Bool := decide ((s.port p).tx.phase ≠ .idle)

/-! ## Errors of the receiver (R155, R156) -/

/-- An error: counted, the receiver in WAIT_IDLE, a frame in progress discarded, and a marked frame in its window taken with the marks
gathered so far (R155, R156). -/
def receiverError (p : Port) (c : LineCounter) (s : State) : State :=
  match (s.port p).rx with
  | .markWindow w => endWindow p w (countError p c (s.setRx p .waitIdle))
  | _ => countError p c (s.setRx p .waitIdle)

/-- The receiver is in a state in which an invalid symbol is an error (R155). -/
def Receiver.listening : Receiver → Bool
  | .idle => true | .receiving _ => true | .markWindow _ => true
  | .waitIdle => false | .ignoring => false

/-! ## Attempts of the transmitter (R162 to R164) -/

/-- The place of the current frame becomes FREE (R164). -/
def freePlace (p : Port) (src : TxSource) (s : State) : State :=
  match src with
  | .outgoing i => s.setOut p { (s.port p).out with filled := (s.port p).out.filled.eraseIdx i }
  | .downlink => s.setDown p (s.port p).down.tail

/-- The transmitter in IDLE with a current frame or none, and what it has driven (R163). -/
def txIdle (p : Port) (c : Option Current) (s : State) : State :=
  s.setTx p { phase := .idle, current := c, marks := [], driven := (s.port p).tx.driven }

/-- The current frame is delivered: its place frees and there is no current frame (R164). -/
def deliverCurrent (p : Port) (s : State) : State :=
  match (s.port p).tx.current with
  | some c => freePlace p c.source (txIdle p none s)
  | none => txIdle p none s

/-- The Safe Controller is told of a discarded SAFE_COMMAND: the command is owed again (R93, R164). -/
def tellOwner (c : Current) (s : State) : State :=
  if c.source ≠ .downlink ∧ c.frame.kind = kindSafeCommand then s.setSafe { s.safe with owed := true } else s

/-- The current frame is discarded: place, undelivered counter, LINK_ERROR, the owner told (R164). -/
def discardCurrent (p : Port) (c : Current) (s : State) : State :=
  tellOwner c (countError p .undelivered (freePlace p c.source (txIdle p none s)))

/-- An attempt fails: below 4 attempts the frame stays current, at 4 it is discarded (R164). -/
def failAttempt (p : Port) (s : State) : State :=
  match (s.port p).tx.current with
  | some c => if c.attempts < Config.attemptLimit then txIdle p (some c) s else discardCurrent p c s
  | none => txIdle p none s

/-- An attempt is abandoned: it does not count and the frame stays current (R164). -/
def abandonAttempt (p : Port) (s : State) : State :=
  txIdle p ((s.port p).tx.current.map fun c => { c with attempts := c.attempts - 1 }) s

/-- The destination's mark is among the marks recorded in a window (R164). No node marks with the broadcast identity, so a frame to 0xFF is
delivered by no mark; that this holds in mode GATHER too, where R164 names mode ONE, is deduced from its reason (log entry 29). -/
def destinationMarked (f : LineFrame) (marks : List Byte) : Bool := f.dest != 0xFF#8 && marks.contains f.dest

/-- The window of the part's own frame has closed with the marks recorded: delivered when the destination's mark is among them, else
failed (R164). -/
def closeWindow (p : Port) (s : State) : State :=
  match (s.port p).tx.current with
  | some c => if destinationMarked c.frame (s.port p).tx.marks then deliverCurrent p s else failAttempt p s
  | none => txIdle p none s

/-- An unexpected symbol during the part's own transmission: the symbol counter, WAIT_IDLE, a failed attempt (R163). -/
def txSymbolError (p : Port) (s : State) : State := failAttempt p (countError p .symbol (s.setRx p .waitIdle))

/-! ## START, END-OF-DATA and marks -/

/-- On the Floor Port in NIGHT a frame is ignored (R158). -/
def ignoresFloor (s : State) (p : Port) : Bool := p == .floor && s.day.state == .night

/-- START arrives (R153, R158, R163). -/
def startArrives (p : Port) (s : State) : Host.Outcome State Fault Refusal :=
  if txActive s p then taking (txSymbolError p) s
  else match (s.port p).rx with
    | .idle =>
      taking (fun s => (s.setRx p (if ignoresFloor s p then .ignoring else .receiving [])).setLineIdle p false) s
    | .receiving _ | .markWindow _ => taking (receiverError p .framing) s
    | .waitIdle | .ignoring => .next s

/-- What END-OF-DATA finds in the data of a frame (R155, R156). -/
inductive DataFinding where
  | longFrame
  | framing
  | check
  | good (frame : LineFrame) (crc : Word16)
  deriving DecidableEq, Repr

/-- The data of a frame checked: length byte, completeness, CRC (R151, R152, R155). -/
def checkData (bits : List Bool) : DataFinding :=
  match splitBytes bits with
  | (pb :: kind :: dest :: src :: len :: rest, left) =>
    if 40 < len.toNat then .longFrame
    else if len.toNat + 2 < rest.length then .longFrame
    else if left ≠ [] ∨ rest.length < len.toNat + 2 then .framing
    else if unbe (rest.drop len.toNat) ≠ (crc16 (pb :: kind :: dest :: src :: len :: rest.take len.toNat)).toNat then .check
    else .good { pb := pb, kind := kind, dest := dest, src := src, body := rest.take len.toNat }
      (BitVec.ofNat 16 (unbe (rest.drop len.toNat)))
  | _ => .framing

/-- A frame that passed: the Inspector's answer is taken and the receiver enters MARK_WINDOW (R156). -/
def openWindow (p : Port) (f : LineFrame) (crc : Word16) (s : State) : State :=
  let r := offer p f s
  r.1.setRx p (.markWindow { frame := f, crc := crc, answer := r.2, marks := [] })

/-- END-OF-DATA in RECEIVING (R155, R156). -/
def closeData (p : Port) (bits : List Bool) (s : State) : State :=
  match checkData bits with
  | .longFrame => receiverError p .longFrame s
  | .framing => receiverError p .framing s
  | .check => receiverError p .check s
  | .good f crc => openWindow p f crc s

/-- The remaining data bits and END-OF-DATA arrive (R153, R156, R163). -/
def endOfDataArrives (p : Port) (bits : List Bool) (s : State) : Host.Outcome State Fault Refusal :=
  if txActive s p then taking (txSymbolError p) s
  else match (s.port p).rx with
    | .receiving have_ => taking (closeData p (have_ ++ bits)) s
    | .idle | .markWindow _ => taking (receiverError p .framing) s
    | .waitIdle | .ignoring => .next s

/-- A mark byte completes in a received frame's window: gathered; the first tells whether the part's mark stands (R153, R156). -/
def gatherMark (p : Port) (w : Window) (mark : Byte) (s : State) : State :=
  if 6 ≤ w.marks.length then receiverError p .framing s
  else if w.answer = .sending ∧ mark ≠ partNode then
    releaseReservations p w.frame (s.setRx p (.markWindow { w with answer := .none, marks := w.marks ++ [mark] }))
  else
    s.setRx p (.markWindow { w with
      answer := if w.answer = .sending then .marked else w.answer, marks := w.marks ++ [mark] })

/-- The marks that fill a window (R157). -/
def fullWindow (pb : Byte) : Nat := if markMode pb = .one then 1 else 6

/-- A mark byte in the window of the part's own frame: recorded, and the window closes when it is full (R157, R163). -/
def recordMark (p : Port) (mark : Byte) (s : State) : State :=
  let tx := (s.port p).tx
  let s1 := s.setTx p { tx with marks := tx.marks ++ [mark] }
  match tx.current with
  | some c => if fullWindow c.frame.pb ≤ tx.marks.length + 1 then closeWindow p s1 else s1
  | none => s1

/-- A mark byte completes (R157). -/
def markArrives (p : Port) (mark : Byte) (s : State) : Host.Outcome State Fault Refusal :=
  if (s.port p).tx.phase = .awaitMarks then taking (recordMark p mark) s
  else match (s.port p).rx with
    | .markWindow w => taking (gatherMark p w mark) s
    | .idle | .receiving _ | .waitIdle | .ignoring => .next s

/-- END-OF-FRAME arrives for a frame the part did not mark (R153, R156, R163). A marked frame is delivered by the command of its kind. -/
def endOfFrameArrives (p : Port) (s : State) : Host.Outcome State Fault Refusal :=
  if txActive s p then taking (txSymbolError p) s
  else match (s.port p).rx with
    | .markWindow w =>
      if w.answer = .marked then .next s else taking (fun s => endWindow p w (s.setRx p .idle)) s
    | .ignoring => taking (fun s => s.setRx p .idle) s
    | .idle | .receiving _ => taking (receiverError p .framing) s
    | .waitIdle => .next s

/-! ## Errors as commands -/

/-- An invalid symbol, or during the part's own transmission a framing symbol of another node (R155, R163). -/
def symbolErrorArrives (p : Port) (symbol : LineSymbol) (s : State) : Host.Outcome State Fault Refusal :=
  if txActive s p then takingIf symbol.isSymbolError (txSymbolError p) s
  else takingIf (symbol == .invalid && (s.port p).rx.listening) (receiverError p .symbol) s

/-- Whether a symbol is a framing error in a receiver state; `incomplete` says that the bits since the last byte, or the data, were not
complete (R155). -/
def isFramingError (rx : Receiver) (symbol : LineSymbol) (incomplete : Bool) : Bool :=
  match rx, symbol with
  | .idle, .dataBit | .idle, .endOfData | .idle, .endOfFrame => true
  | .receiving _, .start | .receiving _, .endOfFrame | .receiving _, .idleGap | .receiving _, .idle => true
  | .receiving _, .endOfData => incomplete
  | .markWindow _, .start | .markWindow _, .endOfData | .markWindow _, .idle => true
  | .markWindow w, .dataBit => decide (6 ≤ w.marks.length)
  | .markWindow _, .idleGap | .markWindow _, .endOfFrame => incomplete
  | _, _ => false

/-- A symbol out of its place (R155). -/
def framingErrorArrives (p : Port) (symbol : LineSymbol) (incomplete : Bool) (s : State) : Host.Outcome State Fault Refusal :=
  takingIf (!txActive s p && isFramingError (s.port p).rx symbol incomplete) (receiverError p .framing) s

/-- A frame being received. -/
def Receiver.isReceiving : Receiver → Bool
  | .receiving _ => true
  | .idle => false | .markWindow _ => false | .waitIdle => false | .ignoring => false

/-- A length byte over 40, or a data byte where END-OF-DATA is due (R155). -/
def longFrameArrives (p : Port) (s : State) : Host.Outcome State Fault Refusal :=
  takingIf (!txActive s p && (s.port p).rx.isReceiving) (receiverError p .longFrame) s

/-- A BREAK, in any state: counted once, the receiver in WAIT_IDLE, an attempt abandoned, a marked frame taken (R155, R156, R164). -/
def breakEffect (p : Port) (s : State) : State :=
  receiverError p .breaks (if txActive s p then abandonAttempt p s else s)

/-- The line becomes idle (R153). -/
def idleArrives (p : Port) (s : State) : Host.Outcome State Fault Refusal :=
  if txActive s p then .next s
  else match (s.port p).rx with
    | .idle | .waitIdle | .ignoring => taking (fun s => (s.setRx p .idle).setLineIdle p true) s
    | .receiving _ | .markWindow _ => taking (receiverError p .framing) s

/-! ## The transmitter's commands (R162, R163) -/

/-- The first of the frames whose header is the lowest, with its place, counted from `n` (R162). -/
def lowestFrame : Nat → List LineFrame → Option (Nat × LineFrame)
  | _, [] => none
  | n, f :: rest =>
    match lowestFrame (n + 1) rest with
    | none => some (n, f)
    | some (m, g) => if f.rank ≤ g.rank then some (n, f) else some (m, g)

/-- The frame to become current: the lowest header among the FILLED places and the downlink head (R162). -/
def chooseFrame (q : LinePort) : Option Current :=
  match lowestFrame 0 q.out.filled, q.down with
  | none, [] => none
  | some (n, f), [] => some { frame := f, source := .outgoing n, attempts := 0 }
  | none, d :: _ => some { frame := d, source := .downlink, attempts := 0 }
  | some (n, f), d :: _ =>
    if f.rank ≤ d.rank then some { frame := f, source := .outgoing n, attempts := 0 }
    else some { frame := d, source := .downlink, attempts := 0 }

/-- The transmitter may take a current frame: it is IDLE without one (R162). -/
def mayChoose (q : LinePort) : Bool := decide (q.tx.phase = .idle) && q.tx.current.isNone

/-- The transmitter takes its current frame (R162). -/
def chooseCurrent (p : Port) (s : State) : State :=
  s.setTx p { (s.port p).tx with current := chooseFrame (s.port p) }

/-- The transmitter may start: a current frame, the receiver in IDLE, the line idle (R163). -/
def mayStart (q : LinePort) : Bool :=
  decide (q.tx.phase = .idle) && q.tx.current.isSome && decide (q.rx = .idle) && q.lineIdle

/-- START and the header go out: ARBITRATING, attempts used up by 1 (R163). -/
def startSending (p : Port) (s : State) : State :=
  (s.setTx p { phase := .arbitrating
               current := (s.port p).tx.current.map fun c => { c with attempts := c.attempts + 1 }
               marks := [], driven := [] }).setLineIdle p false

/-- The header bits of the current frame in line order. -/
def ownHeader (q : LinePort) : List Bool :=
  match q.tx.current with
  | some c => lineBits c.frame.header
  | none => []

/-- Arbitration can be lost at a bit: the part sends the header and its bit there is recessive (R159). -/
def mayLose (q : LinePort) (bit : Nat) : Bool := decide (q.tx.phase = .arbitrating) && (ownHeader q).getD bit false

/-- Arbitration is lost at a header bit: the receiver takes up the winning frame with the bits read so far, and the attempt has failed
(R160, R164). -/
def loseArbitration (p : Port) (bit : Nat) (s : State) : State :=
  failAttempt p (s.setRx p
    (if ignoresFloor s p then .ignoring else .receiving ((ownHeader (s.port p)).take bit ++ [false])))

/-- The header has gone out without loss: SENDING (R163). -/
def sendBody (p : Port) (s : State) : State :=
  s.setTx p { (s.port p).tx with
    phase := .sending, driven := ((s.port p).tx.current.map fun c => c.frame.header).getD [] }

/-- A send clash (R160). -/
def clashed (p : Port) (s : State) : State := failAttempt p (countError p .clash (s.setRx p .waitIdle))

/-- Body, CRC and END-OF-DATA have gone out: in mode NONE the frame is delivered, else the window opens (R163). -/
def dataGone (p : Port) (s : State) : State :=
  let tx := (s.port p).tx
  match tx.current with
  | some c =>
    let s1 := s.setTx p { tx with phase := .awaitMarks, marks := [], driven := c.frame.wire }
    if markMode c.frame.pb = .none then deliverCurrent p s1 else s1
  | none => txIdle p none s

/-- The transmitter is in a phase. -/
def txIn (s : State) (p : Port) (x : TxPhase) : Bool := decide ((s.port p).tx.phase = x)

/-! ## RESTART at a port (R166) -/

/-- A marked frame in the port's window (R166). -/
def markedWindow (s : State) (p : Port) : Option Window :=
  match (s.port p).rx with
  | .markWindow w => if w.answer = .marked then some w else none
  | _ => none

/-- The marked frame of a port's window is taken with the marks gathered so far, and the receiver enters WAIT_IDLE (R166). -/
def takeMarkedWindow (p : Port) (s : State) : State :=
  match markedWindow s p with
  | some w => takeFrame (w.taken p) (s.setRx p .waitIdle)
  | none => s

/-- Both ports' marked frames, in an order that no rule gives when there are two (R195, log entry 6). -/
def takeMarkedWindows (s : State) : State :=
  if (markedWindow s .floor).isSome && (markedWindow s .room).isSome then
    if Config.restartFloorFirst s.draws then
      takeMarkedWindow .room (takeMarkedWindow .floor (s.setDraws (s.draws + 1)))
    else takeMarkedWindow .floor (takeMarkedWindow .room (s.setDraws (s.draws + 1)))
  else takeMarkedWindow .room (takeMarkedWindow .floor s)

/-- A receiver after RESTART: a frame being received is discarded (R166, log entry 15). -/
def Receiver.restarted : Receiver → Receiver
  | .idle => .idle
  | .receiving _ => .waitIdle
  | .markWindow _ => .waitIdle
  | .waitIdle => .waitIdle
  | .ignoring => .ignoring

/-- The rest of RESTART at a port: the frame in progress and the current frame dropped, every place FREE, the downlink queue empty, the
counters kept (R166, R195). -/
def restartPort (p : Port) (s : State) : State :=
  s.setPort p { rx := (s.port p).rx.restarted, tx := Transmitter.reset, lineIdle := (s.port p).lineIdle
                out := { reserved := 0, filled := [] }, down := [], errors := (s.port p).errors }

end Sys2Proof.Machine
end

