-- ==== Sys2Proof/Machine/FrameCommands.lean ====
section
/-! DEFINITION. The meanings of the END-OF-FRAME of a marked frame, one command for each kind that is taken (R156, R171). -/

namespace Sys2Proof.Machine

/-- TENDER (R47): A TENDER frame is inspected, checked for duplicates, and its net amount applied to the drawer, with HOLD and
pickup re-evaluation. -/
def execTender (p : Port) (s : State) : Host.Outcome State Fault Refusal := deliver p (isJob .tender) s

/-- REFUND (R48): A REFUND frame lowers expected cash by the amount paid out in an OPEN or HOLD drawer. -/
def execRefund (p : Port) (s : State) : Host.Outcome State Fault Refusal := deliver p (isJob .refund) s

/-- PICKUP (R52): A witnessed PICKUP frame creates a SEALED PICKUP bag and subtracts its declared value from the drawer. -/
def execPickup (p : Port) (s : State) : Host.Outcome State Fault Refusal := deliver p (isJob .pickup) s

/-- CASHUP (R53): A witnessed CASHUP frame creates a CASHUP bag, records the cash-up difference and moves the drawer to CASHED_UP. -/
def execCashup (p : Port) (s : State) : Host.Outcome State Fault Refusal := deliver p (isJob .cashup) s

/-- TILL_OPEN (R54): A TILL_OPEN frame moves a FLOATED drawer to OPEN, with re-evaluation, or repeats harmlessly in OPEN or HOLD. -/
def execTillOpen (p : Port) (s : State) : Host.Outcome State Fault Refusal := deliver p (isJob .tillOpen) s

/-- FLOAT_RECEIPT (R72): A witnessed FLOAT_RECEIPT checks the float bag, adds its value to the drawer, moves the bag to DELIVERED
and frees the order as DONE. -/
def execFloatReceipt (p : Port) (s : State) : Host.Outcome State Fault Refusal := deliver p (isJob .floatReceipt) s

/-- DECLARE (R62): A DECLARE frame is checked, its variance measured and the rebalance computed; an order is created with
reservation when there is an issue, and ADVICE is sent. -/
def execDeclare (p : Port) (s : State) : Host.Outcome State Fault Refusal := deliver p (isJob .declare) s

/-- MAKE_UP_FLOAT (R71): A witnessed MAKE_UP of type FLOAT for a PENDING order draws stock, creates the MADE_UP float bag and moves
the order to MADE_UP. It takes every MAKE_UP whose body does not name the type CONSIGNMENT (log entry 16). -/
def execMakeUpFloat (p : Port) (s : State) : Host.Outcome State Fault Refusal :=
  deliver p (fun f => isJob .makeUp f && !isConsignment f) s

/-- MAKE_UP_CONSIGNMENT (R15): A witnessed MAKE_UP of type CONSIGNMENT checks its strapped pairs against free stock and creates a
MADE_UP CONSIGNMENT bag from whole straps. -/
def execMakeUpConsignment (p : Port) (s : State) : Host.Outcome State Fault Refusal := deliver p isConsignment s

/-- RESTOCK (R17): A RESTOCK of a MADE_UP bag returns its counts to loose stock, adds to the restocked accumulator, moves the bag to
RESTOCKED and frees a float order. -/
def execRestock (p : Port) (s : State) : Host.Outcome State Fault Refusal := deliver p (isJob .restock) s

/-- DROP (R81): A chute DROP is checked against the lock state, repeats, the register and safe capacity, and the bag enters the
inventory as IN_SAFE. -/
def execDrop (p : Port) (s : State) : Host.Outcome State Fault Refusal := deliver p (isJob .drop) s

/-- WITHDRAW (R82): A door WITHDRAW with the door open moves the bag out of the inventory to the state the register decides,
including the pin check. -/
def execWithdraw (p : Port) (s : State) : Host.Outcome State Fault Refusal := deliver p (isJob .withdraw) s

/-- DEPOSIT (R83): A door DEPOSIT with the door open moves the bag into the inventory as IN_SAFE. -/
def execDeposit (p : Port) (s : State) : Host.Outcome State Fault Refusal := deliver p (isJob .deposit) s

/-- DOOR_OPEN (R91): A DOOR OPEN report moves UNLOCKED to OPEN, or a bolted lock to OPEN_FORCED, raising DOOR_FORCED. It takes every
DOOR whose body is not the report CLOSED (log entry 16). -/
def execDoorOpen (p : Port) (s : State) : Host.Outcome State Fault Refusal :=
  deliver p (fun f => isJob .door f && !isDoorClosed f) s

/-- DOOR_CLOSED (R91): A DOOR CLOSED report moves OPEN or OPEN_FORCED to LOCKED and commands LOCK. -/
def execDoorClosed (p : Port) (s : State) : Host.Outcome State Fault Refusal := deliver p isDoorClosed s

/-- OPEN_REQUEST (R86): A witnessed OPEN_REQUEST in LOCKED chooses the courier, night or day delay and enters DELAY or WINDOW. -/
def execOpenRequest (p : Port) (s : State) : Host.Outcome State Fault Refusal := deliver p (isJob .openRequest) s

/-- OPEN_CANCEL (R88): OPEN_CANCEL in DELAY or WINDOW stops the timer and returns the lock to LOCKED. -/
def execOpenCancel (p : Port) (s : State) : Host.Outcome State Fault Refusal := deliver p (isJob .openCancel) s

/-- OPEN_CONFIRM (R89): A witnessed OPEN_CONFIRM in WINDOW unlocks, starts the relock timer, zeroes the failed count and commands
UNLOCK; a witness failure in WINDOW is counted. -/
def execOpenConfirm (p : Port) (s : State) : Host.Outcome State Fault Refusal := deliver p (isJob .openConfirm) s

/-- BAG_OPEN (R101): A BAG_OPEN opens an OUT_FOR_COUNT bag into the counter's session, or repeats, resumes or is refused by the
session's state. -/
def execBagOpen (p : Port) (s : State) : Host.Outcome State Fault Refusal := deliver p (isJob .bagOpen) s

/-- BATCH (R104): A BATCH adds accepted, suspect and rejected notes of one code to the session and its running total. -/
def execBatch (p : Port) (s : State) : Host.Outcome State Fault Refusal := deliver p (isJob .batch) s

/-- HAND_KEY (R105): A console HAND_KEY adds accepted or suspect pieces to a session, optionally resolving rejects. -/
def execHandKey (p : Port) (s : State) : Host.Outcome State Fault Refusal := deliver p (isJob .handKey) s

/-- BAG_CLOSE (R108): A BAG_CLOSE with no unresolved rejects adds to stock, records the variance and class, credits the drawer, adds
to the tallies and idles the session. -/
def execBagClose (p : Port) (s : State) : Host.Outcome State Fault Refusal := deliver p (isJob .bagClose) s

/-- COUNT_ABORT (R109): A COUNT_ABORT returns the session's bag to OUT_FOR_COUNT and discards the session's counts. -/
def execCountAbort (p : Port) (s : State) : Host.Outcome State Fault Refusal := deliver p (isJob .countAbort) s

/-- ANNOUNCE (R125): An ANNOUNCE matching the PART-owned head within its window starts the handover session in EXCHANGE or SIGNING. -/
def execAnnounce (p : Port) (s : State) : Host.Outcome State Fault Refusal := deliver p (isJob .announce) s

/-- LOAD (R129): A LOAD moves an IN_HANDLING consignment bag to LOADED, and the last one moves the session into SIGNING. -/
def execLoad (p : Port) (s : State) : Host.Outcome State Fault Refusal := deliver p (isJob .load) s

/-- RECEIVE (R130): A RECEIVE creates an INBOUND bag in RECEIVED and records its seal in the descriptor. -/
def execReceive (p : Port) (s : State) : Host.Outcome State Fault Refusal := deliver p (isJob .receive) s

/-- SIGN (R132): A witnessed SIGN in SIGNING hands over the loaded bags, reconciles the inbound figures, records the witnesses and
returns the descriptor. -/
def execSign (p : Port) (s : State) : Host.Outcome State Fault Refusal := deliver p (isJob .sign) s

/-- OPAQUE_FRAME (R177): A marked opaque frame is relayed blind with stamp ACCEPTED, without inspection or verdict. -/
def execOpaqueFrame (p : Port) (s : State) : Host.Outcome State Fault Refusal := deliver p (fun f => opaqueKind f.kind) s

/-- UNKNOWN_KIND_FRAME (R173): A marked frame of a kind that is neither till, room job nor opaque is refused UNKNOWN_KIND and
relayed. -/
def execUnknownKindFrame (p : Port) (s : State) : Host.Outcome State Fault Refusal := deliver p isUnknown s

end Sys2Proof.Machine
end

