-- ==== Sys2Proof/Machine/LineCommands.lean ====
section
/-! DEFINITION. The meanings of the commands of the two line ports, POWER_ON, and the placing of an owed safe command. -/

namespace Sys2Proof.Machine

/-- POWER_ON (R196): Power-on puts every table, record, queue, port and timer into its fixed starting state, with POWER_UP pending
and an ATTENTION owed. The command queue, and the count of free details drawn, are the model's own and stay. -/
def execPowerOn (s : State) : Host.Outcome State Fault Refusal := .next ((State.reset.setPending s.pending).setDraws s.draws)

/-- FRAME_START (R153): A START symbol on a line opens a new received frame, or puts the Floor receiver into IGNORING when the day
state is NIGHT. -/
def execFrameStart (p : Port) (s : State) : Host.Outcome State Fault Refusal := startArrives p s

/-- END_OF_DATA (R156): END-OF-DATA closes a received frame's data: the frame is checked and offered to the Frame Inspector, which
makes its reservations and answers mark or no mark before the mark window opens. -/
def execEndOfData (p : Port) (bits : List Bool) (s : State) : Host.Outcome State Fault Refusal := endOfDataArrives p bits s

/-- MARK_BYTE (R157): A mark byte completes in a mark slot; it is appended to the gathered marks, or it is recorded by the
transmitter, which closes the window when it is full. -/
def execMarkByte (p : Port) (mark : Byte) (s : State) : Host.Outcome State Fault Refusal := markArrives p mark s

/-- UNMARKED_FRAME_DROPPED (R156): END-OF-FRAME ends a frame that the part did not mark, and the frame is dropped without effect. As
END-OF-FRAME it ends an ignored frame too, and is a framing error in IDLE and RECEIVING (R153). -/
def execUnmarkedFrameDropped (p : Port) (s : State) : Host.Outcome State Fault Refusal := endOfFrameArrives p s

/-- SYMBOL_ERROR (R155): An invalid symbol, or an unexpected framing symbol during transmission, counts a symbol error, raises
LINK_ERROR, sends the receiver to WAIT_IDLE and fails any attempt in progress. -/
def execSymbolError (p : Port) (symbol : LineSymbol) (s : State) : Host.Outcome State Fault Refusal :=
  symbolErrorArrives p symbol s

/-- FRAMING_ERROR (R155): A symbol out of its place counts a framing error and raises LINK_ERROR; a frame still being received is
discarded, while a marked frame in its window is still taken with the marks gathered so far. -/
def execFramingError (p : Port) (symbol : LineSymbol) (incomplete : Bool) (s : State) : Host.Outcome State Fault Refusal :=
  framingErrorArrives p symbol incomplete s

/-- LONG_FRAME (R155): A body length over 40, or a data byte where END-OF-DATA is due, counts a long-frame error, discards the frame
and sends the receiver to WAIT_IDLE. -/
def execLongFrame (p : Port) (s : State) : Host.Outcome State Fault Refusal := longFrameArrives p s

/-- BREAK (R155): A BREAK counts once, sends the receiver to WAIT_IDLE, discards any unmarked frame in progress, and still takes a
marked frame with its gathered marks. -/
def execBreakPulse (p : Port) (s : State) : Host.Outcome State Fault Refusal := taking (breakEffect p) s

/-- LINE_IDLE (R153): An idle line returns the receiver from WAIT_IDLE or IGNORING to IDLE. In RECEIVING and MARK_WINDOW the idle
symbol is a framing error (R153). -/
def execLineIdle (p : Port) (s : State) : Host.Outcome State Fault Refusal := idleArrives p s

/-- CURRENT_FRAME_CHOICE (R162): An idle transmitter with no current frame takes, as its current frame, the waiting outgoing or
downlink frame with the lowest header. -/
def execCurrentFrameChoice (p : Port) (s : State) : Host.Outcome State Fault Refusal :=
  takingIf (mayChoose (s.port p) && (chooseFrame (s.port p)).isSome) (chooseCurrent p) s

/-- TRANSMIT_START (R163): With a current frame held and the line idle, the transmitter sends START and the header, enters
ARBITRATING and counts one attempt. -/
def execTransmitStart (p : Port) (s : State) : Host.Outcome State Fault Refusal :=
  takingIf (mayStart (s.port p)) (startSending p) s

/-- ARBITRATION_LOST (R160): The part reads a dominant bit where it sent a recessive one in the header; it stops, the attempt fails,
and its receiver takes up the winning frame. -/
def execArbitrationLost (p : Port) (bit : Nat) (s : State) : Host.Outcome State Fault Refusal :=
  takingIf (mayLose (s.port p) bit) (loseArbitration p bit) s

/-- HEADER_SENT (R163): The header goes out in full without loss, and the transmitter enters SENDING. -/
def execHeaderSent (p : Port) (s : State) : Host.Outcome State Fault Refusal := takingIf (txIn s p .arbitrating) (sendBody p) s

/-- SEND_CLASH (R160): A dominant bit is read after the header where a recessive one was sent; the clash counter rises, LINK_ERROR
is raised and the attempt fails. -/
def execSendClash (p : Port) (s : State) : Host.Outcome State Fault Refusal := takingIf (txIn s p .sending) (clashed p) s

/-- DATA_SENT (R163): Body, CRC and END-OF-DATA have been sent; the transmitter awaits marks, or in mode NONE sends END-OF-FRAME and
delivers the frame. -/
def execDataSent (p : Port) (s : State) : Host.Outcome State Fault Refusal := takingIf (txIn s p .sending) (dataGone p) s

/-- WINDOW_CLOSE (R164): An idle gap in AWAIT_MARKS closes the window, and the attempt ends delivered or failed. -/
def execWindowClose (p : Port) (s : State) : Host.Outcome State Fault Refusal := takingIf (txIn s p .awaitMarks) (closeWindow p) s

/-- SAFE_COMMAND_PLACED (R93): While a command is owed and a free outgoing place and an enabled SAFE node exist, one SAFE_COMMAND
carrying the commanded state is placed in the Room Port queue. -/
def execSafeCommandPlaced (s : State) : Host.Outcome State Fault Refusal := takingIf (commandPlaceable s) placeSafeCommand s

end Sys2Proof.Machine
end

