-- ==== Sys2Proof/Machine/TimerCommands.lean ====
section
/-! DEFINITION. The meanings of the expiries of the timers. An expiry takes effect only in the state whose timer it is, once that timer is due (log entry 3). -/

namespace Sys2Proof.Machine

/-- The idle timer of a session expires: the session is COUNTING and its timer is due (R103). -/
def idleExpired (s : State) (x : Fin 4) : Bool := decide (s.sessions[x].state = .counting) && expired s s.sessions[x].timer

/-- DELAY_EXPIRY (R87): The delay timer expires in DELAY, and the lock enters WINDOW with the open window timer. -/
def execDelayExpiry (s : State) : Host.Outcome State Fault Refusal :=
  takingIf (decide (s.safe.lock = .delay) && expired s s.safe.timer) delayExpired s

/-- WINDOW_EXPIRY (R87): The window timer expires in WINDOW, the lock returns to LOCKED and WINDOW_EXPIRED is raised. -/
def execWindowExpiry (s : State) : Host.Outcome State Fault Refusal :=
  takingIf (decide (s.safe.lock = .window) && expired s s.safe.timer) windowExpired s

/-- RELOCK_EXPIRY (R94): The relock timer expires in UNLOCKED, the lock returns to LOCKED and LOCK is commanded. -/
def execRelockExpiry (s : State) : Host.Outcome State Fault Refusal :=
  takingIf (decide (s.safe.lock = .unlocked) && expired s s.safe.timer) relockExpired s

/-- COUNT_IDLE_EXPIRY (R103): A session's idle timer expires in COUNTING, suspending the session and the bag and raising
COUNT_SUSPENDED. -/
def execCountIdleExpiry (session : Nat) (s : State) : Host.Outcome State Fault Refusal :=
  match inRange 4 session with
  | some x => takingIf (idleExpired s x) (suspendSession x) s
  | none => .next s

/-- EXCHANGE_TIMEOUT (R133): The exchange timer expires in EXCHANGE and aborts the session with result TIMED_OUT. -/
def execExchangeTimeout (s : State) : Host.Outcome State Fault Refusal :=
  takingIf (decide (s.call.phase = .exchange) && expired s s.call.timer) (abortHandover .timedOut) s

/-- SIGN_TIMEOUT (R133): The sign timer expires in SIGNING and aborts the session with result TIMED_OUT. -/
def execSignTimeout (s : State) : Host.Outcome State Fault Refusal :=
  takingIf (decide (s.call.phase = .signing) && expired s s.call.timer) (abortHandover .timedOut) s

/-- DAY_CLOCK_ADVANCE (R148): Every 60 seconds the day clock advances, wrapping at midnight and setting day-passed flags, and the
head is checked for a missed window. -/
def execDayClockAdvance (s : State) : Host.Outcome State Fault Refusal := takingIf (clockDue s) advanceClock s

end Sys2Proof.Machine
end

