-- ==== Sys2Proof/Machine/Trunks.lean ====
section
/-! DEFINITION. The Trunk Port: framing, the receive buffer, flow control and the order of transmission (sections 12.1 and 12.3). -/

namespace Sys2Proof.Machine

/-! ## Framing (R188, R197) -/

/-- The start character (R188). -/
def trunkStart : Byte := 0xA5

/-- The trunk types (R197). -/
def typeRelay : Byte := 0x01
def typeSend : Byte := 0x02
def typeRequest : Byte := 0x03
def typeReply : Byte := 0x04
def typeAttention : Byte := 0x05

/-- The largest payload length (R188). -/
def topPayload : Nat := 512

/-- Type, length and payload of a trunk frame: what the check covers (R188). -/
def trunkCore (type : Byte) (payload : List Byte) : List Byte := type :: (be 2 payload.length ++ payload)

/-- A whole trunk frame (R188). -/
def trunkChars (type : Byte) (payload : List Byte) : List Byte :=
  trunkStart :: (trunkCore type payload ++ be 2 (crc16 (trunkCore type payload)).toNat)

/-- The payload of a REPLY (R197). -/
def Reply.payload (r : Reply) : List Byte :=
  be 2 r.tag.toNat ++ [r.code, r.result.byte] ++ be 4 r.detail.toNat ++ r.data

/-- The payload of a RELAY envelope (R176, R197). -/
def Envelope.payload (e : Envelope) : List Byte :=
  BitVec.ofNat 8 (portCode e.port) :: (secondBytes e.second ++ e.stamp.byte :: BitVec.ofNat 8 e.marks.length :: e.marks ++
    e.frame.header ++ e.frame.body)

/-- The payload of an ATTENTION: the vector and the summaries as they stand (R183, R197). -/
def attentionPayload (s : State) : List Byte := [BitVec.ofNat 8 s.vector, summariesByte s]

/-! ## Receiving (R188, R189) -/

/-- The entry that a checked frame holds; none where its type or its payload's length does not suit (R188). Bytes of a SEND behind the
body that its length byte announces are dropped: the model's choice (log entry 14). -/
def trunkEntry (type : Byte) (payload : List Byte) : Option TrunkEntry :=
  if type = typeRequest then
    match payload with
    | a :: b :: code :: fields => some (.request (BitVec.ofNat 16 (unbe [a, b])) code fields)
    | _ => none
  else if type = typeSend then
    match payload with
    | a :: b :: port :: pb :: kind :: dest :: len :: rest =>
      if rest.length < len.toNat then none
      else some (.send (BitVec.ofNat 16 (unbe [a, b])) port pb kind dest (rest.take len.toNat))
    | _ => none
  else none

/-- The receiver hunts for the next start character (R188). -/
def huntTrunk (s : State) : State := s.setTrunk { s.trunk with rx := .hunting }

/-- An entry that passes R188 enters the receive buffer, or is discarded as an overrun (R189). -/
def bufferEntry (e : TrunkEntry) (s : State) : State :=
  if Config.bufferPlaces ≤ s.trunk.buffer.length then countTrunkOverrun s
  else s.setTrunk { s.trunk with buffer := s.trunk.buffer ++ [e] }

/-- A collected frame (type, length, payload and check) is checked: the check first, then type and payload (R188, log entry 14). -/
def closeTrunkFrame (type : Byte) (payload : List Byte) (check : Nat) (s : State) : State :=
  if check ≠ (crc16 (trunkCore type payload)).toNat then countTrunkCheck s
  else match trunkEntry type payload with
    | some e => bufferEntry e s
    | none => countTrunkFraming s

/-- The characters after the start character, so far; a length above 512 is discarded at once (R188, log entry 14). -/
def collectTrunk (chars : List Byte) (s : State) : State :=
  match chars with
  | type :: hi :: lo :: rest =>
    if topPayload < unbe [hi, lo] then countTrunkFraming (huntTrunk s)
    else if rest.length < unbe [hi, lo] + 2 then s.setTrunk { s.trunk with rx := .collecting chars }
    else closeTrunkFrame type (rest.take (unbe [hi, lo])) (unbe (rest.drop (unbe [hi, lo]))) (huntTrunk s)
  | _ => s.setTrunk { s.trunk with rx := .collecting chars }

/-- One character arrives (R188). -/
def trunkChar (s : State) (c : Byte) : State :=
  match s.trunk.rx with
  | .hunting => if c = trunkStart then s.setTrunk { s.trunk with rx := .collecting [] } else s
  | .collecting chars => collectTrunk (chars ++ [c]) s

/-- Characters arrive one by one. -/
def receiveTrunk (chars : List Byte) (s : State) : State := chars.foldl trunkChar s

/-- The HOLD output: the buffer holds four entries, or a SEND waits (R189). -/
def holdOutput (s : State) : Bool := decide (Config.bufferPlaces ≤ s.trunk.buffer.length) || s.trunk.sendWaits

/-! ## Transmitting (R191) -/

/-- A frame begins: REPLY, else ATTENTION, else the uplink head; with none waiting nothing begins (R183, R190, R191). R196 calls the
first frame after power-on an ATTENTION; where a REPLY is unsent before the first start, as when HOLD has stood since power-on, R191's
order is kept: the model's choice (log entry 18). -/
def startTrunk (s : State) : State :=
  match s.trunk.reply with
  | some r =>
    s.setTrunk { s.trunk with
      reply := none, sending := some { source := .reply, chars := trunkChars typeReply r.payload } }
  | none =>
    if s.attention then
      (s.setTrunk { s.trunk with
        sending := some { source := .attention, chars := trunkChars typeAttention (attentionPayload s) } }).setAttention false
    else match s.uplink.filled with
      | e :: _ =>
        s.setTrunk { s.trunk with sending := some { source := .relay, chars := trunkChars typeRelay e.payload } }
      | [] => s

/-- The transmitter is free, HOLD is released, and a frame waits (R191). -/
def trunkReady (s : State) : Bool :=
  s.trunk.sending.isNone && !s.trunk.holdIn &&
    (s.trunk.reply.isSome || s.attention || !s.uplink.filled.isEmpty)

/-- The HOLD input takes a value; released, the transmitter starts again in the same taking (R189, log entry 18). -/
def holdInput (asserted : Bool) (s : State) : State :=
  let s1 := s.setTrunk { s.trunk with holdIn := asserted }
  if s.trunk.holdIn && trunkReady s1 then startTrunk s1 else s1

/-- The frame being sent is complete; a relay envelope's place frees (R176). -/
def endTrunk (x : Sending) (s : State) : State :=
  let s1 := s.setTrunk { s.trunk with sending := none }
  if x.source = .relay then s1.setUplink { s1.uplink with filled := s1.uplink.filled.tail } else s1

end Sys2Proof.Machine
end

