-- ==== Sys2Proof/Machine/Tables.lean ====
section
/-! DEFINITION. The tables of the table window: the entries as bytes, and the write rules of the six tables that the back office writes
(R5 to R7, R42, R120, R169, R170, R192, R193, R197). Widths that R197 leaves to a reading are those of log entry 13. -/

namespace Sys2Proof.Machine

/-! ## Entries as bytes (R197) -/

/-- A signed figure of four bytes (R197). -/
def be4Int (i : Int) : List Byte := beInt 4 i

/-- One row after another. R197 puts a count byte before a list; that the counts of the twelve codes are a fixed run without one, those of a
bag's denomination list too, is the model's choice (log entry 13). -/
def rowBytes {α : Type} {n : Nat} (f : α → List Byte) (v : Vector α n) : List Byte := v.toList.flatMap f

/-- A named value (R197). -/
def named (n : Nat) : List Byte := be 1 n

/-- DENOM (R4). -/
def denomBytes (d : Denom) : List Byte :=
  be 3 d.face ++ named d.kind.code ++ be 2 d.strap ++ be 2 d.packet ++ [flagByte d.enabled]

/-- NODE (R168). -/
def nodeBytes (n : Node) : List Byte :=
  named n.port.code ++ named n.role.code ++ be 1 n.till.val ++ be 1 n.slot.val ++ [flagByte n.enabled]

/-- WITNESS (R170). -/
def witnessBytes (w : Witness) : List Byte := named w.roleA.code ++ named w.roleB.code ++ [flagByte w.sameTill]

/-- TILL (R41). -/
def tillBytes (e : TillEntry) : List Byte :=
  [e.node, e.badge] ++ rowBytes (be 2) e.targets ++ be 4 e.targetValue ++ be 4 e.skimLevel ++ be 4 e.hardLimit ++
    be 4 e.topUpCap ++ be 3 e.skimFloor ++ [flagByte e.enabled]

/-- A tally group's entry of TIMING (R193). -/
def settingBytes (t : TallySetting) : List Byte := named t.mode.code ++ [flagByte t.report]

/-- TIMING, by index (R193). -/
def timingBytes (t : Timing) (i : Nat) : List Byte :=
  match inRange 14 i with
  | some k => be timingWidth[k] t.values[k]
  | none =>
    match inRange 3 (i - 14) with
    | some g => settingBytes t.groups[g]
    | none => []

/-- RING, indices 0 to 15 (R117). -/
def descriptorBytes (d : Descriptor) : List Byte :=
  named d.owner.code ++ be 4 d.number ++ be 4 d.courier ++ be 2 d.windowStart ++ be 2 d.windowEnd ++
    listBytes (be 4) d.outbound ++ be 1 d.inboundCount ++ be 4 d.inboundValue ++ named d.result.code ++
    listBytes (be 4) d.received ++ optBytes secondBytes d.second ++ optBytes (fun b => [b]) d.supervisor ++
    optBytes (fun b => [b]) d.courierMark ++ [flagByte d.dayPassed]

/-- RING index 16: the session record (R119). That the number of HATCH_HELD records, for which R119 states no range, takes two bytes is the
model's choice (log entry 13). -/
def sessionRecordBytes (s : State) : List Byte :=
  be 1 s.call.next.val ++ named s.call.phase.code ++ optBytes (fun (i : Fin 16) => be 1 i.val) s.call.slot ++
    be 2 (secondsLeft s s.call.timer) ++ be 1 s.call.refused ++ be 2 (countState s .hatchHeld)

/-- DRAWER (R43). -/
def drawerBytes (d : Drawer) : List Byte :=
  named d.state.code ++ be 4 d.floatDelivered ++ be4Int d.netTendered ++ be 4 d.refunds ++ be 4 d.pickups ++ be 4 d.cashup ++
    be4Int d.expected ++ [flagByte d.saturated, flagByte d.due] ++ be 2 d.pickupCount ++ optBytes be4Int d.cashupDiff ++
    be4Int d.countVariance ++ optBytes (be 2) d.lastSeq ++ optBytes (fun (c : Word16) => be 2 c.toNat) d.lastCrc ++
    optBytes (fun (i : Fin 24) => be 1 i.val) d.openOrder

/-- BAG (R23). -/
def bagBytes (b : Bag) : List Byte :=
  be 4 b.sealNo ++ named b.kind.code ++ named b.state.code ++ optBytes (fun (i : Fin 160) => be 1 i.val) b.till ++
    optBytes (fun (i : Fin 24) => be 1 i.val) b.order ++ optBytes (fun (i : Fin 16) => be 1 i.val) b.pin ++
    optBytes (fun (i : Fin 4) => be 1 i.val) b.session ++ be 4 b.declared ++ optBytes (rowBytes (be 4)) b.counts ++
    optBytes (be 4) b.counted ++ optBytes (be 4) b.suspect ++ optBytes be4Int b.variance ++
    optBytes (fun (c : BagClass) => named c.code) b.cls ++ [flagByte b.unsigned] ++ be 2 b.day ++ secondBytes b.entered

/-- A BAG entry past the records: seal 0, every other field absent or zero (R38). -/
def noBag : Bag :=
  { sealNo := 0, kind := .pickup, state := .sealed, till := none, order := none, pin := none, session := none, declared := 0
    counts := none, counted := none, suspect := none, variance := none, cls := none, unsigned := false, day := 0
    entered := 0 }

/-- SAFE_LIST, indices 0 to 119 (R79, R80). -/
def safeEntryBytes (e : SafeEntry) : List Byte := be 4 e.sealNo ++ named e.way.code ++ secondBytes e.second

/-- A SAFE_LIST entry past the inventory (R80). -/
def noSafeEntry : SafeEntry := { sealNo := 0, way := .chute, second := 0 }

/-- SAFE_LIST index 120: the lock record (R80). -/
def lockBytes (s : State) : List Byte :=
  named s.safe.lock.code ++ be 2 (secondsLeft s s.safe.timer) ++ named s.safe.delayKind.code ++ be 1 s.safe.failed ++
    named s.safe.commanded.code ++ [flagByte s.safe.owed] ++ be 1 s.safe.inventory.length

/-- ORDER (R68). -/
def orderBytes (o : Order) : List Byte :=
  named o.state.code ++ named o.outcome.code ++ be 1 o.till.val ++ be 2 o.seq ++ be 2 o.day ++ rowBytes (be 2) o.issue ++
    rowBytes (be 2) o.skim ++ rowBytes (fun b => [flagByte b]) o.shortStock ++ rowBytes (fun b => [flagByte b]) o.shortCap ++
    be 4 o.issueValue ++ be 5 o.skimValue ++ be 5 o.declared ++ be4Int o.difference ++ optBytes (be 4) o.sealNo

/-- STOCK: the line of a code; held and free take six bytes (R9, R197). -/
def stockBytes (s : State) (c : Fin 12) : List Byte :=
  be 1 c.val ++ be 4 s.stock[c].loose ++ be 4 s.stock[c].straps ++ be 6 (s.heldOf c) ++ be 4 s.stock[c].reserved ++
    be 6 (s.freeOf c) ++ be 4 s.stock[c].suspect

/-- The five accumulators and the flag (R20). -/
def accBytes (a : Accumulators) : List Byte :=
  be 4 a.opening ++ be 4 a.countedIn ++ be 4 a.restocked ++ be 4 a.madeUp ++ be4Int a.adjustment ++ [flagByte a.saturated]

/-- DAY_SUMMARY (R147). That the numbers of bags counted and handed over, for which R37 and R147 state no range, take two bytes each is the model's
choice (log entry 13). -/
def daySummaryBytes (m : Summary) : List Byte :=
  [flagByte m.taken] ++ be 2 m.day ++ secondBytes m.second ++ be 2 m.minute ++ be 4 m.opening ++ be 4 m.countedIn ++
    be 4 m.restocked ++ be 4 m.madeUp ++ be4Int m.adjustment ++ [flagByte m.saturated] ++ be 9 m.holding ++
    be 2 m.bagsCounted ++ be 2 m.bagsHanded

/-- The entry of a row, where the index has one. -/
def entryOf {α : Type} {n : Nat} (f : α → List Byte) (v : Vector α n) (i : Nat) : List Byte :=
  match inRange n i with
  | some k => f v[k]
  | none => []

/-- The entry of a table at an index inside it (R192). -/
def tableEntry (s : State) (t : TableId) (i : Nat) : List Byte :=
  match t with
  | .denom => entryOf denomBytes s.denoms i
  | .node => entryOf nodeBytes s.nodes (i - 2)
  | .witness => entryOf witnessBytes s.witness i
  | .till => entryOf tillBytes s.tills i
  | .timing => timingBytes s.timing i
  | .ring => if i = 16 then sessionRecordBytes s else entryOf descriptorBytes s.ring i
  | .drawer => entryOf drawerBytes s.drawers i
  | .bag => bagBytes (s.bags.getD i noBag)
  | .safeList => if i = 120 then lockBytes s else safeEntryBytes (s.safe.inventory.getD i noSafeEntry)
  | .order => entryOf orderBytes s.orders i
  | .stock => if i = 12 then accBytes s.acc ++ be 9 (holdingValue s) else ((stockOrder s)[i]?.map (stockBytes s)).getD []
  | .daySummary => daySummaryBytes s.day.summary

/-! ## Reading a written entry -/

/-- DENOM as written (R5). -/
def readDenom (bs : List Byte) : Option Denom :=
  match takeNat 3 bs with
  | none => none
  | some (face, bs) =>
    match takeNamed DenomKind.all DenomKind.code bs with
    | none => none
    | some (kind, bs) =>
      match leadFields [2, 2] bs with
      | some ([strap, packet], bs) =>
        (takeFlag bs).map fun e => { face := face, kind := kind, strap := strap, packet := packet, enabled := e.1 }
      | _ => none

/-- NODE as written, till number and slot clamped (R169). -/
def readNode (bs : List Byte) : Option Node :=
  match takeNamed NodePort.all NodePort.code bs with
  | none => none
  | some (port, bs) =>
    match takeNamed Role.all Role.code bs with
    | none => none
    | some (role, bs) =>
      match leadFields [1, 1] bs with
      | some ([t, x], bs) =>
        (takeFlag bs).map fun e =>
          { port := port, role := role, till := clampFin 159 t, slot := clampFin 3 x, enabled := e.1 }
      | _ => none

/-- WITNESS as written (R170). -/
def readWitness (bs : List Byte) : Option Witness :=
  match takeNamed Role.all Role.code bs with
  | none => none
  | some (a, bs) =>
    match takeNamed Role.all Role.code bs with
    | none => none
    | some (b, bs) => (takeFlag bs).map fun e => { roleA := a, roleB := b, sameTill := e.1 }

/-- Twelve numbers as one count per code. -/
def vectorOf (xs : List Nat) : Vector Nat 12 := Vector.ofFn fun c => xs.getD c.val 0

/-- TILL as written; the written target value is not used (R41, R42, log entry 13). -/
def readTill (bs : List Byte) : Option TillEntry :=
  match bs with
  | node :: badge :: bs =>
    match takeNats 2 12 bs with
    | none => none
    | some (targets, bs) =>
      match leadFields [4, 4, 4, 4, 3] bs with
      | some ([_, skim, hard, cap, floor], bs) =>
        (takeFlag bs).map fun e =>
          { node := node, badge := badge, targets := vectorOf targets, targetValue := 0, skimLevel := skim
            hardLimit := hard, topUpCap := cap, skimFloor := floor, enabled := e.1 }
      | _ => none
  | _ => none

/-- A tally group's entry as written (R193). -/
def readSetting (bs : List Byte) : Option TallySetting :=
  match takeNamed TallyMode.all TallyMode.code bs with
  | none => none
  | some (m, bs) => (takeFlag bs).map fun e => { mode := m, report := e.1 }

/-- The booked fields of a descriptor (R120). -/
structure Booking where
  number : Nat
  courier : Nat
  windowStart : Nat
  windowEnd : Nat
  outbound : List Nat
  inboundCount : Nat
  inboundValue : Nat
  deriving DecidableEq, Repr

/-- RING as written: number, courier, window, outbound seals behind a count byte, the two inbound figures (R120). -/
def readBooking (bs : List Byte) : Option Booking :=
  match leadFields [4, 4, 2, 2, 1] bs with
  | some ([number, courier, start, stop, k], bs) =>
    match takeNats 4 k bs with
    | none => none
    | some (seals, bs) =>
      match leadFields [1, 4] bs with
      | some ([n, v], _) =>
        some { number := number, courier := courier, windowStart := start, windowEnd := stop, outbound := seals
               inboundCount := n, inboundValue := v }
      | _ => none
  | _ => none

/-! ## Write rules: the state after a write that is taken, or its refusal -/

/-- The clamped entry (R4, R5). -/
def Denom.clamped (d : Denom) : Denom :=
  { d with face := clamp 1 1000000 d.face, strap := clamp 1 1000 d.strap, packet := clamp 1 1000 d.packet }

/-- Another enabled entry carries the same face value (R6). -/
def faceTaken (s : State) (c : Fin 12) (face : Nat) : Bool :=
  codes.any fun k => k != c && s.denoms[k].enabled && s.denoms[k].face == face

/-- The write changes what R7 protects: face value, kind or strap size of an enabled entry, or it disables it. -/
def changesHeld (old new : Denom) : Bool :=
  old.enabled && (decide (old.face ≠ new.face) || decide (old.kind ≠ new.kind) || decide (old.strap ≠ new.strap) || !new.enabled)

/-- A write to DENOM: day state, clamping, R6, R7 (R5, log entry 11). -/
def putDenom (c : Fin 12) (d : Denom) (s : State) : Except Code State :=
  if s.day.state ≠ .night then .error .wrongDayState
  else if d.enabled && faceTaken s c d.clamped.face then .error .duplicateFace
  else if changesHeld s.denoms[c] d.clamped && inUse s c then .error .stockHeld
  else .ok (s.setDenoms (put s.denoms c d.clamped))

/-- The floor roles (R169). -/
def Role.onFloor : Role → Bool
  | .till => true | .tillBadge => true | .carrier => true
  | .counter => false | .safe => false | .hatch => false | .courierReader => false | .console => false

/-- A write to NODE (R169). -/
def putNode (i : Fin 252) (n : Node) (s : State) : Except Code State :=
  if (n.port = .floor ∧ n.role.onFloor = false) ∨ (n.port = .room ∧ n.role.onFloor = true) then .error .malformed
  else if n.port = .none ∧ n.enabled = true then .error .malformed
  else .ok (s.setNodes (put s.nodes i n))

/-- A write to WITNESS (R170). -/
def putWitness (i : Fin 7) (w : Witness) (s : State) : Except Code State :=
  if s.day.state ≠ .night then .error .wrongDayState else .ok (s.setWitness (put s.witness i w))

/-- A node identity clamped to 0x02 to 0xFD (R42). -/
def clampNode (b : Byte) : Byte := BitVec.ofNat 8 (clamp 2 253 b.toNat)

/-- The target value: the targets of the enabled codes at the faces in force, at most 2,147,483,647 (R42). -/
def targetValueOf (s : State) (targets : Vector Nat 12) : Nat :=
  min 2147483647 (sumCodes fun c => if s.denoms[c].enabled then targets[c] * s.denoms[c].face else 0)

/-- A till entry as R42 stores it: clamped, then the hard limit against the skim level, then the target value. -/
def clampTill (s : State) (e : TillEntry) : TillEntry :=
  let targets := mapRows (clamp 0 9999) e.targets
  let skim := clamp 0 99999999 e.skimLevel
  { node := clampNode e.node
    badge := if e.badge = 0 then 0 else clampNode e.badge
    targets := targets
    targetValue := targetValueOf s targets
    skimLevel := skim
    hardLimit := clamp skim 99999999 e.hardLimit
    topUpCap := clamp 0 99999999 e.topUpCap
    skimFloor := clamp 1 1000000 e.skimFloor
    enabled := e.enabled }

/-- A write to TILL (R42). -/
def putTill (t : Fin 160) (e : TillEntry) (s : State) : Except Code State :=
  if s.drawers[t].state.atRest then .ok (s.setTills (put s.tills t (clampTill s e))) else .error .wrongTillState

/-- A write to a numbered entry of TIMING (R193). -/
def putTimingValue (k : Fin 14) (n : Nat) (s : State) : State :=
  s.setTiming { s.timing with values := put s.timing.values k (clamp timingRange[k].1 timingRange[k].2 n) }

/-- A write to a tally group's entry of TIMING (R193). -/
def putTimingGroup (g : Fin 3) (t : TallySetting) (s : State) : State :=
  s.setTiming { s.timing with groups := put s.timing.groups g t }

/-- The descriptor a write leaves: window and inbound count clamped, the outcome of the last call cleared (R120). -/
def bookedSlot (d : Descriptor) (b : Booking) : Descriptor :=
  let start := clamp 0 1439 b.windowStart
  { d with
    number := b.number, courier := b.courier, windowStart := start, windowEnd := clamp start 1439 b.windowEnd
    outbound := b.outbound, inboundCount := clamp 0 12 b.inboundCount, inboundValue := b.inboundValue
    result := .none, received := [], second := none, supervisor := none, courierMark := none }

/-- A write to RING, indices 0 to 15 (R120). -/
def putBooking (i : Fin 16) (b : Booking) (s : State) : Except Code State :=
  if s.ring[i].owner = .part then .error .protectedEntry
  else if Config.consignmentSeals < b.outbound.length ∨ b.outbound.contains 0 = true then .error .malformed
  else .ok (setSlot i (bookedSlot s.ring[i] b) s)

end Sys2Proof.Machine
end

