-- ==== Sys2Proof/Machine/Agent.lean ====
section
/-! DEFINITION. The Management Agent: the taking of a request at the head of the receive buffer, and what each request does (chapter 12
and the requests of the other chapters). -/

namespace Sys2Proof.Machine

/-- What a request is answered with: result, detail (none where no rule states it), data (R190). -/
structure Result where
  code : Code
  detail : Option Word32
  data : List Byte
  deriving DecidableEq, Repr

/-- A result without data. -/
def Result.of (c : Code) (d : Option Word32) : Result := { code := c, detail := d, data := [] }

/-- A request whose payload is too short for its fields, or names a value outside a named set (R190). -/
def malformed (s : State) : State × Result := (s, Result.of .malformed none)

/-- The Agent takes the request at the head of the buffer when it holds no unsent reply, it carries the command's code and `variant`
holds of it; the entry leaves the buffer, `run` executes it whole, and its REPLY is produced (R190). With no such request the command
finds nothing to take (log entry 1). `finish` is the end of the taking. -/
def takeRequest (finish : State → State → State) (code : Byte) (variant : State → List Byte → Bool)
    (run : List Byte → State → State × Result) (s : State) : Host.Outcome State Fault Refusal :=
  match s.trunk.reply, s.trunk.sendWaits, s.trunk.buffer with
  | none, false, .request tag c fields :: _ =>
    if c = code ∧ variant s fields = true then
      let r := run fields (popRequest s)
      .next (finish s (answerRequest tag c r.2.code r.2.detail r.2.data r.1))
    else .next s
  | _, _, _ => .next s

/-- A request of which every form is the command's. -/
def anyForm (_ : State) (_ : List Byte) : Bool := true

/-! ## The table window (R192) -/

/-- TABLE_SELECT. -/
def runTableSelect (fields : List Byte) (s : State) : State × Result :=
  match leadFields [1, 2] fields with
  | some ([t, i], _) =>
    match TableId.all.find? fun x => x.code = t with
    | none => (s, Result.of .unknownTable none)
    | some x =>
      if i < x.first ∨ x.last < i then (s, Result.of .malformed none)
      else (s.setPointer { table := x, index := i }, Result.of .accepted none)
  | _ => malformed s

/-- The pointer stands one past the last entry (R192). -/
def pastEnd (s : State) : Bool := decide (s.pointer.table.last < s.pointer.index)

/-- The index advances by 1 (R192). -/
def advancePointer (s : State) : State := s.setPointer { s.pointer with index := s.pointer.index + 1 }

/-- TABLE_GET: the entry at the pointer, and the index advances; past the end, MALFORMED. -/
def runTableGet (_ : List Byte) (s : State) : State × Result :=
  if pastEnd s then malformed s
  else (advancePointer s,
        { code := .accepted, detail := none, data := tableEntry s s.pointer.table s.pointer.index })

/-- The reply of a write: ACCEPTED advances the index, a refusal leaves it (R192). -/
def putResult (s : State) : Except Code State → State × Result
  | .ok s' => (advancePointer s', Result.of .accepted none)
  | .error c => (s, Result.of c none)

/-- The pointer names an entry that no write reaches: past the end, a read-only table, or the session record (R119, R192). -/
def notWritable (s : State) : Bool :=
  pastEnd s || s.pointer.table.readOnly || (s.pointer.table == .ring && s.pointer.index == 16)

/-- TABLE_PUT past the end, at a read-only table, or at the session record (R119, R192, log entry 11). That the last two are PROTECTED whatever
the fields, where R190 calls too short a payload MALFORMED, is the model's choice (log entry 11). -/
def runTablePut (_ : List Byte) (s : State) : State × Result :=
  if pastEnd s then malformed s else (s, Result.of .protectedEntry none)

/-- A TABLE_PUT at an entry of a writable table. -/
def writesTable (t : TableId) (s : State) (_ : List Byte) : Bool := s.pointer.table == t && !notWritable s

/-- TABLE_PUT to table DENOM (R5 to R7). -/
def runPutDenom (fields : List Byte) (s : State) : State × Result :=
  match inRange 12 s.pointer.index, readDenom fields with
  | some c, some d => putResult s (putDenom c d s)
  | _, _ => malformed s

/-- TABLE_PUT to table NODE (R169). -/
def runPutNode (fields : List Byte) (s : State) : State × Result :=
  match inRange 252 (s.pointer.index - 2), readNode fields with
  | some i, some n => putResult s (putNode i n s)
  | _, _ => malformed s

/-- TABLE_PUT to table WITNESS (R170). -/
def runPutWitness (fields : List Byte) (s : State) : State × Result :=
  match inRange 7 s.pointer.index, readWitness fields with
  | some i, some w => putResult s (putWitness i w s)
  | _, _ => malformed s

/-- TABLE_PUT to table TILL (R42). -/
def runPutTill (fields : List Byte) (s : State) : State × Result :=
  match inRange 160 s.pointer.index, readTill fields with
  | some t, some e => putResult s (putTill t e s)
  | _, _ => malformed s

/-- TABLE_PUT to table TIMING (R193). -/
def runPutTiming (fields : List Byte) (s : State) : State × Result :=
  match inRange 14 s.pointer.index with
  | some k =>
    match takeNat timingWidth[k] fields with
    | some (n, _) => putResult s (.ok (putTimingValue k n s))
    | none => malformed s
  | none =>
    match inRange 3 (s.pointer.index - 14), readSetting fields with
    | some g, some t => putResult s (.ok (putTimingGroup g t s))
    | _, _ => malformed s

/-- TABLE_PUT to table RING (R120). -/
def runPutRing (fields : List Byte) (s : State) : State × Result :=
  match inRange 16 s.pointer.index, readBooking fields with
  | some i, some b => putResult s (putBooking i b s)
  | _, _ => malformed s

/-! ## STATUS (R194) -/

/-- The seven error counters and the places of the outgoing queue. -/
def portStatus (q : LinePort) : List Byte :=
  be 4 q.errors.check ++ be 4 q.errors.symbol ++ be 4 q.errors.framing ++ be 4 q.errors.longFrame ++ be 4 q.errors.breaks ++
    be 4 q.errors.clash ++ be 4 q.errors.undelivered ++ be 1 q.out.filled.length ++ be 1 q.out.reserved ++ be 1 q.out.free

/-- One count session in STATUS. R99 calls the fields of an IDLE session absent or 0; they are sent as zeros, with no presence byte: the
model's choice (log entry 13). -/
def sessionStatus (x : Session) : List Byte :=
  be 1 x.state.code ++ be 4 x.bag ++ [x.node] ++ be 4 x.total ++ be 2 x.unresolved

/-- The data of STATUS, in the order of R194. -/
def statusData (s : State) : List Byte :=
  be 1 s.day.state.code ++ be 2 s.day.number ++ be 2 s.day.clock ++ [flagByte (!s.day.armed)] ++
    s.sessions.toList.flatMap sessionStatus ++ be 1 s.call.phase.code ++
    optBytes (fun (i : Fin 16) => be 1 i.val) s.call.slot ++ be 2 s.bags.length ++ portStatus s.floor ++ portStatus s.room ++
    be 1 s.uplink.filled.length ++ be 1 s.uplink.reserved ++ be 1 s.uplink.free ++ be 1 s.floor.down.length ++
    be 1 s.room.down.length ++ be 4 s.trunk.check ++ be 4 s.trunk.framing ++ be 4 s.trunk.overrun ++
    be 1 s.trunk.buffer.length ++ be 1 s.vector

/-- STATUS: nothing changes (R194). -/
def runStatus (_ : List Byte) (s : State) : State × Result :=
  (s, { code := .accepted, detail := none, data := statusData s })

/-! ## Events (R184 to R186) -/

/-- EVENTS_READ (R184). -/
def runEventsRead (_ : List Byte) (s : State) : State × Result :=
  (s, { code := .accepted, detail := none, data := eventsData s })

/-- CLEAR_EVENTS: the detail is the selection of the events still pending (R185, log entry 17). -/
def runClearEvents (fields : List Byte) (s : State) : State × Result :=
  match takeNat 4 fields with
  | some (sel, _) =>
    let s1 := clearSelected sel s
    (s1, Result.of .accepted (num (selectionOf (pendingCondition s1))))
  | none => malformed s

/-- EVENT_ENABLE (R186). -/
def runEventEnable (fields : List Byte) (s : State) : State × Result :=
  match takeNat 4 fields with
  | some (sel, rest) =>
    match takeFlag rest with
    | some (value, _) => (enableSelected sel value s, Result.of .accepted none)
    | none => malformed s
  | none => malformed s

/-! ## Tallies (R114) -/

/-- One counter in the reply: count, half flag, full flag. -/
def tallyBytes (t : Tally) : List Byte := be 4 t.count ++ [flagByte t.half, flagByte t.full]

/-- The named groups in the reply: each group's counters in code order, its mode and its report enable (R114, log entry 13). -/
def talliesData (gs : List TallyGroup) (s : State) : List Byte :=
  gs.flatMap fun g => rowBytes tallyBytes s.tallies[g.row] ++ settingBytes s.timing.groups[g.row]

/-- The clear option of a TALLY_READ is yes. -/
def asksClear (_ : State) (fields : List Byte) : Bool := (fields.drop 1).head? == some 1#8

/-- TALLY_READ with its clear option (R114). -/
def runTallyRead (fields : List Byte) (s : State) : State × Result :=
  match takeNat 1 fields with
  | some (g, rest) =>
    match namedGroups g, takeFlag rest with
    | some gs, some (clear, _) =>
      (if clear then clearTallies gs s else s, { code := .accepted, detail := none, data := talliesData gs s })
    | _, _ => malformed s
  | none => malformed s

/-! ## The trading day (R142 to R144, R149) -/

/-- The day state as a detail. -/
def dayDetail (s : State) : Option Word32 := num s.day.state.code

/-- DAY_OPEN (R142). -/
def runDayOpen (_ : List Byte) (s : State) : State × Result :=
  if s.day.state = .night then (openDay s, Result.of .accepted (num (openDay s).day.number))
  else (s, Result.of .wrongDayState (dayDetail s))

/-- DAY_TRADE (R143). -/
def runDayTrade (_ : List Byte) (s : State) : State × Result :=
  if s.day.state = .opening then (tradeDay s, Result.of .accepted none)
  else (s, Result.of .wrongDayState (dayDetail s))

/-- The force option of a DAY_CLOSE is yes. -/
def asksForce (_ : State) (fields : List Byte) : Bool := fields.head? == some 1#8

/-- DAY_CLOSE with its force option (R144). R150 calls the second of a DAY_CLOSE and a DAY_TRADE refused WRONG_DAY_STATE; that a DAY_CLOSE
after the DAY_TRADE is taken in TRADING, as R144 says, is the model's choice between the two (log entry 24). -/
def runDayClose (fields : List Byte) (s : State) : State × Result :=
  match takeFlag fields with
  | none => malformed s
  | some (force, _) =>
    if s.day.state = .opening ∨ s.day.state = .trading then
      (closeDay force s, Result.of .accepted (dayDetail (closeDay force s)))
    else (s, Result.of .wrongDayState (dayDetail s))

/-- SET_CLOCK (R149). -/
def runSetClock (fields : List Byte) (s : State) : State × Result :=
  match takeNat 2 fields with
  | none => malformed s
  | some (m, _) =>
    if 1439 < m then (s, Result.of .malformed (num m))
    else if s.day.state ≠ .night then (s, Result.of .wrongDayState (dayDetail s))
    else if !s.day.armed then (s, Result.of .clockSet (num s.day.clock))
    else (setDayClock m s, Result.of .accepted (num s.day.clock))

/-! ## Consignments (R121, R122, R136) -/

/-- CONSIGN_HAND (R121). -/
def runConsignHand (fields : List Byte) (s : State) : State × Result :=
  match takeNat 1 fields with
  | none => malformed s
  | some (k, _) =>
    match inRange 16 k with
    | none => (s, Result.of .malformed (num k))
    | some i =>
      if s.ring[i].owner = .part then (s, Result.of .protectedEntry (num k))
      else if s.ring[i].windowEnd < s.day.clock then (s, Result.of .outOfWindow (num s.day.clock))
      else match pinCheck s [] s.ring[i].outbound with
        | some (c, n) => (s, Result.of c (num n))
        | none => (handSlot i s, Result.of .accepted none)

/-- CONSIGN_RECALL (R122). -/
def runConsignRecall (fields : List Byte) (s : State) : State × Result :=
  match takeNat 1 fields with
  | none => malformed s
  | some (k, _) =>
    match inRange 16 k with
    | none => malformed s
    | some i =>
      if s.ring[i].owner = .office then malformed s
      else if s.call.activeOn i then (s, Result.of .protectedEntry none)
      else (recallSlot i s, Result.of .accepted none)

/-- HATCH_RELEASE (R136). -/
def runHatchRelease (fields : List Byte) (s : State) : State × Result :=
  match takeNat 4 fields with
  | none => malformed s
  | some (n, _) =>
    match transition n (moveHatchRelease s.seconds) s with
    | .error c => (s, Result.of c none)
    | .ok s' => (s', Result.of .accepted (num n))

/-! ## Orders, safe, stock, tills (R18, R19, R57, R75, R92) -/

/-- ORDER_CANCEL (R75). -/
def runOrderCancel (fields : List Byte) (s : State) : State × Result :=
  match takeNat 1 fields with
  | none => malformed s
  | some (k, _) =>
    match inRange 24 k with
    | none => malformed s
    | some i =>
      match s.orders[i].state with
      | .free => malformed s
      | .madeUp => (s, Result.of .orderOpen (s.orders[i].sealNo.elim none num))
      | .pending => (cancelOrder i s, Result.of .accepted none)

/-- SAFE_RELEASE (R92). -/
def runSafeRelease (_ : List Byte) (s : State) : State × Result :=
  if s.safe.lock = .lockout then (releaseLockout s, Result.of .accepted none)
  else (s, Result.of .wrongLockState none)

/-- The stock record a STOCK_SET writes, and the signed change of value into the adjustment accumulator (R18). -/
def setStockCounts (c : Fin 12) (loose straps : Nat) (s : State) : State :=
  let r : StockRec := { s.stock[c] with loose := loose, straps := straps }
  addAdjustment (((held s.denoms[c] r : Int) - s.heldOf c) * s.denoms[c].face) (s.setStock (put s.stock c r))

/-- STOCK_SET (R18). -/
def runStockSet (fields : List Byte) (s : State) : State × Result :=
  match leadFields [1, 4, 4] fields with
  | some ([k, loose, straps], _) =>
    if s.day.state ≠ .night then (s, Result.of .wrongDayState none)
    else match inRange 12 k with
      | none => malformed s
      | some c =>
        if !s.denoms[c].enabled then malformed s
        else if loose + straps * s.denoms[c].strap < s.stock[c].reserved then (s, Result.of .stockShort none)
        else (setStockCounts c loose straps s, Result.of .accepted none)
  | _ => malformed s

/-- SUSPECT_RELEASE (R19). -/
def runSuspectRelease (fields : List Byte) (s : State) : State × Result :=
  match leadFields [1, 2] fields with
  | some ([k, n], _) =>
    match inRange 12 k with
    | none => malformed s
    | some c =>
      if s.stock[c].suspect < n then (s, Result.of .stockShort none)
      else (s.setStock (put s.stock c { s.stock[c] with suspect := s.stock[c].suspect - n }), Result.of .accepted none)
  | _ => malformed s

/-- TILL_SUSPEND (R57). In NIGHT a till number above 159 is answered WRONG_DAY_STATE: R57 names both refusals and does not say which
decides, and the order of its sentences is the model's choice (log entry 11). -/
def runTillSuspend (fields : List Byte) (s : State) : State × Result :=
  match takeNat 1 fields with
  | none => malformed s
  | some (k, _) =>
    if s.day.state = .night then (s, Result.of .wrongDayState none)
    else match inRange 160 k with
      | none => malformed s
      | some t =>
        match s.drawers[t].state with
        | .cashedUp => (s, Result.of .wrongTillState none)
        | .suspended => (s, Result.of .accepted none)
        | .closed | .floated | .opened | .hold =>
          (setDrawer t (suspendDrawer s.drawers[t]) s, Result.of .accepted none)

/-! ## RESTART (R195) -/

/-- The uplink envelopes that RESTART keeps: the head while it is being sent (R195). -/
def keptEnvelopes (s : State) : List Envelope :=
  match s.trunk.sending with
  | some x => if x.source = .relay then s.uplink.filled.take 1 else []
  | none => []

/-- The relay queues emptied (R195); the downlink queues are emptied with their ports. -/
def emptyUplink (s : State) : State := s.setUplink { reserved := 0, filled := keptEnvelopes s }

/-- RESTART's work at the ports and the blocks, before the uplink queue is emptied (R195, steps 1 to 4). -/
def restartBlocks (s : State) : State :=
  takeMarkedWindows s |> restartPort .floor |> restartPort .room |> abortSessions |> abortHandover .aborted |> restartLock

/-- RESTART: its detail is the number of envelopes discarded unsent (R195). -/
def runRestart (_ : List Byte) (s : State) : State × Result :=
  let s1 := restartBlocks s
  (emptyUplink s1, Result.of .accepted (num (s1.uplink.filled.length - (keptEnvelopes s1).length)))

/-! ## Unknown requests and SEND (R178, R190) -/

/-- The request codes the Agent knows (R190). -/
def knownRequests : List Byte :=
  [0x10, 0x11, 0x12, 0x18, 0x20, 0x21, 0x22, 0x28, 0x30, 0x31, 0x32, 0x33, 0x38, 0x39, 0x3A, 0x40, 0x41, 0x48, 0x49, 0x50,
   0x5F]

/-- A request code the Agent does not know: UNKNOWN_KIND, and no state changes (R190). -/
def takeUnknown (s : State) : Host.Outcome State Fault Refusal :=
  match s.trunk.reply, s.trunk.sendWaits, s.trunk.buffer with
  | none, false, .request tag c _ :: _ =>
    if knownRequests.contains c then .next s
    else taking (fun s => answerRequest tag c .unknownKind none [] (popRequest s)) s
  | _, _, _ => .next s

/-- A SEND at the head: refused, placed, or left waiting (R178). -/
def sendRule (tag : Word16) (port pb kind dest : Byte) (body : List Byte) (s : State) : State :=
  if sendMalformed port pb body then answerRequest tag 0 .malformed none [] (popRequest s)
  else if !sendDestination s dest then answerRequest tag 0 .unknownNode none [] (popRequest s)
  else if downlinkFree s (sendQueue s port dest) then
    placeSend tag (sendQueue s port dest) (sendFrame pb kind dest body) s
  else s.setTrunk { s.trunk with sendWaits := true }

/-- The Agent takes a SEND at the head of the buffer (R178, R190). -/
def takeSend (s : State) : Host.Outcome State Fault Refusal :=
  match s.trunk.reply, s.trunk.sendWaits, s.trunk.buffer with
  | none, false, .send tag port pb kind dest body :: _ => taking (sendRule tag port pb kind dest body) s
  | _, _, _ => .next s

end Sys2Proof.Machine
end

