-- ==== Sys2Proof/Machine/TrunkCommands.lean ====
section
/-! DEFINITION. The meanings of the commands of the Trunk Port and of the Management Agent. -/

namespace Sys2Proof.Machine

/-- TRUNK_FRAME_RECEIVED (R188): A trunk frame is collected and checked, then enters the receive buffer or is discarded with a
check, framing or overrun count. -/
def execTrunkFrameReceived (chars : List Byte) (s : State) : Host.Outcome State Fault Refusal := taking (receiveTrunk chars) s

/-- TRUNK_HOLD_INPUT (R189): The back office asserts or releases its HOLD input, pausing or resuming the start of trunk frames. -/
def execTrunkHoldInput (asserted : Bool) (s : State) : Host.Outcome State Fault Refusal := taking (holdInput asserted) s

/-- TRUNK_FRAME_START (R191): The free trunk transmitter begins the unsent REPLY, else an owed ATTENTION, else the uplink head. -/
def execTrunkFrameStart (s : State) : Host.Outcome State Fault Refusal := takingIf (trunkReady s) startTrunk s

/-- TRUNK_FRAME_SENT (R176): A trunk frame finishes sending, and a relay envelope's uplink place frees. -/
def execTrunkFrameSent (s : State) : Host.Outcome State Fault Refusal :=
  match s.trunk.sending with
  | some x => taking (endTrunk x) s
  | none => .next s

/-- SEND (R178): A SEND envelope is checked and placed in the floor or room downlink queue, waiting at the head of the Agent's work
while the queue is full. -/
def execSend (s : State) : Host.Outcome State Fault Refusal := takeSend s

/-- REQUEST_UNKNOWN (R190): A request with an unknown code is answered UNKNOWN_KIND and changes nothing. -/
def execRequestUnknown (s : State) : Host.Outcome State Fault Refusal := takeUnknown s

/-- TABLE_SELECT (R192): TABLE_SELECT sets the window pointer to a table and an index. -/
def execTableSelect (s : State) : Host.Outcome State Fault Refusal := takeRequest settle 0x10 anyForm runTableSelect s

/-- TABLE_GET (R192): TABLE_GET returns the entry at the pointer and advances the index. -/
def execTableGet (s : State) : Host.Outcome State Fault Refusal := takeRequest settle 0x12 anyForm runTableGet s

/-- TABLE_PUT (R192): A TABLE_PUT to a read-only table, or past the last index, is refused and the pointer stays. This row is the
write at a read-only table, at the session record, or past the last index. -/
def execTablePut (s : State) : Host.Outcome State Fault Refusal :=
  takeRequest settle 0x11 (fun s _ => notWritable s) runTablePut s

/-- TABLE_PUT_DENOM (R5): A write to DENOM in NIGHT clamps and replaces the entry, subject to the DUPLICATE_FACE and STOCK_HELD
checks. -/
def execTablePutDenom (s : State) : Host.Outcome State Fault Refusal := takeRequest settle 0x11 (writesTable .denom) runPutDenom s

/-- TABLE_PUT_NODE (R169): A write to NODE replaces the entry after the port and role checks. -/
def execTablePutNode (s : State) : Host.Outcome State Fault Refusal := takeRequest settle 0x11 (writesTable .node) runPutNode s

/-- TABLE_PUT_WITNESS (R170): A write to WITNESS in NIGHT replaces the roles and same-till flag of a guarded kind. -/
def execTablePutWitness (s : State) : Host.Outcome State Fault Refusal :=
  takeRequest settle 0x11 (writesTable .witness) runPutWitness s

/-- TABLE_PUT_TILL (R42): A write to TILL for a drawer at rest clamps the entry and computes its target value. -/
def execTablePutTill (s : State) : Host.Outcome State Fault Refusal := takeRequest settle 0x11 (writesTable .till) runPutTill s

/-- TABLE_PUT_TIMING (R193): A write to TIMING clamps the value of one timing, limit, tolerance or tally entry. -/
def execTablePutTiming (s : State) : Host.Outcome State Fault Refusal :=
  takeRequest settle 0x11 (writesTable .timing) runPutTiming s

/-- TABLE_PUT_RING (R120): A write to an OFFICE-owned descriptor clamps and replaces the booking and clears its outcome. -/
def execTablePutRing (s : State) : Host.Outcome State Fault Refusal := takeRequest settle 0x11 (writesTable .ring) runPutRing s

/-- STATUS (R194): STATUS returns the day, session, handover, register, port, queue, trunk and vector state. -/
def execStatus (s : State) : Host.Outcome State Fault Refusal := takeRequest settle 0x18 anyForm runStatus s

/-- EVENTS_READ (R184): EVENTS_READ returns every event record, the summaries and the state vector. -/
def execEventsRead (s : State) : Host.Outcome State Fault Refusal := takeRequest settle 0x20 anyForm runEventsRead s

/-- CLEAR_EVENTS (R185): CLEAR_EVENTS clears the selected direct events and zeroes the selected counts. -/
def execClearEvents (s : State) : Host.Outcome State Fault Refusal := takeRequest settle 0x21 anyForm runClearEvents s

/-- EVENT_ENABLE (R186): EVENT_ENABLE sets the enable of the selected events, possibly owing an ATTENTION. -/
def execEventEnable (s : State) : Host.Outcome State Fault Refusal := takeRequest settle 0x22 anyForm runEventEnable s

/-- TALLY_READ (R114): TALLY_READ without clear returns the counters, flags, modes and report enables of the named group or groups.
This row is every form but the one with clear. -/
def execTallyRead (s : State) : Host.Outcome State Fault Refusal :=
  takeRequest settle 0x28 (fun s x => !asksClear s x) runTallyRead s

/-- TALLY_READ_CLEAR (R114): TALLY_READ with clear returns the named counters and then zeroes them and clears their flags in the
same taking. -/
def execTallyReadClear (s : State) : Host.Outcome State Fault Refusal := takeRequest settle 0x28 asksClear runTallyRead s

/-- DAY_OPEN (R142): DAY_OPEN in NIGHT raises the day number, resets the drawers and accumulators, spends the clock permission and
enters OPENING. -/
def execDayOpen (s : State) : Host.Outcome State Fault Refusal := takeRequest settle 0x30 anyForm runDayOpen s

/-- DAY_TRADE (R143): DAY_TRADE moves the day state from OPENING to TRADING. -/
def execDayTrade (s : State) : Host.Outcome State Fault Refusal := takeRequest settle 0x31 anyForm runDayTrade s

/-- DAY_CLOSE (R144): DAY_CLOSE without force enters CLOSING, cancels PENDING orders and tests the closing conditions. This row is
every form but the one with force. -/
def execDayClose (s : State) : Host.Outcome State Fault Refusal :=
  takeRequest settle 0x32 (fun s x => !asksForce s x) runDayClose s

/-- DAY_CLOSE_FORCE (R144): DAY_CLOSE with force also suspends trading drawers and aborts the count sessions on entering CLOSING. -/
def execDayCloseForce (s : State) : Host.Outcome State Fault Refusal := takeRequest settle 0x32 asksForce runDayClose s

/-- SET_CLOCK (R149): SET_CLOCK in NIGHT with the permission armed sets the day clock once and spends the permission. -/
def execSetClock (s : State) : Host.Outcome State Fault Refusal := takeRequest settle 0x33 anyForm runSetClock s

/-- CONSIGN_HAND (R121): CONSIGN_HAND pins a descriptor's outbound bags and hands its slot to the part. -/
def execConsignHand (s : State) : Host.Outcome State Fault Refusal := takeRequest settle 0x38 anyForm runConsignHand s

/-- CONSIGN_RECALL (R122): CONSIGN_RECALL returns a PART-owned slot not in session to OFFICE as RECALLED, unpinning its safe bags. -/
def execConsignRecall (s : State) : Host.Outcome State Fault Refusal := takeRequest settle 0x39 anyForm runConsignRecall s

/-- HATCH_RELEASE (R136): HATCH_RELEASE moves a HATCH_HELD bag to HANDED_OVER and clears its pin. -/
def execHatchRelease (s : State) : Host.Outcome State Fault Refusal := takeRequest settle 0x3A anyForm runHatchRelease s

/-- ORDER_CANCEL (R75): ORDER_CANCEL releases and frees a PENDING order. -/
def execOrderCancel (s : State) : Host.Outcome State Fault Refusal := takeRequest settle 0x40 anyForm runOrderCancel s

/-- SAFE_RELEASE (R92): SAFE_RELEASE in LOCKOUT returns the lock to LOCKED, zeroes the failed count and commands LOCK. -/
def execSafeRelease (s : State) : Host.Outcome State Fault Refusal := takeRequest settle 0x41 anyForm runSafeRelease s

/-- STOCK_SET (R18): STOCK_SET in NIGHT writes a code's loose and straps counts and adds the value change to the adjustment
accumulator. -/
def execStockSet (s : State) : Host.Outcome State Fault Refusal := takeRequest settle 0x48 anyForm runStockSet s

/-- SUSPECT_RELEASE (R19): SUSPECT_RELEASE lowers a code's suspect hold by a count. -/
def execSuspectRelease (s : State) : Host.Outcome State Fault Refusal := takeRequest settle 0x49 anyForm runSuspectRelease s

/-- TILL_SUSPEND (R57): TILL_SUSPEND moves a drawer that is not cashed up to SUSPENDED. -/
def execTillSuspend (s : State) : Host.Outcome State Fault Refusal := takeRequest settle 0x50 anyForm runTillSuspend s

/-- RESTART (R195): RESTART resets the ports, aborts count and handover sessions, treats the lock, empties the relay queues and
keeps all records. A safe command it sets owed is not placed in its own taking (log entry 8). -/
def execRestart (s : State) : Host.Outcome State Fault Refusal := takeRequest settleRestart 0x5F anyForm runRestart s

end Sys2Proof.Machine
end

