-- ==== Sys2Proof/Machine/Dispatch.lean ====
section
/-! DEFINITION. exec: one arm for each command, one direct call of its meaning. -/

namespace Sys2Proof.Machine

/-- The effect of a command on everything but the queue of waiting commands. -/
def exec (i : Instr) (s : State) : Host.Outcome State Fault Refusal :=
  match i with
  | .powerOn => Sys2Proof.Machine.execPowerOn s
  | .frameStart p => Sys2Proof.Machine.execFrameStart p s
  | .endOfData p bits => Sys2Proof.Machine.execEndOfData p bits s
  | .markByte p mark => Sys2Proof.Machine.execMarkByte p mark s
  | .unmarkedFrameDropped p => Sys2Proof.Machine.execUnmarkedFrameDropped p s
  | .symbolError p symbol => Sys2Proof.Machine.execSymbolError p symbol s
  | .framingError p symbol incomplete => Sys2Proof.Machine.execFramingError p symbol incomplete s
  | .longFrame p => Sys2Proof.Machine.execLongFrame p s
  | .breakPulse p => Sys2Proof.Machine.execBreakPulse p s
  | .lineIdle p => Sys2Proof.Machine.execLineIdle p s
  | .currentFrameChoice p => Sys2Proof.Machine.execCurrentFrameChoice p s
  | .transmitStart p => Sys2Proof.Machine.execTransmitStart p s
  | .arbitrationLost p bit => Sys2Proof.Machine.execArbitrationLost p bit s
  | .headerSent p => Sys2Proof.Machine.execHeaderSent p s
  | .sendClash p => Sys2Proof.Machine.execSendClash p s
  | .dataSent p => Sys2Proof.Machine.execDataSent p s
  | .windowClose p => Sys2Proof.Machine.execWindowClose p s
  | .safeCommandPlaced => Sys2Proof.Machine.execSafeCommandPlaced s
  | .tender p => Sys2Proof.Machine.execTender p s
  | .refund p => Sys2Proof.Machine.execRefund p s
  | .pickup p => Sys2Proof.Machine.execPickup p s
  | .cashup p => Sys2Proof.Machine.execCashup p s
  | .tillOpen p => Sys2Proof.Machine.execTillOpen p s
  | .floatReceipt p => Sys2Proof.Machine.execFloatReceipt p s
  | .declare p => Sys2Proof.Machine.execDeclare p s
  | .makeUpFloat p => Sys2Proof.Machine.execMakeUpFloat p s
  | .makeUpConsignment p => Sys2Proof.Machine.execMakeUpConsignment p s
  | .restock p => Sys2Proof.Machine.execRestock p s
  | .drop p => Sys2Proof.Machine.execDrop p s
  | .withdraw p => Sys2Proof.Machine.execWithdraw p s
  | .deposit p => Sys2Proof.Machine.execDeposit p s
  | .doorOpen p => Sys2Proof.Machine.execDoorOpen p s
  | .doorClosed p => Sys2Proof.Machine.execDoorClosed p s
  | .openRequest p => Sys2Proof.Machine.execOpenRequest p s
  | .openCancel p => Sys2Proof.Machine.execOpenCancel p s
  | .openConfirm p => Sys2Proof.Machine.execOpenConfirm p s
  | .delayExpiry => Sys2Proof.Machine.execDelayExpiry s
  | .windowExpiry => Sys2Proof.Machine.execWindowExpiry s
  | .relockExpiry => Sys2Proof.Machine.execRelockExpiry s
  | .bagOpen p => Sys2Proof.Machine.execBagOpen p s
  | .batch p => Sys2Proof.Machine.execBatch p s
  | .handKey p => Sys2Proof.Machine.execHandKey p s
  | .bagClose p => Sys2Proof.Machine.execBagClose p s
  | .countAbort p => Sys2Proof.Machine.execCountAbort p s
  | .countIdleExpiry session => Sys2Proof.Machine.execCountIdleExpiry session s
  | .announce p => Sys2Proof.Machine.execAnnounce p s
  | .load p => Sys2Proof.Machine.execLoad p s
  | .receive p => Sys2Proof.Machine.execReceive p s
  | .sign p => Sys2Proof.Machine.execSign p s
  | .exchangeTimeout => Sys2Proof.Machine.execExchangeTimeout s
  | .signTimeout => Sys2Proof.Machine.execSignTimeout s
  | .dayClockAdvance => Sys2Proof.Machine.execDayClockAdvance s
  | .opaqueFrame p => Sys2Proof.Machine.execOpaqueFrame p s
  | .unknownKindFrame p => Sys2Proof.Machine.execUnknownKindFrame p s
  | .trunkFrameReceived chars => Sys2Proof.Machine.execTrunkFrameReceived chars s
  | .trunkHoldInput asserted => Sys2Proof.Machine.execTrunkHoldInput asserted s
  | .trunkFrameStart => Sys2Proof.Machine.execTrunkFrameStart s
  | .trunkFrameSent => Sys2Proof.Machine.execTrunkFrameSent s
  | .send => Sys2Proof.Machine.execSend s
  | .requestUnknown => Sys2Proof.Machine.execRequestUnknown s
  | .tableSelect => Sys2Proof.Machine.execTableSelect s
  | .tableGet => Sys2Proof.Machine.execTableGet s
  | .tablePut => Sys2Proof.Machine.execTablePut s
  | .tablePutDenom => Sys2Proof.Machine.execTablePutDenom s
  | .tablePutNode => Sys2Proof.Machine.execTablePutNode s
  | .tablePutWitness => Sys2Proof.Machine.execTablePutWitness s
  | .tablePutTill => Sys2Proof.Machine.execTablePutTill s
  | .tablePutTiming => Sys2Proof.Machine.execTablePutTiming s
  | .tablePutRing => Sys2Proof.Machine.execTablePutRing s
  | .status => Sys2Proof.Machine.execStatus s
  | .eventsRead => Sys2Proof.Machine.execEventsRead s
  | .clearEvents => Sys2Proof.Machine.execClearEvents s
  | .eventEnable => Sys2Proof.Machine.execEventEnable s
  | .tallyRead => Sys2Proof.Machine.execTallyRead s
  | .tallyReadClear => Sys2Proof.Machine.execTallyReadClear s
  | .dayOpen => Sys2Proof.Machine.execDayOpen s
  | .dayTrade => Sys2Proof.Machine.execDayTrade s
  | .dayClose => Sys2Proof.Machine.execDayClose s
  | .dayCloseForce => Sys2Proof.Machine.execDayCloseForce s
  | .setClock => Sys2Proof.Machine.execSetClock s
  | .consignHand => Sys2Proof.Machine.execConsignHand s
  | .consignRecall => Sys2Proof.Machine.execConsignRecall s
  | .hatchRelease => Sys2Proof.Machine.execHatchRelease s
  | .orderCancel => Sys2Proof.Machine.execOrderCancel s
  | .safeRelease => Sys2Proof.Machine.execSafeRelease s
  | .stockSet => Sys2Proof.Machine.execStockSet s
  | .suspectRelease => Sys2Proof.Machine.execSuspectRelease s
  | .tillSuspend => Sys2Proof.Machine.execTillSuspend s
  | .restart => Sys2Proof.Machine.execRestart s

end Sys2Proof.Machine
end

