-- ==== Sys2Proof/Machine/Tick.lean ====
section
/-! DEFINITION. The passing of a second: what step does when no command waits (log entry 2), and the front of the command queue. -/

namespace Sys2Proof.Machine

/-- A command where a condition holds. -/
def ifDue (b : Bool) (c : Instr) : List Instr := if b then [c] else []

/-- The expiries due at a state, and an owed safe command that can be placed, in a fixed order: the lock's timer, the count sessions in
rising order, the handover session's timer, the day clock, the safe command (log entry 2). -/
def dueCommands (s : State) : List Instr :=
  ifDue (decide (s.safe.lock = .delay) && expired s s.safe.timer) .delayExpiry ++
  ifDue (decide (s.safe.lock = .window) && expired s s.safe.timer) .windowExpiry ++
  ifDue (decide (s.safe.lock = .unlocked) && expired s s.safe.timer) .relockExpiry ++
  (List.finRange 4).flatMap (fun x => ifDue (idleExpired s x) (.countIdleExpiry x.val)) ++
  ifDue (decide (s.call.phase = .exchange) && expired s s.call.timer) .exchangeTimeout ++
  ifDue (decide (s.call.phase = .signing) && expired s s.call.timer) .signTimeout ++
  ifDue (clockDue s) .dayClockAdvance ++
  ifDue (commandPlaceable s) .safeCommandPlaced

/-- One second passes: the seconds timer rises by 1 and what has become due is put in the queue (log entry 2). -/
def tick (s : State) : State :=
  let s1 := s.setSeconds (s.seconds + 1)
  s1.setPending (s1.pending ++ dueCommands s1)

/-- The state with a command put at the front of its queue. -/
def pushFront (c : Instr) (s : State) : State := s.setPending (c :: s.pending)

end Sys2Proof.Machine
end

