-- ==== Sys2Proof/Machine/Step.lean ====
section
/-! DEFINITION. One step: the command at the front of the queue, or a second that passes. -/

namespace Sys2Proof.Machine

/-- The command at the front of the queue is executed with the queue's rest; with none waiting, a second passes (log entry 2). -/
def step (s : State) : Host.Outcome State Fault Refusal :=
  match s.pending with
  | c :: rest => exec c (s.setPending rest)
  | [] => .next (tick s)

/-- The state with the command that a word spells at the front of its queue; a word that spells none leaves it. -/
def State.withFetchWord (s : State) (nbits w : Nat) : State :=
  match decodeTableWord nbits w with
  | some c => pushFront c s
  | none => s

end Sys2Proof.Machine
end

