-- ==== Sys2Proof/Safety.lean ====
section
/-! DEFINITION. What the statements say about states: which parts a command leaves alone, what it answers with, and the invariants that every
step keeps. -/

namespace Sys2Proof.Machine

/-! ## Outcomes -/

/-- A command answers a next state, and that state satisfies `P`. -/
def Yields (c : Instr) (s : State) (P : State → Prop) : Prop := ∃ t, exec c s = .next t ∧ P t

/-! ## The parts of the state, and what stays -/

/-- The parts of the state: one for each field. -/
inductive Part where
  | pending | seconds | denoms | stock | acc | bags | tills | drawers | orders | safe | sessions | tallies | ring | call | day
  | nodes | witness | timing | floor | room | uplink | trunk | pointer | events | vector | attention | draws
  deriving DecidableEq, Repr

/-- A part is the same in two states. -/
def Part.same (s t : State) : Part → Prop
  | .pending => t.pending = s.pending
  | .seconds => t.seconds = s.seconds
  | .denoms => t.denoms = s.denoms
  | .stock => t.stock = s.stock
  | .acc => t.acc = s.acc
  | .bags => t.bags = s.bags
  | .tills => t.tills = s.tills
  | .drawers => t.drawers = s.drawers
  | .orders => t.orders = s.orders
  | .safe => t.safe = s.safe
  | .sessions => t.sessions = s.sessions
  | .tallies => t.tallies = s.tallies
  | .ring => t.ring = s.ring
  | .call => t.call = s.call
  | .day => t.day = s.day
  | .nodes => t.nodes = s.nodes
  | .witness => t.witness = s.witness
  | .timing => t.timing = s.timing
  | .floor => t.floor = s.floor
  | .room => t.room = s.room
  | .uplink => t.uplink = s.uplink
  | .trunk => t.trunk = s.trunk
  | .pointer => t.pointer = s.pointer
  | .events => t.events = s.events
  | .vector => t.vector = s.vector
  | .attention => t.attention = s.attention
  | .draws => t.draws = s.draws

/-- The part that holds a line port. -/
def Part.ofPort : Port → Part
  | .floor => .floor
  | .room => .room

/-- The parts that the end of any taking may change: the events, the kept vector and the attention-owed flag. -/
def Part.eventParts : List Part := [.events, .vector, .attention]

/-- The parts that taking a frame may change whatever its job: the ports with their queues, the uplink queue, the model's count of free
details, and the event parts. -/
def Part.answerParts : List Part := [.floor, .room, .uplink, .draws] ++ eventParts

/-- The parts that taking a request may change whatever it asks: the trunk, the model's count of free details, the event parts. -/
def Part.replyParts : List Part := [.trunk, .draws] ++ eventParts

/-- The parts that the completion of a close changes, where a taking in CLOSING may complete it (R146). -/
def closingParts (s : State) : List Part := if s.day.state = .closing then [.bags, .day] else []

/-- Every part outside the list is the same in two states. -/
def unchangedBut (ex : List Part) (s t : State) : Prop := ∀ b : Part, b ∉ ex → b.same s t

/-- Every event outside the list keeps its record, but for the pending flag of an indirect event, which follows its sources (R180, R181); every
event keeps its enable. -/
def eventsBut (ex : List Event) (s t : State) : Prop :=
  (∀ e : Event, (t.event e).enable = (s.event e).enable) ∧
    ∀ e : Event, e ∉ ex → (t.event e).detail = (s.event e).detail ∧ (t.event e).count = (s.event e).count ∧
      (e.indirect = false → (t.event e).pending = (s.event e).pending)

/-- The events a close may raise in a taking (R141). -/
def closingEvents (s : State) : List Event := if s.day.state = .closing then [.dayChanged] else []

/-- At the ports a taken frame ends its window and adds frames behind those waiting; transmitters, downlink queues, counters and the other
port's receiver stay. -/
def portsKept (p : Port) (s t : State) : Prop :=
  ∀ q : Port, (t.port q).tx = (s.port q).tx ∧ (t.port q).lineIdle = (s.port q).lineIdle ∧ (t.port q).down = (s.port q).down ∧
    (t.port q).errors = (s.port q).errors ∧ (q ≠ p → (t.port q).rx = (s.port q).rx) ∧
    ∃ more, (t.port q).out.filled = (s.port q).out.filled ++ more

/-- What a frame command leaves alone: all but the listed parts and events, and what every frame's answer takes. -/
def FrameLeaves (c : Port → Instr) (parts : List Part) (events : List Event) : Prop :=
  ∀ (p : Port) (s t : State), exec (c p) s = .next t →
    unchangedBut (parts ++ closingParts s ++ Part.answerParts) s t ∧ eventsBut (events ++ closingEvents s) s t ∧ portsKept p s t ∧
      ∃ more, t.uplink.filled = s.uplink.filled ++ more

/-- What a request command leaves alone: all but the listed parts and events, and what every reply takes. -/
def RequestLeaves (c : Instr) (parts : List Part) (events : List Event) : Prop :=
  ∀ s t : State, exec c s = .next t →
    unchangedBut (parts ++ closingParts s ++ Part.replyParts) s t ∧ eventsBut (events ++ closingEvents s) s t

/-- No frame in the port's window carries the part's mark. -/
def NoMarkedFrame (s : State) (p : Port) : Prop := markedWindow s p = none

/-- What a command of a line port leaves alone while no marked frame stands in the port's window: all but that port, the uplink queue's places,
the safe's command-owed flag, and what a freed place lets in (R93, R178). -/
def LineLeaves (c : Port → Instr) (events : List Event) : Prop :=
  ∀ (p : Port) (s t : State), NoMarkedFrame s p → exec (c p) s = .next t →
    unchangedBut ([.floor, .room, .uplink, .safe, .trunk, .draws] ++ Part.eventParts) s t ∧ eventsBut events s t ∧
      t.safe = { s.safe with owed := t.safe.owed } ∧ t.uplink.filled = s.uplink.filled ∧
      ∀ q : Port, q ≠ p → (t.port q).rx = (s.port q).rx ∧ (t.port q).tx = (s.port q).tx ∧
        (t.port q).lineIdle = (s.port q).lineIdle ∧ (t.port q).errors = (s.port q).errors

/-- The parts that the job rule of a kind may change; both types of MAKE_UP and both reports of DOOR. -/
def JobKind.parts : JobKind → List Part
  | .tender | .refund | .tillOpen => [.drawers]
  | .pickup | .cashup => [.drawers, .bags]
  | .declare => [.drawers, .orders, .stock]
  | .floatReceipt => [.drawers, .bags, .orders]
  | .makeUp => [.orders, .bags, .stock, .acc]
  | .restock => [.stock, .acc, .bags, .orders, .drawers]
  | .drop | .withdraw | .deposit => [.bags, .safe]
  | .door | .openRequest | .openCancel | .openConfirm => [.safe]
  | .bagOpen | .countAbort => [.sessions, .bags]
  | .batch | .handKey => [.sessions]
  | .bagClose => [.sessions, .bags, .stock, .acc, .drawers, .tallies]
  | .announce | .sign => [.call, .ring, .bags]
  | .load => [.bags, .call]
  | .receive => [.bags, .ring]

/-- The events that the job rule of a kind, or a refusal of its frame, may raise. -/
def JobKind.events : JobKind → List Event
  | .tender | .refund => [.tenderUnapplied, .sequenceGap, .drawerHold, .pickupDue, .expectedSaturated, .queueFull]
  | .pickup | .cashup | .floatReceipt => [.sequenceGap, .drawerHold, .pickupDue, .expectedSaturated, .queueFull]
  | .tillOpen => [.drawerHold, .pickupDue, .queueFull]
  | .declare => [.sequenceGap, .declareVariance, .stockShort]
  | .drop => [.chuteHeld, .safeFull]
  | .deposit => [.safeFull]
  | .door => [.doorForced]
  | .openConfirm => [.safeLockout]
  | .bagClose => [.bagVariance, .suspectFound, .tallyHalf, .tallyFull]
  | .announce => [.handoverAborted, .windowMissed]
  | .sign => [.inboundVariance, .handoverDone, .windowMissed]
  | .makeUp | .restock | .withdraw | .openRequest | .openCancel | .bagOpen | .batch | .countAbort | .handKey | .load | .receive => []

/-- The parts that taking a line frame may change beside those of every answer: those of its kind, none where it is opaque or unknown. -/
def takenParts (f : LineFrame) : List Part := ((JobKind.ofByte f.kind).map JobKind.parts).getD []

/-- The events that taking a line frame may raise. -/
def takenEvents (f : LineFrame) : List Event := ((JobKind.ofByte f.kind).map JobKind.events).getD []

/-- The session that a count frame acts on: the one a HAND_KEY or a CONSOLE's COUNT_ABORT names, else the slot of the counter (R100). -/
def sessionNamed (s : State) (f : LineFrame) : Option (Fin 4) :=
  if f.kind = JobKind.handKey.byte then (parseHandKey f.body).bind fun a => inRange 4 a.1
  else if roleOf s f.src = some .console then (parseSessionNumber f.body).bind fun i => inRange 4 i
  else some (slotOf s f.src)

/-! ## Situations of a command -/

/-- The port's receiver holds a frame in MARK_WINDOW with the part's mark first in its window, and the two places reserved for its answer and its
envelope are there (R156, R172). -/
def MarkedAt (s : State) (p : Port) (w : Window) : Prop :=
  (s.port p).rx = .markWindow w ∧ w.answer = .marked ∧ 0 < s.uplink.reserved ∧
    (opaqueKind w.frame.kind = false → 0 < (s.port p).out.reserved)

/-- The marked frame passes steps 1 to 6 of R173 as a frame of the kind: its form, and for a guarded kind the witness pair of R174. -/
def TakenAs (s : State) (p : Port) (w : Window) (k : JobKind) (pair : Option (Byte × Byte)) : Prop :=
  MarkedAt s p w ∧ inspectForm (w.taken p) s = .ok k ∧
    match k.guardRow with
    | none => pair = none
    | some i => ∃ q, pair = some q ∧ witnessPair s s.witness[i] (w.taken p) = some q

/-- The till kinds, each with its command (R44). -/
def tillCommands : List (JobKind × (Port → Instr)) :=
  [(.tender, .tender), (.refund, .refund), (.pickup, .pickup), (.cashup, .cashup), (.tillOpen, .tillOpen), (.declare, .declare),
    (.floatReceipt, .floatReceipt)]

/-- The sequence number in a till frame's body, none in a TILL_OPEN's; no answer for a body that step 1 refuses (R44, R45). -/
def tillSequence (k : JobKind) (body : List Byte) : Option (Option Nat) :=
  match k with
  | .tender => (parseTender body).map fun a => some a.1
  | .refund => (parseRefund body).map fun a => some a.1
  | .pickup | .cashup => (parseSkim body).map fun a => some a.1
  | .declare => (parseDeclare body).map fun a => some a.1
  | .floatReceipt => (parseReceipt body).map fun a => some a.1
  | .tillOpen => (parseEmpty body).map fun _ => none
  | _ => none

/-- Steps 2 and 3 of R44 pass for a till frame of the kind on the till: its entry is enabled and names the source, and the badge node's mark is
present where it is demanded. -/
def TillSource (s : State) (w : Window) (k : JobKind) (t : Fin 160) : Prop :=
  tillOf s w.frame.src = t ∧ s.tills[t].enabled = true ∧ s.tills[t].node = w.frame.src ∧
    (needsBadge k = true → s.tills[t].badge = 0 ∨ s.tills[t].badge ∈ w.marks)

/-- Steps 2, 3 and 5 of R44 pass: the source's till, and a drawer in a state in which the kind is applied. -/
def TillApplies (s : State) (w : Window) (k : JobKind) (t : Fin 160) : Prop :=
  TillSource s w k t ∧ appliedIn k s.day.state s.drawers[t].state = true

/-- The record of an event after one raising with a number as its detail, where the condition holds; as it was where it does not (R180). -/
def raisedIf (b : Bool) (e : Event) (n : Nat) (s : State) : EventRec :=
  if b then
    { s.event e with pending := true, detail := BitVec.ofNat 32 n, count := min 255 ((s.event e).count + 1) }
  else s.event e

/-- The checks of a create pass for a seal and a declared value (R25). -/
def Creatable (s : State) (n v : Nat) : Prop :=
  n ≠ 0 ∧ v ≠ 0 ∧ v ≤ 999999999 ∧ findBag s n = none ∧ s.bags.length < 512

/-- The answer of the first check that a create fails for a seal and a declared value, in the order of R25. -/
def CreateRefused (s : State) (n v : Nat) (code : Code) : Prop :=
  code = .malformed ∧ (n = 0 ∨ v = 0) ∨
  code = .valueRange ∧ n ≠ 0 ∧ 999999999 < v ∨
  n ≠ 0 ∧ v ≠ 0 ∧ v ≤ 999999999 ∧
    (code = .sealInUse ∧ findBag s n ≠ none ∨ code = .registerFull ∧ findBag s n = none ∧ 512 ≤ s.bags.length)

/-- A taken frame is relayed: its envelope is the youngest of the uplink queue, and the receiver is IDLE (R176). -/
def Relayed (s t : State) (p : Port) (w : Window) (stamp : Code) : Prop :=
  (t.port p).rx = .idle ∧
    t.uplink.filled = s.uplink.filled ++ [{ port := p, second := s.seconds, stamp := stamp, marks := w.marks, frame := w.frame }]

/-- A taken frame is answered by the VERDICT with a code and a detail, and relayed with that code as its stamp, HOLD as ACCEPTED (R175, R176).
A detail of `none` is one that no rule states. -/
def Answered (s t : State) (p : Port) (w : Window) (code : Code) (detail : Option Word32) : Prop :=
  (∃ before d, (t.port p).out.filled = before ++ [verdictFrame w.frame.kind w.crc w.frame.src code d] ∧
    ∀ x, detail = some x → d = x) ∧
  Relayed s t p w (if code = .hold then .accepted else code)

/-- A taken frame is answered by an ADVICE with a body, and relayed with its status as the stamp (R70, R176). -/
def Advised (s t : State) (p : Port) (w : Window) (status : Code) (body : List Byte) : Prop :=
  (∃ before, (t.port p).out.filled = before ++ [adviceFrame w.frame.src body]) ∧ Relayed s t p w status

/-- The Agent may take the request at the head of the buffer: no reply is unsent and no SEND waits (R190). -/
def RequestAtHead (s : State) (tag : Word16) (code : Byte) (fields : List Byte) : Prop :=
  s.trunk.reply = none ∧ s.trunk.sendWaits = false ∧ s.trunk.buffer.head? = some (.request tag code fields)

/-- The Agent holds the REPLY to a request that has left the buffer (R190). -/
def Replied (s t : State) (tag : Word16) (code : Byte) (result : Code) (data : List Byte) : Prop :=
  t.trunk.buffer = s.trunk.buffer.tail ∧
    ∃ d, t.trunk.reply = some { tag := tag, code := code, result := result, detail := d, data := data }

/-- The same with a detail that a rule states (R190). -/
def RepliedDetail (s t : State) (tag : Word16) (code : Byte) (result : Code) (n : Nat) (data : List Byte) : Prop :=
  t.trunk.buffer = s.trunk.buffer.tail ∧
    t.trunk.reply = some { tag := tag, code := code, result := result, detail := BitVec.ofNat 32 n, data := data }

/-- A request refused: its REPLY carries the result, the detail where a rule states one, and no data, and nothing else changes (R190). -/
def RefusedRequest (c : Instr) (s : State) (tag : Word16) (code : Byte) (result : Code) (detail : Option Nat) : Prop :=
  Yields c s fun u => unchangedBut Part.replyParts s u ∧ eventsBut [] s u ∧
    ∃ d, (∀ n, detail = some n → d = BitVec.ofNat 32 n) ∧
      u.trunk = { s.trunk with
        buffer := s.trunk.buffer.tail, reply := some { tag := tag, code := code, result := result, detail := d, data := [] } }

/-- A marked frame refused, or accepted with nothing to do: its VERDICT carries the code, and the detail where a rule states one, it is relayed,
and nothing else changes (R173, R175, R176). -/
def RefusedFrame (c : Port → Instr) (s : State) (p : Port) (w : Window) (code : Code) (detail : Option Word32) : Prop :=
  Yields (c p) s fun u => unchangedBut Part.answerParts s u ∧ eventsBut [] s u ∧ Answered s u p w code detail

/-- A till frame refused at step 6: it is decided, so the drawer records its sequence number and CRC field, a gap before it is raised, and nothing else
changes but what every answer takes (R44, R45, R59). -/
def RefusedTillFrame (c : Port → Instr) (s : State) (p : Port) (w : Window) (t : Fin 160) (q gap : Nat) (code : Code)
    (detail : Option Word32) : Prop :=
  Yields (c p) s fun u => unchangedBut (.drawers :: Part.answerParts) s u ∧ eventsBut [.sequenceGap] s u ∧
    u.drawers = put s.drawers t { s.drawers[t] with lastSeq := some q, lastCrc := some w.crc } ∧
    u.event .sequenceGap = raisedIf (gap != 0) .sequenceGap (t.val * 65536 + gap) s ∧ Answered s u p w code detail

/-- A count frame that changes no count: where it acts on the session its idle timer restarts from the full length, and nothing changes but that timer and
what every answer takes; where it does not, nothing but the latter (R103). -/
def CountsNothing (c : Port → Instr) (s : State) (p : Port) (w : Window) (x : Fin 4) (acts : Prop) (code : Code)
    (detail : Option Word32) : Prop :=
  (acts → Yields (c p) s fun u => unchangedBut (.sessions :: Part.answerParts) s u ∧ eventsBut [] s u ∧
    u.sessions = put s.sessions x { s.sessions[x] with timer := some (s.seconds + s.timing.idleTimeout) } ∧
    Answered s u p w code detail) ∧
  (¬acts → RefusedFrame c s p w code detail)

/-- The command that takes a marked frame (R156, R171): an opaque one, one of a kind the Inspector does not act on, or one of a job kind, by
type or report where the kind has two (log entry 16). -/
def frameCommand (f : LineFrame) : Port → Instr :=
  if opaqueKind f.kind then .opaqueFrame
  else match JobKind.ofByte f.kind with
    | none => .unknownKindFrame
    | some .tender => .tender
    | some .refund => .refund
    | some .pickup => .pickup
    | some .cashup => .cashup
    | some .declare => .declare
    | some .floatReceipt => .floatReceipt
    | some .tillOpen => .tillOpen
    | some .drop => .drop
    | some .withdraw => .withdraw
    | some .deposit => .deposit
    | some .door => if f.body = [1] then .doorClosed else .doorOpen
    | some .openRequest => .openRequest
    | some .openConfirm => .openConfirm
    | some .openCancel => .openCancel
    | some .makeUp => if f.body.head? = some 1 then .makeUpConsignment else .makeUpFloat
    | some .restock => .restock
    | some .bagOpen => .bagOpen
    | some .batch => .batch
    | some .bagClose => .bagClose
    | some .countAbort => .countAbort
    | some .handKey => .handKey
    | some .announce => .announce
    | some .load => .load
    | some .receive => .receive
    | some .sign => .sign

/-- What a till frame that leaves a drawer with the record `d` does next: the drawer is re-evaluated with its events and its CALL, which waits
ahead of the frame's answer, and EXPECTED_SATURATED is raised where the saturated flag has gone from clear to set (R46, R49, R50, R51). -/
def Reevaluated (s u : State) (t : Fin 160) (d : Drawer) : Prop :=
  let r := reevaluate t (s.setDrawers (put s.drawers t d))
  u.drawers[t] = r.drawers[t] ∧ u.event .drawerHold = r.event .drawerHold ∧ u.event .queueFull = r.event .queueFull ∧
    u.event .pickupDue = { r.event .pickupDue with pending := anyRow (fun x => x.due) u.drawers } ∧
    u.event .expectedSaturated = raisedIf (!s.drawers[t].saturated && d.saturated) .expectedSaturated t.val s ∧
    ∃ answers, u.floor.out.filled = r.floor.out.filled ++ answers ∧ ∀ f ∈ answers, f.kind = kindVerdict

/-- The enabled node of role SAFE with the lowest identity (R93). -/
def LowestSafeNode (s : State) (b : Byte) : Prop :=
  ∃ i : Fin 252, b = BitVec.ofNat 8 (i.val + 2) ∧ s.nodes[i].enabled = true ∧ s.nodes[i].role = .safe ∧
    ∀ j : Fin 252, j < i → s.nodes[j].enabled = false ∨ s.nodes[j].role ≠ .safe

/-- Where a command to the safe goes that is decided on, or owed again, while the Room Port's outgoing queue is `q`: behind the frames that wait, with
nothing owed, exactly where a place is FREE and a SAFE node is enabled; owed, with no such frame placed, where not (R93). -/
def CommandGoes (s u : State) (q : OutQueue) (c : BoltCommand) : Prop :=
  u.safe.commanded = c ∧
  (∀ b, 0 < q.free → LowestSafeNode s b → u.safe.owed = false ∧
    ∃ more, u.room.out.filled = q.filled ++ safeCommandFrame b c :: more ∧ ∀ f ∈ more, f.kind ≠ kindSafeCommand) ∧
  (q.free = 0 ∨ (∀ b, ¬LowestSafeNode s b) → u.safe.owed = true ∧
    ∃ more, u.room.out.filled = q.filled ++ more ∧ ∀ f ∈ more, f.kind ≠ kindSafeCommand)

/-- A command that ends a port's mark window as an error, or through which the window's marked frame is taken (R155, R156). -/
def endsWindow (p : Port) (c : Instr) : Prop :=
  c = .breakPulse p ∨ c = .lineIdle p ∨ c = .frameStart p ∨ (∃ bits, c = .endOfData p bits) ∨ (∃ mark, c = .markByte p mark) ∨
    (∃ sym, c = .symbolError p sym) ∨ ∃ sym inc, c = .framingError p sym inc

/-! ## Invariants -/

/-- The three indirect events follow their sources and the kept vector is the highest pending and enabled event (R181, R183). -/
def Settled (s : State) : Prop :=
  s.vector = topEvent s ∧ ∀ e : Event, e.indirect = true → (s.event e).pending = pendingCondition s e

/-- No two records share a seal and no seal is 0 (R25). -/
def SealsDistinct (s : State) : Prop := (s.bags.map Bag.sealNo).Nodup ∧ ∀ b ∈ s.bags, b.sealNo ≠ 0

/-- No queue, list or register holds more than its places (R23, R79, R161, R176, R178, R189). -/
def PlacesHeld (s : State) : Prop :=
  (∀ p : Port, (s.port p).out.reserved + (s.port p).out.filled.length ≤ Config.outgoingPlaces ∧
    (s.port p).down.length ≤ downlinkPlaces p) ∧
  s.uplink.reserved + s.uplink.filled.length ≤ Config.uplinkPlaces ∧ s.trunk.buffer.length ≤ Config.bufferPlaces ∧
  s.bags.length ≤ Config.bagCapacity ∧ s.safe.inventory.length ≤ Config.safeCapacity

/-- A bag is listed in the inventory exactly when its record is IN_SAFE, and no seal is listed twice (R79). -/
def InventoryMatches (s : State) : Prop :=
  (s.safe.inventory.map SafeEntry.sealNo).Nodup ∧
    ∀ n, n ∈ s.safe.inventory.map SafeEntry.sealNo ↔ bagIn s n .inSafe = true

/-- The day clock counts day-minutes 0 to 1439 and the day number is 16 bits wide (R141). -/
def DayInRange (s : State) : Prop := s.day.clock ≤ 1439 ∧ s.day.number ≤ 65535

/-- The session is active exactly while it has a slot and a running timer, the slot is the next pointer's and its descriptor is PART's
(R124). -/
def SessionSound (s : State) : Prop :=
  if s.call.phase = .idle then s.call.slot = none ∧ s.call.timer = none
  else s.call.slot = some s.call.next ∧ s.call.timer.isSome = true ∧ s.ring[s.call.next].owner = .part

/-- A lock timer runs in DELAY, WINDOW and UNLOCKED and in no other lock state (R85). -/
def LockTimed (s : State) : Prop :=
  s.safe.timer.isSome = true ↔ s.safe.lock = .delay ∨ s.safe.lock = .window ∨ s.safe.lock = .unlocked

/-- An idle timer runs exactly while its session is COUNTING (R99, R103). -/
def IdleTimed (s : State) : Prop := ∀ x : Fin 4, s.sessions[x].timer.isSome = true ↔ s.sessions[x].state = .counting

/-- The counts of every session are 16 bits wide (R99, R104). -/
def CountsInRange (s : State) : Prop :=
  ∀ x : Fin 4, ∀ c : Fin 12,
    s.sessions[x].accepted[c] ≤ 65535 ∧ s.sessions[x].suspect[c] ≤ 65535 ∧ s.sessions[x].rejected[c] ≤ 65535

/-- Every session at work names one bag, whose record names the session and is COUNTING or COUNT_SUSPENDED with it; every such record has its
session (R99). -/
def CountsMatch (s : State) : Prop :=
  (∀ x : Fin 4, s.sessions[x].state ≠ .idle → ∃ b, findBag s s.sessions[x].bag = some b ∧ b.session = some x ∧
    b.state = if s.sessions[x].state = .counting then .counting else .countSuspended) ∧
  ∀ b ∈ s.bags, b.state = .counting ∨ b.state = .countSuspended →
    ∃ x : Fin 4, b.session = some x ∧ s.sessions[x].state ≠ .idle ∧ s.sessions[x].bag = b.sealNo

/-- A record that carries a pin is of kind CONSIGNMENT and in a state in which a pin lasts: pinned IN_SAFE, it goes through the handover, and keeps
its pin until it is MADE_UP, deposited or released (R24, R31, R33, R34). -/
def PinsSound (s : State) : Prop :=
  ∀ b ∈ s.bags, b.pin.isSome = true → b.kind = .consignment ∧
    (b.state = .inSafe ∨ b.state = .inHandling ∨ b.state = .loaded ∨ b.state = .hatchHeld ∨ b.state = .handedOver)

/-- A bag in LOADED or IN_HANDLING is pinned to the active session's slot and stands on its outbound list, and there is none while the session is IDLE; an
IN_SAFE bag pinned to a slot stands on the outbound list of that PART-owned slot; in SIGNING every outbound bag is LOADED (R121, R128, R129). -/
def HandoverBags (s : State) : Prop :=
  (∀ b ∈ s.bags, b.state = .loaded ∨ b.state = .inHandling →
    s.call.phase ≠ .idle ∧ ∃ i, s.call.slot = some i ∧ b.pin = some i ∧ b.sealNo ∈ s.ring[i].outbound) ∧
  (∀ b ∈ s.bags, ∀ i : Fin 16, b.state = .inSafe → b.pin = some i → s.ring[i].owner = .part ∧ b.sealNo ∈ s.ring[i].outbound) ∧
  (s.call.phase = .signing → ∀ i, s.call.slot = some i → ∀ n ∈ s.ring[i].outbound, bagIn s n .loaded = true)

/-- While a drawer's saturated flag is clear, its expected cash is float delivered plus net tendered, less refunds, pickups declared and cash-up
declared (R46). -/
def DrawersAgree (s : State) : Prop :=
  ∀ t : Fin 160, s.drawers[t].saturated = false →
    s.drawers[t].expected = (s.drawers[t].floatDelivered : Int) + s.drawers[t].netTendered - s.drawers[t].refunds -
      s.drawers[t].pickups - s.drawers[t].cashup

/-- The windows in which a port's receiver holds reservations: the part is sending its mark or has marked the frame (R156, R172). -/
def holdsPlaces : Receiver → Option Window
  | .markWindow w => if w.answer = .none then none else some w
  | .idle => none
  | .receiving _ => none
  | .waitIdle => none
  | .ignoring => none

/-- Every RESERVED place belongs to a frame that the part marks or has marked, and a transmitter at work has an IDLE receiver beside it
(R156, R161, R163, R172, R176). -/
def ReservationsMatch (s : State) : Prop :=
  (∀ p : Port, (s.port p).out.reserved =
    match holdsPlaces (s.port p).rx with
    | some w => if opaqueKind w.frame.kind then 0 else 1
    | none => 0) ∧
  s.uplink.reserved = (holdsPlaces s.floor.rx).toList.length + (holdsPlaces s.room.rx).toList.length ∧
  ∀ p : Port, (s.port p).tx.phase ≠ .idle → (s.port p).rx = .idle

/-- A SEND that waits stands at the head of the buffer, and the Agent holds no reply meanwhile (R178, R190). -/
def WaitingSound (s : State) : Prop :=
  s.trunk.sendWaits = true →
    s.trunk.reply = none ∧ ∃ tag port pb kind dest body rest, s.trunk.buffer = .send tag port pb kind dest body :: rest

/-! ## The cap reduction one packet at a time (R66) -/

/-- One round of the loop of R66: while the issue value is above the cap, one packet leaves the highest face whose issue is above 0, and its
short-cap flag is set. -/
def capRound (s : State) (cap : Nat) (x : Vector Nat 12 × Vector Bool 12) : Vector Nat 12 × Vector Bool 12 :=
  if s.valueOf x.1 ≤ cap then x
  else match (faceOrder s).find? fun c => decide (0 < x.1[c]) with
    | none => x
    | some c => (put x.1 c (x.1[c] - s.denoms[c].packet), put x.2 c true)

/-- A function applied `n` times. -/
def rounds {α : Type} (f : α → α) : Nat → α → α
  | 0, a => a
  | n + 1, a => rounds f n (f a)

/-! ## A tally counter one piece at a time (R112) -/

/-- One piece counted in a mode (R112). -/
def onePiece (m : TallyMode) (t : Tally) : Tally :=
  if t.count < Config.top32 then
    { count := t.count + 1
      half := t.half || decide (t.count + 1 = tallyHalfMark)
      full := t.full || decide (t.count + 1 = Config.top32) }
  else match m with
    | .hold => t
    | .wrap => { t with count := 0 }

/-! ## Conservation (R21) -/

/-- The holding value equals opening plus counted-in plus restocked plus adjustment less made-up (R21). -/
def Conserved (s : State) : Prop :=
  (holdingValue s : Int) = (s.acc.opening : Int) + s.acc.countedIn + s.acc.restocked + s.acc.adjustment - s.acc.madeUp

/-- The counts name enabled codes only (R9, R24). -/
def EnabledOnly (s : State) (counts : Vector Nat 12) : Prop := ∀ c : Fin 12, s.denoms[c].enabled = false → counts[c] = 0

/-- While no accumulator has saturated since DAY_OPEN the conservation law holds (R20, R21). -/
def Ledger (s : State) : Prop := s.acc.saturated = false → Conserved s

/-- Every enabled entry lies in its ranges (R4). -/
def DenomsInRange (s : State) : Prop :=
  ∀ c : Fin 12, s.denoms[c].enabled = true →
    1 ≤ s.denoms[c].face ∧ s.denoms[c].face ≤ 1000000 ∧ 1 ≤ s.denoms[c].strap ∧ s.denoms[c].strap ≤ 1000 ∧
    1 ≤ s.denoms[c].packet ∧ s.denoms[c].packet ≤ 1000

/-- The issue counts of a code over the PENDING orders (R11). -/
def pendingIssue (s : State) (c : Fin 12) : Nat :=
  ((List.finRange 24).map fun i => if s.orders[i].state = .pending then s.orders[i].issue[c] else 0).sum

/-- What the stock rests on: the denominations lie in their ranges, a disabled code has no stock, what is reserved is held and is the issue of the
PENDING orders; an order's value, a made-up bag's value and a session's counts are those of enabled codes at the faces in force; and a float bag
that is not terminal is the one its MADE_UP order names (R4, R7, R9, R10, R11, R24, R67, R71). -/
def StockSound (s : State) : Prop :=
  DenomsInRange s ∧
  (∀ c : Fin 12, s.stock[c].reserved ≤ s.heldOf c ∧ s.stock[c].reserved = pendingIssue s c ∧
    (s.denoms[c].enabled = false → s.stock[c] = { loose := 0, straps := 0, reserved := 0, suspect := 0 })) ∧
  (∀ i : Fin 24, s.orders[i].state = .pending → s.orders[i].issueValue = s.valueOf s.orders[i].issue) ∧
  (∀ b ∈ s.bags, b.state.terminal = false → b.kind.counted = false →
    (∃ v, b.counts = some v ∧ b.declared = s.valueOf v ∧ EnabledOnly s v) ∧
    if b.kind = .consignment then b.order = none
    else ∃ i, b.order = some i ∧ s.orders[i].state = .madeUp ∧ s.orders[i].sealNo = some b.sealNo) ∧
  ∀ x : Fin 4, s.sessions[x].state ≠ .idle → EnabledOnly s s.sessions[x].accepted ∧ EnabledOnly s s.sessions[x].suspect

end Sys2Proof.Machine
end

