-- ==== Sys2Proof/Certificates/Slice0/Obligations.lean ====
section
/-! DEFINITION. The statements about the model: what a step runs, the invariants of every step, the encodings, the figures of the rules, the
result of every command, and what each family leaves alone. -/

open Sys2Proof Sys2Proof.Machine

/-! ## The step -/

/-- A step runs the command at the front of the queue with the queue's rest. On an empty queue a second passes: the seconds timer rises by 1, every other
part but the queue stays, and the queue holds, in a fixed order and nothing beside them, the expiries whose timers run in their own states with deadlines at or
before the new second, the advance of the day clock once 60 seconds have passed since it took a value, and the placing of an owed SAFE_COMMAND that has a place
and a node (R85, R87, R93, R94, R103, R124, R134, R148); that this is what a step on an empty queue does is the choice of log entry 2, with log entry 3. -/
def Obligations.StepRunsFrontCommand : Prop :=
  (∀ (c : Instr) (rest : List Instr) (s : State), s.pending = c :: rest → step s = exec c (s.setPending rest)) ∧
  (∀ s : State, s.pending = [] → step s = .next (tick s)) ∧
  (∀ s : State, s.pending = [] → ∃ t, step s = .next t ∧ t.seconds = s.seconds + 1 ∧ unchangedBut [.pending, .seconds] s t ∧
    let due := fun timer : Option Nat => ∃ deadline, timer = some deadline ∧ deadline ≤ t.seconds
    t.pending.Sublist [.delayExpiry, .windowExpiry, .relockExpiry, .countIdleExpiry 0, .countIdleExpiry 1, .countIdleExpiry 2,
      .countIdleExpiry 3, .exchangeTimeout, .signTimeout, .dayClockAdvance, .safeCommandPlaced] ∧
    (.delayExpiry ∈ t.pending ↔ s.safe.lock = .delay ∧ due s.safe.timer) ∧
    (.windowExpiry ∈ t.pending ↔ s.safe.lock = .window ∧ due s.safe.timer) ∧
    (.relockExpiry ∈ t.pending ↔ s.safe.lock = .unlocked ∧ due s.safe.timer) ∧
    (∀ x : Fin 4, .countIdleExpiry x.val ∈ t.pending ↔ s.sessions[x].state = .counting ∧ due s.sessions[x].timer) ∧
    (.exchangeTimeout ∈ t.pending ↔ s.call.phase = .exchange ∧ due s.call.timer) ∧
    (.signTimeout ∈ t.pending ↔ s.call.phase = .signing ∧ due s.call.timer) ∧
    (.dayClockAdvance ∈ t.pending ↔ s.day.clockSecond + 60 ≤ t.seconds) ∧
    (.safeCommandPlaced ∈ t.pending ↔ s.safe.owed = true ∧ s.room.out.reserved + s.room.out.filled.length < 8 ∧
      ∃ i : Fin 252, s.nodes[i].enabled = true ∧ s.nodes[i].role = .safe))

/-- POWER_ON from any state gives the reset state, with the model's own queue and count of free details kept (log entries 1 and 4). The reset state has the
power-on values that the rules name: every denomination, till and node entry disabled, every count and accumulator 0, no bag record, every drawer CLOSED,
every order FREE, the lock LOCKED with the failed-attempt count 0 and LOCK commanded, every session IDLE, every tally 0, every descriptor OFFICE's and
empty, the refused-courier count 0, NIGHT of day 0, the defaults of the witness table and of TIMING, every queue empty, every error counter 0, POWER_UP alone
pending (R4, R9, R20, R23, R41, R43, R68, R79, R84, R85, R93, R99, R111, R117, R118, R124, R126, R141, R147, R154, R161, R166, R168, R170, R176, R178,
R180, R183, R188, R189, R192, R193, R196). The first trunk frame after it is an ATTENTION with vector 26 and the summary DAY alone (R183, R196). -/
def Obligations.PowerOnState : Prop :=
  (∀ s : State, exec .powerOn s = .next ((State.reset.setPending s.pending).setDraws s.draws)) ∧
  State.reset.seconds = 0 ∧
  (∀ c : Fin 12, State.reset.denoms[c] = { face := 0, kind := .note, strap := 0, packet := 0, enabled := false } ∧
    State.reset.stock[c] = { loose := 0, straps := 0, reserved := 0, suspect := 0 }) ∧
  State.reset.acc = { opening := 0, countedIn := 0, restocked := 0, madeUp := 0, adjustment := 0, saturated := false } ∧
  State.reset.bags = [] ∧
  (∀ t : Fin 160,
    State.reset.tills[t] = { node := 0, badge := 0, targets := Vector.replicate 12 0, targetValue := 0, skimLevel := 0
                             hardLimit := 0, topUpCap := 0, skimFloor := 0, enabled := false } ∧
    State.reset.drawers[t] = { state := .closed, floatDelivered := 0, netTendered := 0, refunds := 0, pickups := 0, cashup := 0
                               expected := 0, saturated := false, due := false, pickupCount := 0, cashupDiff := none
                               countVariance := 0, lastSeq := none, lastCrc := none, openOrder := none }) ∧
  (∀ i : Fin 24,
    State.reset.orders[i] = { state := .free, outcome := .none, till := 0, seq := 0, day := 0, issue := Vector.replicate 12 0
                              skim := Vector.replicate 12 0, shortStock := Vector.replicate 12 false
                              shortCap := Vector.replicate 12 false, issueValue := 0, skimValue := 0, declared := 0
                              difference := 0, sealNo := none }) ∧
  State.reset.safe = { inventory := [], lock := .locked, timer := none, delayKind := .day, failed := 0, commanded := .lock
                       owed := false, last := none } ∧
  (∀ x : Fin 4, State.reset.sessions[x].state = .idle ∧ State.reset.sessions[x].timer = none ∧
    State.reset.sessions[x].bag = 0 ∧ State.reset.sessions[x].declared = 0 ∧
    State.reset.sessions[x].node = 0 ∧ State.reset.sessions[x].unresolved = 0 ∧ State.reset.sessions[x].total = 0 ∧
    ∀ c : Fin 12, State.reset.sessions[x].accepted[c] = 0 ∧ State.reset.sessions[x].suspect[c] = 0 ∧
      State.reset.sessions[x].rejected[c] = 0) ∧
  (∀ (g : TallyGroup) (c : Fin 12), State.reset.tally g c = { count := 0, half := false, full := false }) ∧
  (∀ i : Fin 16,
    State.reset.ring[i] = { owner := .office, number := 0, courier := 0, windowStart := 0, windowEnd := 0, outbound := []
                            inboundCount := 0, inboundValue := 0, result := .none, received := [], second := none
                            supervisor := none, courierMark := none, dayPassed := false }) ∧
  State.reset.call = { next := 0, refused := 0, phase := .idle, slot := none, timer := none } ∧
  State.reset.day.state = .night ∧ State.reset.day.number = 0 ∧ State.reset.day.clock = 0 ∧ State.reset.day.armed = true ∧
  State.reset.day.summary =
    { taken := false, day := 0, second := 0, minute := 0, opening := 0, countedIn := 0, restocked := 0, madeUp := 0
      adjustment := 0, saturated := false, holding := 0, bagsCounted := 0, bagsHanded := 0 } ∧
  (∀ n : Fin 252, State.reset.nodes[n] = { port := .none, role := .till, till := 0, slot := 0, enabled := false }) ∧
  State.reset.witness =
    #v[{ roleA := .tillBadge, roleB := .carrier, sameTill := true }, { roleA := .tillBadge, roleB := .carrier, sameTill := true },
       { roleA := .tillBadge, roleB := .carrier, sameTill := true }, { roleA := .console, roleB := .console, sameTill := false },
       { roleA := .console, roleB := .console, sameTill := false }, { roleA := .console, roleB := .console, sameTill := false },
       { roleA := .console, roleB := .courierReader, sameTill := false }] ∧
  State.reset.timing.values = #v[600, 1800, 120, 120, 60, 3, 300, 900, 180, 3, 500, 0, 100, 0] ∧
  (∀ g : Fin 3, State.reset.timing.groups[g] = { mode := .hold, report := true }) ∧
  (∀ p : Port, (State.reset.port p).rx = .waitIdle ∧ (State.reset.port p).tx.phase = .idle ∧
    (State.reset.port p).tx.current = none ∧ (State.reset.port p).out = { reserved := 0, filled := [] } ∧
    (State.reset.port p).out.free = 8 ∧ (State.reset.port p).down = [] ∧
    (State.reset.port p).errors =
      { check := 0, symbol := 0, framing := 0, longFrame := 0, breaks := 0, clash := 0, undelivered := 0 }) ∧
  State.reset.uplink = { reserved := 0, filled := [] } ∧ State.reset.uplink.free = 32 ∧
  State.reset.trunk = { rx := .hunting, buffer := [], sendWaits := false, reply := none, sending := none, holdIn := false
                        check := 0, framing := 0, overrun := 0 } ∧
  holdOutput State.reset = false ∧ State.reset.pointer = { table := .denom, index := 0 } ∧
  State.reset.event .powerUp = { pending := true, enable := true, detail := 0, count := 1 } ∧
  (∀ e : Event, e ≠ .powerUp → State.reset.event e = { pending := false, enable := true, detail := 0, count := 0 }) ∧
  State.reset.vector = 26 ∧ State.reset.attention = true ∧
  Yields .trunkFrameStart State.reset fun t =>
    t.trunk.sending = some { source := .attention, chars := trunkChars typeAttention [26, 1] } ∧ t.attention = false

/-- Every command has a next state from every state, and leaves the queue of waiting commands to the step: the part is never stopped by a frame, a
request, a symbol or an expiry. -/
def Obligations.EveryCommandAnswers : Prop :=
  ∀ (c : Instr) (s : State), ∃ t, exec c s = .next t ∧ t.pending = s.pending

/-! ## Invariants of every step -/

/-- The reset state satisfies every invariant below. -/
def Obligations.InvariantsAtReset : Prop :=
  Settled State.reset ∧ SealsDistinct State.reset ∧ InventoryMatches State.reset ∧ PlacesHeld State.reset ∧
  ReservationsMatch State.reset ∧ DayInRange State.reset ∧ DenomsInRange State.reset ∧ CountsInRange State.reset ∧ CountsMatch State.reset ∧ SessionSound State.reset ∧
  LockTimed State.reset ∧ IdleTimed State.reset ∧ WaitingSound State.reset ∧ PinsSound State.reset ∧ HandoverBags State.reset ∧
  DrawersAgree State.reset ∧ StockSound State.reset ∧ Ledger State.reset

/-- Every step leaves the indirect events on their sources and the kept vector on the highest pending and enabled event (R181, R183). -/
def Obligations.StepKeepsSettled : Prop := ∀ s t : State, Settled s → step s = .next t → Settled t

/-- Every step keeps the seals of the register distinct and non-zero, and the safe's inventory in step with the IN_SAFE records (R25, R79). -/
def Obligations.StepKeepsRegister : Prop :=
  ∀ s t : State, SealsDistinct s → step s = .next t → SealsDistinct t ∧ (InventoryMatches s → InventoryMatches t)

/-- No step overfills a queue, the receive buffer, the register or the inventory, and every RESERVED place stays with a frame that the part marks or has
marked (R23, R79, R156, R161, R172, R176, R178, R189). -/
def Obligations.StepKeepsPlaces : Prop :=
  ∀ s t : State, step s = .next t → (PlacesHeld s → PlacesHeld t) ∧ (ReservationsMatch s → ReservationsMatch t)

/-- Every step keeps the day clock a day-minute, the day number 16 bits wide, and every enabled denomination in its ranges (R4, R5, R141, R142, R148). -/
def Obligations.StepKeepsRanges : Prop :=
  ∀ s t : State, step s = .next t → (DayInRange s → DayInRange t) ∧ (DenomsInRange s → DenomsInRange t)

/-- Every step keeps the handover session active exactly with a slot, a timer and a PART-owned head, the lock timers and idle timers running in their own
states only, and a waiting SEND at the head of the buffer with no reply unsent. With distinct seals every step keeps pins on consignments in the states a
pin lasts in, and with that every count session and its bag's record on each other; and, where the session is sound too, every LOADED and every IN_HANDLING bag on
the outbound list of the active session's slot, none while no session is active (R24, R33, R34, R85, R99, R103, R124, R128, R178, R190). -/
def Obligations.StepKeepsSessions : Prop :=
  ∀ s t : State, step s = .next t →
    (SessionSound s → SessionSound t) ∧ (LockTimed s → LockTimed t) ∧ (IdleTimed s → IdleTimed t) ∧
    (WaitingSound s → WaitingSound t) ∧
    (SealsDistinct s → PinsSound s → PinsSound t ∧ (CountsMatch s → CountsMatch t) ∧
      (SessionSound s → HandoverBags s → HandoverBags t))

/-! ## Encodings -/

/-- The check of the nine bytes 0x31 to 0x39 is 0x29B1, and the data of a line frame with a body of 0 to 40 bytes, sent in line order, is received as that
frame with its check (R151, R152, R155). -/
def Obligations.LineFrameRoundTrip : Prop :=
  crc16 [0x31, 0x32, 0x33, 0x34, 0x35, 0x36, 0x37, 0x38, 0x39] = 0x29B1#16 ∧
  ∀ f : LineFrame, f.body.length ≤ 40 → checkData (lineBits f.wire) = .good f (crc16 (f.header ++ f.body))

/-- A REQUEST or SEND frame on the trunk enters a receive buffer that has a place, and the receiver hunts again; nothing else changes
(R188, R189). -/
def Obligations.TrunkFrameRoundTrip : Prop :=
  (∀ (s : State) (tag : Word16) (code : Byte) (fields : List Byte),
    s.trunk.rx = .hunting → s.trunk.buffer.length < 4 → fields.length ≤ 509 →
    receiveTrunk (trunkChars typeRequest (be 2 tag.toNat ++ code :: fields)) s =
      s.setTrunk { s.trunk with buffer := s.trunk.buffer ++ [.request tag code fields] }) ∧
  (∀ (s : State) (tag : Word16) (port pb kind dest : Byte) (body : List Byte),
    s.trunk.rx = .hunting → s.trunk.buffer.length < 4 → body.length ≤ 255 →
    receiveTrunk (trunkChars typeSend (be 2 tag.toNat ++ [port, pb, kind, dest, BitVec.ofNat 8 body.length] ++ body)) s =
      s.setTrunk { s.trunk with buffer := s.trunk.buffer ++ [.send tag port pb kind dest body] })

/-- What TABLE_GET gives of an entry of DENOM, NODE, WITNESS, TIMING (by number and by group), TILL and RING (behind its owner), in the layouts of log entry
13, TABLE_PUT reads back as that entry, for every value the fields' ranges admit; of a till entry all but the target value, which the part computes, of a
descriptor the booked fields (R41, R120, R168, R170, R193, R197). -/
def Obligations.TableEntryRoundTrip : Prop :=
  (∀ d : Denom, d.face < 256 ^ 3 → d.strap < 256 ^ 2 → d.packet < 256 ^ 2 → readDenom (denomBytes d) = some d) ∧
  (∀ n : Node, readNode (nodeBytes n) = some n) ∧
  (∀ w : Witness, readWitness (witnessBytes w) = some w) ∧
  (∀ g : TallySetting, readSetting (settingBytes g) = some g) ∧
  (∀ (t : Timing) (k : Fin 14), t.values[k] < 256 ^ timingWidth[k] →
    takeNat timingWidth[k] (timingBytes t k.val) = some (t.values[k], [])) ∧
  (∀ k : Fin 14, timingRange[k].2 < 256 ^ timingWidth[k]) ∧
  (∀ (t : Timing) (g : Fin 3), timingBytes t (14 + g.val) = settingBytes t.groups[g]) ∧
  (∀ e : TillEntry, (∀ c : Fin 12, e.targets[c] < 256 ^ 2) → e.targetValue < 256 ^ 4 → e.skimLevel < 256 ^ 4 →
    e.hardLimit < 256 ^ 4 → e.topUpCap < 256 ^ 4 → e.skimFloor < 256 ^ 3 →
    readTill (tillBytes e) = some { e with targetValue := 0 }) ∧
  (∀ d : Descriptor, d.number < 256 ^ 4 → d.courier < 256 ^ 4 → d.windowStart < 256 ^ 2 → d.windowEnd < 256 ^ 2 →
    d.outbound.length < 256 → (∀ n ∈ d.outbound, n < 256 ^ 4) → d.inboundCount < 256 → d.inboundValue < 256 ^ 4 →
    (descriptorBytes d).head? = some (BitVec.ofNat 8 d.owner.code) ∧
    readBooking ((descriptorBytes d).drop 1) =
      some { number := d.number, courier := d.courier, windowStart := d.windowStart, windowEnd := d.windowEnd
             outbound := d.outbound, inboundCount := d.inboundCount, inboundValue := d.inboundValue })

/-- The body layouts of R197, written out field by field, are read as their fields: every layout of a till frame and of a room job frame, the two DOOR
reports, the courier id of ANNOUNCE, the session number of a CONSOLE's COUNT_ABORT, and the empty body of the kinds that have none. -/
def Obligations.LineBodiesRead : Prop :=
  (∀ q r c : Nat, q < 256 ^ 2 → r ≤ 999999999 → c ≤ 999999999 →
    parseTender (be 2 q ++ be 4 r ++ be 4 c) = some (q, r, c)) ∧
  (∀ q a : Nat, q < 256 ^ 2 → a ≤ 999999999 → parseRefund (be 2 q ++ be 4 a) = some (q, a)) ∧
  (∀ q n v : Nat, q < 256 ^ 2 → n < 256 ^ 4 → v < 256 ^ 4 → parseSkim (be 2 q ++ be 4 n ++ be 4 v) = some (q, n, v)) ∧
  (∀ q n : Nat, q < 256 ^ 2 → n < 256 ^ 4 → parseReceipt (be 2 q ++ be 4 n) = some (q, n)) ∧
  (∀ n : Nat, n < 256 ^ 4 → parseSeal (be 4 n) = some n) ∧
  (∀ (q : Nat) (ps : List (Fin 12 × Nat)), q < 256 ^ 2 → ps.length < 256 → (∀ x ∈ ps, x.2 ≤ 9999) →
    parseDeclare (be 2 q ++ be 1 ps.length ++ ps.flatMap fun x => be 1 x.1.val ++ be 2 x.2) = some (q, ps)) ∧
  (∀ i n : Nat, i < 256 → n < 256 ^ 4 → parseMakeUpFloat (be 1 0 ++ be 1 i ++ be 4 n) = some (i, n)) ∧
  (∀ (n : Nat) (ps : List (Nat × Nat)), n < 256 ^ 4 → ps.length ≤ 6 → (∀ x ∈ ps, x.1 < 256 ∧ x.2 < 256 ^ 4) →
    parseMakeUpConsignment (be 1 1 ++ be 4 n ++ be 1 ps.length ++ ps.flatMap fun x => be 1 x.1 ++ be 4 x.2) = some (n, ps)) ∧
  (∀ c a u r : Nat, c < 256 → a < 256 ^ 2 → u < 256 ^ 2 → r < 256 ^ 2 →
    parseBatch (be 1 c ++ be 2 a ++ be 2 u ++ be 2 r) = some (c, a, u, r)) ∧
  (∀ (x c n : Nat) (res sus : Bool), x < 256 → c < 256 → n < 256 ^ 2 →
    parseHandKey (be 1 x ++ be 1 c ++ be 2 n ++ be 1 (res.toNat + 2 * sus.toNat)) = some (x, c, n, res, sus)) ∧
  (∀ n v : Nat, n < 256 ^ 4 → v < 256 ^ 4 → parseReceive (be 4 n ++ be 4 v) = some (n, v)) ∧
  (∀ n : Nat, n < 256 ^ 4 → parseAnnounce (be 4 n) = some n) ∧
  (∀ x : Nat, x < 256 → parseSessionNumber (be 1 x) = some x) ∧
  (∀ body : List Byte, parseEmpty body = if body = [] then some () else none) ∧
  (∀ (f : Taken) (s : State), (f.frame.body = be 1 0 → doorJob f s = (doorOpened s, .verdict .accepted (lockDetail (doorOpened s)))) ∧
    (f.frame.body = be 1 1 → doorJob f s = (doorClosed s, .verdict .accepted (lockDetail (doorClosed s)))) ∧
    (isDoorClosed f.frame = true ↔ f.frame.kind = JobKind.door.byte ∧ f.frame.body = be 1 1))

/-! ## Figures of the rules -/

/-- An addition that is not refused: held rises by exactly the pieces, loose ends below the strap size; it is refused exactly when loose in its course, or
straps after the carry, would pass 4,294,967,295. A request for several codes adds to all of them, or to none: a RESTOCK or a BAG_CLOSE with one such code is
refused with COUNT_LIMIT and changes no stock count and no accumulator (R12, R13, R17, R106; a count of 0 is no addition, log entry 10). The detail of a refused
BAG_CLOSE is the first such code in face order, where no suspect hold would pass its top on a code before it (R8, R106, log entry 23). A float draw within held
stock takes exactly its pieces out of held and reserved, leaves free as it was, and breaks the fewest straps that bring loose up to the count (R10, R14). -/
def Obligations.StockFigures : Prop :=
  (∀ (d : Denom) (r : StockRec) (n : Nat), 0 < d.strap → 0 < n →
    held d (addPieces d r n) = held d r + n ∧ (addPieces d r n).loose < d.strap ∧
    (addPieces d r n).reserved = r.reserved ∧ (addPieces d r n).suspect = r.suspect ∧
    (additionRefused d r n = true ↔ Config.top32 < r.loose + n ∨ Config.top32 < (addPieces d r n).straps)) ∧
  (∀ (s : State) (counts : Vector Nat 12) (c : Fin 12),
    (addAll s counts).stock[c] = addPieces s.denoms[c] s.stock[c] counts[c]) ∧
  (∀ (p : Port) (s : State) (w : Window) (n : Nat) (b : Bag) (counts : Vector Nat 12) (c : Fin 12),
    TakenAs s p w .restock none → parseSeal w.frame.body = some n → findBag s n = some b →
    b.kind = .floatBag ∨ b.kind = .consignment → b.state = .madeUp → b.counts = some counts →
    additionRefused s.denoms[c] s.stock[c] counts[c] = true →
    Yields (.restock p) s fun u => u.stock = s.stock ∧ u.acc = s.acc ∧ Answered s u p w .countLimit none) ∧
  (∀ (p : Port) (s : State) (w : Window) (x : Fin 4) (c : Fin 12), TakenAs s p w .bagClose none →
    slotOf s w.frame.src = x → w.frame.body = [] → s.sessions[x].state = .counting → s.sessions[x].node = w.frame.src →
    s.sessions[x].unresolved = 0 → additionRefused s.denoms[c] s.stock[c] s.sessions[x].accepted[c] = true →
    Yields (.bagClose p) s fun u =>
      u.stock = s.stock ∧ u.acc = s.acc ∧ u.sessions[x].state = .counting ∧ Answered s u p w .countLimit none ∧
      (s.denoms[c].enabled = true →
        (∀ k : Fin 12, k ≠ c → s.denoms[k].enabled = true → s.denoms[c].face ≤ s.denoms[k].face →
          additionRefused s.denoms[k] s.stock[k] s.sessions[x].accepted[k] = false ∧
          s.stock[k].suspect + s.sessions[x].suspect[k] ≤ 4294967295) →
        Answered s u p w .countLimit (num c.val))) ∧
  (∀ (d : Denom) (r : StockRec) (n : Nat), 0 < d.strap → n ≤ held d r → n ≤ r.reserved →
    held d (drawPieces d r n) + n = held d r ∧ (drawPieces d r n).reserved + n = r.reserved ∧
    held d (drawPieces d r n) - (drawPieces d r n).reserved = held d r - r.reserved ∧
    strapsBroken d r n ≤ r.straps ∧ n ≤ r.loose + strapsBroken d r n * d.strap ∧
    (∀ k, n ≤ r.loose + k * d.strap → strapsBroken d r n ≤ k))

/-- The rebalance computation of a declaration, code by code. For an enabled code below its target, outside CLOSING, the wanted packets W are the fewest that
fill the gap, the grant is W packets or those that free stock holds whole, and the short-stock flag says that the grant is below W; any other code has no
grant and no flag (R64). The issue is whole packets of at most the grant, within free stock, and is the grant itself, with no short-cap flag, where its value is
within the cap. The skim is every piece above target of an enabled code whose face is at or above the skim floor (R65). The values of issue and skim are the
sums of count times face (R65, R66). -/
def Obligations.RebalanceWithinStock : Prop :=
  ∀ (s : State) (t : Fin 160) (ps : List (Fin 12 × Nat)) (c : Fin 12), DenomsInRange s →
    let r := rebalance s t ps
    let target := s.tills[t].targets[c]
    let packet := s.denoms[c].packet
    let enabled := s.denoms[c].enabled
    let count := declaredCount ps c
    (∀ n, (c, n) ∈ ps → (ps.map fun x => x.1).Nodup → count = n) ∧ ((∀ x ∈ ps, x.1 ≠ c) → count = 0) ∧
    (enabled = true → s.day.state ≠ .closing → count < target → ∀ W : Nat, target ≤ count + W * packet →
      count + W * packet < target + packet →
      (grantedIssue s t ps)[c] = min W (s.freeOf c / packet) * packet ∧
      (r.shortStock[c] = true ↔ s.freeOf c / packet < W)) ∧
    (enabled = false ∨ s.day.state = .closing ∨ target ≤ count →
      (grantedIssue s t ps)[c] = 0 ∧ r.issue[c] = 0 ∧ r.shortStock[c] = false) ∧
    r.issue[c] ≤ (grantedIssue s t ps)[c] ∧ r.issue[c] ≤ s.freeOf c ∧ r.issue[c] % packet = 0 ∧
    (s.valueOf (grantedIssue s t ps) ≤ s.tills[t].topUpCap → r.issue = grantedIssue s t ps ∧ r.shortCap[c] = false) ∧
    r.skim[c] = (if enabled = true ∧ target < count ∧ s.tills[t].skimFloor ≤ s.denoms[c].face then count - target else 0) ∧
    (∀ x : Vector Nat 12, s.valueOf x = ((List.finRange 12).map fun k => x[k] * s.denoms[k].face).sum)

/-- The cap reduction is the loop of R66: the rounds that take one packet from the highest face with an issue, repeated until nothing
changes, give its issue counts and short-cap flags, and the issue value ends at or below the cap. The computation of a till applies it to the grants of R64
with the till entry's top-up cap. -/
def Obligations.CapReductionIsTheLoop : Prop :=
  ∀ (s : State) (cap n : Nat) (issue : Vector Nat 12) (flags : Vector Bool 12), DenomsInRange s →
    (∀ c : Fin 12, s.denoms[c].enabled = true → issue[c] % s.denoms[c].packet = 0) → EnabledOnly s issue →
    sumCodes (fun c => issue[c]) ≤ n →
    capReduce s cap (faceOrder s) issue flags = rounds (capRound s cap) n (issue, flags) ∧
    s.valueOf (capReduce s cap (faceOrder s) issue flags).1 ≤ cap ∧
    ∀ (t : Fin 160) (ps : List (Fin 12 × Nat)) (m : Nat), sumCodes (fun c => (grantedIssue s t ps)[c]) ≤ m →
      ((rebalance s t ps).issue, (rebalance s t ps).shortCap) =
        rounds (capRound s s.tills[t].topUpCap) m (grantedIssue s t ps, Vector.replicate 12 false)

/-- An addition to a tally counter is its pieces counted upward one at a time in the mode of its group; up to 65,535 pieces, as many as a session
can hold of a code, wrap a counter once at most. Flags once set, and the top of a counter in HOLD, stay until TALLY_READ with clear or power-on (R112). -/
def Obligations.TallyCountsPieces : Prop :=
  (∀ (m : TallyMode) (t : Tally) (n : Nat), t.count ≤ Config.top32 → t.add m n = rounds (onePiece m) n t ∧
    (n ≤ 65535 → m = .wrap → Config.top32 < t.count + n → (t.add m n).count + Config.top32 + 1 = t.count + n)) ∧
  (∀ (v : Session) (s : State) (g : TallyGroup) (c : Fin 12),
    (addTallies v s).tally g c = (s.tally g c).add s.timing.groups[g.row].mode (v.groupCounts g)[c]) ∧
  (∀ (c : Instr) (s t : State) (g : TallyGroup) (k : Fin 12), exec c s = .next t → c ≠ .tallyReadClear → c ≠ .powerOn →
    ((s.tally g k).half = true → (t.tally g k).half = true) ∧ ((s.tally g k).full = true → (t.tally g k).full = true) ∧
    ((s.tally g k).count = Config.top32 → s.timing.groups[g.row].mode = .hold → (t.tally g k).count = Config.top32)) ∧
  (∀ s t : State, CountsInRange s → step s = .next t → CountsInRange t)

/-- Every step keeps what the stock rests on: with distinct seals, reserved stays within held and stays the sum of the issues of the PENDING orders (R10, R11), a
disabled code stays without stock (R9), orders, made-up bags and sessions keep their values and codes; and the conservation law stays true while the
saturated flag is clear (R21). The movements one by one: closes, restocks, float draws, consignment draws and STOCK_SETs keep the law where no accumulator
passes its range. -/
def Obligations.MovementsConserve : Prop :=
  (∀ s t : State, SealsDistinct s → StockSound s → step s = .next t → StockSound t ∧ (Ledger s → Ledger t)) ∧
  ∀ s : State, Conserved s → DenomsInRange s →
    (∀ acc sus : Vector Nat 12, EnabledOnly s acc → s.acc.countedIn + s.valueOf acc ≤ Config.top32 →
      Conserved (applyClose acc sus (s.valueOf acc) s)) ∧
    (∀ counts : Vector Nat 12, EnabledOnly s counts → s.acc.restocked + s.valueOf counts ≤ Config.top32 →
      Conserved (addRestocked (s.valueOf counts) (addAll s counts))) ∧
    (∀ issue : Vector Nat 12, EnabledOnly s issue → (∀ c : Fin 12, issue[c] ≤ s.heldOf c) →
      s.acc.madeUp + s.valueOf issue ≤ Config.top32 → Conserved (drawFloat issue (s.valueOf issue) s)) ∧
    (∀ counts : Vector Nat 12, EnabledOnly s counts →
      (∀ c : Fin 12, counts[c] % s.denoms[c].strap = 0 ∧ counts[c] / s.denoms[c].strap ≤ s.stock[c].straps) →
      s.acc.madeUp + s.valueOf counts ≤ Config.top32 → Conserved (drawStraps counts (s.valueOf counts) s)) ∧
    (∀ (c : Fin 12) (loose straps : Nat), s.denoms[c].enabled = true →
      (setStockCounts c loose straps s).acc.adjustment =
        s.acc.adjustment + ((loose + straps * s.denoms[c].strap : Nat) - (s.heldOf c : Int)) * s.denoms[c].face →
      Conserved (setStockCounts c loose straps s))

/-- The transmitter's choice has the lowest header of the FILLED places and the downlink head, and among outgoing frames of that header the
one placed first; there is a choice exactly while a frame waits. IDLE without a current frame the transmitter takes it, with 0 attempts used; a frame that is
current is not displaced and keeps its place (R162). It stays current until it is delivered (at the end of its data in mode NONE, or, unless it goes to 0xFF, with its
destination's mark among those recorded), discarded with an undelivered count after four attempts (R164), or dropped by RESTART or POWER_ON (R166, R196). R164 says of a
frame in mode ONE that no mark delivers it to 0xFF; that none delivers one in mode GATHER either, a mark byte 0xFF included, is the model's reading (log entry 29). -/
def Obligations.LowestHeaderChosen : Prop :=
  (∀ (q : LinePort) (c : Current), chooseFrame q = some c →
    (∀ f ∈ q.out.filled, c.frame.rank ≤ f.rank) ∧ (∀ f ∈ q.down.head?, c.frame.rank ≤ f.rank) ∧
    (c.source = .downlink → q.down.head? = some c.frame) ∧
    (∀ i : Nat, c.source = .outgoing i →
      q.out.filled[i]? = some c.frame ∧ ∀ j < i, ∀ g, q.out.filled[j]? = some g → c.frame.rank < g.rank) ∧
    c.attempts = 0) ∧
  (∀ q : LinePort, chooseFrame q = none ↔ q.out.filled = [] ∧ q.down = []) ∧
  (∀ (p : Port) (s : State) (c : Current),
    ((s.port p).tx.phase = .idle → (s.port p).tx.current = none → chooseFrame (s.port p) = some c →
      Yields (.currentFrameChoice p) s fun t => (t.port p).tx.current = some c ∧ (t.port p).out = (s.port p).out ∧
        (t.port p).down = (s.port p).down) ∧
    ((s.port p).tx.current = some c → exec (.currentFrameChoice p) s = .next s)) ∧
  (∀ (x : Instr) (s t : State) (p : Port) (c d : Current), exec x s = .next t → (s.port p).tx.current = some c →
    (t.port p).tx.current = some d → d.frame = c.frame ∧ d.source = c.source ∧
      (∀ i, c.source = .outgoing i → (s.port p).out.filled[i]? = some c.frame → (t.port p).out.filled[i]? = some c.frame) ∧
      (c.source = .downlink → (s.port p).down.head? = some c.frame → (t.port p).down.head? = some c.frame)) ∧
  (∀ (x : Instr) (s t : State) (p : Port) (c : Current), exec x s = .next t → (s.port p).tx.current = some c →
    (t.port p).tx.current = none →
      x = .powerOn ∨ x = .restart ∨
      (x = .dataSent p ∧ (s.port p).tx.phase = .sending ∧ markMode c.frame.pb = .none) ∨
      (x = .windowClose p ∧ (s.port p).tx.phase = .awaitMarks ∧ c.frame.dest ≠ 255 ∧ c.frame.dest ∈ (s.port p).tx.marks) ∨
      (∃ mark, x = .markByte p mark ∧ (s.port p).tx.phase = .awaitMarks ∧ c.frame.dest ≠ 255 ∧
        c.frame.dest ∈ (s.port p).tx.marks ++ [mark]) ∨
      ((s.port p).tx.phase ≠ .idle ∧ 4 ≤ c.attempts ∧ (t.port p).errors.undelivered = countUp (s.port p).errors.undelivered))

/-- The witness pair of R174: two distinct candidates that serve in role A and role B, with the lowest role-A witness any pair has and then the
lowest role-B witness; none is chosen exactly when no pair serves. -/
def Obligations.WitnessPairLowest : Prop :=
  ∀ (s : State) (w : Witness) (f : Taken),
    (∀ a b : Byte, witnessPair s w f = some (a, b) →
      a ∈ candidates s f ∧ b ∈ candidates s f ∧ a ≠ b ∧ serves s f w.sameTill w.roleA a = true ∧
      serves s f w.sameTill w.roleB b = true ∧
      ∀ a' ∈ candidates s f, ∀ b' ∈ candidates s f, a' ≠ b' → serves s f w.sameTill w.roleA a' = true →
        serves s f w.sameTill w.roleB b' = true → a.toNat < a'.toNat ∨ (a = a' ∧ b.toNat ≤ b'.toNat)) ∧
    (witnessPair s w f = none →
      ∀ a' ∈ candidates s f, ∀ b' ∈ candidates s f, a' ≠ b' → serves s f w.sameTill w.roleA a' = true →
        serves s f w.sameTill w.roleB b' = false) ∧
    (∀ b : Byte, b ∈ candidates s f ↔
      b ∈ f.marks ∧ b ≠ partNode ∧ b ≠ f.frame.src ∧ registeredOn s f.port b = true)

/-- The receipt mark: for a frame addressed to the part the Inspector reserves an uplink place and, unless it is opaque, an outgoing place, or it
withholds the mark and raises QUEUE_FULL, naming UPLINK when both lack one; an opaque frame of a source not registered on the port, and a
frame not addressed to the part, change nothing (R172, R177); that the former raises nothing also where no uplink place is FREE is log entry 25. -/
def Obligations.ReceiptMarkRule : Prop :=
  ∀ (p : Port) (f : LineFrame) (s : State),
    (addressed f = false → offer p f s = (s, .none)) ∧
    (addressed f = true → opaqueKind f.kind = true → registeredOn s p f.src = false → offer p f s = (s, .none)) ∧
    (addressed f = true → (opaqueKind f.kind = true → registeredOn s p f.src = true) → s.uplink.free = 0 →
      offer p f s = (raise .queueFull (BitVec.ofNat 32 (portCode p * 256)) s, .none)) ∧
    (addressed f = true → opaqueKind f.kind = false → 0 < s.uplink.free → (s.port p).out.free = 0 →
      offer p f s = (raise .queueFull (BitVec.ofNat 32 (portCode p * 256 + 1)) s, .none)) ∧
    (addressed f = true → opaqueKind f.kind = true → registeredOn s p f.src = true → 0 < s.uplink.free →
      (offer p f s).2 = .sending ∧ unchangedBut [.uplink] s (offer p f s).1 ∧
      (offer p f s).1.uplink.free + 1 = s.uplink.free ∧ (offer p f s).1.uplink.filled = s.uplink.filled) ∧
    (addressed f = true → opaqueKind f.kind = false → 0 < s.uplink.free → 0 < (s.port p).out.free →
      (offer p f s).2 = .sending ∧ unchangedBut [.uplink, Part.ofPort p] s (offer p f s).1 ∧
      (offer p f s).1.uplink.free + 1 = s.uplink.free ∧ (offer p f s).1.uplink.filled = s.uplink.filled ∧
      ((offer p f s).1.port p).out.free + 1 = (s.port p).out.free ∧
      ((offer p f s).1.port p).out.filled = (s.port p).out.filled ∧ ((offer p f s).1.port p).rx = (s.port p).rx ∧
      ((offer p f s).1.port p).tx = (s.port p).tx)

/-- A raising sets the pending flag, replaces the detail, adds 1 to a count that stays at 255, keeps the enable, and touches no other event and no other part
(R180). At the end of a taking the indirect events follow their sources, the vector becomes the code of the highest pending and enabled event, the
attention-owed flag is set when the vector rises and is kept otherwise, and nothing else changes (R181, R183). -/
def Obligations.EventFlags : Prop :=
  (∀ (e : Event) (d : Word32) (s : State),
    (raise e d s).event e = { pending := true, enable := (s.event e).enable, detail := d, count := min 255 ((s.event e).count + 1) } ∧
    (∀ e' : Event, e' ≠ e → (raise e d s).event e' = s.event e') ∧ unchangedBut [.events] s (raise e d s)) ∧
  (∀ s : State,
    (∀ e : Event, (settleEvents s).event e = { s.event e with pending := pendingCondition s e }) ∧
    (settleEvents s).vector = topEvent (settleEvents s) ∧
    ((settleEvents s).attention = true ↔ s.attention = true ∨ s.vector < (settleEvents s).vector) ∧
    unchangedBut Part.eventParts s (settleEvents s) ∧
    (∀ e : Event, s.active e = true → e.code ≤ topEvent s) ∧
    (topEvent s = 0 ∨ ∃ e : Event, s.active e = true ∧ e.code = topEvent s))

/-- The missed-window check returns the heads that are missed, in slot order from the next pointer, and stops at the first that is not: each was PART's with the
day clock past its window end or its day-passed flag set while the session is IDLE, goes back to OFFICE as MISSED with the present second, raises WINDOW_MISSED
with its slot, moves the next pointer on and clears the refused count; the pins of its slot are cleared on IN_SAFE and HANDED_OVER records. No other descriptor, no
other record, no other event and no other part changes (R34, R123, R137). -/
def Obligations.MissedHeadsReturned : Prop :=
  ∀ s : State,
    let u := missedCheck s
    let slot := fun j : Nat => Fin.ofNat 16 (s.call.next.val + j)
    headMissed u = false ∧ (headMissed s = false → u = s) ∧
    ∃ k : Nat, k ≤ 16 ∧ (k ≠ 0 → s.call.phase = .idle) ∧
      (∀ j : Nat, j < k →
        s.ring[slot j].owner = .part ∧ (s.ring[slot j].windowEnd < s.day.clock ∨ s.ring[slot j].dayPassed = true) ∧
        u.ring[slot j] = { s.ring[slot j] with owner := .office, result := .missed, second := some s.seconds }) ∧
      (∀ i : Fin 16, (∀ j : Nat, j < k → i ≠ slot j) → u.ring[i] = s.ring[i]) ∧
      u.call = (if k = 0 then s.call else { s.call with next := slot k, refused := 0 }) ∧
      u.event .windowMissed =
        (if k = 0 then s.event .windowMissed
         else { s.event .windowMissed with
                  pending := true, detail := BitVec.ofNat 32 (slot (k - 1)).val
                  count := min 255 ((s.event .windowMissed).count + k) }) ∧
      (∀ e : Event, e ≠ .windowMissed → u.event e = s.event e) ∧
      u.bags = s.bags.map (fun b =>
        if (b.state = .inSafe ∨ b.state = .handedOver) ∧ ((List.range k).any fun j => b.pin == some (slot j)) = true then
          { b with pin := none } else b) ∧
      unchangedBut [.ring, .call, .bags, .events] s u

/-- A pin request passes exactly when its seals are distinct and each names a CONSIGNMENT record IN_SAFE without a pin; the refusal names the
first seal that fails. A CONSIGN_HAND that asks sets every pin, or is refused with that code and seal and sets none. Where pins stand on
consignments alone, a pinned record leaves IN_SAFE by a withdrawal into IN_HANDLING alone, its pin kept; a RESTART, which first takes the frames marked in both
windows and then aborts the handover session, may carry it on to HATCH_HELD with its pin or to MADE_UP without it (R33, R121, R134, R166, R195). That bytes behind the
slot of a CONSIGN_HAND are ignored is log entry 13. -/
def Obligations.PinRequestRule : Prop :=
  ∀ (s : State) (seals : List Nat),
    (pinCheck s [] seals = none ↔
      seals.Nodup ∧ ∀ n ∈ seals, ∃ b, findBag s n = some b ∧ b.kind = .consignment ∧ b.state = .inSafe ∧ b.pin = none) ∧
    (∀ c n, pinCheck s [] seals = some (c, n) →
      ∃ before after, seals = before ++ n :: after ∧ pinCheck s [] before = none ∧
        ((findBag s n = none ∧ c = .unknownBag) ∨
         ∃ b, findBag s n = some b ∧
          ((¬(b.kind = .consignment ∧ b.state = .inSafe) ∧ c = .wrongBagState) ∨
           (b.kind = .consignment ∧ b.state = .inSafe ∧ b.pin.isSome = true ∧ c = .pinned) ∨
           (b.kind = .consignment ∧ b.state = .inSafe ∧ b.pin = none ∧ n ∈ before ∧ c = .malformed)))) ∧
    (∀ (tag : Word16) (i : Fin 16) (more : List Byte), RequestAtHead s tag 0x38 (be 1 i.val ++ more) →
      s.ring[i].owner = .office → s.day.clock ≤ s.ring[i].windowEnd → s.ring[i].outbound = seals →
      (pinCheck s [] seals = none → Yields .consignHand s fun u =>
        (∀ n b, findBag s n = some b → findBag u n = some { b with pin := if n ∈ seals then some i else b.pin }) ∧
        Replied s u tag 0x38 .accepted []) ∧
      (∀ c n, pinCheck s [] seals = some (c, n) → Yields .consignHand s fun u =>
        u.bags = s.bags ∧ u.ring = s.ring ∧ RepliedDetail s u tag 0x38 c n [])) ∧
    (∀ (c : Instr) (t : State) (n : Nat) (b : Bag), SealsDistinct s → PinsSound s → exec c s = .next t → c ≠ .powerOn →
      findBag s n = some b → b.state = .inSafe → b.pin.isSome = true →
      ∃ b', findBag t n = some b' ∧
        (b'.state = .inSafe ∨ b'.state = .inHandling ∧ b'.pin = b.pin ∨
          c = .restart ∧ (b'.state = .hatchHeld ∧ b'.pin = b.pin ∨ b'.state = .madeUp ∧ b'.pin = none)))

/-- In CLOSING a taking that reports completes the close exactly when the six closing conditions hold at its end; in any other day state, and when nothing a
condition reads has changed, nothing is tested (R145, log entry 19). A close that completes purges the terminal records, takes the summary of the moment with
the counts of the purge, arms the permission, makes the day NIGHT and raises DAY_CHANGED once with NIGHT; day number and clock, every other event and every
other part stay (R37, R141, R146, R147). -/
def Obligations.CloseRule : Prop :=
  (∀ s s' : State,
    (s'.day.state ≠ .closing → testReports s s' = s') ∧
    (s.day.state = .closing → closeInputs s = closeInputs s' → testReports s s' = s') ∧
    (s'.day.state = .closing → (s.day.state ≠ .closing ∨ closeInputs s ≠ closeInputs s') →
      testReports s s' = if closingConditions s' = true then completeClose s' else s') ∧
    (closingConditions s' = true ↔
      (∀ t : Fin 160, s'.drawers[t].state = .closed ∨ s'.drawers[t].state = .cashedUp ∨ s'.drawers[t].state = .suspended) ∧
      (∀ x : Fin 4, s'.sessions[x].state = .idle) ∧ s'.call.phase = .idle ∧
      (∀ b ∈ s'.bags, ¬(b.kind = .floatBag ∧ b.state = .madeUp) ∧ b.state ≠ .hatchHeld) ∧ s'.safe.lock = .locked)) ∧
  (∀ s : State,
    (completeClose s).bags = s.bags.filter (fun b => !b.state.terminal) ∧
    (completeClose s).day.state = .night ∧ (completeClose s).day.armed = true ∧
    (completeClose s).day.number = s.day.number ∧ (completeClose s).day.clock = s.day.clock ∧
    (completeClose s).day.clockSecond = s.day.clockSecond ∧
    (completeClose s).day.summary =
      { taken := true, day := s.day.number, second := s.seconds, minute := s.day.clock, opening := s.acc.opening
        countedIn := s.acc.countedIn, restocked := s.acc.restocked, madeUp := s.acc.madeUp
        adjustment := s.acc.adjustment, saturated := s.acc.saturated, holding := holdingValue s
        bagsCounted := (s.bags.filter fun b => b.state = .counted).length
        bagsHanded := (s.bags.filter fun b => b.state = .handedOver).length } ∧
    (completeClose s).event .dayChanged = raisedIf true .dayChanged 0 s ∧
    (∀ e : Event, e ≠ .dayChanged → (completeClose s).event e = s.event e) ∧
    unchangedBut [.bags, .day, .events] s (completeClose s))

/-- An applied movement changes its own sum and expected cash, each held at the ends of its range, and sets the saturated flag exactly when one
of them would pass that range (R1, R46). And every step keeps, for every till, expected cash equal to the sums of its movements while the drawer's saturated flag
is clear (R46). That a result at the end itself sets no flag is the choice of log entry 9; that net tendered and the cash-up difference
take the signed 32-bit range is log entry 21. -/
def Obligations.MovementArithmetic : Prop :=
  (∀ s t : State, DrawersAgree s → step s = .next t → DrawersAgree t) ∧
  ∀ (d : Drawer) (net : Int) (v : Nat),
    ((d.tendered net).netTendered = max Config.low31 (min Config.high31 (d.netTendered + net)) ∧
     (d.tendered net).expected = max Config.low31 (min Config.high31 (d.expected + net)) ∧
     ((d.tendered net).saturated = true ↔ d.saturated = true ∨ d.netTendered + net < Config.low31 ∨
       Config.high31 < d.netTendered + net ∨ d.expected + net < Config.low31 ∨ Config.high31 < d.expected + net)) ∧
    ((d.refunded v).refunds = min Config.top32 (d.refunds + v) ∧
     (d.refunded v).expected = max Config.low31 (min Config.high31 (d.expected - v)) ∧
     ((d.refunded v).saturated = true ↔ d.saturated = true ∨ Config.top32 < d.refunds + v ∨
       d.expected - v < Config.low31 ∨ Config.high31 < d.expected - v)) ∧
    ((d.pickedUp v).pickups = min Config.top32 (d.pickups + v) ∧ (d.pickedUp v).pickupCount = min 65535 (d.pickupCount + 1) ∧
     (d.pickedUp v).expected = max Config.low31 (min Config.high31 (d.expected - v)) ∧ (d.pickedUp v).state = d.state ∧
     ((d.pickedUp v).saturated = true ↔ d.saturated = true ∨ Config.top32 < d.pickups + v ∨
       d.expected - v < Config.low31 ∨ Config.high31 < d.expected - v)) ∧
    ((d.cashedUpWith v).cashup = min Config.top32 (d.cashup + v) ∧ (d.cashedUpWith v).state = .cashedUp ∧
     (d.cashedUpWith v).cashupDiff = some (max Config.low31 (min Config.high31 (d.expected - v))) ∧
     (d.cashedUpWith v).expected = max Config.low31 (min Config.high31 (d.expected - v)) ∧
     ((d.cashedUpWith v).saturated = true ↔ d.saturated = true ∨ Config.top32 < d.cashup + v ∨
       d.expected - v < Config.low31 ∨ Config.high31 < d.expected - v)) ∧
    ((d.receivedFloat v).floatDelivered = min Config.top32 (d.floatDelivered + v) ∧
     (d.receivedFloat v).expected = max Config.low31 (min Config.high31 (d.expected + v)) ∧
     (d.receivedFloat v).state = (if d.state = .closed then .floated else d.state) ∧
     ((d.receivedFloat v).saturated = true ↔ d.saturated = true ∨ Config.top32 < d.floatDelivered + v ∨
       d.expected + v < Config.low31 ∨ Config.high31 < d.expected + v))

/-- Re-evaluation of a drawer: OPEN at or above the hard limit enters HOLD, HOLD below it returns to OPEN, the pickup-due flag follows the
surplus. DRAWER_HOLD is raised once where the drawer enters HOLD, PICKUP_DUE once where the flag goes from clear to set, and with it a CALL is placed, or
QUEUE_FULL raised once where the Floor Port's outgoing queue has no FREE place; otherwise the three records stay. Every other event, every other figure of the
drawer and every other drawer stays (R49, R50, R51). -/
def Obligations.HoldAndPickupRule : Prop :=
  ∀ (t : Fin 160) (s : State),
    let d := s.drawers[t]
    let u := reevaluate t s
    let d' := u.drawers[t]
    let held := d.state = .opened ∧ d'.state = .hold
    let due := d.due = false ∧ d'.due = true
    let raised := fun (e : Event) (n : Nat) =>
      { s.event e with pending := true, detail := BitVec.ofNat 32 n, count := min 255 ((s.event e).count + 1) }
    d'.state = (if d.state = .opened ∧ (s.tills[t].hardLimit : Int) ≤ d.expected then .hold
      else if d.state = .hold ∧ d.expected < s.tills[t].hardLimit then .opened else d.state) ∧
    (d'.due = true ↔ (d'.state = .opened ∨ d'.state = .hold) ∧
      (s.tills[t].skimLevel : Int) ≤ d.expected - s.tills[t].targetValue) ∧
    d' = { d with state := d'.state, due := d'.due } ∧
    (∀ k : Fin 160, k ≠ t → u.drawers[k] = s.drawers[k]) ∧
    (held → u.event .drawerHold = raised .drawerHold t.val) ∧ (¬held → u.event .drawerHold = s.event .drawerHold) ∧
    (due → u.event .pickupDue = raised .pickupDue t.val) ∧ (¬due → u.event .pickupDue = s.event .pickupDue) ∧
    (due ∧ s.floor.out.free = 0 → u.event .queueFull = raised .queueFull 1) ∧
    (¬(due ∧ s.floor.out.free = 0) → u.event .queueFull = s.event .queueFull) ∧
    (∀ e : Event, e ≠ .drawerHold → e ≠ .pickupDue → e ≠ .queueFull → u.event e = s.event e) ∧
    (due → 0 < s.floor.out.free → u.floor = { s.floor with
      out := { s.floor.out with
        filled := s.floor.out.filled ++ [callFrame t (d.expected - s.tills[t].targetValue)] } }) ∧
    (¬(due ∧ 0 < s.floor.out.free) → u.floor = s.floor) ∧
    unchangedBut [.drawers, .floor, .events] s u

/-- The sequence check of a till frame (R45): a copy, a conflict, or a pass whose gap is the incoming number less the last less 1, modulo
65,536; the first frame after DAY_OPEN passes whatever its number. What each till frame that carries a number does with the finding, steps 1 to 3 of R44 passed: a
copy changes no drawer, bag, order or stock, and is answered DUPLICATE with expected cash, or, for a DECLARE whose order stands, by a fresh ADVICE of status
DUPLICATE with the order's figures (R59, R70; that a code disabled since has no line in it is log entry 26); a conflict changes as little and is answered DUPLICATE_CONFLICT with the recorded number; a frame that passes
leaves its number and check in the record, and raises SEQUENCE_GAP with till and gap exactly where there is a gap. -/
def Obligations.SequenceRule : Prop :=
  (∀ (d : Drawer) (q last : Nat) (crc : Word16), q < 65536 → last < 65536 →
    (d.lastSeq = none → sequenceCheck d q crc = .passes 0) ∧
    (d.lastSeq = some last → q = last → d.lastCrc = some crc → sequenceCheck d q crc = .duplicate) ∧
    (d.lastSeq = some last → q = last → d.lastCrc ≠ some crc → sequenceCheck d q crc = .conflict last) ∧
    (d.lastSeq = some last → q ≠ last → ∃ gap, sequenceCheck d q crc = .passes gap ∧ gap < 65536 ∧
      (last + 1 + gap) % 65536 = q ∧ (gap = 0 ↔ q = (last + 1) % 65536))) ∧
  ∀ x ∈ tillCommands, ∀ (p : Port) (s : State) (w : Window) (t : Fin 160) (q : Nat) (pair : Option (Byte × Byte)),
    TakenAs s p w x.1 pair → TillSource s w x.1 t → tillSequence x.1 w.frame.body = some (some q) →
    (s.drawers[t].lastSeq = some q → s.drawers[t].lastCrc = some w.crc → Yields (x.2 p) s fun u =>
      unchangedBut Part.answerParts s u ∧ eventsBut [] s u ∧
      ((x.1 = .declare → ∀ i, s.drawers[t].openOrder = some i → s.orders[i].state = .free ∨ s.orders[i].seq ≠ q) →
        Answered s u p w .duplicate (signed s.drawers[t].expected)) ∧
      (∀ i, x.1 = .declare → s.drawers[t].openOrder = some i → s.orders[i].state ≠ .free → s.orders[i].seq = q →
        Advised s u p w .duplicate (adviceBody s .duplicate (some i) s.orders[i].issueValue s.orders[i].skimValue
          { issue := s.orders[i].issue, skim := s.orders[i].skim, shortStock := s.orders[i].shortStock
            shortCap := s.orders[i].shortCap }))) ∧
    (s.drawers[t].lastSeq = some q → s.drawers[t].lastCrc ≠ some w.crc → Yields (x.2 p) s fun u =>
      unchangedBut Part.answerParts s u ∧ eventsBut [] s u ∧ Answered s u p w .duplicateConflict (num q)) ∧
    (∀ gap, sequenceCheck s.drawers[t] q w.crc = .passes gap → Yields (x.2 p) s fun u =>
      u.drawers[t].lastSeq = some q ∧ u.drawers[t].lastCrc = some w.crc ∧
      u.event .sequenceGap = raisedIf (gap != 0) .sequenceGap (t.val * 65536 + gap) s)

/-! ## Inspection -/

/-- Steps 1 to 5 of R173: a frame passes as a kind exactly when its source is registered on the port, its kind code is that kind's, the source has a
sender role of the kind, the day state allows it, and destination, mark mode, zero bits and the type of a MAKE_UP are right; a frame that does not
pass is answered by the first failing step and changes nothing. A marked frame that is not opaque is refused so by the command of its kind: its VERDICT carries the
step's code and detail, it is relayed with that stamp, and nothing else changes (a MAKE_UP or DOOR body of neither form: log entry 16). Step 6: a guarded kind for whose
marks no witness pair serves is refused WITNESS_MISSING with the number of marks that qualified, an OPEN_CONFIRM by its own rule (R173, R174, R175, R176; which marks
that number counts: log entry 23). -/
def Obligations.InspectionSteps : Prop :=
  (∀ (p : Port) (s : State) (w : Window), MarkedAt s p w → opaqueKind w.frame.kind = false →
    let refused := RefusedFrame (frameCommand w.frame) s p w
    (registeredOn s p w.frame.src = false → refused .unknownNode (num w.frame.src.toNat)) ∧
    (registeredOn s p w.frame.src = true → (∀ k : JobKind, w.frame.kind ≠ k.byte) → refused .unknownKind (num w.frame.kind.toNat)) ∧
    (∀ k : JobKind, registeredOn s p w.frame.src = true → w.frame.kind = k.byte →
      (∀ r, roleOf s w.frame.src = some r → r ∉ k.senders → refused .roleNotAllowed (num r.code)) ∧
      ((∃ r ∈ k.senders, roleOf s w.frame.src = some r) →
        (k.allowedIn s.day.state = false → refused .wrongDayState (num s.day.state.code)) ∧
        (k.allowedIn s.day.state = true → formed k w.frame = false → refused .malformed (num 0)))) ∧
    (∀ (k : JobKind) (i : Fin 7), inspectForm (w.taken p) s = .ok k → k.guardRow = some i → k ≠ .openConfirm →
      witnessPair s s.witness[i] (w.taken p) = none →
      refused .witnessMissing (num ((candidates s (w.taken p)).filter fun b =>
        serves s (w.taken p) s.witness[i].sameTill s.witness[i].roleA b ||
        serves s (w.taken p) s.witness[i].sameTill s.witness[i].roleB b).length))) ∧
  ∀ (f : Taken) (s : State),
    (∀ k : JobKind, inspectForm f s = .ok k ↔
      registeredOn s f.port f.frame.src = true ∧ f.frame.kind = k.byte ∧ (∃ r ∈ k.senders, roleOf s f.frame.src = some r) ∧
      k.allowedIn s.day.state = true ∧ f.frame.dest = (if k.till then 0 else 1) ∧
      markMode f.frame.pb = (if k.guardRow.isSome then .gather else .one) ∧ zeroBitsClear f.frame.pb = true ∧
      (k = .makeUp → f.frame.body.head? = some 0 ∨ f.frame.body.head? = some 1)) ∧
    (registeredOn s f.port f.frame.src = false → decideFrame f s = (s, .verdict .unknownNode (num f.frame.src.toNat))) ∧
    (registeredOn s f.port f.frame.src = true → (∀ k : JobKind, f.frame.kind ≠ k.byte) →
      decideFrame f s = (s, .verdict .unknownKind (num f.frame.kind.toNat))) ∧
    (∀ k : JobKind, registeredOn s f.port f.frame.src = true → f.frame.kind = k.byte →
      ((∀ r ∈ k.senders, roleOf s f.frame.src ≠ some r) →
        decideFrame f s = (s, .verdict .roleNotAllowed (roleDetail s f.frame.src))) ∧
      ((∃ r ∈ k.senders, roleOf s f.frame.src = some r) → k.allowedIn s.day.state = false →
        decideFrame f s = (s, .verdict .wrongDayState (num s.day.state.code))) ∧
      ((∃ r ∈ k.senders, roleOf s f.frame.src = some r) → k.allowedIn s.day.state = true → formed k f.frame = false →
        decideFrame f s = (s, .verdict .malformed (num 0))))

/-! ## Results of the commands of the lines -/

/-- The receiver's own commands: START, the end of the data with the Inspector's reservations or its QUEUE_FULL, a mark, which takes the reservations back
where the part's own was not seen first, the end of an unmarked or ignored frame, an idle line (R153, R156, R157, R158, R172); that an idle line is kept in a
field, and that it ends an ignored frame too, is log entry 15. -/
def Obligations.ReceiverCommands : Prop :=
  ∀ (p : Port) (s : State), (s.port p).tx.phase = .idle →
    ((s.port p).rx = .idle → Yields (.frameStart p) s fun t =>
      (t.port p).rx = (if p = .floor ∧ s.day.state = .night then .ignoring else .receiving []) ∧ (t.port p).lineIdle = false) ∧
    (∀ (have_ bits : List Bool) (f : LineFrame), (s.port p).rx = .receiving have_ → have_ ++ bits = lineBits f.wire →
      f.body.length ≤ 40 → Yields (.endOfData p bits) s fun t =>
        (t.port p).rx = .markWindow
          { frame := f, crc := crc16 (f.header ++ f.body), answer := (offer p f s).2, marks := [] } ∧
        t.uplink = (offer p f s).1.uplink ∧ (t.port p).out = ((offer p f s).1.port p).out ∧
        t.event .queueFull = (offer p f s).1.event .queueFull) ∧
    (∀ (w : Window) (mark : Byte), (s.port p).rx = .markWindow w → w.marks.length < 6 → Yields (.markByte p mark) s fun t =>
      (t.port p).rx = .markWindow { w with
        answer := if w.answer = .sending then (if mark = 1 then .marked else .none) else w.answer
        marks := w.marks ++ [mark] } ∧
      t.uplink.filled = s.uplink.filled ∧ (∃ more, (t.port p).out.filled = (s.port p).out.filled ++ more) ∧
      (if w.answer = .sending ∧ mark ≠ 1 then
        t.uplink.reserved = s.uplink.reserved - 1 ∧
        (t.port p).out.reserved = (s.port p).out.reserved - if opaqueKind w.frame.kind then 0 else 1
      else t.uplink = s.uplink ∧ (t.port p).out = (s.port p).out)) ∧
    (∀ w : Window, (s.port p).rx = .markWindow w → w.answer ≠ .marked → Yields (.unmarkedFrameDropped p) s fun t =>
      (t.port p).rx = .idle ∧ t.uplink.filled = s.uplink.filled ∧
      (∃ more, (t.port p).out.filled = (s.port p).out.filled ++ more) ∧
      (if w.answer = .sending then
        t.uplink.reserved = s.uplink.reserved - 1 ∧
        (t.port p).out.reserved = (s.port p).out.reserved - if opaqueKind w.frame.kind then 0 else 1
      else t.uplink = s.uplink ∧ (t.port p).out = (s.port p).out)) ∧
    ((s.port p).rx = .ignoring → Yields (.unmarkedFrameDropped p) s fun t => (t.port p).rx = .idle) ∧
    ((s.port p).rx = .idle ∨ (s.port p).rx = .waitIdle ∨ (s.port p).rx = .ignoring → Yields (.lineIdle p) s fun t =>
      (t.port p).rx = .idle ∧ (t.port p).lineIdle = true)

/-- The errors of the receiver: the counter goes up, LINK_ERROR names port and counter, the receiver is in WAIT_IDLE, and a marked frame in its
window is relayed with the marks gathered so far (R154, R155, R156). -/
def Obligations.ReceiverErrors : Prop :=
  (∀ n : Nat, n ≤ 4294967295 → countUp n = (n + 1) % 4294967296) ∧
  ∀ (p : Port) (s : State) (c : Instr) (x : LineCounter),
    (c = .breakPulse p ∧ x = .breaks ∨
     (s.port p).tx.phase = .idle ∧
      (c = .symbolError p .invalid ∧ x = .symbol ∧ (s.port p).rx.listening = true ∨
       (∃ sym inc, c = .framingError p sym inc ∧ x = .framing ∧ isFramingError (s.port p).rx sym inc = true) ∨
       c = .longFrame p ∧ x = .longFrame ∧ (s.port p).rx.isReceiving = true ∨
       (∃ have_ bits, (s.port p).rx = .receiving have_ ∧ c = .endOfData p bits ∧
        (checkData (have_ ++ bits) = .check ∧ x = .check ∨ checkData (have_ ++ bits) = .framing ∧ x = .framing ∨
         checkData (have_ ++ bits) = .longFrame ∧ x = .longFrame)))) →
    Yields c s fun t =>
      (t.port p).rx = .waitIdle ∧ (t.port p).errors = (s.port p).errors.bump x ∧ (t.event .linkError).pending = true ∧
      (t.event .linkError).detail = BitVec.ofNat 32 (portCode p * 256 + x.code) ∧
      ∀ w, markedWindow s p = some w → 0 < s.uplink.reserved → ∃ stamp, t.uplink.filled = s.uplink.filled ++
        [{ port := p, second := s.seconds, stamp := stamp, marks := w.marks, frame := w.frame }]

/-- An attempt of the transmitter from the choice of its frame to the open window, and the ends that leave the frame current (R159, R160, R162,
R163, R164); the bytes that it has driven stand in a field of the model's own (log entry 12), and so does the line's idleness (log entry 15). -/
def Obligations.TransmitterAttempt : Prop :=
  ∀ (p : Port) (s : State) (c : Current),
    ((s.port p).tx.phase = .idle → (s.port p).tx.current = none → chooseFrame (s.port p) = some c →
      Yields (.currentFrameChoice p) s fun t => (t.port p).tx.current = some c ∧ (t.port p).tx.phase = .idle) ∧
    ((s.port p).tx.current = some c →
      ((s.port p).tx.phase = .idle → (s.port p).rx = .idle → (s.port p).lineIdle = true →
        Yields (.transmitStart p) s fun t => (t.port p).tx.phase = .arbitrating ∧
          (t.port p).tx.current = some { c with attempts := c.attempts + 1 } ∧ (t.port p).lineIdle = false) ∧
      ((s.port p).tx.phase = .arbitrating →
        Yields (.headerSent p) s fun t => (t.port p).tx.phase = .sending ∧ (t.port p).tx.current = some c ∧
          (t.port p).tx.driven = c.frame.header) ∧
      (∀ bit : Nat, (s.port p).tx.phase = .arbitrating → (lineBits c.frame.header).getD bit false = true →
        Yields (.arbitrationLost p bit) s fun t =>
          (t.port p).rx = (if p = .floor ∧ s.day.state = .night then .ignoring
            else .receiving ((lineBits c.frame.header).take bit ++ [false])) ∧
          (t.port p).tx.phase = .idle ∧ (c.attempts < 4 → (t.port p).tx.current = some c)) ∧
      ((s.port p).tx.phase = .sending →
        Yields (.sendClash p) s fun t => (t.port p).rx = .waitIdle ∧
          (t.port p).errors.clash = countUp (s.port p).errors.clash ∧ (t.event .linkError).pending = true ∧
          (t.port p).tx.phase = .idle ∧ (c.attempts < 4 → (t.port p).tx.current = some c)) ∧
      ((s.port p).tx.phase = .sending → markMode c.frame.pb ≠ .none →
        Yields (.dataSent p) s fun t => (t.port p).tx.phase = .awaitMarks ∧ (t.port p).tx.current = some c ∧
          (t.port p).tx.marks = [] ∧ (t.port p).tx.driven = c.frame.wire) ∧
      (∀ mark : Byte, (s.port p).tx.phase = .awaitMarks → markMode c.frame.pb ≠ .one → (s.port p).tx.marks.length < 5 →
        Yields (.markByte p mark) s fun t => (t.port p).tx.phase = .awaitMarks ∧ (t.port p).tx.current = some c ∧
          (t.port p).tx.marks = (s.port p).tx.marks ++ [mark]) ∧
      ((s.port p).tx.phase = .awaitMarks → c.frame.dest = 255 ∨ c.frame.dest ∉ (s.port p).tx.marks → c.attempts < 4 →
        Yields (.windowClose p) s fun t => (t.port p).tx.phase = .idle ∧ (t.port p).tx.current = some c) ∧
      (∀ sym : LineSymbol, (s.port p).tx.phase ≠ .idle → sym.isSymbolError = true → c.attempts < 4 →
        Yields (.symbolError p sym) s fun t => (t.port p).rx = .waitIdle ∧ (t.port p).tx.phase = .idle ∧
          (t.port p).tx.current = some c ∧ (t.port p).errors.symbol = countUp (s.port p).errors.symbol) ∧
      ((s.port p).tx.phase ≠ .idle →
        Yields (.breakPulse p) s fun t => (t.port p).tx.phase = .idle ∧
          (t.port p).tx.current = some { c with attempts := c.attempts - 1 }))

/-- The end of a frame at the transmitter: delivered in mode NONE or by its destination's mark, its place frees. A window closes at an idle gap, at the first
mark in mode ONE and at the sixth mark in the other modes; without its destination's mark the attempt fails, and so it does for every frame to 0xFF, since no node
marks with that identity (in mode GATHER by log entry 29). At the fourth failed attempt, whatever made it fail (the window, an arbitration lost, a clash, a symbol
error), the frame is discarded with an undelivered count and LINK_ERROR. A discarded SAFE_COMMAND is owed again; one that is owed is placed at the tail of the
Room Port's queue in the taking that frees a place, where a SAFE node is enabled, and stays owed where not; with none owed no place is filled (R93, R157, R160, R163,
R164). The bytes driven stand in a field of the model's own (log entry 12). -/
def Obligations.TransmitterEnd : Prop :=
  ∀ (p : Port) (s : State) (c : Current), (s.port p).tx.current = some c →
    let freed := fun t : State => (t.port p).tx.phase = .idle ∧ (t.port p).tx.current = none ∧
      (∀ i, c.source = .outgoing i → ∃ more, (t.port p).out.filled = (s.port p).out.filled.eraseIdx i ++ more) ∧
      (c.source = .downlink → ∃ more, (t.port p).down = (s.port p).down.tail ++ more)
    let left := fun q : OutQueue => match p, c.source with
      | .room, .outgoing i => { q with filled := q.filled.eraseIdx i }
      | _, _ => q
    let commanded := fun (again : Prop) (t : State) =>
      (s.safe.owed = true ∨ again → (s.safe.owed = false ∨ s.room.out.free = 0 ∨ ∀ b, ¬LowestSafeNode s b) →
        CommandGoes s t (left s.room.out) s.safe.commanded) ∧
      (s.safe.owed = false → ¬again → t.safe = s.safe ∧ t.room.out = left s.room.out)
    let delivered := fun t : State => freed t ∧ (t.port p).errors = (s.port p).errors ∧ commanded False t
    let discarded := fun (before : LineErrors) (t : State) => freed t ∧ (t.port p).errors = before.bump .undelivered ∧
      (t.event .linkError).pending = true ∧ (t.event .linkError).detail = BitVec.ofNat 32 (portCode p * 256 + 6) ∧
      commanded (c.source ≠ .downlink ∧ c.frame.kind = kindSafeCommand) t
    let kept := fun t : State => (t.port p).tx.phase = .idle ∧ (t.port p).tx.current = some c ∧
      (t.port p).errors = (s.port p).errors ∧ (t.port p).out = (s.port p).out ∧ (t.port p).down = (s.port p).down
    ((s.port p).tx.phase = .sending → markMode c.frame.pb = .none →
      Yields (.dataSent p) s fun t => delivered t ∧ (t.port p).tx.driven = c.frame.wire) ∧
    (∀ (x : Instr) (marks : List Byte), (s.port p).tx.phase = .awaitMarks →
      (x = .windowClose p ∧ marks = (s.port p).tx.marks ∨
        ∃ mark, x = .markByte p mark ∧ marks = (s.port p).tx.marks ++ [mark] ∧
          (markMode c.frame.pb = .one ∧ (s.port p).tx.marks = [] ∨
            markMode c.frame.pb ≠ .one ∧ (s.port p).tx.marks.length = 5)) →
      (c.frame.dest ≠ 255 → c.frame.dest ∈ marks → Yields x s delivered) ∧
      (c.frame.dest = 255 ∨ c.frame.dest ∉ marks → c.attempts < 4 → Yields x s kept) ∧
      (c.frame.dest = 255 ∨ c.frame.dest ∉ marks → 4 ≤ c.attempts → Yields x s (discarded (s.port p).errors))) ∧
    (4 ≤ c.attempts →
      (∀ bit : Nat, (s.port p).tx.phase = .arbitrating → (lineBits c.frame.header).getD bit false = true →
        Yields (.arbitrationLost p bit) s (discarded (s.port p).errors)) ∧
      ((s.port p).tx.phase = .sending → Yields (.sendClash p) s (discarded ((s.port p).errors.bump .clash))) ∧
      (∀ sym : LineSymbol, (s.port p).tx.phase ≠ .idle → sym.isSymbolError = true →
        Yields (.symbolError p sym) s (discarded ((s.port p).errors.bump .symbol))))

/-! ## Results of the till frames -/

/-- TENDER, REFUND and TILL_OPEN on a drawer to which they apply: the movement, and then the re-evaluation with HOLD, pickup-due flag, DRAWER_HOLD, PICKUP_DUE, the
CALL or its QUEUE_FULL, and EXPECTED_SATURATED (R46, R47, R48, R49, R50, R51, R54); that net tendered takes the signed 32-bit range of expected cash is
log entry 21. And what every till frame is refused for at steps 1, 2, 3 and 5 of R44, and changes then (R44, R45, R59): MALFORMED with 0, UNKNOWN_NODE with the
till, WITNESS_MISSING with the badge node, WRONG_TILL_STATE with the drawer's state; a TENDER or REFUND refused at step 2 or 5, and no other, raises
TENDER_UNAPPLIED; a frame refused at step 5 is decided, so its number and check are recorded and nothing else of the drawer. -/
def Obligations.TillMovements : Prop :=
  (∀ (p : Port) (s : State) (w : Window) (t : Fin 160),
    (∀ q r c gap, TakenAs s p w .tender none → TillApplies s w .tender t → parseTender w.frame.body = some (q, r, c) →
      sequenceCheck s.drawers[t] q w.crc = .passes gap → Yields (.tender p) s fun u =>
        u.drawers[t].netTendered = max Config.low31 (min Config.high31 (s.drawers[t].netTendered + ((r : Int) - c))) ∧
        u.drawers[t].expected = max Config.low31 (min Config.high31 (s.drawers[t].expected + ((r : Int) - c))) ∧
        u.drawers[t].lastSeq = some q ∧ u.drawers[t].lastCrc = some w.crc ∧
        Reevaluated s u t { s.drawers[t].tendered ((r : Int) - c) with lastSeq := some q, lastCrc := some w.crc } ∧
        Answered s u p w (if u.drawers[t].state = .hold then .hold else .accepted) (signed u.drawers[t].expected)) ∧
    (∀ q a gap, TakenAs s p w .refund none → TillApplies s w .refund t → parseRefund w.frame.body = some (q, a) →
      sequenceCheck s.drawers[t] q w.crc = .passes gap → Yields (.refund p) s fun u =>
        u.drawers[t].refunds = min 4294967295 (s.drawers[t].refunds + a) ∧
        u.drawers[t].expected = max Config.low31 (min Config.high31 (s.drawers[t].expected - a)) ∧
        u.drawers[t].lastSeq = some q ∧ u.drawers[t].lastCrc = some w.crc ∧
        Reevaluated s u t { s.drawers[t].refunded a with lastSeq := some q, lastCrc := some w.crc } ∧
        Answered s u p w (if u.drawers[t].state = .hold then .hold else .accepted) (signed u.drawers[t].expected)) ∧
    (TakenAs s p w .tillOpen none → TillApplies s w .tillOpen t → w.frame.body = [] → Yields (.tillOpen p) s fun u =>
        (s.drawers[t].state = .floated → u.drawers[t].state =
          if (s.tills[t].hardLimit : Int) ≤ s.drawers[t].expected then .hold else .opened) ∧
        (s.drawers[t].state = .floated → Reevaluated s u t { s.drawers[t] with state := .opened }) ∧
        (s.drawers[t].state ≠ .floated → unchangedBut Part.answerParts s u ∧ eventsBut [] s u) ∧ u.drawers[t].expected = s.drawers[t].expected ∧
        Answered s u p w (if u.drawers[t].state = .hold then .hold else .accepted) (signed s.drawers[t].expected))) ∧
  ∀ x ∈ tillCommands, ∀ (p : Port) (s : State) (w : Window) (t : Fin 160) (pair : Option (Byte × Byte)),
    TakenAs s p w x.1 pair → tillOf s w.frame.src = t →
    let sale := x.1 == .tender || x.1 == .refund
    (tillSequence x.1 w.frame.body = none → Yields (x.2 p) s fun u =>
      unchangedBut Part.answerParts s u ∧ eventsBut [] s u ∧ Answered s u p w .malformed (num 0)) ∧
    (∀ seq, tillSequence x.1 w.frame.body = some seq →
      (s.tills[t].enabled = false ∨ s.tills[t].node ≠ w.frame.src → Yields (x.2 p) s fun u =>
        unchangedBut Part.answerParts s u ∧ eventsBut [.tenderUnapplied] s u ∧
        u.event .tenderUnapplied = raisedIf sale .tenderUnapplied t.val s ∧ Answered s u p w .unknownNode (num t.val)) ∧
      (s.tills[t].enabled = true → s.tills[t].node = w.frame.src → needsBadge x.1 = true → s.tills[t].badge ≠ 0 →
        s.tills[t].badge ∉ w.marks → Yields (x.2 p) s fun u =>
          unchangedBut Part.answerParts s u ∧ eventsBut [] s u ∧
          Answered s u p w .witnessMissing (num s.tills[t].badge.toNat)) ∧
      (TillSource s w x.1 t → (∀ q, seq = some q → ∃ gap, sequenceCheck s.drawers[t] q w.crc = .passes gap) →
        appliedIn x.1 s.day.state s.drawers[t].state = false → Yields (x.2 p) s fun u =>
          unchangedBut ([.drawers] ++ Part.answerParts) s u ∧ eventsBut [.tenderUnapplied, .sequenceGap] s u ∧
          (∀ k : Fin 160, k ≠ t → u.drawers[k] = s.drawers[k]) ∧
          (seq = none → u.drawers[t] = s.drawers[t]) ∧
          (∀ q, seq = some q → u.drawers[t] = { s.drawers[t] with lastSeq := some q, lastCrc := some w.crc }) ∧
          u.event .tenderUnapplied = raisedIf sale .tenderUnapplied t.val s ∧
          Answered s u p w .wrongTillState (num s.drawers[t].state.code)))

/-- PICKUP and CASHUP. Applied, the bag is created as R26 says, the drawer falls by its declared value and is re-evaluated with the events that follow. Where the
register refuses the create, by the first check of R25 that fails, the frame is refused with that code, and nothing changes but what the decided frame records of its sequence;
the detail is the seal, and 0 for MALFORMED (R25, R26, R44, R45, R46, R49, R50, R51, R52, R53, R59). -/
def Obligations.TillBags : Prop :=
  ∀ (p : Port) (s : State) (w : Window) (t : Fin 160) (pair : Byte × Byte) (q n v gap : Nat),
    parseSkim w.frame.body = some (q, n, v) → sequenceCheck s.drawers[t] q w.crc = .passes gap →
    (Creatable s n v →
      (TakenAs s p w .pickup (some pair) → TillApplies s w .pickup t → Yields (.pickup p) s fun u =>
        findBag u n = some (newBag s .pickup .sealed n v (some t) none none) ∧
        u.drawers[t].pickups = min 4294967295 (s.drawers[t].pickups + v) ∧
        u.drawers[t].pickupCount = min 65535 (s.drawers[t].pickupCount + 1) ∧
        u.drawers[t].expected = max Config.low31 (min Config.high31 (s.drawers[t].expected - v)) ∧
        u.drawers[t].lastSeq = some q ∧
        Reevaluated s u t { s.drawers[t].pickedUp v with lastSeq := some q, lastCrc := some w.crc } ∧
        Answered s u p w (if u.drawers[t].state = .hold then .hold else .accepted) (signed u.drawers[t].expected)) ∧
      (TakenAs s p w .cashup (some pair) → TillApplies s w .cashup t → Yields (.cashup p) s fun u =>
        findBag u n = some (newBag s .cashup .sealed n v (some t) none none) ∧
        u.drawers[t].cashup = min 4294967295 (s.drawers[t].cashup + v) ∧ u.drawers[t].state = .cashedUp ∧
        u.drawers[t].due = false ∧
        u.drawers[t].cashupDiff = some (max Config.low31 (min Config.high31 (s.drawers[t].expected - v))) ∧
        u.drawers[t].expected = max Config.low31 (min Config.high31 (s.drawers[t].expected - v)) ∧
        Reevaluated s u t { s.drawers[t].cashedUpWith v with lastSeq := some q, lastCrc := some w.crc } ∧
        Answered s u p w .accepted (signed u.drawers[t].expected))) ∧
    ∀ code : Code, CreateRefused s n v code →
      let detail := num (if code = .malformed then 0 else n)
      (TakenAs s p w .pickup (some pair) → TillApplies s w .pickup t → RefusedTillFrame .pickup s p w t q gap code detail) ∧
      (TakenAs s p w .cashup (some pair) → TillApplies s w .cashup t → RefusedTillFrame .cashup s p w t q gap code detail)

/-- DECLARE with no open order: with an issue the lowest FREE entry takes the order and the issue is reserved, without one no order is created (R62, R63,
R67, R68). Both are answered by the ADVICE: the status with its truncation bit, the order index or 0xFF, the two values, and the first nine lines in face order
of the codes with an issue, a skim or a short flag, each with its code, its flags and its issue or skim count (R70). DECLARE_VARIANCE is raised where the
declared value and expected cash differ by more than the tolerance, and not where they differ by it or less (R63); STOCK_SHORT where a code carries a
short flag (R67). The declaration difference is held to the signed 32-bit range (log entry 21). Refused, in the order of R62: ORDER_OPEN with the open order, ORDER_FULL
with 0, MALFORMED with the first disabled code named, MALFORMED with the code named twice (where two codes are each named twice, the one met first a second
time: log entry 17); nothing changes then but what the decided frame records of its sequence (R45, R61). -/
def Obligations.DeclareResult : Prop :=
  ∀ (p : Port) (s : State) (w : Window) (t : Fin 160) (q gap : Nat) (ps : List (Fin 12 × Nat)),
    TakenAs s p w .declare none → TillApplies s w .declare t → parseDeclare w.frame.body = some (q, ps) →
    sequenceCheck s.drawers[t] q w.crc = .passes gap →
    let refused := RefusedTillFrame .declare s p w t q gap
    (∀ i : Fin 24, s.drawers[t].openOrder = some i → refused .orderOpen (num i.val)) ∧
    (s.drawers[t].openOrder = none → (∀ i : Fin 24, s.orders[i].state ≠ .free) → refused .orderFull (num 0)) ∧
    ∀ i : Fin 24, s.drawers[t].openOrder = none → s.orders[i].state = .free → (∀ j : Fin 24, j < i → s.orders[j].state ≠ .free) →
    (∀ before x after, ps = before ++ x :: after → (∀ y ∈ before, s.denoms[y.1].enabled = true) → s.denoms[x.1].enabled = false →
      refused .malformed (num x.1.val)) ∧
    ((∀ x ∈ ps, s.denoms[x.1].enabled = true) → ∀ before c after, ps.map (fun x => x.1) = before ++ c :: after → before.Nodup →
      c ∈ before → refused .malformed (num c.val)) ∧
    ((∀ x ∈ ps, s.denoms[x.1].enabled = true) → (ps.map fun x => x.1).Nodup → Yields (.declare p) s fun u =>
      let r := rebalance s t ps
      let declared := (ps.map fun x => x.2 * s.denoms[x.1].face).sum
      let lines := (faceOrder s).filter fun c =>
        decide (0 < r.issue[c]) || decide (0 < r.skim[c]) || r.shortStock[c] || r.shortCap[c]
      let advice := fun (index : Byte) (value : Nat) =>
        (if 9 < lines.length then Code.accepted.byte ||| 0x80#8 else Code.accepted.byte) :: index ::
          (be 4 value ++ be 5 (s.valueOf r.skim) ++ be 1 (min 9 lines.length) ++
            (lines.take 9).flatMap fun c =>
              be 1 (c.val + 16 * r.shortStock[c].toNat + 32 * r.shortCap[c].toNat + 64 * (decide (0 < r.skim[c])).toNat) ++
              be 2 (if 0 < r.skim[c] then r.skim[c] else r.issue[c]))
      let raised := fun e : Event =>
        { s.event e with pending := true, detail := BitVec.ofNat 32 t.val, count := min 255 ((s.event e).count + 1) }
      (0 < s.valueOf r.issue →
        u.orders[i] =
          { state := .pending, outcome := .none, till := t, seq := q, day := s.day.number, issue := r.issue, skim := r.skim
            shortStock := r.shortStock, shortCap := r.shortCap, issueValue := s.valueOf r.issue
            skimValue := s.valueOf r.skim, declared := declared
            difference := max Config.low31 (min Config.high31 (s.drawers[t].expected - declared)), sealNo := none } ∧
        (∀ j : Fin 24, j ≠ i → u.orders[j] = s.orders[j]) ∧
        (∀ c : Fin 12, u.stock[c] = { s.stock[c] with reserved := s.stock[c].reserved + r.issue[c] }) ∧
        u.drawers[t].openOrder = some i ∧ Advised s u p w .accepted (advice (BitVec.ofNat 8 i.val) (s.valueOf r.issue))) ∧
      (s.valueOf r.issue = 0 →
        u.orders = s.orders ∧ u.stock = s.stock ∧ u.drawers[t].openOrder = none ∧
        Advised s u p w .accepted (advice 0xFF 0)) ∧
      u.event .declareVariance =
        (if s.timing.declareTolerance < ((declared : Int) - s.drawers[t].expected).natAbs then raised .declareVariance
         else s.event .declareVariance) ∧
      ((∃ c : Fin 12, r.shortStock[c] = true ∨ r.shortCap[c] = true) → u.event .stockShort = raised .stockShort) ∧
      ((∀ c : Fin 12, r.shortStock[c] = false ∧ r.shortCap[c] = false) → u.event .stockShort = s.event .stockShort))

/-- FLOAT_RECEIPT of the till's float bag: the drawer rises by the bag's value and is re-evaluated with the events that follow, the bag is DELIVERED and its order is
freed as DONE (R46, R49, R50, R51, R55, R72). Refused, in the order of R72: UNKNOWN_BAG with the seal, WRONG_BAG_STATE with the seal for a bag that is no FLOAT bag in MADE_UP,
WRONG_BAG_STATE with the record's till for a float bag of another till; nothing changes then but what the decided frame records of its sequence (R45). -/
def Obligations.FloatReceiptResult : Prop :=
  ∀ (p : Port) (s : State) (w : Window) (t : Fin 160) (pair : Byte × Byte) (q n gap : Nat),
    TakenAs s p w .floatReceipt (some pair) → TillApplies s w .floatReceipt t → parseReceipt w.frame.body = some (q, n) →
    sequenceCheck s.drawers[t] q w.crc = .passes gap →
    let refused := RefusedTillFrame .floatReceipt s p w t q gap
    (findBag s n = none → refused .unknownBag (num n)) ∧
    ∀ b : Bag, findBag s n = some b →
    (b.kind ≠ .floatBag ∨ b.state ≠ .madeUp → refused .wrongBagState (num n)) ∧
    (∀ k : Fin 160, b.kind = .floatBag → b.state = .madeUp → b.till = some k → k ≠ t → refused .wrongBagState (num k.val)) ∧
    (b.kind = .floatBag → b.state = .madeUp → b.till = some t → Yields (.floatReceipt p) s fun u =>
      u.drawers[t].floatDelivered = min 4294967295 (s.drawers[t].floatDelivered + b.declared) ∧
      u.drawers[t].expected = max Config.low31 (min Config.high31 (s.drawers[t].expected + b.declared)) ∧
      u.drawers[t].openOrder = none ∧ (s.drawers[t].state = .closed → u.drawers[t].state = .floated) ∧
      Reevaluated s u t { s.drawers[t].receivedFloat b.declared with
        openOrder := none, lastSeq := some q, lastCrc := some w.crc } ∧
      (∀ i, b.order = some i → u.orders[i] = { s.orders[i] with state := .free, outcome := .done }) ∧
      (s.day.state ≠ .closing → findBag u n = some { b with state := .delivered, entered := s.seconds }) ∧
      Answered s u p w (if u.drawers[t].state = .hold then .hold else .accepted) (signed u.drawers[t].expected))

/-! ## Results of the stock frames -/

/-- MAKE_UP of both types; every other order, every drawer and every other accumulator stays (R14, R15, R16, R20, R71). A FLOAT is refused in the order of R71: MALFORMED
with the order index where it is above 23 or its entry is FREE, ORDER_OPEN with the seal of the order's bag where the entry is MADE_UP, else with the register's answer and the seal
(R25); a body of another length is MALFORMED by log entry 7. A CONSIGNMENT is refused in the order of R15: MALFORMED for a body whose length does not match the pairs it
announces, or that announces more than 6; then by the first pair that fails: MALFORMED (no enabled code, or one named by an earlier pair), NOT_STRAPPED, STOCK_SHORT; then MALFORMED for
the value 0, VALUE_RANGE above 999,999,999, and last the register's answer. No rule states the details of a consignment's verdicts (log entry 4). A refused MAKE_UP changes nothing. -/
def Obligations.MakeUpResults : Prop :=
  ∀ (p : Port) (s : State) (w : Window) (pair : Byte × Byte), TakenAs s p w .makeUp (some pair) →
    (∀ (i : Fin 24) (n : Nat), w.frame.body = be 1 0 ++ be 1 i.val ++ be 4 n → n < 256 ^ 4 → s.orders[i].state = .pending →
      Creatable s n s.orders[i].issueValue → Yields (.makeUpFloat p) s fun u =>
        u.orders[i] = { s.orders[i] with state := .madeUp, sealNo := some n } ∧
        (∀ j : Fin 24, j ≠ i → u.orders[j] = s.orders[j]) ∧ u.drawers = s.drawers ∧
        findBag u n = some (newBag s .floatBag .madeUp n s.orders[i].issueValue (some s.orders[i].till) (some i)
          (some s.orders[i].issue)) ∧
        (∀ c : Fin 12, u.stock[c] = drawPieces s.denoms[c] s.stock[c] s.orders[i].issue[c]) ∧
        u.acc = { s.acc with
          madeUp := min 4294967295 (s.acc.madeUp + s.orders[i].issueValue)
          saturated := s.acc.saturated || decide (4294967295 < s.acc.madeUp + s.orders[i].issueValue) } ∧
        Answered s u p w .accepted (num s.orders[i].issueValue)) ∧
    (∀ (n : Nat) (ps : List (Fin 12 × Nat)),
      w.frame.body = be 1 1 ++ be 4 n ++ be 1 ps.length ++ ps.flatMap (fun x => be 1 x.1.val ++ be 4 x.2) → n < 256 ^ 4 →
      ps.length ≤ 6 → (ps.map fun x => x.1).Nodup →
      (∀ x ∈ ps, x.2 < 256 ^ 4 ∧ s.denoms[x.1].enabled = true ∧ x.2 % s.denoms[x.1].strap = 0 ∧ x.2 ≤ s.freeOf x.1 ∧
        x.2 / s.denoms[x.1].strap ≤ s.stock[x.1].straps) →
      Creatable s n (s.valueOf (pairCounts ps)) → Yields (.makeUpConsignment p) s fun u =>
        findBag u n = some (newBag s .consignment .madeUp n (s.valueOf (pairCounts ps)) none none (some (pairCounts ps))) ∧
        (∀ c : Fin 12, u.stock[c] =
          { s.stock[c] with straps := s.stock[c].straps - (pairCounts ps)[c] / s.denoms[c].strap }) ∧
        u.acc = { s.acc with
          madeUp := min 4294967295 (s.acc.madeUp + s.valueOf (pairCounts ps))
          saturated := s.acc.saturated || decide (4294967295 < s.acc.madeUp + s.valueOf (pairCounts ps)) } ∧
        u.orders = s.orders ∧ u.drawers = s.drawers ∧ Answered s u p w .accepted none) ∧
    (let refused := RefusedFrame .makeUpFloat s p w
     (w.frame.body.head? = some 0 → w.frame.body.length ≠ 6 → refused .malformed none) ∧
     ∀ k n : Nat, w.frame.body = be 1 0 ++ be 1 k ++ be 4 n → k < 256 → n < 256 ^ 4 →
      (24 ≤ k → refused .malformed (num k)) ∧
      ∀ i : Fin 24, i.val = k →
        (s.orders[i].state = .free → refused .malformed (num k)) ∧
        (∀ m, s.orders[i].state = .madeUp → s.orders[i].sealNo = some m → refused .orderOpen (num m)) ∧
        (∀ code, s.orders[i].state = .pending → CreateRefused s n s.orders[i].issueValue code → refused code (num n))) ∧
    (let refused := fun code => RefusedFrame .makeUpConsignment s p w code none
     let pass := fun x : Fin 12 × Nat => s.denoms[x.1].enabled = true ∧ x.2 % s.denoms[x.1].strap = 0 ∧ x.2 ≤ s.freeOf x.1 ∧
      x.2 / s.denoms[x.1].strap ≤ s.stock[x.1].straps
     let raw := fun x : Fin 12 × Nat => (x.1.val, x.2)
     let names := fun (n : Nat) (ps : List (Nat × Nat)) =>
      w.frame.body = be 1 1 ++ be 4 n ++ be 1 ps.length ++ ps.flatMap (fun x => be 1 x.1 ++ be 4 x.2) ∧ n < 256 ^ 4 ∧
        ps.length ≤ 6 ∧ ∀ x ∈ ps, x.1 < 256 ∧ x.2 < 256 ^ 4
     (w.frame.body.head? = some 1 → w.frame.body.length < 6 → refused .malformed) ∧
     (∀ k, w.frame.body.head? = some 1 → w.frame.body[5]? = some k → 6 < k.toNat ∨ w.frame.body.length ≠ 6 + 5 * k.toNat →
      refused .malformed) ∧
     (∀ (n : Nat) (good : List (Fin 12 × Nat)) (k m : Nat) (rest : List (Nat × Nat)), names n (good.map raw ++ (k, m) :: rest) →
      (good.map fun x => x.1).Nodup → (∀ x ∈ good, pass x) →
      ((∀ c : Fin 12, c.val = k → s.denoms[c].enabled = false ∨ c ∈ good.map fun x => x.1) → refused .malformed) ∧
      ∀ c : Fin 12, c.val = k → s.denoms[c].enabled = true → (c ∉ good.map fun x => x.1) →
        (m % s.denoms[c].strap ≠ 0 → refused .notStrapped) ∧
        (m % s.denoms[c].strap = 0 → s.freeOf c < m ∨ s.stock[c].straps < m / s.denoms[c].strap → refused .stockShort)) ∧
     ∀ (n : Nat) (ps : List (Fin 12 × Nat)), names n (ps.map raw) → (ps.map fun x => x.1).Nodup → (∀ x ∈ ps, pass x) →
      let value := s.valueOf (pairCounts ps)
      (value = 0 → refused .malformed) ∧ (999999999 < value → refused .valueRange) ∧
      ∀ code, value ≠ 0 → value ≤ 999999999 → CreateRefused s n value code → refused code)

/-- RESTOCK: the bag's counts go back to loose stock with the carry, its value into the restocked accumulator, the bag is RESTOCKED and a float
order is freed with its till's open order cleared; every other order, drawer and accumulator stays (R12, R17, R20, R69, R76). That a code of which the bag holds none keeps its loose
count as it stands, carried or not, is log entry 10. Refused, with nothing changed: UNKNOWN_BAG where no record holds the seal, WRONG_BAG_STATE for a bag that is not in MADE_UP or of
a kind that never is (R17; COUNT_LIMIT stands in StockFigures), MALFORMED for a body of another length (log entry 7); no rule states their details (log entry 4). -/
def Obligations.RestockResult : Prop :=
  ∀ (p : Port) (s : State) (w : Window), TakenAs s p w .restock none →
    (w.frame.body.length ≠ 4 → RefusedFrame .restock s p w .malformed none) ∧
    ∀ n : Nat, parseSeal w.frame.body = some n →
    (findBag s n = none → RefusedFrame .restock s p w .unknownBag none) ∧
    ∀ b : Bag, findBag s n = some b →
    (b.state ≠ .madeUp ∨ b.kind.counted = true → RefusedFrame .restock s p w .wrongBagState none) ∧
    ∀ counts : Vector Nat 12, b.kind = .floatBag ∨ b.kind = .consignment → b.state = .madeUp → b.counts = some counts →
    (∀ c : Fin 12, counts[c] ≠ 0 → s.stock[c].loose + counts[c] ≤ 4294967295 ∧
      s.stock[c].straps + (s.stock[c].loose + counts[c]) / s.denoms[c].strap ≤ 4294967295) →
    Yields (.restock p) s fun u =>
      (∀ c : Fin 12, u.stock[c] = if counts[c] = 0 then s.stock[c] else
        { s.stock[c] with
          loose := (s.stock[c].loose + counts[c]) % s.denoms[c].strap
          straps := s.stock[c].straps + (s.stock[c].loose + counts[c]) / s.denoms[c].strap }) ∧
      u.acc = { s.acc with
        restocked := min 4294967295 (s.acc.restocked + b.declared)
        saturated := s.acc.saturated || decide (4294967295 < s.acc.restocked + b.declared) } ∧
      (∀ i, b.order = some i →
        u.orders[i] = { s.orders[i] with state := .free, outcome := .restocked } ∧
        (∀ j : Fin 24, j ≠ i → u.orders[j] = s.orders[j]) ∧
        u.drawers[s.orders[i].till] = { s.drawers[s.orders[i].till] with openOrder := none } ∧
        ∀ t : Fin 160, t ≠ s.orders[i].till → u.drawers[t] = s.drawers[t]) ∧
      (b.order = none → u.orders = s.orders ∧ u.drawers = s.drawers) ∧
      (s.day.state ≠ .closing → findBag u n = some { b with state := .restocked, entered := s.seconds }) ∧
      Answered s u p w .accepted none

/-! ## Results of the safe's frames -/

/-- DROP, DEPOSIT and WITHDRAW of a bag the safe may take in or give out, and which do not repeat the last operation (R28, R29, R31, R79, R81, R82,
R83, R84); and what they answer where nothing moves: HELD with CHUTE_HELD while the chute does not work, DOOR_SHUT with the lock state while the door is
shut, DUPLICATE with the recorded detail for a repeat of the last operation, SAFE_FULL with its event for a bag that the full safe has no place for, and the register's refusals:
UNKNOWN_BAG, for a DROP with CHUTE_HELD and its seal; WRONG_BAG_STATE; PINNED for a WITHDRAW of a consignment bag pinned to a slot other than the active session's (R29). Those of a WITHDRAW
carry the seal (R82); for the others no rule states a detail (log entries 4 and 23). That R82's sentence on the detail of DOOR_SHUT covers DEPOSIT too is log entry 23; that a body of
another length is MALFORMED is log entry 7. -/
def Obligations.SafeMovements : Prop :=
  (∀ (p : Port) (s : State) (w : Window) (n : Nat), parseSeal w.frame.body = some n →
    (TakenAs s p w .drop none → s.safe.lock.chuteWorks = false → Yields (.drop p) s fun u =>
      u.safe = s.safe ∧ u.bags = s.bags ∧ (u.event .chuteHeld).pending = true ∧
      (u.event .chuteHeld).detail = BitVec.ofNat 32 n ∧ Answered s u p w .held none) ∧
    (∀ (c : Port → Instr) (k : JobKind), c = .deposit ∧ k = .deposit ∨ c = .withdraw ∧ k = .withdraw →
      TakenAs s p w k none → s.safe.lock.doorStands = false → Yields (c p) s fun u =>
        u.safe = s.safe ∧ u.bags = s.bags ∧ Answered s u p w .doorShut (num s.safe.lock.code)) ∧
    (∀ (c : Port → Instr) (k : JobKind) (op : SafeOp) (l : LastOp),
      c = .drop ∧ k = .drop ∧ op = .drop ∧ s.safe.lock.chuteWorks = true ∨
      c = .deposit ∧ k = .deposit ∧ op = .deposit ∧ s.safe.lock.doorStands = true ∨
      c = .withdraw ∧ k = .withdraw ∧ op = .withdraw ∧ s.safe.lock.doorStands = true →
      TakenAs s p w k none → s.safe.last = some l → l.op = op → l.sealNo = n → l.node = w.frame.src →
      bagIn s n l.state = true → Yields (c p) s fun u =>
        u.safe = s.safe ∧ u.bags = s.bags ∧ Answered s u p w .duplicate (some l.detail)) ∧
    (∀ (c : Port → Instr) (k : JobKind) (op : SafeOp) (b : Bag),
      c = .drop ∧ k = .drop ∧ op = .drop ∧ s.safe.lock.chuteWorks = true ∧ b.kind.counted = true ∧
        (b.state = .sealed ∨ b.state = .received) ∨
      c = .deposit ∧ k = .deposit ∧ op = .deposit ∧ s.safe.lock.doorStands = true ∧
        (b.state = .hatchHeld ∨ b.kind.counted = true ∧ (b.state = .sealed ∨ b.state = .received ∨ b.state = .outForCount) ∨
          b.kind.counted = false ∧ b.state = .madeUp ∨ b.kind = .consignment ∧ b.state = .inHandling) →
      TakenAs s p w k none → repeatOf op n w.frame.src s = none → findBag s n = some b → 120 ≤ s.safe.inventory.length →
      Yields (c p) s fun u =>
        u.safe = s.safe ∧ u.bags = s.bags ∧ (u.event .safeFull).pending = true ∧
        (u.event .safeFull).detail = BitVec.ofNat 32 n ∧ Answered s u p w .safeFull none) ∧
    (TakenAs s p w .drop none → s.safe.lock.chuteWorks = true →
      (findBag s n = none → Yields (.drop p) s fun u => unchangedBut Part.answerParts s u ∧ eventsBut [.chuteHeld] s u ∧
        u.event .chuteHeld = raisedIf true .chuteHeld n s ∧ Answered s u p w .unknownBag none) ∧
      ∀ b, findBag s n = some b → repeatOf .drop n w.frame.src s = none →
        (b.kind.counted = false ∨ b.state ≠ .sealed ∧ b.state ≠ .received) → RefusedFrame .drop s p w .wrongBagState none) ∧
    (TakenAs s p w .deposit none → s.safe.lock.doorStands = true →
      (findBag s n = none → RefusedFrame .deposit s p w .unknownBag none) ∧
      ∀ b, findBag s n = some b → repeatOf .deposit n w.frame.src s = none → b.state ≠ .hatchHeld →
        (b.kind.counted = true → b.state ≠ .sealed ∧ b.state ≠ .received ∧ b.state ≠ .outForCount) →
        (b.kind.counted = false → b.state ≠ .madeUp) → (b.kind = .consignment → b.state ≠ .inHandling) →
        RefusedFrame .deposit s p w .wrongBagState none) ∧
    (TakenAs s p w .withdraw none → s.safe.lock.doorStands = true →
      (findBag s n = none → RefusedFrame .withdraw s p w .unknownBag (num n)) ∧
      ∀ b, findBag s n = some b → repeatOf .withdraw n w.frame.src s = none →
        (b.state ≠ .inSafe → RefusedFrame .withdraw s p w .wrongBagState (num n)) ∧
        ∀ i, b.state = .inSafe → b.kind = .consignment → b.pin = some i → (s.call.phase = .idle ∨ s.call.slot ≠ some i) →
          RefusedFrame .withdraw s p w .pinned (num n))) ∧
  (∀ x ∈ [(JobKind.drop, Instr.drop), (.deposit, .deposit), (.withdraw, .withdraw)], ∀ (p : Port) (s : State) (w : Window),
    TakenAs s p w x.1 none → w.frame.body.length ≠ 4 → RefusedFrame x.2 s p w .malformed none) ∧
  ∀ (p : Port) (s : State) (w : Window) (n : Nat) (b : Bag), parseSeal w.frame.body = some n → findBag s n = some b →
    (TakenAs s p w .drop none → s.safe.lock.chuteWorks = true → repeatOf .drop n w.frame.src s = none → b.kind.counted = true →
      b.state = .sealed ∨ b.state = .received → s.safe.inventory.length < 120 → Yields (.drop p) s fun u =>
        findBag u n = some { b with state := .inSafe, entered := s.seconds } ∧
        u.safe.inventory = s.safe.inventory ++ [{ sealNo := n, way := .chute, second := s.seconds }] ∧
        repeatOf .drop n w.frame.src u = num (s.safe.inventory.length + 1) ∧
        Answered s u p w .accepted (num (s.safe.inventory.length + 1))) ∧
    (TakenAs s p w .deposit none → s.safe.lock.doorStands = true → repeatOf .deposit n w.frame.src s = none →
      (b.state = .hatchHeld ∨ b.kind.counted = true ∧ (b.state = .sealed ∨ b.state = .received ∨ b.state = .outForCount) ∨
        b.kind.counted = false ∧ b.state = .madeUp ∨ b.kind = .consignment ∧ b.state = .inHandling) →
      s.safe.inventory.length < 120 → Yields (.deposit p) s fun u =>
        findBag u n = some { b with
          state := .inSafe, entered := s.seconds, pin := if b.state = .hatchHeld then none else b.pin } ∧
        u.safe.inventory = s.safe.inventory ++ [{ sealNo := n, way := .door, second := s.seconds }] ∧
        repeatOf .deposit n w.frame.src u = num (s.safe.inventory.length + 1) ∧
        Answered s u p w .accepted (num (s.safe.inventory.length + 1))) ∧
    (∀ st : BagState, TakenAs s p w .withdraw none → s.safe.lock.doorStands = true →
      repeatOf .withdraw n w.frame.src s = none → b.state = .inSafe →
      (b.kind.counted = true ∧ st = .outForCount ∨ b.kind = .floatBag ∧ st = .madeUp ∨
        b.kind = .consignment ∧ b.pin = none ∧ st = .madeUp ∨
        b.kind = .consignment ∧ st = .inHandling ∧ s.call.phase ≠ .idle ∧ ∃ i, b.pin = some i ∧ s.call.slot = some i) →
      Yields (.withdraw p) s fun u =>
        findBag u n = some { b with state := st, entered := s.seconds } ∧
        u.safe.inventory = s.safe.inventory.filter (fun e => !decide (e.sealNo = n)) ∧
        repeatOf .withdraw n w.frame.src u = num st.code ∧ Answered s u p w .accepted (num st.code))

/-- The door switch and the three frames of opening by right: the lock, its timer, the command to the bolt and the answer; the command is placed behind what waits in
the Room Port's queue, and not owed, exactly where a place is FREE and a SAFE node is enabled. And over all commands: a lock that a command leaves UNLOCKED was
UNLOCKED, or WINDOW with an OPEN_CONFIRM marked in a port's window whose marks give a witness pair, taken by its own command, by one that ends its window
as an error, or by RESTART (where the frame of the other port, an OPEN_REQUEST, may have brought WINDOW in the same taking) (R85, R86, R88, R89, R91, R93). Refused, with nothing
changed: an OPEN_REQUEST outside LOCKED with BUSY, an OPEN_CANCEL outside DELAY and WINDOW and an OPEN_CONFIRM with its witnesses outside WINDOW with WRONG_LOCK_STATE, each with the
lock state; a DOOR that is neither report with MALFORMED (R91). That a body where none belongs is MALFORMED is log entry 7; no rule states the details of these two
(log entry 4). -/
def Obligations.LockFrames : Prop :=
  (∀ (c : Instr) (s t : State), exec c s = .next t → t.safe.lock = .unlocked → s.safe.lock ≠ .unlocked →
    ∃ (p : Port) (w : Window) (pair : Byte × Byte), markedWindow s p = some w ∧ inspectForm (w.taken p) s = .ok .openConfirm ∧
      w.frame.body = [] ∧ witnessPair s s.witness[4] (w.taken p) = some pair ∧
      (c = .openConfirm p ∧ s.safe.lock = .window ∨ endsWindow p c ∧ s.safe.lock = .window ∨
        c = .restart ∧ (s.safe.lock = .window ∨ s.safe.lock = .locked ∧
          ∃ (q : Port) (v : Window), q ≠ p ∧ markedWindow s q = some v ∧ inspectForm (v.taken q) s = .ok .openRequest))) ∧
  ∀ (p : Port) (s : State) (w : Window),
    (TakenAs s p w .door none → w.frame.body = [0#8] → Yields (.doorOpen p) s fun u =>
      (s.safe.lock = .unlocked → u.safe.lock = .opened ∧ u.safe.timer = none) ∧
      (s.safe.lock = .opened ∨ s.safe.lock = .openForced → u.safe.lock = s.safe.lock) ∧
      (s.safe.lock.chuteWorks = true → u.safe.lock = .openForced ∧ u.safe.timer = none ∧
        (u.event .doorForced).pending = true ∧ (u.event .doorForced).detail = BitVec.ofNat 32 s.safe.lock.code) ∧
      Answered s u p w .accepted (num u.safe.lock.code)) ∧
    (TakenAs s p w .door none → w.frame.body = [1#8] → Yields (.doorClosed p) s fun u =>
      (s.safe.lock.doorStands = true → u.safe.lock = .locked ∧ u.safe.timer = none ∧ u.safe.commanded = .lock ∧
        CommandGoes s u s.room.out .lock) ∧
      (s.safe.lock.doorStands = false → u.safe = s.safe) ∧ Answered s u p w .accepted (num u.safe.lock.code)) ∧
    (∀ (pair : Byte × Byte) (kind : DelayKind) (length : Nat), TakenAs s p w .openRequest (some pair) → w.frame.body = [] →
      s.safe.lock = .locked →
      (s.call.phase = .exchange ∧ kind = .courier ∧ length = s.timing.courierDelay ∨
        s.call.phase ≠ .exchange ∧ s.day.state = .night ∧ kind = .night ∧ length = s.timing.nightDelay ∨
        s.call.phase ≠ .exchange ∧ s.day.state ≠ .night ∧ kind = .day ∧ length = s.timing.dayDelay) →
      Yields (.openRequest p) s fun u =>
        u.safe.delayKind = kind ∧ u.safe.lock = (if length = 0 then .window else .delay) ∧
        u.safe.timer = some (s.seconds + if length = 0 then s.timing.openWindow else length) ∧
        Answered s u p w .accepted (num length)) ∧
    (TakenAs s p w .openCancel none → w.frame.body = [] → s.safe.lock = .delay ∨ s.safe.lock = .window →
      Yields (.openCancel p) s fun u =>
        u.safe.lock = .locked ∧ u.safe.timer = none ∧ u.safe.failed = s.safe.failed ∧ Answered s u p w .accepted none) ∧
    (∀ pair : Byte × Byte, TakenAs s p w .openConfirm (some pair) → w.frame.body = [] → s.safe.lock = .window →
      Yields (.openConfirm p) s fun u =>
        u.safe.lock = .unlocked ∧ u.safe.timer = some (s.seconds + s.timing.relockTime) ∧ u.safe.failed = 0 ∧
        CommandGoes s u s.room.out .unlock ∧ Answered s u p w .accepted (num s.timing.relockTime)) ∧
    (TakenAs s p w .door none → w.frame.body ≠ [0#8] → w.frame.body ≠ [1#8] → RefusedFrame .doorOpen s p w .malformed none) ∧
    (TakenAs s p w .openCancel none →
      (w.frame.body ≠ [] → RefusedFrame .openCancel s p w .malformed none) ∧
      (w.frame.body = [] → s.safe.lock ≠ .delay → s.safe.lock ≠ .window →
        RefusedFrame .openCancel s p w .wrongLockState (num s.safe.lock.code))) ∧
    ∀ pair : Byte × Byte,
      (TakenAs s p w .openRequest (some pair) →
        (w.frame.body ≠ [] → RefusedFrame .openRequest s p w .malformed none) ∧
        (w.frame.body = [] → s.safe.lock ≠ .locked → RefusedFrame .openRequest s p w .busy (num s.safe.lock.code))) ∧
      (TakenAs s p w .openConfirm (some pair) →
        (w.frame.body ≠ [] → RefusedFrame .openConfirm s p w .malformed none) ∧
        (w.frame.body = [] → s.safe.lock ≠ .window → RefusedFrame .openConfirm s p w .wrongLockState (num s.safe.lock.code)))

/-- An OPEN_CONFIRM whose witness marks fail: counted in WINDOW up to 9, at the limit LOCKOUT with SAFE_LOCKOUT and a LOCK commanded; in any
other lock state only refused (R90, R93). The LOCK is placed behind what waits where a place is FREE and a SAFE node is enabled, and owed where not. Outside WINDOW the detail of
WITNESS_MISSING is that of step 6 of R173, the number of marks that qualified; that a mark with the role and another till's number is not counted where the same-till flag is set is
the model's reading (log entry 23). -/
def Obligations.ConfirmFailures : Prop :=
  ∀ (p : Port) (s : State) (w : Window), MarkedAt s p w → inspectForm (w.taken p) s = .ok .openConfirm →
    witnessPair s s.witness[4] (w.taken p) = none →
    let failed := min 9 (s.safe.failed + 1)
    (s.safe.lock = .window → failed < s.timing.confirmLimit →
      Yields (.openConfirm p) s fun u => u.safe = { s.safe with failed := failed } ∧
        Answered s u p w .witnessMissing (num failed)) ∧
    (s.safe.lock = .window → s.timing.confirmLimit ≤ failed →
      Yields (.openConfirm p) s fun u => u.safe.lock = .lockout ∧ u.safe.timer = none ∧ u.safe.failed = failed ∧
        CommandGoes s u s.room.out .lock ∧ (u.event .safeLockout).pending = true ∧ (u.event .safeLockout).detail = BitVec.ofNat 32 failed ∧
        Answered s u p w .lockout (num failed)) ∧
    (s.safe.lock ≠ .window → Yields (.openConfirm p) s fun u => u.safe = s.safe ∧
      Answered s u p w .witnessMissing (num (qualified s s.witness[4] (w.taken p))))

/-! ## Results of the count frames -/

/-- BAG_OPEN, BATCH, HAND_KEY and COUNT_ABORT on a count session, applied and refused (R100, R101, R102, R103, R104, R105, R109). BAG_OPEN: the repeat, answered with the unsigned
flag; SESSION_BUSY with the session's bag; to an IDLE session PINNED, UNKNOWN_BAG and WRONG_BAG_STATE with the seal (no record is COUNT_SUSPENDED for a session that is IDLE: CountsMatch, an
invariant). BATCH and HAND_KEY: the checks of R104 and R105 in their order, with their details. COUNT_ABORT: ACCEPTED with 0 for an IDLE session, SESSION_BUSY from another counter while
COUNTING. A session number above 3 is MALFORMED with the number. A refused frame changes nothing but the idle timer, which restarts where the frame acts on a COUNTING session (R103). That a body of
another length is MALFORMED, its detail free, and which of these restart the timer, is log entry 7; that parseHandKey reads the two low bits of the flag byte and ignores the others is log entry 17. -/
def Obligations.CountFrames : Prop :=
  ∀ (p : Port) (s : State) (w : Window) (x : Fin 4),
    (∀ (n : Nat) (b : Bag), TakenAs s p w .bagOpen none → slotOf s w.frame.src = x → parseSeal w.frame.body = some n →
      findBag s n = some b →
      (s.sessions[x].state = .idle → b.pin = none → b.state = .outForCount → Yields (.bagOpen p) s fun u =>
        u.sessions[x] = { Session.reset with
          state := .counting, bag := n, kind := b.kind, declared := b.declared, node := w.frame.src
          timer := some (s.seconds + s.timing.idleTimeout) } ∧
        findBag u n = some { b with state := .counting, entered := s.seconds, session := some x } ∧
        Answered s u p w .accepted (num b.unsigned.toNat)) ∧
      (s.sessions[x].state = .suspended → s.sessions[x].bag = n → b.pin = none → b.state = .countSuspended →
        b.session = some x → Yields (.bagOpen p) s fun u =>
          u.sessions[x] = { s.sessions[x] with
            state := .counting, node := w.frame.src, timer := some (s.seconds + s.timing.idleTimeout) } ∧
          findBag u n = some { b with state := .counting, entered := s.seconds } ∧
          Answered s u p w .accepted (num b.unsigned.toNat))) ∧
    (TakenAs s p w .bagOpen none → slotOf s w.frame.src = x →
      let refused := RefusedFrame .bagOpen s p w
      (w.frame.body.length ≠ 4 → refused .malformed none) ∧
      ∀ n : Nat, parseSeal w.frame.body = some n →
        (s.sessions[x].state = .idle →
          (findBag s n = none → refused .unknownBag (num n)) ∧
          ∀ b, findBag s n = some b →
            (b.pin ≠ none → refused .pinned (num n)) ∧
            (b.pin = none → b.state ≠ .outForCount → (b.state = .countSuspended → b.session ≠ some x) →
              refused .wrongBagState (num n))) ∧
        (∀ b, s.sessions[x].state = .counting → s.sessions[x].bag = n → s.sessions[x].node = w.frame.src → findBag s n = some b →
          CountsNothing .bagOpen s p w x True .accepted (num b.unsigned.toNat)) ∧
        (s.sessions[x].state = .counting → (s.sessions[x].bag ≠ n ∨ s.sessions[x].node ≠ w.frame.src) →
          refused .sessionBusy (num s.sessions[x].bag)) ∧
        (s.sessions[x].state = .suspended → s.sessions[x].bag ≠ n → refused .sessionBusy (num s.sessions[x].bag))) ∧
    (∀ (c : Fin 12) (a m r : Nat), TakenAs s p w .batch none → slotOf s w.frame.src = x →
      parseBatch w.frame.body = some (c.val, a, m, r) → a ≤ 500 → m ≤ 500 → r ≤ 500 → s.sessions[x].state = .counting →
      s.sessions[x].node = w.frame.src → s.denoms[c].enabled = true → s.denoms[c].kind = .note →
      s.sessions[x].accepted[c] + a ≤ 65535 → s.sessions[x].suspect[c] + m ≤ 65535 → s.sessions[x].rejected[c] + r ≤ 65535 →
      s.sessions[x].unresolved + r ≤ 65535 → s.sessions[x].total + (a + m) * s.denoms[c].face ≤ 999999999 →
      Yields (.batch p) s fun u =>
        u.sessions[x] = { s.sessions[x] with
          accepted := put s.sessions[x].accepted c (s.sessions[x].accepted[c] + a)
          suspect := put s.sessions[x].suspect c (s.sessions[x].suspect[c] + m)
          rejected := put s.sessions[x].rejected c (s.sessions[x].rejected[c] + r)
          unresolved := s.sessions[x].unresolved + r
          total := s.sessions[x].total + (a + m) * s.denoms[c].face
          timer := some (s.seconds + s.timing.idleTimeout) } ∧
        Answered s u p w .accepted (num (s.sessions[x].total + (a + m) * s.denoms[c].face))) ∧
    (TakenAs s p w .batch none → slotOf s w.frame.src = x →
      let acts := s.sessions[x].state = .counting ∧ s.sessions[x].node = w.frame.src
      let refused := CountsNothing .batch s p w x acts
      (w.frame.body.length ≠ 7 → refused .malformed none) ∧
      ∀ k a m r : Nat, parseBatch w.frame.body = some (k, a, m, r) →
        (500 < a ∨ 500 < m ∨ 500 < r → refused .malformed (num 0)) ∧
        (a ≤ 500 → m ≤ 500 → r ≤ 500 →
          (s.sessions[x].state ≠ .counting → refused .wrongBagState (num s.sessions[x].state.code)) ∧
          (s.sessions[x].state = .counting → s.sessions[x].node ≠ w.frame.src → refused .sessionBusy (num s.sessions[x].bag)) ∧
          (acts → (∀ c : Fin 12, c.val = k → s.denoms[c].enabled = false ∨ s.denoms[c].kind ≠ .note) →
            refused .malformed (num k)) ∧
          ∀ c : Fin 12, c.val = k → acts → s.denoms[c].enabled = true → s.denoms[c].kind = .note →
            let passed := 65535 < s.sessions[x].accepted[c] + a ∨ 65535 < s.sessions[x].suspect[c] + m ∨
              65535 < s.sessions[x].rejected[c] + r ∨ 65535 < s.sessions[x].unresolved + r
            (passed → refused .countLimit (num k)) ∧
            (¬passed → 999999999 < s.sessions[x].total + (a + m) * s.denoms[c].face →
              refused .valueRange (num s.sessions[x].total)))) ∧
    (∀ (c : Fin 12) (n : Nat) (resolves outSuspect : Bool), TakenAs s p w .handKey none →
      parseHandKey w.frame.body = some (x.val, c.val, n, resolves, outSuspect) → (outSuspect = true → resolves = true) →
      s.denoms[c].enabled = true → (resolves = true → s.denoms[c].kind = .note ∧ n ≤ s.sessions[x].unresolved) →
      s.sessions[x].state = .counting →
      (if outSuspect then s.sessions[x].suspect[c] else s.sessions[x].accepted[c]) + n ≤ 65535 →
      s.sessions[x].total + n * s.denoms[c].face ≤ 999999999 → Yields (.handKey p) s fun u =>
        u.sessions[x] = { s.sessions[x] with
          accepted := if outSuspect then s.sessions[x].accepted
            else put s.sessions[x].accepted c (s.sessions[x].accepted[c] + n)
          suspect := if outSuspect then put s.sessions[x].suspect c (s.sessions[x].suspect[c] + n)
            else s.sessions[x].suspect
          unresolved := if resolves then s.sessions[x].unresolved - n else s.sessions[x].unresolved
          total := s.sessions[x].total + n * s.denoms[c].face
          timer := some (s.seconds + s.timing.idleTimeout) } ∧
        Answered s u p w .accepted (num u.sessions[x].unresolved)) ∧
    (TakenAs s p w .handKey none →
      let refused := CountsNothing .handKey s p w x (s.sessions[x].state = .counting)
      (w.frame.body.length ≠ 5 → RefusedFrame .handKey s p w .malformed none) ∧
      ∀ (i k n : Nat) (resolves outSuspect : Bool), parseHandKey w.frame.body = some (i, k, n, resolves, outSuspect) →
        (4 ≤ i → RefusedFrame .handKey s p w .malformed (num i)) ∧
        (i = x.val → outSuspect = true → resolves = false → refused .malformed (num 0)) ∧
        (i = x.val → (outSuspect = true → resolves = true) →
          ((∀ c : Fin 12, c.val = k → s.denoms[c].enabled = false) → refused .malformed (num k)) ∧
          ∀ c : Fin 12, c.val = k → s.denoms[c].enabled = true →
            (resolves = true → s.denoms[c].kind ≠ .note → refused .malformed (num k)) ∧
            ((resolves = true → s.denoms[c].kind = .note) →
              (s.sessions[x].state ≠ .counting → refused .wrongBagState (num s.sessions[x].state.code)) ∧
              (s.sessions[x].state = .counting → resolves = true → s.sessions[x].unresolved < n →
                refused .rejectsExceeded (num s.sessions[x].unresolved)) ∧
              (s.sessions[x].state = .counting → (resolves = true → n ≤ s.sessions[x].unresolved) →
                let count := (if outSuspect then s.sessions[x].suspect[c] else s.sessions[x].accepted[c]) + n
                (65535 < count → refused .countLimit (num k)) ∧
                (count ≤ 65535 → 999999999 < s.sessions[x].total + n * s.denoms[c].face →
                  refused .valueRange (num s.sessions[x].total)))))) ∧
    (∀ b : Bag, TakenAs s p w .countAbort none →
      (roleOf s w.frame.src = some .console ∧ parseSessionNumber w.frame.body = some x.val ∨
        roleOf s w.frame.src = some .counter ∧ w.frame.body = [] ∧ slotOf s w.frame.src = x ∧
          (s.sessions[x].state = .counting → s.sessions[x].node = w.frame.src)) →
      s.sessions[x].state ≠ .idle → findBag s s.sessions[x].bag = some b → b.state = .counting ∨ b.state = .countSuspended →
      b.session = some x → Yields (.countAbort p) s fun u =>
        u.sessions[x] = Session.reset ∧
        findBag u s.sessions[x].bag = some { b with state := .outForCount, entered := s.seconds, session := none } ∧
        u.stock = s.stock ∧ u.tallies = s.tallies ∧ Answered s u p w .accepted (num s.sessions[x].bag)) ∧
    (TakenAs s p w .countAbort none →
      let refused := RefusedFrame .countAbort s p w
      (roleOf s w.frame.src = some .counter → w.frame.body ≠ [] → refused .malformed none) ∧
      (roleOf s w.frame.src = some .console → w.frame.body.length ≠ 1 → refused .malformed none) ∧
      (∀ i, roleOf s w.frame.src = some .console → parseSessionNumber w.frame.body = some i → 4 ≤ i → refused .malformed (num i)) ∧
      ((roleOf s w.frame.src = some .console ∧ parseSessionNumber w.frame.body = some x.val ∨
        roleOf s w.frame.src = some .counter ∧ w.frame.body = [] ∧ slotOf s w.frame.src = x) →
          s.sessions[x].state = .idle → refused .accepted (num 0)) ∧
      (roleOf s w.frame.src = some .counter → w.frame.body = [] → slotOf s w.frame.src = x → s.sessions[x].state = .counting →
        s.sessions[x].node ≠ w.frame.src → refused .sessionBusy (num s.sessions[x].bag)))

/-- BAG_CLOSE that passes its checks: accepted counts into stock, suspect counts into the hold, the value counted in, the bag COUNTED with its
figures, the variance at the drawer on the bag's own day, every tally, the events and the session (R13, R36, R56, R106, R107, R108, R111). That a code with an accepted count of 0 keeps its
loose count as it stands, carried or not, is log entry 10. Refused, in the order of R106: WRONG_BAG_STATE with the session's state, SESSION_BUSY with its bag, REJECTS_OPEN with the unresolved rejects,
COUNT_LIMIT with the first code in face order that R13 refuses, one whose suspect hold alone would pass its top among them (log entry 23); no count changes then, and the idle timer of a
COUNTING session restarts where its counter node sent the frame (R103). That a body that is not empty is MALFORMED, with the same timer and a free detail, is log entry 7. -/
def Obligations.BagCloseResult : Prop :=
  ∀ (p : Port) (s : State) (w : Window) (x : Fin 4), TakenAs s p w .bagClose none → slotOf s w.frame.src = x →
    let acts := s.sessions[x].state = .counting ∧ s.sessions[x].node = w.frame.src
    let refused := CountsNothing .bagClose s p w x acts
    let passes := fun c : Fin 12 => additionRefused s.denoms[c] s.stock[c] s.sessions[x].accepted[c] = false ∧
      s.stock[c].suspect + s.sessions[x].suspect[c] ≤ 4294967295
    (w.frame.body ≠ [] → refused .malformed none) ∧
    (w.frame.body = [] → s.sessions[x].state ≠ .counting → refused .wrongBagState (num s.sessions[x].state.code)) ∧
    (w.frame.body = [] → s.sessions[x].state = .counting → s.sessions[x].node ≠ w.frame.src →
      refused .sessionBusy (num s.sessions[x].bag)) ∧
    (w.frame.body = [] → acts → 0 < s.sessions[x].unresolved → refused .rejectsOpen (num s.sessions[x].unresolved)) ∧
    (∀ before c after, w.frame.body = [] → acts → s.sessions[x].unresolved = 0 → stockOrder s = before ++ c :: after →
      (∀ k ∈ before, passes k) → ¬passes c → refused .countLimit (num c.val)) ∧
    ∀ b : Bag, w.frame.body = [] → acts → s.sessions[x].unresolved = 0 → findBag s s.sessions[x].bag = some b → b.state = .counting →
    b.session = some x → (∀ c : Fin 12, passes c) → Yields (.bagClose p) s fun u =>
      let v := s.sessions[x]
      let variance : Int := (s.valueOf v.accepted : Int) + s.valueOf v.suspect - v.declared
      let cls := if variance.natAbs ≤ s.timing.tolerance v.kind then BagClass.balanced
        else if 0 < variance then BagClass.over else BagClass.short
      u.sessions[x] = Session.reset ∧
      (∀ c : Fin 12, u.stock[c] =
        { addPieces s.denoms[c] s.stock[c] v.accepted[c] with suspect := s.stock[c].suspect + v.suspect[c] }) ∧
      u.acc.countedIn = min 4294967295 (s.acc.countedIn + s.valueOf v.accepted) ∧
      (s.day.state ≠ .closing → findBag u v.bag = some { b with
        state := .counted, entered := s.seconds, session := none, counted := some (s.valueOf v.accepted)
        suspect := some (s.valueOf v.suspect), variance := some variance, cls := some cls }) ∧
      (∀ t : Fin 160, u.drawers[t].countVariance =
        if b.till = some t ∧ (b.kind = .pickup ∨ b.kind = .cashup) ∧ b.day = s.day.number then
          max Config.low31 (min Config.high31 (s.drawers[t].countVariance + variance))
        else s.drawers[t].countVariance) ∧
      (∀ (g : TallyGroup) (c : Fin 12), u.tally g c = (s.tally g c).add s.timing.groups[g.row].mode (v.groupCounts g)[c]) ∧
      (cls ≠ .balanced → (u.event .bagVariance).pending = true ∧
        (u.event .bagVariance).detail = BitVec.ofNat 32 v.bag) ∧
      (0 < s.valueOf v.suspect → (u.event .suspectFound).pending = true) ∧
      Answered s u p w .accepted (signed variance)

/-! ## Results of the handover frames -/

/-- ANNOUNCE, LOAD and RECEIVE of a call, taken and refused: every refusal but that of a wrong courier changes nothing; a body of another length is refused MALFORMED
by log entry 7. A wrong courier at the limit returns the head, and the missed-window check moves ring and next pointer on; every other descriptor stays
(R123, R125, R126, R127, R129, R130, R137). That the detail of the REFUSED_COURIER that reaches the limit is the raised count, and not
the 0 which the return of the head leaves in the same taking, is the model's choice (log entry 23). -/
def Obligations.CallFrames : Prop :=
  ∀ (p : Port) (s : State) (w : Window),
    (TakenAs s p w .announce none → s.call.phase = .idle → (∀ b ∈ s.bags, b.state ≠ .hatchHeld) → s.head.owner = .part →
      s.head.windowStart ≤ s.day.clock → s.day.clock ≤ s.head.windowEnd → parseAnnounce w.frame.body = some s.head.courier →
      Yields (.announce p) s fun u =>
        u.call = { next := s.call.next, refused := 0, slot := some s.call.next
                   phase := if s.head.outbound = [] then .signing else .exchange
                   timer := some (s.seconds +
                     if s.head.outbound = [] then s.timing.signTimeout else s.timing.exchangeTimeout) } ∧ u.ring = s.ring ∧
        Answered s u p w .accepted (num s.head.number)) ∧
    (∀ id : Nat, TakenAs s p w .announce none → s.call.phase = .idle → (∀ b ∈ s.bags, b.state ≠ .hatchHeld) →
      s.head.owner = .part → s.head.windowStart ≤ s.day.clock → s.day.clock ≤ s.head.windowEnd →
      parseAnnounce w.frame.body = some id → id ≠ s.head.courier → s.call.refused < 9 → Yields (.announce p) s fun u =>
        (s.call.refused + 1 < s.timing.courierLimit → u.call = { s.call with refused := s.call.refused + 1 } ∧
          u.ring = s.ring) ∧
        (s.timing.courierLimit ≤ s.call.refused + 1 →
          u.ring[s.call.next].owner = .office ∧ u.ring[s.call.next].result = .refusedCourier ∧ u.call.refused = 0 ∧
          u.event .handoverAborted = raisedIf true .handoverAborted s.call.next.val s ∧
          (let back := (s.setRing (put s.ring s.call.next
              { s.head with owner := .office, result := .refusedCourier, second := some s.seconds })).setCall
              { s.call with next := s.call.next + 1, refused := 0 }
           u.ring = (missedCheck back).ring ∧ u.call = (missedCheck back).call ∧
            u.event .windowMissed = (missedCheck back).event .windowMissed)) ∧
        Answered s u p w .refusedCourier (num (s.call.refused + 1))) ∧
    (TakenAs s p w .announce none →
      let refused := RefusedFrame .announce s p w
      (parseAnnounce w.frame.body = none → refused .malformed none) ∧
      ∀ id : Nat, parseAnnounce w.frame.body = some id →
        (∀ i, s.call.phase ≠ .idle → s.call.slot = some i →
          refused (if id = s.ring[i].courier then .duplicate else .sessionBusy) (num i.val)) ∧
        (s.call.phase = .idle →
          (∀ before b after, s.bags = before ++ b :: after → b.state = .hatchHeld → (∀ x ∈ before, x.state ≠ .hatchHeld) →
            refused .hatchNotClear (num b.sealNo)) ∧
          ((∀ b ∈ s.bags, b.state ≠ .hatchHeld) →
            (s.head.owner = .office → refused .noSession (num s.call.next.val)) ∧
            (s.head.owner = .part → s.day.clock < s.head.windowStart ∨ s.head.windowEnd < s.day.clock →
              refused .outOfWindow (num s.day.clock))))) ∧
    (TakenAs s p w .load none →
      let refused := RefusedFrame .load s p w
      (parseSeal w.frame.body = none → refused .malformed none) ∧
      ∀ n : Nat, parseSeal w.frame.body = some n →
        (s.call.phase = .idle → refused .noSession (num s.call.next.val)) ∧
        ∀ i, s.call.phase ≠ .idle → s.call.slot = some i →
          (n ∉ s.ring[i].outbound → refused .notInConsignment (num n)) ∧
          (n ∈ s.ring[i].outbound →
            (bagIn s n .loaded = true →
              refused .duplicate (num (s.ring[i].outbound.filter fun m => !bagIn s m .loaded).length)) ∧
            (findBag s n = none → refused .unknownBag (num n)) ∧
            (∀ b, findBag s n = some b → b.state ≠ .loaded → b.state ≠ .inHandling → refused .wrongBagState (num n)))) ∧
    (TakenAs s p w .receive none →
      let refused := RefusedFrame .receive s p w
      (parseReceive w.frame.body = none → refused .malformed none) ∧
      ∀ n v : Nat, parseReceive w.frame.body = some (n, v) →
        (s.call.phase = .idle → refused .noSession (num s.call.next.val)) ∧
        ∀ i, s.call.phase ≠ .idle → s.call.slot = some i →
          let again := n ∈ s.ring[i].received ∧ ∃ b, findBag s n = some b ∧ b.kind = .inbound ∧ b.declared = v
          (again → refused .duplicate (num s.ring[i].received.length)) ∧
          (¬again → 12 ≤ s.ring[i].received.length → refused .inboundFull (num 12)) ∧
          (¬again → s.ring[i].received.length < 12 →
            (n = 0 ∨ v = 0 → refused .malformed (num n)) ∧
            (n ≠ 0 → 999999999 < v → refused .valueRange (num n)) ∧
            (n ≠ 0 → v ≠ 0 → v ≤ 999999999 → findBag s n ≠ none → refused .sealInUse (num n)) ∧
            (n ≠ 0 → v ≠ 0 → v ≤ 999999999 → findBag s n = none → 512 ≤ s.bags.length → refused .registerFull (num n)))) ∧
    (∀ (i : Fin 16) (n : Nat) (b : Bag), TakenAs s p w .load none → s.call.phase ≠ .idle → s.call.slot = some i →
      parseSeal w.frame.body = some n → n ∈ s.ring[i].outbound → findBag s n = some b → b.state = .inHandling →
      Yields (.load p) s fun u =>
        findBag u n = some { b with state := .loaded, entered := s.seconds } ∧ u.ring = s.ring ∧
        ((∀ m ∈ s.ring[i].outbound, bagIn u m .loaded = true) → u.call.phase = .signing ∧
          u.call.timer = some (s.seconds + s.timing.signTimeout)) ∧
        (¬(∀ m ∈ s.ring[i].outbound, bagIn u m .loaded = true) → u.call = s.call) ∧
        Answered s u p w .accepted (num (s.ring[i].outbound.filter fun m => !bagIn u m .loaded).length)) ∧
    (∀ (i : Fin 16) (n v : Nat), TakenAs s p w .receive none → s.call.phase ≠ .idle → s.call.slot = some i →
      parseReceive w.frame.body = some (n, v) → s.ring[i].received.length < 12 → Creatable s n v →
      Yields (.receive p) s fun u =>
        findBag u n = some (newBag s .inbound .received n v none none none) ∧
        u.ring = put s.ring i { s.ring[i] with received := s.ring[i].received ++ [n] } ∧ u.call = s.call ∧
        Answered s u p w .accepted (num (s.ring[i].received.length + 1)))

/-- SIGN in SIGNING: the LOADED bags of the slot are HANDED_OVER, the descriptor goes back with its result and its two marks, the session is IDLE, and the missed-window
check moves ring and next pointer on; every other descriptor stays. In EXCHANGE and with no session it is refused NOT_LOADED or NO_SESSION, and changes nothing
(R123, R131, R132, R137); a body that is not empty is refused MALFORMED by log entry 7. That a received seal
without a record adds 0 to the received value, and that a seal received twice counts twice, is log entry 27. -/
def Obligations.SignResult : Prop :=
  ∀ (p : Port) (s : State) (w : Window) (pair : Byte × Byte) (i : Fin 16), TakenAs s p w .sign (some pair) →
    (w.frame.body ≠ [] → RefusedFrame .sign s p w .malformed none) ∧
    (w.frame.body = [] → s.call.phase = .idle → RefusedFrame .sign s p w .noSession (num s.call.next.val)) ∧
    (w.frame.body = [] → s.call.phase = .exchange → s.call.slot = some i →
      RefusedFrame .sign s p w .notLoaded (num (s.ring[i].outbound.filter fun m => !bagIn s m .loaded).length)) ∧
    (w.frame.body = [] → s.call.phase = .signing → s.call.slot = some i → Yields (.sign p) s fun u =>
      let result := if s.ring[i].received.length = s.ring[i].inboundCount ∧
        (s.ring[i].received.map (declaredOf s)).sum = s.ring[i].inboundValue then CallResult.done else CallResult.doneVariance
      u.ring[i] = { s.ring[i] with
        owner := .office, result := result, second := some s.seconds, supervisor := some pair.1
        courierMark := some pair.2 } ∧
      u.call.phase = .idle ∧ u.call.slot = none ∧ u.call.timer = none ∧
      (let back := (s.setRing (put s.ring i { s.ring[i] with
          owner := .office, result := result, second := some s.seconds, supervisor := some pair.1
          courierMark := some pair.2 })).setCall
          { next := s.call.next + 1, refused := 0, phase := .idle, slot := none, timer := none }
       u.ring = (missedCheck back).ring ∧ u.call = (missedCheck back).call ∧
        u.event .windowMissed = (missedCheck back).event .windowMissed) ∧
      (u.event .handoverDone).pending = true ∧ (u.event .handoverDone).detail = BitVec.ofNat 32 i.val ∧
      (result = .doneVariance → (u.event .inboundVariance).pending = true) ∧
      (s.day.state ≠ .closing → ∀ n ∈ s.ring[i].outbound, bagIn s n .loaded = true → bagIn u n .handedOver = true) ∧
      Answered s u p w .accepted (num result.code))

/-- An opaque frame is relayed blind with the stamp ACCEPTED and no answer; a frame of an unknown kind is refused UNKNOWN_KIND with its kind as the
detail and relayed (R173, R176, R177). -/
def Obligations.RelayedFrames : Prop :=
  ∀ (p : Port) (s : State) (w : Window), MarkedAt s p w →
    (opaqueKind w.frame.kind = true → Yields (.opaqueFrame p) s fun u =>
      Relayed s u p w .accepted ∧ (u.port p).out = (s.port p).out ∧ u.draws = s.draws) ∧
    (opaqueKind w.frame.kind = false → (∀ k : JobKind, w.frame.kind ≠ k.byte) → registeredOn s p w.frame.src = true →
      Yields (.unknownKindFrame p) s fun u => Answered s u p w .unknownKind (num w.frame.kind.toNat))

/-! ## Results of the expiries -/

/-- The timers of the lock and of the count sessions, once due in their own state (R87, R94, R103; log entry 3); and the placing of an owed
SAFE_COMMAND, addressed to the enabled SAFE node of the lowest identity (R93). -/
def Obligations.TimerExpiries : Prop :=
  ∀ s : State,
    (∀ d : Nat, d ≤ s.seconds → s.safe.timer = some d →
      (s.safe.lock = .delay → Yields .delayExpiry s fun u =>
        u.safe.lock = .window ∧ u.safe.timer = some (s.seconds + s.timing.openWindow) ∧ u.safe.failed = s.safe.failed) ∧
      (s.safe.lock = .window → Yields .windowExpiry s fun u =>
        u.safe.lock = .locked ∧ u.safe.timer = none ∧ u.safe.failed = s.safe.failed ∧
        (u.event .windowExpired).pending = true ∧ (u.event .windowExpired).detail = BitVec.ofNat 32 s.safe.failed) ∧
      (s.safe.lock = .unlocked → Yields .relockExpiry s fun u =>
        u.safe.lock = .locked ∧ u.safe.timer = none ∧ CommandGoes s u s.room.out .lock)) ∧
    (∀ (d : Nat) (x : Fin 4) (b : Bag), d ≤ s.seconds → s.sessions[x].state = .counting → s.sessions[x].timer = some d →
      findBag s s.sessions[x].bag = some b → b.state = .counting → Yields (.countIdleExpiry x.val) s fun u =>
        u.sessions[x] = { s.sessions[x] with state := .suspended, timer := none } ∧
        findBag u s.sessions[x].bag = some { b with state := .countSuspended, entered := s.seconds } ∧
        (u.event .countSuspended).pending = true ∧
        (u.event .countSuspended).detail = BitVec.ofNat 32 s.sessions[x].bag) ∧
    (∀ i : Fin 252, s.safe.owed = true → 0 < s.room.out.free → s.nodes[i].enabled = true → s.nodes[i].role = .safe →
      (∀ j : Fin 252, j < i → s.nodes[j].enabled = false ∨ s.nodes[j].role ≠ .safe) → Yields .safeCommandPlaced s fun u =>
        u.safe = { s.safe with owed := false } ∧
        u.room.out.filled = s.room.out.filled ++ [safeCommandFrame (BitVec.ofNat 8 (i.val + 2)) s.safe.commanded]) ∧
    (s.safe.owed = false ∨ s.room.out.free = 0 ∨ (∀ b, ¬LowestSafeNode s b) → exec .safeCommandPlaced s = .next s)

/-- The timers of the handover session and the day clock: a timeout aborts the call, its LOADED bags are HATCH_HELD, its IN_HANDLING bags MADE_UP
without their pins and its received bags unsigned; the clock goes up by one or to 0, where every PART-owned descriptor is marked (R31, R35, R133, R134,
R137, R148; log entry 3). After both the missed-window check is made: its ring, next pointer, pins and WINDOW_MISSED are the ones that follow, and every other
descriptor stays. That a slot handed again unwritten keeps the mark nodes of an earlier SIGN beside TIMED_OUT is log entry 28. -/
def Obligations.CallExpiries : Prop :=
  ∀ (s : State) (d : Nat), d ≤ s.seconds →
    (∀ (i : Fin 16) (c : Instr), s.call.timer = some d → s.call.slot = some i →
      c = .exchangeTimeout ∧ s.call.phase = .exchange ∨ c = .signTimeout ∧ s.call.phase = .signing → Yields c s fun u =>
        u.ring[i] = { s.ring[i] with owner := .office, result := .timedOut, second := some s.seconds } ∧
        u.call.phase = .idle ∧ u.call.slot = none ∧ u.call.timer = none ∧ u.call.refused = 0 ∧
        (let back := (s.setRing (put s.ring i
            { s.ring[i] with owner := .office, result := .timedOut, second := some s.seconds })).setCall
            { next := s.call.next + 1, refused := 0, phase := .idle, slot := none, timer := none }
         u.ring = (missedCheck back).ring ∧ u.call = (missedCheck back).call ∧
          u.event .windowMissed = (missedCheck back).event .windowMissed) ∧
        (u.event .handoverAborted).pending = true ∧ (u.event .handoverAborted).detail = BitVec.ofNat 32 i.val ∧
        (∀ n b, n ∈ s.ring[i].outbound → findBag s n = some b → b.state = .loaded →
          ∃ b', findBag u n = some b' ∧ b'.state = .hatchHeld ∧ b'.pin = b.pin) ∧
        (∀ n b, n ∈ s.ring[i].outbound → findBag s n = some b → b.state = .inHandling →
          ∃ b', findBag u n = some b' ∧ b'.state = .madeUp ∧ b'.pin = none) ∧
        (∀ n b, n ∈ s.ring[i].received → findBag s n = some b → s.day.state ≠ .closing →
          ∃ b', findBag u n = some b' ∧ b'.unsigned = true)) ∧
    (s.day.clockSecond = d → d + 60 ≤ s.seconds → Yields .dayClockAdvance s fun u =>
      u.day.clock = (if s.day.clock < 1439 then s.day.clock + 1 else 0) ∧ u.day.clockSecond = s.seconds ∧
      (¬s.day.clock < 1439 → ∀ i : Fin 16, s.ring[i].owner = .part → u.ring[i].dayPassed = true) ∧
      (let moved := s.setDay { s.day with clock := if s.day.clock < 1439 then s.day.clock + 1 else 0, clockSecond := s.seconds }
       let checked := missedCheck (if s.day.clock < 1439 then moved else moved.setRing
         (Vector.ofFn fun i => if s.ring[i].owner = .part then { s.ring[i] with dayPassed := true } else s.ring[i]))
       u.ring = checked.ring ∧ u.call = checked.call ∧ u.bags = checked.bags ∧
       u.event .windowMissed = checked.event .windowMissed ∧ headMissed u = false))

/-! ## Results of the commands of the trunk -/

/-- The trunk's own commands: a frame enters the buffer, or is discarded with the overrun, check or framing counter and LINK_ERROR; the HOLD input, whose
release starts the frame that waits in the same taking (log entry 18); the start of a REPLY, of an ATTENTION, which clears attention-owed, of an envelope; the
end of a frame. An unknown request. SEND: refused MALFORMED or UNKNOWN_NODE with nothing changed, placed at its queue's tail, or waiting at the head of the buffer, and then placed, answered and
dropped from the buffer in the taking that frees a downlink place (R176, R178, R183, R188, R189, R190, R191; a length above 512 is discarded as soon as it is
read, and the check is compared before type and payload, log entry 14). -/
def Obligations.TrunkCommands : Prop :=
  ∀ s : State,
    (WaitingSound s → s.trunk.rx = .hunting → s.trunk.buffer.length < 4 →
      ∀ (tag : Word16) (code : Byte) (fields : List Byte), fields.length ≤ 509 →
        Yields (.trunkFrameReceived (trunkChars typeRequest (be 2 tag.toNat ++ code :: fields))) s fun u =>
          u.trunk = { s.trunk with buffer := s.trunk.buffer ++ [.request tag code fields] }) ∧
    (WaitingSound s → s.trunk.rx = .hunting → s.trunk.buffer.length = 4 →
      ∀ (tag : Word16) (code : Byte) (fields : List Byte), fields.length ≤ 509 →
        Yields (.trunkFrameReceived (trunkChars typeRequest (be 2 tag.toNat ++ code :: fields))) s fun u =>
          u.trunk = { s.trunk with overrun := countUp s.trunk.overrun } ∧ (u.event .linkError).pending = true ∧
          (u.event .linkError).detail = 519) ∧
    (s.trunk.rx = .hunting → ∀ (type : Byte) (payload : List Byte) (check : Nat), payload.length ≤ 512 → check < 256 ^ 2 →
      (check ≠ (crc16 (type :: (be 2 payload.length ++ payload))).toNat →
        Yields (.trunkFrameReceived (0xA5#8 :: type :: (be 2 payload.length ++ payload ++ be 2 check))) s fun u =>
          u.trunk = { s.trunk with check := countUp s.trunk.check } ∧ (u.event .linkError).pending = true ∧
          (u.event .linkError).detail = 512) ∧
      (type ≠ typeRequest ∧ type ≠ typeSend ∨ type = typeRequest ∧ payload.length < 3 ∨ type = typeSend ∧ payload.length < 7 ∨
        type = typeSend ∧ 7 ≤ payload.length ∧ payload.length < 7 + (payload.getD 6 0).toNat →
        Yields (.trunkFrameReceived (trunkChars type payload)) s fun u =>
          u.trunk = { s.trunk with framing := countUp s.trunk.framing } ∧ (u.event .linkError).pending = true ∧
          (u.event .linkError).detail = 514)) ∧
    (s.trunk.rx = .hunting → ∀ (type : Byte) (n : Nat), 512 < n → n < 256 ^ 2 →
      Yields (.trunkFrameReceived (0xA5#8 :: type :: be 2 n)) s fun u =>
        u.trunk = { s.trunk with framing := countUp s.trunk.framing } ∧ (u.event .linkError).pending = true ∧
        (u.event .linkError).detail = 514) ∧
    (∀ b : Bool, s.trunk.holdIn = false ∨ s.trunk.sending.isSome = true ∨ b = true → Yields (.trunkHoldInput b) s fun u =>
      u.trunk = { s.trunk with holdIn := b }) ∧
    (∀ (c : Instr) (held : Bool), s.trunk.sending = none → s.trunk.holdIn = held →
      c = .trunkFrameStart ∧ held = false ∨ c = .trunkHoldInput false ∧ held = true →
      (∀ r, s.trunk.reply = some r → Yields c s fun u =>
        u.trunk = { s.trunk with
          reply := none, holdIn := false, sending := some { source := .reply, chars := trunkChars typeReply r.payload } }) ∧
      (s.trunk.reply = none → s.attention = true → Yields c s fun u =>
        u.trunk = { s.trunk with
          holdIn := false
          sending := some { source := .attention, chars := trunkChars typeAttention [BitVec.ofNat 8 s.vector, summariesByte s] } } ∧
        (Settled s → u.attention = false)) ∧
      (∀ e rest, s.trunk.reply = none → s.attention = false → s.uplink.filled = e :: rest → Yields c s fun u =>
        u.trunk = { s.trunk with
          holdIn := false, sending := some { source := .relay, chars := trunkChars typeRelay e.payload } } ∧
        u.uplink = s.uplink) ∧
      (s.trunk.reply = none → s.attention = false → s.uplink.filled = [] → Yields c s fun u =>
        u.trunk = { s.trunk with holdIn := false })) ∧
    (∀ x, s.trunk.sending = some x → Yields .trunkFrameSent s fun u =>
      u.trunk = { s.trunk with sending := none } ∧ u.uplink.reserved = s.uplink.reserved ∧
      u.uplink.filled = if x.source = .relay then s.uplink.filled.tail else s.uplink.filled) ∧
    (∀ (tag : Word16) (code : Byte) (fields : List Byte), RequestAtHead s tag code fields → code ∉ knownRequests →
      Yields .requestUnknown s fun u => Replied s u tag code .unknownKind [] ∧
        unchangedBut ([.trunk, .draws] ++ Part.eventParts) s u) ∧
    (∀ (tag : Word16) (port pb kind dest : Byte) (body : List Byte) (rest : List TrunkEntry),
      s.trunk.reply = none → s.trunk.sendWaits = false → s.trunk.buffer = .send tag port pb kind dest body :: rest →
      let bad := port ≠ 0 ∧ port ≠ 1 ∨ 40 < body.length ∨ markMode pb = .reply ∨ zeroBitsClear pb = false
      (bad → RefusedRequest .send s tag 0 .malformed none) ∧
      (¬bad → dest ≠ 255 → registeredOn s .floor dest = false → registeredOn s .room dest = false →
        RefusedRequest .send s tag 0 .unknownNode none)) ∧
    (∀ (tag : Word16) (port pb kind dest : Byte) (body : List Byte) (rest : List TrunkEntry) (q : Port),
      s.trunk.reply = none → s.trunk.sendWaits = false → s.trunk.buffer = .send tag port pb kind dest body :: rest →
      port = 0 ∨ port = 1 → body.length ≤ 40 → markMode pb ≠ .reply → zeroBitsClear pb = true →
      (dest ≠ 255 ∧ registeredOn s q dest = true ∨ dest = 255 ∧ q = (if port = 0 then .floor else .room)) →
      ((s.port q).down.length < downlinkPlaces q → Yields .send s fun u =>
        (u.port q).down = (s.port q).down ++ [{ pb := pb, kind := kind, dest := dest, src := 0, body := body }] ∧
        Replied s u tag 0 .accepted []) ∧
      (downlinkPlaces q ≤ (s.port q).down.length → Yields .send s fun u =>
        u.trunk = { s.trunk with sendWaits := true } ∧ u.floor = s.floor ∧ holdOutput u = true)) ∧
    (∀ (p : Port) (c : Current) (tag : Word16) (port pb kind dest : Byte) (body : List Byte) (rest : List TrunkEntry),
      (s.port p).tx.current = some c → c.source = .downlink → (s.port p).tx.phase = .awaitMarks →
      c.frame.dest ≠ 255 → c.frame.dest ∈ (s.port p).tx.marks → s.trunk.sendWaits = true → s.trunk.reply = none →
      s.trunk.buffer = .send tag port pb kind dest body :: rest → sendQueue s port dest = p →
      (s.port p).down.length = downlinkPlaces p → Yields (.windowClose p) s fun u =>
        (u.port p).down = (s.port p).down.tail ++ [{ pb := pb, kind := kind, dest := dest, src := 0, body := body }] ∧
        Replied s u tag 0 .accepted [] ∧ u.trunk.sendWaits = false)

/-! ## Results of the requests -/

/-- The table window: TABLE_SELECT and its refusals, TABLE_GET and its refusal past the last index, the refusals of TABLE_PUT at an entry that no write
reaches, STATUS field by field, and the entries that only the part writes, field by field in the order of their rules: DRAWER, BAG, SAFE_LIST with the lock record,
ORDER, STOCK with the accumulator line, DAY_SUMMARY and the session record of RING (R9, R20, R23, R38, R43, R68, R79, R80, R119, R147, R192, R194). That a TABLE_PUT past the end is MALFORMED also in a read-only table, and that
one at an entry no write reaches is PROTECTED however short its fields, is log entry 11, the bytes of entries and of STATUS are
those of log entry 13, and STATUS does not count its own request in the buffer (log entry 17); that bytes behind a request's fields are ignored is log entry 13 too. -/
def Obligations.TableWindow : Prop :=
  ∀ (s : State) (tag : Word16) (fields : List Byte),
    (∀ (t : TableId) (i : Nat) (more : List Byte), RequestAtHead s tag 0x10 fields →
      fields = be 1 t.code ++ be 2 i ++ more → t.first ≤ i → i ≤ t.last → Yields .tableSelect s fun u =>
        u.pointer = { table := t, index := i } ∧ Replied s u tag 0x10 .accepted []) ∧
    (∀ (k i : Nat) (more : List Byte), RequestAtHead s tag 0x10 fields → fields = be 1 k ++ be 2 i ++ more → k < 256 →
      i < 256 ^ 2 → ((∀ t : TableId, t.code ≠ k) ∨ ∃ t : TableId, t.code = k ∧ (i < t.first ∨ t.last < i)) →
      Yields .tableSelect s fun u => u.pointer = s.pointer ∧
        Replied s u tag 0x10 (if TableId.all.any fun t => t.code == k then .malformed else .unknownTable) []) ∧
    (RequestAtHead s tag 0x12 fields → s.pointer.table.last < s.pointer.index → Yields .tableGet s fun u =>
      u.pointer = s.pointer ∧ Replied s u tag 0x12 .malformed []) ∧
    (RequestAtHead s tag 0x12 fields → s.pointer.index ≤ s.pointer.table.last → Yields .tableGet s fun u =>
      u.pointer = { table := s.pointer.table, index := s.pointer.index + 1 } ∧
      Replied s u tag 0x12 .accepted (tableEntry s s.pointer.table s.pointer.index)) ∧
    (RequestAtHead s tag 0x11 fields → s.pointer.table.last < s.pointer.index → Yields .tablePut s fun u =>
      u.pointer = s.pointer ∧ Replied s u tag 0x11 .malformed []) ∧
    (RequestAtHead s tag 0x11 fields → s.pointer.index ≤ s.pointer.table.last →
      s.pointer.table.readOnly = true ∨ s.pointer = { table := .ring, index := 16 } → Yields .tablePut s fun u =>
        u.pointer = s.pointer ∧ Replied s u tag 0x11 .protectedEntry []) ∧
    (let flag := fun b : Bool => if b then 1#8 else 0#8
     let opt := fun x : Option (List Byte) => x.elim [0#8] fun bs => 1#8 :: bs
     let left := fun x : Option Nat => x.elim 0 fun deadline => deadline - s.seconds
     let port := fun q : LinePort =>
       be 4 q.errors.check ++ be 4 q.errors.symbol ++ be 4 q.errors.framing ++ be 4 q.errors.longFrame ++ be 4 q.errors.breaks ++
         be 4 q.errors.clash ++ be 4 q.errors.undelivered ++ be 1 q.out.filled.length ++ be 1 q.out.reserved ++
         be 1 (8 - q.out.reserved - q.out.filled.length)
     (RequestAtHead s tag 0x18 fields → Yields .status s fun u => unchangedBut Part.replyParts s u ∧
       Replied s u tag 0x18 .accepted
        (be 1 s.day.state.code ++ be 2 s.day.number ++ be 2 s.day.clock ++ be 1 (if s.day.armed then 0 else 1) ++
          ((List.finRange 4).flatMap fun x => be 1 s.sessions[x].state.code ++ be 4 s.sessions[x].bag ++ [s.sessions[x].node] ++
            be 4 s.sessions[x].total ++ be 2 s.sessions[x].unresolved) ++
          be 1 s.call.phase.code ++ opt (s.call.slot.map fun i => be 1 i.val) ++ be 2 s.bags.length ++ port s.floor ++ port s.room ++
          be 1 s.uplink.filled.length ++ be 1 s.uplink.reserved ++ be 1 (32 - s.uplink.reserved - s.uplink.filled.length) ++
          be 1 s.floor.down.length ++ be 1 s.room.down.length ++ be 4 s.trunk.check ++ be 4 s.trunk.framing ++
          be 4 s.trunk.overrun ++ be 1 (s.trunk.buffer.length - 1) ++ be 1 s.vector)) ∧
     (∀ t : Fin 160, let d := s.drawers[t]
      tableEntry s .drawer t.val =
        be 1 d.state.code ++ be 4 d.floatDelivered ++ beInt 4 d.netTendered ++ be 4 d.refunds ++ be 4 d.pickups ++ be 4 d.cashup ++
          beInt 4 d.expected ++ [flag d.saturated, flag d.due] ++ be 2 d.pickupCount ++ opt (d.cashupDiff.map (beInt 4)) ++
          beInt 4 d.countVariance ++ opt (d.lastSeq.map (be 2)) ++ opt (d.lastCrc.map fun c => be 2 c.toNat) ++
          opt (d.openOrder.map fun i => be 1 i.val)) ∧
     (∀ (i : Nat) (b : Bag), s.bags[i]? = some b → tableEntry s .bag i =
        be 4 b.sealNo ++ be 1 b.kind.code ++ be 1 b.state.code ++ opt (b.till.map fun t => be 1 t.val) ++
          opt (b.order.map fun j => be 1 j.val) ++ opt (b.pin.map fun j => be 1 j.val) ++ opt (b.session.map fun x => be 1 x.val) ++
          be 4 b.declared ++ opt (b.counts.map fun v => (List.finRange 12).flatMap fun c => be 4 v[c]) ++ opt (b.counted.map (be 4)) ++
          opt (b.suspect.map (be 4)) ++ opt (b.variance.map (beInt 4)) ++ opt (b.cls.map fun c => be 1 c.code) ++
          [flag b.unsigned] ++ be 2 b.day ++ secondBytes b.entered) ∧
     (∀ i : Nat, s.bags.length ≤ i → tableEntry s .bag i = List.replicate 26 0) ∧
     (∀ (i : Nat) (e : SafeEntry), i < 120 → s.safe.inventory[i]? = some e →
        tableEntry s .safeList i = be 4 e.sealNo ++ be 1 e.way.code ++ secondBytes e.second) ∧
     (∀ i : Nat, i < 120 → s.safe.inventory.length ≤ i → tableEntry s .safeList i = List.replicate 9 0) ∧
     tableEntry s .safeList 120 =
        be 1 s.safe.lock.code ++ be 2 (left s.safe.timer) ++ be 1 s.safe.delayKind.code ++ be 1 s.safe.failed ++
          be 1 s.safe.commanded.code ++ [flag s.safe.owed] ++ be 1 s.safe.inventory.length ∧
     (∀ i : Fin 24, let o := s.orders[i]
      tableEntry s .order i.val =
        be 1 o.state.code ++ be 1 o.outcome.code ++ be 1 o.till.val ++ be 2 o.seq ++ be 2 o.day ++
          ((List.finRange 12).flatMap fun c => be 2 o.issue[c]) ++ ((List.finRange 12).flatMap fun c => be 2 o.skim[c]) ++
          ((List.finRange 12).map fun c => flag o.shortStock[c]) ++ ((List.finRange 12).map fun c => flag o.shortCap[c]) ++
          be 4 o.issueValue ++ be 5 o.skimValue ++ be 5 o.declared ++ beInt 4 o.difference ++ opt (o.sealNo.map (be 4))) ∧
     (∀ c : Fin 12, tableEntry s .stock
        ((List.finRange 12).filter fun k =>
          if s.denoms[c].enabled then
            s.denoms[k].enabled && (decide (s.denoms[c].face < s.denoms[k].face) ||
              (decide (s.denoms[c].face = s.denoms[k].face) && decide (k < c)))
          else s.denoms[k].enabled || decide (k < c)).length =
        be 1 c.val ++ be 4 s.stock[c].loose ++ be 4 s.stock[c].straps ++ be 6 (s.heldOf c) ++ be 4 s.stock[c].reserved ++
          be 6 (s.freeOf c) ++ be 4 s.stock[c].suspect) ∧
     tableEntry s .stock 12 =
        be 4 s.acc.opening ++ be 4 s.acc.countedIn ++ be 4 s.acc.restocked ++ be 4 s.acc.madeUp ++ beInt 4 s.acc.adjustment ++
          [flag s.acc.saturated] ++ be 9 (holdingValue s) ∧
     (let m := s.day.summary
      tableEntry s .daySummary 0 =
        [flag m.taken] ++ be 2 m.day ++ secondBytes m.second ++ be 2 m.minute ++ be 4 m.opening ++ be 4 m.countedIn ++
          be 4 m.restocked ++ be 4 m.madeUp ++ beInt 4 m.adjustment ++ [flag m.saturated] ++ be 9 m.holding ++ be 2 m.bagsCounted ++
          be 2 m.bagsHanded) ∧
     tableEntry s .ring 16 =
        be 1 s.call.next.val ++ be 1 s.call.phase.code ++ opt (s.call.slot.map fun i => be 1 i.val) ++ be 2 (left s.call.timer) ++
          be 1 s.call.refused ++ be 2 (s.bags.filter fun b => b.state = .hatchHeld).length)

/-- A TABLE_PUT that its owning rule takes: the entry is replaced by the clamped one, the index advances, every other entry stays (R4, R5, R42, R120,
R169, R170, R193). One that its rule refuses changes nothing and leaves the index: fields that cannot be read, DENOM and WITNESS outside NIGHT, a face that another
enabled code carries, a code in use, a node's port or role, a till whose drawer is in the day's trade, a descriptor that PART owns, a list too long or with a seal of 0
(R5, R6, R7, R42, R120, R169, R170, R190). That fields which cannot be read decide before the day state, and R6 before R7, is log entry 11. That bytes behind the fields are ignored, and that the target value in a written TILL entry is read over, is log entry 13. -/
def Obligations.TableWrites : Prop :=
  ∀ (s : State) (tag : Word16) (fields : List Byte), RequestAtHead s tag 0x11 fields →
    let written := fun u : State => u.pointer = { table := s.pointer.table, index := s.pointer.index + 1 } ∧
      Replied s u tag 0x11 .accepted []
    let refused := fun (c : Instr) (result : Code) => RefusedRequest c s tag 0x11 result none
    (∀ c : Fin 12, s.pointer = { table := .denom, index := c.val } →
      (readDenom fields = none → refused .tablePutDenom .malformed) ∧
      ∀ d : Denom, readDenom fields = some d →
        let taken := ∃ k : Fin 12, k ≠ c ∧ s.denoms[k].enabled = true ∧ s.denoms[k].face = max 1 (min 1000000 d.face)
        (s.day.state ≠ .night → refused .tablePutDenom .wrongDayState) ∧
        (s.day.state = .night → d.enabled = true → taken → refused .tablePutDenom .duplicateFace) ∧
        (s.day.state = .night → ¬(d.enabled = true ∧ taken) → s.denoms[c].enabled = true → inUse s c = true →
          (s.denoms[c].face ≠ max 1 (min 1000000 d.face) ∨ s.denoms[c].kind ≠ d.kind ∨
            s.denoms[c].strap ≠ max 1 (min 1000 d.strap) ∨ d.enabled = false) → refused .tablePutDenom .stockHeld)) ∧
    (∀ c : Fin 12, inUse s c = true ↔
      0 < s.stock[c].loose + s.stock[c].straps * s.denoms[c].strap ∨ 0 < s.stock[c].reserved ∨ 0 < s.stock[c].suspect ∨
      (∃ b ∈ s.bags, b.state.terminal = false ∧ ∃ v, b.counts = some v ∧ 0 < v[c]) ∨
      ∃ x : Fin 4, s.sessions[x].state ≠ .idle ∧ (0 < s.sessions[x].accepted[c] ∨ 0 < s.sessions[x].suspect[c])) ∧
    (∀ i : Fin 252, s.pointer = { table := .node, index := i.val + 2 } →
      (readNode fields = none → refused .tablePutNode .malformed) ∧
      ∀ n : Node, readNode fields = some n →
        (n.port = .floor ∧ n.role ≠ .till ∧ n.role ≠ .tillBadge ∧ n.role ≠ .carrier ∨
          n.port = .room ∧ (n.role = .till ∨ n.role = .tillBadge ∨ n.role = .carrier) ∨ n.port = .none ∧ n.enabled = true) →
        refused .tablePutNode .malformed) ∧
    (∀ i : Fin 7, s.pointer = { table := .witness, index := i.val } →
      (readWitness fields = none → refused .tablePutWitness .malformed) ∧
      (readWitness fields ≠ none → s.day.state ≠ .night → refused .tablePutWitness .wrongDayState)) ∧
    (∀ t : Fin 160, s.pointer = { table := .till, index := t.val } →
      (readTill fields = none → refused .tablePutTill .malformed) ∧
      (readTill fields ≠ none → s.drawers[t].state = .floated ∨ s.drawers[t].state = .opened ∨ s.drawers[t].state = .hold →
        refused .tablePutTill .wrongTillState)) ∧
    (∀ k : Fin 14, s.pointer = { table := .timing, index := k.val } → fields.length < timingWidth[k] →
      refused .tablePutTiming .malformed) ∧
    (∀ g : Fin 3, s.pointer = { table := .timing, index := 14 + g.val } → readSetting fields = none →
      refused .tablePutTiming .malformed) ∧
    (∀ i : Fin 16, s.pointer = { table := .ring, index := i.val } →
      (readBooking fields = none → refused .tablePutRing .malformed) ∧
      ∀ b : Booking, readBooking fields = some b →
        (s.ring[i].owner = .part → refused .tablePutRing .protectedEntry) ∧
        (s.ring[i].owner = .office → 12 < b.outbound.length ∨ 0 ∈ b.outbound → refused .tablePutRing .malformed)) ∧
    (∀ (c : Fin 12) (d : Denom), s.pointer = { table := .denom, index := c.val } → readDenom fields = some d →
      s.day.state = .night →
      (d.enabled = true → ∀ k : Fin 12, k ≠ c → s.denoms[k].enabled = true → s.denoms[k].face ≠ max 1 (min 1000000 d.face)) →
      (s.denoms[c].enabled = true → inUse s c = true → s.denoms[c].face = max 1 (min 1000000 d.face) ∧
        s.denoms[c].kind = d.kind ∧ s.denoms[c].strap = max 1 (min 1000 d.strap) ∧ d.enabled = true) →
      Yields .tablePutDenom s fun u =>
        u.denoms = put s.denoms c
          { face := max 1 (min 1000000 d.face), kind := d.kind, strap := max 1 (min 1000 d.strap)
            packet := max 1 (min 1000 d.packet), enabled := d.enabled } ∧ written u) ∧
    (∀ (i : Fin 252) (n : Node), s.pointer = { table := .node, index := i.val + 2 } → readNode fields = some n →
      (n.port = .floor ∧ (n.role = .till ∨ n.role = .tillBadge ∨ n.role = .carrier) ∨
        n.port = .room ∧ n.role ≠ .till ∧ n.role ≠ .tillBadge ∧ n.role ≠ .carrier ∨ n.port = .none ∧ n.enabled = false) →
      Yields .tablePutNode s fun u => u.nodes = put s.nodes i n ∧ written u) ∧
    (∀ (i : Fin 7) (w : Witness), s.pointer = { table := .witness, index := i.val } → readWitness fields = some w →
      s.day.state = .night → Yields .tablePutWitness s fun u => u.witness = put s.witness i w ∧ written u) ∧
    (∀ (t : Fin 160) (e : TillEntry), s.pointer = { table := .till, index := t.val } → readTill fields = some e →
      s.drawers[t].state = .closed ∨ s.drawers[t].state = .cashedUp ∨ s.drawers[t].state = .suspended →
      Yields .tablePutTill s fun u =>
        (u.tills[t].node.toNat = max 2 (min 253 e.node.toNat) ∧
          u.tills[t].badge.toNat = (if e.badge = 0 then 0 else max 2 (min 253 e.badge.toNat)) ∧
          (∀ c : Fin 12, u.tills[t].targets[c] = min 9999 e.targets[c]) ∧
          u.tills[t].targetValue = min 2147483647
            (sumCodes fun c => if s.denoms[c].enabled then min 9999 e.targets[c] * s.denoms[c].face else 0) ∧
          u.tills[t].skimLevel = min 99999999 e.skimLevel ∧
          u.tills[t].hardLimit = max (min 99999999 e.skimLevel) (min 99999999 e.hardLimit) ∧
          u.tills[t].topUpCap = min 99999999 e.topUpCap ∧ u.tills[t].skimFloor = max 1 (min 1000000 e.skimFloor) ∧
          u.tills[t].enabled = e.enabled) ∧
        (∀ k : Fin 160, k ≠ t → u.tills[k] = s.tills[k]) ∧ written u) ∧
    (∀ (k : Fin 14) (n : Nat) (rest : List Byte), s.pointer = { table := .timing, index := k.val } →
      takeNat timingWidth[k] fields = some (n, rest) → Yields .tablePutTiming s fun u =>
        u.timing = { values := put s.timing.values k (max timingRange[k].1 (min timingRange[k].2 n))
                     groups := s.timing.groups } ∧ written u) ∧
    (∀ (g : Fin 3) (x : TallySetting), s.pointer = { table := .timing, index := 14 + g.val } → readSetting fields = some x →
      Yields .tablePutTiming s fun u =>
        u.timing = { values := s.timing.values, groups := put s.timing.groups g x } ∧ written u) ∧
    (∀ (i : Fin 16) (b : Booking), s.pointer = { table := .ring, index := i.val } → readBooking fields = some b →
      s.ring[i].owner = .office → b.outbound.length ≤ 12 → 0 ∉ b.outbound → Yields .tablePutRing s fun u =>
        u.ring = put s.ring i
          { owner := .office, number := b.number, courier := b.courier, windowStart := min 1439 b.windowStart
            windowEnd := max (min 1439 b.windowStart) (min 1439 b.windowEnd), outbound := b.outbound
            inboundCount := min 12 b.inboundCount, inboundValue := b.inboundValue, result := .none, received := []
            second := none, supervisor := none, courierMark := none, dayPassed := s.ring[i].dayPassed } ∧ written u)

/-- EVENTS_READ, CLEAR_EVENTS, EVENT_ENABLE, TALLY_READ and TALLY_READ_CLEAR, the data of the reads field by field: the 26 records in code order, the seven
summaries, the vector; of each named group the twelve counters in code order, its mode and its report enable. Fields too short, a group outside the four, and a clear option or an
enable value that is neither 0 nor 1, are refused MALFORMED and change nothing (R114, R182, R184, R185, R186, R190). That an EVENTS_READ changes no event record, and that neither
it nor a CLEAR_EVENTS sets or clears the attention-owed flag, holds where the vector and the indirect events were evaluated at the end of the last taking (`Settled`, the invariant of
StepKeepsSettled). That the detail of CLEAR_EVENTS selects every event still pending, and that bits which name no event are ignored, is log entry 17; the bytes of the replies, 0 for no and
1 for yes among them, are those of log entry 13, and so is it that bytes behind a request's fields are ignored. -/
def Obligations.EventAndTallyRequests : Prop :=
  ∀ (s : State) (tag : Word16) (fields : List Byte),
    let flag := fun b : Bool => if b then 1#8 else 0#8
    let tallies := fun gs : List TallyGroup => gs.flatMap fun g =>
      ((List.finRange 12).flatMap fun c => be 4 (s.tally g c).count ++ [flag (s.tally g c).half, flag (s.tally g c).full]) ++
        be 1 s.timing.groups[g.row].mode.code ++ [flag s.timing.groups[g.row].report]
    Event.all.map Event.code = (List.range 26).map (· + 1) ∧
    namedGroups 0 = some [.accepted] ∧ namedGroups 1 = some [.suspect] ∧ namedGroups 2 = some [.rejected] ∧
    namedGroups 3 = some [.accepted, .suspect, .rejected] ∧
    (RequestAtHead s tag 0x20 fields → Yields .eventsRead s fun u => (Settled s → u.events = s.events ∧ u.attention = s.attention) ∧
      Replied s u tag 0x20 .accepted
      ((Event.all.flatMap fun e => [flag (s.event e).pending, flag (s.event e).enable] ++ be 4 (s.event e).detail.toNat ++
          be 1 (s.event e).count) ++
        ([EventClass.day, .link, .till, .stock, .count, .safe, .handover].map fun c =>
          flag (Event.all.any fun e => e.cls == c && (s.event e).pending && (s.event e).enable)) ++ be 1 s.vector)) ∧
    (RequestAtHead s tag 0x21 fields → fields.length < 4 → RefusedRequest .clearEvents s tag 0x21 .malformed none) ∧
    (RequestAtHead s tag 0x22 fields → fields.length < 5 → RefusedRequest .eventEnable s tag 0x22 .malformed none) ∧
    (RequestAtHead s tag 0x28 fields → fields.length < 2 → RefusedRequest .tallyRead s tag 0x28 .malformed none) ∧
    (∀ (sel : Nat) (x : Byte) (more : List Byte), RequestAtHead s tag 0x22 fields → fields = be 4 sel ++ x :: more → x ≠ 0 → x ≠ 1 →
      RefusedRequest .eventEnable s tag 0x22 .malformed none) ∧
    (∀ (g : Nat) (x : Byte) (more : List Byte), RequestAtHead s tag 0x28 fields → fields = be 1 g ++ x :: more → g < 256 →
      3 < g ∨ x ≠ 0 ∧ x ≠ 1 →
      RefusedRequest (if x = 1 then .tallyReadClear else .tallyRead) s tag 0x28 .malformed none) ∧
    (∀ (sel : Nat) (more : List Byte), RequestAtHead s tag 0x21 fields → fields = be 4 sel ++ more → sel < 256 ^ 4 →
      Yields .clearEvents s fun u =>
        (∀ e : Event, u.event e = { s.event e with
          pending := if e.indirect then pendingCondition s e else (s.event e).pending && !selects sel e
          count := if selects sel e then 0 else (s.event e).count }) ∧
        (Settled s → u.attention = s.attention) ∧
        RepliedDetail s u tag 0x21 .accepted (selectionOf fun e => (u.event e).pending) []) ∧
    (∀ (sel : Nat) (value : Bool) (more : List Byte), RequestAtHead s tag 0x22 fields →
      fields = be 4 sel ++ flagByte value :: more → sel < 256 ^ 4 → Yields .eventEnable s fun u =>
        (∀ e : Event, u.event e = { s.event e with
          pending := pendingCondition s e, enable := if selects sel e then value else (s.event e).enable }) ∧
        Replied s u tag 0x22 .accepted []) ∧
    (∀ (g : Nat) (gs : List TallyGroup) (more : List Byte), RequestAtHead s tag 0x28 fields → namedGroups g = some gs →
      (fields = be 1 g ++ 0 :: more → Yields .tallyRead s fun u =>
        u.tallies = s.tallies ∧ Replied s u tag 0x28 .accepted (tallies gs)) ∧
      (fields = be 1 g ++ 1 :: more → Yields .tallyReadClear s fun u =>
        (∀ (k : TallyGroup) (c : Fin 12), u.tally k c =
          if k ∈ gs then { count := 0, half := false, full := false } else s.tally k c) ∧
        Replied s u tag 0x28 .accepted (tallies gs)))

/-- DAY_OPEN, DAY_TRADE, DAY_CLOSE, DAY_CLOSE with force, and SET_CLOCK with its missed-window check, taken and refused: a refusal changes nothing (R137, R142, R143,
R144, R145, R149). A DAY_CLOSE cancels every PENDING order: its reservation is
released, the open order of its till is cleared, and ORDER_CANCELLED is raised for it (R10, R69, R74); with force the bag of an aborted
session, whose record names it, is OUT_FOR_COUNT with its session absent (R109, R110), and every other record stays that no purge takes; that the till of the last index is the detail left is log
entry 17. That a DAY_CLOSE is taken in TRADING also after a DAY_TRADE, as R144 says and R150 does not, is log entry 24; that bytes behind a request's fields are
ignored is log entry 13. That a DAY_CLOSE whose force option cannot be read, and a SET_CLOCK with too few bytes, are MALFORMED whatever the day state is log entry 11. Which state a
DAY_CLOSE leaves is said where no two records share a seal (`SealsDistinct`, the invariant of StepKeepsRegister). -/
def Obligations.DayRequests : Prop :=
  ∀ (s : State) (tag : Word16) (fields : List Byte),
    (RequestAtHead s tag 0x30 fields → s.day.state ≠ .night →
      RefusedRequest .dayOpen s tag 0x30 .wrongDayState (some s.day.state.code)) ∧
    (RequestAtHead s tag 0x31 fields → s.day.state ≠ .opening →
      RefusedRequest .dayTrade s tag 0x31 .wrongDayState (some s.day.state.code)) ∧
    (RequestAtHead s tag 0x32 fields → (∀ (force : Bool) (more : List Byte), fields ≠ flagByte force :: more) →
      RefusedRequest .dayClose s tag 0x32 .malformed none) ∧
    (∀ (force : Bool) (more : List Byte), RequestAtHead s tag 0x32 fields → fields = flagByte force :: more →
      s.day.state = .night ∨ s.day.state = .closing →
      RefusedRequest (if force then .dayCloseForce else .dayClose) s tag 0x32 .wrongDayState (some s.day.state.code)) ∧
    (RequestAtHead s tag 0x33 fields →
      (fields.length < 2 → RefusedRequest .setClock s tag 0x33 .malformed none) ∧
      ∀ (m : Nat) (more : List Byte), fields = be 2 m ++ more → m < 256 ^ 2 →
        (1439 < m → RefusedRequest .setClock s tag 0x33 .malformed (some m)) ∧
        (m ≤ 1439 → s.day.state ≠ .night → RefusedRequest .setClock s tag 0x33 .wrongDayState (some s.day.state.code)) ∧
        (m ≤ 1439 → s.day.state = .night → s.day.armed = false →
          RefusedRequest .setClock s tag 0x33 .clockSet (some s.day.clock))) ∧
    (RequestAtHead s tag 0x30 fields → s.day.state = .night → Yields .dayOpen s fun u =>
      u.day = { s.day with state := .opening, number := (s.day.number + 1) % 65536, armed := false } ∧
      (∀ t : Fin 160, u.drawers[t] = { Drawer.reset with openOrder := s.drawers[t].openOrder }) ∧
      u.acc = { opening := min 4294967295 (holdingValue s), countedIn := 0, restocked := 0, madeUp := 0, adjustment := 0
                saturated := decide (4294967295 < holdingValue s) } ∧
      (u.event .dayChanged).pending = true ∧ (u.event .dayChanged).detail = 1 ∧
      RepliedDetail s u tag 0x30 .accepted ((s.day.number + 1) % 65536) []) ∧
    (RequestAtHead s tag 0x31 fields → s.day.state = .opening → Yields .dayTrade s fun u =>
      u.day = { s.day with state := .trading } ∧ (u.event .dayChanged).pending = true ∧ (u.event .dayChanged).detail = 2 ∧
      Replied s u tag 0x31 .accepted []) ∧
    (∀ (c : Instr) (force : Bool) (more : List Byte),
      c = .dayClose ∧ force = false ∨ c = .dayCloseForce ∧ force = true → RequestAtHead s tag 0x32 fields →
      fields = flagByte force :: more → s.day.state = .opening ∨ s.day.state = .trading → Yields c s fun u =>
        (u.day.state = .night ∨ u.day.state = .closing) ∧
        (SealsDistinct s → (u.day.state = .night ↔
          (force = true ∨
            (∀ t : Fin 160, s.drawers[t].state = .closed ∨ s.drawers[t].state = .cashedUp ∨ s.drawers[t].state = .suspended) ∧
            ∀ x : Fin 4, s.sessions[x].state = .idle) ∧
          s.call.phase = .idle ∧ (∀ b ∈ s.bags, ¬(b.kind = .floatBag ∧ b.state = .madeUp) ∧ b.state ≠ .hatchHeld) ∧
          s.safe.lock = .locked)) ∧
        (∀ i : Fin 24, s.orders[i].state = .pending →
          u.orders[i] = { s.orders[i] with state := .free, outcome := .cancelled }) ∧
        (∀ i : Fin 24, s.orders[i].state ≠ .pending → u.orders[i] = s.orders[i]) ∧
        (∀ k : Fin 12, u.stock[k] = { s.stock[k] with reserved := s.stock[k].reserved - pendingIssue s k }) ∧
        (∀ t : Fin 160, (∃ i : Fin 24, s.orders[i].state = .pending ∧ s.orders[i].till = t) → u.drawers[t].openOrder = none) ∧
        (∀ t : Fin 160, (∀ i : Fin 24, s.orders[i].state = .pending → s.orders[i].till ≠ t) →
          u.drawers[t].openOrder = s.drawers[t].openOrder) ∧
        (∀ i : Fin 24, s.orders[i].state = .pending → (∀ j : Fin 24, i < j → s.orders[j].state ≠ .pending) →
          u.event .orderCancelled = { s.event .orderCancelled with
            pending := true, detail := BitVec.ofNat 32 s.orders[i].till.val
            count := min 255 ((s.event .orderCancelled).count +
              ((List.finRange 24).filter fun j => s.orders[j].state = .pending).length) }) ∧
        ((∀ i : Fin 24, s.orders[i].state ≠ .pending) → u.event .orderCancelled = s.event .orderCancelled) ∧
        (force = true → (∀ x : Fin 4, u.sessions[x].state = .idle) ∧
          ∀ t : Fin 160, s.drawers[t].state = .floated ∨ s.drawers[t].state = .opened ∨ s.drawers[t].state = .hold →
            u.drawers[t].state = .suspended ∧ u.drawers[t].due = false ∧
            u.drawers[t].expected = s.drawers[t].expected) ∧
        (force = false → u.sessions = s.sessions ∧ ∀ t : Fin 160, u.drawers[t].state = s.drawers[t].state) ∧
        (∀ (n : Nat) (b : Bag), findBag s n = some b → b.state.terminal = false ∨ u.day.state = .closing →
          (force = true → ∀ x : Fin 4, s.sessions[x].state ≠ .idle → s.sessions[x].bag = n → b.session = some x →
            b.state = .counting ∨ b.state = .countSuspended →
            findBag u n = some { b with state := .outForCount, session := none, entered := s.seconds }) ∧
          (force = false ∨ (∀ x : Fin 4, s.sessions[x].state ≠ .idle → s.sessions[x].bag = n → b.session ≠ some x) →
            findBag u n = some b)) ∧
        RepliedDetail s u tag 0x32 .accepted u.day.state.code []) ∧
    (∀ (m : Nat) (more : List Byte), RequestAtHead s tag 0x33 fields → fields = be 2 m ++ more → m ≤ 1439 →
      s.day.state = .night → s.day.armed = true → Yields .setClock s fun u =>
        u.day = { s.day with clock := m, clockSecond := s.seconds, armed := false } ∧ headMissed u = false ∧
        (let checked := missedCheck (s.setDay { s.day with clock := m, clockSecond := s.seconds, armed := false })
         u.ring = checked.ring ∧ u.call = checked.call ∧ u.bags = checked.bags ∧
          u.event .windowMissed = checked.event .windowMissed) ∧
        RepliedDetail s u tag 0x33 .accepted s.day.clock [])

/-- The requests at the ring, the hatch, the orders, the safe, the stock and the tills, taken with every other slot, order, drawer, bag and accumulator as it was, and
refused with nothing changed (R10, R18, R19, R20, R57, R69, R74, R75, R92, R93, R121, R122, R136, R190; where a day state and a till number both fail: log entry 11);
that bytes behind a request's fields are ignored is log entry 13. -/
def Obligations.OfficeRequests : Prop :=
  ∀ (s : State) (tag : Word16) (fields more : List Byte),
    (∀ x ∈ [(Instr.consignHand, 0x38#8, 1), (.consignRecall, 0x39, 1), (.hatchRelease, 0x3A, 4), (.orderCancel, 0x40, 1),
        (.stockSet, 0x48, 9), (.suspectRelease, 0x49, 3), (.tillSuspend, 0x50, 1)],
      RequestAtHead s tag x.2.1 fields → fields.length < x.2.2 → RefusedRequest x.1 s tag x.2.1 .malformed none) ∧
    (∀ k : Nat, RequestAtHead s tag 0x38 fields → fields = be 1 k ++ more → k < 256 →
      (15 < k → RefusedRequest .consignHand s tag 0x38 .malformed (some k)) ∧
      ∀ i : Fin 16, i.val = k →
        (s.ring[i].owner = .part → RefusedRequest .consignHand s tag 0x38 .protectedEntry (some k)) ∧
        (s.ring[i].owner = .office → s.ring[i].windowEnd < s.day.clock →
          RefusedRequest .consignHand s tag 0x38 .outOfWindow (some s.day.clock))) ∧
    (∀ k : Nat, RequestAtHead s tag 0x39 fields → fields = be 1 k ++ more → k < 256 →
      (15 < k → RefusedRequest .consignRecall s tag 0x39 .malformed none) ∧
      ∀ i : Fin 16, i.val = k →
        (s.ring[i].owner = .office → RefusedRequest .consignRecall s tag 0x39 .malformed none) ∧
        (s.ring[i].owner = .part → s.call.phase ≠ .idle → s.call.slot = some i →
          RefusedRequest .consignRecall s tag 0x39 .protectedEntry none)) ∧
    (∀ n : Nat, RequestAtHead s tag 0x3A fields → fields = be 4 n ++ more → n < 256 ^ 4 →
      (findBag s n = none → RefusedRequest .hatchRelease s tag 0x3A .unknownBag none) ∧
      (∀ b, findBag s n = some b → b.state ≠ .hatchHeld → RefusedRequest .hatchRelease s tag 0x3A .wrongBagState none)) ∧
    (∀ k : Nat, RequestAtHead s tag 0x40 fields → fields = be 1 k ++ more → k < 256 →
      (23 < k → RefusedRequest .orderCancel s tag 0x40 .malformed none) ∧
      ∀ i : Fin 24, i.val = k →
        (s.orders[i].state = .free → RefusedRequest .orderCancel s tag 0x40 .malformed none) ∧
        (s.orders[i].state = .madeUp → RefusedRequest .orderCancel s tag 0x40 .orderOpen s.orders[i].sealNo)) ∧
    (RequestAtHead s tag 0x41 fields → s.safe.lock ≠ .lockout →
      RefusedRequest .safeRelease s tag 0x41 .wrongLockState none) ∧
    (∀ k loose straps : Nat, RequestAtHead s tag 0x48 fields → fields = be 1 k ++ be 4 loose ++ be 4 straps ++ more → k < 256 →
      loose < 256 ^ 4 → straps < 256 ^ 4 →
      (s.day.state ≠ .night → RefusedRequest .stockSet s tag 0x48 .wrongDayState none) ∧
      (s.day.state = .night → 11 < k → RefusedRequest .stockSet s tag 0x48 .malformed none) ∧
      ∀ c : Fin 12, c.val = k → s.day.state = .night →
        (s.denoms[c].enabled = false → RefusedRequest .stockSet s tag 0x48 .malformed none) ∧
        (s.denoms[c].enabled = true → loose + straps * s.denoms[c].strap < s.stock[c].reserved →
          RefusedRequest .stockSet s tag 0x48 .stockShort none)) ∧
    (∀ k n : Nat, RequestAtHead s tag 0x49 fields → fields = be 1 k ++ be 2 n ++ more → k < 256 → n < 256 ^ 2 →
      (11 < k → RefusedRequest .suspectRelease s tag 0x49 .malformed none) ∧
      (∀ c : Fin 12, c.val = k → s.stock[c].suspect < n → RefusedRequest .suspectRelease s tag 0x49 .stockShort none)) ∧
    (∀ k : Nat, RequestAtHead s tag 0x50 fields → fields = be 1 k ++ more → k < 256 →
      (s.day.state = .night → RefusedRequest .tillSuspend s tag 0x50 .wrongDayState none) ∧
      (s.day.state ≠ .night → 159 < k → RefusedRequest .tillSuspend s tag 0x50 .malformed none) ∧
      (∀ t : Fin 160, t.val = k → s.day.state ≠ .night → s.drawers[t].state = .cashedUp →
        RefusedRequest .tillSuspend s tag 0x50 .wrongTillState none)) ∧
    (∀ i : Fin 16, RequestAtHead s tag 0x38 fields → fields = be 1 i.val ++ more → s.ring[i].owner = .office →
      s.day.clock ≤ s.ring[i].windowEnd → pinCheck s [] s.ring[i].outbound = none → Yields .consignHand s fun u =>
        u.ring = put s.ring i { s.ring[i] with owner := .part, dayPassed := false } ∧
        (∀ n b, findBag s n = some b → findBag u n =
          some { b with pin := if n ∈ s.ring[i].outbound then some i else b.pin }) ∧ Replied s u tag 0x38 .accepted []) ∧
    (∀ i : Fin 16, RequestAtHead s tag 0x39 fields → fields = be 1 i.val ++ more → s.ring[i].owner = .part →
      s.call.phase = .idle ∨ s.call.slot ≠ some i → Yields .consignRecall s fun u =>
        u.ring = put s.ring i { s.ring[i] with owner := .office, result := .recalled, second := some s.seconds } ∧ u.call = s.call ∧
        (∀ n b, findBag s n = some b → findBag u n =
          some { b with pin := if b.pin = some i ∧ b.state = .inSafe then none else b.pin }) ∧
        Replied s u tag 0x39 .accepted []) ∧
    (∀ (n : Nat) (b : Bag), RequestAtHead s tag 0x3A fields → fields = be 4 n ++ more → n < 256 ^ 4 → findBag s n = some b →
      b.state = .hatchHeld → Yields .hatchRelease s fun u =>
        (s.day.state ≠ .closing →
          findBag u n = some { b with state := .handedOver, entered := s.seconds, pin := none } ∧
          ∀ m, m ≠ n → findBag u m = findBag s m) ∧
        RepliedDetail s u tag 0x3A .accepted n []) ∧
    (∀ i : Fin 24, RequestAtHead s tag 0x40 fields → fields = be 1 i.val ++ more → s.orders[i].state = .pending →
      Yields .orderCancel s fun u =>
        u.orders = put s.orders i { s.orders[i] with state := .free, outcome := .cancelled } ∧
        u.drawers = put s.drawers s.orders[i].till { s.drawers[s.orders[i].till] with openOrder := none } ∧
        (∀ c : Fin 12, u.stock[c] = { s.stock[c] with reserved := s.stock[c].reserved - s.orders[i].issue[c] }) ∧
        u.event .orderCancelled = raisedIf true .orderCancelled s.orders[i].till.val s ∧ Replied s u tag 0x40 .accepted []) ∧
    (RequestAtHead s tag 0x41 fields → s.safe.lock = .lockout → Yields .safeRelease s fun u =>
      u.safe.lock = .locked ∧ u.safe.failed = 0 ∧ u.safe.timer = none ∧ CommandGoes s u s.room.out .lock ∧ Replied s u tag 0x41 .accepted []) ∧
    (∀ (c : Fin 12) (loose straps : Nat), RequestAtHead s tag 0x48 fields →
      fields = be 1 c.val ++ be 4 loose ++ be 4 straps ++ more → loose < 256 ^ 4 → straps < 256 ^ 4 → s.day.state = .night →
      s.denoms[c].enabled = true → s.stock[c].reserved ≤ loose + straps * s.denoms[c].strap → Yields .stockSet s fun u =>
        u.stock = put s.stock c { s.stock[c] with loose := loose, straps := straps } ∧
        (let sum := s.acc.adjustment + ((loose + straps * s.denoms[c].strap : Nat) - (s.heldOf c : Int)) * s.denoms[c].face
         u.acc = { s.acc with
          adjustment := max Config.low31 (min Config.high31 sum)
          saturated := s.acc.saturated || decide (sum < Config.low31) || decide (Config.high31 < sum) }) ∧
        Replied s u tag 0x48 .accepted []) ∧
    (∀ (c : Fin 12) (n : Nat), RequestAtHead s tag 0x49 fields → fields = be 1 c.val ++ be 2 n ++ more → n < 256 ^ 2 →
      n ≤ s.stock[c].suspect → Yields .suspectRelease s fun u =>
        u.stock = put s.stock c { s.stock[c] with suspect := s.stock[c].suspect - n } ∧ u.acc = s.acc ∧
        Replied s u tag 0x49 .accepted []) ∧
    (∀ t : Fin 160, RequestAtHead s tag 0x50 fields → fields = be 1 t.val ++ more → s.day.state ≠ .night →
      s.drawers[t].state ≠ .cashedUp → Yields .tillSuspend s fun u =>
        (s.drawers[t].state ≠ .suspended → u.drawers = put s.drawers t { s.drawers[t] with state := .suspended, due := false }) ∧
        (s.drawers[t].state = .suspended → u.drawers = s.drawers) ∧ Replied s u tag 0x50 .accepted [])

/-- RESTART: first the marked frames in the two windows are taken with the marks gathered so far, in an order that no rule gives where both ports hold one (log
entry 6); then, on the state that leaves, the ports and relay queues are emptied but for an envelope being sent, the count sessions and the
handover session are aborted, DELAY and WINDOW return to LOCKED, the command is owed again and not placed in this taking (log entry 8), a receiver in IDLE stays
in it (log entry 15), and everything R195 keeps is kept (R96, R110, R135, R166, R195). That bytes behind the code of the request are ignored is log entry 13. In particular
the bag of an aborted count session, whose record names it, is OUT_FOR_COUNT with its session absent (R109, R110); of the call that is aborted the LOADED bags
are HATCH_HELD with their pins, the IN_HANDLING bags MADE_UP without theirs and the received records unsigned, and HANDOVER_ABORTED is raised with the slot
(R134), and the missed-window check moves ring and next pointer on, every other descriptor as it was (mark nodes of an earlier SIGN: log entry 28);
every other record stays, but for the pins that the return of a head clears on IN_SAFE and HANDED_OVER bags, and the purge where RESTART lets a close
complete. -/
def Obligations.RestartResult : Prop :=
  ∀ (s : State) (tag : Word16) (fields : List Byte), RequestAtHead s tag 0x5F fields →
    let m := takeMarkedWindows (popRequest s)
    let taken := fun (p : Port) (w : Window) (x : State) => takeFrame (w.taken p) (x.setRx p .waitIdle)
    (NoMarkedFrame s .floor → NoMarkedFrame s .room → m = popRequest s) ∧
    (∀ (p q : Port) (w : Window), p ≠ q → markedWindow s p = some w → NoMarkedFrame s q → m = taken p w (popRequest s)) ∧
    (∀ v w : Window, markedWindow s .floor = some v → markedWindow s .room = some w →
      let x := (popRequest s).setDraws (s.draws + 1)
      m = taken .room w (taken .floor v x) ∨ m = taken .floor v (taken .room w x)) ∧
    Yields .restart s fun u =>
      (∀ p : Port, (u.port p).tx = Transmitter.reset ∧ (u.port p).out = { reserved := 0, filled := [] } ∧
        (u.port p).down = [] ∧ (u.port p).errors = (s.port p).errors ∧
        ((s.port p).rx = .idle → (u.port p).rx = .idle) ∧
        (∀ bits, (s.port p).rx = .receiving bits → (u.port p).rx = .waitIdle) ∧
        (∀ w, (s.port p).rx = .markWindow w → (u.port p).rx = .waitIdle)) ∧
      u.uplink = { reserved := 0, filled := keptEnvelopes m } ∧
      (∀ x : Fin 4, m.sessions[x].state ≠ .idle → u.sessions[x] = Session.reset) ∧
      (∀ x : Fin 4, m.sessions[x].state = .idle → u.sessions[x] = m.sessions[x]) ∧
      (∀ i : Fin 16, m.call.phase ≠ .idle → m.call.slot = some i → u.call.phase = .idle ∧ u.call.timer = none ∧
        u.ring[i] = { m.ring[i] with owner := .office, result := .aborted, second := some s.seconds } ∧
        let back := (m.setRing (put m.ring i
          { m.ring[i] with owner := .office, result := .aborted, second := some s.seconds })).setCall
          { next := m.call.next + 1, refused := 0, phase := .idle, slot := none, timer := none }
        u.ring = (missedCheck back).ring ∧ u.call = (missedCheck back).call ∧
          u.event .windowMissed = (missedCheck back).event .windowMissed) ∧
      (m.call.phase = .idle → u.call = m.call ∧ u.ring = m.ring) ∧
      u.safe = { m.safe with
        owed := true
        lock := if m.safe.lock = .delay ∨ m.safe.lock = .window then .locked else m.safe.lock
        timer := if m.safe.lock = .delay ∨ m.safe.lock = .window then none else m.safe.timer } ∧
      RepliedDetail s u tag 0x5F .accepted (m.uplink.filled.length - (keptEnvelopes m).length) [] ∧
      (let slot := if m.call.phase = .idle then none else m.call.slot
       let outbound := (slot.map fun i => m.ring[i].outbound).getD []
       let received := (slot.map fun i => m.ring[i].received).getD []
       (∀ (n : Nat) (b : Bag), findBag m n = some b → b.state.terminal = false ∨ s.day.state ≠ .closing →
        ∃ b', findBag u n = some b' ∧ b'.unsigned = (b.unsigned || received.contains n) ∧
          (b.state = .loaded → n ∈ outbound →
            b' = { b with state := .hatchHeld, entered := s.seconds, unsigned := b'.unsigned }) ∧
          (b.state = .inHandling → n ∈ outbound →
            b' = { b with state := .madeUp, entered := s.seconds, pin := none, unsigned := b'.unsigned }) ∧
          (∀ x : Fin 4, m.sessions[x].state ≠ .idle → m.sessions[x].bag = n → b.session = some x →
            b.state = .counting ∨ b.state = .countSuspended →
            b' = { b with state := .outForCount, session := none, entered := s.seconds, unsigned := b'.unsigned }) ∧
          ((b.state = .loaded ∨ b.state = .inHandling → n ∉ outbound) →
            (∀ x : Fin 4, m.sessions[x].state ≠ .idle → m.sessions[x].bag = n → b.session ≠ some x) →
            b' = { b with pin := b'.pin, unsigned := b'.unsigned } ∧
              (b.state ≠ .inSafe → b.state ≠ .handedOver → b'.pin = b.pin))) ∧
       u.event .handoverAborted = raisedIf slot.isSome .handoverAborted (slot.elim 0 Fin.val) m) ∧
      unchangedBut ([.bags, .safe, .sessions, .ring, .call, .floor, .room, .uplink] ++ closingParts s ++ Part.replyParts) m u ∧
      eventsBut ([.handoverAborted, .windowMissed] ++ closingEvents s) m u

/-! ## What the commands leave alone -/

/-- The commands of a line port, with no marked frame in its window (R153 to R164); the commands that end a marked frame's window as an error, which change
what the taking of that frame may change, and LINK_ERROR (R155, R156); and an owed safe command's placing (R93). -/
def Obligations.LineCommandsLeave : Prop :=
  (∀ (p : Port) (c : Instr) (s t : State) (w : Window), markedWindow s p = some w → (s.port p).tx.phase = .idle →
    (c = .breakPulse p ∨ c = .lineIdle p ∨ c = .frameStart p ∨ (∃ bits, c = .endOfData p bits) ∨ (∃ mark, c = .markByte p mark) ∨
      (∃ sym, c = .symbolError p sym) ∨ ∃ sym inc, c = .framingError p sym inc) →
    exec c s = .next t →
      unchangedBut (takenParts w.frame ++ closingParts s ++ Part.answerParts) s t ∧
      eventsBut (takenEvents w.frame ++ [.linkError] ++ closingEvents s) s t ∧
      (∃ more, t.uplink.filled = s.uplink.filled ++ more) ∧
      ∀ q : Port, (t.port q).tx = (s.port q).tx ∧ (t.port q).down = (s.port q).down ∧
        (q ≠ p → (t.port q).rx = (s.port q).rx ∧ (t.port q).lineIdle = (s.port q).lineIdle ∧ (t.port q).errors = (s.port q).errors) ∧
        ∃ more, (t.port q).out.filled = (s.port q).out.filled ++ more) ∧
  (∀ c ∈ [Instr.frameStart, Instr.breakPulse, Instr.lineIdle, Instr.longFrame, Instr.currentFrameChoice, Instr.transmitStart,
    Instr.headerSent, Instr.sendClash, Instr.dataSent, Instr.windowClose, Instr.unmarkedFrameDropped], LineLeaves c [.linkError]) ∧
  (∀ bits, LineLeaves (fun p => .endOfData p bits) [.linkError, .queueFull]) ∧
  (∀ mark, LineLeaves (fun p => .markByte p mark) [.linkError]) ∧
  (∀ sym, LineLeaves (fun p => .symbolError p sym) [.linkError]) ∧
  (∀ sym inc, LineLeaves (fun p => .framingError p sym inc) [.linkError]) ∧
  (∀ bit, LineLeaves (fun p => .arbitrationLost p bit) [.linkError]) ∧
  (∀ s t : State, exec .safeCommandPlaced s = .next t →
    unchangedBut ([.safe, .room] ++ Part.eventParts) s t ∧ t.safe = { s.safe with owed := t.safe.owed } ∧
      (t.room = s.room ∨ ∃ f, t.room = { s.room with out := { s.room.out with filled := s.room.out.filled ++ [f] } }))

/-- The till frames, with every other drawer (R44 to R57, R61 to R72); a FLOAT_RECEIPT may clear the open order of the till of its bag's order as well. -/
def Obligations.TillFramesLeave : Prop :=
  (FrameLeaves .tender [.drawers]
    [.tenderUnapplied, .sequenceGap, .drawerHold, .pickupDue, .expectedSaturated, .queueFull] ∧
  FrameLeaves .refund [.drawers]
    [.tenderUnapplied, .sequenceGap, .drawerHold, .pickupDue, .expectedSaturated, .queueFull] ∧
  FrameLeaves .pickup [.drawers, .bags] [.sequenceGap, .drawerHold, .pickupDue, .expectedSaturated, .queueFull] ∧
  FrameLeaves .cashup [.drawers, .bags] [.sequenceGap, .drawerHold, .pickupDue, .expectedSaturated, .queueFull] ∧
  FrameLeaves .tillOpen [.drawers] [.drawerHold, .pickupDue, .queueFull] ∧
  FrameLeaves .declare [.drawers, .orders, .stock] [.sequenceGap, .declareVariance, .stockShort] ∧
  FrameLeaves .floatReceipt [.drawers, .bags, .orders]
    [.sequenceGap, .drawerHold, .pickupDue, .expectedSaturated, .queueFull]) ∧
  (∀ c ∈ [Instr.tender, Instr.refund, Instr.pickup, Instr.cashup, Instr.tillOpen, Instr.declare],
    ∀ (p : Port) (s t : State) (w : Window), (s.port p).rx = .markWindow w → exec (c p) s = .next t →
      ∀ k : Fin 160, k ≠ tillOf s w.frame.src → t.drawers[k] = s.drawers[k]) ∧
  ∀ (p : Port) (s t : State) (w : Window), (s.port p).rx = .markWindow w → exec (.floatReceipt p) s = .next t →
    ∀ k : Fin 160, k ≠ tillOf s w.frame.src → t.drawers[k] = s.drawers[k] ∨
      ∃ q n b i, parseReceipt w.frame.body = some (q, n) ∧ findBag s n = some b ∧ b.order = some i ∧ s.orders[i].till = k ∧
        t.drawers[k] = { s.drawers[k] with openOrder := none }

/-- The frames of the stock, the safe, the counters, the hatch and the consoles, the opaque frames and the unknown kinds; with every bag but the one that the
body names, or that the session counts; every bag beside a created one; and every session but the one that the counter or the body names. -/
def Obligations.RoomFramesLeave : Prop :=
  (FrameLeaves .makeUpFloat [.orders, .bags, .stock, .acc] [] ∧ FrameLeaves .makeUpConsignment [.bags, .stock, .acc] [] ∧
  FrameLeaves .restock [.stock, .acc, .bags, .orders, .drawers] [] ∧
  FrameLeaves .drop [.bags, .safe] [.chuteHeld, .safeFull] ∧ FrameLeaves .withdraw [.bags, .safe] [] ∧
  FrameLeaves .deposit [.bags, .safe] [.safeFull] ∧ FrameLeaves .doorOpen [.safe] [.doorForced] ∧
  FrameLeaves .doorClosed [.safe] [] ∧ FrameLeaves .openRequest [.safe] [] ∧ FrameLeaves .openCancel [.safe] [] ∧
  FrameLeaves .openConfirm [.safe] [.safeLockout] ∧ FrameLeaves .bagOpen [.sessions, .bags] [] ∧
  FrameLeaves .batch [.sessions] [] ∧ FrameLeaves .handKey [.sessions] [] ∧
  FrameLeaves .bagClose [.sessions, .bags, .stock, .acc, .drawers, .tallies]
    [.bagVariance, .suspectFound, .tallyHalf, .tallyFull] ∧
  FrameLeaves .countAbort [.sessions, .bags] [] ∧
  FrameLeaves .announce [.call, .ring, .bags] [.handoverAborted, .windowMissed] ∧ FrameLeaves .load [.bags, .call] [] ∧
  FrameLeaves .receive [.bags, .ring] [] ∧
  FrameLeaves .sign [.bags, .ring, .call] [.inboundVariance, .handoverDone, .windowMissed] ∧
  FrameLeaves .opaqueFrame [] [] ∧ FrameLeaves .unknownKindFrame [] []) ∧
  (∀ c ∈ [Instr.drop, Instr.withdraw, Instr.deposit, Instr.load, Instr.restock, Instr.bagOpen], ∀ (p : Port) (s t : State) (w : Window),
    (s.port p).rx = .markWindow w → exec (c p) s = .next t → s.day.state ≠ .closing →
      ∀ m, parseSeal w.frame.body ≠ some m → findBag t m = findBag s m) ∧
  (∀ c ∈ [Instr.makeUpFloat, Instr.makeUpConsignment, Instr.receive, Instr.pickup, Instr.cashup], ∀ (p : Port) (s t : State),
    exec (c p) s = .next t → s.day.state ≠ .closing → t.bags = s.bags ∨ ∃ b, t.bags = s.bags ++ [b]) ∧
  (∀ c ∈ [Instr.bagClose, Instr.countAbort], ∀ (p : Port) (s t : State) (w : Window),
    (s.port p).rx = .markWindow w → exec (c p) s = .next t → s.day.state ≠ .closing →
      ∀ m, (∀ x, sessionNamed s w.frame = some x → s.sessions[x].bag ≠ m) → findBag t m = findBag s m) ∧
  (∀ c ∈ [Instr.bagOpen, Instr.batch, Instr.bagClose, Instr.handKey, Instr.countAbort], ∀ (p : Port) (s t : State) (w : Window),
    (s.port p).rx = .markWindow w → exec (c p) s = .next t →
      ∀ x : Fin 4, sessionNamed s w.frame ≠ some x → t.sessions[x] = s.sessions[x])

/-- The requests, the trunk's own commands and the expiries. -/
def Obligations.OtherCommandsLeave : Prop :=
  (RequestLeaves .tableSelect [.pointer] [] ∧ RequestLeaves .tableGet [.pointer] [] ∧ RequestLeaves .tablePut [] [] ∧
  RequestLeaves .tablePutDenom [.denoms, .pointer] [] ∧ RequestLeaves .tablePutNode [.nodes, .pointer, .safe, .room] [] ∧
  RequestLeaves .tablePutWitness [.witness, .pointer] [] ∧ RequestLeaves .tablePutTill [.tills, .pointer] [] ∧
  RequestLeaves .tablePutTiming [.timing, .pointer] [] ∧ RequestLeaves .tablePutRing [.ring, .pointer] [] ∧
  RequestLeaves .status [] [] ∧ RequestLeaves .eventsRead [] [] ∧ RequestLeaves .clearEvents [] Event.all ∧
  RequestLeaves .tallyRead [] [] ∧ RequestLeaves .tallyReadClear [.tallies] [] ∧
  RequestLeaves .dayOpen [.day, .drawers, .acc] [.dayChanged] ∧ RequestLeaves .dayTrade [.day] [.dayChanged] ∧
  RequestLeaves .dayClose [.day, .bags, .orders, .stock, .drawers] [.dayChanged, .orderCancelled] ∧
  RequestLeaves .dayCloseForce [.day, .bags, .orders, .stock, .drawers, .sessions] [.dayChanged, .orderCancelled] ∧
  RequestLeaves .setClock [.day, .ring, .call, .bags] [.windowMissed] ∧ RequestLeaves .consignHand [.ring, .bags] [] ∧
  RequestLeaves .consignRecall [.ring, .bags] [] ∧ RequestLeaves .hatchRelease [.bags] [] ∧
  RequestLeaves .orderCancel [.orders, .stock, .drawers] [.orderCancelled] ∧ RequestLeaves .safeRelease [.safe, .room] [] ∧
  RequestLeaves .stockSet [.stock, .acc] [] ∧ RequestLeaves .suspectRelease [.stock] [] ∧
  RequestLeaves .tillSuspend [.drawers] [] ∧ RequestLeaves .requestUnknown [] [] ∧ RequestLeaves .send [.floor, .room] []) ∧
  (∀ s t : State, exec .eventEnable s = .next t → unchangedBut Part.replyParts s t ∧
    ∀ e : Event, (t.event e).detail = (s.event e).detail ∧ (t.event e).count = (s.event e).count) ∧
  (∀ (chars : List Byte) (s t : State), WaitingSound s → exec (.trunkFrameReceived chars) s = .next t →
    unchangedBut ([.trunk] ++ Part.eventParts) s t ∧ eventsBut [.linkError] s t ∧
      ∃ more, t.trunk.buffer = s.trunk.buffer ++ more) ∧
  (∀ (b : Bool) (s t : State), exec (.trunkHoldInput b) s = .next t → unchangedBut ([.trunk] ++ Part.eventParts) s t ∧
    eventsBut [] s t ∧ t.trunk.buffer = s.trunk.buffer) ∧
  (∀ s t : State, exec .trunkFrameStart s = .next t → unchangedBut ([.trunk] ++ Part.eventParts) s t ∧ eventsBut [] s t ∧
    t.trunk.buffer = s.trunk.buffer) ∧
  (∀ s t : State, exec .trunkFrameSent s = .next t → unchangedBut ([.trunk, .uplink] ++ Part.eventParts) s t ∧
    eventsBut [] s t ∧ t.trunk.buffer = s.trunk.buffer) ∧
  ∀ x ∈ [(Instr.delayExpiry, [Part.safe], []), (.windowExpiry, [.safe], [.windowExpired]), (.relockExpiry, [.safe, .room], []),
      (.countIdleExpiry 0, [.sessions, .bags], [Event.countSuspended]), (.countIdleExpiry 1, [.sessions, .bags], [.countSuspended]),
      (.countIdleExpiry 2, [.sessions, .bags], [.countSuspended]), (.countIdleExpiry 3, [.sessions, .bags], [.countSuspended]),
      (.exchangeTimeout, [.bags, .ring, .call], [.handoverAborted, .windowMissed]),
      (.signTimeout, [.bags, .ring, .call], [.handoverAborted, .windowMissed]),
      (.dayClockAdvance, [.day, .ring, .call, .bags], [.windowMissed])],
    ∀ s t : State, exec x.1 s = .next t →
      unchangedBut (x.2.1 ++ closingParts s ++ Part.eventParts) s t ∧ eventsBut (x.2.2 ++ closingEvents s) s t
end

