-- ==== Sys2Proof/Laws/State.lean ====
section
/-! SUPPORT. One lemma for each field under each named update of the state, and the same for the updates of a port's parts. -/

namespace Sys2Proof.Machine

/-! ## Named updates -/

/-! `setPending` -/

@[simp] theorem State.setPending_pending (s : State) (x : List Instr) : (s.setPending x).pending = x := rfl
@[simp] theorem State.setPending_seconds (s : State) (x : List Instr) : (s.setPending x).seconds = s.seconds := rfl
@[simp] theorem State.setPending_denoms (s : State) (x : List Instr) : (s.setPending x).denoms = s.denoms := rfl
@[simp] theorem State.setPending_stock (s : State) (x : List Instr) : (s.setPending x).stock = s.stock := rfl
@[simp] theorem State.setPending_acc (s : State) (x : List Instr) : (s.setPending x).acc = s.acc := rfl
@[simp] theorem State.setPending_bags (s : State) (x : List Instr) : (s.setPending x).bags = s.bags := rfl
@[simp] theorem State.setPending_tills (s : State) (x : List Instr) : (s.setPending x).tills = s.tills := rfl
@[simp] theorem State.setPending_drawers (s : State) (x : List Instr) : (s.setPending x).drawers = s.drawers := rfl
@[simp] theorem State.setPending_orders (s : State) (x : List Instr) : (s.setPending x).orders = s.orders := rfl
@[simp] theorem State.setPending_safe (s : State) (x : List Instr) : (s.setPending x).safe = s.safe := rfl
@[simp] theorem State.setPending_sessions (s : State) (x : List Instr) : (s.setPending x).sessions = s.sessions := rfl
@[simp] theorem State.setPending_tallies (s : State) (x : List Instr) : (s.setPending x).tallies = s.tallies := rfl
@[simp] theorem State.setPending_ring (s : State) (x : List Instr) : (s.setPending x).ring = s.ring := rfl
@[simp] theorem State.setPending_call (s : State) (x : List Instr) : (s.setPending x).call = s.call := rfl
@[simp] theorem State.setPending_day (s : State) (x : List Instr) : (s.setPending x).day = s.day := rfl
@[simp] theorem State.setPending_nodes (s : State) (x : List Instr) : (s.setPending x).nodes = s.nodes := rfl
@[simp] theorem State.setPending_witness (s : State) (x : List Instr) : (s.setPending x).witness = s.witness := rfl
@[simp] theorem State.setPending_timing (s : State) (x : List Instr) : (s.setPending x).timing = s.timing := rfl
@[simp] theorem State.setPending_floor (s : State) (x : List Instr) : (s.setPending x).floor = s.floor := rfl
@[simp] theorem State.setPending_room (s : State) (x : List Instr) : (s.setPending x).room = s.room := rfl
@[simp] theorem State.setPending_uplink (s : State) (x : List Instr) : (s.setPending x).uplink = s.uplink := rfl
@[simp] theorem State.setPending_trunk (s : State) (x : List Instr) : (s.setPending x).trunk = s.trunk := rfl
@[simp] theorem State.setPending_pointer (s : State) (x : List Instr) : (s.setPending x).pointer = s.pointer := rfl
@[simp] theorem State.setPending_events (s : State) (x : List Instr) : (s.setPending x).events = s.events := rfl
@[simp] theorem State.setPending_vector (s : State) (x : List Instr) : (s.setPending x).vector = s.vector := rfl
@[simp] theorem State.setPending_attention (s : State) (x : List Instr) : (s.setPending x).attention = s.attention := rfl
@[simp] theorem State.setPending_draws (s : State) (x : List Instr) : (s.setPending x).draws = s.draws := rfl
@[simp] theorem State.setPending_port (s : State) (x : List Instr) (p : Port) : (s.setPending x).port p = s.port p := by
  cases p <;> rfl

/-! `setSeconds` -/

@[simp] theorem State.setSeconds_pending (s : State) (x : Nat) : (s.setSeconds x).pending = s.pending := rfl
@[simp] theorem State.setSeconds_seconds (s : State) (x : Nat) : (s.setSeconds x).seconds = x := rfl
@[simp] theorem State.setSeconds_denoms (s : State) (x : Nat) : (s.setSeconds x).denoms = s.denoms := rfl
@[simp] theorem State.setSeconds_stock (s : State) (x : Nat) : (s.setSeconds x).stock = s.stock := rfl
@[simp] theorem State.setSeconds_acc (s : State) (x : Nat) : (s.setSeconds x).acc = s.acc := rfl
@[simp] theorem State.setSeconds_bags (s : State) (x : Nat) : (s.setSeconds x).bags = s.bags := rfl
@[simp] theorem State.setSeconds_tills (s : State) (x : Nat) : (s.setSeconds x).tills = s.tills := rfl
@[simp] theorem State.setSeconds_drawers (s : State) (x : Nat) : (s.setSeconds x).drawers = s.drawers := rfl
@[simp] theorem State.setSeconds_orders (s : State) (x : Nat) : (s.setSeconds x).orders = s.orders := rfl
@[simp] theorem State.setSeconds_safe (s : State) (x : Nat) : (s.setSeconds x).safe = s.safe := rfl
@[simp] theorem State.setSeconds_sessions (s : State) (x : Nat) : (s.setSeconds x).sessions = s.sessions := rfl
@[simp] theorem State.setSeconds_tallies (s : State) (x : Nat) : (s.setSeconds x).tallies = s.tallies := rfl
@[simp] theorem State.setSeconds_ring (s : State) (x : Nat) : (s.setSeconds x).ring = s.ring := rfl
@[simp] theorem State.setSeconds_call (s : State) (x : Nat) : (s.setSeconds x).call = s.call := rfl
@[simp] theorem State.setSeconds_day (s : State) (x : Nat) : (s.setSeconds x).day = s.day := rfl
@[simp] theorem State.setSeconds_nodes (s : State) (x : Nat) : (s.setSeconds x).nodes = s.nodes := rfl
@[simp] theorem State.setSeconds_witness (s : State) (x : Nat) : (s.setSeconds x).witness = s.witness := rfl
@[simp] theorem State.setSeconds_timing (s : State) (x : Nat) : (s.setSeconds x).timing = s.timing := rfl
@[simp] theorem State.setSeconds_floor (s : State) (x : Nat) : (s.setSeconds x).floor = s.floor := rfl
@[simp] theorem State.setSeconds_room (s : State) (x : Nat) : (s.setSeconds x).room = s.room := rfl
@[simp] theorem State.setSeconds_uplink (s : State) (x : Nat) : (s.setSeconds x).uplink = s.uplink := rfl
@[simp] theorem State.setSeconds_trunk (s : State) (x : Nat) : (s.setSeconds x).trunk = s.trunk := rfl
@[simp] theorem State.setSeconds_pointer (s : State) (x : Nat) : (s.setSeconds x).pointer = s.pointer := rfl
@[simp] theorem State.setSeconds_events (s : State) (x : Nat) : (s.setSeconds x).events = s.events := rfl
@[simp] theorem State.setSeconds_vector (s : State) (x : Nat) : (s.setSeconds x).vector = s.vector := rfl
@[simp] theorem State.setSeconds_attention (s : State) (x : Nat) : (s.setSeconds x).attention = s.attention := rfl
@[simp] theorem State.setSeconds_draws (s : State) (x : Nat) : (s.setSeconds x).draws = s.draws := rfl
@[simp] theorem State.setSeconds_port (s : State) (x : Nat) (p : Port) : (s.setSeconds x).port p = s.port p := by
  cases p <;> rfl

/-! `setDenoms` -/

@[simp] theorem State.setDenoms_pending (s : State) (x : Vector Denom 12) : (s.setDenoms x).pending = s.pending := rfl
@[simp] theorem State.setDenoms_seconds (s : State) (x : Vector Denom 12) : (s.setDenoms x).seconds = s.seconds := rfl
@[simp] theorem State.setDenoms_denoms (s : State) (x : Vector Denom 12) : (s.setDenoms x).denoms = x := rfl
@[simp] theorem State.setDenoms_stock (s : State) (x : Vector Denom 12) : (s.setDenoms x).stock = s.stock := rfl
@[simp] theorem State.setDenoms_acc (s : State) (x : Vector Denom 12) : (s.setDenoms x).acc = s.acc := rfl
@[simp] theorem State.setDenoms_bags (s : State) (x : Vector Denom 12) : (s.setDenoms x).bags = s.bags := rfl
@[simp] theorem State.setDenoms_tills (s : State) (x : Vector Denom 12) : (s.setDenoms x).tills = s.tills := rfl
@[simp] theorem State.setDenoms_drawers (s : State) (x : Vector Denom 12) : (s.setDenoms x).drawers = s.drawers := rfl
@[simp] theorem State.setDenoms_orders (s : State) (x : Vector Denom 12) : (s.setDenoms x).orders = s.orders := rfl
@[simp] theorem State.setDenoms_safe (s : State) (x : Vector Denom 12) : (s.setDenoms x).safe = s.safe := rfl
@[simp] theorem State.setDenoms_sessions (s : State) (x : Vector Denom 12) : (s.setDenoms x).sessions = s.sessions := rfl
@[simp] theorem State.setDenoms_tallies (s : State) (x : Vector Denom 12) : (s.setDenoms x).tallies = s.tallies := rfl
@[simp] theorem State.setDenoms_ring (s : State) (x : Vector Denom 12) : (s.setDenoms x).ring = s.ring := rfl
@[simp] theorem State.setDenoms_call (s : State) (x : Vector Denom 12) : (s.setDenoms x).call = s.call := rfl
@[simp] theorem State.setDenoms_day (s : State) (x : Vector Denom 12) : (s.setDenoms x).day = s.day := rfl
@[simp] theorem State.setDenoms_nodes (s : State) (x : Vector Denom 12) : (s.setDenoms x).nodes = s.nodes := rfl
@[simp] theorem State.setDenoms_witness (s : State) (x : Vector Denom 12) : (s.setDenoms x).witness = s.witness := rfl
@[simp] theorem State.setDenoms_timing (s : State) (x : Vector Denom 12) : (s.setDenoms x).timing = s.timing := rfl
@[simp] theorem State.setDenoms_floor (s : State) (x : Vector Denom 12) : (s.setDenoms x).floor = s.floor := rfl
@[simp] theorem State.setDenoms_room (s : State) (x : Vector Denom 12) : (s.setDenoms x).room = s.room := rfl
@[simp] theorem State.setDenoms_uplink (s : State) (x : Vector Denom 12) : (s.setDenoms x).uplink = s.uplink := rfl
@[simp] theorem State.setDenoms_trunk (s : State) (x : Vector Denom 12) : (s.setDenoms x).trunk = s.trunk := rfl
@[simp] theorem State.setDenoms_pointer (s : State) (x : Vector Denom 12) : (s.setDenoms x).pointer = s.pointer := rfl
@[simp] theorem State.setDenoms_events (s : State) (x : Vector Denom 12) : (s.setDenoms x).events = s.events := rfl
@[simp] theorem State.setDenoms_vector (s : State) (x : Vector Denom 12) : (s.setDenoms x).vector = s.vector := rfl
@[simp] theorem State.setDenoms_attention (s : State) (x : Vector Denom 12) : (s.setDenoms x).attention = s.attention := rfl
@[simp] theorem State.setDenoms_draws (s : State) (x : Vector Denom 12) : (s.setDenoms x).draws = s.draws := rfl
@[simp] theorem State.setDenoms_port (s : State) (x : Vector Denom 12) (p : Port) : (s.setDenoms x).port p = s.port p := by
  cases p <;> rfl

/-! `setStock` -/

@[simp] theorem State.setStock_pending (s : State) (x : Vector StockRec 12) : (s.setStock x).pending = s.pending := rfl
@[simp] theorem State.setStock_seconds (s : State) (x : Vector StockRec 12) : (s.setStock x).seconds = s.seconds := rfl
@[simp] theorem State.setStock_denoms (s : State) (x : Vector StockRec 12) : (s.setStock x).denoms = s.denoms := rfl
@[simp] theorem State.setStock_stock (s : State) (x : Vector StockRec 12) : (s.setStock x).stock = x := rfl
@[simp] theorem State.setStock_acc (s : State) (x : Vector StockRec 12) : (s.setStock x).acc = s.acc := rfl
@[simp] theorem State.setStock_bags (s : State) (x : Vector StockRec 12) : (s.setStock x).bags = s.bags := rfl
@[simp] theorem State.setStock_tills (s : State) (x : Vector StockRec 12) : (s.setStock x).tills = s.tills := rfl
@[simp] theorem State.setStock_drawers (s : State) (x : Vector StockRec 12) : (s.setStock x).drawers = s.drawers := rfl
@[simp] theorem State.setStock_orders (s : State) (x : Vector StockRec 12) : (s.setStock x).orders = s.orders := rfl
@[simp] theorem State.setStock_safe (s : State) (x : Vector StockRec 12) : (s.setStock x).safe = s.safe := rfl
@[simp] theorem State.setStock_sessions (s : State) (x : Vector StockRec 12) : (s.setStock x).sessions = s.sessions := rfl
@[simp] theorem State.setStock_tallies (s : State) (x : Vector StockRec 12) : (s.setStock x).tallies = s.tallies := rfl
@[simp] theorem State.setStock_ring (s : State) (x : Vector StockRec 12) : (s.setStock x).ring = s.ring := rfl
@[simp] theorem State.setStock_call (s : State) (x : Vector StockRec 12) : (s.setStock x).call = s.call := rfl
@[simp] theorem State.setStock_day (s : State) (x : Vector StockRec 12) : (s.setStock x).day = s.day := rfl
@[simp] theorem State.setStock_nodes (s : State) (x : Vector StockRec 12) : (s.setStock x).nodes = s.nodes := rfl
@[simp] theorem State.setStock_witness (s : State) (x : Vector StockRec 12) : (s.setStock x).witness = s.witness := rfl
@[simp] theorem State.setStock_timing (s : State) (x : Vector StockRec 12) : (s.setStock x).timing = s.timing := rfl
@[simp] theorem State.setStock_floor (s : State) (x : Vector StockRec 12) : (s.setStock x).floor = s.floor := rfl
@[simp] theorem State.setStock_room (s : State) (x : Vector StockRec 12) : (s.setStock x).room = s.room := rfl
@[simp] theorem State.setStock_uplink (s : State) (x : Vector StockRec 12) : (s.setStock x).uplink = s.uplink := rfl
@[simp] theorem State.setStock_trunk (s : State) (x : Vector StockRec 12) : (s.setStock x).trunk = s.trunk := rfl
@[simp] theorem State.setStock_pointer (s : State) (x : Vector StockRec 12) : (s.setStock x).pointer = s.pointer := rfl
@[simp] theorem State.setStock_events (s : State) (x : Vector StockRec 12) : (s.setStock x).events = s.events := rfl
@[simp] theorem State.setStock_vector (s : State) (x : Vector StockRec 12) : (s.setStock x).vector = s.vector := rfl
@[simp] theorem State.setStock_attention (s : State) (x : Vector StockRec 12) : (s.setStock x).attention = s.attention := rfl
@[simp] theorem State.setStock_draws (s : State) (x : Vector StockRec 12) : (s.setStock x).draws = s.draws := rfl
@[simp] theorem State.setStock_port (s : State) (x : Vector StockRec 12) (p : Port) : (s.setStock x).port p = s.port p := by
  cases p <;> rfl

/-! `setAcc` -/

@[simp] theorem State.setAcc_pending (s : State) (x : Accumulators) : (s.setAcc x).pending = s.pending := rfl
@[simp] theorem State.setAcc_seconds (s : State) (x : Accumulators) : (s.setAcc x).seconds = s.seconds := rfl
@[simp] theorem State.setAcc_denoms (s : State) (x : Accumulators) : (s.setAcc x).denoms = s.denoms := rfl
@[simp] theorem State.setAcc_stock (s : State) (x : Accumulators) : (s.setAcc x).stock = s.stock := rfl
@[simp] theorem State.setAcc_acc (s : State) (x : Accumulators) : (s.setAcc x).acc = x := rfl
@[simp] theorem State.setAcc_bags (s : State) (x : Accumulators) : (s.setAcc x).bags = s.bags := rfl
@[simp] theorem State.setAcc_tills (s : State) (x : Accumulators) : (s.setAcc x).tills = s.tills := rfl
@[simp] theorem State.setAcc_drawers (s : State) (x : Accumulators) : (s.setAcc x).drawers = s.drawers := rfl
@[simp] theorem State.setAcc_orders (s : State) (x : Accumulators) : (s.setAcc x).orders = s.orders := rfl
@[simp] theorem State.setAcc_safe (s : State) (x : Accumulators) : (s.setAcc x).safe = s.safe := rfl
@[simp] theorem State.setAcc_sessions (s : State) (x : Accumulators) : (s.setAcc x).sessions = s.sessions := rfl
@[simp] theorem State.setAcc_tallies (s : State) (x : Accumulators) : (s.setAcc x).tallies = s.tallies := rfl
@[simp] theorem State.setAcc_ring (s : State) (x : Accumulators) : (s.setAcc x).ring = s.ring := rfl
@[simp] theorem State.setAcc_call (s : State) (x : Accumulators) : (s.setAcc x).call = s.call := rfl
@[simp] theorem State.setAcc_day (s : State) (x : Accumulators) : (s.setAcc x).day = s.day := rfl
@[simp] theorem State.setAcc_nodes (s : State) (x : Accumulators) : (s.setAcc x).nodes = s.nodes := rfl
@[simp] theorem State.setAcc_witness (s : State) (x : Accumulators) : (s.setAcc x).witness = s.witness := rfl
@[simp] theorem State.setAcc_timing (s : State) (x : Accumulators) : (s.setAcc x).timing = s.timing := rfl
@[simp] theorem State.setAcc_floor (s : State) (x : Accumulators) : (s.setAcc x).floor = s.floor := rfl
@[simp] theorem State.setAcc_room (s : State) (x : Accumulators) : (s.setAcc x).room = s.room := rfl
@[simp] theorem State.setAcc_uplink (s : State) (x : Accumulators) : (s.setAcc x).uplink = s.uplink := rfl
@[simp] theorem State.setAcc_trunk (s : State) (x : Accumulators) : (s.setAcc x).trunk = s.trunk := rfl
@[simp] theorem State.setAcc_pointer (s : State) (x : Accumulators) : (s.setAcc x).pointer = s.pointer := rfl
@[simp] theorem State.setAcc_events (s : State) (x : Accumulators) : (s.setAcc x).events = s.events := rfl
@[simp] theorem State.setAcc_vector (s : State) (x : Accumulators) : (s.setAcc x).vector = s.vector := rfl
@[simp] theorem State.setAcc_attention (s : State) (x : Accumulators) : (s.setAcc x).attention = s.attention := rfl
@[simp] theorem State.setAcc_draws (s : State) (x : Accumulators) : (s.setAcc x).draws = s.draws := rfl
@[simp] theorem State.setAcc_port (s : State) (x : Accumulators) (p : Port) : (s.setAcc x).port p = s.port p := by
  cases p <;> rfl

/-! `setBags` -/

@[simp] theorem State.setBags_pending (s : State) (x : List Bag) : (s.setBags x).pending = s.pending := rfl
@[simp] theorem State.setBags_seconds (s : State) (x : List Bag) : (s.setBags x).seconds = s.seconds := rfl
@[simp] theorem State.setBags_denoms (s : State) (x : List Bag) : (s.setBags x).denoms = s.denoms := rfl
@[simp] theorem State.setBags_stock (s : State) (x : List Bag) : (s.setBags x).stock = s.stock := rfl
@[simp] theorem State.setBags_acc (s : State) (x : List Bag) : (s.setBags x).acc = s.acc := rfl
@[simp] theorem State.setBags_bags (s : State) (x : List Bag) : (s.setBags x).bags = x := rfl
@[simp] theorem State.setBags_tills (s : State) (x : List Bag) : (s.setBags x).tills = s.tills := rfl
@[simp] theorem State.setBags_drawers (s : State) (x : List Bag) : (s.setBags x).drawers = s.drawers := rfl
@[simp] theorem State.setBags_orders (s : State) (x : List Bag) : (s.setBags x).orders = s.orders := rfl
@[simp] theorem State.setBags_safe (s : State) (x : List Bag) : (s.setBags x).safe = s.safe := rfl
@[simp] theorem State.setBags_sessions (s : State) (x : List Bag) : (s.setBags x).sessions = s.sessions := rfl
@[simp] theorem State.setBags_tallies (s : State) (x : List Bag) : (s.setBags x).tallies = s.tallies := rfl
@[simp] theorem State.setBags_ring (s : State) (x : List Bag) : (s.setBags x).ring = s.ring := rfl
@[simp] theorem State.setBags_call (s : State) (x : List Bag) : (s.setBags x).call = s.call := rfl
@[simp] theorem State.setBags_day (s : State) (x : List Bag) : (s.setBags x).day = s.day := rfl
@[simp] theorem State.setBags_nodes (s : State) (x : List Bag) : (s.setBags x).nodes = s.nodes := rfl
@[simp] theorem State.setBags_witness (s : State) (x : List Bag) : (s.setBags x).witness = s.witness := rfl
@[simp] theorem State.setBags_timing (s : State) (x : List Bag) : (s.setBags x).timing = s.timing := rfl
@[simp] theorem State.setBags_floor (s : State) (x : List Bag) : (s.setBags x).floor = s.floor := rfl
@[simp] theorem State.setBags_room (s : State) (x : List Bag) : (s.setBags x).room = s.room := rfl
@[simp] theorem State.setBags_uplink (s : State) (x : List Bag) : (s.setBags x).uplink = s.uplink := rfl
@[simp] theorem State.setBags_trunk (s : State) (x : List Bag) : (s.setBags x).trunk = s.trunk := rfl
@[simp] theorem State.setBags_pointer (s : State) (x : List Bag) : (s.setBags x).pointer = s.pointer := rfl
@[simp] theorem State.setBags_events (s : State) (x : List Bag) : (s.setBags x).events = s.events := rfl
@[simp] theorem State.setBags_vector (s : State) (x : List Bag) : (s.setBags x).vector = s.vector := rfl
@[simp] theorem State.setBags_attention (s : State) (x : List Bag) : (s.setBags x).attention = s.attention := rfl
@[simp] theorem State.setBags_draws (s : State) (x : List Bag) : (s.setBags x).draws = s.draws := rfl
@[simp] theorem State.setBags_port (s : State) (x : List Bag) (p : Port) : (s.setBags x).port p = s.port p := by
  cases p <;> rfl

/-! `setTills` -/

@[simp] theorem State.setTills_pending (s : State) (x : Vector TillEntry 160) : (s.setTills x).pending = s.pending := rfl
@[simp] theorem State.setTills_seconds (s : State) (x : Vector TillEntry 160) : (s.setTills x).seconds = s.seconds := rfl
@[simp] theorem State.setTills_denoms (s : State) (x : Vector TillEntry 160) : (s.setTills x).denoms = s.denoms := rfl
@[simp] theorem State.setTills_stock (s : State) (x : Vector TillEntry 160) : (s.setTills x).stock = s.stock := rfl
@[simp] theorem State.setTills_acc (s : State) (x : Vector TillEntry 160) : (s.setTills x).acc = s.acc := rfl
@[simp] theorem State.setTills_bags (s : State) (x : Vector TillEntry 160) : (s.setTills x).bags = s.bags := rfl
@[simp] theorem State.setTills_tills (s : State) (x : Vector TillEntry 160) : (s.setTills x).tills = x := rfl
@[simp] theorem State.setTills_drawers (s : State) (x : Vector TillEntry 160) : (s.setTills x).drawers = s.drawers := rfl
@[simp] theorem State.setTills_orders (s : State) (x : Vector TillEntry 160) : (s.setTills x).orders = s.orders := rfl
@[simp] theorem State.setTills_safe (s : State) (x : Vector TillEntry 160) : (s.setTills x).safe = s.safe := rfl
@[simp] theorem State.setTills_sessions (s : State) (x : Vector TillEntry 160) : (s.setTills x).sessions = s.sessions := rfl
@[simp] theorem State.setTills_tallies (s : State) (x : Vector TillEntry 160) : (s.setTills x).tallies = s.tallies := rfl
@[simp] theorem State.setTills_ring (s : State) (x : Vector TillEntry 160) : (s.setTills x).ring = s.ring := rfl
@[simp] theorem State.setTills_call (s : State) (x : Vector TillEntry 160) : (s.setTills x).call = s.call := rfl
@[simp] theorem State.setTills_day (s : State) (x : Vector TillEntry 160) : (s.setTills x).day = s.day := rfl
@[simp] theorem State.setTills_nodes (s : State) (x : Vector TillEntry 160) : (s.setTills x).nodes = s.nodes := rfl
@[simp] theorem State.setTills_witness (s : State) (x : Vector TillEntry 160) : (s.setTills x).witness = s.witness := rfl
@[simp] theorem State.setTills_timing (s : State) (x : Vector TillEntry 160) : (s.setTills x).timing = s.timing := rfl
@[simp] theorem State.setTills_floor (s : State) (x : Vector TillEntry 160) : (s.setTills x).floor = s.floor := rfl
@[simp] theorem State.setTills_room (s : State) (x : Vector TillEntry 160) : (s.setTills x).room = s.room := rfl
@[simp] theorem State.setTills_uplink (s : State) (x : Vector TillEntry 160) : (s.setTills x).uplink = s.uplink := rfl
@[simp] theorem State.setTills_trunk (s : State) (x : Vector TillEntry 160) : (s.setTills x).trunk = s.trunk := rfl
@[simp] theorem State.setTills_pointer (s : State) (x : Vector TillEntry 160) : (s.setTills x).pointer = s.pointer := rfl
@[simp] theorem State.setTills_events (s : State) (x : Vector TillEntry 160) : (s.setTills x).events = s.events := rfl
@[simp] theorem State.setTills_vector (s : State) (x : Vector TillEntry 160) : (s.setTills x).vector = s.vector := rfl
@[simp] theorem State.setTills_attention (s : State) (x : Vector TillEntry 160) : (s.setTills x).attention = s.attention := rfl
@[simp] theorem State.setTills_draws (s : State) (x : Vector TillEntry 160) : (s.setTills x).draws = s.draws := rfl
@[simp] theorem State.setTills_port (s : State) (x : Vector TillEntry 160) (p : Port) : (s.setTills x).port p = s.port p := by
  cases p <;> rfl

/-! `setDrawers` -/

@[simp] theorem State.setDrawers_pending (s : State) (x : Vector Drawer 160) : (s.setDrawers x).pending = s.pending := rfl
@[simp] theorem State.setDrawers_seconds (s : State) (x : Vector Drawer 160) : (s.setDrawers x).seconds = s.seconds := rfl
@[simp] theorem State.setDrawers_denoms (s : State) (x : Vector Drawer 160) : (s.setDrawers x).denoms = s.denoms := rfl
@[simp] theorem State.setDrawers_stock (s : State) (x : Vector Drawer 160) : (s.setDrawers x).stock = s.stock := rfl
@[simp] theorem State.setDrawers_acc (s : State) (x : Vector Drawer 160) : (s.setDrawers x).acc = s.acc := rfl
@[simp] theorem State.setDrawers_bags (s : State) (x : Vector Drawer 160) : (s.setDrawers x).bags = s.bags := rfl
@[simp] theorem State.setDrawers_tills (s : State) (x : Vector Drawer 160) : (s.setDrawers x).tills = s.tills := rfl
@[simp] theorem State.setDrawers_drawers (s : State) (x : Vector Drawer 160) : (s.setDrawers x).drawers = x := rfl
@[simp] theorem State.setDrawers_orders (s : State) (x : Vector Drawer 160) : (s.setDrawers x).orders = s.orders := rfl
@[simp] theorem State.setDrawers_safe (s : State) (x : Vector Drawer 160) : (s.setDrawers x).safe = s.safe := rfl
@[simp] theorem State.setDrawers_sessions (s : State) (x : Vector Drawer 160) : (s.setDrawers x).sessions = s.sessions := rfl
@[simp] theorem State.setDrawers_tallies (s : State) (x : Vector Drawer 160) : (s.setDrawers x).tallies = s.tallies := rfl
@[simp] theorem State.setDrawers_ring (s : State) (x : Vector Drawer 160) : (s.setDrawers x).ring = s.ring := rfl
@[simp] theorem State.setDrawers_call (s : State) (x : Vector Drawer 160) : (s.setDrawers x).call = s.call := rfl
@[simp] theorem State.setDrawers_day (s : State) (x : Vector Drawer 160) : (s.setDrawers x).day = s.day := rfl
@[simp] theorem State.setDrawers_nodes (s : State) (x : Vector Drawer 160) : (s.setDrawers x).nodes = s.nodes := rfl
@[simp] theorem State.setDrawers_witness (s : State) (x : Vector Drawer 160) : (s.setDrawers x).witness = s.witness := rfl
@[simp] theorem State.setDrawers_timing (s : State) (x : Vector Drawer 160) : (s.setDrawers x).timing = s.timing := rfl
@[simp] theorem State.setDrawers_floor (s : State) (x : Vector Drawer 160) : (s.setDrawers x).floor = s.floor := rfl
@[simp] theorem State.setDrawers_room (s : State) (x : Vector Drawer 160) : (s.setDrawers x).room = s.room := rfl
@[simp] theorem State.setDrawers_uplink (s : State) (x : Vector Drawer 160) : (s.setDrawers x).uplink = s.uplink := rfl
@[simp] theorem State.setDrawers_trunk (s : State) (x : Vector Drawer 160) : (s.setDrawers x).trunk = s.trunk := rfl
@[simp] theorem State.setDrawers_pointer (s : State) (x : Vector Drawer 160) : (s.setDrawers x).pointer = s.pointer := rfl
@[simp] theorem State.setDrawers_events (s : State) (x : Vector Drawer 160) : (s.setDrawers x).events = s.events := rfl
@[simp] theorem State.setDrawers_vector (s : State) (x : Vector Drawer 160) : (s.setDrawers x).vector = s.vector := rfl
@[simp] theorem State.setDrawers_attention (s : State) (x : Vector Drawer 160) : (s.setDrawers x).attention = s.attention := rfl
@[simp] theorem State.setDrawers_draws (s : State) (x : Vector Drawer 160) : (s.setDrawers x).draws = s.draws := rfl
@[simp] theorem State.setDrawers_port (s : State) (x : Vector Drawer 160) (p : Port) : (s.setDrawers x).port p = s.port p := by
  cases p <;> rfl

/-! `setOrders` -/

@[simp] theorem State.setOrders_pending (s : State) (x : Vector Order 24) : (s.setOrders x).pending = s.pending := rfl
@[simp] theorem State.setOrders_seconds (s : State) (x : Vector Order 24) : (s.setOrders x).seconds = s.seconds := rfl
@[simp] theorem State.setOrders_denoms (s : State) (x : Vector Order 24) : (s.setOrders x).denoms = s.denoms := rfl
@[simp] theorem State.setOrders_stock (s : State) (x : Vector Order 24) : (s.setOrders x).stock = s.stock := rfl
@[simp] theorem State.setOrders_acc (s : State) (x : Vector Order 24) : (s.setOrders x).acc = s.acc := rfl
@[simp] theorem State.setOrders_bags (s : State) (x : Vector Order 24) : (s.setOrders x).bags = s.bags := rfl
@[simp] theorem State.setOrders_tills (s : State) (x : Vector Order 24) : (s.setOrders x).tills = s.tills := rfl
@[simp] theorem State.setOrders_drawers (s : State) (x : Vector Order 24) : (s.setOrders x).drawers = s.drawers := rfl
@[simp] theorem State.setOrders_orders (s : State) (x : Vector Order 24) : (s.setOrders x).orders = x := rfl
@[simp] theorem State.setOrders_safe (s : State) (x : Vector Order 24) : (s.setOrders x).safe = s.safe := rfl
@[simp] theorem State.setOrders_sessions (s : State) (x : Vector Order 24) : (s.setOrders x).sessions = s.sessions := rfl
@[simp] theorem State.setOrders_tallies (s : State) (x : Vector Order 24) : (s.setOrders x).tallies = s.tallies := rfl
@[simp] theorem State.setOrders_ring (s : State) (x : Vector Order 24) : (s.setOrders x).ring = s.ring := rfl
@[simp] theorem State.setOrders_call (s : State) (x : Vector Order 24) : (s.setOrders x).call = s.call := rfl
@[simp] theorem State.setOrders_day (s : State) (x : Vector Order 24) : (s.setOrders x).day = s.day := rfl
@[simp] theorem State.setOrders_nodes (s : State) (x : Vector Order 24) : (s.setOrders x).nodes = s.nodes := rfl
@[simp] theorem State.setOrders_witness (s : State) (x : Vector Order 24) : (s.setOrders x).witness = s.witness := rfl
@[simp] theorem State.setOrders_timing (s : State) (x : Vector Order 24) : (s.setOrders x).timing = s.timing := rfl
@[simp] theorem State.setOrders_floor (s : State) (x : Vector Order 24) : (s.setOrders x).floor = s.floor := rfl
@[simp] theorem State.setOrders_room (s : State) (x : Vector Order 24) : (s.setOrders x).room = s.room := rfl
@[simp] theorem State.setOrders_uplink (s : State) (x : Vector Order 24) : (s.setOrders x).uplink = s.uplink := rfl
@[simp] theorem State.setOrders_trunk (s : State) (x : Vector Order 24) : (s.setOrders x).trunk = s.trunk := rfl
@[simp] theorem State.setOrders_pointer (s : State) (x : Vector Order 24) : (s.setOrders x).pointer = s.pointer := rfl
@[simp] theorem State.setOrders_events (s : State) (x : Vector Order 24) : (s.setOrders x).events = s.events := rfl
@[simp] theorem State.setOrders_vector (s : State) (x : Vector Order 24) : (s.setOrders x).vector = s.vector := rfl
@[simp] theorem State.setOrders_attention (s : State) (x : Vector Order 24) : (s.setOrders x).attention = s.attention := rfl
@[simp] theorem State.setOrders_draws (s : State) (x : Vector Order 24) : (s.setOrders x).draws = s.draws := rfl
@[simp] theorem State.setOrders_port (s : State) (x : Vector Order 24) (p : Port) : (s.setOrders x).port p = s.port p := by
  cases p <;> rfl

/-! `setSafe` -/

@[simp] theorem State.setSafe_pending (s : State) (x : Safe) : (s.setSafe x).pending = s.pending := rfl
@[simp] theorem State.setSafe_seconds (s : State) (x : Safe) : (s.setSafe x).seconds = s.seconds := rfl
@[simp] theorem State.setSafe_denoms (s : State) (x : Safe) : (s.setSafe x).denoms = s.denoms := rfl
@[simp] theorem State.setSafe_stock (s : State) (x : Safe) : (s.setSafe x).stock = s.stock := rfl
@[simp] theorem State.setSafe_acc (s : State) (x : Safe) : (s.setSafe x).acc = s.acc := rfl
@[simp] theorem State.setSafe_bags (s : State) (x : Safe) : (s.setSafe x).bags = s.bags := rfl
@[simp] theorem State.setSafe_tills (s : State) (x : Safe) : (s.setSafe x).tills = s.tills := rfl
@[simp] theorem State.setSafe_drawers (s : State) (x : Safe) : (s.setSafe x).drawers = s.drawers := rfl
@[simp] theorem State.setSafe_orders (s : State) (x : Safe) : (s.setSafe x).orders = s.orders := rfl
@[simp] theorem State.setSafe_safe (s : State) (x : Safe) : (s.setSafe x).safe = x := rfl
@[simp] theorem State.setSafe_sessions (s : State) (x : Safe) : (s.setSafe x).sessions = s.sessions := rfl
@[simp] theorem State.setSafe_tallies (s : State) (x : Safe) : (s.setSafe x).tallies = s.tallies := rfl
@[simp] theorem State.setSafe_ring (s : State) (x : Safe) : (s.setSafe x).ring = s.ring := rfl
@[simp] theorem State.setSafe_call (s : State) (x : Safe) : (s.setSafe x).call = s.call := rfl
@[simp] theorem State.setSafe_day (s : State) (x : Safe) : (s.setSafe x).day = s.day := rfl
@[simp] theorem State.setSafe_nodes (s : State) (x : Safe) : (s.setSafe x).nodes = s.nodes := rfl
@[simp] theorem State.setSafe_witness (s : State) (x : Safe) : (s.setSafe x).witness = s.witness := rfl
@[simp] theorem State.setSafe_timing (s : State) (x : Safe) : (s.setSafe x).timing = s.timing := rfl
@[simp] theorem State.setSafe_floor (s : State) (x : Safe) : (s.setSafe x).floor = s.floor := rfl
@[simp] theorem State.setSafe_room (s : State) (x : Safe) : (s.setSafe x).room = s.room := rfl
@[simp] theorem State.setSafe_uplink (s : State) (x : Safe) : (s.setSafe x).uplink = s.uplink := rfl
@[simp] theorem State.setSafe_trunk (s : State) (x : Safe) : (s.setSafe x).trunk = s.trunk := rfl
@[simp] theorem State.setSafe_pointer (s : State) (x : Safe) : (s.setSafe x).pointer = s.pointer := rfl
@[simp] theorem State.setSafe_events (s : State) (x : Safe) : (s.setSafe x).events = s.events := rfl
@[simp] theorem State.setSafe_vector (s : State) (x : Safe) : (s.setSafe x).vector = s.vector := rfl
@[simp] theorem State.setSafe_attention (s : State) (x : Safe) : (s.setSafe x).attention = s.attention := rfl
@[simp] theorem State.setSafe_draws (s : State) (x : Safe) : (s.setSafe x).draws = s.draws := rfl
@[simp] theorem State.setSafe_port (s : State) (x : Safe) (p : Port) : (s.setSafe x).port p = s.port p := by
  cases p <;> rfl

/-! `setSessions` -/

@[simp] theorem State.setSessions_pending (s : State) (x : Vector Session 4) : (s.setSessions x).pending = s.pending := rfl
@[simp] theorem State.setSessions_seconds (s : State) (x : Vector Session 4) : (s.setSessions x).seconds = s.seconds := rfl
@[simp] theorem State.setSessions_denoms (s : State) (x : Vector Session 4) : (s.setSessions x).denoms = s.denoms := rfl
@[simp] theorem State.setSessions_stock (s : State) (x : Vector Session 4) : (s.setSessions x).stock = s.stock := rfl
@[simp] theorem State.setSessions_acc (s : State) (x : Vector Session 4) : (s.setSessions x).acc = s.acc := rfl
@[simp] theorem State.setSessions_bags (s : State) (x : Vector Session 4) : (s.setSessions x).bags = s.bags := rfl
@[simp] theorem State.setSessions_tills (s : State) (x : Vector Session 4) : (s.setSessions x).tills = s.tills := rfl
@[simp] theorem State.setSessions_drawers (s : State) (x : Vector Session 4) : (s.setSessions x).drawers = s.drawers := rfl
@[simp] theorem State.setSessions_orders (s : State) (x : Vector Session 4) : (s.setSessions x).orders = s.orders := rfl
@[simp] theorem State.setSessions_safe (s : State) (x : Vector Session 4) : (s.setSessions x).safe = s.safe := rfl
@[simp] theorem State.setSessions_sessions (s : State) (x : Vector Session 4) : (s.setSessions x).sessions = x := rfl
@[simp] theorem State.setSessions_tallies (s : State) (x : Vector Session 4) : (s.setSessions x).tallies = s.tallies := rfl
@[simp] theorem State.setSessions_ring (s : State) (x : Vector Session 4) : (s.setSessions x).ring = s.ring := rfl
@[simp] theorem State.setSessions_call (s : State) (x : Vector Session 4) : (s.setSessions x).call = s.call := rfl
@[simp] theorem State.setSessions_day (s : State) (x : Vector Session 4) : (s.setSessions x).day = s.day := rfl
@[simp] theorem State.setSessions_nodes (s : State) (x : Vector Session 4) : (s.setSessions x).nodes = s.nodes := rfl
@[simp] theorem State.setSessions_witness (s : State) (x : Vector Session 4) : (s.setSessions x).witness = s.witness := rfl
@[simp] theorem State.setSessions_timing (s : State) (x : Vector Session 4) : (s.setSessions x).timing = s.timing := rfl
@[simp] theorem State.setSessions_floor (s : State) (x : Vector Session 4) : (s.setSessions x).floor = s.floor := rfl
@[simp] theorem State.setSessions_room (s : State) (x : Vector Session 4) : (s.setSessions x).room = s.room := rfl
@[simp] theorem State.setSessions_uplink (s : State) (x : Vector Session 4) : (s.setSessions x).uplink = s.uplink := rfl
@[simp] theorem State.setSessions_trunk (s : State) (x : Vector Session 4) : (s.setSessions x).trunk = s.trunk := rfl
@[simp] theorem State.setSessions_pointer (s : State) (x : Vector Session 4) : (s.setSessions x).pointer = s.pointer := rfl
@[simp] theorem State.setSessions_events (s : State) (x : Vector Session 4) : (s.setSessions x).events = s.events := rfl
@[simp] theorem State.setSessions_vector (s : State) (x : Vector Session 4) : (s.setSessions x).vector = s.vector := rfl
@[simp] theorem State.setSessions_attention (s : State) (x : Vector Session 4) : (s.setSessions x).attention = s.attention := rfl
@[simp] theorem State.setSessions_draws (s : State) (x : Vector Session 4) : (s.setSessions x).draws = s.draws := rfl
@[simp] theorem State.setSessions_port (s : State) (x : Vector Session 4) (p : Port) : (s.setSessions x).port p = s.port p := by
  cases p <;> rfl

/-! `setTallies` -/

@[simp] theorem State.setTallies_pending (s : State) (x : Vector (Vector Tally 12) 3) : (s.setTallies x).pending = s.pending := rfl
@[simp] theorem State.setTallies_seconds (s : State) (x : Vector (Vector Tally 12) 3) : (s.setTallies x).seconds = s.seconds := rfl
@[simp] theorem State.setTallies_denoms (s : State) (x : Vector (Vector Tally 12) 3) : (s.setTallies x).denoms = s.denoms := rfl
@[simp] theorem State.setTallies_stock (s : State) (x : Vector (Vector Tally 12) 3) : (s.setTallies x).stock = s.stock := rfl
@[simp] theorem State.setTallies_acc (s : State) (x : Vector (Vector Tally 12) 3) : (s.setTallies x).acc = s.acc := rfl
@[simp] theorem State.setTallies_bags (s : State) (x : Vector (Vector Tally 12) 3) : (s.setTallies x).bags = s.bags := rfl
@[simp] theorem State.setTallies_tills (s : State) (x : Vector (Vector Tally 12) 3) : (s.setTallies x).tills = s.tills := rfl
@[simp] theorem State.setTallies_drawers (s : State) (x : Vector (Vector Tally 12) 3) : (s.setTallies x).drawers = s.drawers := rfl
@[simp] theorem State.setTallies_orders (s : State) (x : Vector (Vector Tally 12) 3) : (s.setTallies x).orders = s.orders := rfl
@[simp] theorem State.setTallies_safe (s : State) (x : Vector (Vector Tally 12) 3) : (s.setTallies x).safe = s.safe := rfl
@[simp] theorem State.setTallies_sessions (s : State) (x : Vector (Vector Tally 12) 3) : (s.setTallies x).sessions = s.sessions := rfl
@[simp] theorem State.setTallies_tallies (s : State) (x : Vector (Vector Tally 12) 3) : (s.setTallies x).tallies = x := rfl
@[simp] theorem State.setTallies_ring (s : State) (x : Vector (Vector Tally 12) 3) : (s.setTallies x).ring = s.ring := rfl
@[simp] theorem State.setTallies_call (s : State) (x : Vector (Vector Tally 12) 3) : (s.setTallies x).call = s.call := rfl
@[simp] theorem State.setTallies_day (s : State) (x : Vector (Vector Tally 12) 3) : (s.setTallies x).day = s.day := rfl
@[simp] theorem State.setTallies_nodes (s : State) (x : Vector (Vector Tally 12) 3) : (s.setTallies x).nodes = s.nodes := rfl
@[simp] theorem State.setTallies_witness (s : State) (x : Vector (Vector Tally 12) 3) : (s.setTallies x).witness = s.witness := rfl
@[simp] theorem State.setTallies_timing (s : State) (x : Vector (Vector Tally 12) 3) : (s.setTallies x).timing = s.timing := rfl
@[simp] theorem State.setTallies_floor (s : State) (x : Vector (Vector Tally 12) 3) : (s.setTallies x).floor = s.floor := rfl
@[simp] theorem State.setTallies_room (s : State) (x : Vector (Vector Tally 12) 3) : (s.setTallies x).room = s.room := rfl
@[simp] theorem State.setTallies_uplink (s : State) (x : Vector (Vector Tally 12) 3) : (s.setTallies x).uplink = s.uplink := rfl
@[simp] theorem State.setTallies_trunk (s : State) (x : Vector (Vector Tally 12) 3) : (s.setTallies x).trunk = s.trunk := rfl
@[simp] theorem State.setTallies_pointer (s : State) (x : Vector (Vector Tally 12) 3) : (s.setTallies x).pointer = s.pointer := rfl
@[simp] theorem State.setTallies_events (s : State) (x : Vector (Vector Tally 12) 3) : (s.setTallies x).events = s.events := rfl
@[simp] theorem State.setTallies_vector (s : State) (x : Vector (Vector Tally 12) 3) : (s.setTallies x).vector = s.vector := rfl
@[simp] theorem State.setTallies_attention (s : State) (x : Vector (Vector Tally 12) 3) : (s.setTallies x).attention = s.attention := rfl
@[simp] theorem State.setTallies_draws (s : State) (x : Vector (Vector Tally 12) 3) : (s.setTallies x).draws = s.draws := rfl
@[simp] theorem State.setTallies_port (s : State) (x : Vector (Vector Tally 12) 3) (p : Port) : (s.setTallies x).port p = s.port p := by
  cases p <;> rfl

/-! `setRing` -/

@[simp] theorem State.setRing_pending (s : State) (x : Vector Descriptor 16) : (s.setRing x).pending = s.pending := rfl
@[simp] theorem State.setRing_seconds (s : State) (x : Vector Descriptor 16) : (s.setRing x).seconds = s.seconds := rfl
@[simp] theorem State.setRing_denoms (s : State) (x : Vector Descriptor 16) : (s.setRing x).denoms = s.denoms := rfl
@[simp] theorem State.setRing_stock (s : State) (x : Vector Descriptor 16) : (s.setRing x).stock = s.stock := rfl
@[simp] theorem State.setRing_acc (s : State) (x : Vector Descriptor 16) : (s.setRing x).acc = s.acc := rfl
@[simp] theorem State.setRing_bags (s : State) (x : Vector Descriptor 16) : (s.setRing x).bags = s.bags := rfl
@[simp] theorem State.setRing_tills (s : State) (x : Vector Descriptor 16) : (s.setRing x).tills = s.tills := rfl
@[simp] theorem State.setRing_drawers (s : State) (x : Vector Descriptor 16) : (s.setRing x).drawers = s.drawers := rfl
@[simp] theorem State.setRing_orders (s : State) (x : Vector Descriptor 16) : (s.setRing x).orders = s.orders := rfl
@[simp] theorem State.setRing_safe (s : State) (x : Vector Descriptor 16) : (s.setRing x).safe = s.safe := rfl
@[simp] theorem State.setRing_sessions (s : State) (x : Vector Descriptor 16) : (s.setRing x).sessions = s.sessions := rfl
@[simp] theorem State.setRing_tallies (s : State) (x : Vector Descriptor 16) : (s.setRing x).tallies = s.tallies := rfl
@[simp] theorem State.setRing_ring (s : State) (x : Vector Descriptor 16) : (s.setRing x).ring = x := rfl
@[simp] theorem State.setRing_call (s : State) (x : Vector Descriptor 16) : (s.setRing x).call = s.call := rfl
@[simp] theorem State.setRing_day (s : State) (x : Vector Descriptor 16) : (s.setRing x).day = s.day := rfl
@[simp] theorem State.setRing_nodes (s : State) (x : Vector Descriptor 16) : (s.setRing x).nodes = s.nodes := rfl
@[simp] theorem State.setRing_witness (s : State) (x : Vector Descriptor 16) : (s.setRing x).witness = s.witness := rfl
@[simp] theorem State.setRing_timing (s : State) (x : Vector Descriptor 16) : (s.setRing x).timing = s.timing := rfl
@[simp] theorem State.setRing_floor (s : State) (x : Vector Descriptor 16) : (s.setRing x).floor = s.floor := rfl
@[simp] theorem State.setRing_room (s : State) (x : Vector Descriptor 16) : (s.setRing x).room = s.room := rfl
@[simp] theorem State.setRing_uplink (s : State) (x : Vector Descriptor 16) : (s.setRing x).uplink = s.uplink := rfl
@[simp] theorem State.setRing_trunk (s : State) (x : Vector Descriptor 16) : (s.setRing x).trunk = s.trunk := rfl
@[simp] theorem State.setRing_pointer (s : State) (x : Vector Descriptor 16) : (s.setRing x).pointer = s.pointer := rfl
@[simp] theorem State.setRing_events (s : State) (x : Vector Descriptor 16) : (s.setRing x).events = s.events := rfl
@[simp] theorem State.setRing_vector (s : State) (x : Vector Descriptor 16) : (s.setRing x).vector = s.vector := rfl
@[simp] theorem State.setRing_attention (s : State) (x : Vector Descriptor 16) : (s.setRing x).attention = s.attention := rfl
@[simp] theorem State.setRing_draws (s : State) (x : Vector Descriptor 16) : (s.setRing x).draws = s.draws := rfl
@[simp] theorem State.setRing_port (s : State) (x : Vector Descriptor 16) (p : Port) : (s.setRing x).port p = s.port p := by
  cases p <;> rfl

/-! `setCall` -/

@[simp] theorem State.setCall_pending (s : State) (x : Handover) : (s.setCall x).pending = s.pending := rfl
@[simp] theorem State.setCall_seconds (s : State) (x : Handover) : (s.setCall x).seconds = s.seconds := rfl
@[simp] theorem State.setCall_denoms (s : State) (x : Handover) : (s.setCall x).denoms = s.denoms := rfl
@[simp] theorem State.setCall_stock (s : State) (x : Handover) : (s.setCall x).stock = s.stock := rfl
@[simp] theorem State.setCall_acc (s : State) (x : Handover) : (s.setCall x).acc = s.acc := rfl
@[simp] theorem State.setCall_bags (s : State) (x : Handover) : (s.setCall x).bags = s.bags := rfl
@[simp] theorem State.setCall_tills (s : State) (x : Handover) : (s.setCall x).tills = s.tills := rfl
@[simp] theorem State.setCall_drawers (s : State) (x : Handover) : (s.setCall x).drawers = s.drawers := rfl
@[simp] theorem State.setCall_orders (s : State) (x : Handover) : (s.setCall x).orders = s.orders := rfl
@[simp] theorem State.setCall_safe (s : State) (x : Handover) : (s.setCall x).safe = s.safe := rfl
@[simp] theorem State.setCall_sessions (s : State) (x : Handover) : (s.setCall x).sessions = s.sessions := rfl
@[simp] theorem State.setCall_tallies (s : State) (x : Handover) : (s.setCall x).tallies = s.tallies := rfl
@[simp] theorem State.setCall_ring (s : State) (x : Handover) : (s.setCall x).ring = s.ring := rfl
@[simp] theorem State.setCall_call (s : State) (x : Handover) : (s.setCall x).call = x := rfl
@[simp] theorem State.setCall_day (s : State) (x : Handover) : (s.setCall x).day = s.day := rfl
@[simp] theorem State.setCall_nodes (s : State) (x : Handover) : (s.setCall x).nodes = s.nodes := rfl
@[simp] theorem State.setCall_witness (s : State) (x : Handover) : (s.setCall x).witness = s.witness := rfl
@[simp] theorem State.setCall_timing (s : State) (x : Handover) : (s.setCall x).timing = s.timing := rfl
@[simp] theorem State.setCall_floor (s : State) (x : Handover) : (s.setCall x).floor = s.floor := rfl
@[simp] theorem State.setCall_room (s : State) (x : Handover) : (s.setCall x).room = s.room := rfl
@[simp] theorem State.setCall_uplink (s : State) (x : Handover) : (s.setCall x).uplink = s.uplink := rfl
@[simp] theorem State.setCall_trunk (s : State) (x : Handover) : (s.setCall x).trunk = s.trunk := rfl
@[simp] theorem State.setCall_pointer (s : State) (x : Handover) : (s.setCall x).pointer = s.pointer := rfl
@[simp] theorem State.setCall_events (s : State) (x : Handover) : (s.setCall x).events = s.events := rfl
@[simp] theorem State.setCall_vector (s : State) (x : Handover) : (s.setCall x).vector = s.vector := rfl
@[simp] theorem State.setCall_attention (s : State) (x : Handover) : (s.setCall x).attention = s.attention := rfl
@[simp] theorem State.setCall_draws (s : State) (x : Handover) : (s.setCall x).draws = s.draws := rfl
@[simp] theorem State.setCall_port (s : State) (x : Handover) (p : Port) : (s.setCall x).port p = s.port p := by
  cases p <;> rfl

/-! `setDay` -/

@[simp] theorem State.setDay_pending (s : State) (x : Day) : (s.setDay x).pending = s.pending := rfl
@[simp] theorem State.setDay_seconds (s : State) (x : Day) : (s.setDay x).seconds = s.seconds := rfl
@[simp] theorem State.setDay_denoms (s : State) (x : Day) : (s.setDay x).denoms = s.denoms := rfl
@[simp] theorem State.setDay_stock (s : State) (x : Day) : (s.setDay x).stock = s.stock := rfl
@[simp] theorem State.setDay_acc (s : State) (x : Day) : (s.setDay x).acc = s.acc := rfl
@[simp] theorem State.setDay_bags (s : State) (x : Day) : (s.setDay x).bags = s.bags := rfl
@[simp] theorem State.setDay_tills (s : State) (x : Day) : (s.setDay x).tills = s.tills := rfl
@[simp] theorem State.setDay_drawers (s : State) (x : Day) : (s.setDay x).drawers = s.drawers := rfl
@[simp] theorem State.setDay_orders (s : State) (x : Day) : (s.setDay x).orders = s.orders := rfl
@[simp] theorem State.setDay_safe (s : State) (x : Day) : (s.setDay x).safe = s.safe := rfl
@[simp] theorem State.setDay_sessions (s : State) (x : Day) : (s.setDay x).sessions = s.sessions := rfl
@[simp] theorem State.setDay_tallies (s : State) (x : Day) : (s.setDay x).tallies = s.tallies := rfl
@[simp] theorem State.setDay_ring (s : State) (x : Day) : (s.setDay x).ring = s.ring := rfl
@[simp] theorem State.setDay_call (s : State) (x : Day) : (s.setDay x).call = s.call := rfl
@[simp] theorem State.setDay_day (s : State) (x : Day) : (s.setDay x).day = x := rfl
@[simp] theorem State.setDay_nodes (s : State) (x : Day) : (s.setDay x).nodes = s.nodes := rfl
@[simp] theorem State.setDay_witness (s : State) (x : Day) : (s.setDay x).witness = s.witness := rfl
@[simp] theorem State.setDay_timing (s : State) (x : Day) : (s.setDay x).timing = s.timing := rfl
@[simp] theorem State.setDay_floor (s : State) (x : Day) : (s.setDay x).floor = s.floor := rfl
@[simp] theorem State.setDay_room (s : State) (x : Day) : (s.setDay x).room = s.room := rfl
@[simp] theorem State.setDay_uplink (s : State) (x : Day) : (s.setDay x).uplink = s.uplink := rfl
@[simp] theorem State.setDay_trunk (s : State) (x : Day) : (s.setDay x).trunk = s.trunk := rfl
@[simp] theorem State.setDay_pointer (s : State) (x : Day) : (s.setDay x).pointer = s.pointer := rfl
@[simp] theorem State.setDay_events (s : State) (x : Day) : (s.setDay x).events = s.events := rfl
@[simp] theorem State.setDay_vector (s : State) (x : Day) : (s.setDay x).vector = s.vector := rfl
@[simp] theorem State.setDay_attention (s : State) (x : Day) : (s.setDay x).attention = s.attention := rfl
@[simp] theorem State.setDay_draws (s : State) (x : Day) : (s.setDay x).draws = s.draws := rfl
@[simp] theorem State.setDay_port (s : State) (x : Day) (p : Port) : (s.setDay x).port p = s.port p := by
  cases p <;> rfl

/-! `setNodes` -/

@[simp] theorem State.setNodes_pending (s : State) (x : Vector Node 252) : (s.setNodes x).pending = s.pending := rfl
@[simp] theorem State.setNodes_seconds (s : State) (x : Vector Node 252) : (s.setNodes x).seconds = s.seconds := rfl
@[simp] theorem State.setNodes_denoms (s : State) (x : Vector Node 252) : (s.setNodes x).denoms = s.denoms := rfl
@[simp] theorem State.setNodes_stock (s : State) (x : Vector Node 252) : (s.setNodes x).stock = s.stock := rfl
@[simp] theorem State.setNodes_acc (s : State) (x : Vector Node 252) : (s.setNodes x).acc = s.acc := rfl
@[simp] theorem State.setNodes_bags (s : State) (x : Vector Node 252) : (s.setNodes x).bags = s.bags := rfl
@[simp] theorem State.setNodes_tills (s : State) (x : Vector Node 252) : (s.setNodes x).tills = s.tills := rfl
@[simp] theorem State.setNodes_drawers (s : State) (x : Vector Node 252) : (s.setNodes x).drawers = s.drawers := rfl
@[simp] theorem State.setNodes_orders (s : State) (x : Vector Node 252) : (s.setNodes x).orders = s.orders := rfl
@[simp] theorem State.setNodes_safe (s : State) (x : Vector Node 252) : (s.setNodes x).safe = s.safe := rfl
@[simp] theorem State.setNodes_sessions (s : State) (x : Vector Node 252) : (s.setNodes x).sessions = s.sessions := rfl
@[simp] theorem State.setNodes_tallies (s : State) (x : Vector Node 252) : (s.setNodes x).tallies = s.tallies := rfl
@[simp] theorem State.setNodes_ring (s : State) (x : Vector Node 252) : (s.setNodes x).ring = s.ring := rfl
@[simp] theorem State.setNodes_call (s : State) (x : Vector Node 252) : (s.setNodes x).call = s.call := rfl
@[simp] theorem State.setNodes_day (s : State) (x : Vector Node 252) : (s.setNodes x).day = s.day := rfl
@[simp] theorem State.setNodes_nodes (s : State) (x : Vector Node 252) : (s.setNodes x).nodes = x := rfl
@[simp] theorem State.setNodes_witness (s : State) (x : Vector Node 252) : (s.setNodes x).witness = s.witness := rfl
@[simp] theorem State.setNodes_timing (s : State) (x : Vector Node 252) : (s.setNodes x).timing = s.timing := rfl
@[simp] theorem State.setNodes_floor (s : State) (x : Vector Node 252) : (s.setNodes x).floor = s.floor := rfl
@[simp] theorem State.setNodes_room (s : State) (x : Vector Node 252) : (s.setNodes x).room = s.room := rfl
@[simp] theorem State.setNodes_uplink (s : State) (x : Vector Node 252) : (s.setNodes x).uplink = s.uplink := rfl
@[simp] theorem State.setNodes_trunk (s : State) (x : Vector Node 252) : (s.setNodes x).trunk = s.trunk := rfl
@[simp] theorem State.setNodes_pointer (s : State) (x : Vector Node 252) : (s.setNodes x).pointer = s.pointer := rfl
@[simp] theorem State.setNodes_events (s : State) (x : Vector Node 252) : (s.setNodes x).events = s.events := rfl
@[simp] theorem State.setNodes_vector (s : State) (x : Vector Node 252) : (s.setNodes x).vector = s.vector := rfl
@[simp] theorem State.setNodes_attention (s : State) (x : Vector Node 252) : (s.setNodes x).attention = s.attention := rfl
@[simp] theorem State.setNodes_draws (s : State) (x : Vector Node 252) : (s.setNodes x).draws = s.draws := rfl
@[simp] theorem State.setNodes_port (s : State) (x : Vector Node 252) (p : Port) : (s.setNodes x).port p = s.port p := by
  cases p <;> rfl

/-! `setWitness` -/

@[simp] theorem State.setWitness_pending (s : State) (x : Vector Witness 7) : (s.setWitness x).pending = s.pending := rfl
@[simp] theorem State.setWitness_seconds (s : State) (x : Vector Witness 7) : (s.setWitness x).seconds = s.seconds := rfl
@[simp] theorem State.setWitness_denoms (s : State) (x : Vector Witness 7) : (s.setWitness x).denoms = s.denoms := rfl
@[simp] theorem State.setWitness_stock (s : State) (x : Vector Witness 7) : (s.setWitness x).stock = s.stock := rfl
@[simp] theorem State.setWitness_acc (s : State) (x : Vector Witness 7) : (s.setWitness x).acc = s.acc := rfl
@[simp] theorem State.setWitness_bags (s : State) (x : Vector Witness 7) : (s.setWitness x).bags = s.bags := rfl
@[simp] theorem State.setWitness_tills (s : State) (x : Vector Witness 7) : (s.setWitness x).tills = s.tills := rfl
@[simp] theorem State.setWitness_drawers (s : State) (x : Vector Witness 7) : (s.setWitness x).drawers = s.drawers := rfl
@[simp] theorem State.setWitness_orders (s : State) (x : Vector Witness 7) : (s.setWitness x).orders = s.orders := rfl
@[simp] theorem State.setWitness_safe (s : State) (x : Vector Witness 7) : (s.setWitness x).safe = s.safe := rfl
@[simp] theorem State.setWitness_sessions (s : State) (x : Vector Witness 7) : (s.setWitness x).sessions = s.sessions := rfl
@[simp] theorem State.setWitness_tallies (s : State) (x : Vector Witness 7) : (s.setWitness x).tallies = s.tallies := rfl
@[simp] theorem State.setWitness_ring (s : State) (x : Vector Witness 7) : (s.setWitness x).ring = s.ring := rfl
@[simp] theorem State.setWitness_call (s : State) (x : Vector Witness 7) : (s.setWitness x).call = s.call := rfl
@[simp] theorem State.setWitness_day (s : State) (x : Vector Witness 7) : (s.setWitness x).day = s.day := rfl
@[simp] theorem State.setWitness_nodes (s : State) (x : Vector Witness 7) : (s.setWitness x).nodes = s.nodes := rfl
@[simp] theorem State.setWitness_witness (s : State) (x : Vector Witness 7) : (s.setWitness x).witness = x := rfl
@[simp] theorem State.setWitness_timing (s : State) (x : Vector Witness 7) : (s.setWitness x).timing = s.timing := rfl
@[simp] theorem State.setWitness_floor (s : State) (x : Vector Witness 7) : (s.setWitness x).floor = s.floor := rfl
@[simp] theorem State.setWitness_room (s : State) (x : Vector Witness 7) : (s.setWitness x).room = s.room := rfl
@[simp] theorem State.setWitness_uplink (s : State) (x : Vector Witness 7) : (s.setWitness x).uplink = s.uplink := rfl
@[simp] theorem State.setWitness_trunk (s : State) (x : Vector Witness 7) : (s.setWitness x).trunk = s.trunk := rfl
@[simp] theorem State.setWitness_pointer (s : State) (x : Vector Witness 7) : (s.setWitness x).pointer = s.pointer := rfl
@[simp] theorem State.setWitness_events (s : State) (x : Vector Witness 7) : (s.setWitness x).events = s.events := rfl
@[simp] theorem State.setWitness_vector (s : State) (x : Vector Witness 7) : (s.setWitness x).vector = s.vector := rfl
@[simp] theorem State.setWitness_attention (s : State) (x : Vector Witness 7) : (s.setWitness x).attention = s.attention := rfl
@[simp] theorem State.setWitness_draws (s : State) (x : Vector Witness 7) : (s.setWitness x).draws = s.draws := rfl
@[simp] theorem State.setWitness_port (s : State) (x : Vector Witness 7) (p : Port) : (s.setWitness x).port p = s.port p := by
  cases p <;> rfl

/-! `setTiming` -/

@[simp] theorem State.setTiming_pending (s : State) (x : Timing) : (s.setTiming x).pending = s.pending := rfl
@[simp] theorem State.setTiming_seconds (s : State) (x : Timing) : (s.setTiming x).seconds = s.seconds := rfl
@[simp] theorem State.setTiming_denoms (s : State) (x : Timing) : (s.setTiming x).denoms = s.denoms := rfl
@[simp] theorem State.setTiming_stock (s : State) (x : Timing) : (s.setTiming x).stock = s.stock := rfl
@[simp] theorem State.setTiming_acc (s : State) (x : Timing) : (s.setTiming x).acc = s.acc := rfl
@[simp] theorem State.setTiming_bags (s : State) (x : Timing) : (s.setTiming x).bags = s.bags := rfl
@[simp] theorem State.setTiming_tills (s : State) (x : Timing) : (s.setTiming x).tills = s.tills := rfl
@[simp] theorem State.setTiming_drawers (s : State) (x : Timing) : (s.setTiming x).drawers = s.drawers := rfl
@[simp] theorem State.setTiming_orders (s : State) (x : Timing) : (s.setTiming x).orders = s.orders := rfl
@[simp] theorem State.setTiming_safe (s : State) (x : Timing) : (s.setTiming x).safe = s.safe := rfl
@[simp] theorem State.setTiming_sessions (s : State) (x : Timing) : (s.setTiming x).sessions = s.sessions := rfl
@[simp] theorem State.setTiming_tallies (s : State) (x : Timing) : (s.setTiming x).tallies = s.tallies := rfl
@[simp] theorem State.setTiming_ring (s : State) (x : Timing) : (s.setTiming x).ring = s.ring := rfl
@[simp] theorem State.setTiming_call (s : State) (x : Timing) : (s.setTiming x).call = s.call := rfl
@[simp] theorem State.setTiming_day (s : State) (x : Timing) : (s.setTiming x).day = s.day := rfl
@[simp] theorem State.setTiming_nodes (s : State) (x : Timing) : (s.setTiming x).nodes = s.nodes := rfl
@[simp] theorem State.setTiming_witness (s : State) (x : Timing) : (s.setTiming x).witness = s.witness := rfl
@[simp] theorem State.setTiming_timing (s : State) (x : Timing) : (s.setTiming x).timing = x := rfl
@[simp] theorem State.setTiming_floor (s : State) (x : Timing) : (s.setTiming x).floor = s.floor := rfl
@[simp] theorem State.setTiming_room (s : State) (x : Timing) : (s.setTiming x).room = s.room := rfl
@[simp] theorem State.setTiming_uplink (s : State) (x : Timing) : (s.setTiming x).uplink = s.uplink := rfl
@[simp] theorem State.setTiming_trunk (s : State) (x : Timing) : (s.setTiming x).trunk = s.trunk := rfl
@[simp] theorem State.setTiming_pointer (s : State) (x : Timing) : (s.setTiming x).pointer = s.pointer := rfl
@[simp] theorem State.setTiming_events (s : State) (x : Timing) : (s.setTiming x).events = s.events := rfl
@[simp] theorem State.setTiming_vector (s : State) (x : Timing) : (s.setTiming x).vector = s.vector := rfl
@[simp] theorem State.setTiming_attention (s : State) (x : Timing) : (s.setTiming x).attention = s.attention := rfl
@[simp] theorem State.setTiming_draws (s : State) (x : Timing) : (s.setTiming x).draws = s.draws := rfl
@[simp] theorem State.setTiming_port (s : State) (x : Timing) (p : Port) : (s.setTiming x).port p = s.port p := by
  cases p <;> rfl

/-! `setFloor` -/

@[simp] theorem State.setFloor_pending (s : State) (x : LinePort) : (s.setFloor x).pending = s.pending := rfl
@[simp] theorem State.setFloor_seconds (s : State) (x : LinePort) : (s.setFloor x).seconds = s.seconds := rfl
@[simp] theorem State.setFloor_denoms (s : State) (x : LinePort) : (s.setFloor x).denoms = s.denoms := rfl
@[simp] theorem State.setFloor_stock (s : State) (x : LinePort) : (s.setFloor x).stock = s.stock := rfl
@[simp] theorem State.setFloor_acc (s : State) (x : LinePort) : (s.setFloor x).acc = s.acc := rfl
@[simp] theorem State.setFloor_bags (s : State) (x : LinePort) : (s.setFloor x).bags = s.bags := rfl
@[simp] theorem State.setFloor_tills (s : State) (x : LinePort) : (s.setFloor x).tills = s.tills := rfl
@[simp] theorem State.setFloor_drawers (s : State) (x : LinePort) : (s.setFloor x).drawers = s.drawers := rfl
@[simp] theorem State.setFloor_orders (s : State) (x : LinePort) : (s.setFloor x).orders = s.orders := rfl
@[simp] theorem State.setFloor_safe (s : State) (x : LinePort) : (s.setFloor x).safe = s.safe := rfl
@[simp] theorem State.setFloor_sessions (s : State) (x : LinePort) : (s.setFloor x).sessions = s.sessions := rfl
@[simp] theorem State.setFloor_tallies (s : State) (x : LinePort) : (s.setFloor x).tallies = s.tallies := rfl
@[simp] theorem State.setFloor_ring (s : State) (x : LinePort) : (s.setFloor x).ring = s.ring := rfl
@[simp] theorem State.setFloor_call (s : State) (x : LinePort) : (s.setFloor x).call = s.call := rfl
@[simp] theorem State.setFloor_day (s : State) (x : LinePort) : (s.setFloor x).day = s.day := rfl
@[simp] theorem State.setFloor_nodes (s : State) (x : LinePort) : (s.setFloor x).nodes = s.nodes := rfl
@[simp] theorem State.setFloor_witness (s : State) (x : LinePort) : (s.setFloor x).witness = s.witness := rfl
@[simp] theorem State.setFloor_timing (s : State) (x : LinePort) : (s.setFloor x).timing = s.timing := rfl
@[simp] theorem State.setFloor_floor (s : State) (x : LinePort) : (s.setFloor x).floor = x := rfl
@[simp] theorem State.setFloor_room (s : State) (x : LinePort) : (s.setFloor x).room = s.room := rfl
@[simp] theorem State.setFloor_uplink (s : State) (x : LinePort) : (s.setFloor x).uplink = s.uplink := rfl
@[simp] theorem State.setFloor_trunk (s : State) (x : LinePort) : (s.setFloor x).trunk = s.trunk := rfl
@[simp] theorem State.setFloor_pointer (s : State) (x : LinePort) : (s.setFloor x).pointer = s.pointer := rfl
@[simp] theorem State.setFloor_events (s : State) (x : LinePort) : (s.setFloor x).events = s.events := rfl
@[simp] theorem State.setFloor_vector (s : State) (x : LinePort) : (s.setFloor x).vector = s.vector := rfl
@[simp] theorem State.setFloor_attention (s : State) (x : LinePort) : (s.setFloor x).attention = s.attention := rfl
@[simp] theorem State.setFloor_draws (s : State) (x : LinePort) : (s.setFloor x).draws = s.draws := rfl

/-! `setRoom` -/

@[simp] theorem State.setRoom_pending (s : State) (x : LinePort) : (s.setRoom x).pending = s.pending := rfl
@[simp] theorem State.setRoom_seconds (s : State) (x : LinePort) : (s.setRoom x).seconds = s.seconds := rfl
@[simp] theorem State.setRoom_denoms (s : State) (x : LinePort) : (s.setRoom x).denoms = s.denoms := rfl
@[simp] theorem State.setRoom_stock (s : State) (x : LinePort) : (s.setRoom x).stock = s.stock := rfl
@[simp] theorem State.setRoom_acc (s : State) (x : LinePort) : (s.setRoom x).acc = s.acc := rfl
@[simp] theorem State.setRoom_bags (s : State) (x : LinePort) : (s.setRoom x).bags = s.bags := rfl
@[simp] theorem State.setRoom_tills (s : State) (x : LinePort) : (s.setRoom x).tills = s.tills := rfl
@[simp] theorem State.setRoom_drawers (s : State) (x : LinePort) : (s.setRoom x).drawers = s.drawers := rfl
@[simp] theorem State.setRoom_orders (s : State) (x : LinePort) : (s.setRoom x).orders = s.orders := rfl
@[simp] theorem State.setRoom_safe (s : State) (x : LinePort) : (s.setRoom x).safe = s.safe := rfl
@[simp] theorem State.setRoom_sessions (s : State) (x : LinePort) : (s.setRoom x).sessions = s.sessions := rfl
@[simp] theorem State.setRoom_tallies (s : State) (x : LinePort) : (s.setRoom x).tallies = s.tallies := rfl
@[simp] theorem State.setRoom_ring (s : State) (x : LinePort) : (s.setRoom x).ring = s.ring := rfl
@[simp] theorem State.setRoom_call (s : State) (x : LinePort) : (s.setRoom x).call = s.call := rfl
@[simp] theorem State.setRoom_day (s : State) (x : LinePort) : (s.setRoom x).day = s.day := rfl
@[simp] theorem State.setRoom_nodes (s : State) (x : LinePort) : (s.setRoom x).nodes = s.nodes := rfl
@[simp] theorem State.setRoom_witness (s : State) (x : LinePort) : (s.setRoom x).witness = s.witness := rfl
@[simp] theorem State.setRoom_timing (s : State) (x : LinePort) : (s.setRoom x).timing = s.timing := rfl
@[simp] theorem State.setRoom_floor (s : State) (x : LinePort) : (s.setRoom x).floor = s.floor := rfl
@[simp] theorem State.setRoom_room (s : State) (x : LinePort) : (s.setRoom x).room = x := rfl
@[simp] theorem State.setRoom_uplink (s : State) (x : LinePort) : (s.setRoom x).uplink = s.uplink := rfl
@[simp] theorem State.setRoom_trunk (s : State) (x : LinePort) : (s.setRoom x).trunk = s.trunk := rfl
@[simp] theorem State.setRoom_pointer (s : State) (x : LinePort) : (s.setRoom x).pointer = s.pointer := rfl
@[simp] theorem State.setRoom_events (s : State) (x : LinePort) : (s.setRoom x).events = s.events := rfl
@[simp] theorem State.setRoom_vector (s : State) (x : LinePort) : (s.setRoom x).vector = s.vector := rfl
@[simp] theorem State.setRoom_attention (s : State) (x : LinePort) : (s.setRoom x).attention = s.attention := rfl
@[simp] theorem State.setRoom_draws (s : State) (x : LinePort) : (s.setRoom x).draws = s.draws := rfl

/-! `setUplink` -/

@[simp] theorem State.setUplink_pending (s : State) (x : Uplink) : (s.setUplink x).pending = s.pending := rfl
@[simp] theorem State.setUplink_seconds (s : State) (x : Uplink) : (s.setUplink x).seconds = s.seconds := rfl
@[simp] theorem State.setUplink_denoms (s : State) (x : Uplink) : (s.setUplink x).denoms = s.denoms := rfl
@[simp] theorem State.setUplink_stock (s : State) (x : Uplink) : (s.setUplink x).stock = s.stock := rfl
@[simp] theorem State.setUplink_acc (s : State) (x : Uplink) : (s.setUplink x).acc = s.acc := rfl
@[simp] theorem State.setUplink_bags (s : State) (x : Uplink) : (s.setUplink x).bags = s.bags := rfl
@[simp] theorem State.setUplink_tills (s : State) (x : Uplink) : (s.setUplink x).tills = s.tills := rfl
@[simp] theorem State.setUplink_drawers (s : State) (x : Uplink) : (s.setUplink x).drawers = s.drawers := rfl
@[simp] theorem State.setUplink_orders (s : State) (x : Uplink) : (s.setUplink x).orders = s.orders := rfl
@[simp] theorem State.setUplink_safe (s : State) (x : Uplink) : (s.setUplink x).safe = s.safe := rfl
@[simp] theorem State.setUplink_sessions (s : State) (x : Uplink) : (s.setUplink x).sessions = s.sessions := rfl
@[simp] theorem State.setUplink_tallies (s : State) (x : Uplink) : (s.setUplink x).tallies = s.tallies := rfl
@[simp] theorem State.setUplink_ring (s : State) (x : Uplink) : (s.setUplink x).ring = s.ring := rfl
@[simp] theorem State.setUplink_call (s : State) (x : Uplink) : (s.setUplink x).call = s.call := rfl
@[simp] theorem State.setUplink_day (s : State) (x : Uplink) : (s.setUplink x).day = s.day := rfl
@[simp] theorem State.setUplink_nodes (s : State) (x : Uplink) : (s.setUplink x).nodes = s.nodes := rfl
@[simp] theorem State.setUplink_witness (s : State) (x : Uplink) : (s.setUplink x).witness = s.witness := rfl
@[simp] theorem State.setUplink_timing (s : State) (x : Uplink) : (s.setUplink x).timing = s.timing := rfl
@[simp] theorem State.setUplink_floor (s : State) (x : Uplink) : (s.setUplink x).floor = s.floor := rfl
@[simp] theorem State.setUplink_room (s : State) (x : Uplink) : (s.setUplink x).room = s.room := rfl
@[simp] theorem State.setUplink_uplink (s : State) (x : Uplink) : (s.setUplink x).uplink = x := rfl
@[simp] theorem State.setUplink_trunk (s : State) (x : Uplink) : (s.setUplink x).trunk = s.trunk := rfl
@[simp] theorem State.setUplink_pointer (s : State) (x : Uplink) : (s.setUplink x).pointer = s.pointer := rfl
@[simp] theorem State.setUplink_events (s : State) (x : Uplink) : (s.setUplink x).events = s.events := rfl
@[simp] theorem State.setUplink_vector (s : State) (x : Uplink) : (s.setUplink x).vector = s.vector := rfl
@[simp] theorem State.setUplink_attention (s : State) (x : Uplink) : (s.setUplink x).attention = s.attention := rfl
@[simp] theorem State.setUplink_draws (s : State) (x : Uplink) : (s.setUplink x).draws = s.draws := rfl
@[simp] theorem State.setUplink_port (s : State) (x : Uplink) (p : Port) : (s.setUplink x).port p = s.port p := by
  cases p <;> rfl

/-! `setTrunk` -/

@[simp] theorem State.setTrunk_pending (s : State) (x : Trunk) : (s.setTrunk x).pending = s.pending := rfl
@[simp] theorem State.setTrunk_seconds (s : State) (x : Trunk) : (s.setTrunk x).seconds = s.seconds := rfl
@[simp] theorem State.setTrunk_denoms (s : State) (x : Trunk) : (s.setTrunk x).denoms = s.denoms := rfl
@[simp] theorem State.setTrunk_stock (s : State) (x : Trunk) : (s.setTrunk x).stock = s.stock := rfl
@[simp] theorem State.setTrunk_acc (s : State) (x : Trunk) : (s.setTrunk x).acc = s.acc := rfl
@[simp] theorem State.setTrunk_bags (s : State) (x : Trunk) : (s.setTrunk x).bags = s.bags := rfl
@[simp] theorem State.setTrunk_tills (s : State) (x : Trunk) : (s.setTrunk x).tills = s.tills := rfl
@[simp] theorem State.setTrunk_drawers (s : State) (x : Trunk) : (s.setTrunk x).drawers = s.drawers := rfl
@[simp] theorem State.setTrunk_orders (s : State) (x : Trunk) : (s.setTrunk x).orders = s.orders := rfl
@[simp] theorem State.setTrunk_safe (s : State) (x : Trunk) : (s.setTrunk x).safe = s.safe := rfl
@[simp] theorem State.setTrunk_sessions (s : State) (x : Trunk) : (s.setTrunk x).sessions = s.sessions := rfl
@[simp] theorem State.setTrunk_tallies (s : State) (x : Trunk) : (s.setTrunk x).tallies = s.tallies := rfl
@[simp] theorem State.setTrunk_ring (s : State) (x : Trunk) : (s.setTrunk x).ring = s.ring := rfl
@[simp] theorem State.setTrunk_call (s : State) (x : Trunk) : (s.setTrunk x).call = s.call := rfl
@[simp] theorem State.setTrunk_day (s : State) (x : Trunk) : (s.setTrunk x).day = s.day := rfl
@[simp] theorem State.setTrunk_nodes (s : State) (x : Trunk) : (s.setTrunk x).nodes = s.nodes := rfl
@[simp] theorem State.setTrunk_witness (s : State) (x : Trunk) : (s.setTrunk x).witness = s.witness := rfl
@[simp] theorem State.setTrunk_timing (s : State) (x : Trunk) : (s.setTrunk x).timing = s.timing := rfl
@[simp] theorem State.setTrunk_floor (s : State) (x : Trunk) : (s.setTrunk x).floor = s.floor := rfl
@[simp] theorem State.setTrunk_room (s : State) (x : Trunk) : (s.setTrunk x).room = s.room := rfl
@[simp] theorem State.setTrunk_uplink (s : State) (x : Trunk) : (s.setTrunk x).uplink = s.uplink := rfl
@[simp] theorem State.setTrunk_trunk (s : State) (x : Trunk) : (s.setTrunk x).trunk = x := rfl
@[simp] theorem State.setTrunk_pointer (s : State) (x : Trunk) : (s.setTrunk x).pointer = s.pointer := rfl
@[simp] theorem State.setTrunk_events (s : State) (x : Trunk) : (s.setTrunk x).events = s.events := rfl
@[simp] theorem State.setTrunk_vector (s : State) (x : Trunk) : (s.setTrunk x).vector = s.vector := rfl
@[simp] theorem State.setTrunk_attention (s : State) (x : Trunk) : (s.setTrunk x).attention = s.attention := rfl
@[simp] theorem State.setTrunk_draws (s : State) (x : Trunk) : (s.setTrunk x).draws = s.draws := rfl
@[simp] theorem State.setTrunk_port (s : State) (x : Trunk) (p : Port) : (s.setTrunk x).port p = s.port p := by
  cases p <;> rfl

/-! `setPointer` -/

@[simp] theorem State.setPointer_pending (s : State) (x : Pointer) : (s.setPointer x).pending = s.pending := rfl
@[simp] theorem State.setPointer_seconds (s : State) (x : Pointer) : (s.setPointer x).seconds = s.seconds := rfl
@[simp] theorem State.setPointer_denoms (s : State) (x : Pointer) : (s.setPointer x).denoms = s.denoms := rfl
@[simp] theorem State.setPointer_stock (s : State) (x : Pointer) : (s.setPointer x).stock = s.stock := rfl
@[simp] theorem State.setPointer_acc (s : State) (x : Pointer) : (s.setPointer x).acc = s.acc := rfl
@[simp] theorem State.setPointer_bags (s : State) (x : Pointer) : (s.setPointer x).bags = s.bags := rfl
@[simp] theorem State.setPointer_tills (s : State) (x : Pointer) : (s.setPointer x).tills = s.tills := rfl
@[simp] theorem State.setPointer_drawers (s : State) (x : Pointer) : (s.setPointer x).drawers = s.drawers := rfl
@[simp] theorem State.setPointer_orders (s : State) (x : Pointer) : (s.setPointer x).orders = s.orders := rfl
@[simp] theorem State.setPointer_safe (s : State) (x : Pointer) : (s.setPointer x).safe = s.safe := rfl
@[simp] theorem State.setPointer_sessions (s : State) (x : Pointer) : (s.setPointer x).sessions = s.sessions := rfl
@[simp] theorem State.setPointer_tallies (s : State) (x : Pointer) : (s.setPointer x).tallies = s.tallies := rfl
@[simp] theorem State.setPointer_ring (s : State) (x : Pointer) : (s.setPointer x).ring = s.ring := rfl
@[simp] theorem State.setPointer_call (s : State) (x : Pointer) : (s.setPointer x).call = s.call := rfl
@[simp] theorem State.setPointer_day (s : State) (x : Pointer) : (s.setPointer x).day = s.day := rfl
@[simp] theorem State.setPointer_nodes (s : State) (x : Pointer) : (s.setPointer x).nodes = s.nodes := rfl
@[simp] theorem State.setPointer_witness (s : State) (x : Pointer) : (s.setPointer x).witness = s.witness := rfl
@[simp] theorem State.setPointer_timing (s : State) (x : Pointer) : (s.setPointer x).timing = s.timing := rfl
@[simp] theorem State.setPointer_floor (s : State) (x : Pointer) : (s.setPointer x).floor = s.floor := rfl
@[simp] theorem State.setPointer_room (s : State) (x : Pointer) : (s.setPointer x).room = s.room := rfl
@[simp] theorem State.setPointer_uplink (s : State) (x : Pointer) : (s.setPointer x).uplink = s.uplink := rfl
@[simp] theorem State.setPointer_trunk (s : State) (x : Pointer) : (s.setPointer x).trunk = s.trunk := rfl
@[simp] theorem State.setPointer_pointer (s : State) (x : Pointer) : (s.setPointer x).pointer = x := rfl
@[simp] theorem State.setPointer_events (s : State) (x : Pointer) : (s.setPointer x).events = s.events := rfl
@[simp] theorem State.setPointer_vector (s : State) (x : Pointer) : (s.setPointer x).vector = s.vector := rfl
@[simp] theorem State.setPointer_attention (s : State) (x : Pointer) : (s.setPointer x).attention = s.attention := rfl
@[simp] theorem State.setPointer_draws (s : State) (x : Pointer) : (s.setPointer x).draws = s.draws := rfl
@[simp] theorem State.setPointer_port (s : State) (x : Pointer) (p : Port) : (s.setPointer x).port p = s.port p := by
  cases p <;> rfl

/-! `setEvents` -/

@[simp] theorem State.setEvents_pending (s : State) (x : Vector EventRec 26) : (s.setEvents x).pending = s.pending := rfl
@[simp] theorem State.setEvents_seconds (s : State) (x : Vector EventRec 26) : (s.setEvents x).seconds = s.seconds := rfl
@[simp] theorem State.setEvents_denoms (s : State) (x : Vector EventRec 26) : (s.setEvents x).denoms = s.denoms := rfl
@[simp] theorem State.setEvents_stock (s : State) (x : Vector EventRec 26) : (s.setEvents x).stock = s.stock := rfl
@[simp] theorem State.setEvents_acc (s : State) (x : Vector EventRec 26) : (s.setEvents x).acc = s.acc := rfl
@[simp] theorem State.setEvents_bags (s : State) (x : Vector EventRec 26) : (s.setEvents x).bags = s.bags := rfl
@[simp] theorem State.setEvents_tills (s : State) (x : Vector EventRec 26) : (s.setEvents x).tills = s.tills := rfl
@[simp] theorem State.setEvents_drawers (s : State) (x : Vector EventRec 26) : (s.setEvents x).drawers = s.drawers := rfl
@[simp] theorem State.setEvents_orders (s : State) (x : Vector EventRec 26) : (s.setEvents x).orders = s.orders := rfl
@[simp] theorem State.setEvents_safe (s : State) (x : Vector EventRec 26) : (s.setEvents x).safe = s.safe := rfl
@[simp] theorem State.setEvents_sessions (s : State) (x : Vector EventRec 26) : (s.setEvents x).sessions = s.sessions := rfl
@[simp] theorem State.setEvents_tallies (s : State) (x : Vector EventRec 26) : (s.setEvents x).tallies = s.tallies := rfl
@[simp] theorem State.setEvents_ring (s : State) (x : Vector EventRec 26) : (s.setEvents x).ring = s.ring := rfl
@[simp] theorem State.setEvents_call (s : State) (x : Vector EventRec 26) : (s.setEvents x).call = s.call := rfl
@[simp] theorem State.setEvents_day (s : State) (x : Vector EventRec 26) : (s.setEvents x).day = s.day := rfl
@[simp] theorem State.setEvents_nodes (s : State) (x : Vector EventRec 26) : (s.setEvents x).nodes = s.nodes := rfl
@[simp] theorem State.setEvents_witness (s : State) (x : Vector EventRec 26) : (s.setEvents x).witness = s.witness := rfl
@[simp] theorem State.setEvents_timing (s : State) (x : Vector EventRec 26) : (s.setEvents x).timing = s.timing := rfl
@[simp] theorem State.setEvents_floor (s : State) (x : Vector EventRec 26) : (s.setEvents x).floor = s.floor := rfl
@[simp] theorem State.setEvents_room (s : State) (x : Vector EventRec 26) : (s.setEvents x).room = s.room := rfl
@[simp] theorem State.setEvents_uplink (s : State) (x : Vector EventRec 26) : (s.setEvents x).uplink = s.uplink := rfl
@[simp] theorem State.setEvents_trunk (s : State) (x : Vector EventRec 26) : (s.setEvents x).trunk = s.trunk := rfl
@[simp] theorem State.setEvents_pointer (s : State) (x : Vector EventRec 26) : (s.setEvents x).pointer = s.pointer := rfl
@[simp] theorem State.setEvents_events (s : State) (x : Vector EventRec 26) : (s.setEvents x).events = x := rfl
@[simp] theorem State.setEvents_vector (s : State) (x : Vector EventRec 26) : (s.setEvents x).vector = s.vector := rfl
@[simp] theorem State.setEvents_attention (s : State) (x : Vector EventRec 26) : (s.setEvents x).attention = s.attention := rfl
@[simp] theorem State.setEvents_draws (s : State) (x : Vector EventRec 26) : (s.setEvents x).draws = s.draws := rfl
@[simp] theorem State.setEvents_port (s : State) (x : Vector EventRec 26) (p : Port) : (s.setEvents x).port p = s.port p := by
  cases p <;> rfl

/-! `setVector` -/

@[simp] theorem State.setVector_pending (s : State) (x : Nat) : (s.setVector x).pending = s.pending := rfl
@[simp] theorem State.setVector_seconds (s : State) (x : Nat) : (s.setVector x).seconds = s.seconds := rfl
@[simp] theorem State.setVector_denoms (s : State) (x : Nat) : (s.setVector x).denoms = s.denoms := rfl
@[simp] theorem State.setVector_stock (s : State) (x : Nat) : (s.setVector x).stock = s.stock := rfl
@[simp] theorem State.setVector_acc (s : State) (x : Nat) : (s.setVector x).acc = s.acc := rfl
@[simp] theorem State.setVector_bags (s : State) (x : Nat) : (s.setVector x).bags = s.bags := rfl
@[simp] theorem State.setVector_tills (s : State) (x : Nat) : (s.setVector x).tills = s.tills := rfl
@[simp] theorem State.setVector_drawers (s : State) (x : Nat) : (s.setVector x).drawers = s.drawers := rfl
@[simp] theorem State.setVector_orders (s : State) (x : Nat) : (s.setVector x).orders = s.orders := rfl
@[simp] theorem State.setVector_safe (s : State) (x : Nat) : (s.setVector x).safe = s.safe := rfl
@[simp] theorem State.setVector_sessions (s : State) (x : Nat) : (s.setVector x).sessions = s.sessions := rfl
@[simp] theorem State.setVector_tallies (s : State) (x : Nat) : (s.setVector x).tallies = s.tallies := rfl
@[simp] theorem State.setVector_ring (s : State) (x : Nat) : (s.setVector x).ring = s.ring := rfl
@[simp] theorem State.setVector_call (s : State) (x : Nat) : (s.setVector x).call = s.call := rfl
@[simp] theorem State.setVector_day (s : State) (x : Nat) : (s.setVector x).day = s.day := rfl
@[simp] theorem State.setVector_nodes (s : State) (x : Nat) : (s.setVector x).nodes = s.nodes := rfl
@[simp] theorem State.setVector_witness (s : State) (x : Nat) : (s.setVector x).witness = s.witness := rfl
@[simp] theorem State.setVector_timing (s : State) (x : Nat) : (s.setVector x).timing = s.timing := rfl
@[simp] theorem State.setVector_floor (s : State) (x : Nat) : (s.setVector x).floor = s.floor := rfl
@[simp] theorem State.setVector_room (s : State) (x : Nat) : (s.setVector x).room = s.room := rfl
@[simp] theorem State.setVector_uplink (s : State) (x : Nat) : (s.setVector x).uplink = s.uplink := rfl
@[simp] theorem State.setVector_trunk (s : State) (x : Nat) : (s.setVector x).trunk = s.trunk := rfl
@[simp] theorem State.setVector_pointer (s : State) (x : Nat) : (s.setVector x).pointer = s.pointer := rfl
@[simp] theorem State.setVector_events (s : State) (x : Nat) : (s.setVector x).events = s.events := rfl
@[simp] theorem State.setVector_vector (s : State) (x : Nat) : (s.setVector x).vector = x := rfl
@[simp] theorem State.setVector_attention (s : State) (x : Nat) : (s.setVector x).attention = s.attention := rfl
@[simp] theorem State.setVector_draws (s : State) (x : Nat) : (s.setVector x).draws = s.draws := rfl
@[simp] theorem State.setVector_port (s : State) (x : Nat) (p : Port) : (s.setVector x).port p = s.port p := by
  cases p <;> rfl

/-! `setAttention` -/

@[simp] theorem State.setAttention_pending (s : State) (x : Bool) : (s.setAttention x).pending = s.pending := rfl
@[simp] theorem State.setAttention_seconds (s : State) (x : Bool) : (s.setAttention x).seconds = s.seconds := rfl
@[simp] theorem State.setAttention_denoms (s : State) (x : Bool) : (s.setAttention x).denoms = s.denoms := rfl
@[simp] theorem State.setAttention_stock (s : State) (x : Bool) : (s.setAttention x).stock = s.stock := rfl
@[simp] theorem State.setAttention_acc (s : State) (x : Bool) : (s.setAttention x).acc = s.acc := rfl
@[simp] theorem State.setAttention_bags (s : State) (x : Bool) : (s.setAttention x).bags = s.bags := rfl
@[simp] theorem State.setAttention_tills (s : State) (x : Bool) : (s.setAttention x).tills = s.tills := rfl
@[simp] theorem State.setAttention_drawers (s : State) (x : Bool) : (s.setAttention x).drawers = s.drawers := rfl
@[simp] theorem State.setAttention_orders (s : State) (x : Bool) : (s.setAttention x).orders = s.orders := rfl
@[simp] theorem State.setAttention_safe (s : State) (x : Bool) : (s.setAttention x).safe = s.safe := rfl
@[simp] theorem State.setAttention_sessions (s : State) (x : Bool) : (s.setAttention x).sessions = s.sessions := rfl
@[simp] theorem State.setAttention_tallies (s : State) (x : Bool) : (s.setAttention x).tallies = s.tallies := rfl
@[simp] theorem State.setAttention_ring (s : State) (x : Bool) : (s.setAttention x).ring = s.ring := rfl
@[simp] theorem State.setAttention_call (s : State) (x : Bool) : (s.setAttention x).call = s.call := rfl
@[simp] theorem State.setAttention_day (s : State) (x : Bool) : (s.setAttention x).day = s.day := rfl
@[simp] theorem State.setAttention_nodes (s : State) (x : Bool) : (s.setAttention x).nodes = s.nodes := rfl
@[simp] theorem State.setAttention_witness (s : State) (x : Bool) : (s.setAttention x).witness = s.witness := rfl
@[simp] theorem State.setAttention_timing (s : State) (x : Bool) : (s.setAttention x).timing = s.timing := rfl
@[simp] theorem State.setAttention_floor (s : State) (x : Bool) : (s.setAttention x).floor = s.floor := rfl
@[simp] theorem State.setAttention_room (s : State) (x : Bool) : (s.setAttention x).room = s.room := rfl
@[simp] theorem State.setAttention_uplink (s : State) (x : Bool) : (s.setAttention x).uplink = s.uplink := rfl
@[simp] theorem State.setAttention_trunk (s : State) (x : Bool) : (s.setAttention x).trunk = s.trunk := rfl
@[simp] theorem State.setAttention_pointer (s : State) (x : Bool) : (s.setAttention x).pointer = s.pointer := rfl
@[simp] theorem State.setAttention_events (s : State) (x : Bool) : (s.setAttention x).events = s.events := rfl
@[simp] theorem State.setAttention_vector (s : State) (x : Bool) : (s.setAttention x).vector = s.vector := rfl
@[simp] theorem State.setAttention_attention (s : State) (x : Bool) : (s.setAttention x).attention = x := rfl
@[simp] theorem State.setAttention_draws (s : State) (x : Bool) : (s.setAttention x).draws = s.draws := rfl
@[simp] theorem State.setAttention_port (s : State) (x : Bool) (p : Port) : (s.setAttention x).port p = s.port p := by
  cases p <;> rfl

/-! `setDraws` -/

@[simp] theorem State.setDraws_pending (s : State) (x : Nat) : (s.setDraws x).pending = s.pending := rfl
@[simp] theorem State.setDraws_seconds (s : State) (x : Nat) : (s.setDraws x).seconds = s.seconds := rfl
@[simp] theorem State.setDraws_denoms (s : State) (x : Nat) : (s.setDraws x).denoms = s.denoms := rfl
@[simp] theorem State.setDraws_stock (s : State) (x : Nat) : (s.setDraws x).stock = s.stock := rfl
@[simp] theorem State.setDraws_acc (s : State) (x : Nat) : (s.setDraws x).acc = s.acc := rfl
@[simp] theorem State.setDraws_bags (s : State) (x : Nat) : (s.setDraws x).bags = s.bags := rfl
@[simp] theorem State.setDraws_tills (s : State) (x : Nat) : (s.setDraws x).tills = s.tills := rfl
@[simp] theorem State.setDraws_drawers (s : State) (x : Nat) : (s.setDraws x).drawers = s.drawers := rfl
@[simp] theorem State.setDraws_orders (s : State) (x : Nat) : (s.setDraws x).orders = s.orders := rfl
@[simp] theorem State.setDraws_safe (s : State) (x : Nat) : (s.setDraws x).safe = s.safe := rfl
@[simp] theorem State.setDraws_sessions (s : State) (x : Nat) : (s.setDraws x).sessions = s.sessions := rfl
@[simp] theorem State.setDraws_tallies (s : State) (x : Nat) : (s.setDraws x).tallies = s.tallies := rfl
@[simp] theorem State.setDraws_ring (s : State) (x : Nat) : (s.setDraws x).ring = s.ring := rfl
@[simp] theorem State.setDraws_call (s : State) (x : Nat) : (s.setDraws x).call = s.call := rfl
@[simp] theorem State.setDraws_day (s : State) (x : Nat) : (s.setDraws x).day = s.day := rfl
@[simp] theorem State.setDraws_nodes (s : State) (x : Nat) : (s.setDraws x).nodes = s.nodes := rfl
@[simp] theorem State.setDraws_witness (s : State) (x : Nat) : (s.setDraws x).witness = s.witness := rfl
@[simp] theorem State.setDraws_timing (s : State) (x : Nat) : (s.setDraws x).timing = s.timing := rfl
@[simp] theorem State.setDraws_floor (s : State) (x : Nat) : (s.setDraws x).floor = s.floor := rfl
@[simp] theorem State.setDraws_room (s : State) (x : Nat) : (s.setDraws x).room = s.room := rfl
@[simp] theorem State.setDraws_uplink (s : State) (x : Nat) : (s.setDraws x).uplink = s.uplink := rfl
@[simp] theorem State.setDraws_trunk (s : State) (x : Nat) : (s.setDraws x).trunk = s.trunk := rfl
@[simp] theorem State.setDraws_pointer (s : State) (x : Nat) : (s.setDraws x).pointer = s.pointer := rfl
@[simp] theorem State.setDraws_events (s : State) (x : Nat) : (s.setDraws x).events = s.events := rfl
@[simp] theorem State.setDraws_vector (s : State) (x : Nat) : (s.setDraws x).vector = s.vector := rfl
@[simp] theorem State.setDraws_attention (s : State) (x : Nat) : (s.setDraws x).attention = s.attention := rfl
@[simp] theorem State.setDraws_draws (s : State) (x : Nat) : (s.setDraws x).draws = x := rfl
@[simp] theorem State.setDraws_port (s : State) (x : Nat) (p : Port) : (s.setDraws x).port p = s.port p := by
  cases p <;> rfl

/-! ## Ports -/

@[simp] theorem State.port_floor (s : State) : s.port .floor = s.floor := rfl
@[simp] theorem State.port_room (s : State) : s.port .room = s.room := rfl
@[simp] theorem State.setPort_port (s : State) (p : Port) (x : LinePort) : (s.setPort p x).port p = x := by cases p <;> rfl
@[simp] theorem State.setPort_floor (s : State) (x : LinePort) : s.setPort .floor x = s.setFloor x := rfl
@[simp] theorem State.setPort_room (s : State) (x : LinePort) : s.setPort .room x = s.setRoom x := rfl

/-- A port keeps what is set at the other. -/
theorem State.setPort_other (s : State) (p q : Port) (x : LinePort) (h : p ≠ q) : (s.setPort p x).port q = s.port q := by
  cases p <;> cases q <;> first | rfl | exact absurd rfl h

@[simp] theorem State.setPort_pending (s : State) (p : Port) (x : LinePort) : (s.setPort p x).pending = s.pending := by cases p <;> rfl
@[simp] theorem State.setPort_seconds (s : State) (p : Port) (x : LinePort) : (s.setPort p x).seconds = s.seconds := by cases p <;> rfl
@[simp] theorem State.setPort_denoms (s : State) (p : Port) (x : LinePort) : (s.setPort p x).denoms = s.denoms := by cases p <;> rfl
@[simp] theorem State.setPort_stock (s : State) (p : Port) (x : LinePort) : (s.setPort p x).stock = s.stock := by cases p <;> rfl
@[simp] theorem State.setPort_acc (s : State) (p : Port) (x : LinePort) : (s.setPort p x).acc = s.acc := by cases p <;> rfl
@[simp] theorem State.setPort_bags (s : State) (p : Port) (x : LinePort) : (s.setPort p x).bags = s.bags := by cases p <;> rfl
@[simp] theorem State.setPort_tills (s : State) (p : Port) (x : LinePort) : (s.setPort p x).tills = s.tills := by cases p <;> rfl
@[simp] theorem State.setPort_drawers (s : State) (p : Port) (x : LinePort) : (s.setPort p x).drawers = s.drawers := by cases p <;> rfl
@[simp] theorem State.setPort_orders (s : State) (p : Port) (x : LinePort) : (s.setPort p x).orders = s.orders := by cases p <;> rfl
@[simp] theorem State.setPort_safe (s : State) (p : Port) (x : LinePort) : (s.setPort p x).safe = s.safe := by cases p <;> rfl
@[simp] theorem State.setPort_sessions (s : State) (p : Port) (x : LinePort) : (s.setPort p x).sessions = s.sessions := by cases p <;> rfl
@[simp] theorem State.setPort_tallies (s : State) (p : Port) (x : LinePort) : (s.setPort p x).tallies = s.tallies := by cases p <;> rfl
@[simp] theorem State.setPort_ring (s : State) (p : Port) (x : LinePort) : (s.setPort p x).ring = s.ring := by cases p <;> rfl
@[simp] theorem State.setPort_call (s : State) (p : Port) (x : LinePort) : (s.setPort p x).call = s.call := by cases p <;> rfl
@[simp] theorem State.setPort_day (s : State) (p : Port) (x : LinePort) : (s.setPort p x).day = s.day := by cases p <;> rfl
@[simp] theorem State.setPort_nodes (s : State) (p : Port) (x : LinePort) : (s.setPort p x).nodes = s.nodes := by cases p <;> rfl
@[simp] theorem State.setPort_witness (s : State) (p : Port) (x : LinePort) : (s.setPort p x).witness = s.witness := by cases p <;> rfl
@[simp] theorem State.setPort_timing (s : State) (p : Port) (x : LinePort) : (s.setPort p x).timing = s.timing := by cases p <;> rfl
@[simp] theorem State.setPort_uplink (s : State) (p : Port) (x : LinePort) : (s.setPort p x).uplink = s.uplink := by cases p <;> rfl
@[simp] theorem State.setPort_trunk (s : State) (p : Port) (x : LinePort) : (s.setPort p x).trunk = s.trunk := by cases p <;> rfl
@[simp] theorem State.setPort_pointer (s : State) (p : Port) (x : LinePort) : (s.setPort p x).pointer = s.pointer := by cases p <;> rfl
@[simp] theorem State.setPort_events (s : State) (p : Port) (x : LinePort) : (s.setPort p x).events = s.events := by cases p <;> rfl
@[simp] theorem State.setPort_vector (s : State) (p : Port) (x : LinePort) : (s.setPort p x).vector = s.vector := by cases p <;> rfl
@[simp] theorem State.setPort_attention (s : State) (p : Port) (x : LinePort) : (s.setPort p x).attention = s.attention := by cases p <;> rfl
@[simp] theorem State.setPort_draws (s : State) (p : Port) (x : LinePort) : (s.setPort p x).draws = s.draws := by cases p <;> rfl

/-! `setRx` -/

@[simp] theorem State.setRx_pending (s : State) (p : Port) (x : Receiver) : (s.setRx p x).pending = s.pending := by cases p <;> rfl
@[simp] theorem State.setRx_seconds (s : State) (p : Port) (x : Receiver) : (s.setRx p x).seconds = s.seconds := by cases p <;> rfl
@[simp] theorem State.setRx_denoms (s : State) (p : Port) (x : Receiver) : (s.setRx p x).denoms = s.denoms := by cases p <;> rfl
@[simp] theorem State.setRx_stock (s : State) (p : Port) (x : Receiver) : (s.setRx p x).stock = s.stock := by cases p <;> rfl
@[simp] theorem State.setRx_acc (s : State) (p : Port) (x : Receiver) : (s.setRx p x).acc = s.acc := by cases p <;> rfl
@[simp] theorem State.setRx_bags (s : State) (p : Port) (x : Receiver) : (s.setRx p x).bags = s.bags := by cases p <;> rfl
@[simp] theorem State.setRx_tills (s : State) (p : Port) (x : Receiver) : (s.setRx p x).tills = s.tills := by cases p <;> rfl
@[simp] theorem State.setRx_drawers (s : State) (p : Port) (x : Receiver) : (s.setRx p x).drawers = s.drawers := by cases p <;> rfl
@[simp] theorem State.setRx_orders (s : State) (p : Port) (x : Receiver) : (s.setRx p x).orders = s.orders := by cases p <;> rfl
@[simp] theorem State.setRx_safe (s : State) (p : Port) (x : Receiver) : (s.setRx p x).safe = s.safe := by cases p <;> rfl
@[simp] theorem State.setRx_sessions (s : State) (p : Port) (x : Receiver) : (s.setRx p x).sessions = s.sessions := by cases p <;> rfl
@[simp] theorem State.setRx_tallies (s : State) (p : Port) (x : Receiver) : (s.setRx p x).tallies = s.tallies := by cases p <;> rfl
@[simp] theorem State.setRx_ring (s : State) (p : Port) (x : Receiver) : (s.setRx p x).ring = s.ring := by cases p <;> rfl
@[simp] theorem State.setRx_call (s : State) (p : Port) (x : Receiver) : (s.setRx p x).call = s.call := by cases p <;> rfl
@[simp] theorem State.setRx_day (s : State) (p : Port) (x : Receiver) : (s.setRx p x).day = s.day := by cases p <;> rfl
@[simp] theorem State.setRx_nodes (s : State) (p : Port) (x : Receiver) : (s.setRx p x).nodes = s.nodes := by cases p <;> rfl
@[simp] theorem State.setRx_witness (s : State) (p : Port) (x : Receiver) : (s.setRx p x).witness = s.witness := by cases p <;> rfl
@[simp] theorem State.setRx_timing (s : State) (p : Port) (x : Receiver) : (s.setRx p x).timing = s.timing := by cases p <;> rfl
@[simp] theorem State.setRx_uplink (s : State) (p : Port) (x : Receiver) : (s.setRx p x).uplink = s.uplink := by cases p <;> rfl
@[simp] theorem State.setRx_trunk (s : State) (p : Port) (x : Receiver) : (s.setRx p x).trunk = s.trunk := by cases p <;> rfl
@[simp] theorem State.setRx_pointer (s : State) (p : Port) (x : Receiver) : (s.setRx p x).pointer = s.pointer := by cases p <;> rfl
@[simp] theorem State.setRx_events (s : State) (p : Port) (x : Receiver) : (s.setRx p x).events = s.events := by cases p <;> rfl
@[simp] theorem State.setRx_vector (s : State) (p : Port) (x : Receiver) : (s.setRx p x).vector = s.vector := by cases p <;> rfl
@[simp] theorem State.setRx_attention (s : State) (p : Port) (x : Receiver) : (s.setRx p x).attention = s.attention := by cases p <;> rfl
@[simp] theorem State.setRx_draws (s : State) (p : Port) (x : Receiver) : (s.setRx p x).draws = s.draws := by cases p <;> rfl
@[simp] theorem State.setRx_port_rx (s : State) (p : Port) (x : Receiver) : ((s.setRx p x).port p).rx = x := by cases p <;> rfl
@[simp] theorem State.setRx_port_tx (s : State) (p : Port) (x : Receiver) : ((s.setRx p x).port p).tx = (s.port p).tx := by cases p <;> rfl
@[simp] theorem State.setRx_port_out (s : State) (p : Port) (x : Receiver) : ((s.setRx p x).port p).out = (s.port p).out := by cases p <;> rfl
@[simp] theorem State.setRx_port_down (s : State) (p : Port) (x : Receiver) : ((s.setRx p x).port p).down = (s.port p).down := by cases p <;> rfl
@[simp] theorem State.setRx_port_errors (s : State) (p : Port) (x : Receiver) : ((s.setRx p x).port p).errors = (s.port p).errors := by cases p <;> rfl
@[simp] theorem State.setRx_port_lineIdle (s : State) (p : Port) (x : Receiver) : ((s.setRx p x).port p).lineIdle = (s.port p).lineIdle := by cases p <;> rfl
/-- The other port stands. -/
theorem State.setRx_other (s : State) (p q : Port) (x : Receiver) (h : p ≠ q) : (s.setRx p x).port q = s.port q :=
  s.setPort_other p q _ h

/-! `setTx` -/

@[simp] theorem State.setTx_pending (s : State) (p : Port) (x : Transmitter) : (s.setTx p x).pending = s.pending := by cases p <;> rfl
@[simp] theorem State.setTx_seconds (s : State) (p : Port) (x : Transmitter) : (s.setTx p x).seconds = s.seconds := by cases p <;> rfl
@[simp] theorem State.setTx_denoms (s : State) (p : Port) (x : Transmitter) : (s.setTx p x).denoms = s.denoms := by cases p <;> rfl
@[simp] theorem State.setTx_stock (s : State) (p : Port) (x : Transmitter) : (s.setTx p x).stock = s.stock := by cases p <;> rfl
@[simp] theorem State.setTx_acc (s : State) (p : Port) (x : Transmitter) : (s.setTx p x).acc = s.acc := by cases p <;> rfl
@[simp] theorem State.setTx_bags (s : State) (p : Port) (x : Transmitter) : (s.setTx p x).bags = s.bags := by cases p <;> rfl
@[simp] theorem State.setTx_tills (s : State) (p : Port) (x : Transmitter) : (s.setTx p x).tills = s.tills := by cases p <;> rfl
@[simp] theorem State.setTx_drawers (s : State) (p : Port) (x : Transmitter) : (s.setTx p x).drawers = s.drawers := by cases p <;> rfl
@[simp] theorem State.setTx_orders (s : State) (p : Port) (x : Transmitter) : (s.setTx p x).orders = s.orders := by cases p <;> rfl
@[simp] theorem State.setTx_safe (s : State) (p : Port) (x : Transmitter) : (s.setTx p x).safe = s.safe := by cases p <;> rfl
@[simp] theorem State.setTx_sessions (s : State) (p : Port) (x : Transmitter) : (s.setTx p x).sessions = s.sessions := by cases p <;> rfl
@[simp] theorem State.setTx_tallies (s : State) (p : Port) (x : Transmitter) : (s.setTx p x).tallies = s.tallies := by cases p <;> rfl
@[simp] theorem State.setTx_ring (s : State) (p : Port) (x : Transmitter) : (s.setTx p x).ring = s.ring := by cases p <;> rfl
@[simp] theorem State.setTx_call (s : State) (p : Port) (x : Transmitter) : (s.setTx p x).call = s.call := by cases p <;> rfl
@[simp] theorem State.setTx_day (s : State) (p : Port) (x : Transmitter) : (s.setTx p x).day = s.day := by cases p <;> rfl
@[simp] theorem State.setTx_nodes (s : State) (p : Port) (x : Transmitter) : (s.setTx p x).nodes = s.nodes := by cases p <;> rfl
@[simp] theorem State.setTx_witness (s : State) (p : Port) (x : Transmitter) : (s.setTx p x).witness = s.witness := by cases p <;> rfl
@[simp] theorem State.setTx_timing (s : State) (p : Port) (x : Transmitter) : (s.setTx p x).timing = s.timing := by cases p <;> rfl
@[simp] theorem State.setTx_uplink (s : State) (p : Port) (x : Transmitter) : (s.setTx p x).uplink = s.uplink := by cases p <;> rfl
@[simp] theorem State.setTx_trunk (s : State) (p : Port) (x : Transmitter) : (s.setTx p x).trunk = s.trunk := by cases p <;> rfl
@[simp] theorem State.setTx_pointer (s : State) (p : Port) (x : Transmitter) : (s.setTx p x).pointer = s.pointer := by cases p <;> rfl
@[simp] theorem State.setTx_events (s : State) (p : Port) (x : Transmitter) : (s.setTx p x).events = s.events := by cases p <;> rfl
@[simp] theorem State.setTx_vector (s : State) (p : Port) (x : Transmitter) : (s.setTx p x).vector = s.vector := by cases p <;> rfl
@[simp] theorem State.setTx_attention (s : State) (p : Port) (x : Transmitter) : (s.setTx p x).attention = s.attention := by cases p <;> rfl
@[simp] theorem State.setTx_draws (s : State) (p : Port) (x : Transmitter) : (s.setTx p x).draws = s.draws := by cases p <;> rfl
@[simp] theorem State.setTx_port_rx (s : State) (p : Port) (x : Transmitter) : ((s.setTx p x).port p).rx = (s.port p).rx := by cases p <;> rfl
@[simp] theorem State.setTx_port_tx (s : State) (p : Port) (x : Transmitter) : ((s.setTx p x).port p).tx = x := by cases p <;> rfl
@[simp] theorem State.setTx_port_out (s : State) (p : Port) (x : Transmitter) : ((s.setTx p x).port p).out = (s.port p).out := by cases p <;> rfl
@[simp] theorem State.setTx_port_down (s : State) (p : Port) (x : Transmitter) : ((s.setTx p x).port p).down = (s.port p).down := by cases p <;> rfl
@[simp] theorem State.setTx_port_errors (s : State) (p : Port) (x : Transmitter) : ((s.setTx p x).port p).errors = (s.port p).errors := by cases p <;> rfl
@[simp] theorem State.setTx_port_lineIdle (s : State) (p : Port) (x : Transmitter) : ((s.setTx p x).port p).lineIdle = (s.port p).lineIdle := by cases p <;> rfl
/-- The other port stands. -/
theorem State.setTx_other (s : State) (p q : Port) (x : Transmitter) (h : p ≠ q) : (s.setTx p x).port q = s.port q :=
  s.setPort_other p q _ h

/-! `setOut` -/

@[simp] theorem State.setOut_pending (s : State) (p : Port) (x : OutQueue) : (s.setOut p x).pending = s.pending := by cases p <;> rfl
@[simp] theorem State.setOut_seconds (s : State) (p : Port) (x : OutQueue) : (s.setOut p x).seconds = s.seconds := by cases p <;> rfl
@[simp] theorem State.setOut_denoms (s : State) (p : Port) (x : OutQueue) : (s.setOut p x).denoms = s.denoms := by cases p <;> rfl
@[simp] theorem State.setOut_stock (s : State) (p : Port) (x : OutQueue) : (s.setOut p x).stock = s.stock := by cases p <;> rfl
@[simp] theorem State.setOut_acc (s : State) (p : Port) (x : OutQueue) : (s.setOut p x).acc = s.acc := by cases p <;> rfl
@[simp] theorem State.setOut_bags (s : State) (p : Port) (x : OutQueue) : (s.setOut p x).bags = s.bags := by cases p <;> rfl
@[simp] theorem State.setOut_tills (s : State) (p : Port) (x : OutQueue) : (s.setOut p x).tills = s.tills := by cases p <;> rfl
@[simp] theorem State.setOut_drawers (s : State) (p : Port) (x : OutQueue) : (s.setOut p x).drawers = s.drawers := by cases p <;> rfl
@[simp] theorem State.setOut_orders (s : State) (p : Port) (x : OutQueue) : (s.setOut p x).orders = s.orders := by cases p <;> rfl
@[simp] theorem State.setOut_safe (s : State) (p : Port) (x : OutQueue) : (s.setOut p x).safe = s.safe := by cases p <;> rfl
@[simp] theorem State.setOut_sessions (s : State) (p : Port) (x : OutQueue) : (s.setOut p x).sessions = s.sessions := by cases p <;> rfl
@[simp] theorem State.setOut_tallies (s : State) (p : Port) (x : OutQueue) : (s.setOut p x).tallies = s.tallies := by cases p <;> rfl
@[simp] theorem State.setOut_ring (s : State) (p : Port) (x : OutQueue) : (s.setOut p x).ring = s.ring := by cases p <;> rfl
@[simp] theorem State.setOut_call (s : State) (p : Port) (x : OutQueue) : (s.setOut p x).call = s.call := by cases p <;> rfl
@[simp] theorem State.setOut_day (s : State) (p : Port) (x : OutQueue) : (s.setOut p x).day = s.day := by cases p <;> rfl
@[simp] theorem State.setOut_nodes (s : State) (p : Port) (x : OutQueue) : (s.setOut p x).nodes = s.nodes := by cases p <;> rfl
@[simp] theorem State.setOut_witness (s : State) (p : Port) (x : OutQueue) : (s.setOut p x).witness = s.witness := by cases p <;> rfl
@[simp] theorem State.setOut_timing (s : State) (p : Port) (x : OutQueue) : (s.setOut p x).timing = s.timing := by cases p <;> rfl
@[simp] theorem State.setOut_uplink (s : State) (p : Port) (x : OutQueue) : (s.setOut p x).uplink = s.uplink := by cases p <;> rfl
@[simp] theorem State.setOut_trunk (s : State) (p : Port) (x : OutQueue) : (s.setOut p x).trunk = s.trunk := by cases p <;> rfl
@[simp] theorem State.setOut_pointer (s : State) (p : Port) (x : OutQueue) : (s.setOut p x).pointer = s.pointer := by cases p <;> rfl
@[simp] theorem State.setOut_events (s : State) (p : Port) (x : OutQueue) : (s.setOut p x).events = s.events := by cases p <;> rfl
@[simp] theorem State.setOut_vector (s : State) (p : Port) (x : OutQueue) : (s.setOut p x).vector = s.vector := by cases p <;> rfl
@[simp] theorem State.setOut_attention (s : State) (p : Port) (x : OutQueue) : (s.setOut p x).attention = s.attention := by cases p <;> rfl
@[simp] theorem State.setOut_draws (s : State) (p : Port) (x : OutQueue) : (s.setOut p x).draws = s.draws := by cases p <;> rfl
@[simp] theorem State.setOut_port_rx (s : State) (p : Port) (x : OutQueue) : ((s.setOut p x).port p).rx = (s.port p).rx := by cases p <;> rfl
@[simp] theorem State.setOut_port_tx (s : State) (p : Port) (x : OutQueue) : ((s.setOut p x).port p).tx = (s.port p).tx := by cases p <;> rfl
@[simp] theorem State.setOut_port_out (s : State) (p : Port) (x : OutQueue) : ((s.setOut p x).port p).out = x := by cases p <;> rfl
@[simp] theorem State.setOut_port_down (s : State) (p : Port) (x : OutQueue) : ((s.setOut p x).port p).down = (s.port p).down := by cases p <;> rfl
@[simp] theorem State.setOut_port_errors (s : State) (p : Port) (x : OutQueue) : ((s.setOut p x).port p).errors = (s.port p).errors := by cases p <;> rfl
@[simp] theorem State.setOut_port_lineIdle (s : State) (p : Port) (x : OutQueue) : ((s.setOut p x).port p).lineIdle = (s.port p).lineIdle := by cases p <;> rfl
/-- The other port stands. -/
theorem State.setOut_other (s : State) (p q : Port) (x : OutQueue) (h : p ≠ q) : (s.setOut p x).port q = s.port q :=
  s.setPort_other p q _ h

/-! `setDown` -/

@[simp] theorem State.setDown_pending (s : State) (p : Port) (x : List LineFrame) : (s.setDown p x).pending = s.pending := by cases p <;> rfl
@[simp] theorem State.setDown_seconds (s : State) (p : Port) (x : List LineFrame) : (s.setDown p x).seconds = s.seconds := by cases p <;> rfl
@[simp] theorem State.setDown_denoms (s : State) (p : Port) (x : List LineFrame) : (s.setDown p x).denoms = s.denoms := by cases p <;> rfl
@[simp] theorem State.setDown_stock (s : State) (p : Port) (x : List LineFrame) : (s.setDown p x).stock = s.stock := by cases p <;> rfl
@[simp] theorem State.setDown_acc (s : State) (p : Port) (x : List LineFrame) : (s.setDown p x).acc = s.acc := by cases p <;> rfl
@[simp] theorem State.setDown_bags (s : State) (p : Port) (x : List LineFrame) : (s.setDown p x).bags = s.bags := by cases p <;> rfl
@[simp] theorem State.setDown_tills (s : State) (p : Port) (x : List LineFrame) : (s.setDown p x).tills = s.tills := by cases p <;> rfl
@[simp] theorem State.setDown_drawers (s : State) (p : Port) (x : List LineFrame) : (s.setDown p x).drawers = s.drawers := by cases p <;> rfl
@[simp] theorem State.setDown_orders (s : State) (p : Port) (x : List LineFrame) : (s.setDown p x).orders = s.orders := by cases p <;> rfl
@[simp] theorem State.setDown_safe (s : State) (p : Port) (x : List LineFrame) : (s.setDown p x).safe = s.safe := by cases p <;> rfl
@[simp] theorem State.setDown_sessions (s : State) (p : Port) (x : List LineFrame) : (s.setDown p x).sessions = s.sessions := by cases p <;> rfl
@[simp] theorem State.setDown_tallies (s : State) (p : Port) (x : List LineFrame) : (s.setDown p x).tallies = s.tallies := by cases p <;> rfl
@[simp] theorem State.setDown_ring (s : State) (p : Port) (x : List LineFrame) : (s.setDown p x).ring = s.ring := by cases p <;> rfl
@[simp] theorem State.setDown_call (s : State) (p : Port) (x : List LineFrame) : (s.setDown p x).call = s.call := by cases p <;> rfl
@[simp] theorem State.setDown_day (s : State) (p : Port) (x : List LineFrame) : (s.setDown p x).day = s.day := by cases p <;> rfl
@[simp] theorem State.setDown_nodes (s : State) (p : Port) (x : List LineFrame) : (s.setDown p x).nodes = s.nodes := by cases p <;> rfl
@[simp] theorem State.setDown_witness (s : State) (p : Port) (x : List LineFrame) : (s.setDown p x).witness = s.witness := by cases p <;> rfl
@[simp] theorem State.setDown_timing (s : State) (p : Port) (x : List LineFrame) : (s.setDown p x).timing = s.timing := by cases p <;> rfl
@[simp] theorem State.setDown_uplink (s : State) (p : Port) (x : List LineFrame) : (s.setDown p x).uplink = s.uplink := by cases p <;> rfl
@[simp] theorem State.setDown_trunk (s : State) (p : Port) (x : List LineFrame) : (s.setDown p x).trunk = s.trunk := by cases p <;> rfl
@[simp] theorem State.setDown_pointer (s : State) (p : Port) (x : List LineFrame) : (s.setDown p x).pointer = s.pointer := by cases p <;> rfl
@[simp] theorem State.setDown_events (s : State) (p : Port) (x : List LineFrame) : (s.setDown p x).events = s.events := by cases p <;> rfl
@[simp] theorem State.setDown_vector (s : State) (p : Port) (x : List LineFrame) : (s.setDown p x).vector = s.vector := by cases p <;> rfl
@[simp] theorem State.setDown_attention (s : State) (p : Port) (x : List LineFrame) : (s.setDown p x).attention = s.attention := by cases p <;> rfl
@[simp] theorem State.setDown_draws (s : State) (p : Port) (x : List LineFrame) : (s.setDown p x).draws = s.draws := by cases p <;> rfl
@[simp] theorem State.setDown_port_rx (s : State) (p : Port) (x : List LineFrame) : ((s.setDown p x).port p).rx = (s.port p).rx := by cases p <;> rfl
@[simp] theorem State.setDown_port_tx (s : State) (p : Port) (x : List LineFrame) : ((s.setDown p x).port p).tx = (s.port p).tx := by cases p <;> rfl
@[simp] theorem State.setDown_port_out (s : State) (p : Port) (x : List LineFrame) : ((s.setDown p x).port p).out = (s.port p).out := by cases p <;> rfl
@[simp] theorem State.setDown_port_down (s : State) (p : Port) (x : List LineFrame) : ((s.setDown p x).port p).down = x := by cases p <;> rfl
@[simp] theorem State.setDown_port_errors (s : State) (p : Port) (x : List LineFrame) : ((s.setDown p x).port p).errors = (s.port p).errors := by cases p <;> rfl
@[simp] theorem State.setDown_port_lineIdle (s : State) (p : Port) (x : List LineFrame) : ((s.setDown p x).port p).lineIdle = (s.port p).lineIdle := by cases p <;> rfl
/-- The other port stands. -/
theorem State.setDown_other (s : State) (p q : Port) (x : List LineFrame) (h : p ≠ q) : (s.setDown p x).port q = s.port q :=
  s.setPort_other p q _ h

/-! `setErrors` -/

@[simp] theorem State.setErrors_pending (s : State) (p : Port) (x : LineErrors) : (s.setErrors p x).pending = s.pending := by cases p <;> rfl
@[simp] theorem State.setErrors_seconds (s : State) (p : Port) (x : LineErrors) : (s.setErrors p x).seconds = s.seconds := by cases p <;> rfl
@[simp] theorem State.setErrors_denoms (s : State) (p : Port) (x : LineErrors) : (s.setErrors p x).denoms = s.denoms := by cases p <;> rfl
@[simp] theorem State.setErrors_stock (s : State) (p : Port) (x : LineErrors) : (s.setErrors p x).stock = s.stock := by cases p <;> rfl
@[simp] theorem State.setErrors_acc (s : State) (p : Port) (x : LineErrors) : (s.setErrors p x).acc = s.acc := by cases p <;> rfl
@[simp] theorem State.setErrors_bags (s : State) (p : Port) (x : LineErrors) : (s.setErrors p x).bags = s.bags := by cases p <;> rfl
@[simp] theorem State.setErrors_tills (s : State) (p : Port) (x : LineErrors) : (s.setErrors p x).tills = s.tills := by cases p <;> rfl
@[simp] theorem State.setErrors_drawers (s : State) (p : Port) (x : LineErrors) : (s.setErrors p x).drawers = s.drawers := by cases p <;> rfl
@[simp] theorem State.setErrors_orders (s : State) (p : Port) (x : LineErrors) : (s.setErrors p x).orders = s.orders := by cases p <;> rfl
@[simp] theorem State.setErrors_safe (s : State) (p : Port) (x : LineErrors) : (s.setErrors p x).safe = s.safe := by cases p <;> rfl
@[simp] theorem State.setErrors_sessions (s : State) (p : Port) (x : LineErrors) : (s.setErrors p x).sessions = s.sessions := by cases p <;> rfl
@[simp] theorem State.setErrors_tallies (s : State) (p : Port) (x : LineErrors) : (s.setErrors p x).tallies = s.tallies := by cases p <;> rfl
@[simp] theorem State.setErrors_ring (s : State) (p : Port) (x : LineErrors) : (s.setErrors p x).ring = s.ring := by cases p <;> rfl
@[simp] theorem State.setErrors_call (s : State) (p : Port) (x : LineErrors) : (s.setErrors p x).call = s.call := by cases p <;> rfl
@[simp] theorem State.setErrors_day (s : State) (p : Port) (x : LineErrors) : (s.setErrors p x).day = s.day := by cases p <;> rfl
@[simp] theorem State.setErrors_nodes (s : State) (p : Port) (x : LineErrors) : (s.setErrors p x).nodes = s.nodes := by cases p <;> rfl
@[simp] theorem State.setErrors_witness (s : State) (p : Port) (x : LineErrors) : (s.setErrors p x).witness = s.witness := by cases p <;> rfl
@[simp] theorem State.setErrors_timing (s : State) (p : Port) (x : LineErrors) : (s.setErrors p x).timing = s.timing := by cases p <;> rfl
@[simp] theorem State.setErrors_uplink (s : State) (p : Port) (x : LineErrors) : (s.setErrors p x).uplink = s.uplink := by cases p <;> rfl
@[simp] theorem State.setErrors_trunk (s : State) (p : Port) (x : LineErrors) : (s.setErrors p x).trunk = s.trunk := by cases p <;> rfl
@[simp] theorem State.setErrors_pointer (s : State) (p : Port) (x : LineErrors) : (s.setErrors p x).pointer = s.pointer := by cases p <;> rfl
@[simp] theorem State.setErrors_events (s : State) (p : Port) (x : LineErrors) : (s.setErrors p x).events = s.events := by cases p <;> rfl
@[simp] theorem State.setErrors_vector (s : State) (p : Port) (x : LineErrors) : (s.setErrors p x).vector = s.vector := by cases p <;> rfl
@[simp] theorem State.setErrors_attention (s : State) (p : Port) (x : LineErrors) : (s.setErrors p x).attention = s.attention := by cases p <;> rfl
@[simp] theorem State.setErrors_draws (s : State) (p : Port) (x : LineErrors) : (s.setErrors p x).draws = s.draws := by cases p <;> rfl
@[simp] theorem State.setErrors_port_rx (s : State) (p : Port) (x : LineErrors) : ((s.setErrors p x).port p).rx = (s.port p).rx := by cases p <;> rfl
@[simp] theorem State.setErrors_port_tx (s : State) (p : Port) (x : LineErrors) : ((s.setErrors p x).port p).tx = (s.port p).tx := by cases p <;> rfl
@[simp] theorem State.setErrors_port_out (s : State) (p : Port) (x : LineErrors) : ((s.setErrors p x).port p).out = (s.port p).out := by cases p <;> rfl
@[simp] theorem State.setErrors_port_down (s : State) (p : Port) (x : LineErrors) : ((s.setErrors p x).port p).down = (s.port p).down := by cases p <;> rfl
@[simp] theorem State.setErrors_port_errors (s : State) (p : Port) (x : LineErrors) : ((s.setErrors p x).port p).errors = x := by cases p <;> rfl
@[simp] theorem State.setErrors_port_lineIdle (s : State) (p : Port) (x : LineErrors) : ((s.setErrors p x).port p).lineIdle = (s.port p).lineIdle := by cases p <;> rfl
/-- The other port stands. -/
theorem State.setErrors_other (s : State) (p q : Port) (x : LineErrors) (h : p ≠ q) : (s.setErrors p x).port q = s.port q :=
  s.setPort_other p q _ h

/-! `setLineIdle` -/

@[simp] theorem State.setLineIdle_pending (s : State) (p : Port) (x : Bool) : (s.setLineIdle p x).pending = s.pending := by cases p <;> rfl
@[simp] theorem State.setLineIdle_seconds (s : State) (p : Port) (x : Bool) : (s.setLineIdle p x).seconds = s.seconds := by cases p <;> rfl
@[simp] theorem State.setLineIdle_denoms (s : State) (p : Port) (x : Bool) : (s.setLineIdle p x).denoms = s.denoms := by cases p <;> rfl
@[simp] theorem State.setLineIdle_stock (s : State) (p : Port) (x : Bool) : (s.setLineIdle p x).stock = s.stock := by cases p <;> rfl
@[simp] theorem State.setLineIdle_acc (s : State) (p : Port) (x : Bool) : (s.setLineIdle p x).acc = s.acc := by cases p <;> rfl
@[simp] theorem State.setLineIdle_bags (s : State) (p : Port) (x : Bool) : (s.setLineIdle p x).bags = s.bags := by cases p <;> rfl
@[simp] theorem State.setLineIdle_tills (s : State) (p : Port) (x : Bool) : (s.setLineIdle p x).tills = s.tills := by cases p <;> rfl
@[simp] theorem State.setLineIdle_drawers (s : State) (p : Port) (x : Bool) : (s.setLineIdle p x).drawers = s.drawers := by cases p <;> rfl
@[simp] theorem State.setLineIdle_orders (s : State) (p : Port) (x : Bool) : (s.setLineIdle p x).orders = s.orders := by cases p <;> rfl
@[simp] theorem State.setLineIdle_safe (s : State) (p : Port) (x : Bool) : (s.setLineIdle p x).safe = s.safe := by cases p <;> rfl
@[simp] theorem State.setLineIdle_sessions (s : State) (p : Port) (x : Bool) : (s.setLineIdle p x).sessions = s.sessions := by cases p <;> rfl
@[simp] theorem State.setLineIdle_tallies (s : State) (p : Port) (x : Bool) : (s.setLineIdle p x).tallies = s.tallies := by cases p <;> rfl
@[simp] theorem State.setLineIdle_ring (s : State) (p : Port) (x : Bool) : (s.setLineIdle p x).ring = s.ring := by cases p <;> rfl
@[simp] theorem State.setLineIdle_call (s : State) (p : Port) (x : Bool) : (s.setLineIdle p x).call = s.call := by cases p <;> rfl
@[simp] theorem State.setLineIdle_day (s : State) (p : Port) (x : Bool) : (s.setLineIdle p x).day = s.day := by cases p <;> rfl
@[simp] theorem State.setLineIdle_nodes (s : State) (p : Port) (x : Bool) : (s.setLineIdle p x).nodes = s.nodes := by cases p <;> rfl
@[simp] theorem State.setLineIdle_witness (s : State) (p : Port) (x : Bool) : (s.setLineIdle p x).witness = s.witness := by cases p <;> rfl
@[simp] theorem State.setLineIdle_timing (s : State) (p : Port) (x : Bool) : (s.setLineIdle p x).timing = s.timing := by cases p <;> rfl
@[simp] theorem State.setLineIdle_uplink (s : State) (p : Port) (x : Bool) : (s.setLineIdle p x).uplink = s.uplink := by cases p <;> rfl
@[simp] theorem State.setLineIdle_trunk (s : State) (p : Port) (x : Bool) : (s.setLineIdle p x).trunk = s.trunk := by cases p <;> rfl
@[simp] theorem State.setLineIdle_pointer (s : State) (p : Port) (x : Bool) : (s.setLineIdle p x).pointer = s.pointer := by cases p <;> rfl
@[simp] theorem State.setLineIdle_events (s : State) (p : Port) (x : Bool) : (s.setLineIdle p x).events = s.events := by cases p <;> rfl
@[simp] theorem State.setLineIdle_vector (s : State) (p : Port) (x : Bool) : (s.setLineIdle p x).vector = s.vector := by cases p <;> rfl
@[simp] theorem State.setLineIdle_attention (s : State) (p : Port) (x : Bool) : (s.setLineIdle p x).attention = s.attention := by cases p <;> rfl
@[simp] theorem State.setLineIdle_draws (s : State) (p : Port) (x : Bool) : (s.setLineIdle p x).draws = s.draws := by cases p <;> rfl
@[simp] theorem State.setLineIdle_port_rx (s : State) (p : Port) (x : Bool) : ((s.setLineIdle p x).port p).rx = (s.port p).rx := by cases p <;> rfl
@[simp] theorem State.setLineIdle_port_tx (s : State) (p : Port) (x : Bool) : ((s.setLineIdle p x).port p).tx = (s.port p).tx := by cases p <;> rfl
@[simp] theorem State.setLineIdle_port_out (s : State) (p : Port) (x : Bool) : ((s.setLineIdle p x).port p).out = (s.port p).out := by cases p <;> rfl
@[simp] theorem State.setLineIdle_port_down (s : State) (p : Port) (x : Bool) : ((s.setLineIdle p x).port p).down = (s.port p).down := by cases p <;> rfl
@[simp] theorem State.setLineIdle_port_errors (s : State) (p : Port) (x : Bool) : ((s.setLineIdle p x).port p).errors = (s.port p).errors := by cases p <;> rfl
@[simp] theorem State.setLineIdle_port_lineIdle (s : State) (p : Port) (x : Bool) : ((s.setLineIdle p x).port p).lineIdle = x := by cases p <;> rfl
/-- The other port stands. -/
theorem State.setLineIdle_other (s : State) (p q : Port) (x : Bool) (h : p ≠ q) : (s.setLineIdle p x).port q = s.port q :=
  s.setPort_other p q _ h

end Sys2Proof.Machine
end

