-- ==== Sys2Proof/Laws/Ops.lean ====
section
/-! SUPPORT. What the shared operations of the tables, the bytes, the bits and the queue places do. -/

namespace Sys2Proof.Machine

/-! ## Rows of a table -/

/-- A row of a table after one row was replaced. -/
theorem put_getElem {α : Type} {n : Nat} (v : Vector α n) (i : Fin n) (x : α) (k : Nat) (h : k < n) :
    (put v i x)[k] = if i.val = k then x else v[k] := by
  simp only [put, Vector.getElem_set]

theorem put_get {α : Type} {n : Nat} (v : Vector α n) (i j : Fin n) (x : α) : (put v i x)[j] = if i = j then x else v[j] := by
  simp only [Fin.getElem_fin, put_getElem, Fin.ext_iff]

@[simp] theorem put_get_self {α : Type} {n : Nat} (v : Vector α n) (i : Fin n) (x : α) : (put v i x)[i.val] = x := by
  simp only [put_getElem, if_true]

theorem put_get_other {α : Type} {n : Nat} (v : Vector α n) (i j : Fin n) (x : α) (h : i ≠ j) : (put v i x)[j] = v[j] := by
  rw [put_get, if_neg h]

@[simp] theorem put_same {α : Type} {n : Nat} (v : Vector α n) (i : Fin n) : put v i v[i.val] = v := by
  ext j hj
  simp [put]

@[simp] theorem mapRows_get {α β : Type} {n : Nat} (f : α → β) (v : Vector α n) (k : Nat) (h : k < n) :
    (mapRows f v)[k] = f v[k] := by
  simp [mapRows]

theorem row_ext {α : Type} {n : Nat} {v w : Vector α n} (h : ∀ i : Fin n, v[i] = w[i]) : v = w := by
  ext j hj
  exact h ⟨j, hj⟩

theorem anyRow_iff {α : Type} {n : Nat} (p : α → Bool) (v : Vector α n) : anyRow p v = true ↔ ∃ i : Fin n, p v[i] = true := by
  simp only [anyRow, List.any_eq_true, Vector.mem_toList_iff]
  constructor
  · rintro ⟨x, hx, hp⟩
    obtain ⟨i, hi, rfl⟩ := Vector.getElem_of_mem hx
    exact ⟨⟨i, hi⟩, hp⟩
  · rintro ⟨i, hi⟩
    exact ⟨v[i], Vector.getElem_mem i.isLt, hi⟩

theorem anyRow_false_iff {α : Type} {n : Nat} (p : α → Bool) (v : Vector α n) :
    anyRow p v = false ↔ ∀ i : Fin n, p v[i] = false := by
  rw [← Bool.not_eq_true, anyRow_iff]
  simp

theorem anyRow_congr {α : Type} {n : Nat} {p : α → Bool} {v w : Vector α n} (h : ∀ i : Fin n, p v[i] = p w[i]) :
    anyRow p v = anyRow p w := by
  rw [Bool.eq_iff_iff, anyRow_iff, anyRow_iff]
  exact exists_congr fun i => by rw [h i]

/-- `firstIndex` answers the lowest index that satisfies the predicate. -/
theorem firstIndex_some {n : Nat} {p : Fin n → Bool} {i : Fin n} :
    firstIndex n p = some i ↔ p i = true ∧ ∀ j : Fin n, j < i → p j = false := by
  unfold firstIndex
  rw [List.find?_eq_some_iff_getElem]
  constructor
  · rintro ⟨hi, k, hk, rfl, hj⟩
    refine ⟨by simpa using hi, fun j hjk => ?_⟩
    have := hj j.val (by simpa [Fin.lt_def] using hjk)
    simpa using this
  · rintro ⟨hi, hj⟩
    refine ⟨by simpa using hi, i.val, by simp, by simp, fun j hji => ?_⟩
    have := hj ⟨j, by omega⟩ (by simpa [Fin.lt_def] using hji)
    simpa using this

theorem firstIndex_none {n : Nat} {p : Fin n → Bool} : firstIndex n p = none ↔ ∀ i : Fin n, p i = false := by
  unfold firstIndex
  rw [List.find?_eq_none]
  simp

@[simp] theorem inRange_val {n : Nat} (i : Fin n) : inRange n i.val = some i := by simp [inRange]

theorem inRange_some {n v : Nat} {i : Fin n} : inRange n v = some i ↔ v = i.val := by
  unfold inRange
  split
  · simp [Fin.ext_iff]
  · simp only [reduceCtorEq, false_iff]
    omega

theorem inRange_none {n v : Nat} : inRange n v = none ↔ n ≤ v := by
  unfold inRange
  split <;> simp <;> omega

/-! ## Ranges -/

theorem satInt_fst (i : Int) : (satInt i).1 = max Config.low31 (min Config.high31 i) := rfl

theorem satInt_snd (i : Int) : (satInt i).2 = true ↔ i < Config.low31 ∨ Config.high31 < i := by simp [satInt]

theorem satNat_fst (n : Nat) : (satNat n).1 = min n Config.top32 := rfl

theorem satNat_snd (n : Nat) : (satNat n).2 = true ↔ Config.top32 < n := by simp [satNat]

/-! ## Bytes -/

@[simp] theorem be_length (k n : Nat) : (be k n).length = k := by
  induction k with
  | zero => rfl
  | succ k ih => simp [be, ih]

theorem unbe_append (xs ys : List Byte) : unbe (xs ++ ys) = unbe xs * 256 ^ ys.length + unbe ys := by
  unfold unbe
  rw [List.foldl_append]
  generalize xs.foldl (fun a b => a * 256 + b.toNat) 0 = a
  have h : ∀ (ys : List Byte) (a : Nat), ys.foldl (fun a b => a * 256 + b.toNat) a =
      a * 256 ^ ys.length + ys.foldl (fun a b => a * 256 + b.toNat) 0 := by
    intro ys
    induction ys with
    | nil => intro a; simp
    | cons y ys ih =>
      intro a
      simp only [List.foldl_cons, List.length_cons]
      rw [ih (a * 256 + y.toNat), ih (0 * 256 + y.toNat)]
      ring
  exact h ys a

theorem unbe_lt (bs : List Byte) : unbe bs < 256 ^ bs.length := by
  induction bs using List.reverseRecOn with
  | nil => simp [unbe]
  | append_singleton xs x ih =>
    rw [unbe_append]
    have : unbe [x] = x.toNat := by simp [unbe]
    have hx := x.isLt
    simp only [List.length_append, List.length_singleton, pow_succ, this]
    omega

/-- A number written in `k` bytes reads back modulo `256 ^ k`. -/
theorem unbe_be_mod (k n : Nat) : unbe (be k n) = n % 256 ^ k := by
  induction k generalizing n with
  | zero => simp [be, unbe, Nat.mod_one]
  | succ k ih =>
    have h : be (k + 1) n = [BitVec.ofNat 8 (n / 256 ^ k)] ++ be k n := rfl
    rw [h, unbe_append, ih, be_length]
    have h1 : unbe [BitVec.ofNat 8 (n / 256 ^ k)] = n / 256 ^ k % 256 := by simp [unbe]
    rw [h1, pow_succ, Nat.mod_mul, mul_comm]
    omega

theorem unbe_be {k n : Nat} (h : n < 256 ^ k) : unbe (be k n) = n := by
  rw [unbe_be_mod, Nat.mod_eq_of_lt h]

/-- A field of `k` bytes at the front of a body is read as its number. -/
theorem takeNat_be {k n : Nat} (h : n < 256 ^ k) (rest : List Byte) : takeNat k (be k n ++ rest) = some (n, rest) := by
  simp [takeNat, unbe_be h]

theorem takeNat_be_end {k n : Nat} (h : n < 256 ^ k) : takeNat k (be k n) = some (n, []) := by
  simpa using takeNat_be h []

theorem takeNat_some {k n : Nat} {bs rest : List Byte} (h : takeNat k bs = some (n, rest)) :
    k ≤ bs.length ∧ n = unbe (bs.take k) ∧ rest = bs.drop k := by
  unfold takeNat at h
  split at h
  · cases h
  · cases h
    exact ⟨by omega, rfl, rfl⟩

@[simp] theorem takeFlag_flagByte (b : Bool) (rest : List Byte) : takeFlag (flagByte b :: rest) = some (b, rest) := by
  cases b <;> rfl

@[simp] theorem leadFields_nil (bs : List Byte) : leadFields [] bs = some ([], bs) := rfl

/-- A field of a run of numbers is read, and the rest of the run goes on behind it. -/
theorem leadFields_be {w n : Nat} (h : n < 256 ^ w) (ws : List Nat) (rest : List Byte) :
    leadFields (w :: ws) (be w n ++ rest) = (leadFields ws rest).map fun r => (n :: r.1, r.2) := by
  simp only [leadFields, takeNat_be h]
  cases leadFields ws rest <;> rfl

theorem leadFields_be_end {w n : Nat} (h : n < 256 ^ w) (ws : List Nat) :
    leadFields (w :: ws) (be w n) = (leadFields ws []).map fun r => (n :: r.1, r.2) := by
  simpa using leadFields_be h ws []

/-! ## Bits -/

@[simp] theorem bitsOf_length (b : Byte) : (bitsOf b).length = 8 := rfl

/-- The eight bits of a byte make up that byte. -/
theorem byteOf_bitsOf (b : Byte) : byteOf (bitsOf b) = b := by
  revert b
  decide +kernel

theorem splitBytes_bitsOf (b : Byte) (rest : List Bool) :
    splitBytes (bitsOf b ++ rest) = (b :: (splitBytes rest).1, (splitBytes rest).2) := by
  have h : bitsOf b = [b.getMsbD 0, b.getMsbD 1, b.getMsbD 2, b.getMsbD 3, b.getMsbD 4, b.getMsbD 5, b.getMsbD 6, b.getMsbD 7] := rfl
  rw [h]
  simp only [List.cons_append, List.nil_append, splitBytes]
  rw [← h, byteOf_bitsOf]

/-- Bytes sent in line order are read as those bytes, with no bit left over (R151). -/
theorem splitBytes_lineBits (bs : List Byte) : splitBytes (lineBits bs) = (bs, []) := by
  induction bs with
  | nil => rfl
  | cons b bs ih =>
    have h : lineBits (b :: bs) = bitsOf b ++ lineBits bs := rfl
    rw [h, splitBytes_bitsOf, ih]

/-! ## Queue places (R161, R176) -/

/-- Filling uses up a RESERVED place: the FREE places stay as they are, and with none RESERVED nothing is placed (R161). -/
theorem OutQueue.fill_spec (q : OutQueue) (f : LineFrame) :
    (q.fill f).free = q.free ∧
      ((0 < q.reserved ∧ (q.fill f).reserved = q.reserved - 1 ∧ (q.fill f).filled = q.filled ++ [f]) ∨
        (q.reserved = 0 ∧ q.fill f = q)) := by
  unfold OutQueue.fill
  split
  · simp [*]
  · simp [OutQueue.free, List.length_append]
    omega

/-- Placing takes a FREE place, and fails exactly when there is none (R161). -/
theorem OutQueue.place_spec (q : OutQueue) (f : LineFrame) :
    (q.free = 0 ∧ q.place f = none) ∨
      (0 < q.free ∧ q.place f = some { reserved := q.reserved, filled := q.filled ++ [f] }) := by
  unfold OutQueue.place
  split <;> simp [*] <;> omega

/-- Filling uses up a RESERVED uplink place; with none RESERVED nothing is placed (R176). -/
theorem Uplink.fill_spec (q : Uplink) (e : Envelope) :
    (0 < q.reserved ∧ q.fill e = { reserved := q.reserved - 1, filled := q.filled ++ [e] }) ∨ (q.reserved = 0 ∧ q.fill e = q) := by
  unfold Uplink.fill
  split <;> simp [*] <;> omega

/-! ## Free details -/

/-- Drawing a detail gives the stated one where there is one, and changes nothing but the count of draws. -/
theorem drawDetail_spec (d : Option Word32) (s : State) :
    (∀ w, d = some w → (drawDetail d s).1 = w) ∧ ∃ n, (drawDetail d s).2 = s.setDraws n := by
  cases d with
  | none => exact ⟨by simp, s.draws + 1, rfl⟩
  | some w => exact ⟨by simp [drawDetail], s.draws, rfl⟩

end Sys2Proof.Machine
end

