-- ==== Sys2Proof/Laws/Flags.lean ====
section
/-! SUPPORT. What a raising, an error count and the end of a taking do to the event records; and that nothing else touches them. -/

namespace Sys2Proof.Machine

/-! ## Records under the named updates -/

@[simp] theorem State.setPending_event (s : State) (x : List Instr) (e : Event) : (s.setPending x).event e = s.event e := rfl
@[simp] theorem State.setSeconds_event (s : State) (x : Nat) (e : Event) : (s.setSeconds x).event e = s.event e := rfl
@[simp] theorem State.setDenoms_event (s : State) (x : Vector Denom 12) (e : Event) : (s.setDenoms x).event e = s.event e := rfl
@[simp] theorem State.setStock_event (s : State) (x : Vector StockRec 12) (e : Event) : (s.setStock x).event e = s.event e := rfl
@[simp] theorem State.setAcc_event (s : State) (x : Accumulators) (e : Event) : (s.setAcc x).event e = s.event e := rfl
@[simp] theorem State.setBags_event (s : State) (x : List Bag) (e : Event) : (s.setBags x).event e = s.event e := rfl
@[simp] theorem State.setTills_event (s : State) (x : Vector TillEntry 160) (e : Event) : (s.setTills x).event e = s.event e := rfl
@[simp] theorem State.setDrawers_event (s : State) (x : Vector Drawer 160) (e : Event) : (s.setDrawers x).event e = s.event e := rfl
@[simp] theorem State.setOrders_event (s : State) (x : Vector Order 24) (e : Event) : (s.setOrders x).event e = s.event e := rfl
@[simp] theorem State.setSafe_event (s : State) (x : Safe) (e : Event) : (s.setSafe x).event e = s.event e := rfl
@[simp] theorem State.setSessions_event (s : State) (x : Vector Session 4) (e : Event) : (s.setSessions x).event e = s.event e := rfl
@[simp] theorem State.setTallies_event (s : State) (x : Vector (Vector Tally 12) 3) (e : Event) : (s.setTallies x).event e = s.event e := rfl
@[simp] theorem State.setRing_event (s : State) (x : Vector Descriptor 16) (e : Event) : (s.setRing x).event e = s.event e := rfl
@[simp] theorem State.setCall_event (s : State) (x : Handover) (e : Event) : (s.setCall x).event e = s.event e := rfl
@[simp] theorem State.setDay_event (s : State) (x : Day) (e : Event) : (s.setDay x).event e = s.event e := rfl
@[simp] theorem State.setNodes_event (s : State) (x : Vector Node 252) (e : Event) : (s.setNodes x).event e = s.event e := rfl
@[simp] theorem State.setWitness_event (s : State) (x : Vector Witness 7) (e : Event) : (s.setWitness x).event e = s.event e := rfl
@[simp] theorem State.setTiming_event (s : State) (x : Timing) (e : Event) : (s.setTiming x).event e = s.event e := rfl
@[simp] theorem State.setFloor_event (s : State) (x : LinePort) (e : Event) : (s.setFloor x).event e = s.event e := rfl
@[simp] theorem State.setRoom_event (s : State) (x : LinePort) (e : Event) : (s.setRoom x).event e = s.event e := rfl
@[simp] theorem State.setUplink_event (s : State) (x : Uplink) (e : Event) : (s.setUplink x).event e = s.event e := rfl
@[simp] theorem State.setTrunk_event (s : State) (x : Trunk) (e : Event) : (s.setTrunk x).event e = s.event e := rfl
@[simp] theorem State.setPointer_event (s : State) (x : Pointer) (e : Event) : (s.setPointer x).event e = s.event e := rfl
@[simp] theorem State.setVector_event (s : State) (x : Nat) (e : Event) : (s.setVector x).event e = s.event e := rfl
@[simp] theorem State.setAttention_event (s : State) (x : Bool) (e : Event) : (s.setAttention x).event e = s.event e := rfl
@[simp] theorem State.setDraws_event (s : State) (x : Nat) (e : Event) : (s.setDraws x).event e = s.event e := rfl

@[simp] theorem State.setPort_event (s : State) (p : Port) (x : LinePort) (e : Event) : (s.setPort p x).event e = s.event e := by
  cases p <;> rfl
@[simp] theorem State.setRx_event (s : State) (p : Port) (x : Receiver) (e : Event) : (s.setRx p x).event e = s.event e := by
  cases p <;> rfl
@[simp] theorem State.setTx_event (s : State) (p : Port) (x : Transmitter) (e : Event) : (s.setTx p x).event e = s.event e := by
  cases p <;> rfl
@[simp] theorem State.setOut_event (s : State) (p : Port) (x : OutQueue) (e : Event) : (s.setOut p x).event e = s.event e := by
  cases p <;> rfl
@[simp] theorem State.setDown_event (s : State) (p : Port) (x : List LineFrame) (e : Event) : (s.setDown p x).event e = s.event e := by
  cases p <;> rfl
@[simp] theorem State.setErrors_event (s : State) (p : Port) (x : LineErrors) (e : Event) : (s.setErrors p x).event e = s.event e := by
  cases p <;> rfl
@[simp] theorem State.setLineIdle_event (s : State) (p : Port) (x : Bool) (e : Event) : (s.setLineIdle p x).event e = s.event e := by
  cases p <;> rfl

theorem Event.row_injective : Function.Injective Event.row := by
  intro a b h
  cases a <;> cases b <;> first | rfl | exact absurd h (by decide)

@[simp] theorem Event.row_eq_iff (a b : Event) : a.row = b.row ↔ a = b := Event.row_injective.eq_iff

theorem Event.mem_all (e : Event) : e ∈ Event.all := by cases e <;> decide

/-- The record of an event after one record was replaced. -/
theorem event_setEvents_put (s : State) (e e' : Event) (r : EventRec) :
    (s.setEvents (put s.events e.row r)).event e' = if e = e' then r else s.event e' := by
  show (put s.events e.row r)[e'.row] = _
  rw [put_get]
  simp only [Event.row_eq_iff]
  rfl

/-! ## Raisings (R180) -/

/-- A raising changes the record of its event alone: pending, the new detail, one more occurrence up to 255 (R180). -/
theorem raise_event (e e' : Event) (d : Word32) (s : State) :
    (raise e d s).event e' = if e = e' then
      { s.event e with pending := true, detail := d, count := min 255 ((s.event e).count + 1) } else s.event e' := by
  unfold raise
  rw [event_setEvents_put]

/-- A raising changes nothing but the event records. -/
theorem raise_eq (e : Event) (d : Word32) (s : State) : raise e d s = s.setEvents (raise e d s).events := rfl

/-! ## The end of a taking (R181, R183) -/

theorem setPending_event (e e' : Event) (b : Bool) (s : State) :
    (setPending e b s).event e' = if e = e' then { s.event e with pending := b } else s.event e' := by
  unfold setPending
  rw [event_setEvents_put]

/-- The three indirect events follow their sources, every other record stays (R181). -/
theorem syncIndirect_event (s : State) (e : Event) :
    (syncIndirect s).event e = { s.event e with pending := pendingCondition s e } := by
  unfold syncIndirect
  simp only [setPending_event]
  cases e <;> simp [pendingCondition]

/-- The end of a taking changes no record but the pending flags of the indirect events (R181). -/
theorem settleEvents_event (s : State) (e : Event) :
    (settleEvents s).event e = { s.event e with pending := pendingCondition s e } := syncIndirect_event s e

/-- The end of a taking changes nothing but the events, the kept vector and the attention-owed flag (R181, R183). -/
theorem settleEvents_eq (s : State) : settleEvents s =
    ((s.setEvents (settleEvents s).events).setAttention (settleEvents s).attention).setVector (settleEvents s).vector := rfl

theorem settleEvents_vector (s : State) : (settleEvents s).vector = topEvent (settleEvents s) := rfl

/-! ## The kept vector (R183) -/

theorem topEvent_fold (s : State) (es : List Event) (v : Nat) :
    v ≤ es.foldl (fun v e => if s.active e then max v e.code else v) v ∧
    (∀ e ∈ es, s.active e = true → e.code ≤ es.foldl (fun v e => if s.active e then max v e.code else v) v) ∧
    (es.foldl (fun v e => if s.active e then max v e.code else v) v = v ∨
      ∃ e ∈ es, s.active e = true ∧ es.foldl (fun v e => if s.active e then max v e.code else v) v = e.code) := by
  induction es generalizing v with
  | nil => simp
  | cons a es ih =>
    simp only [List.foldl_cons]
    obtain ⟨h1, h2, h3⟩ := ih (if s.active a then max v a.code else v)
    refine ⟨?_, ?_, ?_⟩
    · refine le_trans ?_ h1
      split <;> omega
    · intro e he ha
      rcases List.mem_cons.mp he with rfl | he
      · refine le_trans ?_ h1
        rw [if_pos ha]
        omega
      · exact h2 e he ha
    · rcases h3 with h3 | ⟨e, he, ha, h3⟩
      · rw [h3]
        by_cases ha : s.active a = true
        · rw [if_pos ha]
          rcases le_total v a.code with hv | hv
          · exact .inr ⟨a, by simp, ha, by omega⟩
          · exact .inl (by omega)
        · rw [if_neg ha]
          exact .inl rfl
      · exact .inr ⟨e, by simp [he], ha, h3⟩

/-- The state vector is at least the code of every active event, and is 0 or the code of an active event (R183). -/
theorem topEvent_spec (s : State) :
    (∀ e : Event, s.active e = true → e.code ≤ topEvent s) ∧ (topEvent s = 0 ∨ ∃ e : Event, s.active e = true ∧ topEvent s = e.code) := by
  obtain ⟨-, h2, h3⟩ := topEvent_fold s Event.all 0
  refine ⟨fun e ha => h2 e (Event.mem_all e) ha, ?_⟩
  rcases h3 with h3 | ⟨e, -, ha, h3⟩
  · exact .inl h3
  · exact .inr ⟨e, ha, h3⟩

/-! ## Error counts (R154, R188) -/

/-- An error count changes the port's counters and raises LINK_ERROR with port and counter; nothing else (R154). -/
theorem countError_spec (p : Port) (c : LineCounter) (s : State) :
    countError p c s = (s.setErrors p ((s.port p).errors.bump c)).setEvents (countError p c s).events ∧
    (∀ e : Event, (countError p c s).event e = if Event.linkError = e then
      { s.event .linkError with
        pending := true, detail := BitVec.ofNat 32 (portCode p * 256 + c.code), count := min 255 ((s.event .linkError).count + 1) }
      else s.event e) := by
  refine ⟨rfl, fun e => ?_⟩
  simp only [countError, raisePair, raiseNum, raise_event, State.setErrors_event]

end Sys2Proof.Machine
end

