-- ==== Sys2Proof/Laws/Frames.lean ====
section
/-! SUPPORT. Which parts of the state each shared operation leaves alone: one lemma for each, with the parts it may change. -/

namespace Sys2Proof.Machine

/-! ## Composition -/

@[simp] theorem unchangedBut_refl (ex : List Part) (s : State) : unchangedBut ex s s := fun b _ => by cases b <;> rfl

theorem Part.same_trans {b : Part} {s t u : State} (h : b.same s t) (k : b.same t u) : b.same s u := by
  cases b <;> exact Eq.trans k h

/-- Two changes one after the other change the parts of both. -/
theorem unchangedBut_trans {ex ey : List Part} {s t u : State} (h : unchangedBut ex s t) (k : unchangedBut ey t u) :
    unchangedBut (ex ++ ey) s u := fun b hb =>
  Part.same_trans (h b fun m => hb (List.mem_append_left _ m)) (k b fun m => hb (List.mem_append_right _ m))

/-- A longer list of parts says less. -/
theorem unchangedBut_mono {ex ey : List Part} {s t : State} (h : unchangedBut ex s t) (k : ∀ b ∈ ex, b ∈ ey) :
    unchangedBut ey s t := fun b hb => h b fun m => hb (k b m)

theorem unchangedBut_comp {ex : List Part} {s t u : State} (h : unchangedBut ex s t) (k : unchangedBut ex t u) :
    unchangedBut ex s u := unchangedBut_mono (unchangedBut_trans h k) fun _ m => (List.mem_append.mp m).elim id id

/-- What a case split over outcomes leaves alone. -/
theorem unchangedBut_ite {ex : List Part} {s a b : State} {c : Prop} [Decidable c] (h : unchangedBut ex s a)
    (k : unchangedBut ex s b) : unchangedBut ex s (if c then a else b) := by
  split <;> assumption

/-- What a run over a list leaves alone. -/
theorem unchangedBut_foldl {α : Type} {ex : List Part} {f : State → α → State} (h : ∀ s a, unchangedBut ex s (f s a))
    (l : List α) (s : State) : unchangedBut ex s (l.foldl f s) := by
  induction l generalizing s with
  | nil => exact unchangedBut_refl ex s
  | cons a l ih => exact unchangedBut_comp (h s a) (ih _)

/-! ## Named updates -/

theorem setPending_leaves (x : List Instr) (s : State) : unchangedBut [.pending] s (s.setPending x) := fun b hb => by
  cases b <;> first | rfl | exact absurd (by decide) hb

theorem setSeconds_leaves (x : Nat) (s : State) : unchangedBut [.seconds] s (s.setSeconds x) := fun b hb => by
  cases b <;> first | rfl | exact absurd (by decide) hb

theorem setDenoms_leaves (x : Vector Denom 12) (s : State) : unchangedBut [.denoms] s (s.setDenoms x) := fun b hb => by
  cases b <;> first | rfl | exact absurd (by decide) hb

theorem setStock_leaves (x : Vector StockRec 12) (s : State) : unchangedBut [.stock] s (s.setStock x) := fun b hb => by
  cases b <;> first | rfl | exact absurd (by decide) hb

theorem setAcc_leaves (x : Accumulators) (s : State) : unchangedBut [.acc] s (s.setAcc x) := fun b hb => by
  cases b <;> first | rfl | exact absurd (by decide) hb

theorem setBags_leaves (x : List Bag) (s : State) : unchangedBut [.bags] s (s.setBags x) := fun b hb => by
  cases b <;> first | rfl | exact absurd (by decide) hb

theorem setTills_leaves (x : Vector TillEntry 160) (s : State) : unchangedBut [.tills] s (s.setTills x) := fun b hb => by
  cases b <;> first | rfl | exact absurd (by decide) hb

theorem setDrawers_leaves (x : Vector Drawer 160) (s : State) : unchangedBut [.drawers] s (s.setDrawers x) := fun b hb => by
  cases b <;> first | rfl | exact absurd (by decide) hb

theorem setOrders_leaves (x : Vector Order 24) (s : State) : unchangedBut [.orders] s (s.setOrders x) := fun b hb => by
  cases b <;> first | rfl | exact absurd (by decide) hb

theorem setSafe_leaves (x : Safe) (s : State) : unchangedBut [.safe] s (s.setSafe x) := fun b hb => by
  cases b <;> first | rfl | exact absurd (by decide) hb

theorem setSessions_leaves (x : Vector Session 4) (s : State) : unchangedBut [.sessions] s (s.setSessions x) := fun b hb => by
  cases b <;> first | rfl | exact absurd (by decide) hb

theorem setTallies_leaves (x : Vector (Vector Tally 12) 3) (s : State) : unchangedBut [.tallies] s (s.setTallies x) := fun b hb => by
  cases b <;> first | rfl | exact absurd (by decide) hb

theorem setRing_leaves (x : Vector Descriptor 16) (s : State) : unchangedBut [.ring] s (s.setRing x) := fun b hb => by
  cases b <;> first | rfl | exact absurd (by decide) hb

theorem setCall_leaves (x : Handover) (s : State) : unchangedBut [.call] s (s.setCall x) := fun b hb => by
  cases b <;> first | rfl | exact absurd (by decide) hb

theorem setDay_leaves (x : Day) (s : State) : unchangedBut [.day] s (s.setDay x) := fun b hb => by
  cases b <;> first | rfl | exact absurd (by decide) hb

theorem setNodes_leaves (x : Vector Node 252) (s : State) : unchangedBut [.nodes] s (s.setNodes x) := fun b hb => by
  cases b <;> first | rfl | exact absurd (by decide) hb

theorem setWitness_leaves (x : Vector Witness 7) (s : State) : unchangedBut [.witness] s (s.setWitness x) := fun b hb => by
  cases b <;> first | rfl | exact absurd (by decide) hb

theorem setTiming_leaves (x : Timing) (s : State) : unchangedBut [.timing] s (s.setTiming x) := fun b hb => by
  cases b <;> first | rfl | exact absurd (by decide) hb

theorem setFloor_leaves (x : LinePort) (s : State) : unchangedBut [.floor] s (s.setFloor x) := fun b hb => by
  cases b <;> first | rfl | exact absurd (by decide) hb

theorem setRoom_leaves (x : LinePort) (s : State) : unchangedBut [.room] s (s.setRoom x) := fun b hb => by
  cases b <;> first | rfl | exact absurd (by decide) hb

theorem setUplink_leaves (x : Uplink) (s : State) : unchangedBut [.uplink] s (s.setUplink x) := fun b hb => by
  cases b <;> first | rfl | exact absurd (by decide) hb

theorem setTrunk_leaves (x : Trunk) (s : State) : unchangedBut [.trunk] s (s.setTrunk x) := fun b hb => by
  cases b <;> first | rfl | exact absurd (by decide) hb

theorem setPointer_leaves (x : Pointer) (s : State) : unchangedBut [.pointer] s (s.setPointer x) := fun b hb => by
  cases b <;> first | rfl | exact absurd (by decide) hb

theorem setEvents_leaves (x : Vector EventRec 26) (s : State) : unchangedBut [.events] s (s.setEvents x) := fun b hb => by
  cases b <;> first | rfl | exact absurd (by decide) hb

theorem setVector_leaves (x : Nat) (s : State) : unchangedBut [.vector] s (s.setVector x) := fun b hb => by
  cases b <;> first | rfl | exact absurd (by decide) hb

theorem setAttention_leaves (x : Bool) (s : State) : unchangedBut [.attention] s (s.setAttention x) := fun b hb => by
  cases b <;> first | rfl | exact absurd (by decide) hb

theorem setDraws_leaves (x : Nat) (s : State) : unchangedBut [.draws] s (s.setDraws x) := fun b hb => by
  cases b <;> first | rfl | exact absurd (by decide) hb

theorem setPort_leaves (p : Port) (x : LinePort) (s : State) : unchangedBut [Part.ofPort p] s (s.setPort p x) := by
  cases p
  · exact setFloor_leaves x s
  · exact setRoom_leaves x s

theorem setRx_leaves (p : Port) (x : Receiver) (s : State) : unchangedBut [Part.ofPort p] s (s.setRx p x) := setPort_leaves p _ s

theorem setTx_leaves (p : Port) (x : Transmitter) (s : State) : unchangedBut [Part.ofPort p] s (s.setTx p x) := setPort_leaves p _ s

theorem setOut_leaves (p : Port) (x : OutQueue) (s : State) : unchangedBut [Part.ofPort p] s (s.setOut p x) := setPort_leaves p _ s

theorem setDown_leaves (p : Port) (x : List LineFrame) (s : State) : unchangedBut [Part.ofPort p] s (s.setDown p x) := setPort_leaves p _ s

theorem setErrors_leaves (p : Port) (x : LineErrors) (s : State) : unchangedBut [Part.ofPort p] s (s.setErrors p x) := setPort_leaves p _ s

theorem setLineIdle_leaves (p : Port) (x : Bool) (s : State) : unchangedBut [Part.ofPort p] s (s.setLineIdle p x) := setPort_leaves p _ s


/-! ## Events and counters -/

theorem raise_leaves (e : Event) (d : Word32) (s : State) : unchangedBut [.events] s (raise e d s) := setEvents_leaves _ s

theorem raiseNum_leaves (e : Event) (n : Nat) (s : State) : unchangedBut [.events] s (raiseNum e n s) := setEvents_leaves _ s

theorem raisePair_leaves (e : Event) (a b : Nat) (s : State) : unchangedBut [.events] s (raisePair e a b s) :=
  setEvents_leaves _ s

theorem raiseQueueFull_leaves (p : Port) (o : Bool) (s : State) : unchangedBut [.events] s (raiseQueueFull p o s) :=
  setEvents_leaves _ s

theorem settleEvents_leaves (s : State) : unchangedBut Part.eventParts s (settleEvents s) := by
  rw [settleEvents_eq]
  exact unchangedBut_mono (unchangedBut_trans (unchangedBut_trans (setEvents_leaves _ s) (setAttention_leaves _ _))
    (setVector_leaves _ _)) (by decide)

theorem countError_leaves (p : Port) (c : LineCounter) (s : State) :
    unchangedBut [Part.ofPort p, .events] s (countError p c s) :=
  unchangedBut_trans (setErrors_leaves p _ s) (raisePair_leaves _ _ _ _)

theorem countTrunkCheck_leaves (s : State) : unchangedBut [.trunk, .events] s (countTrunkCheck s) :=
  unchangedBut_trans (setTrunk_leaves _ s) (raisePair_leaves _ _ _ _)

theorem countTrunkFraming_leaves (s : State) : unchangedBut [.trunk, .events] s (countTrunkFraming s) :=
  unchangedBut_trans (setTrunk_leaves _ s) (raisePair_leaves _ _ _ _)

theorem countTrunkOverrun_leaves (s : State) : unchangedBut [.trunk, .events] s (countTrunkOverrun s) :=
  unchangedBut_trans (setTrunk_leaves _ s) (raisePair_leaves _ _ _ _)

theorem clearSelected_leaves (sel : Nat) (s : State) : unchangedBut [.events] s (clearSelected sel s) :=
  unchangedBut_foldl (fun s _ => unchangedBut_ite (setEvents_leaves _ s) (unchangedBut_refl _ s)) _ s

theorem enableSelected_leaves (sel : Nat) (v : Bool) (s : State) : unchangedBut [.events] s (enableSelected sel v s) :=
  unchangedBut_foldl (fun s _ => unchangedBut_ite (setEvents_leaves _ s) (unchangedBut_refl _ s)) _ s

/-! ## Stock -/

theorem addAll_leaves (s : State) (v : Vector Nat 12) : unchangedBut [.stock] s (addAll s v) := setStock_leaves _ s

theorem applyClose_leaves (a u : Vector Nat 12) (v : Nat) (s : State) : unchangedBut [.stock, .acc] s (applyClose a u v s) :=
  unchangedBut_trans (setStock_leaves _ s) (setAcc_leaves _ _)

theorem drawFloat_leaves (i : Vector Nat 12) (v : Nat) (s : State) : unchangedBut [.stock, .acc] s (drawFloat i v s) :=
  unchangedBut_trans (setStock_leaves _ s) (setAcc_leaves _ _)

theorem drawStraps_leaves (i : Vector Nat 12) (v : Nat) (s : State) : unchangedBut [.stock, .acc] s (drawStraps i v s) :=
  unchangedBut_trans (setStock_leaves _ s) (setAcc_leaves _ _)

theorem reserve_leaves (i : Vector Nat 12) (s : State) : unchangedBut [.stock] s (reserve i s) := setStock_leaves _ s

theorem release_leaves (i : Vector Nat 12) (s : State) : unchangedBut [.stock] s (release i s) := setStock_leaves _ s

theorem setStockCounts_leaves (c : Fin 12) (l k : Nat) (s : State) : unchangedBut [.stock, .acc] s (setStockCounts c l k s) :=
  unchangedBut_trans (setStock_leaves _ s) (setAcc_leaves _ _)

/-! ## Bags -/

theorem changeBag_leaves (n : Nat) (f : Bag → Bag) (s : State) : unchangedBut [.bags] s (changeBag n f s) := setBags_leaves _ s

theorem addBag_leaves (b : Bag) (s : State) : unchangedBut [.bags] s (addBag b s) := setBags_leaves _ s

theorem unpinReturned_leaves (i : Fin 16) (s : State) : unchangedBut [.bags] s (unpinReturned i s) := setBags_leaves _ s

theorem transition_leaves {n : Nat} {move : Bag → Except Code Bag} {s t : State} (h : transition n move s = .ok t) :
    unchangedBut [.bags] s t := by
  unfold transition at h
  split at h
  · cases h
  · split at h
    · cases h
    · cases h
      exact changeBag_leaves _ _ s

theorem askRegister_leaves (n : Nat) (move : Bag → Except Code Bag) (s : State) : unchangedBut [.bags] s (askRegister n move s) := by
  unfold askRegister
  split
  · exact transition_leaves ‹_›
  · exact unchangedBut_refl _ s

/-! ## Drawers -/

theorem setDrawer_leaves (t : Fin 160) (d : Drawer) (s : State) : unchangedBut [.drawers] s (setDrawer t d s) :=
  setDrawers_leaves _ s

theorem applyMovement_leaves (t : Fin 160) (f : Drawer → Drawer) (s : State) :
    unchangedBut [.drawers, .events] s (applyMovement t f s) :=
  unchangedBut_ite (unchangedBut_trans (setDrawer_leaves _ _ s) (raiseNum_leaves _ _ _))
    (unchangedBut_mono (setDrawer_leaves _ _ s) (by decide))

theorem placeOut_leaves {p : Port} {f : LineFrame} {s t : State} (h : placeOut p f s = some t) :
    unchangedBut [Part.ofPort p] s t := by
  unfold placeOut at h
  split at h
  · cases h
    exact setOut_leaves p _ s
  · cases h

theorem compareHold_leaves (t : Fin 160) (s : State) : unchangedBut [.drawers, .events] s (compareHold t s) :=
  unchangedBut_ite (unchangedBut_trans (setDrawer_leaves _ _ s) (raiseNum_leaves _ _ _))
    (unchangedBut_ite (unchangedBut_mono (setDrawer_leaves _ _ s) (by decide)) (unchangedBut_refl _ s))

theorem placeCall_leaves (t : Fin 160) (s : State) : unchangedBut [.floor, .events] s (placeCall t s) := by
  unfold placeCall
  split
  · exact unchangedBut_mono (placeOut_leaves ‹_›) (by decide)
  · exact unchangedBut_mono (raiseQueueFull_leaves _ _ s) (by decide)

theorem comparePickup_leaves (t : Fin 160) (s : State) : unchangedBut [.drawers, .floor, .events] s (comparePickup t s) :=
  unchangedBut_ite
    (unchangedBut_mono (unchangedBut_trans (unchangedBut_trans (setDrawer_leaves _ _ s) (raiseNum_leaves _ _ _)) (placeCall_leaves _ _))
      (by decide))
    (unchangedBut_mono (setDrawer_leaves _ _ s) (by decide))

theorem reevaluate_leaves (t : Fin 160) (s : State) : unchangedBut [.drawers, .floor, .events] s (reevaluate t s) :=
  unchangedBut_mono (unchangedBut_trans (compareHold_leaves t s) (comparePickup_leaves t _)) (by decide)

theorem moveDrawer_leaves (t : Fin 160) (f : Drawer → Drawer) (s : State) :
    unchangedBut [.drawers, .floor, .events] s (moveDrawer t f s) :=
  unchangedBut_mono (unchangedBut_trans (applyMovement_leaves t f s) (reevaluate_leaves t _)) (by decide)

theorem unapplied_leaves (k : JobKind) (t : Fin 160) (s : State) : unchangedBut [.events] s (unapplied k t s) :=
  unchangedBut_ite (raiseNum_leaves _ _ s) (unchangedBut_refl _ s)

theorem raiseGap_leaves (t : Fin 160) (g : Nat) (s : State) : unchangedBut [.events] s (raiseGap t g s) :=
  unchangedBut_ite (unchangedBut_refl _ s) (raiseNum_leaves _ _ s)

theorem recordSequence_leaves (t : Fin 160) (q : Nat) (c : Word16) (s : State) :
    unchangedBut [.drawers] s (recordSequence t q c s) := setDrawer_leaves _ _ s

theorem addCountVariance_leaves (t : Fin 160) (v : Int) (s : State) : unchangedBut [.drawers] s (addCountVariance t v s) :=
  setDrawer_leaves _ _ s

/-- A till frame leaves alone what its job leaves alone, but for the drawers and the events (R44, R45). -/
theorem tillFrame_leaves {α : Type} {ex : List Part} {k : JobKind} {parsed : Option α} {seq : α → Option Nat}
    {copy : Fin 160 → State → Answer} {job : Fin 160 → α → State → State × Answer}
    (h : ∀ t a s, unchangedBut ex s (job t a s).1) (f : Taken) (s : State) :
    unchangedBut (ex ++ [.drawers, .events]) s (tillFrame k parsed seq copy job f s).1 := by
  have h56 : ∀ t a s, unchangedBut (ex ++ [.drawers, .events]) s (tillSteps56 k t (job t a) s).1 := by
    intro t a s
    unfold tillSteps56
    split
    · exact unchangedBut_mono (h t a s) (by simp +contextual)
    · exact unchangedBut_mono (unapplied_leaves k t s) (by simp)
  unfold tillFrame
  split
  · exact unchangedBut_refl _ s
  · dsimp only
    split
    · exact unchangedBut_mono (unapplied_leaves k _ s) (by simp)
    · split
      · exact unchangedBut_refl _ s
      · split
        · exact h56 _ _ s
        · split
          · exact unchangedBut_refl _ s
          · exact unchangedBut_refl _ s
          · refine unchangedBut_comp (unchangedBut_mono
              (unchangedBut_trans (raiseGap_leaves _ _ s) (recordSequence_leaves _ _ _ _)) ?_) (h56 _ _ _)
            simp

theorem tenderJob_leaves (f : Taken) (s : State) : unchangedBut [.drawers, .floor, .events] s (tenderJob f s).1 :=
  unchangedBut_mono (tillFrame_leaves (ex := [.drawers, .floor, .events]) (fun _ _ _ => moveDrawer_leaves _ _ _) f s) (by decide)

theorem refundJob_leaves (f : Taken) (s : State) : unchangedBut [.drawers, .floor, .events] s (refundJob f s).1 :=
  unchangedBut_mono (tillFrame_leaves (ex := [.drawers, .floor, .events]) (fun _ _ _ => moveDrawer_leaves _ _ _) f s) (by decide)

theorem pickupJob_leaves (f : Taken) (s : State) : unchangedBut [.drawers, .bags, .floor, .events] s (pickupJob f s).1 := by
  refine unchangedBut_mono (tillFrame_leaves (ex := [.drawers, .bags, .floor, .events]) (fun t a s => ?_) f s) (by decide)
  dsimp only
  split
  · exact unchangedBut_refl _ s
  · exact unchangedBut_mono (unchangedBut_trans (addBag_leaves _ s) (moveDrawer_leaves _ _ _)) (by decide)

theorem cashupJob_leaves (f : Taken) (s : State) : unchangedBut [.drawers, .bags, .floor, .events] s (cashupJob f s).1 := by
  refine unchangedBut_mono (tillFrame_leaves (ex := [.drawers, .bags, .floor, .events]) (fun t a s => ?_) f s) (by decide)
  dsimp only
  split
  · exact unchangedBut_refl _ s
  · exact unchangedBut_mono (unchangedBut_trans (addBag_leaves _ s) (moveDrawer_leaves _ _ _)) (by decide)

theorem tillOpenJob_leaves (f : Taken) (s : State) : unchangedBut [.drawers, .floor, .events] s (tillOpenJob f s).1 := by
  refine unchangedBut_mono (tillFrame_leaves (ex := [.drawers, .floor, .events]) (fun t a s => ?_) f s) (by decide)
  dsimp only
  split
  · exact unchangedBut_mono (unchangedBut_trans (setDrawer_leaves _ _ s) (reevaluate_leaves _ _)) (by decide)
  · exact unchangedBut_refl _ s

/-! ## Orders and stock frames -/

theorem setOrder_leaves (i : Fin 24) (o : Order) (s : State) : unchangedBut [.orders] s (setOrder i o s) := setOrders_leaves _ s

theorem setOpenOrder_leaves (t : Fin 160) (o : Option (Fin 24)) (s : State) : unchangedBut [.drawers] s (setOpenOrder t o s) :=
  setDrawer_leaves _ _ s

theorem freeOrder_leaves (i : Fin 24) (o : OrderOutcome) (s : State) : unchangedBut [.orders, .drawers] s (freeOrder i o s) :=
  unchangedBut_trans (setOrder_leaves _ _ s) (setOpenOrder_leaves _ _ _)

theorem cancelOrder_leaves (i : Fin 24) (s : State) : unchangedBut [.stock, .orders, .drawers, .events] s (cancelOrder i s) :=
  unchangedBut_mono (unchangedBut_trans (unchangedBut_trans (release_leaves _ s) (freeOrder_leaves i _ _)) (raiseNum_leaves _ _ _))
    (by decide)

theorem cancelPending_leaves (s : State) : unchangedBut [.stock, .orders, .drawers, .events] s (cancelPending s) :=
  unchangedBut_foldl (fun s _ => unchangedBut_ite (cancelOrder_leaves _ s) (unchangedBut_refl _ s)) _ s

theorem compareDeclared_leaves (t : Fin 160) (v : Nat) (s : State) : unchangedBut [.events] s (compareDeclared t v s) :=
  unchangedBut_ite (raiseNum_leaves _ _ s) (unchangedBut_refl _ s)

theorem raiseShort_leaves (t : Fin 160) (r : Rebalance) (s : State) : unchangedBut [.events] s (raiseShort t r s) :=
  unchangedBut_ite (raiseNum_leaves _ _ s) (unchangedBut_refl _ s)

theorem actOnRebalance_leaves (t : Fin 160) (i : Fin 24) (q : Nat) (ps : List (Fin 12 × Nat)) (s : State) :
    unchangedBut [.drawers, .stock, .orders, .events] s (actOnRebalance t i q ps s).1 := by
  unfold actOnRebalance
  dsimp only
  split
  · exact unchangedBut_mono (unchangedBut_trans (unchangedBut_trans (unchangedBut_trans (unchangedBut_trans
      (compareDeclared_leaves _ _ s) (raiseShort_leaves _ _ _)) (setOrder_leaves _ _ _)) (reserve_leaves _ _)) (setOpenOrder_leaves _ _ _))
      (by decide)
  · exact unchangedBut_mono (unchangedBut_trans (compareDeclared_leaves _ _ s) (raiseShort_leaves _ _ _)) (by decide)

theorem declareJob_leaves (f : Taken) (s : State) : unchangedBut [.drawers, .stock, .orders, .events] s (declareJob f s).1 := by
  refine unchangedBut_mono (tillFrame_leaves (ex := [.drawers, .stock, .orders, .events]) (fun t a s => ?_) f s) (by decide)
  unfold declareRule
  split
  · exact unchangedBut_refl _ s
  · split
    · exact unchangedBut_refl _ s
    · split
      · exact unchangedBut_refl _ s
      · split
        · exact unchangedBut_refl _ s
        · exact actOnRebalance_leaves _ _ _ _ s

theorem floatReceiptJob_leaves (f : Taken) (s : State) :
    unchangedBut [.drawers, .bags, .orders, .floor, .events] s (floatReceiptJob f s).1 := by
  refine unchangedBut_mono (tillFrame_leaves (ex := [.drawers, .bags, .orders, .floor, .events]) (fun t a s => ?_) f s) (by decide)
  unfold receiptRule
  split
  · exact unchangedBut_refl _ s
  · split
    · exact unchangedBut_refl _ s
    · split
      · exact unchangedBut_refl _ s
      · rename_i b _ _ _ _ _
        have h : ∀ s1, unchangedBut [.orders, .drawers] s1
            (match b.order with | some i => freeOrder i .done s1 | none => s1) := by
          intro s1
          split
          · exact freeOrder_leaves _ _ s1
          · exact unchangedBut_refl _ s1
        exact unchangedBut_mono (unchangedBut_trans (unchangedBut_trans (unchangedBut_trans (changeBag_leaves a.2 _ s) (h _))
          (setOpenOrder_leaves t none _)) (moveDrawer_leaves _ _ _)) (by decide)

theorem makeUpOrder_leaves (i : Fin 24) (n : Nat) (s : State) :
    unchangedBut [.orders, .bags, .stock, .acc] s (makeUpOrder i n s) :=
  unchangedBut_mono (unchangedBut_trans (unchangedBut_trans (drawFloat_leaves _ _ s) (addBag_leaves _ _)) (setOrder_leaves i _ _))
    (by decide)

theorem makeUpFloatJob_leaves (f : Taken) (s : State) : unchangedBut [.orders, .bags, .stock, .acc] s (makeUpFloatJob f s).1 := by
  unfold makeUpFloatJob
  split
  · exact unchangedBut_refl _ s
  · split
    · exact unchangedBut_refl _ s
    · split
      · exact unchangedBut_refl _ s
      · exact unchangedBut_refl _ s
      · split
        · exact unchangedBut_refl _ s
        · exact makeUpOrder_leaves _ _ s

theorem makeUpConsignmentJob_leaves (f : Taken) (s : State) :
    unchangedBut [.bags, .stock, .acc] s (makeUpConsignmentJob f s).1 := by
  unfold makeUpConsignmentJob
  split
  · exact unchangedBut_refl _ s
  · split
    · exact unchangedBut_refl _ s
    · dsimp only
      split
      · exact unchangedBut_refl _ s
      · split
        · exact unchangedBut_refl _ s
        · split
          · exact unchangedBut_refl _ s
          · exact unchangedBut_mono (unchangedBut_trans (drawStraps_leaves _ _ s) (addBag_leaves _ _)) (by decide)

theorem restockBag_leaves (b b' : Bag) (s : State) :
    unchangedBut [.stock, .acc, .bags, .orders, .drawers] s (restockBag b b' s) := by
  have h : ∀ s1, unchangedBut [.orders, .drawers] s1
      (match b.order with | some i => freeOrder i .restocked s1 | none => s1) := by
    intro s1
    split
    · exact freeOrder_leaves _ _ s1
    · exact unchangedBut_refl _ s1
  exact unchangedBut_mono (unchangedBut_trans (unchangedBut_trans (unchangedBut_trans (addAll_leaves s _) (setAcc_leaves _ _))
    (changeBag_leaves b.sealNo (fun _ => b') _)) (h _)) (by decide)

theorem restockJob_leaves (f : Taken) (s : State) :
    unchangedBut [.stock, .acc, .bags, .orders, .drawers] s (restockJob f s).1 := by
  unfold restockJob
  repeat' split
  all_goals first | exact unchangedBut_refl _ s | exact restockBag_leaves _ _ s

/-! ## The safe -/

/-- Placing an owed command changes the command-owed flag and the Room Port's queue (R93). -/
theorem placeSafeCommand_leaves (s : State) : unchangedBut [.safe, .room] s (placeSafeCommand s) := by
  unfold placeSafeCommand
  split
  · split
    · exact unchangedBut_refl _ s
    · split
      · exact unchangedBut_refl _ s
      · exact unchangedBut_mono (unchangedBut_trans (placeOut_leaves ‹_›) (setSafe_leaves _ _)) (by decide)
  · exact unchangedBut_refl _ s

theorem commandSafe_leaves (c : BoltCommand) (s : State) : unchangedBut [.safe, .room] s (commandSafe c s) :=
  unchangedBut_mono (unchangedBut_trans (setSafe_leaves _ s) (placeSafeCommand_leaves _)) (by decide)

theorem setLock_leaves (l : LockState) (t : Option Nat) (s : State) : unchangedBut [.safe] s (setLock l t s) := setSafe_leaves _ s

theorem setFailed_leaves (n : Nat) (s : State) : unchangedBut [.safe] s (setFailed n s) := setSafe_leaves _ s

theorem acceptEntry_leaves (op : SafeOp) (way : EntryWay) (b : Bag) (node : Byte) (s : State) :
    unchangedBut [.bags, .safe] s (acceptEntry op way b node s) :=
  unchangedBut_mono (unchangedBut_trans (unchangedBut_trans (changeBag_leaves _ _ s) (ey := [.safe]) (setSafe_leaves _ _))
    (ey := [.safe]) (setSafe_leaves _ _)) (by decide)

theorem sealJob_leaves {ex : List Part} {rule : Nat → Byte → State → State × Answer}
    (h : ∀ n b s, unchangedBut ex s (rule n b s).1) (f : Taken) (s : State) : unchangedBut ex s (sealJob rule f s).1 := by
  unfold sealJob
  split
  · exact unchangedBut_refl _ s
  · exact h _ _ s

theorem dropJob_leaves (f : Taken) (s : State) : unchangedBut [.bags, .safe, .events] s (dropJob f s).1 := by
  refine sealJob_leaves (fun n b s => ?_) f s
  unfold dropRule
  split
  · exact unchangedBut_mono (raiseNum_leaves _ _ s) (by decide)
  · split
    · exact unchangedBut_refl _ s
    · split
      · exact unchangedBut_mono (raiseNum_leaves _ _ s) (by decide)
      · split
        · exact unchangedBut_refl _ s
        · split
          · exact unchangedBut_mono (raiseNum_leaves _ _ s) (by decide)
          · exact unchangedBut_mono (acceptEntry_leaves _ _ _ _ s) (by decide)

theorem depositJob_leaves (f : Taken) (s : State) : unchangedBut [.bags, .safe, .events] s (depositJob f s).1 := by
  refine sealJob_leaves (fun n b s => ?_) f s
  unfold depositRule
  split
  · exact unchangedBut_refl _ s
  · split
    · exact unchangedBut_refl _ s
    · split
      · exact unchangedBut_refl _ s
      · split
        · exact unchangedBut_refl _ s
        · split
          · exact unchangedBut_mono (raiseNum_leaves _ _ s) (by decide)
          · exact unchangedBut_mono (acceptEntry_leaves _ _ _ _ s) (by decide)

theorem withdrawJob_leaves (f : Taken) (s : State) : unchangedBut [.bags, .safe] s (withdrawJob f s).1 := by
  refine sealJob_leaves (fun n b s => ?_) f s
  unfold withdrawRule
  split
  · exact unchangedBut_refl _ s
  · split
    · exact unchangedBut_refl _ s
    · split
      · exact unchangedBut_refl _ s
      · split
        · exact unchangedBut_refl _ s
        · exact unchangedBut_mono (unchangedBut_trans (unchangedBut_trans (changeBag_leaves _ _ s) (ey := [.safe])
            (setSafe_leaves _ _)) (ey := [.safe]) (setSafe_leaves _ _)) (by decide)

theorem doorOpened_leaves (s : State) : unchangedBut [.safe, .events] s (doorOpened s) := by
  unfold doorOpened
  split
  · exact unchangedBut_mono (setLock_leaves _ _ s) (by decide)
  · exact unchangedBut_refl _ s
  · exact unchangedBut_refl _ s
  all_goals exact unchangedBut_trans (setLock_leaves _ _ s) (raiseNum_leaves _ _ _)

theorem doorOpenJob_leaves (f : Taken) (s : State) : unchangedBut [.safe, .events] s (doorOpenJob f s).1 := by
  unfold doorOpenJob
  split
  · exact doorOpened_leaves s
  · exact unchangedBut_refl _ s

theorem doorClosedJob_leaves (f : Taken) (s : State) : unchangedBut [.safe, .room] s (doorClosedJob f s).1 := by
  unfold doorClosedJob doorClosed
  split
  · split
    · exact unchangedBut_mono (unchangedBut_trans (setLock_leaves _ _ s) (commandSafe_leaves _ _)) (by decide)
    · exact unchangedBut_refl _ s
  · exact unchangedBut_refl _ s

theorem openRequestJob_leaves (f : Taken) (s : State) : unchangedBut [.safe] s (openRequestJob f s).1 := by
  unfold openRequestJob
  split
  · exact unchangedBut_refl _ s
  · split
    · exact unchangedBut_refl _ s
    · exact unchangedBut_comp (setSafe_leaves { s.safe with delayKind := (chooseDelay s).1 } s)
        (unchangedBut_ite (setLock_leaves _ _ _) (setLock_leaves _ _ _))

theorem openCancelJob_leaves (f : Taken) (s : State) : unchangedBut [.safe] s (openCancelJob f s).1 := by
  unfold openCancelJob
  split
  · exact unchangedBut_refl _ s
  · split
    · exact setLock_leaves _ _ s
    · exact unchangedBut_refl _ s

theorem openConfirmJob_leaves (f : Taken) (s : State) : unchangedBut [.safe, .room] s (openConfirmJob f s).1 := by
  unfold openConfirmJob
  split
  · exact unchangedBut_refl _ s
  · split
    · exact unchangedBut_refl _ s
    · exact unchangedBut_mono (unchangedBut_trans (unchangedBut_trans (setLock_leaves _ _ s) (setFailed_leaves _ _))
        (commandSafe_leaves _ _)) (by decide)

theorem confirmFailed_leaves (n : Nat) (s : State) : unchangedBut [.safe, .room, .events] s (confirmFailed n s).1 := by
  unfold confirmFailed
  split
  · exact unchangedBut_refl _ s
  · dsimp only
    split
    · exact unchangedBut_mono (setFailed_leaves _ s) (by decide)
    · exact unchangedBut_mono (unchangedBut_trans (unchangedBut_trans (unchangedBut_trans (setFailed_leaves _ s) (setLock_leaves _ _ _))
        (raiseNum_leaves _ _ _)) (commandSafe_leaves _ _)) (by decide)

theorem releaseLockout_leaves (s : State) : unchangedBut [.safe, .room] s (releaseLockout s) :=
  unchangedBut_mono (unchangedBut_trans (unchangedBut_trans (setLock_leaves _ _ s) (setFailed_leaves _ _)) (commandSafe_leaves _ _))
    (by decide)

theorem windowExpired_leaves (s : State) : unchangedBut [.safe, .events] s (windowExpired s) :=
  unchangedBut_trans (setLock_leaves _ _ s) (raiseNum_leaves _ _ _)

theorem relockExpired_leaves (s : State) : unchangedBut [.safe, .room] s (relockExpired s) :=
  unchangedBut_mono (unchangedBut_trans (setLock_leaves _ _ s) (commandSafe_leaves _ _)) (by decide)

theorem restartLock_leaves (s : State) : unchangedBut [.safe] s (restartLock s) :=
  unchangedBut_comp (unchangedBut_ite (setLock_leaves _ _ s) (unchangedBut_refl _ s)) (setSafe_leaves _ _)

/-! ## Count sessions -/

theorem setSession_leaves (x : Fin 4) (v : Session) (s : State) : unchangedBut [.sessions] s (setSession x v s) :=
  setSessions_leaves _ s

theorem restartIdle_leaves (x : Fin 4) (s : State) : unchangedBut [.sessions] s (restartIdle x s) :=
  unchangedBut_ite (setSession_leaves _ _ s) (unchangedBut_refl _ s)

theorem counterActs_leaves (x : Fin 4) (n : Byte) (s : State) : unchangedBut [.sessions] s (counterActs x n s) :=
  unchangedBut_ite (restartIdle_leaves _ s) (unchangedBut_refl _ s)

theorem bagOpenJob_leaves (f : Taken) (s : State) : unchangedBut [.sessions, .bags] s (bagOpenJob f s).1 := by
  unfold bagOpenJob
  split
  · exact unchangedBut_refl _ s
  · unfold bagOpenRule
    split
    · unfold beginCount
      split
      · exact unchangedBut_refl _ s
      · split
        · exact unchangedBut_refl _ s
        · exact unchangedBut_mono (unchangedBut_trans (changeBag_leaves _ _ s) (setSession_leaves _ _ _)) (by decide)
    · split
      · exact unchangedBut_mono (restartIdle_leaves _ s) (by decide)
      · exact unchangedBut_refl _ s
    · split
      · exact unchangedBut_mono (unchangedBut_trans (askRegister_leaves _ _ s) (setSession_leaves _ _ _)) (by decide)
      · exact unchangedBut_refl _ s

theorem batchRule_leaves (x : Fin 4) (node : Byte) (k a u r : Nat) (s : State) :
    unchangedBut [.sessions] s (batchRule x node k a u r s).1 := by
  unfold batchRule
  dsimp only
  repeat' split
  all_goals first | exact unchangedBut_refl _ s | exact setSession_leaves _ _ s

theorem batchJob_leaves (f : Taken) (s : State) : unchangedBut [.sessions] s (batchJob f s).1 := by
  unfold batchJob
  dsimp only
  split
  · exact counterActs_leaves _ _ s
  · exact unchangedBut_comp (counterActs_leaves _ _ s) (batchRule_leaves _ _ _ _ _ _ _)

theorem handKeyRule_leaves (x : Fin 4) (k n : Nat) (r o : Bool) (s : State) :
    unchangedBut [.sessions] s (handKeyRule x k n r o s).1 := by
  unfold handKeyRule
  dsimp only
  repeat' split
  all_goals first | exact unchangedBut_refl _ s | exact setSession_leaves _ _ s

theorem handKeyJob_leaves (f : Taken) (s : State) : unchangedBut [.sessions] s (handKeyJob f s).1 := by
  unfold handKeyJob
  split
  · exact unchangedBut_refl _ s
  · split
    · exact unchangedBut_refl _ s
    · exact unchangedBut_comp (restartIdle_leaves _ s) (handKeyRule_leaves _ _ _ _ _ _)

theorem addTally_leaves (g : TallyGroup) (c : Fin 12) (n : Nat) (s : State) :
    unchangedBut [.tallies, .events] s (addTally g c n s) := by
  have h : ∀ e o w s, unchangedBut [.tallies, .events] s (raiseTally e g c o w s) := fun e o w s =>
    unchangedBut_ite (unchangedBut_mono (raisePair_leaves _ _ _ s) (by decide)) (unchangedBut_refl _ s)
  unfold addTally
  exact unchangedBut_comp (unchangedBut_comp (unchangedBut_mono (setTallies_leaves _ s) (by decide)) (h _ _ _ _)) (h _ _ _ _)

theorem addTallies_leaves (v : Session) (s : State) : unchangedBut [.tallies, .events] s (addTallies v s) :=
  unchangedBut_foldl (fun s _ => unchangedBut_foldl (fun s _ => addTally_leaves _ _ _ s) _ s) _ s

theorem closeAtDrawer_leaves (b : Bag) (v : Int) (s : State) : unchangedBut [.drawers] s (closeAtDrawer b v s) := by
  unfold closeAtDrawer
  split
  · exact unchangedBut_ite (addCountVariance_leaves _ _ s) (unchangedBut_refl _ s)
  · exact unchangedBut_refl _ s

theorem closeEvents_leaves (n v : Nat) (c : BagClass) (s : State) : unchangedBut [.events] s (closeEvents n v c s) := by
  have h : unchangedBut [.events] s (if c = .balanced then s else raiseNum .bagVariance n s) :=
    unchangedBut_ite (unchangedBut_refl _ s) (raiseNum_leaves _ _ s)
  unfold closeEvents
  dsimp only
  refine unchangedBut_comp h ?_
  exact unchangedBut_ite (raiseNum_leaves _ _ _) (unchangedBut_refl _ _)

theorem applyCount_leaves (x : Fin 4) (b b' : Bag) (v : Int) (c : BagClass) (s : State) :
    unchangedBut [.sessions, .bags, .stock, .acc, .drawers, .tallies, .events] s (applyCount x b b' v c s) :=
  unchangedBut_mono (unchangedBut_trans (unchangedBut_trans (unchangedBut_trans (unchangedBut_trans (unchangedBut_trans
    (applyClose_leaves _ _ _ s) (changeBag_leaves _ _ _)) (closeAtDrawer_leaves b v _)) (addTallies_leaves _ _))
    (closeEvents_leaves _ _ _ _)) (setSession_leaves x _ _)) (by decide)

theorem bagCloseJob_leaves (f : Taken) (s : State) :
    unchangedBut [.sessions, .bags, .stock, .acc, .drawers, .tallies, .events] s (bagCloseJob f s).1 := by
  unfold bagCloseJob
  dsimp only
  refine unchangedBut_comp (t := counterActs (slotOf s f.frame.src) f.frame.src s)
    (unchangedBut_mono (counterActs_leaves _ _ s) (by decide)) ?_
  generalize counterActs (slotOf s f.frame.src) f.frame.src s = s'
  split
  · exact unchangedBut_refl _ _
  · unfold bagCloseRule
    dsimp only
    repeat' split
    iterate 6 exact unchangedBut_refl _ _
    exact applyCount_leaves _ _ _ _ _ _

theorem abortSession_leaves (x : Fin 4) (s : State) : unchangedBut [.sessions, .bags] s (abortSession x s) :=
  unchangedBut_mono (unchangedBut_trans (askRegister_leaves _ _ s) (setSession_leaves _ _ _)) (by decide)

theorem abortSessions_leaves (s : State) : unchangedBut [.sessions, .bags] s (abortSessions s) :=
  unchangedBut_foldl (fun s _ => unchangedBut_ite (unchangedBut_refl _ s) (abortSession_leaves _ s)) _ s

theorem countAbortJob_leaves (f : Taken) (s : State) : unchangedBut [.sessions, .bags] s (countAbortJob f s).1 := by
  unfold countAbortJob countAbortRule
  dsimp only
  repeat' split
  all_goals first | exact unchangedBut_refl _ s | exact abortSession_leaves _ s

theorem suspendSession_leaves (x : Fin 4) (s : State) : unchangedBut [.sessions, .bags, .events] s (suspendSession x s) :=
  unchangedBut_mono (unchangedBut_trans (unchangedBut_trans (askRegister_leaves _ _ s) (setSession_leaves _ _ _)) (raiseNum_leaves _ _ _))
    (by decide)

theorem clearTallies_leaves (gs : List TallyGroup) (s : State) : unchangedBut [.tallies] s (clearTallies gs s) :=
  unchangedBut_foldl (fun s _ => setTallies_leaves _ s) _ s

/-! ## Handover -/

theorem setSlot_leaves (i : Fin 16) (d : Descriptor) (s : State) : unchangedBut [.ring] s (setSlot i d s) := setRing_leaves _ s

theorem setPhase_leaves (p : Phase) (i : Option (Fin 16)) (t : Option Nat) (s : State) : unchangedBut [.call] s (setPhase p i t s) :=
  setCall_leaves _ s

theorem endSession_leaves (s : State) : unchangedBut [.call] s (endSession s) := setPhase_leaves _ _ _ s

theorem returnSlot_leaves (i : Fin 16) (r : CallResult) (s : State) : unchangedBut [.bags, .ring, .call] s (returnSlot i r s) :=
  unchangedBut_trans (unchangedBut_trans (unpinReturned_leaves i s) (setSlot_leaves i _ _)) (setCall_leaves _ _)

theorem missedCheck_leaves (s : State) : unchangedBut [.bags, .ring, .call, .events] s (missedCheck s) := by
  unfold missedCheck
  generalize 16 = n
  induction n generalizing s with
  | zero => exact unchangedBut_refl _ s
  | succ n ih =>
    unfold checkMissed
    exact unchangedBut_ite
      (unchangedBut_comp (unchangedBut_mono (unchangedBut_trans (returnSlot_leaves _ _ s) (raiseNum_leaves _ _ _)) (by decide)) (ih _))
      (unchangedBut_refl _ s)

theorem abortCall_leaves (i : Fin 16) (r : CallResult) (s : State) :
    unchangedBut [.bags, .ring, .call, .events] s (abortCall i r s) :=
  unchangedBut_mono (unchangedBut_trans (unchangedBut_trans (unchangedBut_trans (unchangedBut_trans (unchangedBut_trans
    (setBags_leaves _ s) (ey := [.bags]) (setBags_leaves _ _)) (returnSlot_leaves i r _)) (ey := [.call]) (setPhase_leaves _ _ _ _))
    (raiseNum_leaves _ _ _)) (missedCheck_leaves _)) (by decide)

theorem abortHandover_leaves (r : CallResult) (s : State) : unchangedBut [.bags, .ring, .call, .events] s (abortHandover r s) := by
  unfold abortHandover
  split
  · exact unchangedBut_refl _ s
  · exact abortCall_leaves _ r s
  · exact unchangedBut_refl _ s

theorem completeCall_leaves (i : Fin 16) (pair : Option (Byte × Byte)) (s : State) :
    unchangedBut [.bags, .ring, .call, .events] s (completeCall i pair s) := by
  have h : unchangedBut [.events] (signBags s.ring[i].outbound s)
      (if inboundAgrees s s.ring[i] then signBags s.ring[i].outbound s
        else raiseNum .inboundVariance i.val (signBags s.ring[i].outbound s)) :=
    unchangedBut_ite (unchangedBut_refl _ _) (raiseNum_leaves _ _ _)
  exact unchangedBut_mono (unchangedBut_trans (unchangedBut_trans (unchangedBut_trans (unchangedBut_trans (unchangedBut_trans
    (unchangedBut_trans (setBags_leaves _ s) h) (setSlot_leaves i _ _)) (returnSlot_leaves i _ _))
    (endSession_leaves _)) (raiseNum_leaves _ _ _)) (missedCheck_leaves _)) (by decide)

theorem refuseCourier_leaves (s : State) : unchangedBut [.bags, .ring, .call, .events] s (refuseCourier s).1 := by
  unfold refuseCourier
  dsimp only
  split
  · exact unchangedBut_mono (setCall_leaves _ s) (by decide)
  · exact unchangedBut_mono (unchangedBut_trans (unchangedBut_trans (returnSlot_leaves _ _ s) (raiseNum_leaves _ _ _))
      (missedCheck_leaves _)) (by decide)

theorem acceptCourier_leaves (s : State) : unchangedBut [.call] s (acceptCourier s) :=
  unchangedBut_comp (unchangedBut_ite (setPhase_leaves _ _ _ s) (setPhase_leaves _ _ _ s)) (setCall_leaves _ _)

theorem announceJob_leaves (f : Taken) (s : State) : unchangedBut [.bags, .ring, .call, .events] s (announceJob f s).1 := by
  unfold announceJob
  split
  · exact unchangedBut_refl _ s
  · unfold announceRule
    repeat' split
    all_goals first
      | exact unchangedBut_refl _ s
      | exact refuseCourier_leaves s
      | exact unchangedBut_mono (acceptCourier_leaves s) (by decide)

theorem loadJob_leaves (f : Taken) (s : State) : unchangedBut [.bags, .call] s (loadJob f s).1 := by
  unfold loadJob
  split
  · exact unchangedBut_refl _ s
  · unfold loadRule
    split
    · exact unchangedBut_refl _ s
    · split
      · exact unchangedBut_refl _ s
      · split
        · exact unchangedBut_refl _ s
        · split
          · exact unchangedBut_refl _ s
          · refine unchangedBut_trans (transition_leaves ‹_›) (ey := [.call]) ?_
            exact unchangedBut_ite (setPhase_leaves _ _ _ _) (unchangedBut_refl _ _)

theorem receiveJob_leaves (f : Taken) (s : State) : unchangedBut [.bags, .ring] s (receiveJob f s).1 := by
  unfold receiveJob
  split
  · exact unchangedBut_refl _ s
  · unfold receiveRule
    dsimp only
    repeat' split
    all_goals first
      | exact unchangedBut_refl _ s
      | exact unchangedBut_trans (addBag_leaves _ s) (setSlot_leaves _ _ _)

theorem signJob_leaves (f : Taken) (s : State) : unchangedBut [.bags, .ring, .call, .events] s (signJob f s).1 := by
  unfold signJob
  split
  · exact unchangedBut_refl _ s
  · unfold signRule
    split
    · exact unchangedBut_refl _ s
    · exact completeCall_leaves _ _ s
    · exact unchangedBut_refl _ s

/-! ## The day -/

theorem changeDay_leaves (d : DayState) (s : State) : unchangedBut [.day, .events] s (changeDay d s) :=
  unchangedBut_trans (setDay_leaves _ s) (raiseNum_leaves _ _ _)

theorem openDay_leaves (s : State) : unchangedBut [.day, .drawers, .acc, .events] s (openDay s) :=
  unchangedBut_mono (unchangedBut_trans (unchangedBut_trans (unchangedBut_trans (setDay_leaves _ s) (setDrawers_leaves _ _))
    (ey := [.acc]) (setAcc_leaves _ _)) (changeDay_leaves _ _)) (by decide)

theorem completeClose_leaves (s : State) : unchangedBut [.bags, .day, .events] s (completeClose s) :=
  unchangedBut_mono (unchangedBut_trans (unchangedBut_trans (setBags_leaves _ s) (ey := [.day]) (setDay_leaves _ _))
    (changeDay_leaves _ _)) (by decide)

theorem testClosing_leaves (s : State) : unchangedBut [.bags, .day, .events] s (testClosing s) :=
  unchangedBut_ite (completeClose_leaves s) (unchangedBut_refl _ s)

theorem closeDay_leaves (force : Bool) (s : State) :
    unchangedBut ([.day, .bags, .orders, .stock, .drawers, .events] ++ if force then [.sessions] else []) s (closeDay force s) := by
  unfold closeDay
  dsimp only
  have h1 := unchangedBut_trans (changeDay_leaves .closing s) (cancelPending_leaves (changeDay .closing s))
  cases force
  · exact unchangedBut_mono (unchangedBut_trans h1 (testClosing_leaves _)) (by decide)
  · exact unchangedBut_mono (unchangedBut_trans (unchangedBut_trans h1
      (unchangedBut_trans (setDrawers_leaves _ _) (abortSessions_leaves _))) (testClosing_leaves _)) (by decide)

theorem advanceClock_leaves (s : State) : unchangedBut [.day, .bags, .ring, .call, .events] s (advanceClock s) :=
  unchangedBut_ite
    (unchangedBut_mono (unchangedBut_trans (setDay_leaves _ s) (missedCheck_leaves _)) (by decide))
    (unchangedBut_mono (unchangedBut_trans (unchangedBut_trans (setDay_leaves _ s) (ey := [.ring]) (setRing_leaves _ _))
      (missedCheck_leaves _)) (by decide))

theorem setDayClock_leaves (m : Nat) (s : State) : unchangedBut [.day, .bags, .ring, .call, .events] s (setDayClock m s) :=
  unchangedBut_mono (unchangedBut_trans (unchangedBut_trans (setDay_leaves _ s) (setDay_leaves _ _)) (missedCheck_leaves _)) (by decide)

/-! ## Replies and the end of a taking -/

theorem drawDetail_leaves (d : Option Word32) (s : State) : unchangedBut [.draws] s (drawDetail d s).2 := by
  cases d with
  | none => exact setDraws_leaves _ s
  | some w => exact unchangedBut_refl _ s

theorem answerRequest_leaves (tag : Word16) (code : Byte) (r : Code) (d : Option Word32) (data : List Byte) (s : State) :
    unchangedBut [.trunk, .draws] s (answerRequest tag code r d data s) :=
  unchangedBut_mono (unchangedBut_trans (drawDetail_leaves d s) (setTrunk_leaves _ _)) (by decide)

theorem popRequest_leaves (s : State) : unchangedBut [.trunk] s (popRequest s) := setTrunk_leaves _ s

/-- A list that holds both ports holds any one. -/
theorem ofPort_sub (p : Port) {ex ey : List Part} (h : .floor ∈ ey) (k : .room ∈ ey) (m : ∀ b ∈ ex, b ∈ ey) :
    ∀ b ∈ Part.ofPort p :: ex, b ∈ ey := by
  intro b hb
  rcases List.mem_cons.mp hb with rfl | hb
  · cases p
    · exact h
    · exact k
  · exact m b hb

theorem placeSend_leaves (tag : Word16) (p : Port) (f : LineFrame) (s : State) :
    unchangedBut [Part.ofPort p, .trunk, .draws] s (placeSend tag p f s) :=
  unchangedBut_mono (unchangedBut_trans (unchangedBut_trans (setDown_leaves p _ s) (popRequest_leaves _)) (answerRequest_leaves _ _ _ _ _ _))
    (by cases p <;> decide)

theorem placeWaiting_leaves (s : State) : unchangedBut [.floor, .room, .trunk, .draws] s (placeWaiting s) := by
  unfold placeWaiting
  split
  · exact unchangedBut_ite (unchangedBut_mono (placeSend_leaves _ _ _ s) (ofPort_sub _ (by decide) (by decide) (by decide)))
      (unchangedBut_refl _ s)
  · exact unchangedBut_refl _ s

end Sys2Proof.Machine
end

