-- ==== Sys2Proof/Laws/Settle.lean ====
section
/-! SUPPORT. What the end of a taking does: the closing test, the owed safe command, the waiting SEND; and when it does none of them. -/

namespace Sys2Proof.Machine

/-! ## The ports keep or grow their outgoing queues -/

/-- A port with frames added behind the waiting ones of its outgoing queue, and nothing else changed. -/
def LinePort.Grown (q r : LinePort) : Prop :=
  ∃ more, r = { q with out := { reserved := q.out.reserved, filled := q.out.filled ++ more } }

/-- Each port has at most frames added to its outgoing queue. -/
def PortsGrow (s t : State) : Prop := ∀ p : Port, (s.port p).Grown (t.port p)

theorem LinePort.grown_refl (q : LinePort) : q.Grown q := ⟨[], by simp⟩

theorem PortsGrow.refl (s : State) : PortsGrow s s := fun _ => LinePort.grown_refl _

theorem PortsGrow.trans {s t u : State} (h : PortsGrow s t) (k : PortsGrow t u) : PortsGrow s u := by
  intro p
  obtain ⟨a, ha⟩ := h p
  obtain ⟨b, hb⟩ := k p
  exact ⟨a ++ b, by rw [hb, ha]; simp⟩

/-- A change that leaves both ports alone. -/
theorem PortsGrow.of_leaves {ex : List Part} {s t : State} (h : unchangedBut ex s t) (hf : .floor ∉ ex) (hr : .room ∉ ex) :
    PortsGrow s t := by
  intro p
  have : t.port p = s.port p := by cases p; exacts [h .floor hf, h .room hr]
  rw [this]
  exact LinePort.grown_refl _

theorem PortsGrow.of_ports {s t : State} (hf : t.floor = s.floor) (hr : t.room = s.room) : PortsGrow s t := by
  intro p
  have : t.port p = s.port p := by cases p; exacts [hf, hr]
  rw [this]
  exact LinePort.grown_refl _

theorem placeOut_grows {p : Port} {f : LineFrame} {s t : State} (h : placeOut p f s = some t) : PortsGrow s t := by
  unfold placeOut at h
  split at h
  · rename_i q hq
    cases h
    rcases (s.port p).out.place_spec f with ⟨_, hn⟩ | ⟨_, hp⟩
    · rw [hn] at hq; cases hq
    · rw [hp] at hq
      cases hq
      intro r
      by_cases hr : p = r
      · subst hr
        refine ⟨[f], ?_⟩
        simp [State.setOut]
      · have : (s.setOut p { reserved := (s.port p).out.reserved, filled := (s.port p).out.filled ++ [f] }).port r = s.port r :=
          State.setPort_other s p r _ hr
        rw [this]
        exact LinePort.grown_refl _
  · cases h

/-! ## An owed safe command (R93) -/

/-- An owed command that cannot be placed stays owed; one that can is placed behind the waiting frames, and the flag clears (R93). -/
theorem placeSafeCommand_spec (s : State) :
    (commandPlaceable s = false ∧ placeSafeCommand s = s) ∨
    (commandPlaceable s = true ∧ ∃ b, safeNode s = some b ∧
      placeSafeCommand s =
        (s.setOut .room { reserved := s.room.out.reserved, filled := s.room.out.filled ++ [safeCommandFrame b s.safe.commanded] }).setSafe
          { s.safe with owed := false }) := by
  cases h : commandPlaceable s
  · exact .inl ⟨rfl, by simp [placeSafeCommand, h]⟩
  · refine .inr ⟨rfl, ?_⟩
    simp only [commandPlaceable, Bool.and_eq_true, decide_eq_true_eq, Option.isSome_iff_exists] at h
    obtain ⟨⟨ho, hf⟩, b, hb⟩ := h
    refine ⟨b, hb, ?_⟩
    have hp : placeOut .room (safeCommandFrame b s.safe.commanded) s =
        some (s.setOut .room { reserved := s.room.out.reserved, filled := s.room.out.filled ++ [safeCommandFrame b s.safe.commanded] }) := by
      unfold placeOut
      rcases s.room.out.place_spec (safeCommandFrame b s.safe.commanded) with ⟨h0, _⟩ | ⟨_, h1⟩
      · omega
      · simp only [State.port, h1]
    have hc : commandPlaceable s = true := by simp [commandPlaceable, ho, hf, hb]
    simp [placeSafeCommand, hc, hb, hp]

theorem placeSafeCommand_grows (s : State) : PortsGrow s (placeSafeCommand s) := by
  rcases placeSafeCommand_spec s with ⟨_, h⟩ | ⟨_, b, _, h⟩
  · rw [h]
    exact PortsGrow.refl s
  · rw [h]
    intro p
    cases p
    · exact LinePort.grown_refl _
    · exact ⟨[safeCommandFrame b s.safe.commanded], rfl⟩

/-- After a command was placed, or could not be placed, none can be placed. -/
theorem placeSafeCommand_done (s : State) : commandPlaceable (placeSafeCommand s) = false := by
  rcases placeSafeCommand_spec s with ⟨h, e⟩ | ⟨_, b, _, e⟩
  · rw [e, h]
  · rw [e]
    simp [commandPlaceable]

theorem commandSafe_done (c : BoltCommand) (s : State) : commandPlaceable (commandSafe c s) = false := placeSafeCommand_done _

theorem commandSafe_grows (c : BoltCommand) (s : State) : PortsGrow s (commandSafe c s) :=
  PortsGrow.trans (PortsGrow.of_leaves (setSafe_leaves _ s) (by decide) (by decide)) (placeSafeCommand_grows _)

/-- A command decided on is owed, or it stands in the Room Port's queue (R93). -/
theorem commandSafe_spec (c : BoltCommand) (s : State) :
    (commandSafe c s).safe = { s.safe with commanded := c, owed := (commandSafe c s).safe.owed } ∧
    ((commandSafe c s).safe.owed = true ∨ ∃ b, safeCommandFrame b c ∈ (commandSafe c s).room.out.filled) := by
  unfold commandSafe
  rcases placeSafeCommand_spec (s.setSafe { s.safe with commanded := c, owed := true }) with ⟨_, e⟩ | ⟨_, b, _, e⟩
  · rw [e]
    exact ⟨rfl, .inl rfl⟩
  · rw [e]
    exact ⟨rfl, .inr ⟨b, by simp [State.setOut]⟩⟩

/-! ## The closing test (R145) -/

/-- A taking's report tests the closing conditions, and a close completes only where they hold (R145). -/
theorem testReports_spec (s s' : State) :
    testReports s s' = s' ∨
    (s'.day.state = .closing ∧ closingConditions s' = true ∧ ¬(s.day.state = .closing ∧ closeInputs s = closeInputs s') ∧
      testReports s s' = completeClose s') := by
  unfold testReports
  split
  · exact .inl rfl
  · rename_i h
    unfold testClosing
    split
    · rename_i k
      exact .inr ⟨k.1, k.2, h, rfl⟩
    · exact .inl rfl

theorem testReports_leaves (s s' : State) : unchangedBut [.bags, .day, .events] s' (testReports s s') :=
  unchangedBut_ite (unchangedBut_refl _ s') (testClosing_leaves s')

/-! ## Placing depends on few parts -/

theorem commandPlaceable_congr {s t : State} (ho : t.safe.owed = s.safe.owed) (hf : t.room.out.free = s.room.out.free)
    (hn : t.nodes = s.nodes) : commandPlaceable t = commandPlaceable s := by
  unfold commandPlaceable safeNode
  rw [ho, hf, hn]

theorem waitingPlaceable_congr {s t : State} (hw : t.trunk.sendWaits = s.trunk.sendWaits) (hb : t.trunk.buffer = s.trunk.buffer)
    (hf : t.floor.down = s.floor.down) (hr : t.room.down = s.room.down) (hn : t.nodes = s.nodes) :
    waitingPlaceable t = waitingPlaceable s := by
  have hq : ∀ a b, sendQueue t a b = sendQueue s a b := by
    intro a b
    simp [sendQueue, registeredOn, State.node, hn]
  have hd : ∀ p, downlinkFree t p = downlinkFree s p := by
    intro p
    have h : (t.port p).down = (s.port p).down := by cases p; exacts [hf, hr]
    unfold downlinkFree
    rw [h]
  unfold waitingPlaceable
  rw [hw, hb]
  split <;> simp [*]

/-- A waiting SEND that cannot be placed stays where it is (R178). -/
theorem placeWaiting_of_not {s : State} (h : waitingPlaceable s = false) : placeWaiting s = s := by
  unfold placeWaiting waitingPlaceable at *
  split
  · rename_i hw hb
    rw [hw, hb] at h
    simp only at h
    simp [h]
  · rfl

/-! ## The end of a taking -/

/-- Where the taking frees no place for an owed command or a waiting SEND, its end is the closing test and the events. -/
theorem settle_tested {s s' : State} (hc : commandPlaceable s' = true → commandPlaceable s = true)
    (hw : waitingPlaceable s' = true → waitingPlaceable s = true) : settle s s' = settleEvents (testReports s s') := by
  have hl := testReports_leaves s s'
  have h1 : commandPlaceable (testReports s s') = commandPlaceable s' :=
    commandPlaceable_congr (by rw [hl .safe (by decide)]) (by rw [hl .room (by decide)]) (hl .nodes (by decide))
  have h2 : waitingPlaceable (testReports s s') = waitingPlaceable s' :=
    waitingPlaceable_congr (by rw [hl .trunk (by decide)]) (by rw [hl .trunk (by decide)]) (by rw [hl .floor (by decide)])
      (by rw [hl .room (by decide)]) (hl .nodes (by decide))
  unfold settle
  have h3 : placeIfFreed s (testReports s s') = testReports s s' := by
    unfold placeIfFreed
    split
    · rfl
    · rename_i h
      rcases placeSafeCommand_spec (testReports s s') with ⟨_, e⟩ | ⟨k, _⟩
      · exact e
      · exact absurd (hc (h1 ▸ k)) h
  rw [h3]
  unfold sendIfFreed
  split
  · rfl
  · rename_i h
    rw [placeWaiting_of_not]
    rw [h2]
    cases k : waitingPlaceable s'
    · rfl
    · exact absurd (hw k) h

/-- Where the taking also reports nothing to the closing test, its end is the events alone. -/
theorem settle_quiet {s s' : State} (hc : commandPlaceable s' = true → commandPlaceable s = true)
    (hw : waitingPlaceable s' = true → waitingPlaceable s = true)
    (hd : s'.day.state = .closing → s.day.state = .closing ∧ closeInputs s = closeInputs s') : settle s s' = settleEvents s' := by
  rw [settle_tested hc hw]
  rcases testReports_spec s s' with e | ⟨h, _, k, _⟩
  · rw [e]
  · exact absurd (hd h) k

/-- The end of a taking may change nothing but what a completed close, a placed safe command, a placed SEND and the events change. -/
theorem settle_leaves (s s' : State) :
    unchangedBut ([.bags, .day, .safe, .floor, .room, .trunk, .draws] ++ Part.eventParts) s' (settle s s') := by
  have h1 : ∀ t, unchangedBut [.safe, .room] t (placeIfFreed s t) := fun t =>
    unchangedBut_ite (unchangedBut_refl _ t) (placeSafeCommand_leaves t)
  have h2 : ∀ t, unchangedBut [.floor, .room, .trunk, .draws] t (sendIfFreed s t) := fun t =>
    unchangedBut_ite (unchangedBut_refl _ t) (placeWaiting_leaves t)
  exact unchangedBut_mono (unchangedBut_trans (unchangedBut_trans (unchangedBut_trans (testReports_leaves s s') (h1 _)) (h2 _))
    (settleEvents_leaves _)) (by decide)

end Sys2Proof.Machine
end

