-- ==== Sys2Proof/Laws/Events.lean ====
section
/-! SUPPORT. Which events each shared operation may raise: one lemma for each, with those events. -/

namespace Sys2Proof.Machine

/-! ## Composition -/

theorem eventsBut_of_same {s t : State} (ex : List Event) (h : t.events = s.events) : eventsBut ex s t := by
  have k : ∀ e, t.event e = s.event e := fun e => by unfold State.event; rw [h]
  exact ⟨fun e => by rw [k], fun e _ => by rw [k]; exact ⟨rfl, rfl, fun _ => rfl⟩⟩

theorem eventsBut_of_leaves {s t : State} {parts : List Part} (ex : List Event) (h : unchangedBut parts s t)
    (k : .events ∉ parts) : eventsBut ex s t := eventsBut_of_same ex (h .events k)

theorem eventsBut_refl (ex : List Event) (s : State) : eventsBut ex s s := eventsBut_of_same ex rfl

theorem eventsBut_comp {ex : List Event} {s t u : State} (h : eventsBut ex s t) (k : eventsBut ex t u) : eventsBut ex s u := by
  refine ⟨fun e => (k.1 e).trans (h.1 e), fun e he => ?_⟩
  obtain ⟨a, b, c⟩ := h.2 e he
  obtain ⟨a', b', c'⟩ := k.2 e he
  exact ⟨a'.trans a, b'.trans b, fun hi => (c' hi).trans (c hi)⟩

theorem eventsBut_mono {ex ey : List Event} {s t : State} (h : eventsBut ex s t) (k : ∀ e ∈ ex, e ∈ ey) : eventsBut ey s t :=
  ⟨h.1, fun e he => h.2 e fun m => he (k e m)⟩

theorem eventsBut_trans {ex ey : List Event} {s t u : State} (h : eventsBut ex s t) (k : eventsBut ey t u) :
    eventsBut (ex ++ ey) s u :=
  eventsBut_comp (eventsBut_mono h fun _ m => List.mem_append_left _ m) (eventsBut_mono k fun _ m => List.mem_append_right _ m)

theorem eventsBut_ite {ex : List Event} {s a b : State} {c : Prop} [Decidable c] (h : eventsBut ex s a) (k : eventsBut ex s b) :
    eventsBut ex s (if c then a else b) := by
  split <;> assumption

theorem eventsBut_foldl {α : Type} {ex : List Event} {f : State → α → State} (h : ∀ s a, eventsBut ex s (f s a))
    (l : List α) (s : State) : eventsBut ex s (l.foldl f s) := by
  induction l generalizing s with
  | nil => exact eventsBut_refl ex s
  | cons a l ih => exact eventsBut_comp (h s a) (ih _)

/-! ## Raisings -/

theorem raise_events (e : Event) (d : Word32) (s : State) : eventsBut [e] s (raise e d s) := by
  refine ⟨fun e' => ?_, fun e' he => ?_⟩
  · rw [raise_event]
    split
    · rename_i h
      rw [h]
    · rfl
  · have hn : e ≠ e' := fun h => he (by simp [h])
    rw [raise_event, if_neg hn]
    exact ⟨rfl, rfl, fun _ => rfl⟩

theorem raiseNum_events (e : Event) (n : Nat) (s : State) : eventsBut [e] s (raiseNum e n s) := raise_events _ _ s

theorem raisePair_events (e : Event) (a b : Nat) (s : State) : eventsBut [e] s (raisePair e a b s) := raise_events _ _ s

/-- The end of a taking keeps every record, but for the pending flags of the indirect events (R181). -/
theorem settleEvents_events (s : State) : eventsBut [] s (settleEvents s) := by
  refine ⟨fun e => by rw [settleEvents_event], fun e _ => ?_⟩
  rw [settleEvents_event]
  refine ⟨rfl, rfl, fun hi => ?_⟩
  cases e <;> first | rfl | exact absurd hi (by decide)

theorem countError_events (p : Port) (c : LineCounter) (s : State) : eventsBut [.linkError] s (countError p c s) :=
  eventsBut_comp (eventsBut_of_same _ (by cases p <;> rfl)) (raisePair_events _ _ _ _)

theorem raiseQueueFull_events (p : Port) (o : Bool) (s : State) : eventsBut [.queueFull] s (raiseQueueFull p o s) :=
  raisePair_events _ _ _ s

theorem countTrunkCheck_events (s : State) : eventsBut [.linkError] s (countTrunkCheck s) :=
  eventsBut_comp (eventsBut_of_leaves _ (setTrunk_leaves _ s) (by decide)) (raisePair_events _ _ _ _)

theorem countTrunkFraming_events (s : State) : eventsBut [.linkError] s (countTrunkFraming s) :=
  eventsBut_comp (eventsBut_of_leaves _ (setTrunk_leaves _ s) (by decide)) (raisePair_events _ _ _ _)

theorem countTrunkOverrun_events (s : State) : eventsBut [.linkError] s (countTrunkOverrun s) :=
  eventsBut_comp (eventsBut_of_leaves _ (setTrunk_leaves _ s) (by decide)) (raisePair_events _ _ _ _)

/-! ## Drawers -/

theorem setDrawer_events (ex : List Event) (t : Fin 160) (d : Drawer) (s : State) : eventsBut ex s (setDrawer t d s) :=
  eventsBut_of_leaves _ (setDrawer_leaves t d s) (by decide)

theorem applyMovement_events (t : Fin 160) (f : Drawer → Drawer) (s : State) :
    eventsBut [.expectedSaturated] s (applyMovement t f s) :=
  eventsBut_ite (eventsBut_comp (setDrawer_events _ _ _ s) (raiseNum_events _ _ _)) (setDrawer_events _ _ _ s)

theorem compareHold_events (t : Fin 160) (s : State) : eventsBut [.drawerHold] s (compareHold t s) :=
  eventsBut_ite (eventsBut_comp (setDrawer_events _ _ _ s) (raiseNum_events _ _ _))
    (eventsBut_ite (setDrawer_events _ _ _ s) (eventsBut_refl _ s))

theorem placeCall_events (t : Fin 160) (s : State) : eventsBut [.queueFull] s (placeCall t s) := by
  unfold placeCall
  split
  · exact eventsBut_of_leaves _ (placeOut_leaves ‹_›) (by decide)
  · exact raiseQueueFull_events _ _ s

theorem comparePickup_events (t : Fin 160) (s : State) : eventsBut [.pickupDue, .queueFull] s (comparePickup t s) :=
  eventsBut_ite
    (eventsBut_trans (eventsBut_comp (setDrawer_events _ _ _ s) (raiseNum_events _ _ _)) (placeCall_events _ _))
    (setDrawer_events _ _ _ s)

theorem reevaluate_events (t : Fin 160) (s : State) : eventsBut [.drawerHold, .pickupDue, .queueFull] s (reevaluate t s) :=
  eventsBut_trans (compareHold_events t s) (comparePickup_events t _)

theorem moveDrawer_events (t : Fin 160) (f : Drawer → Drawer) (s : State) :
    eventsBut [.expectedSaturated, .drawerHold, .pickupDue, .queueFull] s (moveDrawer t f s) :=
  eventsBut_trans (applyMovement_events t f s) (reevaluate_events t _)

/-- A till frame raises what its job raises, SEQUENCE_GAP where it carries a number, and TENDER_UNAPPLIED where it is a TENDER or a REFUND
(R44, R45). -/
theorem tillFrame_events {α : Type} {ex : List Event} {k : JobKind} {parsed : Option α} {seq : α → Option Nat}
    {copy : Fin 160 → State → Answer} {job : Fin 160 → α → State → State × Answer}
    (h : ∀ t a s, eventsBut ex s (job t a s).1) (hk : k = .tender ∨ k = .refund → .tenderUnapplied ∈ ex)
    (hq : .sequenceGap ∈ ex ∨ ∀ a, seq a = none) (f : Taken) (s : State) :
    eventsBut ex s (tillFrame k parsed seq copy job f s).1 := by
  have hu : ∀ t s, eventsBut ex s (unapplied k t s) := by
    intro t s
    unfold unapplied
    split
    · rename_i hu
      exact eventsBut_mono (raiseNum_events _ _ s) (by simpa using hk hu)
    · exact eventsBut_refl _ s
  have h56 : ∀ t a s, eventsBut ex s (tillSteps56 k t (job t a) s).1 := by
    intro t a s
    unfold tillSteps56
    split
    · exact h t a s
    · exact hu t s
  unfold tillFrame
  split
  · exact eventsBut_refl _ s
  · dsimp only
    split
    · exact hu _ s
    · split
      · exact eventsBut_refl _ s
      · split
        · exact h56 _ _ s
        · rename_i hs
          split
          · exact eventsBut_refl _ s
          · exact eventsBut_refl _ s
          · refine eventsBut_comp (eventsBut_comp ?_ (eventsBut_of_leaves _ (recordSequence_leaves _ _ _ _) (by decide))) (h56 _ _ _)
            unfold raiseGap
            split
            · exact eventsBut_refl _ s
            · rcases hq with hq | hq
              · exact eventsBut_mono (raiseNum_events _ _ s) (by simpa using hq)
              · rw [hq] at hs
                cases hs

theorem tenderJob_events (f : Taken) (s : State) :
    eventsBut [.tenderUnapplied, .sequenceGap, .drawerHold, .pickupDue, .expectedSaturated, .queueFull] s (tenderJob f s).1 := by
  refine tillFrame_events (fun t a s => ?_) (by decide) (.inl (by decide)) f s
  exact eventsBut_mono (moveDrawer_events _ _ _) (by decide)

theorem refundJob_events (f : Taken) (s : State) :
    eventsBut [.tenderUnapplied, .sequenceGap, .drawerHold, .pickupDue, .expectedSaturated, .queueFull] s (refundJob f s).1 := by
  refine tillFrame_events (fun t a s => ?_) (by decide) (.inl (by decide)) f s
  exact eventsBut_mono (moveDrawer_events _ _ _) (by decide)

theorem pickupJob_events (f : Taken) (s : State) :
    eventsBut [.sequenceGap, .drawerHold, .pickupDue, .expectedSaturated, .queueFull] s (pickupJob f s).1 := by
  refine tillFrame_events (fun t a s => ?_) (by decide) (.inl (by decide)) f s
  dsimp only
  split
  · exact eventsBut_refl _ s
  · exact eventsBut_comp (eventsBut_of_leaves _ (addBag_leaves _ s) (by decide))
      (eventsBut_mono (moveDrawer_events _ _ _) (by decide))

theorem cashupJob_events (f : Taken) (s : State) :
    eventsBut [.sequenceGap, .drawerHold, .pickupDue, .expectedSaturated, .queueFull] s (cashupJob f s).1 := by
  refine tillFrame_events (fun t a s => ?_) (by decide) (.inl (by decide)) f s
  dsimp only
  split
  · exact eventsBut_refl _ s
  · exact eventsBut_comp (eventsBut_of_leaves _ (addBag_leaves _ s) (by decide))
      (eventsBut_mono (moveDrawer_events _ _ _) (by decide))

theorem tillOpenJob_events (f : Taken) (s : State) : eventsBut [.drawerHold, .pickupDue, .queueFull] s (tillOpenJob f s).1 := by
  refine tillFrame_events (fun t a s => ?_) (by decide) (.inr fun _ => rfl) f s
  dsimp only
  split
  · exact eventsBut_comp (setDrawer_events _ _ _ s) (reevaluate_events _ _)
  · exact eventsBut_refl _ s

/-! ## Orders and stock frames -/

theorem compareDeclared_events (t : Fin 160) (v : Nat) (s : State) : eventsBut [.declareVariance] s (compareDeclared t v s) :=
  eventsBut_ite (raiseNum_events _ _ s) (eventsBut_refl _ s)

theorem raiseShort_events (t : Fin 160) (r : Rebalance) (s : State) : eventsBut [.stockShort] s (raiseShort t r s) :=
  eventsBut_ite (raiseNum_events _ _ s) (eventsBut_refl _ s)

theorem actOnRebalance_events (t : Fin 160) (i : Fin 24) (q : Nat) (ps : List (Fin 12 × Nat)) (s : State) :
    eventsBut [.declareVariance, .stockShort] s (actOnRebalance t i q ps s).1 := by
  have h := eventsBut_trans (compareDeclared_events t (declaredValue s ps) s) (raiseShort_events t (rebalance s t ps) _)
  unfold actOnRebalance
  dsimp only
  split
  · exact eventsBut_comp h (eventsBut_of_leaves _ (unchangedBut_trans (unchangedBut_trans (setOrder_leaves _ _ _) (reserve_leaves _ _))
      (setOpenOrder_leaves _ _ _)) (by decide))
  · exact h

theorem declareJob_events (f : Taken) (s : State) :
    eventsBut [.sequenceGap, .declareVariance, .stockShort] s (declareJob f s).1 := by
  refine tillFrame_events (fun t a s => ?_) (by decide) (.inl (by decide)) f s
  unfold declareRule
  repeat' split
  iterate 4 exact eventsBut_refl _ s
  exact eventsBut_mono (actOnRebalance_events _ _ _ _ s) (by decide)

theorem floatReceiptJob_events (f : Taken) (s : State) :
    eventsBut [.sequenceGap, .drawerHold, .pickupDue, .expectedSaturated, .queueFull] s (floatReceiptJob f s).1 := by
  refine tillFrame_events (fun t a s => ?_) (by decide) (.inl (by decide)) f s
  unfold receiptRule
  split
  · exact eventsBut_refl _ s
  · split
    · exact eventsBut_refl _ s
    · split
      · exact eventsBut_refl _ s
      · rename_i b _ _ _ _ _
        have h : ∀ s1, unchangedBut [.orders, .drawers] s1
            (match b.order with | some i => freeOrder i .done s1 | none => s1) := by
          intro s1
          split
          · exact freeOrder_leaves _ _ s1
          · exact unchangedBut_refl _ s1
        exact eventsBut_comp (eventsBut_of_leaves _ (unchangedBut_trans (unchangedBut_trans (changeBag_leaves a.2 _ s) (h _))
          (setOpenOrder_leaves t none _)) (by decide)) (eventsBut_mono (moveDrawer_events _ _ _) (by decide))

theorem cancelOrder_events (i : Fin 24) (s : State) : eventsBut [.orderCancelled] s (cancelOrder i s) :=
  eventsBut_comp (eventsBut_of_leaves _ (unchangedBut_trans (release_leaves _ s) (freeOrder_leaves i _ _)) (by decide))
    (raiseNum_events _ _ _)

theorem cancelPending_events (s : State) : eventsBut [.orderCancelled] s (cancelPending s) :=
  eventsBut_foldl (fun s _ => eventsBut_ite (cancelOrder_events _ s) (eventsBut_refl _ s)) _ s

/-! ## The safe -/

theorem sealJob_events {ex : List Event} {rule : Nat → Byte → State → State × Answer}
    (h : ∀ n b s, eventsBut ex s (rule n b s).1) (f : Taken) (s : State) : eventsBut ex s (sealJob rule f s).1 := by
  unfold sealJob
  split
  · exact eventsBut_refl _ s
  · exact h _ _ s

theorem dropJob_events (f : Taken) (s : State) : eventsBut [.chuteHeld, .safeFull] s (dropJob f s).1 := by
  refine sealJob_events (fun n b s => ?_) f s
  unfold dropRule
  split
  · exact eventsBut_mono (raiseNum_events _ _ s) (by decide)
  · split
    · exact eventsBut_refl _ s
    · split
      · exact eventsBut_mono (raiseNum_events _ _ s) (by decide)
      · split
        · exact eventsBut_refl _ s
        · split
          · exact eventsBut_mono (raiseNum_events _ _ s) (by decide)
          · exact eventsBut_of_leaves _ (acceptEntry_leaves _ _ _ _ s) (by decide)

theorem depositJob_events (f : Taken) (s : State) : eventsBut [.safeFull] s (depositJob f s).1 := by
  refine sealJob_events (fun n b s => ?_) f s
  unfold depositRule
  split
  · exact eventsBut_refl _ s
  · split
    · exact eventsBut_refl _ s
    · split
      · exact eventsBut_refl _ s
      · split
        · exact eventsBut_refl _ s
        · split
          · exact raiseNum_events _ _ s
          · exact eventsBut_of_leaves _ (acceptEntry_leaves _ _ _ _ s) (by decide)

theorem doorOpened_events (s : State) : eventsBut [.doorForced] s (doorOpened s) := by
  unfold doorOpened
  split
  · exact eventsBut_of_leaves _ (setLock_leaves _ _ s) (by decide)
  · exact eventsBut_refl _ s
  · exact eventsBut_refl _ s
  all_goals exact eventsBut_comp (eventsBut_of_leaves _ (setLock_leaves _ _ s) (by decide)) (raiseNum_events _ _ _)

theorem doorOpenJob_events (f : Taken) (s : State) : eventsBut [.doorForced] s (doorOpenJob f s).1 := by
  unfold doorOpenJob
  split
  · exact doorOpened_events s
  · exact eventsBut_refl _ s

theorem confirmFailed_events (n : Nat) (s : State) : eventsBut [.safeLockout] s (confirmFailed n s).1 := by
  unfold confirmFailed
  split
  · exact eventsBut_refl _ s
  · dsimp only
    split
    · exact eventsBut_of_leaves _ (setFailed_leaves _ s) (by decide)
    · exact eventsBut_comp (eventsBut_comp (eventsBut_of_leaves _ (unchangedBut_trans (setFailed_leaves _ s) (setLock_leaves _ _ _))
        (by decide)) (raiseNum_events _ _ _)) (eventsBut_of_leaves _ (commandSafe_leaves _ _) (by decide))

theorem windowExpired_events (s : State) : eventsBut [.windowExpired] s (windowExpired s) :=
  eventsBut_comp (eventsBut_of_leaves _ (setLock_leaves _ _ s) (by decide)) (raiseNum_events _ _ _)

/-! ## Counts -/

theorem addTally_events (g : TallyGroup) (c : Fin 12) (n : Nat) (s : State) :
    eventsBut [.tallyHalf, .tallyFull] s (addTally g c n s) := by
  have h : ∀ e o w s, eventsBut [e] s (raiseTally e g c o w s) := fun e o w s =>
    eventsBut_ite (raisePair_events _ _ _ s) (eventsBut_refl _ s)
  unfold addTally
  exact eventsBut_trans (ex := [.tallyHalf]) (eventsBut_comp (eventsBut_of_leaves _ (setTallies_leaves _ s) (by decide)) (h _ _ _ _))
    (h _ _ _ _)

theorem addTallies_events (v : Session) (s : State) : eventsBut [.tallyHalf, .tallyFull] s (addTallies v s) :=
  eventsBut_foldl (fun s _ => eventsBut_foldl (fun s _ => addTally_events _ _ _ s) _ s) _ s

theorem closeEvents_events (n v : Nat) (c : BagClass) (s : State) : eventsBut [.bagVariance, .suspectFound] s (closeEvents n v c s) := by
  have h : eventsBut [.bagVariance] s (if c = .balanced then s else raiseNum .bagVariance n s) :=
    eventsBut_ite (eventsBut_refl _ s) (raiseNum_events _ _ s)
  exact eventsBut_trans h (eventsBut_ite (raiseNum_events _ _ _) (eventsBut_refl _ _))

theorem applyCount_events (x : Fin 4) (b b' : Bag) (v : Int) (c : BagClass) (s : State) :
    eventsBut [.bagVariance, .suspectFound, .tallyHalf, .tallyFull] s (applyCount x b b' v c s) := by
  have h1 := unchangedBut_trans (unchangedBut_trans (applyClose_leaves s.sessions[x].accepted s.sessions[x].suspect
    (s.valueOf s.sessions[x].accepted) s) (changeBag_leaves s.sessions[x].bag (fun _ => b') _)) (closeAtDrawer_leaves b v _)
  exact eventsBut_comp (eventsBut_comp (eventsBut_comp (eventsBut_of_leaves _ h1 (by decide))
    (eventsBut_mono (addTallies_events _ _) (by decide))) (eventsBut_mono (closeEvents_events _ _ _ _) (by decide)))
    (eventsBut_of_leaves _ (setSession_leaves _ _ _) (by decide))

theorem bagCloseJob_events (f : Taken) (s : State) :
    eventsBut [.bagVariance, .suspectFound, .tallyHalf, .tallyFull] s (bagCloseJob f s).1 := by
  unfold bagCloseJob
  dsimp only
  refine eventsBut_comp (t := counterActs (slotOf s f.frame.src) f.frame.src s)
    (eventsBut_of_leaves _ (counterActs_leaves _ _ s) (by decide)) ?_
  generalize counterActs (slotOf s f.frame.src) f.frame.src s = s'
  split
  · exact eventsBut_refl _ _
  · unfold bagCloseRule
    dsimp only
    repeat' split
    iterate 6 exact eventsBut_refl _ _
    exact applyCount_events _ _ _ _ _ _

theorem suspendSession_events (x : Fin 4) (s : State) : eventsBut [.countSuspended] s (suspendSession x s) :=
  eventsBut_comp (eventsBut_of_leaves _ (unchangedBut_trans (askRegister_leaves _ _ s) (setSession_leaves _ _ _)) (by decide))
    (raiseNum_events _ _ _)

/-! ## Handover -/

theorem missedCheck_events (s : State) : eventsBut [.windowMissed] s (missedCheck s) := by
  unfold missedCheck
  generalize 16 = n
  induction n generalizing s with
  | zero => exact eventsBut_refl _ s
  | succ n ih =>
    unfold checkMissed
    exact eventsBut_ite (eventsBut_comp (eventsBut_comp (eventsBut_of_leaves _ (returnSlot_leaves _ _ s) (by decide))
      (raiseNum_events _ _ _)) (ih _)) (eventsBut_refl _ s)

theorem abortCall_events (i : Fin 16) (r : CallResult) (s : State) :
    eventsBut [.handoverAborted, .windowMissed] s (abortCall i r s) := by
  have h := unchangedBut_trans (unchangedBut_trans (unchangedBut_trans (setBags_leaves (abortBags s.ring[i].outbound s).bags s)
    (setBags_leaves (flagUnsigned s.ring[i].received (abortBags s.ring[i].outbound s)).bags _)) (returnSlot_leaves i r _))
    (endSession_leaves _)
  exact eventsBut_trans (eventsBut_comp (eventsBut_of_leaves _ h (by decide)) (raiseNum_events _ _ _)) (missedCheck_events _)

theorem abortHandover_events (r : CallResult) (s : State) :
    eventsBut [.handoverAborted, .windowMissed] s (abortHandover r s) := by
  unfold abortHandover
  split
  · exact eventsBut_refl _ s
  · exact abortCall_events _ r s
  · exact eventsBut_refl _ s

theorem completeCall_events (i : Fin 16) (pair : Option (Byte × Byte)) (s : State) :
    eventsBut [.inboundVariance, .handoverDone, .windowMissed] s (completeCall i pair s) := by
  have h : eventsBut [.inboundVariance] s
      (if inboundAgrees s s.ring[i] then signBags s.ring[i].outbound s
        else raiseNum .inboundVariance i.val (signBags s.ring[i].outbound s)) := by
    have hb := eventsBut_of_leaves [.inboundVariance] (setBags_leaves (signBags s.ring[i].outbound s).bags s) (by decide)
    exact eventsBut_ite hb (eventsBut_comp hb (raiseNum_events _ _ _))
  have h2 := eventsBut_comp h (eventsBut_of_leaves _ (unchangedBut_trans (unchangedBut_trans
    (setSlot_leaves i { s.ring[i] with supervisor := pair.map Prod.fst, courierMark := pair.map Prod.snd } _)
    (returnSlot_leaves i (signResult s s.ring[i]) _)) (endSession_leaves _)) (by decide))
  exact eventsBut_trans (eventsBut_trans h2 (raiseNum_events .handoverDone i.val _)) (missedCheck_events _)

theorem announceJob_events (f : Taken) (s : State) : eventsBut [.handoverAborted, .windowMissed] s (announceJob f s).1 := by
  have h : eventsBut [.handoverAborted, .windowMissed] s (refuseCourier s).1 := by
    unfold refuseCourier
    dsimp only
    split
    · exact eventsBut_of_leaves _ (setCall_leaves _ s) (by decide)
    · exact eventsBut_trans (ex := [.handoverAborted]) (eventsBut_comp (eventsBut_of_leaves _ (returnSlot_leaves _ _ s) (by decide))
        (raiseNum_events _ _ _)) (missedCheck_events _)
  unfold announceJob
  split
  · exact eventsBut_refl _ s
  · unfold announceRule
    repeat' split
    all_goals first
      | exact eventsBut_refl _ s
      | exact h
      | exact eventsBut_of_leaves _ (acceptCourier_leaves s) (by decide)

theorem signJob_events (f : Taken) (s : State) :
    eventsBut [.inboundVariance, .handoverDone, .windowMissed] s (signJob f s).1 := by
  unfold signJob
  split
  · exact eventsBut_refl _ s
  · unfold signRule
    split
    · exact eventsBut_refl _ s
    · exact completeCall_events _ _ s
    · exact eventsBut_refl _ s

/-! ## The day -/

theorem changeDay_events (d : DayState) (s : State) : eventsBut [.dayChanged] s (changeDay d s) :=
  eventsBut_comp (eventsBut_of_leaves _ (setDay_leaves _ s) (by decide)) (raiseNum_events _ _ _)

theorem completeClose_events (s : State) : eventsBut [.dayChanged] s (completeClose s) := by
  have h := unchangedBut_trans (setBags_leaves (purge s).bags s) (setDay_leaves { (purge s).day with
    summary := takeSummary (purge s) (countState s .counted) (countState s .handedOver), armed := true } _)
  exact eventsBut_comp (eventsBut_of_leaves _ h (by decide)) (changeDay_events _ _)

theorem testClosing_events (s : State) : eventsBut [.dayChanged] s (testClosing s) :=
  eventsBut_ite (completeClose_events s) (eventsBut_refl _ s)

theorem openDay_events (s : State) : eventsBut [.dayChanged] s (openDay s) := by
  unfold openDay
  dsimp only
  refine eventsBut_comp (eventsBut_of_leaves _ (parts := [.day, .drawers, .acc]) ?_ (by decide)) (changeDay_events _ _)
  exact unchangedBut_trans (unchangedBut_trans (setDay_leaves _ s) (setDrawers_leaves _ _)) (setAcc_leaves _ _)

theorem closeDay_events (force : Bool) (s : State) : eventsBut [.dayChanged, .orderCancelled] s (closeDay force s) := by
  have h1 := eventsBut_trans (changeDay_events .closing s) (cancelPending_events (changeDay .closing s))
  have h2 : eventsBut [.dayChanged, .orderCancelled] s
      (if force then abortSessions ((cancelPending (changeDay .closing s)).setDrawers
        (mapRows forceDrawer (cancelPending (changeDay .closing s)).drawers)) else cancelPending (changeDay .closing s)) := by
    refine eventsBut_ite (eventsBut_comp h1 ?_) h1
    exact eventsBut_of_leaves _ (unchangedBut_trans (setDrawers_leaves _ _) (abortSessions_leaves _)) (by decide)
  exact eventsBut_comp h2 (eventsBut_mono (testClosing_events _) (by decide))

theorem advanceClock_events (s : State) : eventsBut [.windowMissed] s (advanceClock s) :=
  eventsBut_ite (eventsBut_comp (eventsBut_of_leaves _ (setDay_leaves _ s) (by decide)) (missedCheck_events _))
    (eventsBut_comp (eventsBut_of_leaves _ (unchangedBut_trans (setDay_leaves _ s) (setRing_leaves _ _)) (by decide))
      (missedCheck_events _))

theorem setDayClock_events (m : Nat) (s : State) : eventsBut [.windowMissed] s (setDayClock m s) :=
  eventsBut_comp (eventsBut_of_leaves _ (unchangedBut_trans (setDay_leaves _ s) (setDay_leaves _ _)) (by decide)) (missedCheck_events _)

/-- The closing test raises DAY_CHANGED at most (R145, R146). -/
theorem testReports_events (s s' : State) : eventsBut [.dayChanged] s' (testReports s s') :=
  eventsBut_ite (eventsBut_refl _ s') (testClosing_events s')

/-- The end of a taking raises DAY_CHANGED at most, where a close completes (R146). -/
theorem settle_events (s s' : State) : eventsBut [.dayChanged] s' (settle s s') := by
  have h1 : ∀ t, unchangedBut [.safe, .room] t (placeIfFreed s t) := fun t =>
    unchangedBut_ite (unchangedBut_refl _ t) (placeSafeCommand_leaves t)
  have h2 : ∀ t, unchangedBut [.floor, .room, .trunk, .draws] t (sendIfFreed s t) := fun t =>
    unchangedBut_ite (unchangedBut_refl _ t) (placeWaiting_leaves t)
  exact eventsBut_comp (eventsBut_comp (testReports_events s s')
    (eventsBut_of_leaves _ (unchangedBut_trans (h1 _) (h2 _)) (by decide))) (eventsBut_mono (settleEvents_events _) (by decide))

end Sys2Proof.Machine
end

