-- ==== Sys2Proof/Laws/Bags.lean ====
section
/-! SUPPORT. What the operations of the register do to the record of a seal. -/

namespace Sys2Proof.Machine

/-! ## Finding a record -/

theorem findBag_some {s : State} {n : Nat} {b : Bag} (h : findBag s n = some b) : b ∈ s.bags ∧ b.sealNo = n := by
  unfold findBag at h
  exact ⟨List.mem_of_find?_eq_some h, by simpa using List.find?_some h⟩

theorem findBag_none {s : State} {n : Nat} : findBag s n = none ↔ ∀ b ∈ s.bags, b.sealNo ≠ n := by
  simp [findBag]

/-- The record of a seal after every record was changed by a function that keeps seals. -/
theorem findBag_map {s : State} {f : Bag → Bag} (hf : ∀ b, (f b).sealNo = b.sealNo) (n : Nat) :
    findBag (s.setBags (s.bags.map f)) n = (findBag s n).map f := by
  unfold findBag
  rw [State.setBags_bags, List.find?_map]
  have h : ((fun b : Bag => decide (b.sealNo = n)) ∘ f) = fun b => decide (b.sealNo = n) := by
    funext b
    simp [hf b]
  rw [h]

/-- The record of a seal depends on the register alone. -/
theorem findBag_congr {s t : State} (h : t.bags = s.bags) (n : Nat) : findBag t n = findBag s n := by
  unfold findBag
  rw [h]

/-! ## Changing, adding and removing -/

/-- A change reaches the record of its seal and no other (R27). -/
theorem findBag_changeBag {s : State} {n : Nat} {f : Bag → Bag} (hf : ∀ b, (f b).sealNo = b.sealNo) (m : Nat) :
    findBag (changeBag n f s) m = if m = n then (findBag s m).map f else findBag s m := by
  unfold changeBag
  rw [findBag_map (fun b => by split <;> simp [hf])]
  cases hb : findBag s m with
  | none => simp
  | some b =>
    have := (findBag_some hb).2
    by_cases h : m = n
    · simp [h, this]
    · simp [h, this]

/-- A new record is found by its seal where none held it, and every other seal keeps its record (R26). -/
theorem findBag_addBag {s : State} {b : Bag} (h : findBag s b.sealNo = none) (m : Nat) :
    findBag (addBag b s) m = if m = b.sealNo then some b else findBag s m := by
  unfold addBag findBag
  rw [State.setBags_bags, List.find?_append]
  by_cases hm : m = b.sealNo
  · subst hm
    unfold findBag at h
    simp [h]
  · rw [if_neg hm]
    have : [b].find? (fun x => decide (x.sealNo = m)) = none := by simpa using fun e => hm e.symm
    rw [this, Option.or_none]

/-- A transition answers UNKNOWN_BAG without a record, the refusal of its move, or the state with the moved record (R27). -/
theorem transition_spec (n : Nat) (move : Bag → Except Code Bag) (s : State) :
    (findBag s n = none ∧ transition n move s = .error .unknownBag) ∨
    (∃ b c, findBag s n = some b ∧ move b = .error c ∧ transition n move s = .error c) ∨
    (∃ b b', findBag s n = some b ∧ move b = .ok b' ∧ transition n move s = .ok (changeBag n (fun _ => b') s)) := by
  unfold transition
  split
  · exact .inl ⟨by assumption, rfl⟩
  · rename_i b hb
    split
    · rename_i c hc
      exact .inr (.inl ⟨b, c, hb, hc, rfl⟩)
    · rename_i b' hb'
      exact .inr (.inr ⟨b, b', hb, hb', rfl⟩)

/-- The checks of a create pass exactly for a free seal, a declared value in its range and a register with room (R25). -/
theorem createCheck_none {s : State} {n v : Nat} :
    createCheck s n v = none ↔ n ≠ 0 ∧ v ≠ 0 ∧ v ≤ Config.topBagValue ∧ findBag s n = none ∧ s.bags.length < Config.bagCapacity := by
  unfold createCheck
  constructor
  · intro h
    split at h
    · cases h
    · split at h
      · cases h
      · split at h
        · cases h
        · split at h
          · cases h
          · split at h
            · cases h
            · rename_i h1 h2 h3 h4 h5
              exact ⟨h1, h2, by omega, by simpa using h4, by omega⟩
  · rintro ⟨h1, h2, h3, h4, h5⟩
    rw [if_neg h1, if_neg h2, if_neg (by omega), if_neg (by simp [h4]), if_neg (by omega)]

/-- A state of a record is read from the record of its seal. -/
theorem bagIn_iff {s : State} {n : Nat} {st : BagState} : bagIn s n st = true ↔ ∃ b, findBag s n = some b ∧ b.state = st := by
  unfold bagIn
  split
  · rename_i b hb
    simp [hb]
  · rename_i hb
    simp [hb]

/-! ## Figures -/

/-- The purge keeps exactly the records that are not terminal (R37). -/
theorem mem_purge {s : State} {b : Bag} : b ∈ (purge s).bags ↔ b ∈ s.bags ∧ b.state.terminal = false := by
  simp [purge]

end Sys2Proof.Machine
end

