-- ==== Sys2Proof/Laws/Inspect.lean ====
section
/-! SUPPORT. What taking a marked frame does, whatever its kind: the ports, the uplink queue, the end of the taking; and the shape of every frame command. -/

namespace Sys2Proof.Machine

/-! ## Jobs at the ports -/

theorem placeCall_grows (t : Fin 160) (s : State) : PortsGrow s (placeCall t s) := by
  unfold placeCall
  split
  · exact placeOut_grows ‹_›
  · exact PortsGrow.of_leaves (raiseQueueFull_leaves _ _ s) (by decide) (by decide)

theorem comparePickup_grows (t : Fin 160) (s : State) : PortsGrow s (comparePickup t s) := by
  unfold comparePickup
  split
  · exact PortsGrow.trans (PortsGrow.of_leaves (unchangedBut_trans (setDrawer_leaves _ _ s) (raiseNum_leaves _ _ _)) (by decide)
      (by decide)) (placeCall_grows _ _)
  · exact PortsGrow.of_leaves (setDrawer_leaves _ _ s) (by decide) (by decide)

theorem reevaluate_grows (t : Fin 160) (s : State) : PortsGrow s (reevaluate t s) :=
  PortsGrow.trans (PortsGrow.of_leaves (compareHold_leaves t s) (by decide) (by decide)) (comparePickup_grows t _)

theorem moveDrawer_grows (t : Fin 160) (f : Drawer → Drawer) (s : State) : PortsGrow s (moveDrawer t f s) :=
  PortsGrow.trans (PortsGrow.of_leaves (applyMovement_leaves t f s) (by decide) (by decide)) (reevaluate_grows t _)

theorem tillFrame_grows {α : Type} {k : JobKind} {parsed : Option α} {seq : α → Option Nat}
    {copy : Fin 160 → State → Answer} {job : Fin 160 → α → State → State × Answer}
    (h : ∀ t a s, PortsGrow s (job t a s).1) (f : Taken) (s : State) :
    PortsGrow s (tillFrame k parsed seq copy job f s).1 := by
  have hu : ∀ t s, PortsGrow s (unapplied k t s) := fun t s =>
    PortsGrow.of_leaves (unapplied_leaves k t s) (by decide) (by decide)
  have h56 : ∀ t a s, PortsGrow s (tillSteps56 k t (job t a) s).1 := by
    intro t a s
    unfold tillSteps56
    split
    · exact h t a s
    · exact hu t s
  unfold tillFrame
  split
  · exact PortsGrow.refl s
  · dsimp only
    split
    · exact hu _ s
    · split
      · exact PortsGrow.refl s
      · split
        · exact h56 _ _ s
        · split
          · exact PortsGrow.refl s
          · exact PortsGrow.refl s
          · exact PortsGrow.trans (PortsGrow.of_leaves (unchangedBut_trans (raiseGap_leaves _ _ s) (recordSequence_leaves _ _ _ _))
              (by decide) (by decide)) (h56 _ _ _)

theorem floatReceiptJob_grows (f : Taken) (s : State) : PortsGrow s (floatReceiptJob f s).1 := by
  refine tillFrame_grows (fun t a s => ?_) f s
  unfold receiptRule
  split
  · exact PortsGrow.refl s
  · split
    · exact PortsGrow.refl s
    · split
      · exact PortsGrow.refl s
      · rename_i b _ _ _ _ _
        have h : ∀ s1, unchangedBut [.orders, .drawers] s1
            (match b.order with | some i => freeOrder i .done s1 | none => s1) := by
          intro s1
          split
          · exact freeOrder_leaves _ _ s1
          · exact unchangedBut_refl _ s1
        exact PortsGrow.trans (PortsGrow.of_leaves (unchangedBut_trans (unchangedBut_trans (changeBag_leaves a.2 _ s) (h _))
          (setOpenOrder_leaves t none _)) (by decide) (by decide)) (moveDrawer_grows _ _ _)

theorem tenderJob_grows (f : Taken) (s : State) : PortsGrow s (tenderJob f s).1 := by
  unfold tenderJob
  refine tillFrame_grows (fun t a s => ?_) f s
  exact moveDrawer_grows _ _ _

theorem refundJob_grows (f : Taken) (s : State) : PortsGrow s (refundJob f s).1 := by
  unfold refundJob
  refine tillFrame_grows (fun t a s => ?_) f s
  exact moveDrawer_grows _ _ _

theorem pickupJob_grows (f : Taken) (s : State) : PortsGrow s (pickupJob f s).1 := by
  unfold pickupJob
  refine tillFrame_grows (fun t a s => ?_) f s
  dsimp only
  split
  · exact PortsGrow.refl s
  · exact PortsGrow.trans (PortsGrow.of_leaves (addBag_leaves _ s) (by decide) (by decide)) (moveDrawer_grows _ _ _)

theorem cashupJob_grows (f : Taken) (s : State) : PortsGrow s (cashupJob f s).1 := by
  unfold cashupJob
  refine tillFrame_grows (fun t a s => ?_) f s
  dsimp only
  split
  · exact PortsGrow.refl s
  · exact PortsGrow.trans (PortsGrow.of_leaves (addBag_leaves _ s) (by decide) (by decide)) (moveDrawer_grows _ _ _)

theorem tillOpenJob_grows (f : Taken) (s : State) : PortsGrow s (tillOpenJob f s).1 := by
  unfold tillOpenJob
  refine tillFrame_grows (fun t a s => ?_) f s
  dsimp only
  split
  · exact PortsGrow.trans (PortsGrow.of_leaves (setDrawer_leaves _ _ s) (by decide) (by decide)) (reevaluate_grows _ _)
  · exact PortsGrow.refl s

/-- A DOOR frame of type 2 leaves the state, or commands the safe at the lock set LOCKED. -/
theorem doorClosedJob_cases (f : Taken) (s : State) :
    (doorClosedJob f s).1 = s ∨ (doorClosedJob f s).1 = commandSafe .lock (setLock .locked none s) := by
  unfold doorClosedJob doorClosed
  by_cases h : s.safe.lock.doorStands = true
  · rw [if_pos h]
    split
    · exact .inr rfl
    · exact .inl rfl
  · rw [if_neg h]
    split
    · exact .inl rfl
    · exact .inl rfl

/-- A job adds frames to the outgoing queues at most. -/
theorem job_grows (k : JobKind) (f : Taken) (s : State) : PortsGrow s (k.job f s).1 := by
  cases k
  case tender => exact tenderJob_grows f s
  case refund => exact refundJob_grows f s
  case pickup => exact pickupJob_grows f s
  case cashup => exact cashupJob_grows f s
  case declare => exact PortsGrow.of_leaves (declareJob_leaves f s) (by decide) (by decide)
  case floatReceipt => exact floatReceiptJob_grows f s
  case tillOpen => exact tillOpenJob_grows f s
  case drop => exact PortsGrow.of_leaves (dropJob_leaves f s) (by decide) (by decide)
  case withdraw => exact PortsGrow.of_leaves (withdrawJob_leaves f s) (by decide) (by decide)
  case deposit => exact PortsGrow.of_leaves (depositJob_leaves f s) (by decide) (by decide)
  case door =>
    show PortsGrow s (doorJob f s).1
    unfold doorJob
    split
    · rcases doorClosedJob_cases f s with e | e
      · rw [e]
        exact PortsGrow.refl s
      · rw [e]
        exact PortsGrow.trans (PortsGrow.of_leaves (setLock_leaves _ _ s) (by decide) (by decide)) (commandSafe_grows _ _)
    · exact PortsGrow.of_leaves (doorOpenJob_leaves f s) (by decide) (by decide)
  case openRequest => exact PortsGrow.of_leaves (openRequestJob_leaves f s) (by decide) (by decide)
  case openConfirm =>
    show PortsGrow s (openConfirmJob f s).1
    unfold openConfirmJob
    split
    · exact PortsGrow.refl s
    · split
      · exact PortsGrow.refl s
      · exact PortsGrow.trans (PortsGrow.of_leaves (unchangedBut_trans (setLock_leaves _ _ s) (setFailed_leaves _ _)) (by decide)
          (by decide)) (commandSafe_grows _ _)
  case openCancel => exact PortsGrow.of_leaves (openCancelJob_leaves f s) (by decide) (by decide)
  case makeUp =>
    show PortsGrow s (makeUpJob f s).1
    unfold makeUpJob
    split
    · exact PortsGrow.of_leaves (makeUpConsignmentJob_leaves f s) (by decide) (by decide)
    · exact PortsGrow.of_leaves (makeUpFloatJob_leaves f s) (by decide) (by decide)
  case restock => exact PortsGrow.of_leaves (restockJob_leaves f s) (by decide) (by decide)
  case bagOpen => exact PortsGrow.of_leaves (bagOpenJob_leaves f s) (by decide) (by decide)
  case batch => exact PortsGrow.of_leaves (batchJob_leaves f s) (by decide) (by decide)
  case bagClose => exact PortsGrow.of_leaves (bagCloseJob_leaves f s) (by decide) (by decide)
  case countAbort => exact PortsGrow.of_leaves (countAbortJob_leaves f s) (by decide) (by decide)
  case handKey => exact PortsGrow.of_leaves (handKeyJob_leaves f s) (by decide) (by decide)
  case announce => exact PortsGrow.of_leaves (announceJob_leaves f s) (by decide) (by decide)
  case load => exact PortsGrow.of_leaves (loadJob_leaves f s) (by decide) (by decide)
  case receive => exact PortsGrow.of_leaves (receiveJob_leaves f s) (by decide) (by decide)
  case sign => exact PortsGrow.of_leaves (signJob_leaves f s) (by decide) (by decide)

theorem confirmFailed_grows (n : Nat) (s : State) : PortsGrow s (confirmFailed n s).1 := by
  unfold confirmFailed
  split
  · exact PortsGrow.refl s
  · dsimp only
    split
    · exact PortsGrow.of_leaves (setFailed_leaves _ s) (by decide) (by decide)
    · exact PortsGrow.trans (PortsGrow.of_leaves (unchangedBut_trans (unchangedBut_trans (setFailed_leaves _ s) (setLock_leaves _ _ _))
        (raiseNum_leaves _ _ _)) (by decide) (by decide)) (commandSafe_grows _ _)

/-- What decides a frame adds frames to the outgoing queues at most. -/
theorem decideFrame_grows (f : Taken) (s : State) : PortsGrow s (decideFrame f s).1 := by
  unfold decideFrame
  split
  · exact PortsGrow.refl s
  · unfold witnessAndRun
    split
    · exact job_grows _ f s
    · split
      · exact job_grows _ _ s
      · split
        · exact confirmFailed_grows _ s
        · exact PortsGrow.refl s

/-! ## Jobs and the owed safe command -/

/-- A command is placeable after a change only where it was before, if the change neither sets the flag, nor frees a place, nor touches a
node. -/
theorem commandPlaceable_mono {s t : State} (ho : t.safe.owed = true → s.safe.owed = true)
    (hf : t.room.out.free ≤ s.room.out.free) (hn : t.nodes = s.nodes) :
    commandPlaceable t = true → commandPlaceable s = true := by
  unfold commandPlaceable safeNode
  rw [hn]
  simp only [Bool.and_eq_true, decide_eq_true_eq]
  rintro ⟨⟨a, b⟩, c⟩
  exact ⟨⟨ho a, by omega⟩, c⟩

theorem LinePort.Grown.free_le {q r : LinePort} (h : q.Grown r) : r.out.free ≤ q.out.free := by
  obtain ⟨more, rfl⟩ := h
  simp [OutQueue.free, List.length_append]
  omega

/-- A change that leaves the safe and the nodes, and grows the queues at most, makes no owed command placeable. -/
theorem placeable_of_leaves {ex : List Part} {s t : State} (h : unchangedBut ex s t) (hg : PortsGrow s t) (hs : .safe ∉ ex)
    (hn : .nodes ∉ ex) : commandPlaceable t = true → commandPlaceable s = true :=
  commandPlaceable_mono (by rw [h .safe hs]; exact id) (hg .room).free_le (h .nodes hn)

theorem sealJob_owed {rule : Nat → Byte → State → State × Answer} (h : ∀ n b s, (rule n b s).1.safe.owed = s.safe.owed)
    (f : Taken) (s : State) : (sealJob rule f s).1.safe.owed = s.safe.owed := by
  unfold sealJob
  split
  · rfl
  · exact h _ _ s

theorem dropRule_owed (n : Nat) (b : Byte) (s : State) : (dropRule n b s).1.safe.owed = s.safe.owed := by
  unfold dropRule
  repeat' split
  all_goals rfl

theorem depositRule_owed (n : Nat) (b : Byte) (s : State) : (depositRule n b s).1.safe.owed = s.safe.owed := by
  unfold depositRule
  repeat' split
  all_goals rfl

theorem withdrawRule_owed (n : Nat) (b : Byte) (s : State) : (withdrawRule n b s).1.safe.owed = s.safe.owed := by
  unfold withdrawRule
  repeat' split
  all_goals rfl

theorem doorOpenJob_owed (f : Taken) (s : State) : (doorOpenJob f s).1.safe.owed = s.safe.owed := by
  unfold doorOpenJob doorOpened
  repeat' split
  all_goals rfl

theorem openRequestJob_owed (f : Taken) (s : State) : (openRequestJob f s).1.safe.owed = s.safe.owed := by
  unfold openRequestJob
  dsimp only
  repeat' split
  all_goals rfl

theorem openCancelJob_owed (f : Taken) (s : State) : (openCancelJob f s).1.safe.owed = s.safe.owed := by
  unfold openCancelJob
  repeat' split
  all_goals rfl

/-- No job makes an owed command placeable without placing it (R93). -/
theorem job_placeable (k : JobKind) (f : Taken) (s : State) :
    commandPlaceable (k.job f s).1 = true → commandPlaceable s = true := by
  have hg := job_grows k f s
  cases k
  case tender => exact placeable_of_leaves (tenderJob_leaves f s) hg (by decide) (by decide)
  case refund => exact placeable_of_leaves (refundJob_leaves f s) hg (by decide) (by decide)
  case pickup => exact placeable_of_leaves (pickupJob_leaves f s) hg (by decide) (by decide)
  case cashup => exact placeable_of_leaves (cashupJob_leaves f s) hg (by decide) (by decide)
  case declare => exact placeable_of_leaves (declareJob_leaves f s) hg (by decide) (by decide)
  case floatReceipt => exact placeable_of_leaves (floatReceiptJob_leaves f s) hg (by decide) (by decide)
  case tillOpen => exact placeable_of_leaves (tillOpenJob_leaves f s) hg (by decide) (by decide)
  case drop =>
    exact commandPlaceable_mono (by rw [show (JobKind.drop.job f s).1.safe.owed = _ from sealJob_owed dropRule_owed f s]; exact id)
      (hg .room).free_le (dropJob_leaves f s .nodes (by decide))
  case withdraw =>
    exact commandPlaceable_mono
      (by rw [show (JobKind.withdraw.job f s).1.safe.owed = _ from sealJob_owed withdrawRule_owed f s]; exact id)
      (hg .room).free_le (withdrawJob_leaves f s .nodes (by decide))
  case deposit =>
    exact commandPlaceable_mono
      (by rw [show (JobKind.deposit.job f s).1.safe.owed = _ from sealJob_owed depositRule_owed f s]; exact id)
      (hg .room).free_le (depositJob_leaves f s .nodes (by decide))
  case door =>
    show commandPlaceable (doorJob f s).1 = true → _
    have hg' : PortsGrow s (doorJob f s).1 := hg
    revert hg'
    unfold doorJob
    split
    · intro _
      rcases doorClosedJob_cases f s with e | e
      · rw [e]
        exact id
      · rw [e, commandSafe_done]
        exact fun h => Bool.noConfusion h
    · intro hg'
      exact commandPlaceable_mono (by rw [doorOpenJob_owed]; exact id) (hg' .room).free_le
        (doorOpenJob_leaves f s .nodes (by decide))
  case openRequest =>
    exact commandPlaceable_mono
      (by rw [show (JobKind.openRequest.job f s).1.safe.owed = _ from openRequestJob_owed f s]; exact id)
      (hg .room).free_le (openRequestJob_leaves f s .nodes (by decide))
  case openConfirm =>
    show commandPlaceable (openConfirmJob f s).1 = true → _
    unfold openConfirmJob
    split
    · exact id
    · split
      · exact id
      · intro h
        rw [commandSafe_done] at h
        cases h
  case openCancel =>
    exact commandPlaceable_mono
      (by rw [show (JobKind.openCancel.job f s).1.safe.owed = _ from openCancelJob_owed f s]; exact id)
      (hg .room).free_le (openCancelJob_leaves f s .nodes (by decide))
  case makeUp =>
    show commandPlaceable (makeUpJob f s).1 = true → _
    have hg' : PortsGrow s (makeUpJob f s).1 := hg
    revert hg'
    unfold makeUpJob
    split
    · exact fun hg' => placeable_of_leaves (makeUpConsignmentJob_leaves f s) hg' (by decide) (by decide)
    · exact fun hg' => placeable_of_leaves (makeUpFloatJob_leaves f s) hg' (by decide) (by decide)
  case restock => exact placeable_of_leaves (restockJob_leaves f s) hg (by decide) (by decide)
  case bagOpen => exact placeable_of_leaves (bagOpenJob_leaves f s) hg (by decide) (by decide)
  case batch => exact placeable_of_leaves (batchJob_leaves f s) hg (by decide) (by decide)
  case bagClose => exact placeable_of_leaves (bagCloseJob_leaves f s) hg (by decide) (by decide)
  case countAbort => exact placeable_of_leaves (countAbortJob_leaves f s) hg (by decide) (by decide)
  case handKey => exact placeable_of_leaves (handKeyJob_leaves f s) hg (by decide) (by decide)
  case announce => exact placeable_of_leaves (announceJob_leaves f s) hg (by decide) (by decide)
  case load => exact placeable_of_leaves (loadJob_leaves f s) hg (by decide) (by decide)
  case receive => exact placeable_of_leaves (receiveJob_leaves f s) hg (by decide) (by decide)
  case sign => exact placeable_of_leaves (signJob_leaves f s) hg (by decide) (by decide)

theorem confirmFailed_placeable (n : Nat) (s : State) :
    commandPlaceable (confirmFailed n s).1 = true → commandPlaceable s = true := by
  unfold confirmFailed
  split
  · exact id
  · dsimp only
    split
    · exact id
    · intro h
      rw [commandSafe_done] at h
      cases h

theorem decideFrame_placeable (f : Taken) (s : State) :
    commandPlaceable (decideFrame f s).1 = true → commandPlaceable s = true := by
  unfold decideFrame
  split
  · exact id
  · unfold witnessAndRun
    split
    · exact job_placeable _ f s
    · split
      · exact job_placeable _ _ s
      · split
        · exact confirmFailed_placeable _ s
        · exact id

/-! ## Answer and envelope -/

/-- The answer to a frame: a RESERVED place of the frame's port, if it has one, takes the VERDICT or the ADVICE (R175). -/
def Answer.frameOf (a : Answer) (f : Taken) (d : Word32) : LineFrame :=
  match a with
  | .verdict c _ => verdictFrame f.frame.kind f.crc f.frame.src c d
  | .advice _ body => adviceFrame f.frame.src body

/-- The detail an answer asks for. -/
def Answer.detail : Answer → Option Word32
  | .verdict _ d => d
  | .advice _ _ => some 0

/-- The answer changes the frame's outgoing queue, and the count of free details where no rule states its detail (R175). -/
theorem fillAnswer_spec (f : Taken) (a : Answer) (s : State) :
    ∃ n d, fillAnswer f a s = (s.setDraws n).setOut f.port ((s.port f.port).out.fill (a.frameOf f d)) ∧
      ∀ x, a.detail = some x → (∃ c, a = .verdict c (some x)) → d = x := by
  cases a with
  | verdict c d =>
    obtain ⟨h1, n, h2⟩ := drawDetail_spec d s
    refine ⟨n, (drawDetail d s).1, ?_, fun x hx _ => h1 x hx⟩
    show (drawDetail d s).2.setOut f.port _ = _
    rw [h2]
    simp [Answer.frameOf]
  | advice st body =>
    refine ⟨s.draws, 0, ?_, ?_⟩
    · show s.setOut f.port _ = _
      have : s.setDraws s.draws = s := rfl
      rw [this]
      rfl
    · rintro x - ⟨c, hc⟩
      cases hc

theorem fillAnswer_leaves (f : Taken) (a : Answer) (s : State) :
    unchangedBut [Part.ofPort f.port, .draws] s (fillAnswer f a s) := by
  obtain ⟨n, d, h, _⟩ := fillAnswer_spec f a s
  rw [h]
  exact unchangedBut_mono (unchangedBut_trans (setDraws_leaves n s) (setOut_leaves f.port _ _)) (by simp)

theorem fillEnvelope_leaves (f : Taken) (c : Code) (s : State) : unchangedBut [.uplink] s (fillEnvelope f c s) :=
  setUplink_leaves _ s

/-- What taking a frame does at a port: frames behind the waiting ones, a RESERVED place fewer at the frame's own port at most, and no
FREE place more. -/
def PortsFill (p : Port) (s t : State) : Prop :=
  ∀ q : Port, ∃ r more, t.port q = { s.port q with out := { reserved := r, filled := (s.port q).out.filled ++ more } } ∧
    (q ≠ p → r = (s.port q).out.reserved) ∧ (t.port q).out.free ≤ (s.port q).out.free

theorem PortsFill.of_grow (p : Port) {s t : State} (h : PortsGrow s t) : PortsFill p s t := by
  intro q
  obtain ⟨more, hm⟩ := h q
  exact ⟨_, more, hm, fun _ => rfl, (h q).free_le⟩

theorem PortsFill.trans {p : Port} {s t u : State} (h : PortsFill p s t) (k : PortsFill p t u) : PortsFill p s u := by
  intro q
  obtain ⟨r, m, e, hr, hf⟩ := h q
  obtain ⟨r', m', e', hr', hf'⟩ := k q
  refine ⟨r', m ++ m', ?_, fun hq => ?_, le_trans hf' hf⟩
  · rw [e', e]
    simp
  · rw [hr' hq, e]
    exact hr hq

theorem fillAnswer_fills (f : Taken) (a : Answer) (s : State) : PortsFill f.port s (fillAnswer f a s) := by
  obtain ⟨n, d, h, _⟩ := fillAnswer_spec f a s
  rw [h]
  intro q
  by_cases hq : f.port = q
  · subst hq
    have hp : (((s.setDraws n).setOut f.port ((s.port f.port).out.fill (a.frameOf f d))).port f.port) =
        { s.port f.port with out := (s.port f.port).out.fill (a.frameOf f d) } := by
      simp [State.setOut]
    rw [hp]
    rcases (s.port f.port).out.fill_spec (a.frameOf f d) with ⟨hf, ⟨_, h1, h2⟩ | ⟨_, h1⟩⟩
    · refine ⟨(s.port f.port).out.reserved - 1, [a.frameOf f d], ?_, fun h => absurd rfl h, le_of_eq hf⟩
      rw [← h1, ← h2]
    · rw [h1]
      exact ⟨_, [], by simp, fun _ => rfl, le_refl _⟩
  · have hp : (((s.setDraws n).setOut f.port ((s.port f.port).out.fill (a.frameOf f d))).port q) = s.port q := by
      rw [show ((s.setDraws n).setOut f.port ((s.port f.port).out.fill (a.frameOf f d))).port q = (s.setDraws n).port q from
        State.setPort_other _ _ _ _ hq]
      simp
    rw [hp]
    exact ⟨_, [], by simp, fun _ => rfl, le_refl _⟩

/-! ## Taking a frame -/

/-- The parts a job may change (section 10.2). -/
def Part.jobParts : List Part :=
  [.stock, .acc, .bags, .drawers, .orders, .safe, .sessions, .tallies, .ring, .call, .floor, .room, .events]

theorem job_leaves (k : JobKind) (f : Taken) (s : State) : unchangedBut Part.jobParts s (k.job f s).1 := by
  cases k
  case tender => exact unchangedBut_mono (tenderJob_leaves f s) (by decide)
  case refund => exact unchangedBut_mono (refundJob_leaves f s) (by decide)
  case pickup => exact unchangedBut_mono (pickupJob_leaves f s) (by decide)
  case cashup => exact unchangedBut_mono (cashupJob_leaves f s) (by decide)
  case declare => exact unchangedBut_mono (declareJob_leaves f s) (by decide)
  case floatReceipt => exact unchangedBut_mono (floatReceiptJob_leaves f s) (by decide)
  case tillOpen => exact unchangedBut_mono (tillOpenJob_leaves f s) (by decide)
  case drop => exact unchangedBut_mono (dropJob_leaves f s) (by decide)
  case withdraw => exact unchangedBut_mono (withdrawJob_leaves f s) (by decide)
  case deposit => exact unchangedBut_mono (depositJob_leaves f s) (by decide)
  case door =>
    show unchangedBut _ s (doorJob f s).1
    unfold doorJob
    split
    · exact unchangedBut_mono (doorClosedJob_leaves f s) (by decide)
    · exact unchangedBut_mono (doorOpenJob_leaves f s) (by decide)
  case openRequest => exact unchangedBut_mono (openRequestJob_leaves f s) (by decide)
  case openConfirm => exact unchangedBut_mono (openConfirmJob_leaves f s) (by decide)
  case openCancel => exact unchangedBut_mono (openCancelJob_leaves f s) (by decide)
  case makeUp =>
    show unchangedBut _ s (makeUpJob f s).1
    unfold makeUpJob
    split
    · exact unchangedBut_mono (makeUpConsignmentJob_leaves f s) (by decide)
    · exact unchangedBut_mono (makeUpFloatJob_leaves f s) (by decide)
  case restock => exact unchangedBut_mono (restockJob_leaves f s) (by decide)
  case bagOpen => exact unchangedBut_mono (bagOpenJob_leaves f s) (by decide)
  case batch => exact unchangedBut_mono (batchJob_leaves f s) (by decide)
  case bagClose => exact unchangedBut_mono (bagCloseJob_leaves f s) (by decide)
  case countAbort => exact unchangedBut_mono (countAbortJob_leaves f s) (by decide)
  case handKey => exact unchangedBut_mono (handKeyJob_leaves f s) (by decide)
  case announce => exact unchangedBut_mono (announceJob_leaves f s) (by decide)
  case load => exact unchangedBut_mono (loadJob_leaves f s) (by decide)
  case receive => exact unchangedBut_mono (receiveJob_leaves f s) (by decide)
  case sign => exact unchangedBut_mono (signJob_leaves f s) (by decide)

/-- A frame that steps 1 to 6 refuse changes nothing, but for an OPEN_CONFIRM that fails its witness marks (R90, R173). -/
theorem decideFrame_leaves (f : Taken) (s : State) : unchangedBut Part.jobParts s (decideFrame f s).1 := by
  unfold decideFrame
  split
  · exact unchangedBut_refl _ s
  · unfold witnessAndRun
    split
    · exact job_leaves _ f s
    · split
      · exact job_leaves _ _ s
      · split
        · exact unchangedBut_mono (confirmFailed_leaves _ s) (by decide)
        · exact unchangedBut_refl _ s

theorem takeFrame_leaves (f : Taken) (s : State) : unchangedBut (Part.jobParts ++ [.uplink, .draws]) s (takeFrame f s) := by
  unfold takeFrame
  split
  · exact unchangedBut_mono (fillEnvelope_leaves _ _ s) (by decide)
  · exact unchangedBut_mono (unchangedBut_trans (unchangedBut_trans (decideFrame_leaves f s) (fillAnswer_leaves f _ _))
      (fillEnvelope_leaves f _ _)) (by cases f.port <;> decide)

theorem takeFrame_fills (f : Taken) (s : State) : PortsFill f.port s (takeFrame f s) := by
  unfold takeFrame
  split
  · exact PortsFill.of_grow _ (PortsGrow.of_leaves (fillEnvelope_leaves _ _ s) (by decide) (by decide))
  · exact PortsFill.trans (PortsFill.trans (PortsFill.of_grow _ (decideFrame_grows f s)) (fillAnswer_fills f _ _))
      (PortsFill.of_grow _ (PortsGrow.of_leaves (fillEnvelope_leaves f _ _) (by decide) (by decide)))

theorem takeFrame_placeable (f : Taken) (s : State) : commandPlaceable (takeFrame f s) = true → commandPlaceable s = true := by
  unfold takeFrame
  split
  · exact id
  · intro h
    refine decideFrame_placeable f s ?_
    refine commandPlaceable_mono ?_ ?_ ?_ h
    · have := fillAnswer_leaves f (decideFrame f s).2 (decideFrame f s).1 .safe (by cases f.port <;> decide)
      show (fillAnswer f (decideFrame f s).2 (decideFrame f s).1).safe.owed = true → _
      rw [this]
      exact id
    · obtain ⟨_, _, _, _, hf⟩ := fillAnswer_fills f (decideFrame f s).2 (decideFrame f s).1 .room
      exact hf
    · exact fillAnswer_leaves f (decideFrame f s).2 (decideFrame f s).1 .nodes (by cases f.port <;> decide)

theorem takeFrame_waiting (f : Taken) (s : State) : waitingPlaceable (takeFrame f s) = waitingPlaceable s := by
  have hl := takeFrame_leaves f s
  have hd : ∀ q : Port, ((takeFrame f s).port q).down = (s.port q).down := by
    intro q
    obtain ⟨r, m, e, _⟩ := takeFrame_fills f s q
    rw [e]
  exact waitingPlaceable_congr (by rw [hl .trunk (by decide)]) (by rw [hl .trunk (by decide)]) (hd .floor) (hd .room)
    (hl .nodes (by decide))

/-- The uplink queue keeps its envelopes and at most takes one more (R176). -/
theorem takeFrame_uplink (f : Taken) (s : State) :
    ∃ stamp, (takeFrame f s).uplink =
      s.uplink.fill { port := f.port, second := s.seconds, stamp := stamp, marks := f.marks, frame := f.frame } := by
  unfold takeFrame
  split
  · exact ⟨.accepted, rfl⟩
  · have h1 := unchangedBut_trans (decideFrame_leaves f s) (fillAnswer_leaves f (decideFrame f s).2 (decideFrame f s).1)
    have hu : (fillAnswer f (decideFrame f s).2 (decideFrame f s).1).uplink = s.uplink := h1 .uplink (by cases f.port <;> decide)
    have ht : (fillAnswer f (decideFrame f s).2 (decideFrame f s).1).seconds = s.seconds := h1 .seconds (by cases f.port <;> decide)
    refine ⟨(decideFrame f s).2.stamp, ?_⟩
    show (fillEnvelope f _ (fillAnswer f (decideFrame f s).2 (decideFrame f s).1)).uplink = _
    unfold fillEnvelope
    rw [State.setUplink_uplink, hu, ht]

/-! ## The frame commands -/

/-- A frame command either finds no marked frame of its kind and leaves the state, or ends the frame's window and takes it (R156, log entry 1). -/
theorem deliver_cases (p : Port) (isKind : LineFrame → Bool) (s : State) :
    deliver p isKind s = .next s ∨
    ∃ w, (s.port p).rx = .markWindow w ∧ w.answer = .marked ∧ isKind w.frame = true ∧
      deliver p isKind s = .next (settle s (takeFrame (w.taken p) (s.setRx p .idle))) := by
  unfold deliver
  split
  · rename_i w hw
    split
    · rename_i h
      exact .inr ⟨w, hw, h.1, h.2, rfl⟩
    · exact .inl rfl
  · exact .inl rfl

theorem deliver_marked {p : Port} {isKind : LineFrame → Bool} {s : State} {w : Window} (h : (s.port p).rx = .markWindow w)
    (hm : w.answer = .marked) (hk : isKind w.frame = true) :
    deliver p isKind s = .next (settle s (takeFrame (w.taken p) (s.setRx p .idle))) := by
  unfold deliver
  rw [h]
  simp only [hm, hk, and_self, if_true]
  rfl

theorem setRx_placeable (s : State) (p : Port) (rx : Receiver) : commandPlaceable (s.setRx p rx) = commandPlaceable s :=
  commandPlaceable_congr (by simp) (by cases p <;> rfl) (by simp)

theorem setRx_waiting (s : State) (p : Port) (rx : Receiver) : waitingPlaceable (s.setRx p rx) = waitingPlaceable s :=
  waitingPlaceable_congr (by simp) (by simp) (by cases p <;> rfl) (by cases p <;> rfl) (by simp)

/-- The end of a frame's taking is the closing test and the events: a frame frees no place for an owed command or a waiting SEND. -/
theorem settle_frame (s : State) (p : Port) (f : Taken) :
    settle s (takeFrame f (s.setRx p .idle)) = settleEvents (testReports s (takeFrame f (s.setRx p .idle))) := by
  refine settle_tested (fun h => ?_) (fun h => ?_)
  · have := takeFrame_placeable _ _ h
    rwa [setRx_placeable] at this
  · rw [takeFrame_waiting, setRx_waiting] at h
    exact h

/-- Outside CLOSING a frame completes no close. -/
theorem testReports_frame (s : State) (p : Port) (f : Taken) (h : s.day.state ≠ .closing) :
    testReports s (takeFrame f (s.setRx p .idle)) = takeFrame f (s.setRx p .idle) := by
  have hd : (takeFrame f (s.setRx p .idle)).day = s.day := by
    rw [takeFrame_leaves f _ .day (by decide)]
    simp
  rcases testReports_spec s (takeFrame f (s.setRx p .idle)) with e | ⟨k, _⟩
  · exact e
  · rw [hd] at k
    exact absurd k h

/-- The end of a frame's taking keeps the ports as the frame left them. -/
theorem settle_frame_port (s : State) (p q : Port) (f : Taken) :
    (settle s (takeFrame f (s.setRx p .idle))).port q = (takeFrame f (s.setRx p .idle)).port q := by
  rw [settle_frame]
  have h := unchangedBut_trans (testReports_leaves s (takeFrame f (s.setRx p .idle))) (settleEvents_leaves _)
  cases q
  · exact h .floor (by decide)
  · exact h .room (by decide)

/-- What every frame command leaves alone, by what its deciding leaves alone: the shape of `FrameLeaves`. -/
theorem frame_leaves {c : Port → Instr} {isKind : LineFrame → Bool} {parts : List Part} {events : List Event}
    (hc : ∀ p s, exec (c p) s = deliver p isKind s)
    (hp : ∀ f s, isKind f.frame = true → opaqueKind f.frame.kind = false → unchangedBut (parts ++ Part.answerParts) s (decideFrame f s).1)
    (he : ∀ f s, isKind f.frame = true → opaqueKind f.frame.kind = false → eventsBut events s (decideFrame f s).1) :
    FrameLeaves c parts events := by
  intro p s t ht
  rw [hc] at ht
  rcases deliver_cases p isKind s with e | ⟨w, hw, hm, hk, e⟩
  · rw [e] at ht
    cases ht
    exact ⟨unchangedBut_refl _ s, eventsBut_refl _ s, fun q => ⟨rfl, rfl, rfl, rfl, fun _ => rfl, [], by simp⟩, [], by simp⟩
  · rw [e] at ht
    cases ht
    have hr := setRx_leaves p .idle s
    have hl : unchangedBut (parts ++ Part.answerParts) s (takeFrame (w.taken p) (s.setRx p .idle)) := by
      refine unchangedBut_comp (unchangedBut_mono hr (by cases p <;> simp [Part.ofPort, Part.answerParts])) ?_
      unfold takeFrame
      split
      · exact unchangedBut_mono (fillEnvelope_leaves _ _ _) (by simp [Part.answerParts])
      · rename_i ho
        refine unchangedBut_comp (hp (w.taken p) _ hk (by simpa using ho)) ?_
        refine unchangedBut_mono (unchangedBut_trans (fillAnswer_leaves (w.taken p) _ _) (fillEnvelope_leaves (w.taken p) _ _)) ?_
        cases p <;> simp [Part.ofPort, Part.answerParts, Window.taken]
    have hv : eventsBut events s (takeFrame (w.taken p) (s.setRx p .idle)) := by
      refine eventsBut_comp (eventsBut_of_leaves _ hr (by cases p <;> decide)) ?_
      unfold takeFrame
      split
      · exact eventsBut_of_leaves _ (fillEnvelope_leaves _ _ _) (by decide)
      · rename_i ho
        refine eventsBut_comp (he (w.taken p) _ hk (by simpa using ho)) ?_
        refine eventsBut_of_leaves _ (unchangedBut_trans (fillAnswer_leaves (w.taken p) _ _) (fillEnvelope_leaves (w.taken p) _ _)) ?_
        cases p <;> simp [Part.ofPort, Window.taken]
    refine ⟨?_, ?_, ?_, ?_⟩
    · rw [settle_frame]
      by_cases hd : s.day.state = .closing
      · refine unchangedBut_mono (unchangedBut_trans (unchangedBut_trans hl (testReports_leaves s _)) (settleEvents_leaves _)) ?_
        simp [closingParts, hd, Part.answerParts, Part.eventParts]
        tauto
      · rw [testReports_frame s p _ hd]
        refine unchangedBut_mono (unchangedBut_trans hl (settleEvents_leaves _)) ?_
        simp [closingParts, hd, Part.answerParts, Part.eventParts]
        tauto
    · rw [settle_frame]
      by_cases hd : s.day.state = .closing
      · refine eventsBut_mono (eventsBut_trans (eventsBut_trans hv (testReports_events s _)) (settleEvents_events _)) ?_
        simp [closingEvents, hd]
      · rw [testReports_frame s p _ hd]
        refine eventsBut_mono (eventsBut_trans hv (settleEvents_events _)) ?_
        simp [closingEvents, hd]
    · intro q
      rw [settle_frame_port]
      obtain ⟨r, more, hq, hr', _⟩ := takeFrame_fills (w.taken p) (s.setRx p .idle) q
      rw [hq]
      by_cases hpq : p = q
      · subst hpq
        exact ⟨by simp, by simp [State.setRx], by simp, by simp, fun h => absurd rfl h, more, by simp⟩
      · have : (s.setRx p .idle).port q = s.port q := State.setPort_other s p q _ hpq
        rw [this]
        exact ⟨rfl, rfl, rfl, rfl, fun _ => rfl, more, rfl⟩
    · rw [settle_frame]
      have hu : (settleEvents (testReports s (takeFrame (w.taken p) (s.setRx p .idle)))).uplink =
          (takeFrame (w.taken p) (s.setRx p .idle)).uplink :=
        unchangedBut_trans (testReports_leaves s _) (settleEvents_leaves _) .uplink (by decide)
      obtain ⟨stamp, he⟩ := takeFrame_uplink (w.taken p) (s.setRx p .idle)
      rw [hu, he, State.setRx_uplink]
      rcases s.uplink.fill_spec { port := (w.taken p).port, second := (s.setRx p .idle).seconds, stamp := stamp, marks := (w.taken p).marks, frame := (w.taken p).frame } with ⟨_, e⟩ | ⟨_, e⟩
      · rw [e]
        exact ⟨_, rfl⟩
      · rw [e]
        exact ⟨[], by simp⟩

end Sys2Proof.Machine
end

