-- ==== Sys2Proof/Laws/Answers.lean ====
section
/-! SUPPORT. The frame that is answered: one lemma for a marked frame that a VERDICT decides, and from it one for each way of changing nothing but the
answer (a refusal, a till frame refused at step 6, a count frame with nothing to do). A statement about such a frame then needs its job rule alone. -/

namespace Sys2Proof.Machine

/-- Steps 1 to 5 do not read the receiver. -/
theorem inspectForm_setRx (f : Taken) (s : State) (p : Port) (rx : Receiver) : inspectForm f (s.setRx p rx) = inspectForm f s := by
  cases p <;> rfl

/-- The witness pair does not depend on the receiver. -/
theorem witnessPair_setRx (f : Taken) (s : State) (p : Port) (rx : Receiver) (v : Witness) :
    witnessPair (s.setRx p rx) v f = witnessPair s v f := by
  have hs : ∀ b r, serves (s.setRx p rx) f b r = serves s f b r := by cases p <;> exact fun _ _ => rfl
  have hc : candidates (s.setRx p rx) f = candidates s f := by cases p <;> rfl
  have h : ∀ cs l, choosePair (s.setRx p rx) v f cs l = choosePair s v f cs l := by
    intro cs l
    induction l with
    | nil => rfl
    | cons a l ih => simp only [choosePair, hs, ih]
  unfold witnessPair
  rw [hc, h]

/-- A frame that passes steps 1 to 5 as a kind has that kind's code, and is not opaque (R171, R173). -/
theorem inspectForm_ok {f : Taken} {s : State} {k : JobKind} (h : inspectForm f s = .ok k) :
    f.frame.kind = k.byte ∧ opaqueKind f.frame.kind = false := by
  unfold inspectForm at h
  split at h
  · cases h
  · split at h
    · cases h
    · rename_i k' hk
      have e : k' = k := by
        repeat' split at h
        all_goals first | cases h; rfl | cases h
      subst e
      have hb : f.frame.kind = k'.byte := by
        have := List.find?_some hk
        exact (by simpa using this : k'.byte = f.frame.kind).symm
      exact ⟨hb, by rw [hb]; cases k' <;> decide⟩

/-- A frame taken as a kind is decided by that kind's job rule, with its witness pair (R173, R174). -/
theorem decideFrame_takenAs {s : State} {p : Port} {w : Window} {k : JobKind} {pair : Option (Byte × Byte)}
    (h : TakenAs s p w k pair) :
    decideFrame (w.taken p) (s.setRx p .idle) = k.job { w.taken p with pair := pair } (s.setRx p .idle) := by
  obtain ⟨_, hf, hg⟩ := h
  unfold decideFrame
  rw [inspectForm_setRx, hf]
  show witnessAndRun k (w.taken p) (s.setRx p .idle) = _
  unfold witnessAndRun
  revert hg
  cases k.guardRow with
  | none =>
    intro hg
    rw [hg]
    rfl
  | some i =>
    rintro ⟨q, rfl, hq⟩
    simp only [witnessPair_setRx, State.setRx_witness, hq]

/-- What the closing test reads. -/
theorem closeInputs_congr {s t : State} (hd : t.drawers = s.drawers) (hx : t.sessions = s.sessions) (hc : t.call = s.call)
    (hb : t.bags = s.bags) (hs : t.safe = s.safe) : closeInputs t = closeInputs s := by
  unfold closeInputs
  rw [hd, hx, hc, hb, hs]

/-- What a marked frame does that is decided by a VERDICT, where deciding it changes neither the ports, the uplink, the clocks nor what the closing
test reads: on the state that deciding leaves, the answer and the envelope, and nothing else but the events' end of a taking (R145, R175, R176). -/
theorem frame_answered {c : Port → Instr} {isKind : LineFrame → Bool} {ex : List Part} {s s' : State} {p : Port} {w : Window}
    {code : Code} {d : Option Word32} (hc : ∀ p s, exec (c p) s = deliver p isKind s) (hm : MarkedAt s p w)
    (hk : isKind w.frame = true) (ho : opaqueKind w.frame.kind = false)
    (hd : decideFrame (w.taken p) (s.setRx p .idle) = (s', .verdict code d))
    (hl : unchangedBut ex (s.setRx p .idle) s') (hx : ∀ b ∈ [Part.floor, .room, .uplink, .seconds, .day], b ∉ ex)
    (hi : closeInputs s' = closeInputs s) :
    ∃ u, exec (c p) s = .next u ∧ unchangedBut Part.answerParts s' u ∧ eventsBut [] s' u ∧ Answered s u p w code d := by
  obtain ⟨hrx, hans, hup, hout⟩ := hm
  have hport : s'.port p = { s.port p with rx := .idle } := by
    have : s'.port p = (s.setRx p .idle).port p := by
      cases p
      · exact hl .floor (hx _ (by decide))
      · exact hl .room (hx _ (by decide))
    rw [this]
    cases p <;> rfl
  have hul : s'.uplink = s.uplink := by rw [show s'.uplink = _ from hl .uplink (hx _ (by decide))]; simp
  have hsec : s'.seconds = s.seconds := by rw [show s'.seconds = _ from hl .seconds (hx _ (by decide))]; simp
  have hday : s'.day = s.day := by rw [show s'.day = _ from hl .day (hx _ (by decide))]; simp
  let a : Answer := .verdict code d
  have ht : takeFrame (w.taken p) (s.setRx p .idle) = answerAndRelay (w.taken p) a s' := by
    unfold takeFrame
    rw [show opaqueKind (w.taken p).frame.kind = false from ho, hd]
    rfl
  have hv : unchangedBut [Part.ofPort p, .draws, .uplink] s' (answerAndRelay (w.taken p) a s') :=
    unchangedBut_mono (unchangedBut_trans (fillAnswer_leaves (w.taken p) a s') (fillEnvelope_leaves (w.taken p) a.stamp _))
      (by simp [Window.taken])
  have hci : closeInputs (answerAndRelay (w.taken p) a s') = closeInputs s := by
    rw [← hi]
    exact closeInputs_congr (hv .drawers (by cases p <;> decide)) (hv .sessions (by cases p <;> decide)) (hv .call (by cases p <;> decide))
      (hv .bags (by cases p <;> decide)) (hv .safe (by cases p <;> decide))
  have hset : settle s (takeFrame (w.taken p) (s.setRx p .idle)) = settleEvents (answerAndRelay (w.taken p) a s') := by
    rw [settle_frame]
    by_cases h : s.day.state = .closing
    · rw [ht]
      unfold testReports
      rw [if_pos ⟨h, hci.symm⟩]
    · rw [testReports_frame s p _ h, ht]
  refine ⟨settleEvents (answerAndRelay (w.taken p) a s'), ?_, ?_, ?_, ?_⟩
  · rw [hc, deliver_marked hrx hans hk, hset]
  · refine unchangedBut_mono (unchangedBut_trans hv (settleEvents_leaves _)) ?_
    cases p <;> simp [Part.ofPort, Part.answerParts, Part.eventParts]
  · exact eventsBut_comp (eventsBut_of_leaves _ hv (by cases p <;> decide)) (settleEvents_events _)
  · have hs := settleEvents_leaves (answerAndRelay (w.taken p) a s')
    have hp' : (settleEvents (answerAndRelay (w.taken p) a s')).port p = (answerAndRelay (w.taken p) a s').port p := by
      cases p
      · exact hs .floor (by decide)
      · exact hs .room (by decide)
    have hu' : (settleEvents (answerAndRelay (w.taken p) a s')).uplink = (answerAndRelay (w.taken p) a s').uplink := hs .uplink (by decide)
    obtain ⟨n, x, hfa, hx⟩ := fillAnswer_spec (w.taken p) a s'
    have he : (answerAndRelay (w.taken p) a s').port p =
        { s.port p with rx := .idle, out := (s.port p).out.fill (a.frameOf (w.taken p) x) } := by
      show (fillEnvelope _ _ (fillAnswer (w.taken p) a s')).port p = _
      rw [hfa]
      unfold fillEnvelope
      have : (s'.port p).out = (s.port p).out := by rw [hport]
      cases p <;> simp_all [Window.taken, State.port, State.setOut, State.setPort]
    have hf : ∃ r, (s.port p).out.fill (a.frameOf (w.taken p) x) =
        { reserved := r, filled := (s.port p).out.filled ++ [a.frameOf (w.taken p) x] } := by
      have := hout ho
      unfold OutQueue.fill
      rw [if_neg (by omega)]
      exact ⟨_, rfl⟩
    obtain ⟨r, hf⟩ := hf
    have huf : (answerAndRelay (w.taken p) a s').uplink.filled = s.uplink.filled ++
        [{ port := p, second := s.seconds, stamp := a.stamp, marks := w.marks, frame := w.frame }] := by
      have h1 : (fillAnswer (w.taken p) a s').uplink = s.uplink := by rw [hfa]; simp [hul]
      have h2 : (fillAnswer (w.taken p) a s').seconds = s.seconds := by rw [hfa]; simp [hsec]
      show (fillEnvelope _ _ (fillAnswer (w.taken p) a s')).uplink.filled = _
      unfold fillEnvelope
      rw [State.setUplink_uplink, h1, h2]
      unfold Uplink.fill
      rw [if_neg (by omega)]
      rfl
    refine ⟨⟨(s.port p).out.filled, x, ?_, fun y hy => hx y hy ⟨code, by rw [← hy]⟩⟩, ?_, ?_⟩
    · rw [hp', he, hf]
      rfl
    · rw [hp', he]
    · rw [hu', huf]
      rfl

/-- A frame whose job rule answers without a change is refused, and changes nothing (R173). -/
theorem refused_of_job {c : Port → Instr} {isKind : LineFrame → Bool} {s : State} {p : Port} {w : Window} {k : JobKind}
    {pair : Option (Byte × Byte)} {code : Code} {d : Option Word32} (hc : ∀ p s, exec (c p) s = deliver p isKind s)
    (h : TakenAs s p w k pair) (hk : isKind w.frame = true)
    (hj : k.job { w.taken p with pair := pair } (s.setRx p .idle) = (s.setRx p .idle, .verdict code d)) :
    RefusedFrame c s p w code d := by
  have hi := inspectForm_ok h.2.1
  obtain ⟨u, hu, hl, he, ha⟩ := frame_answered (ex := []) hc h.1 hk hi.2 ((decideFrame_takenAs h).trans hj)
    (unchangedBut_refl _ _) (by simp) (closeInputs_congr (by simp) (by simp) (by simp) (by simp) (by simp))
  have hr := setRx_leaves p .idle s
  refine ⟨u, hu, ?_, ?_, ha⟩
  · exact unchangedBut_comp (unchangedBut_mono hr (by cases p <;> simp [Part.ofPort, Part.answerParts])) hl
  · exact eventsBut_comp (eventsBut_of_leaves _ hr (by cases p <;> decide)) he

/-- Rows replaced by rows that look the same through `f`. -/
theorem put_map_same {α β : Type} {n : Nat} (f : α → β) (v : Vector α n) (i : Fin n) (x : α) (h : f x = f v[i]) :
    (put v i x).toList.map f = v.toList.map f := by
  apply List.ext_getElem (by simp)
  intro k h1 h2
  have hk : k < n := by simpa using h2
  simp only [List.getElem_map, Vector.getElem_toList, put_getElem]
  split
  · subst_vars; exact h
  · rfl

/-- The state in which a till frame reaches steps 5 and 6: the gap raised, the sequence number and the CRC field recorded (R44, R45). -/
def tillDecided (s : State) (p : Port) (t : Fin 160) (q gap : Nat) (crc : Word16) : State :=
  recordSequence t q crc (raiseGap t gap (s.setRx p .idle))

/-- The same state, with the rows of the drawers written out. -/
theorem tillDecided_eq (s : State) (p : Port) (t : Fin 160) (q gap : Nat) (crc : Word16) :
    tillDecided s p t q gap crc = ((raiseGap t gap (s.setRx p .idle)).setDrawers
      (put s.drawers t { s.drawers[t] with lastSeq := some q, lastCrc := some crc })) := by
  have : (raiseGap t gap (s.setRx p .idle)).drawers = s.drawers := by
    rw [raiseGap_leaves t gap _ .drawers (by decide)]
    simp
  unfold tillDecided recordSequence setDrawer
  rw [this]

/-- A till frame that passes steps 1 to 5 of R44 is decided by step 6, on the state that records its sequence. -/
theorem tillFrame_decided {α : Type} {k : JobKind} {parsed : Option α} {seq : α → Option Nat} {copy : Fin 160 → State → Answer}
    {job : Fin 160 → α → State → State × Answer} {s : State} {p : Port} {w : Window} {pair : Option (Byte × Byte)} {t : Fin 160} {a : α}
    {q gap : Nat} (ht : TillApplies s w k t) (hp : parsed = some a) (hq : seq a = some q)
    (hs : sequenceCheck s.drawers[t] q w.crc = .passes gap) :
    tillFrame k parsed seq copy job { w.taken p with pair := pair } (s.setRx p .idle) = job t a (tillDecided s p t q gap w.crc) := by
  obtain ⟨⟨h1, h2, h3, h4⟩, h5⟩ := ht
  have htill : tillOf (s.setRx p .idle) w.frame.src = t := by rw [← h1]; cases p <;> rfl
  have hb : badgeMissing k s.tills[t] w.marks = false := by
    unfold badgeMissing
    cases hn : needsBadge k
    · simp
    · rcases h4 hn with e | e
      · rw [e]; simp
      · have : w.marks.contains s.tills[t].badge = true := by simpa using e
        rw [this]
        simp
  subst hp
  unfold tillFrame
  simp only [Window.taken, htill]
  have e1 : (s.setRx p .idle).tills = s.tills := by simp
  have e2 : (s.setRx p .idle).drawers = s.drawers := by simp
  rw [e1, e2, h2, h3, hb, hq]
  simp only [decide_true, Bool.and_self, Bool.not_true, Bool.false_eq_true, if_false, hs]
  unfold tillSteps56
  have hd : (recordSequence t q w.crc (raiseGap t gap (s.setRx p .idle))).drawers[t].state = s.drawers[t].state := by
    have := tillDecided_eq s p t q gap w.crc
    unfold tillDecided at this
    rw [this]
    simp
  have hy : (recordSequence t q w.crc (raiseGap t gap (s.setRx p .idle))).day = s.day := by
    rw [recordSequence_leaves t q w.crc _ .day (by decide), raiseGap_leaves t gap _ .day (by decide)]
    simp
  rw [hd, hy, if_pos h5]
  rfl

/-- Where no event may be raised, a direct event is as it was. -/
theorem event_of_eventsBut {s t : State} {e : Event} (h : eventsBut [] s t) (hi : e.indirect = false) : t.event e = s.event e := by
  have h1 := h.1 e
  have h2 := h.2 e (by simp)
  have h3 := h2.2.2 hi
  cases ht : t.event e
  cases hs : s.event e
  rw [ht, hs] at h1 h2 h3
  simp_all

/-- A till frame that step 6 refuses (R44, R45, R59). -/
theorem refused_till {c : Port → Instr} {isKind : LineFrame → Bool} {s : State} {p : Port} {w : Window} {k : JobKind}
    {pair : Option (Byte × Byte)} {t : Fin 160} {q gap : Nat} {code : Code} {d : Option Word32}
    (hc : ∀ p s, exec (c p) s = deliver p isKind s) (h : TakenAs s p w k pair) (hk : isKind w.frame = true)
    (hj : k.job { w.taken p with pair := pair } (s.setRx p .idle) = (tillDecided s p t q gap w.crc, .verdict code d)) :
    RefusedTillFrame c s p w t q gap code d := by
  have hi := inspectForm_ok h.2.1
  have hr := setRx_leaves p .idle s
  have hl : unchangedBut [.events, .drawers] (s.setRx p .idle) (tillDecided s p t q gap w.crc) :=
    unchangedBut_mono (unchangedBut_trans (raiseGap_leaves t gap _) (recordSequence_leaves t q w.crc _)) (by simp)
  have hdr : (tillDecided s p t q gap w.crc).drawers = put s.drawers t { s.drawers[t] with lastSeq := some q, lastCrc := some w.crc } := by
    rw [tillDecided_eq]; rfl
  have hci : closeInputs (tillDecided s p t q gap w.crc) = closeInputs s := by
    unfold closeInputs
    rw [hdr, put_map_same (fun d : Drawer => d.state) s.drawers t { s.drawers[t] with lastSeq := some q, lastCrc := some w.crc } rfl,
      hl .sessions (by decide), hl .call (by decide), hl .bags (by decide), hl .safe (by decide)]
    simp
  obtain ⟨u, hu, hlu, he, ha⟩ := frame_answered hc h.1 hk hi.2 ((decideFrame_takenAs h).trans hj) hl (by decide) hci
  have hev : (tillDecided s p t q gap w.crc).events = (raiseGap t gap (s.setRx p .idle)).events := by
    rw [tillDecided_eq]; rfl
  refine ⟨u, hu, ?_, ?_, ?_, ?_, ha⟩
  · refine unchangedBut_mono (unchangedBut_trans (unchangedBut_trans hr hl) hlu) ?_
    cases p <;> decide
  · refine eventsBut_mono (eventsBut_trans (eventsBut_trans (eventsBut_of_leaves [] hr (by cases p <;> decide))
      (ey := [.sequenceGap]) ?_) he) (by simp)
    refine eventsBut_comp ?_ (eventsBut_of_same _ hev)
    unfold raiseGap
    exact eventsBut_ite (eventsBut_refl _ _) (raiseNum_events _ _ _)
  · rw [hlu .drawers (by decide), hdr]
  · rw [event_of_eventsBut he rfl]
    have : ∀ e, (tillDecided s p t q gap w.crc).event e = (raiseGap t gap (s.setRx p .idle)).event e := fun e => by
      unfold State.event; rw [hev]
    rw [this]
    have hse : ∀ e, (s.setRx p .idle).event e = s.event e := fun e => by unfold State.event; simp
    unfold raiseGap raisedIf
    by_cases hg : gap = 0
    · rw [if_pos hg, if_neg (by simp [hg]), hse]
    · rw [if_neg hg, if_pos (by simp [hg])]
      unfold raiseNum
      rw [raise_event, if_pos rfl, hse]

/-- A count frame whose job answers with no change but the restart of a COUNTING session's idle timer (R103). -/
theorem counts_nothing {c : Port → Instr} {isKind : LineFrame → Bool} {s : State} {p : Port} {w : Window} {k : JobKind}
    {pair : Option (Byte × Byte)} {x : Fin 4} {code : Code} {d : Option Word32} {acts : Prop}
    (hc : ∀ p s, exec (c p) s = deliver p isKind s) (h : TakenAs s p w k pair) (hk : isKind w.frame = true)
    (hcount : acts → s.sessions[x].state = .counting)
    (h1 : acts → k.job { w.taken p with pair := pair } (s.setRx p .idle) = (restartIdle x (s.setRx p .idle), .verdict code d))
    (h2 : ¬acts → k.job { w.taken p with pair := pair } (s.setRx p .idle) = (s.setRx p .idle, .verdict code d)) :
    CountsNothing c s p w x acts code d := by
  refine ⟨fun ha => ?_, fun ha => refused_of_job hc h hk (h2 ha)⟩
  have hi := inspectForm_ok h.2.1
  have hr := setRx_leaves p .idle s
  have hl := restartIdle_leaves x (s.setRx p .idle)
  have hse : (restartIdle x (s.setRx p .idle)).sessions =
      put s.sessions x { s.sessions[x] with timer := some (s.seconds + s.timing.idleTimeout) } := by
    unfold restartIdle
    have e : (s.setRx p .idle).sessions = s.sessions := by simp
    rw [e, if_pos (hcount ha)]
    show put (s.setRx p .idle).sessions x _ = _
    simp [idleDeadline]
  have hci : closeInputs (restartIdle x (s.setRx p .idle)) = closeInputs s := by
    unfold closeInputs
    rw [hse, put_map_same (fun v : Session => v.state) s.sessions x { s.sessions[x] with timer := some (s.seconds + s.timing.idleTimeout) } rfl,
      hl .drawers (by decide), hl .call (by decide), hl .bags (by decide), hl .safe (by decide)]
    simp
  obtain ⟨u, hu, hlu, he, hans⟩ := frame_answered hc h.1 hk hi.2 ((decideFrame_takenAs h).trans (h1 ha)) hl (by decide) hci
  refine ⟨u, hu, ?_, ?_, ?_, hans⟩
  · refine unchangedBut_mono (unchangedBut_trans (unchangedBut_trans hr hl) hlu) ?_
    cases p <;> decide
  · exact eventsBut_comp (eventsBut_of_leaves _ (unchangedBut_trans hr hl) (by cases p <;> decide)) he
  · rw [hlu .sessions (by decide), hse]

/-- A frame taken as a job passes that job's test. -/
theorem isJob_of_takenAs {s : State} {p : Port} {w : Window} {k : JobKind} {pair} (h : TakenAs s p w k pair) : isJob k w.frame = true := by
  have := (inspectForm_ok h.2.1).1
  unfold isJob
  exact beq_iff_eq.mpr this

/-- A refusal whose job rule reads nothing but what the receiver leaves alone. -/
theorem refused_of_leaves {c : Port → Instr} {isKind : LineFrame → Bool} {s : State} {p : Port} {w : Window} {k : JobKind}
    {pair : Option (Byte × Byte)} {code : Code} {d : Option Word32} (hc : ∀ p s, exec (c p) s = deliver p isKind s)
    (h : TakenAs s p w k pair) (hk : isKind w.frame = true)
    (hj : ∀ s0 : State, unchangedBut [Part.ofPort p] s s0 → k.job { w.taken p with pair := pair } s0 = (s0, .verdict code d)) :
    RefusedFrame c s p w code d := refused_of_job hc h hk (hj _ (setRx_leaves p .idle s))

/-- The register's refusal of a create, as its check answers it (R25). -/
theorem createCheck_of_refused {s : State} {n v : Nat} {c : Code} (h : CreateRefused s n v c) : createCheck s n v = some c := by
  unfold createCheck
  rcases h with ⟨rfl, h⟩ | ⟨rfl, h1, h2⟩ | ⟨h1, h2, h3, ⟨rfl, h4⟩ | ⟨rfl, h4, h5⟩⟩
  · rcases h with rfl | rfl
    · simp
    · split <;> simp
  · rw [if_neg h1, if_neg (by omega), if_pos (by simpa [Config.topBagValue] using h2)]
  · rw [if_neg h1, if_neg h2, if_neg (by simp [Config.topBagValue]; omega), if_pos (Option.isSome_iff_ne_none.mpr h4)]
  · rw [if_neg h1, if_neg h2, if_neg (by simp [Config.topBagValue]; omega), if_neg (by simp [h4]), if_pos (by simpa [Config.bagCapacity] using h5)]

/-- The check of a create reads the register alone. -/
theorem createCheck_congr {s t : State} (h : t.bags = s.bags) (n v : Nat) : createCheck t n v = createCheck s n v := by
  unfold createCheck; rw [findBag_congr h, h]

theorem tillDecided_bags (s : State) (p : Port) (t : Fin 160) (q gap : Nat) (crc : Word16) : (tillDecided s p t q gap crc).bags = s.bags := by
  rw [tillDecided_eq, State.setDrawers_bags, raiseGap_leaves t gap _ .bags (by decide)]; simp

theorem tillDecided_orders (s : State) (p : Port) (t : Fin 160) (q gap : Nat) (crc : Word16) : (tillDecided s p t q gap crc).orders = s.orders := by
  rw [tillDecided_eq, State.setDrawers_orders, raiseGap_leaves t gap _ .orders (by decide)]; simp

theorem tillDecided_denoms (s : State) (p : Port) (t : Fin 160) (q gap : Nat) (crc : Word16) : (tillDecided s p t q gap crc).denoms = s.denoms := by
  rw [tillDecided_eq, State.setDrawers_denoms, raiseGap_leaves t gap _ .denoms (by decide)]; simp

theorem tillDecided_drawer (s : State) (p : Port) (t : Fin 160) (q gap : Nat) (crc : Word16) :
    (tillDecided s p t q gap crc).drawers[t] = { s.drawers[t] with lastSeq := some q, lastCrc := some crc } := by
  rw [tillDecided_eq]; simp

/-- Fields of fixed widths do not fit a body of another length. -/
theorem exactFields_length {ws : List Nat} {bs : List Byte} (h : bs.length ≠ ws.sum) : exactFields ws bs = none := by
  unfold exactFields
  split
  · rename_i xs e
    exfalso
    apply h
    clear h
    revert e
    induction ws generalizing bs xs with
    | nil => intro e; simp [leadFields] at e; simp [e]
    | cons k ws ih =>
      intro e
      simp only [leadFields] at e
      split at e
      · cases e
      · rename_i x rest ht
        split at e
        · cases e
        · rename_i ys bs' hl
          cases e
          have := ih _ hl
          unfold takeNat at ht
          split at ht
          · cases ht
          · cases ht
            simp at this ⊢
            omega
  · rfl

theorem parseSeal_length {body : List Byte} (h : body.length ≠ 4) : parseSeal body = none := by
  unfold parseSeal
  rw [exactFields_length (by simpa using h)]

theorem parseBatch_length {body : List Byte} (h : body.length ≠ 7) : parseBatch body = none := by
  unfold parseBatch; rw [exactFields_length (by simpa using h)]

theorem parseHandKey_length {body : List Byte} (h : body.length ≠ 5) : parseHandKey body = none := by
  unfold parseHandKey; rw [exactFields_length (by simpa using h)]

theorem parseSession_length {body : List Byte} (h : body.length ≠ 1) : parseSessionNumber body = none := by
  unfold parseSessionNumber; rw [exactFields_length (by simpa using h)]

/-- The node table alone gives a byte's slot. -/
theorem slotOf_congr {s t : State} (h : t.nodes = s.nodes) (b : Byte) : slotOf t b = slotOf s b := by
  unfold slotOf State.node; rw [h]

/-- A restart of the idle timer changes nothing of the session but its timer (R103). -/
theorem restart_session (x : Fin 4) (s : State) : ∃ tm, (restartIdle x s).sessions[x] = { s.sessions[x] with timer := tm } := by
  unfold restartIdle
  split
  · exact ⟨idleDeadline s, by simp [setSession]⟩
  · exact ⟨_, rfl⟩

end Sys2Proof.Machine
end

