-- ==== Sys2Proof/Laws/Trunk.lean ====
section
/-! SUPPORT. What taking a request does at the trunk: the buffer, the reply, a SEND. -/

namespace Sys2Proof.Machine

/-- The Agent's reply changes nothing but the reply itself and the count of free details (R190). -/
theorem answerRequest_spec (tag : Word16) (code : Byte) (result : Code) (detail : Option Word32) (data : List Byte) (s : State) :
    ∃ d n, (∀ w, detail = some w → d = w) ∧
      answerRequest tag code result detail data s =
        (s.setDraws n).setTrunk { s.trunk with
          reply := some { tag := tag, code := code, result := result, detail := d, data := data } } := by
  obtain ⟨h, n, hn⟩ := drawDetail_spec detail s
  refine ⟨(drawDetail detail s).1, n, h, ?_⟩
  show (drawDetail detail s).2.setTrunk _ = _
  rw [hn]
  rfl

/-- A request command leaves the state, or takes the request at the head of the buffer and produces its reply (R190). -/
theorem takeRequest_cases (finish : State → State → State) (code : Byte) (variant : State → List Byte → Bool)
    (run : List Byte → State → State × Result) (s : State) :
    takeRequest finish code variant run s = .next s ∨
    ∃ tag fields rest, s.trunk.reply = none ∧ s.trunk.sendWaits = false ∧ s.trunk.buffer = .request tag code fields :: rest ∧
      variant s fields = true ∧
      takeRequest finish code variant run s =
        .next (finish s (answerRequest tag code (run fields (popRequest s)).2.code (run fields (popRequest s)).2.detail
          (run fields (popRequest s)).2.data (run fields (popRequest s)).1)) := by
  unfold takeRequest
  split
  · rename_i tag c fields rest h1 h2 h3
    split
    · rename_i h
      obtain ⟨rfl, hv⟩ := h
      exact .inr ⟨tag, fields, rest, h1, h2, h3, hv, rfl⟩
    · exact .inl rfl
  · exact .inl rfl

/-- A request of the command's code and form at the head is taken (R190). -/
theorem takeRequest_taken {finish : State → State → State} {code : Byte} {variant : State → List Byte → Bool}
    {run : List Byte → State → State × Result} {s : State} {tag : Word16} {fields : List Byte} {rest : List TrunkEntry}
    (h1 : s.trunk.reply = none) (h2 : s.trunk.sendWaits = false) (h3 : s.trunk.buffer = .request tag code fields :: rest)
    (hv : variant s fields = true) :
    takeRequest finish code variant run s =
      .next (finish s (answerRequest tag code (run fields (popRequest s)).2.code (run fields (popRequest s)).2.detail
        (run fields (popRequest s)).2.data (run fields (popRequest s)).1)) := by
  unfold takeRequest
  rw [h1, h2, h3]
  simp only [hv, and_self, if_true]

/-- Placing a SEND appends its frame to the downlink queue, drops it from the buffer and answers it ACCEPTED (R178). -/
theorem placeSend_spec (tag : Word16) (p : Port) (f : LineFrame) (s : State) :
    ((placeSend tag p f s).port p).down = (s.port p).down ++ [f] ∧ (placeSend tag p f s).trunk.buffer = s.trunk.buffer.tail ∧
      (placeSend tag p f s).trunk.sendWaits = false ∧
      ∃ d, (placeSend tag p f s).trunk.reply = some { tag := tag, code := 0, result := .accepted, detail := d, data := [] } := by
  cases p <;> exact ⟨rfl, rfl, rfl, _, rfl⟩

/-- The SEND that waits is placed exactly when its queue has a FREE place; else the state stays (R178). -/
theorem placeWaiting_spec (s : State) :
    (waitingPlaceable s = false ∧ placeWaiting s = s) ∨
    ∃ tag port pb kind dest body rest, s.trunk.sendWaits = true ∧ s.trunk.buffer = .send tag port pb kind dest body :: rest ∧
      downlinkFree s (sendQueue s port dest) = true ∧
      placeWaiting s = placeSend tag (sendQueue s port dest) (sendFrame pb kind dest body) s := by
  cases h : waitingPlaceable s with
  | false => exact .inl ⟨rfl, placeWaiting_of_not h⟩
  | true =>
    unfold waitingPlaceable at h
    split at h
    · rename_i tag port pb kind dest body rest hw hb
      refine .inr ⟨tag, port, pb, kind, dest, body, rest, hw, hb, h, ?_⟩
      unfold placeWaiting
      rw [hw, hb]
      simp only [h, if_true]
    · cases h

/-- An entry enters a buffer with a place; a full one counts an overrun instead (R189). -/
theorem bufferEntry_spec (e : TrunkEntry) (s : State) :
    (s.trunk.buffer.length < Config.bufferPlaces ∧
      bufferEntry e s = s.setTrunk { s.trunk with buffer := s.trunk.buffer ++ [e] }) ∨
    (Config.bufferPlaces ≤ s.trunk.buffer.length ∧ bufferEntry e s = countTrunkOverrun s) := by
  unfold bufferEntry
  split
  · exact .inr ⟨by assumption, rfl⟩
  · exact .inl ⟨by omega, rfl⟩

end Sys2Proof.Machine
end

