-- ==== Sys2Proof/Laws/Requests.lean ====
section
/-! SUPPORT. The request that is taken: one lemma for what the taking does behind its rule (`request_answered`), from it the refusal that changes nothing,
and the rules of the event and tally requests. A statement about a request then needs its rule alone. -/

namespace Sys2Proof.Machine

/-- The six closing conditions read what a report is a change of, and nothing else (R145). -/
theorem closingConditions_congr {s t : State} (hd : t.drawers = s.drawers) (hx : t.sessions = s.sessions) (hc : t.call = s.call)
    (hb : t.bags = s.bags) (hs : t.safe = s.safe) : closingConditions t = closingConditions s := by
  unfold closingConditions
  rw [hd, hx, hc, hb, hs]

/-- The condition that an indirect event follows reads the drawers, the tallies and the timing; a direct event keeps its flag (R181). -/
theorem pendingCondition_congr {s t : State} (hd : t.drawers = s.drawers) (ht : t.tallies = s.tallies) (hm : t.timing = s.timing) {e : Event}
    (h : e.indirect = true) : pendingCondition t e = pendingCondition s e := by
  cases e <;> first | exact absurd h (by decide) | simp only [pendingCondition, pickupDueAny, tallyAny, hd, ht, hm]

/-- The condition of a direct event is its own flag (R181). -/
theorem pendingCondition_direct {s : State} {e : Event} (h : e.indirect = false) : pendingCondition s e = (s.event e).pending := by
  cases e <;> first | exact absurd h (by decide) | rfl

/-- The end of a taking leaves the record of a direct event as the effect left it (R181). -/
theorem direct_event {s' u : State} (he : ∀ e : Event, u.event e = { s'.event e with pending := pendingCondition s' e }) {e : Event}
    (h : e.indirect = false) : u.event e = s'.event e := by
  rw [he, pendingCondition_direct h]

/-- What taking a request does whose effect leaves the ports, the safe, the nodes and the trunk alone: on the state that the effect leaves, the reply
and the end of the taking; nothing is placed, and no close completes but in the effect itself (R145, R181, R183, R190). -/
theorem request_answered {code : Byte} {variant : State → List Byte → Bool} {run : List Byte → State → State × Result} {s s' : State}
    {tag : Word16} {fields : List Byte} {r : Result} {ex : List Part} (h : RequestAtHead s tag code fields) (hv : variant s fields = true)
    (hr : run fields (popRequest s) = (s', r)) (hl : unchangedBut ex (popRequest s) s')
    (hx : ∀ b ∈ [Part.floor, .room, .trunk, .nodes, .safe], b ∉ ex)
    (ht : s'.day.state = .closing → closingConditions s' = true → s.day.state = .closing ∧ closeInputs s = closeInputs s') :
    ∃ u d, takeRequest settle code variant run s = .next u ∧ unchangedBut Part.replyParts s' u ∧
      (∀ e : Event, u.event e = { s'.event e with pending := pendingCondition s' e }) ∧ u.vector = topEvent u ∧
      u.attention = (s'.attention || decide (s'.vector < topEvent u)) ∧ (∀ w, r.detail = some w → d = w) ∧
      u.trunk = { s.trunk with
        buffer := s.trunk.buffer.tail, reply := some { tag := tag, code := code, result := r.code, detail := d, data := r.data } } := by
  obtain ⟨h1, h2, h3⟩ := h
  obtain ⟨rest, h3⟩ : ∃ rest, s.trunk.buffer = .request tag code fields :: rest := by
    cases hb : s.trunk.buffer with
    | nil => rw [hb] at h3; cases h3
    | cons a rest => rw [hb] at h3; cases h3; exact ⟨rest, rfl⟩
  obtain ⟨d, n, hd, ha⟩ := answerRequest_spec tag code r.code r.detail r.data s'
  have htr : s'.trunk = { s.trunk with buffer := s.trunk.buffer.tail } := by
    rw [show s'.trunk = (popRequest s).trunk from hl .trunk (hx _ (by decide))]
    show ({ s.trunk with buffer := s.trunk.buffer.tail, sendWaits := false } : Trunk) = _
    rw [← h2]
  have hp := popRequest_leaves s
  have hsame : ∀ {b : Part}, b ∈ [Part.floor, .room, .trunk, .nodes, .safe] → b ≠ .trunk → b.same s s' := fun {b} hb hn =>
    Part.same_trans (hp b (by simpa using hn)) (hl b (hx b hb))
  have e2 : s'.room = s.room := hsame (b := .room) (by decide) (by decide)
  have e3 : s'.nodes = s.nodes := hsame (b := .nodes) (by decide) (by decide)
  have e4 : s'.safe = s.safe := hsame (b := .safe) (by decide) (by decide)
  obtain ⟨a, hat, hae⟩ : ∃ a, a = answerRequest tag code r.code r.detail r.data s' ∧ a = (s'.setDraws n).setTrunk { s.trunk with
      buffer := s.trunk.buffer.tail, reply := some { tag := tag, code := code, result := r.code, detail := d, data := r.data } } :=
    ⟨_, rfl, by rw [ha, htr]⟩
  have hla : unchangedBut [.draws, .trunk] s' a := by
    rw [hae]
    exact unchangedBut_trans (setDraws_leaves n s') (setTrunk_leaves _ _)
  have hatr : a.trunk = { s.trunk with
      buffer := s.trunk.buffer.tail, reply := some { tag := tag, code := code, result := r.code, detail := d, data := r.data } } := by
    rw [hae]
    rfl
  have hci : closeInputs a = closeInputs s' := closeInputs_congr (hla .drawers (by decide)) (hla .sessions (by decide)) (hla .call (by decide))
    (hla .bags (by decide)) (hla .safe (by decide))
  have hcc : closingConditions a = closingConditions s' := closingConditions_congr (hla .drawers (by decide)) (hla .sessions (by decide))
    (hla .call (by decide)) (hla .bags (by decide)) (hla .safe (by decide))
  have hday : a.day = s'.day := hla .day (by decide)
  have hset : settle s a = settleEvents a := by
    rw [settle_tested]
    · rcases testReports_spec s a with e | ⟨k1, k2, k3, -⟩
      · rw [e]
      · rw [hday] at k1
        rw [hcc] at k2
        exact absurd (hci ▸ ht k1 k2) k3
    · have hn : a.nodes = s'.nodes := hla .nodes (by decide)
      have hs : a.safe = s'.safe := hla .safe (by decide)
      have hm : a.room = s'.room := hla .room (by decide)
      rw [show commandPlaceable a = commandPlaceable s from commandPlaceable_congr (by rw [hs, e4]) (by rw [hm, e2]) (by rw [hn, e3])]
      exact id
    · intro hw
      unfold waitingPlaceable at hw
      rw [hatr] at hw
      simp [h2] at hw
  have hse := settleEvents_leaves a
  refine ⟨settleEvents a, d, ?_, ?_, ?_, rfl, ?_, hd, ?_⟩
  · rw [takeRequest_taken h1 h2 h3 hv, hr]
    rw [← hset, hat]
  · exact unchangedBut_mono (unchangedBut_trans hla hse) (by decide)
  · intro e
    rw [settleEvents_event]
    have hev : ∀ e, a.event e = s'.event e := fun e => by unfold State.event; rw [hla .events (by decide)]
    rw [hev]
    have hpc : pendingCondition a e = pendingCondition s' e := by
      cases hi : e.indirect
      · rw [pendingCondition_direct hi, pendingCondition_direct hi, hev]
      · exact pendingCondition_congr (hla .drawers (by decide)) (hla .tallies (by decide)) (hla .timing (by decide)) hi
    rw [hpc]
  · show (a.attention || decide (a.vector < _)) = _
    rw [hla .attention (by decide), hla .vector (by decide)]
    rfl
  · rw [← hatr]
    exact hse .trunk (by decide)

/-- A request that changes nothing is refused, or answered, with nothing changed but the reply (R190). -/
theorem refused_of_run {c : Instr} {code : Byte} {variant : State → List Byte → Bool} {run : List Byte → State → State × Result} {s : State}
    {tag : Word16} {fields : List Byte} {result : Code} {detail : Option Nat} (hc : ∀ s, exec c s = takeRequest settle code variant run s)
    (h : RequestAtHead s tag code fields) (hv : variant s fields = true)
    (hr : run fields (popRequest s) = (popRequest s, Result.of result (detail.map (BitVec.ofNat 32)))) :
    RefusedRequest c s tag code result detail := by
  have hp := popRequest_leaves s
  obtain ⟨u, d, hu, hl, he, -, -, hd, ht⟩ := request_answered (ex := []) h hv hr (unchangedBut_refl _ _) (by simp) (fun k _ => ⟨k, rfl⟩)
  refine ⟨u, (hc s).trans hu, unchangedBut_mono (unchangedBut_trans hp hl) (by decide), ?_, d, ?_, ht⟩
  · refine ⟨fun e => ?_, fun e _ => ?_⟩
    · rw [he]; rfl
    · rw [he]
      refine ⟨rfl, rfl, fun hi => ?_⟩
      show pendingCondition (popRequest s) e = _
      rw [pendingCondition_direct hi]
      rfl
  · rintro k rfl
    exact hd _ rfl

/-- A number of more bytes than there are cannot be read. -/
theorem takeNat_short {k : Nat} {bs : List Byte} (h : bs.length < k) : takeNat k bs = none := by simp [takeNat, h]

/-- A flag byte is 0 or 1 (R190). -/
theorem takeFlag_bad {x : Byte} {rest : List Byte} (h0 : x ≠ 0) (h1 : x ≠ 1) : takeFlag (x :: rest) = none := by
  unfold takeFlag
  split <;> simp_all

/-- An effect that touches nothing a report is a change of completes no close (R145). -/
theorem quiet_of_unchanged {s s' : State} {ex : List Part} (h : unchangedBut ex s s')
    (hx : ∀ b ∈ [Part.drawers, .sessions, .call, .bags, .safe, .day], b ∉ ex) :
    s'.day.state = .closing → closingConditions s' = true → s.day.state = .closing ∧ closeInputs s = closeInputs s' := by
  intro k _
  refine ⟨by rw [← k, show s'.day = s.day from h .day (hx _ (by decide))], ?_⟩
  exact (closeInputs_congr (h .drawers (hx _ (by decide))) (h .sessions (hx _ (by decide))) (h .call (hx _ (by decide)))
    (h .bags (hx _ (by decide))) (h .safe (hx _ (by decide)))).symm

/-! ## The event and tally requests (R114, R182 to R186) -/

/-- Fewer pending and enabled events, a vector no higher (R182). -/
theorem topEvent_le {s t : State} (h : ∀ e, t.active e = true → s.active e = true) : topEvent t ≤ topEvent s := by
  rcases (topEvent_spec t).2 with h0 | ⟨e, ha, he⟩
  · omega
  · rw [he]; exact (topEvent_spec s).1 e (h e ha)

/-- From a settled state, an effect after which no more events are pending and enabled owes no further ATTENTION (R183). -/
theorem attention_kept {s s' u : State} (hs : Settled s) (hv : s'.vector = s.vector) (hat : s'.attention = s.attention)
    (hu : u.attention = (s'.attention || decide (s'.vector < topEvent u)))
    (h : ∀ e, u.active e = true → s.active e = true) : u.attention = s.attention := by
  have h2 := topEvent_le h
  rw [hu, hat, hv, hs.1]
  have : ¬ (topEvent s < topEvent u) := by omega
  simp [this]

/-- Equal records, equal rows. -/
theorem events_ext {s t : State} (h : ∀ e : Event, t.event e = s.event e) : t.events = s.events := by
  apply row_ext
  intro i
  obtain ⟨e, he⟩ : ∃ e ∈ Event.all, e.row = i := by revert i; decide
  rw [← he.2]
  exact h e

/-- A run over events that are all distinct clears each that is selected once. -/
theorem clearSelected_fold (sel : Nat) (es : List Event) (hn : es.Nodup) (s : State) (e : Event) :
    (es.foldl (fun s e =>
      if selects sel e then
        s.setEvents (put s.events e.row { s.event e with pending := (s.event e).pending && e.indirect, count := 0 })
      else s) s).event e = if e ∈ es ∧ selects sel e = true then
        { s.event e with pending := (s.event e).pending && e.indirect, count := 0 } else s.event e := by
  induction es generalizing s with
  | nil => simp
  | cons a es ih =>
    simp only [List.foldl_cons]
    rw [ih (List.nodup_cons.mp hn).2]
    have ha := (List.nodup_cons.mp hn).1
    by_cases hs : selects sel a = true
    · rw [if_pos hs, event_setEvents_put]
      by_cases he : a = e
      · subst he
        simp [ha, hs]
      · simp [he, Ne.symm he]
    · rw [if_neg hs]
      by_cases he : a = e
      · subst he
        simp [ha, hs]
      · simp [Ne.symm he]

/-- CLEAR_EVENTS, record by record (R185). -/
theorem clearSelected_event (sel : Nat) (s : State) (e : Event) : (clearSelected sel s).event e = if selects sel e = true then
        { s.event e with pending := (s.event e).pending && e.indirect, count := 0 } else s.event e := by
  unfold clearSelected
  rw [clearSelected_fold sel _ (by decide)]
  simp [Event.mem_all]

/-- And sets the enable of each once. -/
theorem enableSelected_fold (sel : Nat) (v : Bool) (es : List Event) (hn : es.Nodup) (s : State) (e : Event) :
    (es.foldl (fun s e =>
      if selects sel e then s.setEvents (put s.events e.row { s.event e with enable := v }) else s) s).event e =
      if e ∈ es ∧ selects sel e = true then { s.event e with enable := v } else s.event e := by
  induction es generalizing s with
  | nil => simp
  | cons a es ih =>
    simp only [List.foldl_cons]
    rw [ih (List.nodup_cons.mp hn).2]
    have ha := (List.nodup_cons.mp hn).1
    by_cases hs : selects sel a = true
    · rw [if_pos hs, event_setEvents_put]
      by_cases he : a = e
      · subst he
        simp [ha, hs]
      · simp [he, Ne.symm he]
    · rw [if_neg hs]
      by_cases he : a = e
      · subst he
        simp [ha, hs]
      · simp [Ne.symm he]

/-- EVENT_ENABLE, record by record (R186). -/
theorem enableSelected_event (sel : Nat) (v : Bool) (s : State) (e : Event) : (enableSelected sel v s).event e = if selects sel e = true then
        { s.event e with enable := v } else s.event e := by
  unfold enableSelected
  rw [enableSelected_fold sel v _ (by decide)]
  simp [Event.mem_all]

/-- TALLY_READ_CLEAR, counter by counter (R114). -/
theorem clearTallies_tally (gs : List TallyGroup) (s : State) (k : TallyGroup) (c : Fin 12) :
    (clearTallies gs s).tally k c = if k ∈ gs then { count := 0, half := false, full := false } else s.tally k c := by
  unfold clearTallies
  induction gs generalizing s with
  | nil => simp
  | cons g gs ih =>
    simp only [List.foldl_cons]
    rw [ih]
    by_cases hk : k ∈ gs
    · simp [hk]
    · have hput : (s.setTallies (put s.tallies g.row (Vector.replicate 12 Tally.reset))).tally k c =
          if g.row = k.row then Tally.reset else s.tally k c := by
        show (put s.tallies g.row (Vector.replicate 12 Tally.reset))[k.row][c] = _
        rw [put_get]
        split
        · simp
        · rfl
      rw [if_neg hk, hput]
      have : (g.row = k.row) ↔ (k = g) := by cases k <;> cases g <;> decide
      simp only [this, List.mem_cons, hk, or_false]
      rfl

end Sys2Proof.Machine
end

