-- ==== Sys2Proof/Laws/Day.lean ====
section
/-! SUPPORT. The trading day: what DAY_OPEN leaves, what cancelling every PENDING order and aborting every session do to each record, the purge, and the
end of a missed-window check. -/

namespace Sys2Proof.Machine

/-! ## DAY_OPEN and the day state (R141, R142) -/

/-- The value held reads the codes and the stock (R21). -/
theorem holding_congr {s t : State} (hd : t.denoms = s.denoms) (hs : t.stock = s.stock) : holdingValue t = holdingValue s := by
  unfold holdingValue State.heldOf
  rw [hd, hs]

/-- The accumulators of the new day (R142). -/
theorem openDay_acc (t s : State) (h : holdingValue t = holdingValue s) : (openDay t).acc =
    { opening := min 4294967295 (holdingValue s), countedIn := 0, restocked := 0, madeUp := 0, adjustment := 0
      saturated := decide (4294967295 < holdingValue s) } := by
  obtain ⟨x, hx, hh⟩ : ∃ x, (openDay t).acc = (openAccumulators x).acc ∧ holdingValue x = holdingValue t :=
    ⟨(t.setDay { t.day with number := (t.day.number + 1) % 65536, armed := false }).setDrawers (mapRows dayOpenDrawer t.drawers), by
      unfold openDay changeDay raiseNum raise; simp only [State.setEvents_acc, State.setDay_acc],
      holding_congr (by simp) (by simp)⟩
  rw [hx]
  unfold openAccumulators
  rw [State.setAcc_acc, hh, h]
  generalize holdingValue s = v
  unfold satNat Config.top32
  rw [Nat.min_comm]

/-- The new day (R142). -/
theorem openDay_day (t : State) : (openDay t).day = { t.day with state := .opening, number := (t.day.number + 1) % 65536, armed := false } := by
  unfold openDay changeDay raiseNum raise openAccumulators
  simp only [State.setEvents_day, State.setDay_day, State.setAcc_day, State.setDrawers_day]

/-- Every drawer of the new day (R142). -/
theorem openDay_drawers (t : State) : (openDay t).drawers = mapRows dayOpenDrawer t.drawers := by
  unfold openDay changeDay raiseNum raise openAccumulators
  simp only [State.setEvents_drawers, State.setDay_drawers, State.setAcc_drawers, State.setDrawers_drawers]

/-- A change of day state raises DAY_CHANGED with the new state (R141). -/
theorem changeDay_event (d : DayState) (t : State) : (changeDay d t).event .dayChanged =
    { t.event .dayChanged with pending := true, detail := BitVec.ofNat 32 d.code, count := min 255 ((t.event .dayChanged).count + 1) } := by
  unfold changeDay raiseNum
  rw [raise_event, if_pos rfl, State.setDay_event]

/-- DAY_CHANGED with OPENING (R142). -/
theorem openDay_event (t : State) : ((openDay t).event .dayChanged).pending = true ∧ ((openDay t).event .dayChanged).detail = 1 := by
  unfold openDay
  rw [changeDay_event]
  exact ⟨rfl, rfl⟩

/-! ## Every PENDING order cancelled (R69, R74, R144) -/

/-- The entry is FREE again (R74). -/
theorem cancelOrder_orders (i : Fin 24) (s : State) : (cancelOrder i s).orders =
    put s.orders i { s.orders[i] with state := .free, outcome := .cancelled } := rfl

/-- The open order of its till is cleared (R69). -/
theorem cancelOrder_drawers (i : Fin 24) (s : State) : (cancelOrder i s).drawers =
    put s.drawers s.orders[i].till { s.drawers[s.orders[i].till] with openOrder := none } := by
  unfold cancelOrder raiseNum raise freeOrder setOpenOrder setDrawer setOrder release
  simp only [State.setEvents_drawers, State.setDrawers_drawers, State.setOrders_drawers, State.setStock_drawers, State.setStock_orders]

/-- Its issue is released (R10). -/
theorem cancelOrder_stock (i : Fin 24) (s : State) (k : Fin 12) : (cancelOrder i s).stock[k] =
    { s.stock[k] with reserved := s.stock[k].reserved - s.orders[i].issue[k] } := by
  have : (cancelOrder i s).stock = Vector.ofFn fun c => { s.stock[c] with reserved := s.stock[c].reserved - s.orders[i].issue[c] } := by
    unfold cancelOrder raiseNum raise freeOrder setOpenOrder setDrawer setOrder release
    simp only [State.setEvents_stock, State.setDrawers_stock, State.setOrders_stock, State.setStock_stock]
  rw [this]
  simp

/-- ORDER_CANCELLED is raised with its till (R74). -/
theorem cancelOrder_event (i : Fin 24) (s : State) : (cancelOrder i s).event .orderCancelled =
    { s.event .orderCancelled with
      pending := true, detail := BitVec.ofNat 32 s.orders[i].till.val
      count := min 255 ((s.event .orderCancelled).count + 1) } := by
  unfold cancelOrder raiseNum
  rw [raise_event, if_pos rfl]
  rfl

theorem ne_of_mem {α : Type} {a i : α} {l : List α} (h : i ∈ l) (k : a ∉ l) : a ≠ i := by rintro rfl; exact k h

/-- One order of the walk over the entries. -/
def cancelStep (s : State) (i : Fin 24) : State := if s.orders[i].state = .pending then cancelOrder i s else s

/-- The cancelling is the walk of `cancelStep`. -/
theorem cancelPending_fold (s : State) : cancelPending s = (List.finRange 24).foldl cancelStep s := rfl

/-- One order leaves every other as it is. -/
theorem cancelStep_other (s : State) (i j : Fin 24) (h : i ≠ j) : (cancelStep s i).orders[j] = s.orders[j] := by
  unfold cancelStep
  by_cases hp : s.orders[i].state = .pending
  · simp only [if_pos hp]
    have := cancelOrder_orders i s
    simp only [this]
    exact put_get_other _ _ _ _ h
  · simp only [if_neg hp]

/-- Every entry through the walk. -/
theorem cancel_orders (l : List (Fin 24)) (hn : l.Nodup) (s : State) (i : Fin 24) : (l.foldl cancelStep s).orders[i] =
    if i ∈ l ∧ s.orders[i].state = .pending then { s.orders[i] with state := .free, outcome := .cancelled } else s.orders[i] := by
  induction l generalizing s with
  | nil => simp
  | cons a l ih =>
    rw [List.foldl_cons, ih (List.nodup_cons.mp hn).2]
    have ha := (List.nodup_cons.mp hn).1
    by_cases hi : a = i
    · subst hi
      rw [if_neg (by simp [ha])]
      unfold cancelStep
      by_cases hp : s.orders[a].state = .pending
      · rw [if_pos hp, if_pos ⟨by simp, hp⟩, cancelOrder_orders, put_get, if_pos rfl]
      · rw [if_neg hp, if_neg (by tauto)]
    · rw [cancelStep_other _ _ _ hi]
      simp [Ne.symm hi]

/-- The reservation of each code through the walk (R10). -/
theorem cancel_stock (l : List (Fin 24)) (hn : l.Nodup) (s : State) (k : Fin 12) : (l.foldl cancelStep s).stock[k] =
    { s.stock[k] with reserved := s.stock[k].reserved - (l.map fun i => if s.orders[i].state = .pending then s.orders[i].issue[k] else 0).sum } := by
  induction l generalizing s with
  | nil => simp
  | cons a l ih =>
    have ha := (List.nodup_cons.mp hn).1
    rw [List.foldl_cons, ih (List.nodup_cons.mp hn).2]
    have hm : (l.map fun i => if (cancelStep s a).orders[i].state = .pending then (cancelStep s a).orders[i].issue[k] else 0) =
        (l.map fun i => if s.orders[i].state = .pending then s.orders[i].issue[k] else 0) := by
      apply List.map_congr_left
      intro i hi
      rw [cancelStep_other _ _ _ (ne_of_mem hi ha)]
    rw [hm, List.map_cons, List.sum_cons]
    unfold cancelStep
    by_cases hp : s.orders[a].state = .pending
    · rw [if_pos hp, if_pos hp, cancelOrder_stock]
      simp only [Nat.sub_sub]
    · rw [if_neg hp, if_neg hp]
      simp

/-- Every drawer through the walk (R69). -/
theorem cancel_drawers (l : List (Fin 24)) (hn : l.Nodup) (s : State) (t : Fin 160) : (l.foldl cancelStep s).drawers[t] =
    if ∃ i ∈ l, s.orders[i].state = .pending ∧ s.orders[i].till = t then { s.drawers[t] with openOrder := none } else s.drawers[t] := by
  induction l generalizing s with
  | nil => simp
  | cons a l ih =>
    have ha := (List.nodup_cons.mp hn).1
    rw [List.foldl_cons, ih (List.nodup_cons.mp hn).2]
    have hm : (∃ i ∈ l, (cancelStep s a).orders[i].state = .pending ∧ (cancelStep s a).orders[i].till = t) ↔
        ∃ i ∈ l, s.orders[i].state = .pending ∧ s.orders[i].till = t := by
      constructor
      · rintro ⟨i, hi, h⟩
        rw [cancelStep_other _ _ _ (ne_of_mem hi ha)] at h
        exact ⟨i, hi, h⟩
      · rintro ⟨i, hi, h⟩
        refine ⟨i, hi, ?_⟩
        rw [cancelStep_other _ _ _ (ne_of_mem hi ha)]
        exact h
    simp only [hm]
    have hd : (cancelStep s a).drawers[t] = 
        if s.orders[a].state = .pending ∧ s.orders[a].till = t then { s.drawers[t] with openOrder := none } else s.drawers[t] := by
      unfold cancelStep
      by_cases hp : s.orders[a].state = .pending
      · rw [if_pos hp, cancelOrder_drawers, put_get]
        by_cases hh : s.orders[a].till = t
        · subst hh; rw [if_pos rfl, if_pos ⟨hp, rfl⟩]
        · rw [if_neg hh, if_neg (by tauto)]
      · rw [if_neg hp, if_neg (by tauto)]
    rw [hd]
    by_cases h1 : ∃ i ∈ l, s.orders[i].state = .pending ∧ s.orders[i].till = t
    · have h2 : ∃ i ∈ a :: l, s.orders[i].state = .pending ∧ s.orders[i].till = t := by
        obtain ⟨i, hi, h⟩ := h1; exact ⟨i, by simp [hi], h⟩
      rw [if_pos h1, if_pos h2]
      split <;> rfl
    · rw [if_neg h1]
      have : (∃ i ∈ a :: l, s.orders[i].state = .pending ∧ s.orders[i].till = t) ↔ (s.orders[a].state = .pending ∧ s.orders[a].till = t) := by
        constructor
        · rintro ⟨i, hi, h⟩
          rcases List.mem_cons.mp hi with rfl | hi
          · exact h
          · exact absurd ⟨i, hi, h⟩ h1
        · exact fun h => ⟨a, by simp, h⟩
      simp only [this]

/-- ORDER_CANCELLED through the walk: counted once for each order, the detail of the last. -/
theorem cancel_event (l : List (Fin 24)) (hn : l.Nodup) (s : State) : (l.foldl cancelStep s).event .orderCancelled =
    match (l.filter fun i => s.orders[i].state = .pending).getLast? with
    | none => s.event .orderCancelled
    | some j => { s.event .orderCancelled with
        pending := true, detail := BitVec.ofNat 32 s.orders[j].till.val
        count := min 255 ((s.event .orderCancelled).count + (l.filter fun i => s.orders[i].state = .pending).length) } := by
  induction l generalizing s with
  | nil => rfl
  | cons a l ih =>
    have ha := (List.nodup_cons.mp hn).1
    rw [List.foldl_cons, ih (List.nodup_cons.mp hn).2]
    have hm : (l.filter fun i => decide ((cancelStep s a).orders[i].state = .pending)) = l.filter fun i => decide (s.orders[i].state = .pending) := by
      apply List.filter_congr
      intro i hi
      rw [cancelStep_other _ _ _ (ne_of_mem hi ha)]
    rw [hm, List.filter_cons]
    by_cases hp : s.orders[a].state = .pending
    · rw [if_pos (by simpa using hp)]
      have hs : cancelStep s a = cancelOrder a s := by unfold cancelStep; rw [if_pos hp]
      cases hq : (l.filter fun i => decide (s.orders[i].state = .pending)).getLast? with
      | none =>
        have : (l.filter fun i => decide (s.orders[i].state = .pending)) = [] := List.getLast?_eq_none_iff.mp hq
        rw [this]
        simp only [List.getLast?_singleton, hs, cancelOrder_event, List.length_singleton]
      | some j =>
        have hne : (l.filter fun i => decide (s.orders[i].state = .pending)) ≠ [] := by intro e; rw [e] at hq; cases hq
        have hj : j ∈ l := (List.mem_filter.mp (List.mem_of_getLast? hq)).1
        rw [List.getLast?_cons, hq]
        simp only [Option.getD_some, hs, cancelOrder_event, List.length_cons]
        have := cancelStep_other s a j (ne_of_mem hj ha)
        rw [hs] at this
        rw [this]
        congr 1
        omega
    · rw [if_neg (by simpa using hp)]
      have hs : cancelStep s a = s := by unfold cancelStep; rw [if_neg hp]
      rw [hs]

/-- The last index that has a property, as the walk finds it. -/
theorem last_of (p : Fin 24 → Prop) [DecidablePred p] (i : Fin 24) (hi : p i) (hl : ∀ j, i < j → ¬ p j) :
    ((List.finRange 24).filter fun j => p j).getLast? = some i := by
  have hmem : i ∈ (List.finRange 24).filter fun j => decide (p j) := List.mem_filter.mpr ⟨List.mem_finRange i, by simpa using hi⟩
  cases hq : ((List.finRange 24).filter fun j => decide (p j)).getLast? with
  | none => rw [List.getLast?_eq_none_iff.mp hq] at hmem; cases hmem
  | some x =>
    have hx : p x := by simpa using (List.mem_filter.mp (List.mem_of_getLast? hq)).2
    have hs : ((List.finRange 24).filter fun j => decide (p j)).Pairwise (· < ·) := (List.pairwise_lt_finRange 24).filter _
    obtain ⟨ys, hy⟩ := List.getLast?_eq_some_iff.mp hq
    rw [hy] at hs hmem
    rcases List.mem_append.mp hmem with h | h
    · have := (List.pairwise_append.mp hs).2.2 i h x (by simp)
      exact absurd hx (hl x this)
    · simp at h; rw [h]

/-! ## Every session aborted (R109, R110, R144) -/

/-- The move of an abort, on a record that it may move (R109). -/
theorem moveAbort_ok {x : Fin 4} {now : Nat} {b : Bag} (h : b.session = some x ∧ (b.state = .counting ∨ b.state = .countSuspended)) :
    moveAbort x now b = .ok { b with state := .outForCount, session := none, entered := now } := by
  unfold moveAbort
  rw [if_pos (by simpa using ⟨h.2, h.1⟩)]
  rfl

/-- And on every other. -/
theorem moveAbort_err {x : Fin 4} {now : Nat} {b : Bag} (h : ¬(b.session = some x ∧ (b.state = .counting ∨ b.state = .countSuspended))) :
    moveAbort x now b = .error .wrongBagState := by
  unfold moveAbort
  rw [if_neg]
  simp; tauto

/-- A lookup after the records of one seal are replaced by one record of that seal. -/
theorem find_map_const {bags : List Bag} {n m : Nat} {b' : Bag} (hb : b'.sealNo = n) :
    (bags.map fun b => if b.sealNo = n then b' else b).find? (fun b => decide (b.sealNo = m)) =
      (bags.find? fun b => decide (b.sealNo = m)).map fun b => if b.sealNo = n then b' else b := by
  induction bags with
  | nil => rfl
  | cons a l ih =>
    simp only [List.map_cons, List.find?_cons]
    have : decide ((if a.sealNo = n then b' else a).sealNo = m) = decide (a.sealNo = m) := by
      by_cases h : a.sealNo = n
      · simp [h, hb]
      · simp [h]
    rw [this]
    cases decide (a.sealNo = m)
    · exact ih
    · rfl

/-- One record through the abort of one session: the one its session names is OUT_FOR_COUNT, every other stays (R109). -/
theorem abort_bag (x : Fin 4) (s : State) (n : Nat) (b : Bag) (h : findBag s n = some b) :
    findBag (abortSession x s) n = some (
      if s.sessions[x].bag = n ∧ b.session = some x ∧ (b.state = .counting ∨ b.state = .countSuspended)
      then { b with state := .outForCount, session := none, entered := s.seconds } else b) := by
  have hbn := (findBag_some h).2
  have hset : findBag (abortSession x s) n = findBag (askRegister s.sessions[x].bag (moveAbort x s.seconds) s) n := findBag_congr rfl n
  rw [hset]
  unfold askRegister
  rcases transition_spec s.sessions[x].bag (moveAbort x s.seconds) s with ⟨h1, h2⟩ | ⟨c, e, h1, h2, h3⟩ | ⟨c, c', h1, h2, h3⟩
  · rw [h2]
    rw [if_neg]
    · exact h
    · rintro ⟨k, -⟩
      rw [k, h] at h1; cases h1
  · rw [h3]
    rw [if_neg]
    · exact h
    · rintro ⟨k, k2⟩
      rw [k, h] at h1
      cases h1
      rw [moveAbort_ok k2] at h2; cases h2
  · rw [h3]
    have hc := (findBag_some h1).2
    have hq : c.session = some x ∧ (c.state = .counting ∨ c.state = .countSuspended) := by
      by_contra hq
      rw [moveAbort_err hq] at h2; cases h2
    rw [moveAbort_ok hq] at h2
    cases h2
    show findBag (changeBag _ _ s) n = _
    unfold changeBag findBag
    rw [State.setBags_bags, find_map_const (by exact hc)]
    rw [show s.bags.find? _ = some b from h]
    by_cases hn : n = s.sessions[x].bag
    · have : c = b := by rw [← hn, h] at h1; exact (Option.some.inj h1).symm
      subst this
      rw [if_pos ⟨hn.symm, hq⟩]
      simp [hbn, hn]
    · rw [if_neg (fun k => hn k.1.symm)]
      have : ¬ (b.sealNo = s.sessions[x].bag) := by rw [hbn]; exact hn
      rw [Option.map_some]
      simp only [if_neg this]

/-- Every session through the abort of one. -/
theorem abort_sessions (x y : Fin 4) (s : State) : (abortSession x s).sessions[y] = if x = y then Session.reset else s.sessions[y] := by
  have : (abortSession x s).sessions = put s.sessions x Session.reset := by
    have hl : (askRegister s.sessions[x].bag (moveAbort x s.seconds) s).sessions = s.sessions := by
      unfold askRegister
      split
      · rename_i s' hs
        exact transition_leaves hs .sessions (by decide)
      · rfl
    unfold abortSession setSession
    rw [State.setSessions_sessions, hl]
  rw [this, put_get]

/-- One session of the walk. -/
def abortStep (s : State) (x : Fin 4) : State := if s.sessions[x].state = .idle then s else abortSession x s

/-- The aborting is the walk of `abortStep`. -/
theorem abortSessions_fold (s : State) : abortSessions s = (List.finRange 4).foldl abortStep s := rfl

/-- One session leaves every other as it is. -/
theorem abortStep_other (s : State) (x y : Fin 4) (h : x ≠ y) : (abortStep s x).sessions[y] = s.sessions[y] := by
  unfold abortStep
  by_cases hp : s.sessions[x].state = .idle
  · simp only [if_pos hp]
  · simp only [if_neg hp]
    rw [abort_sessions, if_neg h]

/-- And the second. -/
theorem abortStep_seconds (s : State) (x : Fin 4) : (abortStep s x).seconds = s.seconds := by
  have : unchangedBut [.sessions, .bags] s (abortStep s x) := unchangedBut_ite (unchangedBut_refl _ _) (abortSession_leaves _ _)
  exact this .seconds (by decide)

/-- After the walk a session that it visited is IDLE (R110). -/
theorem aborts_idle (l : List (Fin 4)) (hn : l.Nodup) (s : State) (x : Fin 4) (hx : x ∈ l ∨ s.sessions[x].state = .idle) :
    (l.foldl abortStep s).sessions[x].state = .idle := by
  induction l generalizing s with
  | nil =>
    rcases hx with h | h
    · cases h
    · exact h
  | cons a l ih =>
    rw [List.foldl_cons]
    apply ih (List.nodup_cons.mp hn).2
    by_cases h : a = x
    · subst h
      right
      unfold abortStep
      by_cases hp : s.sessions[a].state = .idle
      · simp only [if_pos hp]; exact hp
      · simp only [if_neg hp]
        rw [abort_sessions, if_pos rfl]; rfl
    · rcases hx with hx | hx
      · rcases List.mem_cons.mp hx with e | e
        · exact absurd e.symm h
        · exact .inl e
      · right
        rw [abortStep_other _ _ _ h]; exact hx

/-- A record that no session at work names stays, through one session. -/
theorem abortStep_keeps (s : State) (x : Fin 4) (n : Nat) (b : Bag) (h : findBag s n = some b)
    (hk : s.sessions[x].state ≠ .idle → s.sessions[x].bag = n → b.session ≠ some x) : findBag (abortStep s x) n = some b := by
  unfold abortStep
  split
  · exact h
  · rename_i hp
    rw [abort_bag x s n b h, if_neg]
    rintro ⟨k1, k2, -⟩
    exact hk hp k1 k2

/-- And through the walk. -/
theorem aborts_keep (l : List (Fin 4)) (hn : l.Nodup) (s : State) (n : Nat) (b : Bag) (h : findBag s n = some b)
    (hk : ∀ x ∈ l, s.sessions[x].state ≠ .idle → s.sessions[x].bag = n → b.session ≠ some x) : findBag (l.foldl abortStep s) n = some b := by
  induction l generalizing s with
  | nil => exact h
  | cons a l ih =>
    rw [List.foldl_cons]
    apply ih (List.nodup_cons.mp hn).2
    · exact abortStep_keeps s a n b h (hk a (by simp))
    · intro x hx
      rw [abortStep_other _ _ _ (ne_of_mem hx (List.nodup_cons.mp hn).1)]
      exact hk x (by simp [hx])

/-- A record at work in a session of the walk is OUT_FOR_COUNT (R109, R110). -/
theorem aborts_move (l : List (Fin 4)) (hn : l.Nodup) (s : State) (n : Nat) (b : Bag) (h : findBag s n = some b) (x : Fin 4) (hx : x ∈ l)
    (ha : s.sessions[x].state ≠ .idle) (hb : s.sessions[x].bag = n) (hs : b.session = some x) (hc : b.state = .counting ∨ b.state = .countSuspended) :
    findBag (l.foldl abortStep s) n = some { b with state := .outForCount, session := none, entered := s.seconds } := by
  induction l generalizing s with
  | nil => cases hx
  | cons a l ih =>
    rw [List.foldl_cons]
    have hna := List.nodup_cons.mp hn
    by_cases hax : a = x
    · subst hax
      apply aborts_keep l hna.2
      · unfold abortStep
        rw [if_neg ha, abort_bag a s n b h, if_pos ⟨hb, hs, hc⟩]
      · intro y hy _ _ k; cases k
    · rw [← abortStep_seconds s a]
      have hx' : x ∈ l := by rcases List.mem_cons.mp hx with e | e; exact absurd e.symm hax; exact e
      apply ih hna.2
      · exact abortStep_keeps s a n b h (fun _ _ => by rw [hs]; simpa using Ne.symm hax)
      · exact hx'
      · rw [abortStep_other _ _ _ hax]; exact ha
      · rw [abortStep_other _ _ _ hax]; exact hb

/-- One abort leaves the seals, and, where they are distinct, whether a record holds a close up (R145). -/
theorem abortStep_holds (s : State) (x : Fin 4) (hd : (s.bags.map Bag.sealNo).Nodup) :
    ((abortStep s x).bags.map Bag.sealNo) = s.bags.map Bag.sealNo ∧ (abortStep s x).bags.any Bag.holdsClose = s.bags.any Bag.holdsClose := by
  unfold abortStep
  split
  · exact ⟨rfl, rfl⟩
  · have hb : (abortSession x s).bags = (askRegister s.sessions[x].bag (moveAbort x s.seconds) s).bags := rfl
    rw [hb]
    unfold askRegister
    rcases transition_spec s.sessions[x].bag (moveAbort x s.seconds) s with ⟨h1, h2⟩ | ⟨c, e, h1, h2, h3⟩ | ⟨c, c', h1, h2, h3⟩
    · rw [h2]; exact ⟨rfl, rfl⟩
    · rw [h3]; exact ⟨rfl, rfl⟩
    · rw [h3]
      have hc := findBag_some h1
      have hq : c.session = some x ∧ (c.state = .counting ∨ c.state = .countSuspended) := by
        by_contra hq
        rw [moveAbort_err hq] at h2; cases h2
      rw [moveAbort_ok hq] at h2
      cases h2
      show (changeBag _ _ s).bags.map _ = _ ∧ (changeBag _ _ s).bags.any _ = _
      unfold changeBag
      rw [State.setBags_bags]
      constructor
      · rw [List.map_map]
        apply List.map_congr_left
        intro b _
        simp only [Function.comp]
        split
        · rename_i hh; exact hc.2.trans hh.symm
        · rfl
      · rw [List.any_map]
        apply Bool.eq_iff_iff.mpr
        simp only [List.any_eq_true, Function.comp]
        have huniq : ∀ b ∈ s.bags, b.sealNo = s.sessions[x].bag → b = c := fun b hb1 hb2 =>
          List.inj_on_of_nodup_map hd hb1 hc.1 (hb2.trans hc.2.symm)
        constructor
        · rintro ⟨b, hb1, hb2⟩
          refine ⟨b, hb1, ?_⟩
          split at hb2
          · simp [Bag.holdsClose] at hb2
          · exact hb2
        · rintro ⟨b, hb1, hb2⟩
          refine ⟨b, hb1, ?_⟩
          split
          · rename_i hh
            have := huniq b hb1 hh
            subst this
            rcases hq.2 with e | e <;> simp [Bag.holdsClose, e] at hb2
          · exact hb2

/-- So does the walk. -/
theorem aborts_hold (l : List (Fin 4)) (s : State) (hd : (s.bags.map Bag.sealNo).Nodup) :
    (l.foldl abortStep s).bags.any Bag.holdsClose = s.bags.any Bag.holdsClose := by
  induction l generalizing s with
  | nil => rfl
  | cons a l ih =>
    rw [List.foldl_cons]
    have h := abortStep_holds s a hd
    rw [ih _ (h.1 ▸ hd), h.2]

/-! ## The purge, and the missed-window check (R37, R137) -/

/-- A record in no terminal state stays (R37). -/
theorem purge_find (s : State) (n : Nat) (b : Bag) (h : findBag s n = some b) (ht : b.state.terminal = false) : findBag (purge s) n = some b := by
  unfold findBag purge at *
  rw [State.setBags_bags]
  obtain ⟨hp, as, bs, he, ha⟩ := List.find?_eq_some_iff_append.mp h
  rw [he, List.filter_append, List.find?_append]
  rw [List.find?_eq_none.mpr]
  · simp [ht]
    have : b.sealNo = n := by simpa using hp
    simp [this]
  · intro c hc
    have := ha c (List.mem_filter.mp hc).1
    simpa using this

/-- The check does not read the trunk. -/
theorem checkMissed_setTrunk (n : Nat) (x : Trunk) (s : State) : checkMissed n (s.setTrunk x) = (checkMissed n s).setTrunk x := by
  induction n generalizing s with
  | zero => rfl
  | succ n ih =>
    unfold checkMissed
    by_cases h : headMissed s = true
    · rw [if_pos (show headMissed (s.setTrunk x) = true from h), if_pos h, ← ih]
      rfl
    · rw [if_neg (show ¬ headMissed (s.setTrunk x) = true from h), if_neg h]

/-- How many slots PART owns. -/
def partSlots (s : State) : Nat := ((List.finRange 16).filter fun i => s.ring[i].owner = .part).length

/-- A missed head returned is a slot fewer that PART owns. -/
theorem partSlots_return (s : State) (h : headMissed s = true) (r : CallResult) : partSlots (returnSlot s.call.next r s) < partSlots s := by
  have hp : s.ring[s.call.next].owner = .part := by
    unfold headMissed at h
    simp at h
    exact h.1.2
  let d : Descriptor := { s.ring[s.call.next] with owner := .office, result := r, second := some s.seconds }
  have hr : (returnSlot s.call.next r s).ring = put s.ring s.call.next d := rfl
  unfold partSlots
  rw [hr]
  have hsub : ((List.finRange 16).filter fun i => decide ((put s.ring s.call.next d)[i].owner = .part)) =
    (((List.finRange 16).filter fun i => decide (s.ring[i].owner = .part)).filter fun i => i ≠ s.call.next) := by
    rw [List.filter_filter]
    apply List.filter_congr
    intro i _
    rw [put_get]
    by_cases hi : s.call.next = i
    · subst hi; simp
    · simp [hi, Ne.symm hi]
  rw [hsub]
  apply List.length_filter_lt_length_iff_exists.mpr
  exact ⟨s.call.next, List.mem_filter.mpr ⟨List.mem_finRange _, decide_eq_true hp⟩, by simp⟩

/-- A check that may go over all of the slots ends at a head that is not missed. -/
theorem checkMissed_done (n : Nat) (s : State) (h : partSlots s ≤ n) : headMissed (checkMissed n s) = false := by
  induction n generalizing s with
  | zero =>
    unfold checkMissed
    cases hm : headMissed s
    · rfl
    · have := partSlots_return s hm .missed
      omega
  | succ n ih =>
    unfold checkMissed
    by_cases hm : headMissed s = true
    · rw [if_pos hm]
      apply ih
      have := partSlots_return s hm .missed
      have : partSlots (raiseNum .windowMissed s.call.next.val (returnSlot s.call.next .missed s)) = partSlots (returnSlot s.call.next .missed s) := rfl
      omega
    · rw [if_neg hm]; simpa using hm

/-- After the check the head is no missed booking (R137). -/
theorem missedCheck_done (s : State) : headMissed (missedCheck s) = false := by
  refine checkMissed_done 16 s ?_
  unfold partSlots
  exact (List.length_filter_le _ _).trans (by simp)

end Sys2Proof.Machine
end

