-- ==== Sys2Proof/Laws/Lines.lean ====
section
/-! SUPPORT. What the receiver's errors and the transmitter's ends do at a port. -/

namespace Sys2Proof.Machine

/-- An error outside a window: the counter and the receiver, nothing else (R155). -/
theorem receiverError_plain {p : Port} {c : LineCounter} {s : State} (h : ∀ w, (s.port p).rx ≠ .markWindow w) :
    receiverError p c s = countError p c (s.setRx p .waitIdle) := by
  unfold receiverError
  split
  · rename_i w hw
    exact absurd hw (h w)
  · rfl

/-- An error in a window ends the window with the marks gathered so far (R155, R156). -/
theorem receiverError_window {p : Port} {c : LineCounter} {s : State} {w : Window} (h : (s.port p).rx = .markWindow w) :
    receiverError p c s = endWindow p w (countError p c (s.setRx p .waitIdle)) := by
  unfold receiverError
  rw [h]

/-- The place of the current frame is the only one that is freed (R164). -/
theorem freePlace_spec (p : Port) (src : TxSource) (s : State) :
    (∀ i, src = .outgoing i → freePlace p src s = s.setOut p { (s.port p).out with filled := (s.port p).out.filled.eraseIdx i }) ∧
    (src = .downlink → freePlace p src s = s.setDown p (s.port p).down.tail) := by
  cases src with
  | outgoing i =>
    refine ⟨fun j h => ?_, fun h => by cases h⟩
    cases h
    rfl
  | downlink => exact ⟨fun j h => (by cases h), fun _ => rfl⟩

/-- A failed attempt leaves the frame current below the limit, and discards it at the limit (R164). -/
theorem failAttempt_spec {p : Port} {s : State} {c : Current} (h : (s.port p).tx.current = some c) :
    (c.attempts < Config.attemptLimit ∧ failAttempt p s = txIdle p (some c) s) ∨
    (Config.attemptLimit ≤ c.attempts ∧ failAttempt p s = discardCurrent p c s) := by
  unfold failAttempt
  rw [h]
  dsimp only
  split
  · exact .inl ⟨by assumption, rfl⟩
  · exact .inr ⟨by omega, rfl⟩

/-- The transmitter put in IDLE changes the port's transmitter alone (R163). -/
theorem txIdle_port (p q : Port) (c : Option Current) (s : State) :
    (txIdle p c s).port q = if p = q then
      { s.port p with tx := { phase := .idle, current := c, marks := [], driven := (s.port p).tx.driven } } else s.port q := by
  cases p <;> cases q <;> rfl

/-- A window holds the destination's mark unless the frame is a broadcast (R164). -/
theorem destinationMarked_iff (f : LineFrame) (marks : List Byte) :
    destinationMarked f marks = true ↔ f.dest ≠ 255 ∧ f.dest ∈ marks := by
  simp [destinationMarked]

/-- The window of the part's own frame delivers it by its destination's mark, and fails it otherwise; a broadcast always fails (R164). -/
theorem closeWindow_spec {p : Port} {s : State} {c : Current} (h : (s.port p).tx.current = some c) :
    ((c.frame.dest ≠ 255 ∧ c.frame.dest ∈ (s.port p).tx.marks) ∧ closeWindow p s = freePlace p c.source (txIdle p none s)) ∨
    (¬(c.frame.dest ≠ 255 ∧ c.frame.dest ∈ (s.port p).tx.marks) ∧ closeWindow p s = failAttempt p s) := by
  rw [← destinationMarked_iff]
  unfold closeWindow deliverCurrent
  rw [h]
  dsimp only
  split
  · exact .inl ⟨by assumption, rfl⟩
  · exact .inr ⟨by assumption, rfl⟩

/-- A marked window is the receiver's MARK_WINDOW with the part's mark in it (R156). -/
theorem markedWindow_some {s : State} {p : Port} {w : Window} :
    markedWindow s p = some w ↔ (s.port p).rx = .markWindow w ∧ w.answer = .marked := by
  unfold markedWindow
  split
  · rename_i v hv
    split
    · rename_i hm
      simp only [hv, Option.some.injEq, Receiver.markWindow.injEq]
      constructor
      · rintro rfl
        exact ⟨rfl, hm⟩
      · exact fun h => h.1
    · rename_i hm
      simp only [hv, reduceCtorEq, Receiver.markWindow.injEq, false_iff, not_and]
      rintro rfl
      exact hm
  · rename_i h
    simp only [reduceCtorEq, false_iff, not_and]
    exact fun e => absurd e (h w)

/-- RESTART leaves a port with its counters and its line as they were, and nothing queued or current (R166). -/
theorem restartPort_port (p q : Port) (s : State) :
    (restartPort p s).port q = if p = q then
      { rx := (s.port p).rx.restarted, tx := Transmitter.reset, lineIdle := (s.port p).lineIdle
        out := { reserved := 0, filled := [] }, down := [], errors := (s.port p).errors } else s.port q := by
  cases p <;> cases q <;> rfl

end Sys2Proof.Machine
end

