-- ==== Sys2Proof/Laws/PerInstr.lean ====
section
/-! SUPPORT. What well-formedness says of the operands, command by command. -/

namespace Sys2Proof.Laws.Ranges

/-- The operands of a well-formed command lie in their ranges: a header bit below 40 (R151), one of four count sessions (R99), and the symbols that an
error command can be about (R155, R163). -/
def Statement (i : Instr) : Prop :=
  i.wf = true →
    (∀ p bit, i = .arbitrationLost p bit → bit < 40) ∧ (∀ n, i = .countIdleExpiry n → n < 4) ∧
    (∀ p x, i = .symbolError p x → x = .invalid ∨ x = .start ∨ x = .endOfData ∨ x = .endOfFrame) ∧
    (∀ p x incomplete, i = .framingError p x incomplete → x ≠ .invalid)

/-- A command without ranged operands. -/
theorem free_of_ranges {i : Instr} (h1 : ∀ p bit, i ≠ .arbitrationLost p bit) (h2 : ∀ n, i ≠ .countIdleExpiry n)
    (h3 : ∀ p x, i ≠ .symbolError p x) (h4 : ∀ p x incomplete, i ≠ .framingError p x incomplete) : Statement i :=
  fun _ => ⟨fun p b e => absurd e (h1 p b), fun n e => absurd e (h2 n), fun p x e => absurd e (h3 p x),
    fun p x inc e => absurd e (h4 p x inc)⟩

theorem powerOn : Statement .powerOn :=
  free_of_ranges (fun _ _ e => by cases e) (fun _ e => by cases e) (fun _ _ e => by cases e) (fun _ _ _ e => by cases e)

theorem frameStart (port : Port) : Statement (.frameStart port) :=
  free_of_ranges (fun _ _ e => by cases e) (fun _ e => by cases e) (fun _ _ e => by cases e) (fun _ _ _ e => by cases e)

theorem endOfData (port : Port) (bits : List Bool) : Statement (.endOfData port bits) :=
  free_of_ranges (fun _ _ e => by cases e) (fun _ e => by cases e) (fun _ _ e => by cases e) (fun _ _ _ e => by cases e)

theorem markByte (port : Port) (mark : Byte) : Statement (.markByte port mark) :=
  free_of_ranges (fun _ _ e => by cases e) (fun _ e => by cases e) (fun _ _ e => by cases e) (fun _ _ _ e => by cases e)

theorem unmarkedFrameDropped (port : Port) : Statement (.unmarkedFrameDropped port) :=
  free_of_ranges (fun _ _ e => by cases e) (fun _ e => by cases e) (fun _ _ e => by cases e) (fun _ _ _ e => by cases e)

theorem symbolError (port : Port) (symbol : LineSymbol) : Statement (.symbolError port symbol) := by
  intro h
  refine ⟨fun _ _ e => (by cases e), fun _ e => (by cases e), fun _ _ e => ?_, fun _ _ _ e => by cases e⟩
  cases e
  revert h
  cases symbol <;> simp [Instr.wf, LineSymbol.isSymbolError]

theorem framingError (port : Port) (symbol : LineSymbol) (incomplete : Bool) : Statement (.framingError port symbol incomplete) := by
  intro h
  refine ⟨fun _ _ e => (by cases e), fun _ e => (by cases e), fun _ _ e => (by cases e), fun _ _ _ e => ?_⟩
  cases e
  revert h
  cases symbol <;> simp [Instr.wf, LineSymbol.isFraming]

theorem longFrame (port : Port) : Statement (.longFrame port) :=
  free_of_ranges (fun _ _ e => by cases e) (fun _ e => by cases e) (fun _ _ e => by cases e) (fun _ _ _ e => by cases e)

theorem breakPulse (port : Port) : Statement (.breakPulse port) :=
  free_of_ranges (fun _ _ e => by cases e) (fun _ e => by cases e) (fun _ _ e => by cases e) (fun _ _ _ e => by cases e)

theorem lineIdle (port : Port) : Statement (.lineIdle port) :=
  free_of_ranges (fun _ _ e => by cases e) (fun _ e => by cases e) (fun _ _ e => by cases e) (fun _ _ _ e => by cases e)

theorem currentFrameChoice (port : Port) : Statement (.currentFrameChoice port) :=
  free_of_ranges (fun _ _ e => by cases e) (fun _ e => by cases e) (fun _ _ e => by cases e) (fun _ _ _ e => by cases e)

theorem transmitStart (port : Port) : Statement (.transmitStart port) :=
  free_of_ranges (fun _ _ e => by cases e) (fun _ e => by cases e) (fun _ _ e => by cases e) (fun _ _ _ e => by cases e)

theorem arbitrationLost (port : Port) (bit : Nat) : Statement (.arbitrationLost port bit) := by
  intro h
  have hb : bit < 40 := by simpa [Instr.wf] using h
  exact ⟨fun _ _ e => (by cases e; exact hb), fun _ e => (by cases e), fun _ _ e => (by cases e), fun _ _ _ e => by cases e⟩

theorem headerSent (port : Port) : Statement (.headerSent port) :=
  free_of_ranges (fun _ _ e => by cases e) (fun _ e => by cases e) (fun _ _ e => by cases e) (fun _ _ _ e => by cases e)

theorem sendClash (port : Port) : Statement (.sendClash port) :=
  free_of_ranges (fun _ _ e => by cases e) (fun _ e => by cases e) (fun _ _ e => by cases e) (fun _ _ _ e => by cases e)

theorem dataSent (port : Port) : Statement (.dataSent port) :=
  free_of_ranges (fun _ _ e => by cases e) (fun _ e => by cases e) (fun _ _ e => by cases e) (fun _ _ _ e => by cases e)

theorem windowClose (port : Port) : Statement (.windowClose port) :=
  free_of_ranges (fun _ _ e => by cases e) (fun _ e => by cases e) (fun _ _ e => by cases e) (fun _ _ _ e => by cases e)

theorem safeCommandPlaced : Statement .safeCommandPlaced :=
  free_of_ranges (fun _ _ e => by cases e) (fun _ e => by cases e) (fun _ _ e => by cases e) (fun _ _ _ e => by cases e)

theorem tender (port : Port) : Statement (.tender port) :=
  free_of_ranges (fun _ _ e => by cases e) (fun _ e => by cases e) (fun _ _ e => by cases e) (fun _ _ _ e => by cases e)

theorem refund (port : Port) : Statement (.refund port) :=
  free_of_ranges (fun _ _ e => by cases e) (fun _ e => by cases e) (fun _ _ e => by cases e) (fun _ _ _ e => by cases e)

theorem pickup (port : Port) : Statement (.pickup port) :=
  free_of_ranges (fun _ _ e => by cases e) (fun _ e => by cases e) (fun _ _ e => by cases e) (fun _ _ _ e => by cases e)

theorem cashup (port : Port) : Statement (.cashup port) :=
  free_of_ranges (fun _ _ e => by cases e) (fun _ e => by cases e) (fun _ _ e => by cases e) (fun _ _ _ e => by cases e)

theorem tillOpen (port : Port) : Statement (.tillOpen port) :=
  free_of_ranges (fun _ _ e => by cases e) (fun _ e => by cases e) (fun _ _ e => by cases e) (fun _ _ _ e => by cases e)

theorem floatReceipt (port : Port) : Statement (.floatReceipt port) :=
  free_of_ranges (fun _ _ e => by cases e) (fun _ e => by cases e) (fun _ _ e => by cases e) (fun _ _ _ e => by cases e)

theorem declare (port : Port) : Statement (.declare port) :=
  free_of_ranges (fun _ _ e => by cases e) (fun _ e => by cases e) (fun _ _ e => by cases e) (fun _ _ _ e => by cases e)

theorem makeUpFloat (port : Port) : Statement (.makeUpFloat port) :=
  free_of_ranges (fun _ _ e => by cases e) (fun _ e => by cases e) (fun _ _ e => by cases e) (fun _ _ _ e => by cases e)

theorem makeUpConsignment (port : Port) : Statement (.makeUpConsignment port) :=
  free_of_ranges (fun _ _ e => by cases e) (fun _ e => by cases e) (fun _ _ e => by cases e) (fun _ _ _ e => by cases e)

theorem restock (port : Port) : Statement (.restock port) :=
  free_of_ranges (fun _ _ e => by cases e) (fun _ e => by cases e) (fun _ _ e => by cases e) (fun _ _ _ e => by cases e)

theorem drop (port : Port) : Statement (.drop port) :=
  free_of_ranges (fun _ _ e => by cases e) (fun _ e => by cases e) (fun _ _ e => by cases e) (fun _ _ _ e => by cases e)

theorem withdraw (port : Port) : Statement (.withdraw port) :=
  free_of_ranges (fun _ _ e => by cases e) (fun _ e => by cases e) (fun _ _ e => by cases e) (fun _ _ _ e => by cases e)

theorem deposit (port : Port) : Statement (.deposit port) :=
  free_of_ranges (fun _ _ e => by cases e) (fun _ e => by cases e) (fun _ _ e => by cases e) (fun _ _ _ e => by cases e)

theorem doorOpen (port : Port) : Statement (.doorOpen port) :=
  free_of_ranges (fun _ _ e => by cases e) (fun _ e => by cases e) (fun _ _ e => by cases e) (fun _ _ _ e => by cases e)

theorem doorClosed (port : Port) : Statement (.doorClosed port) :=
  free_of_ranges (fun _ _ e => by cases e) (fun _ e => by cases e) (fun _ _ e => by cases e) (fun _ _ _ e => by cases e)

theorem openRequest (port : Port) : Statement (.openRequest port) :=
  free_of_ranges (fun _ _ e => by cases e) (fun _ e => by cases e) (fun _ _ e => by cases e) (fun _ _ _ e => by cases e)

theorem openCancel (port : Port) : Statement (.openCancel port) :=
  free_of_ranges (fun _ _ e => by cases e) (fun _ e => by cases e) (fun _ _ e => by cases e) (fun _ _ _ e => by cases e)

theorem openConfirm (port : Port) : Statement (.openConfirm port) :=
  free_of_ranges (fun _ _ e => by cases e) (fun _ e => by cases e) (fun _ _ e => by cases e) (fun _ _ _ e => by cases e)

theorem delayExpiry : Statement .delayExpiry :=
  free_of_ranges (fun _ _ e => by cases e) (fun _ e => by cases e) (fun _ _ e => by cases e) (fun _ _ _ e => by cases e)

theorem windowExpiry : Statement .windowExpiry :=
  free_of_ranges (fun _ _ e => by cases e) (fun _ e => by cases e) (fun _ _ e => by cases e) (fun _ _ _ e => by cases e)

theorem relockExpiry : Statement .relockExpiry :=
  free_of_ranges (fun _ _ e => by cases e) (fun _ e => by cases e) (fun _ _ e => by cases e) (fun _ _ _ e => by cases e)

theorem bagOpen (port : Port) : Statement (.bagOpen port) :=
  free_of_ranges (fun _ _ e => by cases e) (fun _ e => by cases e) (fun _ _ e => by cases e) (fun _ _ _ e => by cases e)

theorem batch (port : Port) : Statement (.batch port) :=
  free_of_ranges (fun _ _ e => by cases e) (fun _ e => by cases e) (fun _ _ e => by cases e) (fun _ _ _ e => by cases e)

theorem handKey (port : Port) : Statement (.handKey port) :=
  free_of_ranges (fun _ _ e => by cases e) (fun _ e => by cases e) (fun _ _ e => by cases e) (fun _ _ _ e => by cases e)

theorem bagClose (port : Port) : Statement (.bagClose port) :=
  free_of_ranges (fun _ _ e => by cases e) (fun _ e => by cases e) (fun _ _ e => by cases e) (fun _ _ _ e => by cases e)

theorem countAbort (port : Port) : Statement (.countAbort port) :=
  free_of_ranges (fun _ _ e => by cases e) (fun _ e => by cases e) (fun _ _ e => by cases e) (fun _ _ _ e => by cases e)

theorem countIdleExpiry (session : Nat) : Statement (.countIdleExpiry session) := by
  intro h
  have hb : session < 4 := by simpa [Instr.wf] using h
  exact ⟨fun _ _ e => (by cases e), fun _ e => (by cases e; exact hb), fun _ _ e => (by cases e), fun _ _ _ e => by cases e⟩

theorem announce (port : Port) : Statement (.announce port) :=
  free_of_ranges (fun _ _ e => by cases e) (fun _ e => by cases e) (fun _ _ e => by cases e) (fun _ _ _ e => by cases e)

theorem load (port : Port) : Statement (.load port) :=
  free_of_ranges (fun _ _ e => by cases e) (fun _ e => by cases e) (fun _ _ e => by cases e) (fun _ _ _ e => by cases e)

theorem receive (port : Port) : Statement (.receive port) :=
  free_of_ranges (fun _ _ e => by cases e) (fun _ e => by cases e) (fun _ _ e => by cases e) (fun _ _ _ e => by cases e)

theorem sign (port : Port) : Statement (.sign port) :=
  free_of_ranges (fun _ _ e => by cases e) (fun _ e => by cases e) (fun _ _ e => by cases e) (fun _ _ _ e => by cases e)

theorem exchangeTimeout : Statement .exchangeTimeout :=
  free_of_ranges (fun _ _ e => by cases e) (fun _ e => by cases e) (fun _ _ e => by cases e) (fun _ _ _ e => by cases e)

theorem signTimeout : Statement .signTimeout :=
  free_of_ranges (fun _ _ e => by cases e) (fun _ e => by cases e) (fun _ _ e => by cases e) (fun _ _ _ e => by cases e)

theorem dayClockAdvance : Statement .dayClockAdvance :=
  free_of_ranges (fun _ _ e => by cases e) (fun _ e => by cases e) (fun _ _ e => by cases e) (fun _ _ _ e => by cases e)

theorem opaqueFrame (port : Port) : Statement (.opaqueFrame port) :=
  free_of_ranges (fun _ _ e => by cases e) (fun _ e => by cases e) (fun _ _ e => by cases e) (fun _ _ _ e => by cases e)

theorem unknownKindFrame (port : Port) : Statement (.unknownKindFrame port) :=
  free_of_ranges (fun _ _ e => by cases e) (fun _ e => by cases e) (fun _ _ e => by cases e) (fun _ _ _ e => by cases e)

theorem trunkFrameReceived (chars : List Byte) : Statement (.trunkFrameReceived chars) :=
  free_of_ranges (fun _ _ e => by cases e) (fun _ e => by cases e) (fun _ _ e => by cases e) (fun _ _ _ e => by cases e)

theorem trunkHoldInput (asserted : Bool) : Statement (.trunkHoldInput asserted) :=
  free_of_ranges (fun _ _ e => by cases e) (fun _ e => by cases e) (fun _ _ e => by cases e) (fun _ _ _ e => by cases e)

theorem trunkFrameStart : Statement .trunkFrameStart :=
  free_of_ranges (fun _ _ e => by cases e) (fun _ e => by cases e) (fun _ _ e => by cases e) (fun _ _ _ e => by cases e)

theorem trunkFrameSent : Statement .trunkFrameSent :=
  free_of_ranges (fun _ _ e => by cases e) (fun _ e => by cases e) (fun _ _ e => by cases e) (fun _ _ _ e => by cases e)

theorem send : Statement .send :=
  free_of_ranges (fun _ _ e => by cases e) (fun _ e => by cases e) (fun _ _ e => by cases e) (fun _ _ _ e => by cases e)

theorem requestUnknown : Statement .requestUnknown :=
  free_of_ranges (fun _ _ e => by cases e) (fun _ e => by cases e) (fun _ _ e => by cases e) (fun _ _ _ e => by cases e)

theorem tableSelect : Statement .tableSelect :=
  free_of_ranges (fun _ _ e => by cases e) (fun _ e => by cases e) (fun _ _ e => by cases e) (fun _ _ _ e => by cases e)

theorem tableGet : Statement .tableGet :=
  free_of_ranges (fun _ _ e => by cases e) (fun _ e => by cases e) (fun _ _ e => by cases e) (fun _ _ _ e => by cases e)

theorem tablePut : Statement .tablePut :=
  free_of_ranges (fun _ _ e => by cases e) (fun _ e => by cases e) (fun _ _ e => by cases e) (fun _ _ _ e => by cases e)

theorem tablePutDenom : Statement .tablePutDenom :=
  free_of_ranges (fun _ _ e => by cases e) (fun _ e => by cases e) (fun _ _ e => by cases e) (fun _ _ _ e => by cases e)

theorem tablePutNode : Statement .tablePutNode :=
  free_of_ranges (fun _ _ e => by cases e) (fun _ e => by cases e) (fun _ _ e => by cases e) (fun _ _ _ e => by cases e)

theorem tablePutWitness : Statement .tablePutWitness :=
  free_of_ranges (fun _ _ e => by cases e) (fun _ e => by cases e) (fun _ _ e => by cases e) (fun _ _ _ e => by cases e)

theorem tablePutTill : Statement .tablePutTill :=
  free_of_ranges (fun _ _ e => by cases e) (fun _ e => by cases e) (fun _ _ e => by cases e) (fun _ _ _ e => by cases e)

theorem tablePutTiming : Statement .tablePutTiming :=
  free_of_ranges (fun _ _ e => by cases e) (fun _ e => by cases e) (fun _ _ e => by cases e) (fun _ _ _ e => by cases e)

theorem tablePutRing : Statement .tablePutRing :=
  free_of_ranges (fun _ _ e => by cases e) (fun _ e => by cases e) (fun _ _ e => by cases e) (fun _ _ _ e => by cases e)

theorem status : Statement .status :=
  free_of_ranges (fun _ _ e => by cases e) (fun _ e => by cases e) (fun _ _ e => by cases e) (fun _ _ _ e => by cases e)

theorem eventsRead : Statement .eventsRead :=
  free_of_ranges (fun _ _ e => by cases e) (fun _ e => by cases e) (fun _ _ e => by cases e) (fun _ _ _ e => by cases e)

theorem clearEvents : Statement .clearEvents :=
  free_of_ranges (fun _ _ e => by cases e) (fun _ e => by cases e) (fun _ _ e => by cases e) (fun _ _ _ e => by cases e)

theorem eventEnable : Statement .eventEnable :=
  free_of_ranges (fun _ _ e => by cases e) (fun _ e => by cases e) (fun _ _ e => by cases e) (fun _ _ _ e => by cases e)

theorem tallyRead : Statement .tallyRead :=
  free_of_ranges (fun _ _ e => by cases e) (fun _ e => by cases e) (fun _ _ e => by cases e) (fun _ _ _ e => by cases e)

theorem tallyReadClear : Statement .tallyReadClear :=
  free_of_ranges (fun _ _ e => by cases e) (fun _ e => by cases e) (fun _ _ e => by cases e) (fun _ _ _ e => by cases e)

theorem dayOpen : Statement .dayOpen :=
  free_of_ranges (fun _ _ e => by cases e) (fun _ e => by cases e) (fun _ _ e => by cases e) (fun _ _ _ e => by cases e)

theorem dayTrade : Statement .dayTrade :=
  free_of_ranges (fun _ _ e => by cases e) (fun _ e => by cases e) (fun _ _ e => by cases e) (fun _ _ _ e => by cases e)

theorem dayClose : Statement .dayClose :=
  free_of_ranges (fun _ _ e => by cases e) (fun _ e => by cases e) (fun _ _ e => by cases e) (fun _ _ _ e => by cases e)

theorem dayCloseForce : Statement .dayCloseForce :=
  free_of_ranges (fun _ _ e => by cases e) (fun _ e => by cases e) (fun _ _ e => by cases e) (fun _ _ _ e => by cases e)

theorem setClock : Statement .setClock :=
  free_of_ranges (fun _ _ e => by cases e) (fun _ e => by cases e) (fun _ _ e => by cases e) (fun _ _ _ e => by cases e)

theorem consignHand : Statement .consignHand :=
  free_of_ranges (fun _ _ e => by cases e) (fun _ e => by cases e) (fun _ _ e => by cases e) (fun _ _ _ e => by cases e)

theorem consignRecall : Statement .consignRecall :=
  free_of_ranges (fun _ _ e => by cases e) (fun _ e => by cases e) (fun _ _ e => by cases e) (fun _ _ _ e => by cases e)

theorem hatchRelease : Statement .hatchRelease :=
  free_of_ranges (fun _ _ e => by cases e) (fun _ e => by cases e) (fun _ _ e => by cases e) (fun _ _ _ e => by cases e)

theorem orderCancel : Statement .orderCancel :=
  free_of_ranges (fun _ _ e => by cases e) (fun _ e => by cases e) (fun _ _ e => by cases e) (fun _ _ _ e => by cases e)

theorem safeRelease : Statement .safeRelease :=
  free_of_ranges (fun _ _ e => by cases e) (fun _ e => by cases e) (fun _ _ e => by cases e) (fun _ _ _ e => by cases e)

theorem stockSet : Statement .stockSet :=
  free_of_ranges (fun _ _ e => by cases e) (fun _ e => by cases e) (fun _ _ e => by cases e) (fun _ _ _ e => by cases e)

theorem suspectRelease : Statement .suspectRelease :=
  free_of_ranges (fun _ _ e => by cases e) (fun _ e => by cases e) (fun _ _ e => by cases e) (fun _ _ _ e => by cases e)

theorem tillSuspend : Statement .tillSuspend :=
  free_of_ranges (fun _ _ e => by cases e) (fun _ e => by cases e) (fun _ _ e => by cases e) (fun _ _ _ e => by cases e)

theorem restart : Statement .restart :=
  free_of_ranges (fun _ _ e => by cases e) (fun _ e => by cases e) (fun _ _ e => by cases e) (fun _ _ _ e => by cases e)

end Sys2Proof.Laws.Ranges
end

