-- ==== Sys2Proof/Laws/Stock.lean ====
section
/-! SUPPORT. Face order, and which code a refused addition names. -/

namespace Sys2Proof.Machine

theorem insertFace_perm (s : State) (c : Fin 12) (l : List (Fin 12)) : (insertFace s c l).Perm (c :: l) := by
  induction l with
  | nil => exact List.Perm.refl _
  | cons d rest ih =>
    unfold insertFace
    split
    · exact (ih.cons d).trans (List.Perm.swap c d rest)
    · exact List.Perm.refl _

theorem foldl_insertFace_perm (s : State) (cs l : List (Fin 12)) :
    (cs.foldl (fun l c => insertFace s c l) l).Perm (cs ++ l) := by
  induction cs generalizing l with
  | nil => exact List.Perm.refl _
  | cons c cs ih => exact (ih _).trans (((insertFace_perm s c l).append_left cs).trans List.perm_middle)

/-- Face order holds each enabled code once and no other (R8). -/
theorem faceOrder_perm (s : State) : (faceOrder s).Perm (codes.filter fun c => s.denoms[c].enabled) := by
  have h := foldl_insertFace_perm s (codes.filter fun c => s.denoms[c].enabled) []
  rwa [List.append_nil] at h

/-- The order of the STOCK lines holds each of the twelve codes once (R9, R192). -/
theorem stockOrder_perm (s : State) : (stockOrder s).Perm codes :=
  ((faceOrder_perm s).append_right _).trans (List.filter_append_perm (fun c => s.denoms[c].enabled) codes)

theorem mem_stockOrder (s : State) (c : Fin 12) : c ∈ stockOrder s := (stockOrder_perm s).mem_iff.mpr (List.mem_finRange c)

/-- An addition of several codes is refused exactly when that of one code is (R12). -/
theorem firstRefused_none {s : State} {counts : Vector Nat 12} :
    firstRefused s counts = none ↔ ∀ c : Fin 12, additionRefused s.denoms[c] s.stock[c] counts[c] = false := by
  simp only [firstRefused, List.find?_eq_none, Bool.not_eq_true]
  exact ⟨fun h c => h c (mem_stockOrder s c), fun h c _ => h c⟩

/-- A close request is refused exactly when some addition is, or some suspect hold would pass its top (R13). -/
theorem closeRefused_none {s : State} {accepted suspect : Vector Nat 12} :
    closeRefused s accepted suspect = none ↔
      ∀ c : Fin 12, additionRefused s.denoms[c] s.stock[c] accepted[c] = false ∧
        s.stock[c].suspect + suspect[c] ≤ Config.top32 := by
  simp only [closeRefused, List.find?_eq_none, Bool.or_eq_true, decide_eq_true_eq, not_or, Bool.not_eq_true, Nat.not_lt]
  exact ⟨fun h c => h c (mem_stockOrder s c), fun h c _ => h c⟩

/-- The code that a refused close names fails, and every code before it in face order passes (R8, R106). -/
theorem closeRefused_some {s : State} {accepted suspect : Vector Nat 12} {c : Fin 12} (h : closeRefused s accepted suspect = some c) :
    (additionRefused s.denoms[c] s.stock[c] accepted[c] = true ∨ Config.top32 < s.stock[c].suspect + suspect[c]) ∧
      ∃ before after, stockOrder s = before ++ c :: after ∧
        ∀ k ∈ before, additionRefused s.denoms[k] s.stock[k] accepted[k] = false ∧
          s.stock[k].suspect + suspect[k] ≤ Config.top32 := by
  obtain ⟨hc, before, after, he, hb⟩ := List.find?_eq_some_iff_append.mp h
  refine ⟨by simpa using hc, before, after, he, fun k hk => ?_⟩
  have := hb k hk
  simp only [Bool.not_eq_true', Bool.or_eq_false_iff, decide_eq_false_iff_not, Nat.not_lt] at this
  exact this

end Sys2Proof.Machine
end

