-- ==== Sys2Proof/Tests/Slice0.lean ====
section
/-! SUPPORT. Tests of the model against figures of the manual, the refusals of ill-formed commands, and for every statement with hypotheses a concrete
state and operands that meet them. -/

namespace Sys2Proof.Tests

open Sys2Proof.Machine

/- One theorem after another: each kernel evaluation waits for the environment, and waiting side by side takes a thread for each. -/
set_option Elab.async false

/-! ## A small shop: a till with its badge, a carrier, a counter, a safe, a hatch, a courier reader and three consoles -/

/-- An enabled node of till 0 and session slot 0. -/
def nodeAs (p : NodePort) (r : Role) : Node := { port := p, role := r, till := 0, slot := 0, enabled := true }

/-- Node identities 2 to 11. -/
def shopNodes : Vector Node 252 :=
  put (put (put (put (put (put (put (put (put (put State.reset.nodes 0 (nodeAs .floor .till)) 1 (nodeAs .floor .tillBadge)) 2
    (nodeAs .floor .carrier)) 3 (nodeAs .room .counter)) 4 (nodeAs .room .safe)) 5 (nodeAs .room .hatch)) 6
    (nodeAs .room .courierReader)) 7 (nodeAs .room .console)) 8 (nodeAs .room .console)) 9 (nodeAs .room .console)

/-- A note of 500 in straps of 100 and packets of 10, a coin of 100 in straps and packets of 50. -/
def shopDenoms : Vector Denom 12 :=
  put (put State.reset.denoms 0 { face := 500, kind := .note, strap := 100, packet := 10, enabled := true }) 1
    { face := 100, kind := .coin, strap := 50, packet := 50, enabled := true }

/-- 230 notes and 200 coins. -/
def shopStock : Vector StockRec 12 :=
  put (put State.reset.stock 0 { loose := 30, straps := 2, reserved := 20, suspect := 3 }) 1
    { loose := 0, straps := 4, reserved := 0, suspect := 0 }

/-- The entry of till 0: 20 notes wanted. -/
def shopTill : TillEntry :=
  { node := 2, badge := 3, targets := put (Vector.replicate 12 0) 0 20, targetValue := 10000, skimLevel := 5000
    hardLimit := 20000, topUpCap := 5000, skimFloor := 500, enabled := true }

/-- A drawer of till 0 in a state, expecting 12,000. -/
def drawerIn (d : DrawerState) : Drawer := { Drawer.reset with state := d, expected := 12000 }

/-- The shop in a day state, its drawer OPEN, nothing pending. -/
def shop (day : DayState) : State :=
  { State.reset with
    nodes := shopNodes, denoms := shopDenoms, stock := shopStock, tills := put State.reset.tills 0 shopTill
    drawers := put State.reset.drawers 0 (drawerIn .opened), acc := { Accumulators.reset with opening := 135000 }
    day := { Day.reset with state := day, number := 1, armed := false }, seconds := 100
    floor := { LinePort.reset with rx := .idle, lineIdle := true }, room := { LinePort.reset with rx := .idle, lineIdle := true }
    events := State.reset.events.set 25 EventRec.reset, vector := 0, attention := false }

/-- A bag record of declared value 3,000, made on the shop's day. -/
def bagOf (n : Nat) (k : BagKind) (st : BagState) : Bag := newBag (shop .trading) k st n 3000 (some 0) none none

/-- A frame of a job kind with its destination and mark mode. -/
def frameOf (k : JobKind) (src : Byte) (body : List Byte) : LineFrame :=
  { pb := if k.guardRow.isSome then 0x10 else 0x08, kind := k.byte, dest := k.dest, src := src, body := body }

/-- Its window, with the part's mark and the marks of others. -/
def windowOf (k : JobKind) (src : Byte) (body : List Byte) (marks : List Byte) : Window :=
  { frame := frameOf k src body, crc := 7, answer := .marked, marks := 1 :: marks }

/-- A port that holds a window, with its two places reserved. -/
def holding (p : Port) (w : Window) (s : State) : State :=
  ((s.setRx p (.markWindow w)).setOut p { (s.port p).out with reserved := 1 }).setUplink { s.uplink with reserved := 1 }

/-- A request at the head of the buffer. -/
def asking (code : Byte) (fields : List Byte) (s : State) : State :=
  s.setTrunk { s.trunk with buffer := [.request 5 code fields] }

/-- What `TakenAs` asks for, as one check. -/
def takenCheck (s : State) (p : Port) (w : Window) (k : JobKind) (pair : Option (Byte × Byte)) : Bool :=
  decide ((s.port p).rx = .markWindow w) && decide (w.answer = .marked) && decide (0 < s.uplink.reserved) &&
    decide (0 < (s.port p).out.reserved) && decide (inspectForm (w.taken p) s = .ok k) &&
    match k.guardRow with
    | none => decide (pair = none)
    | some i => pair.isSome && decide (witnessPair s s.witness[i] (w.taken p) = pair)

theorem takenAs_of_check {s : State} {p : Port} {w : Window} {k : JobKind} {pair : Option (Byte × Byte)}
    (h : takenCheck s p w k pair = true) : TakenAs s p w k pair := by
  unfold takenCheck at h
  simp only [Bool.and_eq_true, decide_eq_true_eq] at h
  obtain ⟨⟨⟨⟨⟨h1, h2⟩, h3⟩, h4⟩, h5⟩, h6⟩ := h
  refine ⟨⟨h1, h2, h3, fun _ => h4⟩, h5, ?_⟩
  revert h6
  cases k.guardRow with
  | none => exact fun h6 => of_decide_eq_true h6
  | some i =>
    intro h6
    simp only [Bool.and_eq_true, decide_eq_true_eq] at h6
    obtain ⟨q, hq⟩ := Option.isSome_iff_exists.mp h6.1
    exact ⟨q, hq, h6.2.trans hq⟩

/-! ## Ill-formed commands are refused -/

theorem test_wf_header_bit : (Instr.arbitrationLost .floor 40).wf = false ∧ (Instr.arbitrationLost .floor 39).wf = true := by decide
theorem test_wf_session : (Instr.countIdleExpiry 4).wf = false ∧ (Instr.countIdleExpiry 3).wf = true := by decide
theorem test_wf_symbol_error : (Instr.symbolError .room .dataBit).wf = false ∧ (Instr.symbolError .room .invalid).wf = true := by decide
theorem test_wf_framing_error :
    (Instr.framingError .room .invalid true).wf = false ∧ (Instr.framingError .room .endOfFrame true).wf = true := by decide

/-! ## Figures of the manual -/

/-- The check value of R152. -/
theorem test_crc_check_value : crc16 [0x31, 0x32, 0x33, 0x34, 0x35, 0x36, 0x37, 0x38, 0x39] = 0x29B1#16 := by decide +kernel

/-- The example under R12: 12 pieces onto loose 95 and straps 40 of 100. -/
theorem test_addition_carries :
    let d : Denom := { face := 1000, kind := .note, strap := 100, packet := 10, enabled := true }
    let r : StockRec := { loose := 95, straps := 40, reserved := 0, suspect := 0 }
    (addPieces d r 12).loose = 7 ∧ (addPieces d r 12).straps = 41 ∧ held d r = 4095 ∧ held d (addPieces d r 12) = 4107 := by
  decide

/-- The example under R45: last 100, incoming 90 gives the gap 65,525. -/
theorem test_sequence_gap : sequenceCheck { Drawer.reset with lastSeq := some 100, lastCrc := some 7 } 90 8 = .passes 65525 := by
  decide

/-! ## Witnesses: a state in which every block is at work -/

/-- A count under way, the lock's delay running, an exchange on slot 0, a SEND that waits, a marked frame in the Floor Port's window. -/
def busy : State :=
  let s := shop .trading
  { holding .floor (windowOf .tender 2 [] []) s with
    bags := [bagOf 7 .pickup .counting, bagOf 8 .consignment .inSafe]
    sessions := put s.sessions 0 { Session.reset with state := .counting, bag := 7, timer := some 400 }
    safe := { s.safe with inventory := [{ sealNo := 8, way := .door, second := 0 }], lock := .delay, timer := some 700 }
    ring := put s.ring 0 { Descriptor.reset with owner := .part, windowEnd := 1439 }
    call := { s.call with phase := .exchange, slot := some 0, timer := some 900 }
    trunk := { s.trunk with buffer := [.send 5 0 8 16 2 []], sendWaits := true }
    day := { s.day with clock := 1439, number := 65535 } }

theorem busy_inventory (n : Nat) : n ∈ busy.safe.inventory.map SafeEntry.sealNo ↔ bagIn busy n .inSafe = true := by
  have h : busy.bags = [bagOf 7 .pickup .counting, bagOf 8 .consignment .inSafe] := rfl
  have hi : busy.safe.inventory.map SafeEntry.sealNo = [8] := rfl
  rw [hi]
  unfold bagIn findBag
  rw [h]
  by_cases h7 : n = 7
  · subst h7
    decide +kernel
  · by_cases h8 : n = 8
    · subst h8
      decide +kernel
    · have e : ([bagOf 7 .pickup .counting, bagOf 8 .consignment .inSafe].find? fun b => decide (b.sealNo = n)) = none := by
        simp [bagOf, newBag, Ne.symm h7, Ne.symm h8]
      rw [e]
      simp [h8]

/-- The premises of StepKeepsSettled, StepKeepsRegister, StepKeepsPlaces, StepKeepsRanges and StepKeepsSessions. -/
theorem witness_step_keeps :
    Settled busy ∧ SealsDistinct busy ∧ InventoryMatches busy ∧ PlacesHeld busy ∧ ReservationsMatch busy ∧ DayInRange busy ∧
    DenomsInRange busy ∧ SessionSound busy ∧ LockTimed busy ∧ IdleTimed busy ∧ WaitingSound busy ∧ step busy = .next (tick busy) := by
  refine ⟨⟨by decide +kernel, fun e => ?_⟩, by unfold SealsDistinct; decide +kernel, ⟨by decide +kernel, busy_inventory⟩,
    ⟨fun p => ?_, by decide +kernel, by decide +kernel, by decide +kernel, by decide +kernel⟩, ⟨fun p => ?_, by decide +kernel, fun p => ?_⟩,
    by unfold DayInRange; decide +kernel, by unfold DenomsInRange; decide +kernel, by unfold SessionSound; decide +kernel,
    by unfold LockTimed; decide +kernel, by unfold IdleTimed; decide +kernel, fun _ => ⟨rfl, 5, 0, 8, 16, 2, [], [], rfl⟩, rfl⟩
  · cases e <;> decide +kernel
  · cases p <;> decide +kernel
  · cases p <;> rfl
  · cases p <;> decide +kernel

/-- The premises of the last clause of StepKeepsSessions: a session and the record it counts, beside a pinned consignment. -/
theorem witness_counts_match :
    let s := ((shop .trading).setBags [{ bagOf 7 .pickup .counting with session := some 3 },
      { bagOf 8 .consignment .hatchHeld with pin := some 15 }]).setSessions
      (put State.reset.sessions 3 { Session.reset with state := .counting, bag := 7, timer := some 400 })
    SealsDistinct s ∧ PinsSound s ∧ CountsMatch s ∧ step s = .next (tick s) := by
  refine ⟨by unfold SealsDistinct; decide +kernel, by unfold PinsSound; decide +kernel, ⟨fun x => ?_, ?_⟩, rfl⟩
  · intro h
    refine ⟨{ bagOf 7 .pickup .counting with session := some 3 }, ?_⟩
    revert x
    decide +kernel
  · decide +kernel

/-- The shop at second 100 with a lock, a phase and session 3 COUNTING, their timers at one deadline, the day clock's value taken 60 seconds before
it, a SAFE_COMMAND owed. -/
def waitingFor (deadline : Nat) (l : LockState) (p : Phase) : State :=
  let s := shop .trading
  { s with
    safe := { s.safe with lock := l, timer := some deadline, owed := true }
    call := { s.call with phase := p, timer := some deadline }
    sessions := put s.sessions 3 { Session.reset with state := .counting, timer := some deadline }
    day := { s.day with clockSecond := deadline - 60 } }

/-- The premises of StepRunsFrontCommand: a command in front, and an empty queue with every timer due at the very next second or one later. -/
theorem witness_step :
    (busy.setPending [.lineIdle .room]).pending = [.lineIdle .room] ∧ busy.pending = [] ∧
    ((waitingFor 101 .delay .exchange).pending = [] ∧ (tick (waitingFor 101 .delay .exchange)).pending =
      [.delayExpiry, .countIdleExpiry 3, .exchangeTimeout, .dayClockAdvance, .safeCommandPlaced]) ∧
    (tick (waitingFor 101 .window .signing)).pending =
      [.windowExpiry, .countIdleExpiry 3, .signTimeout, .dayClockAdvance, .safeCommandPlaced] ∧
    (tick (waitingFor 101 .unlocked .idle)).pending = [.relockExpiry, .countIdleExpiry 3, .dayClockAdvance, .safeCommandPlaced] ∧
    (tick (waitingFor 102 .unlocked .signing)).pending = [.safeCommandPlaced] :=
  ⟨rfl, rfl, by decide +kernel, by decide +kernel, by decide +kernel, by decide +kernel⟩

/-! ## Witnesses: encodings -/

/-- A line frame with a body of 40 bytes (LineFrameRoundTrip). -/
theorem witness_line_frame : (frameOf .declare 2 (List.replicate 40 0xA5)).body.length ≤ 40 := by decide

/-- A buffer with one place, and the longest payloads (TrunkFrameRoundTrip). -/
theorem witness_trunk_frame :
    let s := (shop .night).setTrunk { Trunk.reset with buffer := List.replicate 3 (.request 1 0x18 []) }
    s.trunk.rx = .hunting ∧ s.trunk.buffer.length < 4 ∧ (List.replicate 509 (0#8)).length ≤ 509 ∧
      (List.replicate 255 (0#8)).length ≤ 255 := by decide +kernel

/-- Fields at the ends of their widths (TableEntryRoundTrip). -/
theorem witness_table_entry :
    let d : Denom := { face := 16777215, kind := .coin, strap := 65535, packet := 65535, enabled := true }
    let e : TillEntry := { shopTill with targets := Vector.replicate 12 65535, targetValue := 4294967295, skimLevel := 4294967295
                                         hardLimit := 4294967295, topUpCap := 4294967295, skimFloor := 16777215 }
    let r : Descriptor := { Descriptor.reset with
      owner := .part, number := 4294967295, courier := 4294967295, windowStart := 65535, windowEnd := 65535
      outbound := List.replicate 12 4294967295, inboundCount := 255, inboundValue := 4294967295 }
    (d.face < 256 ^ 3 ∧ d.strap < 256 ^ 2 ∧ d.packet < 256 ^ 2) ∧ (∀ c : Fin 12, e.targets[c] < 256 ^ 2) ∧
      (e.targetValue < 256 ^ 4 ∧ e.skimLevel < 256 ^ 4 ∧ e.hardLimit < 256 ^ 4 ∧ e.topUpCap < 256 ^ 4 ∧ e.skimFloor < 256 ^ 3) ∧
      (∀ k : Fin 14, State.reset.timing.values[k] < 256 ^ timingWidth[k]) ∧
      (r.number < 256 ^ 4 ∧ r.windowEnd < 256 ^ 2 ∧ r.outbound.length < 256 ∧ (∀ n ∈ r.outbound, n < 256 ^ 4) ∧
        r.inboundCount < 256 ∧ r.inboundValue < 256 ^ 4) := by
  decide +kernel

/-- Fields at the ends of their ranges (LineBodiesRead). -/
theorem witness_line_bodies :
    65535 < 256 ^ 2 ∧ 999999999 ≤ 999999999 ∧ 4294967295 < 256 ^ 4 ∧ (∀ x ∈ [((11 : Fin 12), 9999)], x.2 ≤ 9999) ∧
    [((11 : Fin 12), 9999)].length < 256 ∧ (List.replicate 6 (255, 4294967295)).length ≤ 6 ∧
    (∀ x ∈ List.replicate 6 (255, 4294967295), x.1 < 256 ∧ x.2 < 256 ^ 4) ∧
    (windowOf .door 6 (be 1 0) []).frame.body = be 1 0 ∧ (windowOf .door 6 (be 1 1) []).frame.body = be 1 1 := by decide

/-! ## Witnesses: figures -/

/-- An addition that just carries, and a draw of all that is held (StockFigures). -/
theorem witness_stock_figures :
    let d := shopDenoms[0]
    let r : StockRec := { loose := 30, straps := 2, reserved := 230, suspect := 0 }
    0 < d.strap ∧ (0 : Nat) < 70 ∧ 230 ≤ held d r ∧ 230 ≤ r.reserved := by decide +kernel

/-- A declaration below target that wants one packet, its grant at the cap; one above target; a day in CLOSING; a disabled code beside enabled ones
(RebalanceWithinStock). -/
theorem witness_rebalance :
    let s := shop .trading
    DenomsInRange s ∧ ((0, 15) ∈ [((0 : Fin 12), 15)] ∧ ([((0 : Fin 12), 15)].map fun x => x.1).Nodup) ∧
    (s.denoms[(0 : Fin 12)].enabled = true ∧ s.day.state ≠ .closing ∧
      declaredCount [(0, 15)] (0 : Fin 12) < s.tills[(0 : Fin 160)].targets[(0 : Fin 12)] ∧ (20 : Nat) ≤ 15 + 1 * 10 ∧ 15 + 1 * 10 < 20 + 10) ∧
    s.valueOf (grantedIssue s 0 [(0, 15)]) ≤ s.tills[(0 : Fin 160)].topUpCap ∧
    s.tills[(0 : Fin 160)].targets[(0 : Fin 12)] ≤ declaredCount [(0, 20)] (0 : Fin 12) ∧
    (shop .closing).day.state = .closing ∧ s.denoms[(2 : Fin 12)].enabled = false ∧ (∀ x ∈ [((0 : Fin 12), 15)], x.1 ≠ 2) := by
  unfold DenomsInRange
  decide +kernel

/-- Issue counts of whole packets on both enabled codes (CapReductionIsTheLoop). -/
theorem witness_cap_reduction :
    let issue := put (put (Vector.replicate 12 0) 0 20) 1 50
    DenomsInRange (shop .trading) ∧
    (∀ c : Fin 12, (shop .trading).denoms[c].enabled = true → issue[c] % (shop .trading).denoms[c].packet = 0) ∧
    EnabledOnly (shop .trading) issue ∧ sumCodes (fun c => issue[c]) ≤ 70 := by
  unfold DenomsInRange EnabledOnly
  decide +kernel

/-- A counter at its top, alone and in the shop's table, in HOLD, with its flags set; a session at the top of a code's count (TallyCountsPieces). -/
theorem witness_tally :
    let t : Tally := { count := 4294967295, half := true, full := true }
    let s := setTally .suspect 11 t ((shop .trading).setSessions
      (put State.reset.sessions 3 { Session.reset with accepted := Vector.replicate 12 65535 }))
    (t.count ≤ Config.top32 ∧ Config.top32 < t.count + 1 ∧ Config.top32 < t.count + 65535) ∧
    ((∃ u, exec (.lineIdle .room) s = .next u) ∧ (s.tally .suspect 11).half = true ∧
      (s.tally .suspect 11).full = true ∧ (s.tally .suspect 11).count = Config.top32 ∧
      s.timing.groups[TallyGroup.suspect.row].mode = .hold) ∧
    (CountsInRange s ∧ step s = .next (tick s)) := by
  refine ⟨by decide, ⟨⟨_, rfl⟩, by decide +kernel⟩, ⟨?_, rfl⟩⟩
  unfold CountsInRange
  decide +kernel

/-- The shop's stock with the order that holds its reservation, a float bag of a MADE_UP order, a consignment bag, and a session with counts
(MovementsConserve). -/
theorem witness_stock_sound :
    let counts : Vector Nat 12 := put (Vector.replicate 12 0) 0 20
    let order : Order := { Order.reset with state := .pending, issue := counts, issueValue := 10000 }
    let made : Order := { Order.reset with state := .madeUp, issue := counts, issueValue := 10000, sealNo := some 7 }
    let s := (((shop .trading).setOrders (put (put State.reset.orders 0 order) 23 made)).setBags
      [{ bagOf 7 .floatBag .inSafe with order := some 23, counts := some counts, declared := 10000 },
       { bagOf 8 .consignment .madeUp with counts := some counts, declared := 10000 }]).setSessions
      (put State.reset.sessions 3 { Session.reset with state := .suspended, accepted := counts, suspect := counts })
    SealsDistinct s ∧ StockSound s ∧ Ledger s ∧ s.acc.saturated = false ∧ step s = .next (tick s) := by
  refine ⟨by unfold SealsDistinct; decide +kernel, ⟨by unfold DenomsInRange; decide +kernel, by decide +kernel, by decide +kernel, fun b hb _ _ => ?_,
    by unfold EnabledOnly; decide +kernel⟩, fun _ => by unfold Conserved; decide +kernel, rfl, rfl⟩
  rcases List.mem_pair.mp hb with rfl | rfl <;> unfold EnabledOnly
  · exact ⟨⟨_, rfl, by decide +kernel⟩, 23, rfl, by decide +kernel⟩
  · exact ⟨⟨_, rfl, by decide +kernel⟩, rfl⟩

/-- A strap of notes moved in each way, the counted-in accumulator filled to its top (MovementsConserve). -/
theorem witness_conserved :
    let s := (shop .night).setAcc
      { Accumulators.reset with opening := 135000, countedIn := 4294917295, madeUp := 4294917295 }
    let counts := put (Vector.replicate 12 0) 0 100
    Conserved s ∧ DenomsInRange s ∧ EnabledOnly s counts ∧ s.acc.countedIn + s.valueOf counts ≤ Config.top32 ∧
    s.acc.restocked + s.valueOf counts ≤ Config.top32 ∧ s.acc.madeUp + s.valueOf counts ≤ Config.top32 ∧
    (∀ c : Fin 12, counts[c] ≤ s.heldOf c) ∧
    (∀ c : Fin 12, counts[c] % s.denoms[c].strap = 0 ∧ counts[c] / s.denoms[c].strap ≤ s.stock[c].straps) ∧
    s.denoms[(0 : Fin 12)].enabled = true ∧
    (setStockCounts 0 0 0 s).acc.adjustment =
      s.acc.adjustment + ((0 + 0 * s.denoms[(0 : Fin 12)].strap : Nat) - (s.heldOf 0 : Int)) * s.denoms[(0 : Fin 12)].face := by
  unfold Conserved DenomsInRange EnabledOnly
  decide +kernel

/-- A choice from the outgoing queue, and one from the downlink queue (LowestHeaderChosen). -/
theorem witness_choice :
    let call := callFrame 0 300
    let down : LineFrame := { pb := 0x28, kind := 0x30, dest := 2, src := 0, body := [] }
    chooseFrame { LinePort.reset with out := { reserved := 0, filled := [call, call] } } =
      some { frame := call, source := .outgoing 0, attempts := 0 } ∧
    chooseFrame { LinePort.reset with out := { reserved := 0, filled := [call] }, down := [down] } =
      some { frame := down, source := .downlink, attempts := 0 } := by decide +kernel

/-- A port that may choose, one whose current frame stays current at its place, and one that lets it go (LowestHeaderChosen). -/
theorem witness_current :
    let call := callFrame 0 300
    let s := (shop .trading).setOut .floor { reserved := 0, filled := [call, call] }
    let c : Current := { frame := call, source := .outgoing 0, attempts := 0 }
    let t := s.setTx .floor { s.floor.tx with current := some c }
    (s.port .floor).tx.phase = .idle ∧ (s.port .floor).tx.current = none ∧ chooseFrame (s.port .floor) = some c ∧
    (t.port .floor).tx.current = some c ∧ (t.port .floor).out.filled[0]? = some c.frame ∧
    exec (.currentFrameChoice .floor) t = .next t ∧
    ∃ u, exec (.dataSent .floor) (t.setTx .floor { t.floor.tx with phase := .sending }) = .next u ∧ (u.port .floor).tx.current = none :=
  ⟨by decide +kernel, by decide +kernel, by decide +kernel, by decide +kernel, by decide +kernel, rfl, _, rfl, by decide +kernel⟩

/-- A pair among the marks, and marks without one (WitnessPairLowest). -/
theorem witness_pair :
    let f := (windowOf .pickup 2 [] [4, 3]).taken .floor
    witnessPair (shop .trading) (shop .trading).witness[0] f = some (3, 4) ∧
    witnessPair (shop .trading) (shop .trading).witness[0] { f with marks := [1, 3, 3] } = none := by decide +kernel

/-- A frame for each of the six ways of R172 (ReceiptMarkRule). -/
theorem witness_receipt_mark :
    let s := shop .trading
    let f := frameOf .drop 6 []
    let o : LineFrame := { f with kind := 0x80 }
    let full := s.setUplink { reserved := 32, filled := [] }
    let last := s.setUplink { reserved := 31, filled := [] }
    addressed { f with dest := 5 } = false ∧
    (addressed { o with src := 50 } = true ∧ opaqueKind o.kind = true ∧ registeredOn s .room 50 = false) ∧
    (addressed f = true ∧ opaqueKind f.kind = false ∧ full.uplink.free = 0) ∧
    (0 < last.uplink.free ∧ (((last.setOut .room { reserved := 8, filled := [] }).port .room).out.free = 0)) ∧
    (addressed o = true ∧ opaqueKind o.kind = true ∧ registeredOn last .room o.src = true) ∧
    0 < ((last.setOut .room { reserved := 7, filled := [] }).port .room).out.free := by decide +kernel

/-- A head that is missed, PART's, beside an OFFICE one, and a head that is not missed (MissedHeadsReturned). -/
theorem witness_missed :
    let s := ((shop .trading).setRing (put State.reset.ring 0 { Descriptor.reset with owner := .part, windowEnd := 10 })).setDay
      { Day.reset with clock := 11 }
    headMissed (s.setDay { Day.reset with clock := 10 }) = false ∧ headMissed s = true ∧ s.ring[(1 : Fin 16)].owner = .office ∧
      s.ring[(0 : Fin 16)].owner = .part := by decide +kernel

/-- A request that passes and one for each of the four refusals, a CONSIGN_HAND on the last minute of its window, and a pinned record IN_SAFE
(PinRequestRule). -/
theorem witness_pin_request :
    let s := (shop .trading).setBags [bagOf 7 .pickup .inSafe, bagOf 8 .consignment .inSafe,
      { bagOf 9 .consignment .inSafe with pin := some 15 }]
    pinCheck s [] [8] = none ∧ pinCheck s [] [8, 10] = some (.unknownBag, 10) ∧ pinCheck s [] [7] = some (.wrongBagState, 7) ∧
    pinCheck s [] [9] = some (.pinned, 9) ∧ pinCheck s [] [8, 8] = some (.malformed, 8) ∧
    (∀ seals ∈ [[8], [8, 10]],
      let h := asking 0x38 (be 1 15 ++ []) (s.setRing (put State.reset.ring 15 { Descriptor.reset with outbound := seals }))
      (h.trunk.reply = none ∧ h.trunk.sendWaits = false ∧ h.trunk.buffer.head? = some (.request 5 0x38 (be 1 15 ++ []))) ∧
      h.ring[(15 : Fin 16)].owner = .office ∧ h.day.clock ≤ h.ring[(15 : Fin 16)].windowEnd ∧ h.ring[(15 : Fin 16)].outbound = seals) ∧
    ((s.bags.map Bag.sealNo).Nodup ∧ (∀ b ∈ s.bags, b.sealNo ≠ 0) ∧
      findBag s 9 = some { bagOf 9 .consignment .inSafe with pin := some 15 } ∧ PinsSound s) := by
  unfold PinsSound
  decide +kernel

/-- A taking outside CLOSING, one that changes nothing, one that enters CLOSING, one that changes an input (CloseRule). -/
theorem witness_close :
    let s := shop .closing
    let rest := s.setDrawers State.reset.drawers
    (shop .trading).day.state ≠ .closing ∧ (s.day.state = .closing ∧ closeInputs s = closeInputs (s.setSeconds 5)) ∧
    (rest.day.state = .closing ∧ (shop .trading).day.state ≠ .closing) ∧ closeInputs s ≠ closeInputs rest ∧
    closingConditions rest = true := by decide +kernel

/-- A drawer that enters HOLD and whose pickup falls due, with a FREE place and without one; one that does neither (HoldAndPickupRule). -/
theorem witness_pickup_due :
    let s := (shop .trading).setDrawers (put State.reset.drawers 0 { drawerIn .opened with expected := 20000 })
    (s.drawers[(0 : Fin 160)].state = .opened ∧ (reevaluate 0 s).drawers[(0 : Fin 160)].state = .hold ∧
      s.drawers[(0 : Fin 160)].due = false ∧ (reevaluate 0 s).drawers[(0 : Fin 160)].due = true ∧ 0 < s.floor.out.free) ∧
    (s.setOut .floor { reserved := 8, filled := [] }).floor.out.free = 0 ∧
    ((reevaluate 0 (shop .trading)).drawers[(0 : Fin 160)].due = false ∧
      (reevaluate 0 (shop .trading)).drawers[(0 : Fin 160)].state = .opened) := by decide +kernel

/-- The last number 65535, and a copy, a conflict and two passes behind it (SequenceRule). -/
theorem witness_sequence :
    let d : Drawer := { drawerIn .opened with lastSeq := some 65535, lastCrc := some 7 }
    (drawerIn .opened).lastSeq = none ∧ d.lastSeq = some 65535 ∧ d.lastCrc = some 7 ∧ d.lastCrc ≠ some 8 ∧ (0 : Nat) ≠ 65535 := by
  decide

/-- A DECLARE, its number and check already recorded, another check recorded, or its number the second behind the last; its order PENDING
or gone (SequenceRule). -/
theorem witness_sequence_frames :
    let w := windowOf .declare 2 (be 2 65535 ++ be 1 0) []
    let after := fun (last : Nat) (crc : Word16) (o : OrderState) =>
      holding .floor w (((shop .trading).setDrawers (put State.reset.drawers 0
        { drawerIn .opened with lastSeq := some last, lastCrc := some crc, openOrder := some 23 })).setOrders
          (put State.reset.orders 23 { Order.reset with state := o, seq := 65535 }))
    (JobKind.declare, Instr.declare) ∈ tillCommands ∧ tillSequence .declare w.frame.body = some (some 65535) ∧
    (TakenAs (after 65535 7 .pending) .floor w .declare none ∧ TillSource (after 65535 7 .pending) w .declare 0 ∧
      (after 65535 7 .pending).drawers[(0 : Fin 160)].lastCrc = some w.crc ∧
      (after 65535 7 .pending).orders[(23 : Fin 24)].state ≠ .free ∧ (after 65535 7 .pending).orders[(23 : Fin 24)].seq = 65535) ∧
    (TakenAs (after 65535 7 .free) .floor w .declare none ∧ (after 65535 7 .free).orders[(23 : Fin 24)].state = .free) ∧
    (TakenAs (after 65535 8 .pending) .floor w .declare none ∧
      (after 65535 8 .pending).drawers[(0 : Fin 160)].lastCrc ≠ some w.crc) ∧
    (TakenAs (after 65533 7 .pending) .floor w .declare none ∧
      sequenceCheck (after 65533 7 .pending).drawers[(0 : Fin 160)] 65535 w.crc = .passes 1) := by
  unfold TillSource
  exact ⟨by simp [tillCommands], by decide +kernel, ⟨takenAs_of_check (by decide +kernel), by decide +kernel⟩,
    ⟨takenAs_of_check (by decide +kernel), by decide +kernel⟩, ⟨takenAs_of_check (by decide +kernel), by decide +kernel⟩,
    ⟨takenAs_of_check (by decide +kernel), by decide +kernel⟩⟩

/-- A frame for each outcome of steps 1 to 5 (InspectionSteps). -/
theorem witness_inspection :
    let s := shop .trading
    let f := (windowOf .makeUp 9 [0] [9, 10]).taken .room
    inspectForm f s = .ok .makeUp ∧ registeredOn s .room 50 = false ∧
    (registeredOn s .room 9 = true ∧ ∀ k : JobKind, 0x7F#8 ≠ k.byte) ∧
    (registeredOn s .room 6 = true ∧ ∀ r ∈ JobKind.makeUp.senders, roleOf s 6 ≠ some r) ∧
    ((∃ r ∈ JobKind.makeUp.senders, roleOf s 9 = some r) ∧ JobKind.makeUp.allowedIn .night = false) ∧
    (JobKind.makeUp.allowedIn s.day.state = true ∧ formed .makeUp { f.frame with body := [2] } = false) := by
  refine ⟨by decide +kernel, by decide +kernel, ⟨by decide +kernel, fun k => ?_⟩, by decide +kernel, by decide +kernel, by decide +kernel⟩
  cases k <;> decide

/-! ## Witnesses: the lines -/

/-- The shop with a receiver of the Room Port. -/
def hearing (rx : Receiver) : State := (shop .trading).setRx .room rx

/-- A frame of 40 bytes, as a whole in its window. -/
def longWindow (answer : MarkAnswer) : Window :=
  { frame := frameOf .restock 9 (List.replicate 40 0x5A), crc := 7, answer := answer, marks := [] }

/-- Each receiver state that a command is about (ReceiverCommands). -/
theorem witness_receiver :
    let f := (longWindow .none).frame
    ((hearing .idle).port .room).tx.phase = .idle ∧ ((hearing .idle).port .room).rx = .idle ∧
    (((hearing (.receiving ((lineBits f.wire).take 7))).port .room).rx = .receiving ((lineBits f.wire).take 7) ∧
      (lineBits f.wire).take 7 ++ (lineBits f.wire).drop 7 = lineBits f.wire ∧ f.body.length ≤ 40) ∧
    { longWindow .sending with marks := [9, 9, 9, 9, 9] }.marks.length < 6 ∧
    (longWindow .sending).answer ≠ .marked ∧ (longWindow .none).answer ≠ .marked ∧
    ((hearing .ignoring).port .room).rx = .ignoring ∧ ((hearing .waitIdle).port .room).rx = .waitIdle := by
  refine ⟨rfl, rfl, ⟨rfl, List.take_append_drop _ _, by decide⟩, by decide, by decide, by decide, rfl, rfl⟩

/-- Each error, at the least the receiver must have heard (ReceiverErrors). -/
theorem witness_receiver_errors :
    let f := (longWindow .none).frame
    (hearing .idle).port .room = (hearing .idle).room ∧ (Receiver.receiving []).listening = true ∧
    isFramingError (.receiving []) .endOfData true = true ∧ isFramingError .idle .dataBit false = true ∧
    (Receiver.receiving []).isReceiving = true ∧
    checkData ((lineBits f.wire).set 0 true) = .check ∧ checkData [] = .framing ∧
    checkData (lineBits [8, 0x49, 1, 9, 41]) = .longFrame ∧
    markedWindow (hearing (.markWindow (longWindow .marked))) .room = some (longWindow .marked) ∧
    0 < (holding .room (longWindow .marked) (shop .trading)).uplink.reserved := by decide +kernel

/-- A CALL, and a SAFE_COMMAND to node 6, as current frames. -/
def currentCall (attempts : Nat) : Current := { frame := callFrame 0 300, source := .outgoing 0, attempts := attempts }
def currentCommand (attempts : Nat) : Current := { frame := safeCommandFrame 6 .lock, source := .outgoing 0, attempts := attempts }

/-- A SEND on its way to node 6 that gathers marks. -/
def currentSend (attempts : Nat) : Current :=
  { frame := { pb := 0x10, kind := 0x30, dest := 6, src := 0, body := [] }, source := .downlink, attempts := attempts }

/-- The Room Port's transmitter in a phase with a current frame and recorded marks. -/
def talking (x : TxPhase) (c : Current) (marks : List Byte) : State :=
  ((shop .trading).setTx .room { phase := x, current := some c, marks := marks, driven := [] }).setOut .room
    { reserved := 0, filled := [c.frame] }

/-- Each stage of an attempt, at the last attempt that leaves the frame current (TransmitterAttempt). -/
theorem witness_attempt :
    chooseFrame ((talking .idle (currentCall 0) []).port .room) = some (currentCall 0) ∧
    (((talking .idle (currentCommand 3) []).port .room).rx = .idle ∧
      ((talking .idle (currentCommand 3) []).port .room).lineIdle = true) ∧
    (lineBits (currentCommand 3).frame.header).getD 39 false = true ∧
    markMode (currentCommand 3).frame.pb ≠ .none ∧
    (markMode (currentSend 3).frame.pb ≠ .one ∧ ((talking .awaitMarks (currentSend 3) [2, 3, 4, 5]).port .room).tx.marks.length < 5) ∧
    (currentSend 3).frame.dest ∉ ((talking .awaitMarks (currentSend 3) [2, 3, 4, 5]).port .room).tx.marks ∧
    (currentSend 3).attempts < 4 ∧ LineSymbol.endOfFrame.isSymbolError = true := by decide +kernel

/-- Each end of a frame: in mode NONE, an idle gap, the first mark in mode ONE, the sixth in mode GATHER, with and without the destination's mark; and each way
in which the fourth attempt fails (TransmitterEnd). -/
theorem witness_transmitter_end :
    let tx := fun x c m => ((talking x c m).port .room).tx
    (markMode (currentCall 1).frame.pb = .none ∧ (tx .sending (currentCall 1) []).phase = .sending) ∧
    (currentCommand 4).frame.dest ∈ (tx .awaitMarks (currentCommand 4) [6]).marks ∧
    (markMode (currentCommand 4).frame.pb = .one ∧ (tx .awaitMarks (currentCommand 4) []).marks = [] ∧
      (currentCommand 4).frame.dest ∈ [] ++ [(6 : Byte)] ∧ (currentCommand 4).frame.dest ∉ [] ++ [(7 : Byte)]) ∧
    (markMode (currentSend 3).frame.pb ≠ .one ∧ (tx .awaitMarks (currentSend 3) [2, 3, 4, 5, 7]).marks.length = 5 ∧
      (currentSend 3).frame.dest ∈ [2, 3, 4, 5, 7] ++ [(6 : Byte)] ∧ (currentSend 3).frame.dest ∉ [2, 3, 4, 5, 7] ++ [(8 : Byte)] ∧
      (currentSend 3).attempts < 4) ∧
    (4 ≤ (currentCommand 4).attempts ∧ (currentCommand 4).source ≠ .downlink ∧ (currentCommand 4).frame.kind = kindSafeCommand) ∧
    (lineBits (currentCommand 4).frame.header).getD 39 false = true ∧
    ((tx .sending (currentCommand 4) []).phase = .sending ∧ LineSymbol.invalid.isSymbolError = true) := by decide +kernel

/-! ## Witnesses: the till frames -/

/-- A drawer that is FLOATED, the day as it is. -/
def floated (s : State) : State := s.setDrawers (put s.drawers 0 (drawerIn .floated))

/-- TENDER of the largest amounts, REFUND, TILL_OPEN (TillMovements). -/
theorem witness_till_movements :
    let tender := windowOf .tender 2 (be 2 65535 ++ be 4 999999999 ++ be 4 0) []
    let refund := windowOf .refund 2 (be 2 1 ++ be 4 999999999) []
    let tillOpen := windowOf .tillOpen 2 [] []
    let s := shop .trading
    (TakenAs (holding .floor tender s) .floor tender .tender none ∧ TillApplies (holding .floor tender s) tender .tender 0 ∧
      parseTender tender.frame.body = some (65535, 999999999, 0) ∧
      sequenceCheck (holding .floor tender s).drawers[(0 : Fin 160)] 65535 tender.crc = .passes 0) ∧
    (TakenAs (holding .floor refund s) .floor refund .refund none ∧ TillApplies (holding .floor refund s) refund .refund 0 ∧
      parseRefund refund.frame.body = some (1, 999999999)) ∧
    (TakenAs (holding .floor tillOpen (floated s)) .floor tillOpen .tillOpen none ∧
      TillApplies (holding .floor tillOpen (floated s)) tillOpen .tillOpen 0 ∧ tillOpen.frame.body = [] ∧
      (holding .floor tillOpen (floated s)).drawers[(0 : Fin 160)].state = .floated) := by
  unfold TillApplies TillSource
  exact ⟨⟨takenAs_of_check (by decide +kernel), by decide +kernel⟩, ⟨takenAs_of_check (by decide +kernel), by decide +kernel⟩,
    ⟨takenAs_of_check (by decide +kernel), by decide +kernel⟩⟩

/-- A TENDER of one cent too much, one of another till's node, a PICKUP without its till's badge, a TENDER and a TILL_OPEN at a SUSPENDED drawer
(TillMovements). -/
theorem witness_till_refusals :
    let long := windowOf .tender 2 (be 2 0 ++ be 4 1000000000 ++ be 4 0) []
    let tender := windowOf .tender 2 (be 2 0 ++ be 4 999999999 ++ be 4 0) []
    let tillOpen := windowOf .tillOpen 2 [] []
    let pickup := windowOf .pickup 2 (be 2 3 ++ be 4 7 ++ be 4 1) [3, 4]
    let s := shop .trading
    let other := s.setTills (put s.tills 0 { shopTill with node := 12 })
    let badged := s.setTills (put s.tills 0 { shopTill with badge := 12 })
    let closed := s.setDrawers (put s.drawers 0 (drawerIn .suspended))
    (∀ x ∈ [(JobKind.tender, Instr.tender), (.pickup, .pickup), (.tillOpen, .tillOpen)], x ∈ tillCommands) ∧
    (TakenAs (holding .floor long s) .floor long .tender none ∧ tillSequence .tender long.frame.body = none) ∧
    (TakenAs (holding .floor tender other) .floor tender .tender none ∧ tillSequence .tender tender.frame.body = some (some 0) ∧
      other.tills[(0 : Fin 160)].node ≠ tender.frame.src) ∧
    (TakenAs (holding .floor pickup badged) .floor pickup .pickup (some (3, 4)) ∧ tillOf badged 2 = 0 ∧
      badged.tills[(0 : Fin 160)].badge = 12 ∧ (12 : Byte) ∉ pickup.marks) ∧
    (TakenAs (holding .floor tender closed) .floor tender .tender none ∧ TillSource (holding .floor tender closed) tender .tender 0 ∧
      sequenceCheck closed.drawers[(0 : Fin 160)] 0 tender.crc = .passes 0 ∧ appliedIn .tender .trading .suspended = false) ∧
    (TakenAs (holding .floor tillOpen closed) .floor tillOpen .tillOpen none ∧
      tillSequence .tillOpen tillOpen.frame.body = some none ∧ appliedIn .tillOpen .trading .suspended = false) := by
  unfold TillSource
  exact ⟨by simp [tillCommands], ⟨takenAs_of_check (by decide +kernel), by decide +kernel⟩,
    ⟨takenAs_of_check (by decide +kernel), by decide +kernel⟩, ⟨takenAs_of_check (by decide +kernel), by decide +kernel⟩,
    ⟨takenAs_of_check (by decide +kernel), by decide +kernel⟩, ⟨takenAs_of_check (by decide +kernel), by decide +kernel⟩⟩

/-- PICKUP and CASHUP of the largest declared value (TillBags). -/
theorem witness_till_bags :
    let body : List Byte := be 2 3 ++ be 4 7 ++ be 4 999999999
    let pickup := windowOf .pickup 2 body [3, 4]
    let cashup := windowOf .cashup 2 body [4, 3]
    let s := shop .trading
    parseSkim body = some (3, 7, 999999999) ∧ Creatable (holding .floor pickup s) 7 999999999 ∧
    sequenceCheck s.drawers[(0 : Fin 160)] 3 7 = .passes 0 ∧
    (TakenAs (holding .floor pickup s) .floor pickup .pickup (some (3, 4)) ∧
      TillApplies (holding .floor pickup s) pickup .pickup 0) ∧
    (TakenAs (holding .floor cashup s) .floor cashup .cashup (some (3, 4)) ∧
      TillApplies (holding .floor cashup s) cashup .cashup 0 ∧ Creatable (holding .floor cashup s) 7 999999999) := by
  unfold TillApplies TillSource Creatable
  exact ⟨by decide +kernel, by decide +kernel, by decide +kernel, ⟨takenAs_of_check (by decide +kernel), by decide +kernel⟩,
    ⟨takenAs_of_check (by decide +kernel), by decide +kernel⟩⟩

/-- DECLARE below target, at target, and far from expected cash; the first two entries of the table taken (DeclareResult). -/
theorem witness_declare :
    let body := fun n : Nat => be 2 3 ++ be 1 1 ++ be 1 0 ++ be 2 n
    let w := fun n => windowOf .declare 2 (body n) []
    let pending : Order := { Order.reset with state := .pending }
    let s := (shop .trading).setOrders (put (put State.reset.orders 0 pending) 1 pending)
    (∀ n ∈ [15, 20], TakenAs (holding .floor (w n) s) .floor (w n) .declare none ∧
      TillApplies (holding .floor (w n) s) (w n) .declare 0 ∧ parseDeclare (w n).frame.body = some (3, [(0, n)])) ∧
    sequenceCheck s.drawers[(0 : Fin 160)] 3 7 = .passes 0 ∧ s.drawers[(0 : Fin 160)].openOrder = none ∧
    s.orders[(2 : Fin 24)].state = .free ∧ (∀ j : Fin 24, j < 2 → s.orders[j].state ≠ .free) ∧
    (∀ x ∈ [((0 : Fin 12), 15)], s.denoms[x.1].enabled = true) ∧ ([((0 : Fin 12), 15)].map fun x => x.1).Nodup ∧
    0 < s.valueOf (rebalance s 0 [(0, 15)]).issue ∧ s.valueOf (rebalance s 0 [(0, 20)]).issue = 0 ∧
    s.timing.declareTolerance < ((declaredValue s [(0, 15)] : Int) - s.drawers[(0 : Fin 160)].expected).natAbs := by
  unfold TillApplies TillSource
  refine ⟨fun n hn => ?_, by decide +kernel⟩
  have h : n = 15 ∨ n = 20 := by simpa using hn
  rcases h with rfl | rfl <;> exact ⟨takenAs_of_check (by decide +kernel), by decide +kernel⟩

/-- FLOAT_RECEIPT at a CLOSED drawer, of the bag of the order of entry 23 (FloatReceiptResult). -/
theorem witness_float_receipt :
    let w := windowOf .floatReceipt 2 (be 2 3 ++ be 4 7) [3, 4]
    let b : Bag := { bagOf 7 .floatBag .madeUp with order := some 23 }
    let s := holding .floor w (((shop .trading).setBags [b]).setDrawers State.reset.drawers)
    TakenAs s .floor w .floatReceipt (some (3, 4)) ∧ TillApplies s w .floatReceipt 0 ∧
    parseReceipt w.frame.body = some (3, 7) ∧ sequenceCheck s.drawers[(0 : Fin 160)] 3 w.crc = .passes 0 ∧
    findBag s 7 = some b ∧ b.kind = .floatBag ∧ b.state = .madeUp ∧ b.till = some 0 := by
  unfold TillApplies TillSource
  exact ⟨takenAs_of_check (by decide +kernel), by decide +kernel⟩

/-! ## Witnesses: the stock frames -/

/-- MAKE_UP of an order of 20 notes, and of a consignment of one strap, all that is free of the code (MakeUpResults). -/
theorem witness_make_up :
    let order : Order := { Order.reset with state := .pending, issue := put (Vector.replicate 12 0) 0 20, issueValue := 10000 }
    let float := windowOf .makeUp 9 (be 1 0 ++ be 1 23 ++ be 4 7) [9, 11, 10]
    let sent := windowOf .makeUp 9 (be 1 1 ++ be 4 7 ++ be 1 1 ++ (be 1 1 ++ be 4 200)) [10, 11]
    let f := holding .room float ((shop .opening).setOrders (put State.reset.orders 23 order))
    let c := holding .room sent (shop .opening)
    (TakenAs f .room float .makeUp (some (10, 11)) ∧ f.orders[(23 : Fin 24)].state = .pending ∧
      Creatable f 7 f.orders[(23 : Fin 24)].issueValue) ∧
    (TakenAs c .room sent .makeUp (some (10, 11)) ∧
      (∀ x ∈ [((1 : Fin 12), 200)], x.2 < 256 ^ 4 ∧ c.denoms[x.1].enabled = true ∧ x.2 % c.denoms[x.1].strap = 0 ∧
        x.2 ≤ c.freeOf x.1 ∧ x.2 / c.denoms[x.1].strap ≤ c.stock[x.1].straps) ∧
      Creatable c 7 (c.valueOf (pairCounts [(1, 200)]))) := by
  unfold Creatable
  exact ⟨⟨takenAs_of_check (by decide +kernel), by decide +kernel⟩, ⟨takenAs_of_check (by decide +kernel), by decide +kernel⟩⟩

/-- RESTOCK in NIGHT that fills loose to its top on the way (RestockResult). -/
theorem witness_restock :
    let w := windowOf .restock 9 (be 4 7) []
    let counts := put (Vector.replicate 12 0) 0 20
    let b : Bag := { bagOf 7 .floatBag .madeUp with order := some 0, counts := some counts }
    let s := holding .room w (((shop .night).setBags [b]).setStock (put shopStock 0
      { loose := 4294967275, straps := 0, reserved := 0, suspect := 0 }))
    TakenAs s .room w .restock none ∧ parseSeal w.frame.body = some 7 ∧ findBag s 7 = some b ∧ b.kind = .floatBag ∧
    b.state = .madeUp ∧ b.counts = some counts ∧
    (∀ c : Fin 12, counts[c] ≠ 0 → s.stock[c].loose + counts[c] ≤ 4294967295 ∧
      s.stock[c].straps + (s.stock[c].loose + counts[c]) / s.denoms[c].strap ≤ 4294967295) :=
  ⟨takenAs_of_check (by decide +kernel), by decide +kernel⟩

/-- A RESTOCK and a BAG_CLOSE of which one code passes the range by one piece (StockFigures). -/
theorem witness_count_limit :
    let w := windowOf .restock 9 (be 4 7) []
    let counts := put (Vector.replicate 12 0) 0 20
    let b : Bag := { bagOf 7 .floatBag .madeUp with order := some 0, counts := some counts }
    let s := holding .room w (((shop .night).setBags [b]).setStock (put shopStock 0
      { loose := 4294967276, straps := 0, reserved := 0, suspect := 0 }))
    let close := windowOf .bagClose 5 [] []
    let c := holding .room close (((shop .trading).setSessions (put State.reset.sessions 0
      { Session.reset with state := .counting, bag := 7, node := 5, accepted := put (Vector.replicate 12 0) 0 65535 })).setStock
      (put shopStock 0 { loose := 4294901761, straps := 0, reserved := 0, suspect := 0 }))
    (TakenAs s .room w .restock none ∧ parseSeal w.frame.body = some 7 ∧ findBag s 7 = some b ∧ b.kind = .floatBag ∧
      b.state = .madeUp ∧ b.counts = some counts ∧
      additionRefused s.denoms[(0 : Fin 12)] s.stock[(0 : Fin 12)] counts[(0 : Fin 12)] = true) ∧
    (TakenAs c .room close .bagClose none ∧ slotOf c close.frame.src = 0 ∧ close.frame.body = [] ∧
      c.sessions[(0 : Fin 4)].state = .counting ∧ c.sessions[(0 : Fin 4)].node = close.frame.src ∧
      c.sessions[(0 : Fin 4)].unresolved = 0 ∧ c.denoms[(0 : Fin 12)].enabled = true ∧
      (∀ k : Fin 12, k ≠ 0 → c.denoms[k].enabled = true → c.denoms[(0 : Fin 12)].face ≤ c.denoms[k].face →
        additionRefused c.denoms[k] c.stock[k] c.sessions[(0 : Fin 4)].accepted[k] = false) ∧
      additionRefused c.denoms[(0 : Fin 12)] c.stock[(0 : Fin 12)] c.sessions[(0 : Fin 4)].accepted[(0 : Fin 12)] = true) :=
  ⟨⟨takenAs_of_check (by decide +kernel), by decide +kernel⟩, ⟨takenAs_of_check (by decide +kernel), by decide +kernel⟩⟩

/-! ## Witnesses: the safe -/

/-- The shop with a lock state. -/
def locked (l : LockState) (s : State) : State := s.setSafe { s.safe with lock := l }

/-- DROP into the place 120, DEPOSIT of each sort of bag, WITHDRAW of each (SafeMovements). -/
theorem witness_safe :
    let s := (shop .night).setSafe { Safe.reset with inventory := List.replicate 119 { sealNo := 5, way := .chute, second := 0 } }
    let drop := windowOf .drop 6 (be 4 7) []
    let deposit := windowOf .deposit 6 (be 4 7) []
    let withdraw := windowOf .withdraw 6 (be 4 7) []
    let with_ := fun (w : Window) (l : LockState) (b : Bag) => holding .room w ((locked l s).setBags [b])
    let pinned : Bag := { bagOf 7 .consignment .inSafe with pin := some 0 }
    parseSeal drop.frame.body = some 7 ∧
    (∀ b ∈ [bagOf 7 .pickup .sealed, bagOf 7 .inbound .received], TakenAs (with_ drop .locked b) .room drop .drop none ∧
      (with_ drop .locked b).safe.lock.chuteWorks = true ∧ repeatOf .drop 7 6 (with_ drop .locked b) = none ∧
      b.kind.counted = true ∧ (b.state = .sealed ∨ b.state = .received) ∧ (with_ drop .locked b).safe.inventory.length < 120) ∧
    (∀ b ∈ [bagOf 7 .inbound .hatchHeld, bagOf 7 .cashup .outForCount, bagOf 7 .floatBag .madeUp, bagOf 7 .consignment .inHandling],
      TakenAs (with_ deposit .opened b) .room deposit .deposit none ∧ (with_ deposit .opened b).safe.lock.doorStands = true ∧
      repeatOf .deposit 7 6 (with_ deposit .opened b) = none ∧
      (b.state = .hatchHeld ∨ b.kind.counted = true ∧ (b.state = .sealed ∨ b.state = .received ∨ b.state = .outForCount) ∨
        b.kind.counted = false ∧ b.state = .madeUp ∨ b.kind = .consignment ∧ b.state = .inHandling)) ∧
    (∀ b ∈ [bagOf 7 .pickup .inSafe, bagOf 7 .floatBag .inSafe, bagOf 7 .consignment .inSafe],
      TakenAs (with_ withdraw .openForced b) .room withdraw .withdraw none ∧
      repeatOf .withdraw 7 6 (with_ withdraw .openForced b) = none ∧ b.state = .inSafe ∧ b.pin = none) ∧
    (let t := (with_ withdraw .opened pinned).setCall { Handover.reset with phase := .signing, slot := some 0 }
     TakenAs t .room withdraw .withdraw none ∧ t.call.phase ≠ .idle ∧ pinned.pin = some 0 ∧ t.call.slot = some 0) := by
  refine ⟨by decide +kernel, fun b hb => ⟨takenAs_of_check ?_, ?_⟩, fun b hb => ⟨takenAs_of_check ?_, ?_⟩,
    fun b hb => ⟨takenAs_of_check ?_, ?_⟩, takenAs_of_check (by decide +kernel), by decide +kernel⟩
  all_goals revert b; decide +kernel

/-- A chute and a door that do not work, a repeat of each operation, and a full safe with a bag for each way in (SafeMovements). -/
theorem witness_safe_refusals :
    let drop := windowOf .drop 6 (be 4 7) []
    let deposit := windowOf .deposit 6 (be 4 7) []
    let withdraw := windowOf .withdraw 6 (be 4 7) []
    let entries := fun n => List.replicate n ({ sealNo := 5, way := .chute, second := 0 } : SafeEntry)
    let in_ := fun (w : Window) (l : LockState) (st : BagState) (n : Nat) (last : Option LastOp) =>
      holding .room w (((shop .night).setBags [bagOf 7 .pickup st]).setSafe { Safe.reset with lock := l, inventory := entries n, last := last })
    let did := fun (op : SafeOp) (st : BagState) => some ({ op := op, sealNo := 7, node := 6, state := st, detail := 1 } : LastOp)
    parseSeal (be 4 7) = some 7 ∧
    (TakenAs (in_ drop .unlocked .sealed 0 none) .room drop .drop none ∧ LockState.unlocked.chuteWorks = false) ∧
    (TakenAs (in_ deposit .locked .sealed 0 none) .room deposit .deposit none ∧
      TakenAs (in_ withdraw .lockout .inSafe 0 none) .room withdraw .withdraw none ∧ LockState.locked.doorStands = false ∧
      LockState.lockout.doorStands = false) ∧
    (TakenAs (in_ drop .locked .inSafe 1 (did .drop .inSafe)) .room drop .drop none ∧
      bagIn (in_ drop .locked .inSafe 1 (did .drop .inSafe)) 7 .inSafe = true ∧
      TakenAs (in_ deposit .opened .inSafe 1 (did .deposit .inSafe)) .room deposit .deposit none ∧
      TakenAs (in_ withdraw .opened .outForCount 1 (did .withdraw .outForCount)) .room withdraw .withdraw none ∧
      bagIn (in_ withdraw .opened .outForCount 1 (did .withdraw .outForCount)) 7 .outForCount = true) ∧
    (TakenAs (in_ drop .locked .sealed 120 none) .room drop .drop none ∧
      TakenAs (in_ deposit .opened .outForCount 120 none) .room deposit .deposit none ∧
      120 ≤ (in_ drop .locked .sealed 120 none).safe.inventory.length ∧ (bagOf 7 .pickup .sealed).kind.counted = true ∧
      repeatOf .drop 7 6 (in_ drop .locked .sealed 120 none) = none ∧
      findBag (in_ deposit .opened .outForCount 120 none) 7 = some (bagOf 7 .pickup .outForCount)) :=
  ⟨by decide +kernel, ⟨takenAs_of_check (by decide +kernel), rfl⟩,
    ⟨takenAs_of_check (by decide +kernel), takenAs_of_check (by decide +kernel), rfl, rfl⟩,
    ⟨takenAs_of_check (by decide +kernel), by decide +kernel, takenAs_of_check (by decide +kernel), takenAs_of_check (by decide +kernel),
      by decide +kernel⟩,
    takenAs_of_check (by decide +kernel), takenAs_of_check (by decide +kernel), by decide +kernel⟩

/-- The door, the request for each delay, the cancel and the confirm (LockFrames). -/
theorem witness_lock :
    let doorOpen := windowOf .door 6 [0] []
    let doorClosed := windowOf .door 6 [1] []
    let request := windowOf .openRequest 9 [] [10, 11]
    let cancel := windowOf .openCancel 9 [] []
    let confirm := windowOf .openConfirm 9 [] [10, 11]
    let s := shop .night
    (∀ l ∈ [LockState.unlocked, .opened, .locked], TakenAs (holding .room doorOpen (locked l s)) .room doorOpen .door none) ∧
    (∀ l ∈ [LockState.opened, .locked], TakenAs (holding .room doorClosed (locked l s)) .room doorClosed .door none) ∧
    (∀ d ∈ [DayState.night, .trading], TakenAs (holding .room request (shop d)) .room request .openRequest (some (10, 11))) ∧
    TakenAs (holding .room request (busy.setSafe Safe.reset)) .room request .openRequest (some (10, 11)) ∧
    busy.call.phase = .exchange ∧
    (∀ l ∈ [LockState.delay, .window], TakenAs (holding .room cancel (locked l s)) .room cancel .openCancel none) ∧
    TakenAs (holding .room confirm (locked .window s)) .room confirm .openConfirm (some (10, 11)) := by
  refine ⟨fun l hl => takenAs_of_check ?_, fun l hl => takenAs_of_check ?_, fun d hd => takenAs_of_check ?_,
    takenAs_of_check (by decide +kernel), rfl, fun l hl => takenAs_of_check ?_, takenAs_of_check (by decide +kernel)⟩
  · revert l; decide +kernel
  · revert l; decide +kernel
  · revert d; decide +kernel
  · revert l; decide +kernel

/-- A confirm with one witness: below the limit, at the limit, at the count's top of 9, and outside WINDOW (ConfirmFailures). -/
theorem witness_confirm_failures :
    let w := windowOf .openConfirm 9 [] [10]
    let s := holding .room w (shop .night)
    let failed := fun n : Nat => s.setSafe { Safe.reset with lock := .window, failed := n }
    (∀ n ∈ [1, 2, 9], ((failed n).port .room).rx = .markWindow w ∧ w.answer = .marked ∧ 0 < (failed n).uplink.reserved ∧
      0 < ((failed n).port .room).out.reserved ∧ inspectForm (w.taken .room) (failed n) = .ok .openConfirm ∧
      witnessPair (failed n) (failed n).witness[4] (w.taken .room) = none ∧ (failed n).safe.lock = .window) ∧
    min 9 ((failed 1).safe.failed + 1) < s.timing.confirmLimit ∧
    (s.timing.confirmLimit ≤ min 9 ((failed 2).safe.failed + 1) ∧ s.timing.confirmLimit ≤ min 9 ((failed 9).safe.failed + 1)) ∧
    (s.safe.lock ≠ .window ∧ inspectForm (w.taken .room) s = .ok .openConfirm ∧
      witnessPair s s.witness[4] (w.taken .room) = none) := by decide +kernel

/-! ## Witnesses: the counts -/

/-- A session of the counter node 5 on the bag 7, at the edge of its counts. -/
def counting : Session :=
  { Session.reset with
    state := .counting, bag := 7, kind := .cashup, declared := 3000, node := 5, timer := some 400
    accepted := put (Vector.replicate 12 0) 0 65035, suspect := put (Vector.replicate 12 0) 0 65035, total := 1000 }

/-- BAG_OPEN of both sorts, BATCH that fills a count, HAND_KEY of each outcome, COUNT_ABORT of both senders (CountFrames). -/
theorem witness_count :
    let bag := windowOf .bagOpen 5 (be 4 7) []
    let batch := windowOf .batch 5 (be 1 0 ++ be 2 500 ++ be 2 500 ++ be 2 500) []
    let key := fun f : Nat => windowOf .handKey 9 (be 1 0 ++ be 1 0 ++ be 2 1 ++ be 1 f) []
    let abort := windowOf .countAbort 5 [] []
    let console := windowOf .countAbort 9 [0] []
    let s := shop .trading
    let idle := holding .room bag (s.setBags [bagOf 7 .cashup .outForCount])
    let b : Bag := { bagOf 7 .cashup .countSuspended with session := some 0 }
    let back := holding .room bag ((s.setBags [b]).setSessions (put s.sessions 0 { counting with state := .suspended, timer := none }))
    let at_ := fun w => holding .room w ((s.setBags [{ b with state := .counting }]).setSessions
      (put s.sessions 0 { counting with unresolved := 65035 }))
    parseSeal bag.frame.body = some 7 ∧ slotOf s 5 = 0 ∧
    (TakenAs idle .room bag .bagOpen none ∧ idle.sessions[(0 : Fin 4)].state = .idle ∧
      findBag idle 7 = some (bagOf 7 .cashup .outForCount)) ∧
    (TakenAs back .room bag .bagOpen none ∧ back.sessions[(0 : Fin 4)].state = .suspended ∧ findBag back 7 = some b) ∧
    (TakenAs (at_ batch) .room batch .batch none ∧ parseBatch batch.frame.body = some (0, 500, 500, 500) ∧
      counting.accepted[(0 : Fin 12)] + 500 ≤ 65535 ∧ counting.suspect[(0 : Fin 12)] + 500 ≤ 65535 ∧
      (at_ batch).sessions[(0 : Fin 4)].unresolved + 500 ≤ 65535 ∧ counting.total + 1000 * 500 ≤ 999999999) ∧
    (∀ f ∈ [0, 1, 3], TakenAs (at_ (key f)) .room (key f) .handKey none ∧
      parseHandKey (key f).frame.body = some (0, 0, 1, f.testBit 0, f.testBit 1)) ∧
    (TakenAs (at_ abort) .room abort .countAbort none ∧ roleOf s 5 = some .counter ∧ counting.node = 5) ∧
    (TakenAs (at_ console) .room console .countAbort none ∧ roleOf s 9 = some .console ∧
      parseSessionNumber console.frame.body = some 0 ∧
      findBag (at_ console) 7 = some { b with state := .counting }) := by
  refine ⟨by decide +kernel, by decide +kernel, ⟨takenAs_of_check (by decide +kernel), by decide +kernel⟩,
    ⟨takenAs_of_check (by decide +kernel), by decide +kernel⟩, ⟨takenAs_of_check (by decide +kernel), by decide +kernel⟩,
    fun f hf => ⟨takenAs_of_check ?_, ?_⟩, ⟨takenAs_of_check (by decide +kernel), by decide +kernel⟩,
    takenAs_of_check (by decide +kernel), by decide +kernel⟩
  all_goals revert f; decide +kernel

/-- BAG_CLOSE of a count with suspect notes, the hold filled to its top (BagCloseResult). -/
theorem witness_bag_close :
    let w := windowOf .bagClose 5 [] []
    let b : Bag := { bagOf 7 .cashup .counting with session := some 0 }
    let s := holding .room w ((((shop .trading).setBags [b]).setSessions (put State.reset.sessions 0 counting)).setStock
      (put shopStock 0 { loose := 0, straps := 0, reserved := 0, suspect := 4294902260 }))
    TakenAs s .room w .bagClose none ∧ slotOf s w.frame.src = 0 ∧ w.frame.body = [] ∧ s.sessions[(0 : Fin 4)].state = .counting ∧
    s.sessions[(0 : Fin 4)].node = w.frame.src ∧ s.sessions[(0 : Fin 4)].unresolved = 0 ∧
    findBag s s.sessions[(0 : Fin 4)].bag = some b ∧ b.state = .counting ∧ b.session = some 0 ∧
    (∀ c : Fin 12, additionRefused s.denoms[c] s.stock[c] s.sessions[(0 : Fin 4)].accepted[c] = false ∧
      s.stock[c].suspect + s.sessions[(0 : Fin 4)].suspect[c] ≤ 4294967295) :=
  ⟨takenAs_of_check (by decide +kernel), by decide +kernel⟩

/-! ## Witnesses: the hatch -/

/-- The shop with a descriptor on slot 15, the head. -/
def called (d : Descriptor) (c : Handover) : State :=
  ((shop .trading).setRing (put State.reset.ring 15 d)).setCall { c with next := 15 }

/-- A booking for the courier 77 that takes out bag 8, open on the minute 0 alone. -/
def booked : Descriptor := { Descriptor.reset with owner := .part, courier := 77, outbound := [8], inboundCount := 1, inboundValue := 3000 }

/-- A session on slot 15. -/
def callIn (p : Phase) : Handover := { Handover.reset with phase := p, slot := some 15, timer := some 100 }

/-- ANNOUNCE of the right and of a wrong courier, LOAD of the last bag, RECEIVE of the twelfth (CallFrames). -/
theorem witness_call :
    let announce := fun id : Nat => windowOf .announce 7 (be 4 id) []
    let load := windowOf .load 7 (be 4 8) []
    let receive := windowOf .receive 7 (be 4 7 ++ be 4 999999999) []
    let idle := fun id => holding .room (announce id) (called booked { Handover.reset with refused := 8 })
    let b := bagOf 8 .consignment .inHandling
    let out := holding .room load ((called booked (callIn .exchange)).setBags [b])
    let in_ := holding .room receive (called { booked with received := List.replicate 11 5 } (callIn .signing))
    (∀ id ∈ [77, 78], TakenAs (idle id) .room (announce id) .announce none ∧ (idle id).call.phase = .idle ∧
      (∀ x ∈ (idle id).bags, x.state ≠ .hatchHeld) ∧ (idle id).head.owner = .part ∧
      (idle id).head.windowStart ≤ (idle id).day.clock ∧ (idle id).day.clock ≤ (idle id).head.windowEnd ∧
      parseAnnounce (announce id).frame.body = some id ∧ (idle id).call.refused < 9) ∧ (idle 77).head.courier = 77 ∧
    (TakenAs out .room load .load none ∧ out.call.phase ≠ .idle ∧ out.call.slot = some 15 ∧
      parseSeal load.frame.body = some 8 ∧ 8 ∈ out.ring[(15 : Fin 16)].outbound ∧ findBag out 8 = some b ∧ b.state = .inHandling) ∧
    (TakenAs in_ .room receive .receive none ∧ in_.call.phase ≠ .idle ∧ in_.call.slot = some 15 ∧
      parseReceive receive.frame.body = some (7, 999999999) ∧ in_.ring[(15 : Fin 16)].received.length < 12 ∧
      Creatable in_ 7 999999999) := by
  unfold Creatable
  refine ⟨fun id hid => ⟨takenAs_of_check ?_, ?_⟩, by decide +kernel, ⟨takenAs_of_check (by decide +kernel), by decide +kernel⟩,
    ⟨takenAs_of_check (by decide +kernel), by decide +kernel⟩⟩
  all_goals revert id; decide +kernel

/-- SIGN with what came in as booked (SignResult). -/
theorem witness_sign :
    let w := windowOf .sign 9 [] [8, 10]
    let s := holding .room w ((called { booked with received := [9] } (callIn .signing)).setBags
      [bagOf 8 .consignment .loaded, bagOf 9 .inbound .received])
    TakenAs s .room w .sign (some (10, 8)) ∧ w.frame.body = [] ∧ s.call.phase = .signing ∧ s.call.slot = some 15 ∧
    bagIn s 8 .loaded = true :=
  ⟨takenAs_of_check (by decide +kernel), by decide +kernel⟩

/-- An opaque frame and one of an unknown kind (RelayedFrames). -/
theorem witness_relayed :
    let w := windowOf .drop 6 [] []
    let opaque_ : Window := { w with frame := { w.frame with kind := 0x80 } }
    let unknown : Window := { w with frame := { w.frame with kind := 0x7F } }
    (MarkedAt (holding .room opaque_ (shop .night)) .room opaque_ ∧ opaqueKind opaque_.frame.kind = true) ∧
    (MarkedAt (holding .room unknown (shop .night)) .room unknown ∧ opaqueKind unknown.frame.kind = false ∧
      (∀ k : JobKind, unknown.frame.kind ≠ k.byte) ∧ registeredOn (holding .room unknown (shop .night)) .room 6 = true) := by
  refine ⟨⟨⟨rfl, rfl, by decide +kernel, fun _ => by decide +kernel⟩, by decide +kernel⟩,
    ⟨rfl, rfl, by decide +kernel, fun _ => by decide +kernel⟩, by decide +kernel, fun k => ?_, by decide +kernel⟩
  cases k <;> decide

/-! ## Witnesses: the expiries -/

/-- Each timer at the second of its expiry, and an owed command with one FREE place (TimerExpiries). -/
theorem witness_timers :
    let s := shop .trading
    let lock := fun l => s.setSafe { Safe.reset with lock := l, timer := some 100 }
    let count := (s.setBags [bagOf 7 .cashup .counting]).setSessions (put s.sessions 3 { counting with timer := some 100 })
    let owed := (s.setSafe { Safe.reset with owed := true }).setOut .room { reserved := 7, filled := [] }
    (∀ l ∈ [LockState.delay, .window, .unlocked], (100 : Nat) ≤ (lock l).seconds ∧ (lock l).safe.timer = some 100) ∧
    (count.sessions[(3 : Fin 4)].state = .counting ∧ count.sessions[(3 : Fin 4)].timer = some 100 ∧
      findBag count count.sessions[(3 : Fin 4)].bag = some (bagOf 7 .cashup .counting)) ∧
    (owed.safe.owed = true ∧ 0 < owed.room.out.free ∧ owed.nodes[(4 : Fin 252)].enabled = true ∧
      owed.nodes[(4 : Fin 252)].role = .safe ∧
      ∀ j : Fin 252, j < 4 → owed.nodes[j].enabled = false ∨ owed.nodes[j].role ≠ .safe) := by decide +kernel

/-- A timeout in each phase, and the clock at its sixtieth second on the last minute of the day (CallExpiries). -/
theorem witness_call_timers :
    (∀ p ∈ [Phase.exchange, .signing], (called booked (callIn p)).call.timer = some 100 ∧
      (called booked (callIn p)).call.slot = some 15 ∧ (100 : Nat) ≤ (called booked (callIn p)).seconds) ∧
    (let s := (called booked Handover.reset).setDay { Day.reset with clock := 1439, clockSecond := 40 }
     s.day.clockSecond + 60 ≤ s.seconds ∧ ¬s.day.clock < 1439 ∧ s.ring[(15 : Fin 16)].owner = .part) := by decide +kernel

/-! ## Witnesses: the trunk -/

/-- The shop with a trunk. -/
def wired (t : Trunk) : State := (shop .trading).setTrunk t

/-- A SEND to node 6 at the head of the buffer, as R178 takes it. -/
def sent : TrunkEntry := .send 5 1 0x10 0x30 6 (List.replicate 40 0)

/-- Each premise of TrunkCommands. -/
theorem witness_trunk :
    let three := wired { Trunk.reset with buffer := List.replicate 3 (.request 1 0x18 []) }
    let four := wired { Trunk.reset with buffer := List.replicate 4 (.request 1 0x18 []) }
    let reply : Reply := { tag := 5, code := 0x18, result := .accepted, detail := 0, data := [] }
    let sending : Sending := { source := .relay, chars := [] }
    let e : Envelope := { port := .room, second := 0, stamp := .accepted, marks := [1], frame := frameOf .drop 6 [] }
    let full := fun n => (wired { Trunk.reset with buffer := [sent] }).setDown .room (List.replicate n (callFrame 0 0))
    let waits := ((talking .awaitMarks (currentSend 1) [6]).setDown .room (List.replicate 8 (callFrame 0 0))).setTrunk
      { Trunk.reset with buffer := [sent], sendWaits := true }
    (three.trunk.sendWaits = false ∧ three.trunk.rx = .hunting ∧ three.trunk.buffer.length < 4) ∧
    (four.trunk.sendWaits = false ∧ four.trunk.buffer.length = 4) ∧
    ((wired { Trunk.reset with holdIn := true, sending := some sending }).trunk.holdIn = true ∧ three.trunk.holdIn = false) ∧
    ((wired { Trunk.reset with reply := some reply }).trunk.reply = some reply ∧ three.trunk.sending = none) ∧
    (three.setAttention true).attention = true ∧ (three.attention = false ∧ (three.setUplink { reserved := 0, filled := [e] }).uplink.filled = [e]) ∧
    (wired { Trunk.reset with sending := some sending }).trunk.sending = some sending ∧
    (0x13#8 ∉ knownRequests ∧ (asking 0x13 [] (shop .trading)).trunk.buffer.head? = some (.request 5 0x13 [])) ∧
    ((List.replicate 40 (0#8)).length ≤ 40 ∧ markMode 0x10 ≠ .reply ∧ zeroBitsClear 0x10 = true ∧
      registeredOn (full 7) .room 6 = true ∧ ((full 7).port .room).down.length < downlinkPlaces .room) ∧
    downlinkPlaces .room ≤ ((full 8).port .room).down.length ∧
    ((currentSend 1).source = .downlink ∧ (currentSend 1).frame.dest ∈ (waits.port .room).tx.marks ∧
      waits.trunk.sendWaits = true ∧ waits.trunk.reply = none ∧ sendQueue waits 1 6 = .room ∧
      (waits.port .room).down.length = downlinkPlaces .room) := by decide +kernel

/-- A wrong check, each frame that no type or length suits, a length above 512, and HOLD standing with a REPLY, an ATTENTION, an envelope or nothing waiting
(TrunkCommands). -/
theorem witness_trunk_discards :
    let reply : Reply := { tag := 5, code := 0x18, result := .accepted, detail := 0, data := [] }
    let e : Envelope := { port := .room, second := 0, stamp := .accepted, marks := [1], frame := frameOf .drop 6 [] }
    let held := wired { Trunk.reset with holdIn := true }
    let answered := wired { Trunk.reset with holdIn := true, reply := some reply }
    (wired Trunk.reset).trunk.rx = .hunting ∧ ((0 : Nat) ≠ (crc16 (0x03#8 :: (be 2 0 ++ []))).toNat ∧ (0 : Nat) < 256 ^ 2) ∧
    ((0x04#8 ≠ typeRequest ∧ 0x04#8 ≠ typeSend) ∧ [(0#8), 1].length < 3 ∧ [(0#8), 1, 0, 8, 16, 2].length < 7 ∧
      (7 ≤ [(0#8), 1, 0, 8, 16, 2, 1].length ∧ [(0#8), 1, 0, 8, 16, 2, 1].length < 7 + ([(0#8), 1, 0, 8, 16, 2, 1].getD 6 0).toNat)) ∧
    ((512 : Nat) < 513 ∧ (513 : Nat) < 256 ^ 2) ∧
    (held.trunk.sending = none ∧ held.trunk.holdIn = true ∧ held.trunk.reply = none ∧ held.attention = false ∧ held.uplink.filled = []) ∧
    answered.trunk.reply = some reply ∧ (held.setAttention true).attention = true ∧
    (held.setUplink { reserved := 0, filled := [e] }).uplink.filled = [e] := by decide +kernel

/-- A settled state with an ATTENTION owed (TrunkCommands). -/
theorem witness_settled : Settled ((shop .trading).setAttention true) :=
  ⟨by decide +kernel, fun e => by cases e <;> decide +kernel⟩

/-! ## Witnesses: the requests -/

/-- A request at the head that the Agent may take. -/
theorem asking_atHead (code : Byte) (fields : List Byte) (d : DayState) : RequestAtHead (asking code fields (shop d)) 5 code fields :=
  ⟨rfl, rfl, rfl⟩

/-- The pointer inside a table, past its end, at a read-only table and at the session record; a code of no table, and indices outside a table
(TableWindow; its requests are at the head by `asking_atHead`). -/
theorem witness_table_window :
    TableId.node.first ≤ 253 ∧ 253 ≤ TableId.node.last ∧ TableId.denom.last < 12 ∧ TableId.daySummary.readOnly = true ∧
    (0 : Nat) ≤ TableId.daySummary.last ∧ 16 ≤ TableId.ring.last ∧ (∀ t ∈ TableId.all, t.code ≠ 255) ∧
    (TableId.node.code < 256 ∧ 1 < TableId.node.first ∧ TableId.node.last < 65535) := by decide

/-- An entry that each write rule takes (TableWrites). -/
theorem witness_table_writes :
    let s := shop .night
    let d : Denom := { face := 1000001, kind := .note, strap := 0, packet := 1001, enabled := true }
    let w : Witness := { roleA := .console, roleB := .carrier, sameTill := true }
    let b : Booking := { number := 3, courier := 77, windowStart := 2000, windowEnd := 0, outbound := [1, 2, 3, 4, 5, 6, 7, 8, 9, 10, 11, 12]
                         inboundCount := 13, inboundValue := 5 }
    (readDenom (denomBytes d) = some d ∧ s.day.state = .night ∧
      (∀ k : Fin 12, k ≠ 2 → s.denoms[k].enabled = true → s.denoms[k].face ≠ max 1 (min 1000000 d.face)) ∧
      s.denoms[(2 : Fin 12)].enabled = false) ∧
    (readDenom (denomBytes shopDenoms[0]) = some shopDenoms[0] ∧ s.denoms[(0 : Fin 12)].enabled = true ∧ inUse s 0 = true) ∧
    readNode (nodeBytes (nodeAs .floor .till)) = some (nodeAs .floor .till) ∧
    readNode (nodeBytes (nodeAs .room .safe)) = some (nodeAs .room .safe) ∧ readNode (nodeBytes Node.reset) = some Node.reset ∧
    readWitness (witnessBytes w) = some w ∧
    (readTill (tillBytes shopTill) = some { shopTill with targetValue := 0 } ∧ s.drawers[(1 : Fin 160)].state = .closed) ∧
    takeNat timingWidth[(0 : Fin 14)] (be 2 7201) = some (7201, []) ∧
    readSetting (settingBytes { mode := .wrap, report := false }) = some { mode := .wrap, report := false } ∧
    (readBooking (be 4 3 ++ be 4 77 ++ be 2 2000 ++ be 2 0 ++ listBytes (be 4) b.outbound ++ be 1 13 ++ be 4 5) = some b ∧
      s.ring[(15 : Fin 16)].owner = .office ∧ b.outbound.length ≤ 12 ∧ 0 ∉ b.outbound) := by decide +kernel

/-- A selection of every event, and each named run of groups (EventAndTallyRequests). -/
theorem witness_event_requests : 67108863 < 256 ^ 4 ∧ namedGroups 0 = some [.accepted] ∧ namedGroups 3 = some TallyGroup.all := by decide

/-- A settled state with DAY_CHANGED alone pending. -/
def dayChanged : State :=
  { shop .trading with
    events := put (shop .trading).events Event.dayChanged.row { EventRec.reset with pending := true }, vector := Event.dayChanged.code }

theorem dayChanged_settled : Settled dayChanged := ⟨by decide +kernel, fun e => by cases e <;> decide +kernel⟩

/-- It is settled with a request at the head too, one that reads or clears the events (EventAndTallyRequests). -/
theorem witness_event_requests_settled (code : Byte) (fields : List Byte) :
    RequestAtHead (asking code fields dayChanged) 5 code fields ∧ Settled (asking code fields dayChanged) ∧
      ((asking code fields dayChanged).event .dayChanged).pending = true :=
  ⟨⟨rfl, rfl, rfl⟩, ⟨dayChanged_settled.1, fun e h => (dayChanged_settled.2 e h).trans (by cases e <;> rfl)⟩, rfl⟩

/-- The day states, the last minute and the armed permission, a PENDING order that is the last and one that is not (DayRequests). -/
theorem witness_day_requests :
    let pending : Order := { Order.reset with state := .pending, till := 159 }
    let s := (shop .trading).setOrders (put (put State.reset.orders 0 pending) 22 pending)
    (shop .night).day.state = .night ∧ (shop .opening).day.state = .opening ∧
    ((shop .trading).day.state = .opening ∨ (shop .trading).day.state = .trading) ∧ (1439 : Nat) ≤ 1439 ∧
    ((shop .night).setDay Day.reset).day.armed = true ∧
    (s.orders[(22 : Fin 24)].state = .pending ∧ (∀ j : Fin 24, 22 < j → s.orders[j].state ≠ .pending) ∧
      s.orders[(22 : Fin 24)].till = 159 ∧ (∀ i : Fin 24, s.orders[i].state = .pending → s.orders[i].till ≠ 0)) ∧
    (∀ i : Fin 24, (shop .trading).orders[i].state ≠ .pending) := by decide +kernel

/-- Distinct seals where a DAY_CLOSE completes, and where one is held up by a bag at the hatch; a request of either form is at the head (DayRequests). -/
theorem witness_close_distinct (force : Bool) :
    let s := asking 0x32 [flagByte force] ((shop .trading).setDrawers State.reset.drawers)
    let held := s.setBags [bagOf 8 .consignment .inSafe, bagOf 9 .consignment .hatchHeld]
    (RequestAtHead s 5 0x32 [flagByte force] ∧ SealsDistinct s ∧ s.call.phase = .idle ∧ s.safe.lock = .locked ∧
      (∀ t : Fin 160, s.drawers[t].state = .closed) ∧ ∀ x : Fin 4, s.sessions[x].state = .idle) ∧
    RequestAtHead held 5 0x32 [flagByte force] ∧ SealsDistinct held ∧ ∃ b ∈ held.bags, b.state = .hatchHeld := by
  refine ⟨⟨⟨rfl, rfl, rfl⟩, by unfold SealsDistinct; cases force <;> decide +kernel, rfl, rfl, ?_, ?_⟩, ⟨rfl, rfl, rfl⟩,
    by unfold SealsDistinct; cases force <;> decide +kernel, by cases force <;> decide +kernel⟩ <;> cases force <;> decide +kernel

/-- Each premise of OfficeRequests. -/
theorem witness_office_requests :
    let s := (shop .night).setBags [bagOf 8 .consignment .inSafe, bagOf 9 .consignment .hatchHeld]
    let d : Descriptor := { booked with owner := .office }
    (((s.setRing (put s.ring 15 d)).ring[(15 : Fin 16)]).owner = .office ∧ s.day.clock ≤ d.windowEnd ∧ pinCheck s [] d.outbound = none) ∧
    ((called booked Handover.reset).ring[(15 : Fin 16)].owner = .part ∧ (called booked Handover.reset).call.phase = .idle) ∧
    ((called booked { callIn .exchange with slot := some 0 }).call.slot ≠ some 15) ∧
    findBag s 9 = some (bagOf 9 .consignment .hatchHeld) ∧
    ({ Order.reset with state := .pending } : Order).state = .pending ∧ (locked .lockout s).safe.lock = .lockout ∧
    (s.denoms[(0 : Fin 12)].enabled = true ∧ s.stock[(0 : Fin 12)].reserved ≤ 20 + 0 * s.denoms[(0 : Fin 12)].strap) ∧
    3 ≤ s.stock[(0 : Fin 12)].suspect ∧
    ((shop .trading).day.state ≠ .night ∧ (shop .trading).drawers[(0 : Fin 160)].state ≠ .cashedUp ∧
      (drawerIn .suspended).state = .suspended) := by decide +kernel

/-- Ports without a marked frame, one with it and both with it (RestartResult, LineCommandsLeave); `busy` meets the premise of OtherCommandsLeave. -/
theorem witness_restart :
    let v := windowOf .tender 2 [] []
    let w := windowOf .drop 6 (be 4 7) []
    let both := holding .room w (holding .floor v (shop .trading))
    NoMarkedFrame (shop .trading) .floor ∧ NoMarkedFrame (shop .trading) .room ∧
    (markedWindow (holding .floor v (shop .trading)) .floor = some v ∧ NoMarkedFrame (holding .floor v (shop .trading)) .room) ∧
    (markedWindow both .floor = some v ∧ markedWindow both .room = some w ∧ (both.port .room).tx.phase = .idle) ∧
    (∃ t, exec (.symbolError .room .invalid) both = .next t) ∧ WaitingSound busy :=
  ⟨by unfold NoMarkedFrame; decide +kernel, by unfold NoMarkedFrame; decide +kernel,
    ⟨by decide +kernel, by unfold NoMarkedFrame; decide +kernel⟩, by decide +kernel, ⟨_, rfl⟩,
    fun _ => ⟨rfl, 5, 0, 8, 16, 2, [], [], rfl⟩⟩

/-- A session at work in the last slot, and a call with one bag LOADED, one IN_HANDLING and one received: the bags of which RestartResult and
DayRequests speak. -/
theorem witness_aborted_bags :
    let d : Descriptor := { booked with outbound := [8, 9], received := [6] }
    let b : Bag := { bagOf 7 .pickup .counting with session := some 3 }
    let s := ((called d (callIn .exchange)).setBags [b, { bagOf 8 .consignment .loaded with pin := some 15 },
      { bagOf 9 .consignment .inHandling with pin := some 15 }, bagOf 6 .inbound .received]).setSessions (put State.reset.sessions 3 counting)
    s.call.phase ≠ .idle ∧ s.call.slot = some 15 ∧ s.ring[(15 : Fin 16)].outbound = [8, 9] ∧ s.ring[(15 : Fin 16)].received = [6] ∧
    (findBag s 7 = some b ∧ s.sessions[(3 : Fin 4)].state ≠ .idle ∧ s.sessions[(3 : Fin 4)].bag = 7 ∧ b.state.terminal = false) ∧
    (bagIn s 8 .loaded = true ∧ bagIn s 9 .inHandling = true ∧ bagIn s 6 .received = true) ∧
    (s.day.state ≠ .closing ∧ s.day.state = .trading) := by decide +kernel

/-- A frame of each room kind at a receiver, a till other than the source's, a seal other than the body's, a session other than the counter's or the
one a console names (TillFramesLeave, RoomFramesLeave). -/
theorem witness_frames_leave :
    let w := windowOf .drop 6 (be 4 7) []
    let receipt := windowOf .floatReceipt 2 (be 2 3 ++ be 4 7) []
    ((holding .room w (shop .trading)).port .room).rx = .markWindow w ∧ (∃ t, exec (.drop .room) (holding .room w (shop .trading)) = .next t) ∧
    ((holding .floor receipt (shop .trading)).port .floor).rx = .markWindow receipt ∧
    (∃ t, exec (.floatReceipt .floor) (holding .floor receipt (shop .trading)) = .next t) ∧
    (shop .trading).day.state ≠ .closing ∧ parseSeal w.frame.body ≠ some 8 ∧ (1 : Fin 160) ≠ tillOf (shop .trading) 2 ∧
    (sessionNamed (shop .trading) (frameOf .bagClose 5 []) = some 0 ∧
      sessionNamed (shop .trading) (frameOf .countAbort 9 [3]) = some 3 ∧
      sessionNamed (shop .trading) (frameOf .handKey 9 [2, 0, 0, 1, 0]) = some 2) ∧
    (shop .trading).sessions[(0 : Fin 4)].bag ≠ 7 := by
  refine ⟨rfl, ⟨_, rfl⟩, rfl, ⟨_, rfl⟩, by decide +kernel, by decide +kernel, by decide +kernel, by decide +kernel, by decide +kernel⟩

/-! ## Witnesses: refusals, and what they leave -/

/-- A call with one bag LOADED, one IN_HANDLING and one still IN_SAFE, and a drawer whose sums agree beside one whose flag is set (StepKeepsSessions,
MovementArithmetic). -/
theorem witness_handover_bags :
    let c := fun (n : Nat) (st : BagState) => { bagOf n .consignment st with pin := some 15 }
    let s := ((called { booked with outbound := [8, 9, 10] } (callIn .exchange)).setBags [c 8 .loaded, c 9 .inHandling, c 10 .inSafe]).setDrawers
      (put (put State.reset.drawers 0 { drawerIn .opened with
        floatDelivered := 4294967295, netTendered := -2147483648, refunds := 1, pickups := 2, cashup := 3, expected := 2147483641 })
        1 { drawerIn .opened with saturated := true })
    (SealsDistinct s ∧ PinsSound s ∧ SessionSound s ∧ HandoverBags s) ∧ DrawersAgree s ∧ step s = .next (tick s) := by
  refine ⟨⟨by unfold SealsDistinct; decide +kernel, by unfold PinsSound; decide +kernel, by unfold SessionSound; decide +kernel,
    by unfold HandoverBags; decide +kernel⟩, by unfold DrawersAgree; decide +kernel, rfl⟩

/-- A marked frame for each step of the inspection: an unknown source, an unknown kind, a role the kind has not, a day state, a form, and a guarded kind
with one witness (InspectionSteps). -/
theorem witness_frames_refused :
    let drop := windowOf .drop 50 (be 4 7) []
    let strange : Window := { drop with frame := { drop.frame with src := 6, kind := 0x7F } }
    let load := windowOf .load 6 (be 4 7) []
    let sign := windowOf .sign 9 [] [10]
    let bent : Window := { sign with frame := { sign.frame with pb := 0x11 } }
    let at_ := fun (w : Window) (d : DayState) => holding .room w (shop d)
    let check := fun (w : Window) (d : DayState) =>
      decide (((at_ w d).port .room).rx = .markWindow w) && decide (w.answer = .marked) && decide (0 < (at_ w d).uplink.reserved) &&
        decide (0 < ((at_ w d).port .room).out.reserved) && !opaqueKind w.frame.kind
    (check drop .trading = true ∧ registeredOn (at_ drop .trading) .room 50 = false) ∧
    (check strange .trading = true ∧ registeredOn (at_ strange .trading) .room 6 = true ∧ ∀ k : JobKind, (0x7F : Byte) ≠ k.byte) ∧
    (check load .trading = true ∧ load.frame.kind = JobKind.load.byte ∧ roleOf (at_ load .trading) 6 = some .safe ∧
      Role.safe ∉ JobKind.load.senders) ∧
    (check sign .night = true ∧ (∃ r ∈ JobKind.sign.senders, roleOf (at_ sign .night) 9 = some r) ∧ JobKind.sign.allowedIn .night = false) ∧
    (check bent .trading = true ∧ JobKind.sign.allowedIn .trading = true ∧ formed .sign bent.frame = false) ∧
    (check sign .trading = true ∧ inspectForm (sign.taken .room) (at_ sign .trading) = .ok .sign ∧ JobKind.sign.guardRow = some 6 ∧
      witnessPair (at_ sign .trading) (at_ sign .trading).witness[(6 : Fin 7)] (sign.taken .room) = none) := by
  refine ⟨by decide +kernel, ⟨by decide +kernel, by decide +kernel, fun k => ?_⟩, by decide +kernel, by decide +kernel, by decide +kernel,
    by decide +kernel⟩
  cases k <;> decide

/-- The three ways into UNLOCKED (LockFrames): the confirm's own command, an error that ends its window, and RESTART. -/
theorem witness_unlocked :
    let s := (holding .room (windowOf .openConfirm 9 [] [10, 11]) (locked .window (asking 0x5F [] (shop .night))))
    (∀ c ∈ [Instr.openConfirm .room, .symbolError .room .invalid, .restart],
      ∃ t, exec c s = .next t ∧ t.safe.lock = .unlocked) ∧ s.safe.lock = .window := by
  refine ⟨fun c hc => ?_, rfl⟩
  have h : c = .openConfirm .room ∨ c = .symbolError .room .invalid ∨ c = .restart := by simpa using hc
  rcases h with rfl | rfl | rfl <;> exact ⟨_, rfl, by decide +kernel⟩

/-- A command that goes out by the eighth place to node 6, a full queue, and a shop whose safe is disabled (LockFrames, TransmitterEnd, TimerExpiries). -/
theorem witness_command_goes :
    let s := shop .trading
    let last := (s.setOut .room { reserved := 7, filled := [] }).room.out
    let full := (s.setOut .room { reserved := 8, filled := [] }).room.out
    let off := s.setNodes (put s.nodes 4 { nodeAs .room .safe with enabled := false })
    (0 < last.free ∧ LowestSafeNode s 6) ∧ full.free = 0 ∧ (∀ b, ¬LowestSafeNode off b) ∧ s.safe.owed = false := by
  refine ⟨⟨by decide +kernel, 4, by decide, by decide +kernel, by decide +kernel, by decide +kernel⟩, by decide +kernel, fun b hb => ?_, rfl⟩
  obtain ⟨i, -, h1, h2, -⟩ := hb
  revert i
  decide +kernel

/-- A frame to 0xFF that gathers marks, 255 among them, at its last attempt but one and at its last; a discarded SAFE_COMMAND with and without one
owed (TransmitterAttempt, TransmitterEnd). -/
theorem witness_to_all :
    let c := fun n : Nat => { currentSend n with frame := { (currentSend n).frame with dest := 255 } }
    let s := talking .awaitMarks (currentCommand 4) [7]
    (∀ n ∈ [3, 4], (c n).frame.dest = 255 ∧ (c n).frame.dest ∈ ((talking .awaitMarks (c n) [255]).port .room).tx.marks) ∧
    ((currentCommand 4).source ≠ .downlink ∧ (currentCommand 4).frame.kind = kindSafeCommand ∧ s.safe.owed = false) ∧
    ((currentSend 4).frame.kind ≠ kindSafeCommand ∧ (s.setSafe { s.safe with owed := true }).safe.owed = true) := by decide +kernel

/-- ANNOUNCE in a call, before a hatch that is not clear, at OFFICE's head, a minute late; with a short body (CallFrames). -/
theorem witness_announce_refused :
    let w := windowOf .announce 7 (be 4 77) []
    let short := windowOf .announce 7 (be 3 77) []
    let late := holding .room w ((called booked Handover.reset).setDay { Day.reset with state := .trading, clock := 1 })
    let office := holding .room w (called Descriptor.reset Handover.reset)
    let held := holding .room w ((called booked Handover.reset).setBags [bagOf 7 .pickup .sealed, bagOf 8 .consignment .hatchHeld])
    let busyCall := holding .room w (called booked (callIn .signing))
    (∀ s ∈ [late, office, held, busyCall], takenCheck s .room w .announce none = true) ∧
    takenCheck (holding .room short (called booked Handover.reset)) .room short .announce none = true ∧
    parseAnnounce short.frame.body = none ∧ parseAnnounce w.frame.body = some 77 ∧
    (busyCall.call.phase ≠ .idle ∧ busyCall.call.slot = some 15 ∧ booked.courier = 77) ∧
    ((bagOf 8 .consignment .hatchHeld).state = .hatchHeld ∧ ∀ x ∈ [bagOf 7 .pickup .sealed], x.state ≠ .hatchHeld) ∧
    office.head.owner = .office ∧ (late.head.owner = .part ∧ late.head.windowEnd < late.day.clock) := by decide +kernel

/-- LOAD and RECEIVE without a session, and each refusal in one (CallFrames). -/
theorem witness_load_receive_refused :
    let load := windowOf .load 7 (be 4 8) []
    let receive := fun v : Nat => windowOf .receive 7 (be 4 7 ++ be 4 v) []
    let in_ := fun (w : Window) (d : Descriptor) (bags : List Bag) => holding .room w ((called d (callIn .exchange)).setBags bags)
    let full := { booked with received := List.replicate 12 5 }
    (takenCheck (holding .room load (called booked Handover.reset)) .room load .load none = true ∧
      takenCheck (holding .room (receive 1) (called booked Handover.reset)) .room (receive 1) .receive none = true) ∧
    (∀ st ∈ [BagState.loaded, .inSafe], takenCheck (in_ load booked [bagOf 8 .consignment st]) .room load .load none = true ∧
      bagIn (in_ load booked [bagOf 8 .consignment st]) 8 st = true) ∧
    (takenCheck (in_ load booked []) .room load .load none = true ∧ findBag (in_ load booked []) 8 = none ∧ 8 ∈ booked.outbound ∧
      8 ∉ Descriptor.reset.outbound) ∧
    (takenCheck (in_ (receive 3000) { booked with received := [7] } [bagOf 7 .inbound .received]) .room (receive 3000) .receive none = true ∧
      (bagOf 7 .inbound .received).declared = 3000) ∧
    (takenCheck (in_ (receive 1) full []) .room (receive 1) .receive none = true ∧ 12 ≤ full.received.length ∧ 7 ∉ full.received) ∧
    (∀ v ∈ [0, 1000000000], takenCheck (in_ (receive v) booked []) .room (receive v) .receive none = true ∧
      parseReceive (receive v).frame.body = some (7, v)) ∧
    (takenCheck (in_ (receive 1) booked [bagOf 7 .pickup .sealed]) .room (receive 1) .receive none = true ∧
      findBag (in_ (receive 1) booked [bagOf 7 .pickup .sealed]) 7 ≠ none) ∧
    (takenCheck (in_ (receive 1) booked (List.replicate 512 (bagOf 9 .pickup .sealed))) .room (receive 1) .receive none = true ∧
      findBag (in_ (receive 1) booked (List.replicate 512 (bagOf 9 .pickup .sealed))) 7 = none ∧
      512 ≤ (List.replicate 512 (bagOf 9 .pickup .sealed)).length) := by decide +kernel

/-- SIGN with a body, with no session, and in EXCHANGE (SignResult). -/
theorem witness_sign_refused :
    let w := fun body => windowOf .sign 9 body [8, 10]
    let s := fun (body : List Byte) (c : Handover) => holding .room (w body) (called booked c)
    TakenAs (s [0] (callIn .signing)) .room (w [0]) .sign (some (10, 8)) ∧ TakenAs (s [] Handover.reset) .room (w []) .sign (some (10, 8)) ∧
    TakenAs (s [] (callIn .exchange)) .room (w []) .sign (some (10, 8)) :=
  ⟨takenAs_of_check (by decide +kernel), takenAs_of_check (by decide +kernel), takenAs_of_check (by decide +kernel)⟩

/-- A SEND of a body too long, one in mode REPLY, one to node 50 (TrunkCommands). -/
theorem witness_send_refused :
    let s := fun e => wired { Trunk.reset with buffer := [e] }
    (∀ e ∈ [TrunkEntry.send 5 1 0x10 0x30 6 (List.replicate 41 0), .send 5 2 0x18 0x30 50 []], (s e).trunk.buffer = e :: [] ∧
      (s e).trunk.reply = none ∧ (s e).trunk.sendWaits = false) ∧
    40 < (List.replicate 41 (0#8)).length ∧ markMode 0x18 = .reply ∧
    ((50 : Byte) ≠ 255 ∧ registeredOn (shop .trading) .floor 50 = false ∧ registeredOn (shop .trading) .room 50 = false ∧
      markMode 0x10 ≠ .reply ∧ zeroBitsClear 0x10 = true) := by decide +kernel

/-- Entries with and without each field that may be absent: the first bag and the place behind it, the safe's list (TableWindow). -/
theorem witness_entries :
    busy.bags[0]? = some (bagOf 7 .pickup .counting) ∧ busy.bags.length ≤ 2 ∧
    busy.safe.inventory[0]? = some { sealNo := 8, way := .door, second := 0 } ∧ busy.safe.inventory.length ≤ 1 ∧
    busy.safe.timer = some 700 ∧ busy.call.slot = some 0 := by decide +kernel

/-- Each refusal of a TABLE_PUT: fields a byte short, the day state, a face taken, a code in use, a role on the wrong port, a till in trade, a
descriptor that PART owns, a list of thirteen and one with a seal of 0 (TableWrites). -/
theorem witness_writes_refused :
    let s := shop .night
    let twin : Denom := { face := 500, kind := .note, strap := 100, packet := 10, enabled := true }
    let listed := fun l : List Nat => readBooking (be 4 3 ++ be 4 77 ++ be 2 0 ++ be 2 0 ++ listBytes (be 4) l ++ be 1 0 ++ be 4 0)
    (readDenom ((denomBytes twin).dropLast) = none ∧ readNode ((nodeBytes Node.reset).dropLast) = none ∧
      readWitness ((witnessBytes s.witness[(0 : Fin 7)]).dropLast) = none ∧ readTill ((tillBytes shopTill).dropLast) = none ∧
      (be 1 0).length < timingWidth[(0 : Fin 14)] ∧ readSetting [3, 0] = none ∧ readBooking [] = none) ∧
    ((shop .opening).day.state ≠ .night ∧ readDenom (denomBytes twin) = some twin) ∧
    (s.day.state = .night ∧ (∃ k : Fin 12, k ≠ 2 ∧ s.denoms[k].enabled = true ∧ s.denoms[k].face = max 1 (min 1000000 twin.face))) ∧
    ((¬∃ k : Fin 12, k ≠ 0 ∧ s.denoms[k].enabled = true ∧ s.denoms[k].face = max 1 (min 1000000 twin.face)) ∧
      s.denoms[(0 : Fin 12)].enabled = true ∧ inUse s 0 = true ∧ s.denoms[(0 : Fin 12)].strap ≠ max 1 (min 1000 99)) ∧
    ((nodeAs .floor .safe).port = .floor ∧ (nodeAs .room .till).role = .till ∧ (nodeAs .none .till).enabled = true) ∧
    ((shop .trading).drawers[(0 : Fin 160)].state = .opened ∧ (called booked Handover.reset).ring[(15 : Fin 16)].owner = .part) ∧
    (∃ b ∈ listed (List.replicate 13 1), 12 < b.outbound.length) ∧ ∃ b ∈ listed [1, 0], 0 ∈ b.outbound := by decide +kernel

/-- Fields a byte short, a clear option and an enable value of 2, a group past the last with either option, and what the day requests are refused for
(EventAndTallyRequests, DayRequests; the requests are at the head by `asking_atHead`). -/
theorem witness_day_refused :
    ((be 3 0).length < 4 ∧ (be 4 0).length < 5 ∧ (be 1 3).length < 2 ∧ (2 : Byte) ≠ 0 ∧ (2 : Byte) ≠ 1 ∧ (4 : Nat) < 256 ∧ 3 < 4) ∧
    ((shop .opening).day.state ≠ .night ∧ (shop .trading).day.state ≠ .opening ∧ (shop .closing).day.state = .closing) ∧
    (∀ (force : Bool) (more : List Byte), [(2 : Byte)] ≠ flagByte force :: more) ∧
    ((be 1 0).length < 2 ∧ 1439 < 1440 ∧ (1440 : Nat) < 256 ^ 2 ∧ (shop .night).day.armed = false) := by
  refine ⟨by decide, by decide, fun force more => ?_, by decide, by decide, by decide, rfl⟩
  cases force <;> exact fun h => absurd (List.cons.inj h).1 (by decide)

/-- What the other requests are refused for: a slot, an order, a code or a till past the last, a slot that PART owns, one whose window has ended, the slot
of the call, a seal unknown and one in another state, an order FREE and one MADE_UP, a lock that is not in LOCKOUT, a code disabled, stock below the
reservation, more than the hold, a day state and a drawer CASHED_UP (OfficeRequests). -/
theorem witness_office_refused :
    let s := shop .night
    let late := s.setDay { Day.reset with clock := 1 }
    let inCall := called booked (callIn .signing)
    let orders := s.setOrders (put State.reset.orders 23 { Order.reset with state := .madeUp, sealNo := some 7 })
    ((16 : Nat) < 256 ∧ (24 : Nat) < 256 ∧ (12 : Nat) < 256 ∧ (160 : Nat) < 256) ∧
    inCall.ring[(15 : Fin 16)].owner = .part ∧ (late.ring[(15 : Fin 16)].owner = .office ∧ late.ring[(15 : Fin 16)].windowEnd < late.day.clock) ∧
    (inCall.call.phase ≠ .idle ∧ inCall.call.slot = some 15) ∧
    (findBag busy 9 = none ∧ findBag busy 7 = some (bagOf 7 .pickup .counting) ∧ (bagOf 7 .pickup .counting).state ≠ .hatchHeld) ∧
    (orders.orders[(0 : Fin 24)].state = .free ∧ orders.orders[(23 : Fin 24)].state = .madeUp) ∧ s.safe.lock ≠ .lockout ∧
    (s.day.state = .night ∧ (shop .opening).day.state ≠ .night ∧ s.denoms[(2 : Fin 12)].enabled = false) ∧
    (s.denoms[(0 : Fin 12)].enabled = true ∧ 19 + 0 * s.denoms[(0 : Fin 12)].strap < s.stock[(0 : Fin 12)].reserved ∧
      s.stock[(0 : Fin 12)].suspect < 4) ∧
    ((shop .trading).setDrawers (put s.drawers 0 (drawerIn .cashedUp))).drawers[(0 : Fin 160)].state = .cashedUp := by decide +kernel

/-! ## Witnesses: the refusals of the till, stock, safe and count frames -/

/-- PICKUP and CASHUP with each refusal of a create: the seal 0 before the value, the value 0, the value above its range, the seal in use, the register
full (TillBags). -/
theorem witness_till_bags_refused :
    let w := fun (k : JobKind) (n v : Nat) => windowOf k 2 (be 2 3 ++ be 4 n ++ be 4 v) [3, 4]
    let in_ := fun (k : JobKind) (n v : Nat) (bags : List Bag) => holding .floor (w k n v) ((shop .trading).setBags bags)
    ∀ x ∈ [(0, 1000000000, [], Code.malformed), (7, 0, [], .malformed), (7, 1000000000, [], .valueRange),
        (7, 999999999, [bagOf 7 .pickup .sealed], .sealInUse), (7, 1, List.replicate 512 (bagOf 9 .pickup .sealed), .registerFull)],
      CreateRefused ((shop .trading).setBags x.2.2.1) x.1 x.2.1 x.2.2.2 ∧ parseSkim (w .pickup x.1 x.2.1).frame.body = some (3, x.1, x.2.1) ∧
      ∀ k ∈ [JobKind.pickup, .cashup],
        takenCheck (in_ k x.1 x.2.1 x.2.2.1) .floor (w k x.1 x.2.1) k (some (3, 4)) = true ∧
        TillApplies (in_ k x.1 x.2.1 x.2.2.1) (w k x.1 x.2.1) k 0 ∧
        sequenceCheck (in_ k x.1 x.2.1 x.2.2.1).drawers[(0 : Fin 160)] 3 7 = .passes 0 := by
  unfold TillApplies TillSource CreateRefused
  decide +kernel

/-- DECLARE while an order is open, with the order table full, with a disabled code behind an enabled one, and with a code named twice
(DeclareResult). -/
theorem witness_declare_refused :
    let w := fun ps : List (Fin 12 × Nat) =>
      windowOf .declare 2 (be 2 3 ++ be 1 ps.length ++ ps.flatMap fun x => be 1 x.1.val ++ be 2 x.2) []
    let s := shop .trading
    let opened := s.setDrawers (put s.drawers 0 { drawerIn .opened with openOrder := some 23 })
    let full := s.setOrders (Vector.replicate 24 { Order.reset with state := .pending })
    (∀ x ∈ [(opened, []), (full, []), (s, [((0 : Fin 12), 1), (2, 9999)]), (s, [(0, 1), (1, 1), (0, 2)])],
      takenCheck (holding .floor (w x.2) x.1) .floor (w x.2) .declare none = true ∧
      TillApplies (holding .floor (w x.2) x.1) (w x.2) .declare 0 ∧ parseDeclare (w x.2).frame.body = some (3, x.2) ∧
      sequenceCheck x.1.drawers[(0 : Fin 160)] 3 7 = .passes 0) ∧
    opened.drawers[(0 : Fin 160)].openOrder = some 23 ∧
    (full.drawers[(0 : Fin 160)].openOrder = none ∧ ∀ i : Fin 24, full.orders[i].state ≠ .free) ∧
    (s.drawers[(0 : Fin 160)].openOrder = none ∧ s.orders[(0 : Fin 24)].state = .free) ∧
    (s.denoms[(0 : Fin 12)].enabled = true ∧ s.denoms[(1 : Fin 12)].enabled = true ∧ s.denoms[(2 : Fin 12)].enabled = false) ∧
    ([(0, 1), (1, 1), (0, 2)].map (fun x : Fin 12 × Nat => x.1) = [0, 1] ++ 0 :: [] ∧ [(0 : Fin 12), 1].Nodup) := by
  unfold TillApplies TillSource
  decide +kernel

/-- FLOAT_RECEIPT of a bag unknown, of another kind, in another state, and of another till (FloatReceiptResult). -/
theorem witness_float_receipt_refused :
    let w := windowOf .floatReceipt 2 (be 2 3 ++ be 4 7) [3, 4]
    let in_ := fun bags : List Bag => holding .floor w ((shop .trading).setBags bags)
    let other : Bag := { bagOf 7 .floatBag .madeUp with till := some 159 }
    parseReceipt w.frame.body = some (3, 7) ∧
    (∀ bags ∈ [[], [bagOf 7 .consignment .madeUp], [bagOf 7 .floatBag .inSafe], [other]],
      takenCheck (in_ bags) .floor w .floatReceipt (some (3, 4)) = true ∧ TillApplies (in_ bags) w .floatReceipt 0 ∧
      sequenceCheck (in_ bags).drawers[(0 : Fin 160)] 3 7 = .passes 0 ∧ findBag (in_ bags) 7 = bags.head?) := by
  unfold TillApplies TillSource
  decide +kernel

/-- MAKE_UP of a float: a body too short, the order past the last, an order FREE, one MADE_UP, and each refusal of a create (MakeUpResults). -/
theorem witness_make_up_float_refused :
    let w := fun k n : Nat => windowOf .makeUp 9 (be 1 0 ++ be 1 k ++ be 4 n) [9, 11, 10]
    let short := windowOf .makeUp 9 (be 1 0 ++ be 1 23) [9, 11, 10]
    let order := fun (st : OrderState) (v : Nat) (bags : List Bag) =>
      ((shop .opening).setOrders (put State.reset.orders 23 { Order.reset with state := st, issueValue := v, sealNo := some 9 })).setBags bags
    let in_ := fun (k n : Nat) (s : State) => holding .room (w k n) s
    takenCheck (holding .room short (shop .opening)) .room short .makeUp (some (10, 11)) = true ∧
    (∀ k ∈ [24, 255, 23], takenCheck (in_ k 4294967295 (order .free 1 [])) .room (w k 4294967295) .makeUp (some (10, 11)) = true) ∧
    (takenCheck (in_ 23 9 (order .madeUp 1 [])) .room (w 23 9) .makeUp (some (10, 11)) = true ∧
      (order .madeUp 1 []).orders[(23 : Fin 24)].sealNo = some 9 ∧ (order .free 1 []).orders[(23 : Fin 24)].state = .free) ∧
    (∀ x ∈ [(0, 1, [], Code.malformed), (7, 0, [], .malformed), (7, 1000000000, [], .valueRange),
        (7, 999999999, [bagOf 7 .pickup .sealed], .sealInUse), (7, 1, List.replicate 512 (bagOf 9 .pickup .sealed), .registerFull)],
      takenCheck (in_ 23 x.1 (order .pending x.2.1 x.2.2.1)) .room (w 23 x.1) .makeUp (some (10, 11)) = true ∧
      CreateRefused (order .pending x.2.1 x.2.2.1) x.1 x.2.1 x.2.2.2) := by
  unfold CreateRefused
  decide +kernel

/-- MAKE_UP of a consignment: a body too short, seven pairs announced, a body a pair short; behind a pair that passes, a code past the last, a disabled one,
the same one, one piece too many for the strap, more than is free, more straps than stand (MakeUpResults). -/
theorem witness_make_up_consignment_refused :
    let w := fun (body : List Byte) => windowOf .makeUp 9 body [9, 11, 10]
    let layout := fun ps : List (Nat × Nat) => be 1 1 ++ be 4 7 ++ be 1 ps.length ++ ps.flatMap fun x => be 1 x.1 ++ be 4 x.2
    let s := (shop .opening).setStock (put shopStock 0 { loose := 130, straps := 1, reserved := 20, suspect := 0 })
    let taken := fun body : List Byte => takenCheck (holding .room (w body) s) .room (w body) .makeUp (some (10, 11))
    (∀ body ∈ [[1], be 1 1 ++ be 4 7 ++ be 1 7 ++ List.replicate 34 0, be 1 1 ++ be 4 7 ++ be 1 1], taken body = true) ∧
    (∀ x ∈ [(12, 0), (2, 50), (1, 50), (0, 101), (0, 300), (0, 200)], taken (layout [(1, 50), x]) = true) ∧
    (s.denoms[(1 : Fin 12)].enabled = true ∧ 50 % s.denoms[(1 : Fin 12)].strap = 0 ∧ 50 ≤ s.freeOf 1 ∧
      50 / s.denoms[(1 : Fin 12)].strap ≤ s.stock[(1 : Fin 12)].straps) ∧
    (s.denoms[(2 : Fin 12)].enabled = false ∧ s.denoms[(0 : Fin 12)].enabled = true ∧ 101 % s.denoms[(0 : Fin 12)].strap ≠ 0) ∧
    (300 % s.denoms[(0 : Fin 12)].strap = 0 ∧ s.freeOf 0 < 300) ∧
    (200 % s.denoms[(0 : Fin 12)].strap = 0 ∧ 200 ≤ s.freeOf 0 ∧ s.stock[(0 : Fin 12)].straps < 200 / s.denoms[(0 : Fin 12)].strap) := by
  decide +kernel

/-- MAKE_UP of a consignment whose pairs pass: of the value 0, of a value just past its range, and with each refusal of a create that is left
(MakeUpResults). -/
theorem witness_make_up_create_refused :
    let w := fun (n m : Nat) => windowOf .makeUp 9 (be 1 1 ++ be 4 n ++ be 1 1 ++ (be 1 1 ++ be 4 m)) [9, 11, 10]
    let s := fun bags : List Bag => ((shop .opening).setBags bags).setStock
      (put shopStock 1 { loose := 0, straps := 4294967295, reserved := 0, suspect := 0 })
    (∀ x ∈ [(7, 0, []), (7, 10000000, []), (0, 200, []), (7, 200, [bagOf 7 .pickup .sealed]),
        (7, 200, List.replicate 512 (bagOf 9 .pickup .sealed))],
      takenCheck (holding .room (w x.1 x.2.1) (s x.2.2)) .room (w x.1 x.2.1) .makeUp (some (10, 11)) = true ∧
      x.2.1 % (s x.2.2).denoms[(1 : Fin 12)].strap = 0 ∧ x.2.1 ≤ (s x.2.2).freeOf 1) ∧
    ((s []).valueOf (pairCounts [(1, 0)]) = 0 ∧ (s []).valueOf (pairCounts [(1, 10000000)]) = 1000000000) ∧
    (∀ x ∈ [(0, [], Code.malformed), (7, [bagOf 7 .pickup .sealed], .sealInUse),
        (7, List.replicate 512 (bagOf 9 .pickup .sealed), .registerFull)],
      CreateRefused (s x.2.1) x.1 ((s x.2.1).valueOf (pairCounts [(1, 200)])) x.2.2) := by
  unfold CreateRefused
  decide +kernel

/-- RESTOCK of a body too short, of a bag unknown, one in another state, and one of a counted kind (RestockResult). -/
theorem witness_restock_refused :
    let w := windowOf .restock 9 (be 4 7) []
    let short := windowOf .restock 9 (be 3 7) []
    let in_ := fun bags : List Bag => holding .room w ((shop .night).setBags bags)
    takenCheck (holding .room short (shop .night)) .room short .restock none = true ∧ parseSeal w.frame.body = some 7 ∧
    (∀ bags ∈ [[], [bagOf 7 .floatBag .inSafe], [bagOf 7 .pickup .madeUp]],
      takenCheck (in_ bags) .room w .restock none = true ∧ findBag (in_ bags) 7 = bags.head?) ∧
    BagKind.pickup.counted = true := by
  decide +kernel

/-- DROP, DEPOSIT and WITHDRAW of a body too short, of a bag unknown, and of a bag in a state or of a kind that the safe refuses; a WITHDRAW of a bag
pinned, without a call and in a call on another slot (SafeMovements). -/
theorem witness_safe_moves_refused :
    let w := fun k : JobKind => windowOf k 6 (be 4 7) []
    let short := fun k : JobKind => windowOf k 6 (be 3 7) []
    let in_ := fun (k : JobKind) (l : LockState) (bags : List Bag) => holding .room (w k) ((locked l (shop .trading)).setBags bags)
    let pinned : Bag := { bagOf 7 .consignment .inSafe with pin := some 0 }
    parseSeal (w .drop).frame.body = some 7 ∧ LockState.locked.chuteWorks = true ∧ LockState.opened.doorStands = true ∧
    (∀ k ∈ [JobKind.drop, .deposit, .withdraw],
      takenCheck (holding .room (short k) (shop .trading)) .room (short k) k none = true ∧
      (takenCheck (in_ k .opened []) .room (w k) k none = true ∧ findBag (in_ k .opened []) 7 = none)) ∧
    takenCheck (in_ .drop .locked []) .room (w .drop) .drop none = true ∧
    (∀ b ∈ [bagOf 7 .pickup .inSafe, bagOf 7 .inbound .hatchHeld, bagOf 7 .floatBag .madeUp],
      takenCheck (in_ .drop .locked [b]) .room (w .drop) .drop none = true ∧ repeatOf .drop 7 6 (in_ .drop .locked [b]) = none ∧
      findBag (in_ .drop .locked [b]) 7 = some b ∧ (b.kind.counted = false ∨ b.state ≠ .sealed ∧ b.state ≠ .received)) ∧
    (∀ b ∈ [bagOf 7 .pickup .inSafe, bagOf 7 .floatBag .inHandling, bagOf 7 .consignment .loaded],
      takenCheck (in_ .deposit .opened [b]) .room (w .deposit) .deposit none = true ∧
      repeatOf .deposit 7 6 (in_ .deposit .opened [b]) = none ∧ findBag (in_ .deposit .opened [b]) 7 = some b ∧ b.state ≠ .hatchHeld ∧
      (b.kind.counted = true → b.state ≠ .sealed ∧ b.state ≠ .received ∧ b.state ≠ .outForCount) ∧
      (b.kind.counted = false → b.state ≠ .madeUp) ∧ (b.kind = .consignment → b.state ≠ .inHandling)) ∧
    (∀ b ∈ [bagOf 7 .pickup .sealed, pinned], takenCheck (in_ .withdraw .opened [b]) .room (w .withdraw) .withdraw none = true ∧
      repeatOf .withdraw 7 6 (in_ .withdraw .opened [b]) = none ∧ findBag (in_ .withdraw .opened [b]) 7 = some b) ∧
    (let t := (in_ .withdraw .opened [pinned]).setCall { Handover.reset with phase := .signing, slot := some 15 }
     (shop .trading).call.phase = .idle ∧ takenCheck t .room (w .withdraw) .withdraw none = true ∧ t.call.phase ≠ .idle ∧
      t.call.slot ≠ some 0) := by
  decide +kernel

/-- DOOR with each sort of body that is no report; a request, a cancel and a confirm with a body, and each in every state that refuses it
(LockFrames). -/
theorem witness_lock_refused :
    let door := fun body => windowOf .door 6 body []
    let frame := fun (k : JobKind) (body : List Byte) => windowOf k 9 body [10, 11]
    let at_ := fun (l : LockState) (w : Window) => holding .room w (locked l (shop .trading))
    (∀ body ∈ [[], [2], [0, 0]], takenCheck (at_ .unlocked (door body)) .room (door body) .door none = true) ∧
    (∀ x ∈ [(JobKind.openRequest, LockState.locked), (.openCancel, .delay), (.openConfirm, .window)],
      takenCheck (at_ x.2 (frame x.1 [0])) .room (frame x.1 [0]) x.1 (if x.1 = .openCancel then none else some (10, 11)) = true) ∧
    (∀ l ∈ [LockState.unlocked, .opened, .openForced, .lockout],
      takenCheck (at_ l (frame .openRequest [])) .room (frame .openRequest []) .openRequest (some (10, 11)) = true ∧
      takenCheck (at_ l (frame .openCancel [])) .room (frame .openCancel []) .openCancel none = true ∧
      takenCheck (at_ l (frame .openConfirm [])) .room (frame .openConfirm []) .openConfirm (some (10, 11)) = true) ∧
    takenCheck (at_ .delay (frame .openRequest [])) .room (frame .openRequest []) .openRequest (some (10, 11)) = true := by
  decide +kernel

/-- BAG_OPEN of a body too short; to an IDLE session of a bag unknown, pinned, and in another state; the repeat of the one under way; to a session that
counts another bag, or the same one by another node; to one SUSPENDED on another bag (CountFrames). -/
theorem witness_bag_open_refused :
    let w := fun n : Nat => windowOf .bagOpen 5 (be 4 n) []
    let short := windowOf .bagOpen 5 (be 3 7) []
    let s := shop .trading
    let in_ := fun (n : Nat) (v : Session) (bags : List Bag) => holding .room (w n) ((s.setSessions (put s.sessions 0 v)).setBags bags)
    let b : Bag := { bagOf 7 .cashup .counting with session := some 0 }
    (takenCheck (holding .room short s) .room short .bagOpen none = true ∧ slotOf s 5 = 0 ∧ parseSeal (w 7).frame.body = some 7) ∧
    (∀ bags ∈ [[], [{ bagOf 7 .consignment .inSafe with pin := some 15 }], [bagOf 7 .cashup .sealed],
        [{ bagOf 7 .cashup .countSuspended with session := some 1 }]],
      takenCheck (in_ 7 Session.reset bags) .room (w 7) .bagOpen none = true ∧ findBag (in_ 7 Session.reset bags) 7 = bags.head?) ∧
    (takenCheck (in_ 7 counting [b]) .room (w 7) .bagOpen none = true ∧ findBag (in_ 7 counting [b]) 7 = some b ∧ counting.bag = 7 ∧
      counting.node = (w 7).frame.src) ∧
    (takenCheck (in_ 8 counting [b]) .room (w 8) .bagOpen none = true ∧
      takenCheck (in_ 7 { counting with node := 12 } [b]) .room (w 7) .bagOpen none = true ∧
      takenCheck (in_ 8 { counting with state := .suspended } []) .room (w 8) .bagOpen none = true) := by
  decide +kernel

/-- BATCH of a body too short and with 501 pieces of each sort; to a session IDLE, SUSPENDED, and of another node; of a code past the last, a disabled
one, a coin; past the top of each count, and of the running total by one face (CountFrames). -/
theorem witness_batch_refused :
    let w := fun k a m r : Nat => windowOf .batch 5 (be 1 k ++ be 2 a ++ be 2 m ++ be 2 r) []
    let short := windowOf .batch 5 (be 1 0) []
    let s := shop .trading
    let in_ := fun (w : Window) (v : Session) => holding .room w (s.setSessions (put s.sessions 0 v))
    let top := put (Vector.replicate 12 0) 0 65535
    (∀ v ∈ [counting, Session.reset], takenCheck (in_ short v) .room short .batch none = true) ∧
    (∀ x ∈ [(0, 501, 0, 0), (0, 0, 501, 0), (0, 0, 0, 501), (12, 1, 0, 0), (2, 1, 0, 0), (1, 1, 0, 0), (0, 500, 0, 0)],
      takenCheck (in_ (w x.1 x.2.1 x.2.2.1 x.2.2.2) counting) .room (w x.1 x.2.1 x.2.2.1 x.2.2.2) .batch none = true ∧
      parseBatch (w x.1 x.2.1 x.2.2.1 x.2.2.2).frame.body = some x) ∧
    (∀ v ∈ [Session.reset, { counting with state := .suspended }, { counting with node := 12 }],
      takenCheck (in_ (w 0 1 1 1) v) .room (w 0 1 1 1) .batch none = true) ∧
    (s.denoms[(2 : Fin 12)].enabled = false ∧ s.denoms[(1 : Fin 12)].kind ≠ .note) ∧
    (∀ v ∈ [{ counting with accepted := top }, { counting with suspect := top }, { counting with rejected := top },
        { counting with unresolved := 65535 }, { counting with total := 999999000 }],
      takenCheck (in_ (w 0 1 1 1) v) .room (w 0 1 1 1) .batch none = true) ∧
    (top[(0 : Fin 12)] = 65535 ∧ counting.accepted[(0 : Fin 12)] + 1 ≤ 65535 ∧ counting.suspect[(0 : Fin 12)] + 1 ≤ 65535 ∧
      counting.rejected[(0 : Fin 12)] + 1 ≤ 65535 ∧ counting.unresolved + 1 ≤ 65535) ∧
    999999999 < 999999000 + (1 + 1) * s.denoms[(0 : Fin 12)].face := by
  decide +kernel

/-- HAND_KEY of a body too short; of the session 4; into the hold without a reject to resolve; of a code past the last, a disabled one, a coin as a
reject; to a session IDLE; of more than the rejects; past the top of a count, in the hold and out of it, and of the running total
(CountFrames). -/
theorem witness_hand_key_refused :
    let w := fun i k n f : Nat => windowOf .handKey 9 (be 1 i ++ be 1 k ++ be 2 n ++ be 1 f) []
    let short := windowOf .handKey 9 (be 1 0) []
    let s := shop .trading
    let in_ := fun (w : Window) (v : Session) => holding .room w (s.setSessions (put s.sessions 3 v))
    let edge : Session := { counting with unresolved := 501, total := 999999500 }
    (takenCheck (in_ short counting) .room short .handKey none = true ∧ takenCheck (in_ short Session.reset) .room short .handKey none = true) ∧
    (∀ x ∈ [(4, 0, 1, 0), (255, 0, 1, 0), (3, 0, 1, 2), (3, 12, 1, 0), (3, 2, 1, 0), (3, 1, 1, 1), (3, 0, 502, 1), (3, 0, 501, 0), (3, 0, 501, 3),
        (3, 0, 1, 0), (3, 0, 1, 3)],
      takenCheck (in_ (w x.1 x.2.1 x.2.2.1 x.2.2.2) edge) .room (w x.1 x.2.1 x.2.2.1 x.2.2.2) .handKey none = true ∧
      parseHandKey (w x.1 x.2.1 x.2.2.1 x.2.2.2).frame.body = some (x.1, x.2.1, x.2.2.1, x.2.2.2.testBit 0, x.2.2.2.testBit 1)) ∧
    (∀ v ∈ [Session.reset, { counting with state := .suspended }], takenCheck (in_ (w 3 0 1 0) v) .room (w 3 0 1 0) .handKey none = true) ∧
    (edge.accepted[(0 : Fin 12)] + 501 = 65536 ∧ edge.suspect[(0 : Fin 12)] + 501 = 65536 ∧ edge.unresolved < 502 ∧ 501 ≤ edge.unresolved) ∧
    (s.denoms[(2 : Fin 12)].enabled = false ∧ s.denoms[(1 : Fin 12)].kind ≠ .note) ∧
    999999999 < edge.total + 1 * s.denoms[(0 : Fin 12)].face := by
  decide +kernel

/-- COUNT_ABORT of a counter with a body, of a console without one and of the session 4; of an IDLE session by each; of a session that another counter
counts (CountFrames). -/
theorem witness_count_abort_refused :
    let w := fun (src : Byte) (body : List Byte) => windowOf .countAbort src body []
    let s := shop .trading
    let in_ := fun (w : Window) (v : Session) => holding .room w (s.setSessions (put s.sessions 0 v))
    (roleOf s 5 = some .counter ∧ roleOf s 9 = some .console ∧ slotOf s 5 = 0) ∧
    (∀ x ∈ [((5 : Byte), [(0 : Byte)]), (9, []), (9, [4]), (9, [0]), (5, [])],
      takenCheck (in_ (w x.1 x.2) Session.reset) .room (w x.1 x.2) .countAbort none = true) ∧
    (parseSessionNumber [4] = some 4 ∧ parseSessionNumber [0] = some 0) ∧
    (takenCheck (in_ (w 5 []) { counting with node := 12 }) .room (w 5 []) .countAbort none = true ∧ (12 : Byte) ≠ (w 5 []).frame.src) := by
  decide +kernel

/-- BAG_CLOSE with a body; of a session IDLE, SUSPENDED, of another node, with a reject open; of one whose suspect count alone passes the hold's top at
the first code, and of one whose accepted count passes at the second, behind a code that passes (BagCloseResult). -/
theorem witness_bag_close_refused :
    let w := windowOf .bagClose 5 [] []
    let bent := windowOf .bagClose 5 [0] []
    let in_ := fun (w : Window) (v : Session) (stock : Vector StockRec 12) =>
      holding .room w (((shop .trading).setSessions (put State.reset.sessions 0 v)).setStock stock)
    let hold := in_ w counting (put shopStock 0 { loose := 0, straps := 0, reserved := 0, suspect := 4294902261 })
    let coin := { counting with accepted := put counting.accepted 1 1 }
    let loose := in_ w coin (put shopStock 1 { loose := 49, straps := 4294967295, reserved := 0, suspect := 0 })
    let passes := fun (s : State) (c : Fin 12) => !additionRefused s.denoms[c] s.stock[c] s.sessions[(0 : Fin 4)].accepted[c] &&
      decide (s.stock[c].suspect + s.sessions[(0 : Fin 4)].suspect[c] ≤ 4294967295)
    (∀ v ∈ [counting, Session.reset], takenCheck (in_ bent v shopStock) .room bent .bagClose none = true) ∧
    (∀ v ∈ [Session.reset, { counting with state := .suspended }, { counting with node := 12 }, { counting with unresolved := 1 }],
      takenCheck (in_ w v shopStock) .room w .bagClose none = true) ∧
    (slotOf hold 5 = 0 ∧ counting.state = .counting ∧ counting.node = w.frame.src ∧ counting.unresolved = 0) ∧
    (takenCheck hold .room w .bagClose none = true ∧ stockOrder hold = [] ++ 0 :: (stockOrder hold).drop 1 ∧ passes hold 0 = false ∧
      additionRefused hold.denoms[(0 : Fin 12)] hold.stock[(0 : Fin 12)] counting.accepted[(0 : Fin 12)] = false) ∧
    (takenCheck loose .room w .bagClose none = true ∧ stockOrder loose = [0] ++ 1 :: (stockOrder loose).drop 2 ∧
      passes loose 0 = true ∧ passes loose 1 = false) := by
  decide +kernel

end Sys2Proof.Tests
end

/-! PROOF. The cap reduction takes from each code at once what the loop of R66 takes packet by packet: one round before it changes nothing. -/

namespace Sys2Proof.Machine.CapLoop

open Sys2Proof Sys2Proof.Machine

/-! ## Sums over the twelve codes -/

/-- Two families of figures that differ at one code only have sums that differ by as much. -/
theorem sumCodes_add_of_eq_off {f g : Fin 12 → Nat} (c : Fin 12) (h : ∀ k, k ≠ c → f k = g k) :
    sumCodes f + g c = sumCodes g + f c := by
  have hf := Finset.add_sum_erase Finset.univ f (Finset.mem_univ c)
  have hg := Finset.add_sum_erase Finset.univ g (Finset.mem_univ c)
  have hfg : ∑ k ∈ Finset.univ.erase c, f k = ∑ k ∈ Finset.univ.erase c, g k :=
    Finset.sum_congr rfl fun k hk => h k (Finset.ne_of_mem_erase hk)
  simp only [sumCodes, codes, ← Fin.sum_univ_def]
  omega

theorem le_sumCodes (f : Fin 12 → Nat) (c : Fin 12) : f c ≤ sumCodes f :=
  List.le_sum_of_mem (List.mem_map_of_mem (List.mem_finRange c))

theorem sumCodes_eq_zero {f : Fin 12 → Nat} (h : ∀ c, f c = 0) : sumCodes f = 0 :=
  List.sum_eq_zero fun _ hx => by
    obtain ⟨c, -, rfl⟩ := List.mem_map.mp hx
    exact h c

/-- The pieces of an issue when one code's count is replaced. -/
theorem pieces_put (issue : Vector Nat 12) (c : Fin 12) (n : Nat) :
    sumCodes (fun k => (put issue c n)[k]) + issue[c] = sumCodes (fun k => issue[k]) + n := by
  have h := sumCodes_add_of_eq_off (f := fun k => (put issue c n)[k]) (g := fun k => issue[k]) c
    fun k hk => put_get_other issue c k n hk.symm
  simpa using h

/-- The value of an issue when one code's count is replaced. -/
theorem valueOf_put (s : State) (issue : Vector Nat 12) (c : Fin 12) (n : Nat) :
    s.valueOf (put issue c n) + issue[c] * s.denoms[c].face = s.valueOf issue + n * s.denoms[c].face := by
  have h := sumCodes_add_of_eq_off (f := fun k => (put issue c n)[k] * s.denoms[k].face)
    (g := fun k => issue[k] * s.denoms[k].face) c fun k hk => by rw [put_get_other issue c k n hk.symm]
  simpa [State.valueOf] using h

/-- A count of at least a packet that loses one packet lowers the value by the packet's value. -/
theorem valueOf_put_sub (s : State) (issue : Vector Nat 12) (c : Fin 12) (h : s.denoms[c].packet ≤ issue[c]) :
    s.valueOf (put issue c (issue[c] - s.denoms[c].packet)) =
      s.valueOf issue - s.denoms[c].packet * s.denoms[c].face := by
  have hv := valueOf_put s issue c (issue[c] - s.denoms[c].packet)
  rw [Nat.sub_mul] at hv
  have hle := Nat.mul_le_mul_right s.denoms[c].face h
  omega

theorem put_put {α : Type} {n : Nat} (v : Vector α n) (i : Fin n) (x y : α) : put (put v i x) i y = put v i y :=
  Vector.set_set ..

/-! ## The packets taken from one code -/

/-- No packet is taken where the value is within the cap or nothing is issued. -/
theorem packetsRemoved_eq_zero {value cap packet face issue : Nat} (hpos : 0 < packet * face)
    (h : ¬(cap < value ∧ 0 < issue)) : packetsRemoved value cap packet face issue = 0 := by
  unfold packetsRemoved
  by_cases hv : cap < value
  · have hi : issue = 0 := by omega
    simp [hi]
  · have hd : (value - cap + packet * face - 1) / (packet * face) = 0 := Nat.div_eq_of_lt (by omega)
    rw [hd, Nat.min_zero]

/-- Above the cap the packets to take are one packet and those that are to take after it. -/
theorem packetsRemoved_succ {value cap packet face issue : Nat} (hpos : 0 < packet * face) (hv : cap < value)
    (hi : packet ≤ issue) : packetsRemoved value cap packet face issue =
      packetsRemoved (value - packet * face) cap packet face (issue - packet) + 1 := by
  have hissue : issue / packet = (issue - packet) / packet + 1 :=
    Nat.div_eq_sub_div (Nat.pos_of_mul_pos_right hpos) hi
  have hover : (value - cap + packet * face - 1) / (packet * face) =
      (value - packet * face - cap + packet * face - 1) / (packet * face) + 1 := by
    rw [Nat.div_eq_sub_div hpos (by omega)]
    by_cases hlt : packet * face ≤ value - cap
    · congr 2
      omega
    · rw [Nat.div_eq_of_lt (by omega), Nat.div_eq_of_lt (by omega)]
  unfold packetsRemoved
  rw [hissue, hover, Nat.add_min_add_right]

/-! ## The cap reduction over a list of codes -/

/-- Within the cap the reduction takes nothing. -/
theorem capReduce_of_within {s : State} {cap : Nat} {issue : Vector Nat 12} (h : s.valueOf issue ≤ cap)
    (l : List (Fin 12)) (flags : Vector Bool 12) : capReduce s cap l issue flags = (issue, flags) := by
  induction l with
  | nil => rfl
  | cons c rest ih => rw [capReduce, if_neg fun hc => Nat.not_lt.mpr h hc.1, ih]

/-- Codes with no issue are passed over. -/
theorem capReduce_append_of_zero {s : State} {cap : Nat} {issue : Vector Nat 12} {flags : Vector Bool 12} {pre : List (Fin 12)}
    (h : ∀ k ∈ pre, issue[k] = 0) (l : List (Fin 12)) :
    capReduce s cap (pre ++ l) issue flags = capReduce s cap l issue flags := by
  induction pre with
  | nil => rfl
  | cons c rest ih =>
    have hc : ¬(cap < s.valueOf issue ∧ 0 < issue[c]) := fun hc => by
      have := h c List.mem_cons_self
      omega
    rw [List.cons_append, capReduce, if_neg hc, ih fun k hk => h k (List.mem_cons_of_mem c hk)]

/-- At a code whose flag is set the two branches of the reduction are one: where nothing is to take, 0 packets are taken. -/
theorem capReduce_cons_of_flag {s : State} {c : Fin 12} (hpos : 0 < s.denoms[c].packet * s.denoms[c].face) (cap : Nat)
    (rest : List (Fin 12)) (issue : Vector Nat 12) {flags : Vector Bool 12} (hf : flags[c] = true) :
    capReduce s cap (c :: rest) issue flags =
      capReduce s cap rest (put issue c (issue[c] -
        packetsRemoved (s.valueOf issue) cap s.denoms[c].packet s.denoms[c].face issue[c] * s.denoms[c].packet)) flags := by
  have hflags : put flags c true = flags := by
    rw [← hf]
    exact put_same flags c
  rw [capReduce, hflags]
  split
  · rfl
  · next h => rw [packetsRemoved_eq_zero hpos h, Nat.zero_mul, Nat.sub_zero, Fin.getElem_fin, put_same]

/-- Taking one packet from the code at the head before the reduction does not change what the reduction gives. -/
theorem capReduce_cons_take {s : State} {cap : Nat} {issue : Vector Nat 12} {c : Fin 12}
    (hpos : 0 < s.denoms[c].packet * s.denoms[c].face) (hv : cap < s.valueOf issue) (hc : 0 < issue[c])
    (hp : s.denoms[c].packet ≤ issue[c]) (rest : List (Fin 12)) (flags : Vector Bool 12) :
    capReduce s cap (c :: rest) (put issue c (issue[c] - s.denoms[c].packet)) (put flags c true) =
      capReduce s cap (c :: rest) issue flags := by
  have hcount : issue[c] - s.denoms[c].packet -
      packetsRemoved (s.valueOf issue - s.denoms[c].packet * s.denoms[c].face) cap s.denoms[c].packet s.denoms[c].face
        (issue[c] - s.denoms[c].packet) * s.denoms[c].packet =
      issue[c] - packetsRemoved (s.valueOf issue) cap s.denoms[c].packet s.denoms[c].face issue[c] * s.denoms[c].packet := by
    rw [packetsRemoved_succ hpos hv hp, Nat.succ_mul, Nat.add_comm, Nat.sub_sub]
  have hput : (put issue c (issue[c] - s.denoms[c].packet))[c] = issue[c] - s.denoms[c].packet := by simp
  rw [capReduce_cons_of_flag hpos _ _ _ (by simp), valueOf_put_sub s issue c hp, hput, hcount, put_put,
    capReduce, if_pos ⟨hv, hc⟩]

/-! ## One round of the loop -/

/-- The premises of R66 on an issue: whole packets of enabled codes (R64). -/
def WholePackets (s : State) (issue : Vector Nat 12) : Prop :=
  (∀ c : Fin 12, s.denoms[c].enabled = true → issue[c] % s.denoms[c].packet = 0) ∧ EnabledOnly s issue

/-- A code with an issue above 0 is enabled and holds a packet. -/
theorem WholePackets.packet_le {s : State} {issue : Vector Nat 12} (hw : WholePackets s issue) {c : Fin 12} (hc : 0 < issue[c]) :
    s.denoms[c].enabled = true ∧ s.denoms[c].packet ≤ issue[c] := by
  obtain ⟨hmod, hoff⟩ := hw
  have he : s.denoms[c].enabled = true := by
    by_contra h
    have := hoff c (Bool.eq_false_of_not_eq_true h)
    omega
  exact ⟨he, Nat.le_of_dvd hc (Nat.dvd_of_mod_eq_zero (hmod c he))⟩

/-- Taking a packet leaves whole packets of enabled codes. -/
theorem WholePackets.take {s : State} {issue : Vector Nat 12} (hw : WholePackets s issue) {c : Fin 12} (hc : 0 < issue[c]) :
    WholePackets s (put issue c (issue[c] - s.denoms[c].packet)) := by
  obtain ⟨he, hp⟩ := hw.packet_le hc
  obtain ⟨hmod, hoff⟩ := hw
  refine ⟨fun k hk => ?_, fun k hk => ?_⟩
  · rw [put_get]
    split
    · next h =>
      subst h
      rw [← Nat.mod_eq_sub_mod hp, hmod c he]
    · exact hmod k hk
  · have hne : c ≠ k := fun h => Bool.noConfusion (he.symm.trans (h ▸ hk))
    rw [put_get_other _ _ _ _ hne, hoff k hk]

theorem mem_faceOrder {s : State} {c : Fin 12} : c ∈ faceOrder s ↔ s.denoms[c].enabled = true := by
  rw [(faceOrder_perm s).mem_iff]
  simp [codes]

/-- A round rests within the cap, and above it takes one packet from the first code in face order that has an issue. -/
theorem capRound_cases {s : State} (cap : Nat) {issue : Vector Nat 12} (hw : WholePackets s issue) (flags : Vector Bool 12) :
    (s.valueOf issue ≤ cap ∧ capRound s cap (issue, flags) = (issue, flags)) ∨
    (cap < s.valueOf issue ∧ ∃ pre c post, faceOrder s = pre ++ c :: post ∧ (∀ k ∈ pre, issue[k] = 0) ∧ 0 < issue[c] ∧
      capRound s cap (issue, flags) = (put issue c (issue[c] - s.denoms[c].packet), put flags c true)) := by
  by_cases hv : s.valueOf issue ≤ cap
  · exact .inl ⟨hv, if_pos hv⟩
  refine .inr ⟨Nat.lt_of_not_le hv, ?_⟩
  cases hfind : (faceOrder s).find? fun c => decide (0 < issue[c]) with
  | none =>
    have hzero : s.valueOf issue = 0 := sumCodes_eq_zero fun c => by
      by_contra h
      have hc : 0 < issue[c] := Nat.pos_of_ne_zero fun hc => h (by simp [hc])
      exact List.find?_eq_none.mp hfind c (mem_faceOrder.mpr (hw.packet_le hc).1) (decide_eq_true hc)
    omega
  | some c =>
    obtain ⟨hc, pre, post, hsplit, hpre⟩ := List.find?_eq_some_iff_append.mp hfind
    refine ⟨pre, c, post, hsplit, fun k hk => by simpa using hpre k hk, of_decide_eq_true hc, ?_⟩
    rw [capRound, if_neg hv]
    simp only [hfind]

theorem rounds_of_fixed {α : Type} {f : α → α} {a : α} (h : f a = a) (n : Nat) : rounds f n a = a := by
  induction n with
  | zero => rfl
  | succ n ih => rw [rounds, h, ih]

/-! ## The whole loop -/

/-- With as many rounds as there are pieces the loop of R66 ends within the cap, where the reduction gives what it is given. So the reduction, which
no round changes, gives what the loop gives. -/
theorem capReduce_eq_rounds {s : State} (hd : DenomsInRange s) (cap n : Nat) {issue : Vector Nat 12} (hw : WholePackets s issue)
    (hn : sumCodes (fun c => issue[c]) ≤ n) (flags : Vector Bool 12) :
    capReduce s cap (faceOrder s) issue flags = rounds (capRound s cap) n (issue, flags) ∧
      s.valueOf (rounds (capRound s cap) n (issue, flags)).1 ≤ cap := by
  induction n generalizing issue flags with
  | zero =>
    have hzero : s.valueOf issue = 0 := sumCodes_eq_zero fun c => by
      have hc : issue[c] = 0 := Nat.le_zero.mp ((le_sumCodes (fun k => issue[k]) c).trans hn)
      rw [hc, Nat.zero_mul]
    have hv : s.valueOf issue ≤ cap := by omega
    exact ⟨capReduce_of_within hv _ _, hv⟩
  | succ n ih =>
    obtain ⟨hv, hstay⟩ | ⟨hv, pre, c, post, hsplit, hpre, hc, htake⟩ := capRound_cases cap hw flags
    · rw [rounds_of_fixed hstay]
      exact ⟨capReduce_of_within hv _ _, hv⟩
    obtain ⟨he, hp⟩ := hw.packet_le hc
    obtain ⟨hface, -, -, -, hpacket, -⟩ := hd c he
    have hless := pieces_put issue c (issue[c] - s.denoms[c].packet)
    obtain ⟨heq, hcap⟩ := ih (hw.take hc) (by omega) (put flags c true)
    have hpre' : ∀ k ∈ pre, (put issue c (issue[c] - s.denoms[c].packet))[k] = 0 := fun k hk => by
      have hk0 := hpre k hk
      rw [put_get_other _ _ _ _ fun h => by subst h; omega, hk0]
    have hsame : capReduce s cap (faceOrder s) issue flags =
        capReduce s cap (faceOrder s) (put issue c (issue[c] - s.denoms[c].packet)) (put flags c true) := by
      rw [hsplit, capReduce_append_of_zero hpre, capReduce_append_of_zero hpre',
        capReduce_cons_take (Nat.mul_pos hpacket hface) hv hc hp]
    rw [rounds, htake, hsame]
    exact ⟨heq, hcap⟩

/-- The grants of R64 are whole packets of enabled codes. -/
theorem grantedIssue_wholePackets (s : State) (t : Fin 160) (ps : List (Fin 12 × Nat)) : WholePackets s (grantedIssue s t ps) := by
  refine ⟨fun c _ => by simp [grantedIssue], fun c hc => ?_⟩
  have hissues : issues s t ps c = false := by rw [issues, hc, Bool.false_and, Bool.false_and]
  simp [grantedIssue, grantedPackets, hissues]

theorem rebalance_issue_shortCap (s : State) (t : Fin 160) (ps : List (Fin 12 × Nat)) :
    ((rebalance s t ps).issue, (rebalance s t ps).shortCap) =
      capReduce s s.tills[t].topUpCap (faceOrder s) (grantedIssue s t ps) (Vector.replicate 12 false) := by
  rw [rebalance]

/-- Settles O16: the loop of R66 by `capReduce_eq_rounds`, for any issue and for the grants of R64. -/
theorem capReductionIsTheLoop : Obligations.CapReductionIsTheLoop := by
  intro s cap n issue flags hd hpackets henabled hn
  obtain ⟨heq, hcap⟩ := capReduce_eq_rounds hd cap n ⟨hpackets, henabled⟩ hn flags
  refine ⟨heq, heq ▸ hcap, fun t ps m hm => ?_⟩
  rw [rebalance_issue_shortCap]
  exact (capReduce_eq_rounds hd _ m (grantedIssue_wholePackets s t ps) hm _).1

end Sys2Proof.Machine.CapLoop

/-! PROOF. A tally addition is its pieces counted one at a time, a close adds to each counter once, and no command but the ones R112 names loses a flag
or the top of a counter in HOLD. The last part goes by one relation, `Counted`, that every taking keeps: most takings touch none of the parts that hold
counts, and the few that do are the frames of the counting room, the aborts and RESTART. -/

namespace Sys2Proof.Machine.TallyCount

open Sys2Proof Sys2Proof.Machine

/-! ## One counter (R112) -/

/-- Counters agree when their counts do and the same flags are set. -/
theorem tally_ext {t u : Tally} (hcount : t.count = u.count) (hhalf : t.half = true ↔ u.half = true)
    (hfull : t.full = true ↔ u.full = true) : t = u := by
  obtain ⟨count, half, full⟩ := t
  rw [Tally.mk.injEq]
  exact ⟨hcount, Bool.eq_iff_iff.mpr hhalf, Bool.eq_iff_iff.mpr hfull⟩

/-- An addition ends at the top in HOLD, and goes on from 0 behind it in WRAP. -/
theorem add_count (m : TallyMode) (n : Nat) (t : Tally) : (t.add m n).count =
    if m = .wrap then (t.count + n) % 4294967296 else min 4294967295 (t.count + n) := by
  cases m <;> rfl

/-- The half flag is set by an addition that reaches 2^31, below the top or behind a wrap. -/
theorem add_half_iff (m : TallyMode) (n : Nat) (t : Tally) : (t.add m n).half = true ↔
    t.half = true ∨ (t.count < 2147483648 ∧ 2147483648 ≤ t.count + n) ∨ (m = .wrap ∧ 6442450944 ≤ t.count + n) := by
  cases m <;> simp only [Tally.add, Bool.or_eq_true, Bool.and_eq_true, decide_eq_true_eq] <;>
    simp [tallyHalfMark, Config.top32, or_assoc]

/-- The full flag is set by an addition that reaches the top from below it, before or behind a wrap. -/
theorem add_full_iff (m : TallyMode) (n : Nat) (t : Tally) : (t.add m n).full = true ↔
    t.full = true ∨ (t.count < 4294967295 ∧ 4294967295 ≤ t.count + n) ∨ (m = .wrap ∧ 8589934591 ≤ t.count + n) := by
  cases m <;> simp only [Tally.add, Bool.or_eq_true, Bool.and_eq_true, decide_eq_true_eq] <;>
    simp [Config.top32, or_assoc]

/-- Below the top, one piece raises the count and sets the flag whose value it arrives at, in either mode. -/
theorem onePiece_of_lt (m : TallyMode) {t : Tally} (h : t.count < 4294967295) :
    onePiece m t =
      { count := t.count + 1
        half := t.half || decide (t.count + 1 = 2147483648)
        full := t.full || decide (t.count + 1 = 4294967295) } := if_pos h

/-- At the top, one piece goes on from 0 in WRAP and is lost in HOLD; no flag is set. -/
theorem onePiece_of_top (m : TallyMode) {t : Tally} (h : ¬t.count < 4294967295) :
    onePiece m t = { t with count := if m = .wrap then 0 else t.count } := by
  cases m <;> exact if_neg h

theorem onePiece_count (m : TallyMode) (t : Tally) : (onePiece m t).count =
    if t.count < 4294967295 then t.count + 1 else if m = .wrap then 0 else t.count := by
  split
  · rw [onePiece_of_lt m (by assumption)]
  · rw [onePiece_of_top m (by assumption)]

theorem onePiece_half_iff (m : TallyMode) (t : Tally) :
    (onePiece m t).half = true ↔ t.half = true ∨ t.count + 1 = 2147483648 := by
  by_cases h : t.count < 4294967295
  · simp [onePiece_of_lt m h]
  · simp [onePiece_of_top m h]
    omega

theorem onePiece_full_iff (m : TallyMode) (t : Tally) :
    (onePiece m t).full = true ↔ t.full = true ∨ t.count + 1 = 4294967295 := by
  by_cases h : t.count < 4294967295
  · simp [onePiece_of_lt m h]
  · simp [onePiece_of_top m h]
    omega

theorem onePiece_count_le (m : TallyMode) {t : Tally} (h : t.count ≤ Config.top32) :
    (onePiece m t).count ≤ Config.top32 := by
  simp only [Config.top32] at *
  grind [onePiece_count]

/-- No piece is no change. -/
theorem add_zero (m : TallyMode) {t : Tally} (h : t.count ≤ Config.top32) : t.add m 0 = t := by
  simp only [Config.top32] at h
  apply tally_ext
  · grind [add_count]
  · grind [add_half_iff]
  · grind [add_full_iff]

/-- The first of the pieces added is counted alone, the rest behind it. -/
theorem add_succ (m : TallyMode) {t : Tally} (h : t.count ≤ Config.top32) (n : Nat) :
    t.add m (n + 1) = (onePiece m t).add m n := by
  simp only [Config.top32] at h
  apply tally_ext
  · grind [add_count, onePiece_count]
  · grind [add_half_iff, onePiece_half_iff, onePiece_count]
  · grind [add_full_iff, onePiece_full_iff, onePiece_count]

/-- An addition is its pieces counted one at a time. -/
theorem add_eq_rounds (m : TallyMode) (n : Nat) {t : Tally} (h : t.count ≤ Config.top32) :
    t.add m n = rounds (onePiece m) n t := by
  induction n generalizing t with
  | zero => exact add_zero m h
  | succ n ih => rw [add_succ m h, rounds, ih (onePiece_count_le m h)]

/-- As many pieces as a session holds of a code wrap a counter once at most. -/
theorem add_wrap_once {t : Tally} {n : Nat} (h : t.count ≤ Config.top32) (hn : n ≤ 65535)
    (hover : Config.top32 < t.count + n) : (t.add .wrap n).count + Config.top32 + 1 = t.count + n := by
  simp only [Tally.add, Config.top32] at *
  omega

/-! ## The additions of a close (R111, R112) -/

theorem tally_congr {s t : State} (h : t.tallies = s.tallies) (g : TallyGroup) (c : Fin 12) : t.tally g c = s.tally g c := by
  unfold State.tally
  rw [h]

theorem row_inj {g k : TallyGroup} : g.row = k.row ↔ g = k := by
  cases g <;> cases k <;> decide

theorem setTally_tally (g k : TallyGroup) (c d : Fin 12) (u : Tally) (s : State) :
    (setTally g c u s).tally k d = if g = k ∧ c = d then u else s.tally k d := by
  show (put s.tallies g.row (put s.tallies[g.row] c u))[k.row][d] = _
  rw [put_get]
  by_cases hg : g = k
  · subst hg
    rw [if_pos rfl, put_get]
    simp [State.tally]
  · rw [if_neg (mt row_inj.mp hg), if_neg fun h => hg h.1]
    rfl

/-- An addition changes the one counter it names. -/
theorem addTally_tally (g k : TallyGroup) (c d : Fin 12) (n : Nat) (s : State) :
    (addTally g c n s).tally k d =
      if g = k ∧ c = d then (s.tally g c).add s.timing.groups[g.row].mode n else s.tally k d := by
  have hraise : ∀ e o w (t : State), (raiseTally e g c o w t).tallies = t.tallies := fun e o w t =>
    unchangedBut_ite (raisePair_leaves e _ _ t) (unchangedBut_refl _ t) .tallies (by decide)
  unfold addTally
  rw [tally_congr (hraise _ _ _ _), tally_congr (hraise _ _ _ _), setTally_tally]

theorem addTally_timing (g : TallyGroup) (c : Fin 12) (n : Nat) (s : State) : (addTally g c n s).timing = s.timing :=
  addTally_leaves g c n s .timing (by decide)

/-- The additions of a close to one group, over a list of codes. -/
def addGroup (v : Session) (l : List (Fin 12)) (t : State) (g : TallyGroup) : State :=
  l.foldl (fun t c => addTally g c (v.groupCounts g)[c] t) t

theorem addTallies_eq (v : Session) (s : State) : addTallies v s = TallyGroup.all.foldl (addGroup v (stockOrder s)) s := rfl

theorem addGroup_timing (v : Session) (l : List (Fin 12)) (t : State) (g : TallyGroup) : (addGroup v l t g).timing = t.timing :=
  unchangedBut_foldl (fun t c => addTally_leaves g c (v.groupCounts g)[c] t) l t .timing (by decide)

/-- Codes that are listed once take their pieces once, in the mode of the group; the others stay. -/
theorem addGroup_tally (v : Session) {l : List (Fin 12)} (hl : l.Nodup) (t : State) (g k : TallyGroup) (d : Fin 12) :
    (addGroup v l t g).tally k d =
      if g = k ∧ d ∈ l then (t.tally g d).add t.timing.groups[g.row].mode (v.groupCounts g)[d] else t.tally k d := by
  induction l generalizing t with
  | nil => simp [addGroup]
  | cons c rest ih =>
    obtain ⟨hc, hrest⟩ := List.nodup_cons.mp hl
    have hstep : addGroup v (c :: rest) t g = addGroup v rest (addTally g c (v.groupCounts g)[c] t) g := rfl
    rw [hstep, ih hrest, addTally_timing, addTally_tally, addTally_tally]
    grind

/-- A close adds to each counter the session's count of its group and code. -/
theorem addTallies_tally (v : Session) (s : State) (g : TallyGroup) (c : Fin 12) :
    (addTallies v s).tally g c = (s.tally g c).add s.timing.groups[g.row].mode (v.groupCounts g)[c] := by
  have hnodup : (stockOrder s).Nodup := (stockOrder_perm s).nodup_iff.mpr (List.nodup_finRange 12)
  simp only [addTallies_eq, TallyGroup.all, List.foldl_cons, List.foldl_nil, addGroup_tally v hnodup, addGroup_timing,
    mem_stockOrder]
  cases g <;> rfl

/-! ## What a taking keeps of the counts and the tallies (R104, R105, R112) -/

/-- A counter keeps its flags, and in HOLD its top. -/
def TallyKept (m : TallyMode) (t u : Tally) : Prop :=
  (t.half = true → u.half = true) ∧ (t.full = true → u.full = true) ∧
    (t.count = Config.top32 → m = .hold → u.count = Config.top32)

theorem TallyKept.refl (m : TallyMode) (t : Tally) : TallyKept m t t := ⟨id, id, fun h _ => h⟩

theorem TallyKept.trans {m : TallyMode} {t u v : Tally} (h : TallyKept m t u) (k : TallyKept m u v) : TallyKept m t v := by
  obtain ⟨hhalf, hfull, htop⟩ := h
  obtain ⟨khalf, kfull, ktop⟩ := k
  exact ⟨khalf ∘ hhalf, kfull ∘ hfull, fun ht hm => ktop (htop ht hm) hm⟩

theorem TallyKept.of_eq {m : TallyMode} {t u : Tally} (h : u = t) : TallyKept m t u := h ▸ TallyKept.refl m t

/-- An addition clears no flag and leaves the top in HOLD. -/
theorem tallyKept_add (m : TallyMode) (n : Nat) (t : Tally) : TallyKept m t (t.add m n) := by
  refine ⟨fun h => (add_half_iff m n t).mpr (.inl h), fun h => (add_full_iff m n t).mpr (.inl h), fun ht hm => ?_⟩
  simp only [Config.top32] at ht ⊢
  rw [add_count, hm, ht, if_neg nofun]
  omega

/-- The counts of a session are counts of 16 bits (R99). -/
def SessionInRange (v : Session) : Prop :=
  ∀ c : Fin 12, v.accepted[c] ≤ 65535 ∧ v.suspect[c] ≤ 65535 ∧ v.rejected[c] ≤ 65535

theorem countsInRange_congr {s t : State} (h : t.sessions = s.sessions) (hs : CountsInRange s) : CountsInRange t := by
  unfold CountsInRange
  rw [h]
  exact hs

/-- What every taking keeps but a TALLY_READ with clear, a write to TIMING and power-on: the TIMING table, each counter in the mode of its group,
and the range of the session counts. -/
structure Counted (s t : State) : Prop where
  timing : t.timing = s.timing
  tally : ∀ (g : TallyGroup) (k : Fin 12), TallyKept s.timing.groups[g.row].mode (s.tally g k) (t.tally g k)
  range : CountsInRange s → CountsInRange t

/-- The parts that hold the counts: the sessions, the tallies and their modes. -/
def countParts : List Part := [.sessions, .tallies, .timing]

theorem Counted.refl (s : State) : Counted s s := ⟨rfl, fun _ _ => TallyKept.refl _ _, id⟩

theorem Counted.trans {s t u : State} (h : Counted s t) (k : Counted t u) : Counted s u where
  timing := k.timing.trans h.timing
  tally g c := (h.tally g c).trans (h.timing ▸ k.tally g c)
  range := k.range ∘ h.range

/-- What changes none of the parts that hold the counts keeps them. -/
theorem Counted.of_leaves {ex : List Part} {s t : State} (h : unchangedBut ex s t)
    (k : ∀ b ∈ countParts, b ∉ ex := by decide) : Counted s t where
  timing := h .timing (k _ (by decide))
  tally g c := TallyKept.of_eq (tally_congr (h .tallies (k _ (by decide))) g c)
  range := countsInRange_congr (h .sessions (k _ (by decide)))

theorem Counted.ite {s a b : State} {c : Prop} [Decidable c] (h : Counted s a) (k : Counted s b) :
    Counted s (if c then a else b) := by
  split <;> assumption

theorem Counted.foldl {α : Type} {f : State → α → State} (h : ∀ s a, Counted s (f s a)) (l : List α) (s : State) :
    Counted s (l.foldl f s) := by
  induction l generalizing s with
  | nil => exact .refl s
  | cons a l ih => exact (h s a).trans (ih _)

/-! ## The counts of a session (R101 to R105) -/

theorem reset_inRange : SessionInRange Session.reset := by
  unfold SessionInRange
  decide

theorem put_le {v : Vector Nat 12} {k c : Fin 12} {n top : Nat} (hv : v[c] ≤ top) (hn : n ≤ top) : (put v k n)[c] ≤ top := by
  rw [put_get]
  split <;> assumption

/-- A batch that overflows no count keeps the range (R104). -/
theorem batched_inRange {v : Session} {k : Fin 12} {a u r : Nat} (value : Nat) (hv : SessionInRange v)
    (h : batchOverflows v k a u r = false) : SessionInRange (v.batched k a u r value) := by
  simp only [batchOverflows, Bool.or_eq_false_iff, decide_eq_false_iff_not, not_lt] at h
  obtain ⟨⟨⟨haccepted, hsuspect⟩, hrejected⟩, -⟩ := h
  intro c
  obtain ⟨ha, hu, hr⟩ := hv c
  exact ⟨put_le ha haccepted, put_le hu hsuspect, put_le hr hrejected⟩

/-- A key that does not overflow its count keeps the range (R105). -/
theorem keyed_inRange {v : Session} {k : Fin 12} {n : Nat} {o : Bool} (value : Nat) (r : Bool) (hv : SessionInRange v)
    (h : (if o then v.suspect[k] else v.accepted[k]) + n ≤ topPieces) : SessionInRange (v.keyed k n value r o) := by
  intro c
  obtain ⟨ha, hu, hr⟩ := hv c
  cases o with
  | false => exact ⟨put_le ha h, hu, hr⟩
  | true => exact ⟨ha, put_le hu h, hr⟩

/-- A session that is replaced by one within the range. -/
theorem setSession_counted {s t : State} (h : Counted s t) (x : Fin 4) {v : Session} (hv : CountsInRange s → SessionInRange v) :
    Counted s (setSession x v t) where
  timing := h.timing
  tally := h.tally
  range hs y := by
    show SessionInRange (put t.sessions x v)[y]
    rw [put_get]
    split
    · exact hv hs
    · exact h.range hs y

theorem restartIdle_counted (x : Fin 4) (s : State) : Counted s (restartIdle x s) :=
  .ite (setSession_counted (.refl s) x fun hs => hs x) (.refl s)

theorem counterActs_counted (x : Fin 4) (node : Byte) (s : State) : Counted s (counterActs x node s) :=
  .ite (restartIdle_counted x s) (.refl s)

theorem beginCount_counted (x : Fin 4) (node : Byte) (n : Nat) (s : State) : Counted s (beginCount x node n s).1 := by
  unfold beginCount
  split
  · exact .refl s
  · split
    · exact .refl s
    · exact setSession_counted (.of_leaves (changeBag_leaves _ _ s)) x fun _ => reset_inRange

theorem resumeCount_counted (x : Fin 4) (node : Byte) (n : Nat) (s : State) : Counted s (resumeCount x node n s).1 :=
  setSession_counted (.of_leaves (askRegister_leaves _ _ s)) x fun hs => hs x

theorem bagOpenJob_counted (f : Taken) (s : State) : Counted s (bagOpenJob f s).1 := by
  unfold bagOpenJob
  split
  · exact .refl s
  · unfold bagOpenRule
    split
    case h_1 => exact beginCount_counted _ _ _ s
    case h_2 =>
      split
      · exact restartIdle_counted _ s
      · exact .refl s
    case h_3 =>
      split
      · exact resumeCount_counted _ _ _ s
      · exact .refl s

theorem batchRule_counted (x : Fin 4) (node : Byte) (k a u r : Nat) (s : State) :
    Counted s (batchRule x node k a u r s).1 := by
  unfold batchRule
  dsimp only
  repeat' split
  any_goals exact .refl s
  next h _ => exact setSession_counted (.refl s) x fun hs => batched_inRange _ (hs x) (Bool.not_eq_true _ ▸ h)

theorem batchJob_counted (f : Taken) (s : State) : Counted s (batchJob f s).1 := by
  unfold batchJob
  dsimp only
  split
  · exact counterActs_counted _ _ s
  · exact (counterActs_counted _ _ s).trans (batchRule_counted _ _ _ _ _ _ _)

theorem handKeyRule_counted (x : Fin 4) (k n : Nat) (r o : Bool) (s : State) : Counted s (handKeyRule x k n r o s).1 := by
  unfold handKeyRule
  dsimp only
  repeat' split
  any_goals exact .refl s
  all_goals
    refine setSession_counted (.refl s) x fun hs => keyed_inRange _ _ (hs x) ?_
    grind

theorem handKeyJob_counted (f : Taken) (s : State) : Counted s (handKeyJob f s).1 := by
  unfold handKeyJob
  split
  · exact .refl s
  · split
    · exact .refl s
    · exact (restartIdle_counted _ s).trans (handKeyRule_counted _ _ _ _ _ _)

theorem abortSession_counted (x : Fin 4) (s : State) : Counted s (abortSession x s) :=
  setSession_counted (.of_leaves (askRegister_leaves _ _ s)) x fun _ => reset_inRange

theorem abortSessions_counted (s : State) : Counted s (abortSessions s) :=
  .foldl (fun s x => .ite (.refl s) (abortSession_counted x s)) _ s

theorem countAbortRule_counted (x : Fin 4) (node : Byte) (console : Bool) (s : State) :
    Counted s (countAbortRule x node console s).1 := by
  unfold countAbortRule
  dsimp only
  split
  case h_1 => exact .refl s
  case h_2 =>
    split
    · exact abortSession_counted x s
    · exact .refl s
  case h_3 => exact abortSession_counted x s

theorem countAbortJob_counted (f : Taken) (s : State) : Counted s (countAbortJob f s).1 := by
  unfold countAbortJob
  repeat' split
  any_goals exact .refl s
  all_goals exact countAbortRule_counted _ _ _ s

theorem suspendSession_counted (x : Fin 4) (s : State) : Counted s (suspendSession x s) := by
  refine Counted.trans ?_ (.of_leaves (raiseNum_leaves _ _ _))
  exact setSession_counted (.of_leaves (askRegister_leaves _ _ s)) x fun hs => hs x

/-! ## The close of a count (R106 to R108) -/

theorem addTallies_counted (v : Session) (s : State) : Counted s (addTallies v s) where
  timing := addTallies_leaves v s .timing (by decide)
  tally g c := addTallies_tally v s g c ▸ tallyKept_add _ _ _
  range := countsInRange_congr (addTallies_leaves v s .sessions (by decide))

theorem applyCount_counted (x : Fin 4) (b b' : Bag) (variance : Int) (cls : BagClass) (s : State) :
    Counted s (applyCount x b b' variance cls s) := by
  have hstock : Counted s _ := .of_leaves (applyClose_leaves s.sessions[x].accepted s.sessions[x].suspect
    (s.valueOf s.sessions[x].accepted) s)
  have hbag := hstock.trans (.of_leaves (changeBag_leaves s.sessions[x].bag (fun _ => b') _))
  have hdrawer := hbag.trans (.of_leaves (closeAtDrawer_leaves b variance _))
  have htallies := hdrawer.trans (addTallies_counted s.sessions[x] _)
  exact setSession_counted (htallies.trans (.of_leaves (closeEvents_leaves _ _ cls _))) x fun _ => reset_inRange

theorem bagCloseRule_counted (x : Fin 4) (node : Byte) (s : State) : Counted s (bagCloseRule x node s).1 := by
  unfold bagCloseRule
  dsimp only
  repeat' split
  iterate 6 exact .refl s
  exact applyCount_counted _ _ _ _ _ s

theorem bagCloseJob_counted (f : Taken) (s : State) : Counted s (bagCloseJob f s).1 := by
  unfold bagCloseJob
  dsimp only
  split
  · exact counterActs_counted _ _ s
  · exact (counterActs_counted _ _ s).trans (bagCloseRule_counted _ _ _)

/-! ## The taking of a frame (R173 to R176) -/

theorem doorJob_counted (f : Taken) (s : State) : Counted s (doorJob f s).1 := by
  unfold doorJob
  split
  · exact .of_leaves (doorClosedJob_leaves f s)
  · exact .of_leaves (doorOpenJob_leaves f s)

theorem makeUpJob_counted (f : Taken) (s : State) : Counted s (makeUpJob f s).1 := by
  unfold makeUpJob
  split
  · exact .of_leaves (makeUpConsignmentJob_leaves f s)
  · exact .of_leaves (makeUpFloatJob_leaves f s)

/-- The job rules: those of the counting room keep the counts, the others do not touch them. -/
theorem job_counted (k : JobKind) (f : Taken) (s : State) : Counted s (k.job f s).1 := by
  cases k with
  | bagOpen => exact bagOpenJob_counted f s
  | batch => exact batchJob_counted f s
  | bagClose => exact bagCloseJob_counted f s
  | countAbort => exact countAbortJob_counted f s
  | handKey => exact handKeyJob_counted f s
  | tender => exact .of_leaves (tenderJob_leaves f s)
  | refund => exact .of_leaves (refundJob_leaves f s)
  | pickup => exact .of_leaves (pickupJob_leaves f s)
  | cashup => exact .of_leaves (cashupJob_leaves f s)
  | declare => exact .of_leaves (declareJob_leaves f s)
  | floatReceipt => exact .of_leaves (floatReceiptJob_leaves f s)
  | tillOpen => exact .of_leaves (tillOpenJob_leaves f s)
  | drop => exact .of_leaves (dropJob_leaves f s)
  | withdraw => exact .of_leaves (withdrawJob_leaves f s)
  | deposit => exact .of_leaves (depositJob_leaves f s)
  | door => exact doorJob_counted f s
  | openRequest => exact .of_leaves (openRequestJob_leaves f s)
  | openConfirm => exact .of_leaves (openConfirmJob_leaves f s)
  | openCancel => exact .of_leaves (openCancelJob_leaves f s)
  | makeUp => exact makeUpJob_counted f s
  | restock => exact .of_leaves (restockJob_leaves f s)
  | announce => exact .of_leaves (announceJob_leaves f s)
  | load => exact .of_leaves (loadJob_leaves f s)
  | receive => exact .of_leaves (receiveJob_leaves f s)
  | sign => exact .of_leaves (signJob_leaves f s)

theorem decideFrame_counted (f : Taken) (s : State) : Counted s (decideFrame f s).1 := by
  unfold decideFrame
  split
  · exact .refl s
  · unfold witnessAndRun
    split
    · exact job_counted _ f s
    · split
      · exact job_counted _ _ s
      · split
        · exact .of_leaves (confirmFailed_leaves _ s)
        · exact .refl s

/-- No line port holds a count. -/
theorem ofPort_apart (p : Port) : ∀ b ∈ countParts, b ∉ [Part.ofPort p] := by
  cases p <;> decide

theorem takeFrame_counted (f : Taken) (s : State) : Counted s (takeFrame f s) := by
  unfold takeFrame answerAndRelay
  split
  · exact .of_leaves (fillEnvelope_leaves _ _ s)
  · have hanswer : Counted (decideFrame f s).1 _ :=
      .of_leaves (fillAnswer_leaves f (decideFrame f s).2 _) (by cases f.port <;> decide)
    exact ((decideFrame_counted f s).trans hanswer).trans (.of_leaves (fillEnvelope_leaves f _ _))

/-! ## Takings -/

/-- The end of a taking keeps the counts. -/
theorem settle_counted (s t : State) : Counted t (settle s t) := .of_leaves (settle_leaves s t)

theorem settleRestart_leaves (s t : State) :
    unchangedBut ([.bags, .day, .floor, .room, .trunk, .draws] ++ Part.eventParts) t (settleRestart s t) := by
  have hsend : ∀ u, unchangedBut [.floor, .room, .trunk, .draws] u (sendIfFreed s u) := fun u =>
    unchangedBut_ite (unchangedBut_refl _ u) (placeWaiting_leaves u)
  exact unchangedBut_mono (unchangedBut_trans (unchangedBut_trans (testReports_leaves s t) (hsend _)) (settleEvents_leaves _))
    (by decide)

/-- A command that, where it answers a next state, keeps the counts. -/
def KeepsCounts (s : State) (o : Host.Outcome State Fault Refusal) : Prop := ∀ t, o = .next t → Counted s t

theorem keeps_next {s t : State} (h : Counted s t) : KeepsCounts s (.next t) := by
  rintro _ ⟨⟩
  exact h

theorem keeps_taking {s : State} {f : State → State} (h : Counted s (f s)) : KeepsCounts s (taking f s) :=
  keeps_next (h.trans (settle_counted s _))

theorem keeps_takingIf (b : Bool) {s : State} {f : State → State} (h : Counted s (f s)) : KeepsCounts s (takingIf b f s) := by
  unfold takingIf
  split
  · exact keeps_taking h
  · exact keeps_next (.refl s)

theorem setRx_counted (p : Port) (rx : Receiver) (s : State) : Counted s (s.setRx p rx) :=
  .of_leaves (setRx_leaves p rx s) (ofPort_apart p)

theorem setTx_counted (p : Port) (tx : Transmitter) (s : State) : Counted s (s.setTx p tx) :=
  .of_leaves (setTx_leaves p tx s) (ofPort_apart p)

theorem setLineIdle_counted (p : Port) (b : Bool) (s : State) : Counted s (s.setLineIdle p b) :=
  .of_leaves (setLineIdle_leaves p b s) (ofPort_apart p)

theorem keeps_deliver (p : Port) (isKind : LineFrame → Bool) (s : State) : KeepsCounts s (deliver p isKind s) := by
  rcases deliver_cases p isKind s with h | ⟨w, -, -, -, h⟩
  · rw [h]
    exact keeps_next (.refl s)
  · rw [h]
    have htaken := (setRx_counted p .idle s).trans (takeFrame_counted (w.taken p) _)
    exact keeps_next (htaken.trans (settle_counted s _))

/-! ## The line ports (R153 to R166) -/

theorem countError_counted (p : Port) (c : LineCounter) (s : State) : Counted s (countError p c s) :=
  .of_leaves (countError_leaves p c s) (by cases p <;> decide)

theorem releaseReservations_counted (p : Port) (f : LineFrame) (s : State) : Counted s (releaseReservations p f s) :=
  (Counted.of_leaves (setUplink_leaves _ s)).trans (.ite (.refl _) (.of_leaves (setOut_leaves p _ _) (ofPort_apart p)))

theorem endWindow_counted (p : Port) (w : Window) (s : State) : Counted s (endWindow p w s) := by
  unfold endWindow
  split
  case h_1 => exact takeFrame_counted _ s
  case h_2 => exact releaseReservations_counted p _ s
  case h_3 => exact .refl s

theorem receiverError_counted (p : Port) (c : LineCounter) (s : State) : Counted s (receiverError p c s) := by
  have herror := (setRx_counted p .waitIdle s).trans (countError_counted p c _)
  unfold receiverError
  split
  · exact herror.trans (endWindow_counted p _ _)
  · exact herror

theorem txIdle_counted (p : Port) (c : Option Current) (s : State) : Counted s (txIdle p c s) := setTx_counted p _ s

theorem freePlace_counted (p : Port) (src : TxSource) (s : State) : Counted s (freePlace p src s) := by
  cases src with
  | outgoing i => exact .of_leaves (setOut_leaves p _ s) (ofPort_apart p)
  | downlink => exact .of_leaves (setDown_leaves p _ s) (ofPort_apart p)

theorem deliverCurrent_counted (p : Port) (s : State) : Counted s (deliverCurrent p s) := by
  unfold deliverCurrent
  split
  · exact (txIdle_counted p none s).trans (freePlace_counted p _ _)
  · exact txIdle_counted p none s

theorem discardCurrent_counted (p : Port) (c : Current) (s : State) : Counted s (discardCurrent p c s) := by
  have hfreed := (txIdle_counted p none s).trans (freePlace_counted p c.source _)
  exact (hfreed.trans (countError_counted p .undelivered _)).trans (.ite (.of_leaves (setSafe_leaves _ _)) (.refl _))

theorem failAttempt_counted (p : Port) (s : State) : Counted s (failAttempt p s) := by
  unfold failAttempt
  split
  · exact .ite (txIdle_counted p _ s) (discardCurrent_counted p _ s)
  · exact txIdle_counted p none s

theorem closeWindow_counted (p : Port) (s : State) : Counted s (closeWindow p s) := by
  unfold closeWindow
  split
  · exact .ite (deliverCurrent_counted p s) (failAttempt_counted p s)
  · exact txIdle_counted p none s

/-- An error in the part's own transmission, a clash among them, fails the attempt (R160, R163). -/
theorem failedError_counted (p : Port) (c : LineCounter) (s : State) :
    Counted s (failAttempt p (countError p c (s.setRx p .waitIdle))) :=
  ((setRx_counted p .waitIdle s).trans (countError_counted p c _)).trans (failAttempt_counted p _)

theorem offer_counted (p : Port) (f : LineFrame) (s : State) : Counted s (offer p f s).1 := by
  have huplink : Counted s (reserveUplink s) := .of_leaves (setUplink_leaves _ s)
  have hfull : ∀ o, Counted s (raiseQueueFull p o s) := fun o => .of_leaves (raiseQueueFull_leaves p o s)
  unfold offer
  split
  · exact .refl s
  · split
    · exact .refl s
    · split
      · exact hfull false
      · split
        · exact huplink
        · split
          · exact hfull true
          · exact huplink.trans (.of_leaves (setOut_leaves p _ _) (ofPort_apart p))

theorem closeData_counted (p : Port) (bits : List Bool) (s : State) : Counted s (closeData p bits s) := by
  unfold closeData
  split
  case h_1 => exact receiverError_counted p _ s
  case h_2 => exact receiverError_counted p _ s
  case h_3 => exact receiverError_counted p _ s
  case h_4 => exact (offer_counted p _ s).trans (setRx_counted p _ _)

theorem gatherMark_counted (p : Port) (w : Window) (mark : Byte) (s : State) : Counted s (gatherMark p w mark s) :=
  .ite (receiverError_counted p _ s)
    (.ite ((setRx_counted p _ s).trans (releaseReservations_counted p _ _)) (setRx_counted p _ s))

theorem recordMark_counted (p : Port) (mark : Byte) (s : State) : Counted s (recordMark p mark s) := by
  unfold recordMark
  dsimp only
  split
  · exact .ite ((setTx_counted p _ s).trans (closeWindow_counted p _)) (setTx_counted p _ s)
  · exact setTx_counted p _ s

theorem dataGone_counted (p : Port) (s : State) : Counted s (dataGone p s) := by
  unfold dataGone
  dsimp only
  split
  · exact .ite ((setTx_counted p _ s).trans (deliverCurrent_counted p _)) (setTx_counted p _ s)
  · exact txIdle_counted p none s

theorem breakEffect_counted (p : Port) (s : State) : Counted s (breakEffect p s) :=
  (Counted.ite (txIdle_counted p _ s) (.refl s)).trans (receiverError_counted p _ _)

theorem keeps_startArrives (p : Port) (s : State) : KeepsCounts s (startArrives p s) := by
  unfold startArrives
  split
  · exact keeps_taking (failedError_counted p _ s)
  · split
    case h_1 => exact keeps_taking ((setRx_counted p _ s).trans (setLineIdle_counted p _ _))
    case h_2 | h_3 => exact keeps_taking (receiverError_counted p _ s)
    case h_4 | h_5 => exact keeps_next (.refl s)

theorem keeps_endOfDataArrives (p : Port) (bits : List Bool) (s : State) : KeepsCounts s (endOfDataArrives p bits s) := by
  unfold endOfDataArrives
  split
  · exact keeps_taking (failedError_counted p _ s)
  · split
    case h_1 => exact keeps_taking (closeData_counted p _ s)
    case h_2 | h_3 => exact keeps_taking (receiverError_counted p _ s)
    case h_4 | h_5 => exact keeps_next (.refl s)

theorem keeps_markArrives (p : Port) (mark : Byte) (s : State) : KeepsCounts s (markArrives p mark s) := by
  unfold markArrives
  split
  · exact keeps_taking (recordMark_counted p mark s)
  · split
    case h_1 => exact keeps_taking (gatherMark_counted p _ mark s)
    all_goals exact keeps_next (.refl s)

theorem keeps_endOfFrameArrives (p : Port) (s : State) : KeepsCounts s (endOfFrameArrives p s) := by
  unfold endOfFrameArrives
  split
  · exact keeps_taking (failedError_counted p _ s)
  · split
    case h_1 =>
      split
      · exact keeps_next (.refl s)
      · exact keeps_taking ((setRx_counted p .idle s).trans (endWindow_counted p _ _))
    case h_2 => exact keeps_taking (setRx_counted p .idle s)
    case h_3 | h_4 => exact keeps_taking (receiverError_counted p _ s)
    case h_5 => exact keeps_next (.refl s)

theorem keeps_symbolErrorArrives (p : Port) (x : LineSymbol) (s : State) : KeepsCounts s (symbolErrorArrives p x s) := by
  unfold symbolErrorArrives
  split
  · exact keeps_takingIf _ (failedError_counted p _ s)
  · exact keeps_takingIf _ (receiverError_counted p _ s)

theorem keeps_idleArrives (p : Port) (s : State) : KeepsCounts s (idleArrives p s) := by
  unfold idleArrives
  split
  · exact keeps_next (.refl s)
  · split
    case h_1 | h_2 | h_3 => exact keeps_taking ((setRx_counted p .idle s).trans (setLineIdle_counted p true _))
    case h_4 | h_5 => exact keeps_taking (receiverError_counted p _ s)

/-! ## RESTART (R166, R195) -/

theorem takeMarkedWindow_counted (p : Port) (s : State) : Counted s (takeMarkedWindow p s) := by
  unfold takeMarkedWindow
  split
  · exact (setRx_counted p .waitIdle s).trans (takeFrame_counted _ _)
  · exact .refl s

theorem takeMarkedWindows_counted (s : State) : Counted s (takeMarkedWindows s) := by
  have hboth : ∀ (p q : Port) (u : State), Counted u (takeMarkedWindow p (takeMarkedWindow q u)) := fun p q u =>
    (takeMarkedWindow_counted q u).trans (takeMarkedWindow_counted p _)
  have hdraw : Counted s (s.setDraws (s.draws + 1)) := .of_leaves (setDraws_leaves _ s)
  exact .ite (.ite (hdraw.trans (hboth _ _ _)) (hdraw.trans (hboth _ _ _))) (hboth _ _ s)

theorem restartPort_counted (p : Port) (s : State) : Counted s (restartPort p s) :=
  .of_leaves (setPort_leaves p _ s) (ofPort_apart p)

theorem restartBlocks_counted (s : State) : Counted s (restartBlocks s) := by
  have hports := ((takeMarkedWindows_counted s).trans (restartPort_counted .floor _)).trans (restartPort_counted .room _)
  have hcalls := (hports.trans (abortSessions_counted _)).trans (.of_leaves (abortHandover_leaves .aborted _))
  exact hcalls.trans (.of_leaves (restartLock_leaves _))

theorem runRestart_counted (fields : List Byte) (s : State) : Counted s (runRestart fields s).1 :=
  (restartBlocks_counted s).trans (.of_leaves (setUplink_leaves _ _))

/-! ## The requests (R114, R190) -/

/-- The parts that the frame of a request's taking may change: what its end changes, the trunk and the free details. -/
def takingParts : List Part := [.bags, .day, .safe, .floor, .room, .trunk, .draws] ++ Part.eventParts

/-- A request command leaves the state, or runs a request of its form between two changes that touch no count. -/
theorem takeRequest_around {finish : State → State → State} (hfinish : ∀ s t, unchangedBut takingParts t (finish s t))
    {code : Byte} {variant : State → List Byte → Bool} {run : List Byte → State → State × Result} {s t : State}
    (ht : takeRequest finish code variant run s = .next t) :
    t = s ∨ ∃ fields u, variant s fields = true ∧ unchangedBut takingParts s u ∧ unchangedBut takingParts (run fields u).1 t := by
  rcases takeRequest_cases finish code variant run s with h | ⟨tag, fields, rest, -, -, -, hv, h⟩
  · rw [h] at ht
    exact .inl (Host.Outcome.next.inj ht).symm
  · rw [h] at ht
    refine .inr ⟨fields, popRequest s, hv, unchangedBut_mono (popRequest_leaves s) (by decide), ?_⟩
    rw [← Host.Outcome.next.inj ht]
    exact unchangedBut_comp (unchangedBut_mono (answerRequest_leaves _ _ _ _ _ _) (by decide)) (hfinish s _)

theorem settleRestart_around (s t : State) : unchangedBut takingParts t (settleRestart s t) :=
  unchangedBut_mono (settleRestart_leaves s t) (by decide)

theorem keeps_takeRequest {finish : State → State → State} (hfinish : ∀ s t, unchangedBut takingParts t (finish s t))
    {code : Byte} {variant : State → List Byte → Bool} {run : List Byte → State → State × Result} {s : State}
    (hrun : ∀ fields u, variant s fields = true → Counted u (run fields u).1) :
    KeepsCounts s (takeRequest finish code variant run s) := by
  intro t ht
  rcases takeRequest_around hfinish ht with rfl | ⟨fields, u, hv, hbefore, hafter⟩
  · exact .refl t
  · exact ((Counted.of_leaves hbefore).trans (hrun fields u hv)).trans (.of_leaves hafter)

/-- A request that changes only parts that hold no count. -/
theorem keeps_request {ex : List Part} {code : Byte} {variant : State → List Byte → Bool}
    {run : List Byte → State → State × Result} {s : State} (hrun : ∀ fields u, unchangedBut ex u (run fields u).1)
    (hex : ∀ b ∈ countParts, b ∉ ex := by decide) : KeepsCounts s (takeRequest settle code variant run s) :=
  keeps_takeRequest settle_leaves fun fields u _ => .of_leaves (hrun fields u) hex

theorem runTableSelect_leaves (fields : List Byte) (s : State) : unchangedBut [.pointer] s (runTableSelect fields s).1 := by
  unfold runTableSelect
  repeat' split
  any_goals exact unchangedBut_refl _ s
  exact setPointer_leaves _ s

theorem runTableGet_leaves (fields : List Byte) (s : State) : unchangedBut [.pointer] s (runTableGet fields s).1 := by
  unfold runTableGet
  split
  · exact unchangedBut_refl _ s
  · exact setPointer_leaves _ s

theorem runTablePut_leaves (fields : List Byte) (s : State) : unchangedBut [] s (runTablePut fields s).1 := by
  unfold runTablePut
  split
  · exact unchangedBut_refl _ s
  · exact unchangedBut_refl _ s

/-- A write that is taken changes its table and the pointer. -/
theorem putResult_leaves {ex : List Part} {s : State} {r : Except Code State} (h : ∀ t, r = .ok t → unchangedBut ex s t) :
    unchangedBut (ex ++ [.pointer]) s (putResult s r).1 := by
  cases r with
  | ok t => exact unchangedBut_trans (h t rfl) (setPointer_leaves _ t)
  | error c => exact unchangedBut_refl _ s

theorem putDenom_leaves {c : Fin 12} {d : Denom} {s t : State} (h : putDenom c d s = .ok t) : unchangedBut [.denoms] s t := by
  unfold putDenom at h
  split at h
  · cases h
  · split at h
    · cases h
    · split at h
      · cases h
      · cases h
        exact setDenoms_leaves _ s

theorem putNode_leaves {i : Fin 252} {n : Node} {s t : State} (h : putNode i n s = .ok t) : unchangedBut [.nodes] s t := by
  unfold putNode at h
  split at h
  · cases h
  · split at h
    · cases h
    · cases h
      exact setNodes_leaves _ s

theorem putWitness_leaves {i : Fin 7} {w : Witness} {s t : State} (h : putWitness i w s = .ok t) :
    unchangedBut [.witness] s t := by
  unfold putWitness at h
  split at h
  · cases h
  · cases h
    exact setWitness_leaves _ s

theorem putTill_leaves {k : Fin 160} {e : TillEntry} {s t : State} (h : putTill k e s = .ok t) : unchangedBut [.tills] s t := by
  unfold putTill at h
  split at h
  · cases h
    exact setTills_leaves _ s
  · cases h

theorem putBooking_leaves {i : Fin 16} {b : Booking} {s t : State} (h : putBooking i b s = .ok t) :
    unchangedBut [.ring] s t := by
  unfold putBooking at h
  split at h
  · cases h
  · split at h
    · cases h
    · cases h
      exact setSlot_leaves i _ s

theorem runPutDenom_leaves (fields : List Byte) (s : State) : unchangedBut [.denoms, .pointer] s (runPutDenom fields s).1 := by
  unfold runPutDenom
  split
  · exact putResult_leaves fun _ => putDenom_leaves
  · exact unchangedBut_refl _ s

theorem runPutNode_leaves (fields : List Byte) (s : State) : unchangedBut [.nodes, .pointer] s (runPutNode fields s).1 := by
  unfold runPutNode
  split
  · exact putResult_leaves fun _ => putNode_leaves
  · exact unchangedBut_refl _ s

theorem runPutWitness_leaves (fields : List Byte) (s : State) :
    unchangedBut [.witness, .pointer] s (runPutWitness fields s).1 := by
  unfold runPutWitness
  split
  · exact putResult_leaves fun _ => putWitness_leaves
  · exact unchangedBut_refl _ s

theorem runPutTill_leaves (fields : List Byte) (s : State) : unchangedBut [.tills, .pointer] s (runPutTill fields s).1 := by
  unfold runPutTill
  split
  · exact putResult_leaves fun _ => putTill_leaves
  · exact unchangedBut_refl _ s

theorem runPutRing_leaves (fields : List Byte) (s : State) : unchangedBut [.ring, .pointer] s (runPutRing fields s).1 := by
  unfold runPutRing
  split
  · exact putResult_leaves fun _ => putBooking_leaves
  · exact unchangedBut_refl _ s

theorem runPutTiming_leaves (fields : List Byte) (s : State) :
    unchangedBut [.timing, .pointer] s (runPutTiming fields s).1 := by
  have htaken : ∀ x : Timing, unchangedBut [.timing, .pointer] s (putResult s (.ok (s.setTiming x))).1 := fun x =>
    unchangedBut_trans (setTiming_leaves x s) (setPointer_leaves _ _)
  unfold runPutTiming
  split
  · split
    · exact htaken _
    · exact unchangedBut_refl _ s
  · split
    · exact htaken _
    · exact unchangedBut_refl _ s

theorem runClearEvents_leaves (fields : List Byte) (s : State) : unchangedBut [.events] s (runClearEvents fields s).1 := by
  unfold runClearEvents
  split
  · exact clearSelected_leaves _ s
  · exact unchangedBut_refl _ s

theorem runEventEnable_leaves (fields : List Byte) (s : State) : unchangedBut [.events] s (runEventEnable fields s).1 := by
  unfold runEventEnable
  split
  · split
    · exact enableSelected_leaves _ _ s
    · exact unchangedBut_refl _ s
  · exact unchangedBut_refl _ s

theorem runTallyRead_leaves (fields : List Byte) (s : State) : unchangedBut [.tallies] s (runTallyRead fields s).1 := by
  unfold runTallyRead
  split
  · split
    · exact unchangedBut_ite (clearTallies_leaves _ s) (unchangedBut_refl _ s)
    · exact unchangedBut_refl _ s
  · exact unchangedBut_refl _ s

/-- A flag that reads as yes is the byte 1. -/
theorem takeFlag_true {bs rest : List Byte} (h : takeFlag bs = some (true, rest)) : bs.head? = some 1#8 := by
  unfold takeFlag at h
  split at h
  · split at h
    · cases h
    · split at h
      · simp [*]
      · cases h
  · cases h

/-- A TALLY_READ that does not ask to clear changes nothing (R114). -/
theorem runTallyRead_same {fields : List Byte} {s : State} (h : asksClear s fields = false) (u : State) :
    (runTallyRead fields u).1 = u := by
  unfold runTallyRead
  split
  · rename_i g rest hg
    split
    · rename_i gs clear more hgs hflag
      cases clear with
      | false => rfl
      | true =>
        obtain ⟨-, -, hrest⟩ := takeNat_some hg
        have hasks : asksClear s fields = true := by
          unfold asksClear
          rw [← hrest, takeFlag_true hflag]
          rfl
        exact absurd hasks (by simp [h])
    · rfl
  · rfl

theorem keeps_tallyRead (s : State) : KeepsCounts s (execTallyRead s) := by
  refine keeps_takeRequest settle_leaves fun fields u hv => ?_
  rw [runTallyRead_same (s := s) (by simpa using hv)]
  exact .refl u

theorem runDayOpen_leaves (fields : List Byte) (s : State) :
    unchangedBut [.day, .drawers, .acc, .events] s (runDayOpen fields s).1 := by
  unfold runDayOpen
  split
  · exact openDay_leaves s
  · exact unchangedBut_refl _ s

theorem runDayTrade_leaves (fields : List Byte) (s : State) : unchangedBut [.day, .events] s (runDayTrade fields s).1 := by
  unfold runDayTrade
  split
  · exact changeDay_leaves .trading s
  · exact unchangedBut_refl _ s

/-- A close of the day may abort sessions (R110, R144). -/
theorem closeDay_counted (force : Bool) (s : State) : Counted s (closeDay force s) := by
  have hclosing := (Counted.of_leaves (changeDay_leaves .closing s)).trans (.of_leaves (cancelPending_leaves _))
  have hforced := (hclosing.trans (.of_leaves (setDrawers_leaves (mapRows forceDrawer (cancelPending (changeDay .closing s)).drawers) _))).trans
    (abortSessions_counted _)
  exact (Counted.ite hforced hclosing).trans (.of_leaves (testClosing_leaves _))

theorem runDayClose_counted (fields : List Byte) (s : State) : Counted s (runDayClose fields s).1 := by
  unfold runDayClose
  split
  · exact .refl s
  · split
    · exact closeDay_counted _ s
    · exact .refl s

theorem keeps_dayClose {variant : State → List Byte → Bool} (s : State) :
    KeepsCounts s (takeRequest settle 0x32 variant runDayClose s) :=
  keeps_takeRequest settle_leaves fun fields u _ => runDayClose_counted fields u

theorem runSetClock_leaves (fields : List Byte) (s : State) :
    unchangedBut [.day, .bags, .ring, .call, .events] s (runSetClock fields s).1 := by
  unfold runSetClock
  repeat' split
  iterate 4 exact unchangedBut_refl _ s
  exact setDayClock_leaves _ s

theorem runConsignHand_leaves (fields : List Byte) (s : State) : unchangedBut [.bags, .ring] s (runConsignHand fields s).1 := by
  unfold runConsignHand
  repeat' split
  iterate 5 exact unchangedBut_refl _ s
  exact unchangedBut_trans (setBags_leaves _ s) (setSlot_leaves _ _ _)

theorem runConsignRecall_leaves (fields : List Byte) (s : State) :
    unchangedBut [.bags, .ring] s (runConsignRecall fields s).1 := by
  unfold runConsignRecall
  repeat' split
  iterate 4 exact unchangedBut_refl _ s
  exact unchangedBut_trans (setBags_leaves _ s) (setSlot_leaves _ _ _)

theorem runHatchRelease_leaves (fields : List Byte) (s : State) : unchangedBut [.bags] s (runHatchRelease fields s).1 := by
  unfold runHatchRelease
  split
  · exact unchangedBut_refl _ s
  · split
    · exact unchangedBut_refl _ s
    · exact transition_leaves ‹_›

theorem runOrderCancel_leaves (fields : List Byte) (s : State) :
    unchangedBut [.stock, .orders, .drawers, .events] s (runOrderCancel fields s).1 := by
  unfold runOrderCancel
  repeat' split
  iterate 4 exact unchangedBut_refl _ s
  exact cancelOrder_leaves _ s

theorem runSafeRelease_leaves (fields : List Byte) (s : State) :
    unchangedBut [.safe, .room] s (runSafeRelease fields s).1 := by
  unfold runSafeRelease
  split
  · exact releaseLockout_leaves s
  · exact unchangedBut_refl _ s

theorem runStockSet_leaves (fields : List Byte) (s : State) : unchangedBut [.stock, .acc] s (runStockSet fields s).1 := by
  unfold runStockSet
  repeat' split
  any_goals exact unchangedBut_refl _ s
  exact setStockCounts_leaves _ _ _ s

theorem runSuspectRelease_leaves (fields : List Byte) (s : State) : unchangedBut [.stock] s (runSuspectRelease fields s).1 := by
  unfold runSuspectRelease
  repeat' split
  any_goals exact unchangedBut_refl _ s
  exact setStock_leaves _ s

theorem runTillSuspend_leaves (fields : List Byte) (s : State) : unchangedBut [.drawers] s (runTillSuspend fields s).1 := by
  unfold runTillSuspend
  repeat' split
  any_goals exact unchangedBut_refl _ s
  all_goals exact setDrawer_leaves _ _ s

/-! ## The trunk (R178, R188 to R191) -/

theorem bufferEntry_leaves (e : TrunkEntry) (s : State) : unchangedBut [.trunk, .events] s (bufferEntry e s) :=
  unchangedBut_ite (countTrunkOverrun_leaves s) (unchangedBut_mono (setTrunk_leaves _ s) (by decide))

theorem closeTrunkFrame_leaves (type : Byte) (payload : List Byte) (check : Nat) (s : State) :
    unchangedBut [.trunk, .events] s (closeTrunkFrame type payload check s) := by
  unfold closeTrunkFrame
  split
  · exact countTrunkCheck_leaves s
  · split
    · exact bufferEntry_leaves _ s
    · exact countTrunkFraming_leaves s

theorem collectTrunk_leaves (chars : List Byte) (s : State) : unchangedBut [.trunk, .events] s (collectTrunk chars s) := by
  have htrunk : ∀ x, unchangedBut [.trunk, .events] s (s.setTrunk x) := fun x =>
    unchangedBut_mono (setTrunk_leaves x s) (by decide)
  unfold collectTrunk
  split
  · exact unchangedBut_ite (unchangedBut_comp (htrunk _) (countTrunkFraming_leaves _))
      (unchangedBut_ite (htrunk _) (unchangedBut_comp (htrunk _) (closeTrunkFrame_leaves _ _ _ _)))
  · exact htrunk _

theorem trunkChar_leaves (s : State) (c : Byte) : unchangedBut [.trunk, .events] s (trunkChar s c) := by
  unfold trunkChar
  split
  · exact unchangedBut_ite (unchangedBut_mono (setTrunk_leaves _ s) (by decide)) (unchangedBut_refl _ s)
  · exact collectTrunk_leaves _ s

theorem receiveTrunk_leaves (chars : List Byte) (s : State) : unchangedBut [.trunk, .events] s (receiveTrunk chars s) :=
  unchangedBut_foldl trunkChar_leaves chars s

theorem startTrunk_leaves (s : State) : unchangedBut [.trunk, .attention] s (startTrunk s) := by
  have htrunk : ∀ x, unchangedBut [.trunk, .attention] s (s.setTrunk x) := fun x =>
    unchangedBut_mono (setTrunk_leaves x s) (by decide)
  unfold startTrunk
  split
  · exact htrunk _
  · split
    · exact unchangedBut_trans (setTrunk_leaves _ s) (setAttention_leaves false _)
    · split
      · exact htrunk _
      · exact unchangedBut_refl _ s

theorem holdInput_leaves (asserted : Bool) (s : State) : unchangedBut [.trunk, .attention] s (holdInput asserted s) := by
  have htrunk : ∀ x, unchangedBut [.trunk, .attention] s (s.setTrunk x) := fun x =>
    unchangedBut_mono (setTrunk_leaves x s) (by decide)
  exact unchangedBut_ite (unchangedBut_comp (htrunk _) (startTrunk_leaves _)) (htrunk _)

theorem endTrunk_leaves (x : Sending) (s : State) : unchangedBut [.trunk, .uplink] s (endTrunk x s) :=
  unchangedBut_ite (unchangedBut_trans (setTrunk_leaves _ s) (setUplink_leaves _ _))
    (unchangedBut_mono (setTrunk_leaves _ s) (by decide))

theorem popAnswered_leaves (tag : Word16) (code : Byte) (result : Code) (s : State) :
    unchangedBut [.trunk, .draws] s (answerRequest tag code result none [] (popRequest s)) :=
  unchangedBut_comp (unchangedBut_mono (popRequest_leaves s) (by decide)) (answerRequest_leaves _ _ _ _ _ _)

theorem sendRule_leaves (tag : Word16) (port pb kind dest : Byte) (body : List Byte) (s : State) :
    unchangedBut [.floor, .room, .trunk, .draws] s (sendRule tag port pb kind dest body s) := by
  have hrefused : ∀ c, unchangedBut [.floor, .room, .trunk, .draws] s (answerRequest tag 0 c none [] (popRequest s)) := fun c =>
    unchangedBut_mono (popAnswered_leaves tag 0 c s) (by decide)
  unfold sendRule
  split
  · exact hrefused _
  · split
    · exact hrefused _
    · split
      · exact unchangedBut_mono (placeSend_leaves _ _ _ s) (ofPort_sub _ (by decide) (by decide) (by decide))
      · exact unchangedBut_mono (setTrunk_leaves _ s) (by decide)

theorem keeps_takeSend (s : State) : KeepsCounts s (takeSend s) := by
  unfold takeSend
  split
  · exact keeps_taking (.of_leaves (sendRule_leaves _ _ _ _ _ _ s))
  · exact keeps_next (.refl s)

theorem keeps_takeUnknown (s : State) : KeepsCounts s (takeUnknown s) := by
  unfold takeUnknown
  split
  · split
    · exact keeps_next (.refl s)
    · exact keeps_taking (.of_leaves (popAnswered_leaves _ _ _ s))
  · exact keeps_next (.refl s)

theorem keeps_trunkFrameSent (s : State) : KeepsCounts s (execTrunkFrameSent s) := by
  unfold execTrunkFrameSent
  split
  · exact keeps_taking (.of_leaves (endTrunk_leaves _ s))
  · exact keeps_next (.refl s)

theorem keeps_countIdleExpiry (session : Nat) (s : State) : KeepsCounts s (execCountIdleExpiry session s) := by
  unfold execCountIdleExpiry
  split
  · exact keeps_takingIf _ (suspendSession_counted _ s)
  · exact keeps_next (.refl s)

/-! ## Every command (R99, R112) -/

/-- Every command keeps the counts but the TALLY_READ with clear, the write to TIMING and power-on. -/
theorem keeps_exec {c : Instr} (hclear : c ≠ .tallyReadClear) (htiming : c ≠ .tablePutTiming) (hpower : c ≠ .powerOn)
    (s : State) : KeepsCounts s (exec c s) := by
  cases c with
  | powerOn => exact absurd rfl hpower
  | tablePutTiming => exact absurd rfl htiming
  | tallyReadClear => exact absurd rfl hclear
  | frameStart p => exact keeps_startArrives p s
  | endOfData p bits => exact keeps_endOfDataArrives p bits s
  | markByte p mark => exact keeps_markArrives p mark s
  | unmarkedFrameDropped p => exact keeps_endOfFrameArrives p s
  | symbolError p symbol => exact keeps_symbolErrorArrives p symbol s
  | framingError p symbol incomplete => exact keeps_takingIf _ (receiverError_counted p .framing s)
  | longFrame p => exact keeps_takingIf _ (receiverError_counted p .longFrame s)
  | breakPulse p => exact keeps_taking (breakEffect_counted p s)
  | lineIdle p => exact keeps_idleArrives p s
  | currentFrameChoice p => exact keeps_takingIf _ (setTx_counted p _ s)
  | transmitStart p => exact keeps_takingIf _ ((setTx_counted p _ s).trans (setLineIdle_counted p false _))
  | arbitrationLost p bit => exact keeps_takingIf _ ((setRx_counted p _ s).trans (failAttempt_counted p _))
  | headerSent p => exact keeps_takingIf _ (setTx_counted p _ s)
  | sendClash p => exact keeps_takingIf _ (failedError_counted p .clash s)
  | dataSent p => exact keeps_takingIf _ (dataGone_counted p s)
  | windowClose p => exact keeps_takingIf _ (closeWindow_counted p s)
  | safeCommandPlaced => exact keeps_takingIf _ (.of_leaves (placeSafeCommand_leaves s))
  | tender p | refund p | pickup p | cashup p | tillOpen p | floatReceipt p | declare p | makeUpConsignment p
  | restock p | drop p | withdraw p | deposit p | doorClosed p | openRequest p | openCancel p | openConfirm p
  | bagOpen p | batch p | handKey p | bagClose p | countAbort p | announce p | load p | receive p | sign p
  | unknownKindFrame p => exact keeps_deliver p _ s
  | makeUpFloat p => exact (keeps_deliver p _ s : KeepsCounts s (execMakeUpFloat p s))
  | doorOpen p => exact (keeps_deliver p _ s : KeepsCounts s (execDoorOpen p s))
  | opaqueFrame p => exact (keeps_deliver p _ s : KeepsCounts s (execOpaqueFrame p s))
  | delayExpiry => exact keeps_takingIf _ (.of_leaves (setLock_leaves _ _ s))
  | windowExpiry => exact keeps_takingIf _ (.of_leaves (windowExpired_leaves s))
  | relockExpiry => exact keeps_takingIf _ (.of_leaves (relockExpired_leaves s))
  | countIdleExpiry session => exact keeps_countIdleExpiry session s
  | exchangeTimeout | signTimeout => exact keeps_takingIf _ (.of_leaves (abortHandover_leaves .timedOut s))
  | dayClockAdvance => exact keeps_takingIf _ (.of_leaves (advanceClock_leaves s))
  | trunkFrameReceived chars => exact keeps_taking (.of_leaves (receiveTrunk_leaves chars s))
  | trunkHoldInput asserted => exact keeps_taking (.of_leaves (holdInput_leaves asserted s))
  | trunkFrameStart => exact keeps_takingIf _ (.of_leaves (startTrunk_leaves s))
  | trunkFrameSent => exact keeps_trunkFrameSent s
  | send => exact keeps_takeSend s
  | requestUnknown => exact keeps_takeUnknown s
  | tableSelect => exact keeps_request runTableSelect_leaves
  | tableGet => exact keeps_request runTableGet_leaves
  | tablePut => exact (keeps_request runTablePut_leaves : KeepsCounts s (execTablePut s))
  | tablePutDenom => exact keeps_request runPutDenom_leaves
  | tablePutNode => exact keeps_request runPutNode_leaves
  | tablePutWitness => exact keeps_request runPutWitness_leaves
  | tablePutTill => exact keeps_request runPutTill_leaves
  | tablePutRing => exact keeps_request runPutRing_leaves
  | status | eventsRead => exact keeps_request (ex := []) fun _ u => unchangedBut_refl _ u
  | clearEvents => exact keeps_request runClearEvents_leaves
  | eventEnable => exact keeps_request runEventEnable_leaves
  | tallyRead => exact keeps_tallyRead s
  | dayOpen => exact keeps_request runDayOpen_leaves
  | dayTrade => exact keeps_request runDayTrade_leaves
  | dayClose => exact (keeps_dayClose s : KeepsCounts s (execDayClose s))
  | dayCloseForce => exact keeps_dayClose s
  | setClock => exact keeps_request runSetClock_leaves
  | consignHand => exact keeps_request runConsignHand_leaves
  | consignRecall => exact keeps_request runConsignRecall_leaves
  | hatchRelease => exact keeps_request runHatchRelease_leaves
  | orderCancel => exact keeps_request runOrderCancel_leaves
  | safeRelease => exact keeps_request runSafeRelease_leaves
  | stockSet => exact keeps_request runStockSet_leaves
  | suspectRelease => exact keeps_request runSuspectRelease_leaves
  | tillSuspend => exact keeps_request runTillSuspend_leaves
  | restart => exact keeps_takeRequest settleRestart_around fun fields u _ => runRestart_counted fields u

/-- A request that changes some parts changes no more than these and those of its taking. -/
theorem takeRequest_leaves {ex : List Part} {code : Byte} {variant : State → List Byte → Bool}
    {run : List Byte → State → State × Result} {s t : State} (hrun : ∀ fields u, unchangedBut ex u (run fields u).1)
    (ht : takeRequest settle code variant run s = .next t) : unchangedBut (takingParts ++ ex ++ takingParts) s t := by
  rcases takeRequest_around settle_leaves ht with rfl | ⟨fields, u, -, hbefore, hafter⟩
  · exact unchangedBut_refl _ t
  · exact unchangedBut_trans (unchangedBut_trans hbefore (hrun fields u)) hafter

/-- Flags, and the top in HOLD, stay under every command but the TALLY_READ with clear and power-on. -/
theorem exec_tallyKept {c : Instr} {s t : State} (h : exec c s = .next t) (hclear : c ≠ .tallyReadClear) (hpower : c ≠ .powerOn)
    (g : TallyGroup) (k : Fin 12) : TallyKept s.timing.groups[g.row].mode (s.tally g k) (t.tally g k) := by
  by_cases htiming : c = .tablePutTiming
  · subst htiming
    have htallies := takeRequest_leaves runPutTiming_leaves h .tallies (by decide)
    exact .of_eq (tally_congr htallies g k)
  · exact (keeps_exec hclear htiming hpower s t h).tally g k

/-- At power-on every count is 0 (R196). -/
theorem powerOn_countsInRange {s t : State} (h : exec .powerOn s = .next t) : CountsInRange t := by
  rw [← Host.Outcome.next.inj h]
  intro x
  show SessionInRange (Vector.replicate 4 Session.reset)[x]
  rw [Fin.getElem_fin, Vector.getElem_replicate]
  exact reset_inRange

/-- The session counts stay within 16 bits under every command. -/
theorem exec_countsInRange {c : Instr} {s t : State} (h : exec c s = .next t) (hs : CountsInRange s) : CountsInRange t := by
  by_cases hspecial : c = .tallyReadClear ∨ c = .tablePutTiming ∨ c = .powerOn
  · rcases hspecial with rfl | rfl | rfl
    · exact countsInRange_congr (takeRequest_leaves runTallyRead_leaves h .sessions (by decide)) hs
    · exact countsInRange_congr (takeRequest_leaves runPutTiming_leaves h .sessions (by decide)) hs
    · exact powerOn_countsInRange h
  · obtain ⟨hclear, htiming, hpower⟩ : c ≠ .tallyReadClear ∧ c ≠ .tablePutTiming ∧ c ≠ .powerOn := by
      simpa only [not_or] using hspecial
    exact (keeps_exec hclear htiming hpower s t h).range hs

/-- The session counts stay within 16 bits through a step, be it a command or a second that passes. -/
theorem step_countsInRange {s t : State} (hs : CountsInRange s) (h : step s = .next t) : CountsInRange t := by
  unfold step at h
  split at h
  · exact exec_countsInRange h hs
  · rw [← Host.Outcome.next.inj h]
    exact hs

/-- Settles O17: the additions by `add_eq_rounds` and `addTallies_tally`, the flags and the range by `keeps_exec`. -/
theorem tallyCountsPieces : Obligations.TallyCountsPieces := by
  refine ⟨fun m t n h => ⟨add_eq_rounds m n h, fun hn hm hover => ?_⟩, addTallies_tally,
    fun c s t g k h hclear hpower => exec_tallyKept h hclear hpower g k, fun s t hs h => step_countsInRange hs h⟩
  subst hm
  exact add_wrap_once h hn hover

end Sys2Proof.Machine.TallyCount

/-! PROOF. What a command does, once for every command: it leaves the state, or it is one taking, whose effect and whose situation stand here;
POWER_ON and RESTART beside them. -/

namespace Sys2Proof.Machine.Takings

open Sys2Proof Sys2Proof.Machine

/-! ## The effects of the commands -/

/-- A command with which the line brings a port what its receiver takes (R153 to R158). -/
def lineArrives (p : Port) (c : Instr) : Prop := endsWindow p c ∨ c = .unmarkedFrameDropped p ∨ c = .longFrame p

/-- The effect of a line port's command, with the situation in which the command has it (R153 to R164). -/
inductive LineWork (p : Port) (s : State) : Instr → (State → State) → Prop
  | interrupted {c : Instr} : txActive s p = true → lineArrives p c → LineWork p s c (txSymbolError p)
  | opened : txActive s p = false → (s.port p).rx = .idle →
      LineWork p s (.frameStart p) fun s => (s.setRx p (if ignoresFloor s p then .ignoring else .receiving [])).setLineIdle p false
  | faulty {c : Instr} (k : LineCounter) : txActive s p = false → (∀ w, (s.port p).rx ≠ .markWindow w) ∨ endsWindow p c →
      lineArrives p c → LineWork p s c (receiverError p k)
  | checked (had bits : List Bool) : txActive s p = false → (s.port p).rx = .receiving had →
      LineWork p s (.endOfData p bits) (closeData p (had ++ bits))
  | recorded (mark : Byte) : (s.port p).tx.phase = .awaitMarks → LineWork p s (.markByte p mark) (recordMark p mark)
  | gathered (w : Window) (mark : Byte) : (s.port p).tx.phase ≠ .awaitMarks → (s.port p).rx = .markWindow w →
      LineWork p s (.markByte p mark) (gatherMark p w mark)
  | dropped (w : Window) : txActive s p = false → (s.port p).rx = .markWindow w → w.answer ≠ .marked →
      LineWork p s (.unmarkedFrameDropped p) fun s => endWindow p w (s.setRx p .idle)
  | unignored : txActive s p = false → (s.port p).rx = .ignoring → LineWork p s (.unmarkedFrameDropped p) fun s => s.setRx p .idle
  | broken : LineWork p s (.breakPulse p) (breakEffect p)
  | idled : txActive s p = false → (s.port p).rx = .idle ∨ (s.port p).rx = .waitIdle ∨ (s.port p).rx = .ignoring →
      LineWork p s (.lineIdle p) fun s => (s.setRx p .idle).setLineIdle p true
  | chosen : mayChoose (s.port p) = true → (chooseFrame (s.port p)).isSome = true →
      LineWork p s (.currentFrameChoice p) (chooseCurrent p)
  | started : mayStart (s.port p) = true → LineWork p s (.transmitStart p) (startSending p)
  | lost (bit : Nat) : mayLose (s.port p) bit = true → LineWork p s (.arbitrationLost p bit) (loseArbitration p bit)
  | headed : (s.port p).tx.phase = .arbitrating → LineWork p s (.headerSent p) (sendBody p)
  | clashes : (s.port p).tx.phase = .sending → LineWork p s (.sendClash p) (clashed p)
  | sent : (s.port p).tx.phase = .sending → LineWork p s (.dataSent p) (dataGone p)
  | closed : (s.port p).tx.phase = .awaitMarks → LineWork p s (.windowClose p) (closeWindow p)

/-- The effect of an expiry, with the state whose timer it is (R87, R94, R103, R133, R148). -/
inductive Expiry (s : State) : Instr → (State → State) → Prop
  | delay : s.safe.lock = .delay → Expiry s .delayExpiry delayExpired
  | window : s.safe.lock = .window → Expiry s .windowExpiry windowExpired
  | relock : s.safe.lock = .unlocked → Expiry s .relockExpiry relockExpired
  | countIdle (x : Fin 4) : s.sessions[x].state = .counting → Expiry s (.countIdleExpiry x.val) (suspendSession x)
  | exchange : s.call.phase = .exchange → Expiry s .exchangeTimeout (abortHandover .timedOut)
  | sign : s.call.phase = .signing → Expiry s .signTimeout (abortHandover .timedOut)
  | clock : Expiry s .dayClockAdvance advanceClock

/-- The effect of a command of the trunk that is no request of a known code (R178, R188 to R191). -/
inductive TrunkWork (s : State) : Instr → (State → State) → Prop
  | received (chars : List Byte) : TrunkWork s (.trunkFrameReceived chars) (receiveTrunk chars)
  | holds (asserted : Bool) : TrunkWork s (.trunkHoldInput asserted) (holdInput asserted)
  | started : trunkReady s = true → TrunkWork s .trunkFrameStart startTrunk
  | ended (x : Sending) : s.trunk.sending = some x → TrunkWork s .trunkFrameSent (endTrunk x)
  | sends {tag : Word16} {port pb kind dest : Byte} {body : List Byte} {rest : List TrunkEntry} : s.trunk.reply = none →
      s.trunk.sendWaits = false → s.trunk.buffer = .send tag port pb kind dest body :: rest →
      TrunkWork s .send (sendRule tag port pb kind dest body)
  | unknown {tag : Word16} {code : Byte} {fields : List Byte} {rest : List TrunkEntry} : s.trunk.reply = none →
      s.trunk.sendWaits = false → s.trunk.buffer = .request tag code fields :: rest →
      TrunkWork s .requestUnknown fun s => answerRequest tag code .unknownKind none [] (popRequest s)

/-- The request commands but RESTART: code, form and rule (R190). -/
inductive Request : Instr → Byte → (State → List Byte → Bool) → (List Byte → State → State × Result) → Prop
  | tableSelect : Request .tableSelect 0x10 anyForm runTableSelect
  | tableGet : Request .tableGet 0x12 anyForm runTableGet
  | tablePut : Request .tablePut 0x11 (fun s _ => notWritable s) runTablePut
  | putDenom : Request .tablePutDenom 0x11 (writesTable .denom) runPutDenom
  | putNode : Request .tablePutNode 0x11 (writesTable .node) runPutNode
  | putWitness : Request .tablePutWitness 0x11 (writesTable .witness) runPutWitness
  | putTill : Request .tablePutTill 0x11 (writesTable .till) runPutTill
  | putTiming : Request .tablePutTiming 0x11 (writesTable .timing) runPutTiming
  | putRing : Request .tablePutRing 0x11 (writesTable .ring) runPutRing
  | status : Request .status 0x18 anyForm runStatus
  | eventsRead : Request .eventsRead 0x20 anyForm runEventsRead
  | clearEvents : Request .clearEvents 0x21 anyForm runClearEvents
  | eventEnable : Request .eventEnable 0x22 anyForm runEventEnable
  | tallyRead : Request .tallyRead 0x28 (fun s x => !asksClear s x) runTallyRead
  | tallyReadClear : Request .tallyReadClear 0x28 asksClear runTallyRead
  | dayOpen : Request .dayOpen 0x30 anyForm runDayOpen
  | dayTrade : Request .dayTrade 0x31 anyForm runDayTrade
  | dayClose : Request .dayClose 0x32 (fun s x => !asksForce s x) runDayClose
  | dayCloseForce : Request .dayCloseForce 0x32 asksForce runDayClose
  | setClock : Request .setClock 0x33 anyForm runSetClock
  | consignHand : Request .consignHand 0x38 anyForm runConsignHand
  | consignRecall : Request .consignRecall 0x39 anyForm runConsignRecall
  | hatchRelease : Request .hatchRelease 0x3A anyForm runHatchRelease
  | orderCancel : Request .orderCancel 0x40 anyForm runOrderCancel
  | safeRelease : Request .safeRelease 0x41 anyForm runSafeRelease
  | stockSet : Request .stockSet 0x48 anyForm runStockSet
  | suspectRelease : Request .suspectRelease 0x49 anyForm runSuspectRelease
  | tillSuspend : Request .tillSuspend 0x50 anyForm runTillSuspend

/-- A request taken from the head of the buffer, executed and answered, before the end of its taking (R190). -/
def answered (run : List Byte → State → State × Result) (tag : Word16) (code : Byte) (fields : List Byte) (s : State) : State :=
  answerRequest tag code (run fields (popRequest s)).2.code (run fields (popRequest s)).2.detail (run fields (popRequest s)).2.data
    (run fields (popRequest s)).1

/-- The effect of a command's taking, with its situation. -/
inductive Taking (s : State) : Instr → (State → State) → Prop
  | line {p : Port} {c : Instr} {f : State → State} : LineWork p s c f → Taking s c f
  | frame (p : Port) (w : Window) : markedWindow s p = some w →
      Taking s (frameCommand w.frame p) fun s => takeFrame (w.taken p) (s.setRx p .idle)
  | placed : commandPlaceable s = true → Taking s .safeCommandPlaced placeSafeCommand
  | expiry {c : Instr} {f : State → State} : Expiry s c f → Taking s c f
  | trunk {c : Instr} {f : State → State} : TrunkWork s c f → Taking s c f
  | request {c : Instr} {code : Byte} {variant : State → List Byte → Bool} {run : List Byte → State → State × Result} (tag : Word16)
      (fields : List Byte) (rest : List TrunkEntry) : Request c code variant run → s.trunk.reply = none → s.trunk.sendWaits = false →
      s.trunk.buffer = .request tag code fields :: rest → Taking s c (answered run tag code fields)

/-! ## A command is a taking -/

section
variable {s t : State} {c : Instr}

/-- An outcome of a command: a next state, the old one or the one that a taking leaves. -/
def Takes (s : State) (c : Instr) (o : Host.Outcome State Fault Refusal) : Prop :=
  ∃ t, o = .next t ∧ (t = s ∨ ∃ f, Taking s c f ∧ t = settle s (f s))

theorem takes_stay : Takes s c (.next s) := ⟨s, rfl, .inl rfl⟩

theorem takes_taking {f : State → State} (h : Taking s c f) : Takes s c (taking f s) := ⟨_, rfl, .inr ⟨f, h, rfl⟩⟩

theorem takes_takingIf {b : Bool} {f : State → State} (h : b = true → Taking s c f) : Takes s c (takingIf b f s) := by
  unfold takingIf
  split
  · exact takes_taking (h ‹_›)
  · exact takes_stay

theorem takes_line {p : Port} {f : State → State} (h : LineWork p s c f) : Takes s c (taking f s) := takes_taking (.line h)

theorem startArrives_takes (p : Port) (s : State) : Takes s (.frameStart p) (startArrives p s) := by
  unfold startArrives
  split
  · next h => exact takes_line (.interrupted h (by simp [lineArrives, endsWindow]))
  · next h =>
    have hidle := Bool.eq_false_iff.mpr h
    split
    case h_1 hrx => exact takes_line (.opened hidle hrx)
    case h_2 | h_3 => exact takes_line (.faulty _ hidle (.inr (by simp [endsWindow])) (by simp [lineArrives, endsWindow]))
    case h_4 | h_5 => exact takes_stay

theorem endOfDataArrives_takes (p : Port) (bits : List Bool) (s : State) :
    Takes s (.endOfData p bits) (endOfDataArrives p bits s) := by
  unfold endOfDataArrives
  split
  · next h => exact takes_line (.interrupted h (by simp [lineArrives, endsWindow]))
  · next h =>
    have hidle := Bool.eq_false_iff.mpr h
    split
    case h_1 hrx => exact takes_line (.checked _ bits hidle hrx)
    case h_2 | h_3 => exact takes_line (.faulty _ hidle (.inr (by simp [endsWindow])) (by simp [lineArrives, endsWindow]))
    case h_4 | h_5 => exact takes_stay

theorem markArrives_takes (p : Port) (mark : Byte) (s : State) : Takes s (.markByte p mark) (markArrives p mark s) := by
  unfold markArrives
  split
  · next h => exact takes_line (.recorded mark h)
  · next h =>
    split
    case h_1 hrx => exact takes_line (.gathered _ mark h hrx)
    all_goals exact takes_stay

theorem endOfFrameArrives_takes (p : Port) (s : State) : Takes s (.unmarkedFrameDropped p) (endOfFrameArrives p s) := by
  unfold endOfFrameArrives
  split
  · next h => exact takes_line (.interrupted h (by simp [lineArrives, endsWindow]))
  · next h =>
    have hidle := Bool.eq_false_iff.mpr h
    split
    case h_1 hrx =>
      split
      · exact takes_stay
      · next hanswer => exact takes_line (.dropped _ hidle hrx hanswer)
    case h_2 hrx => exact takes_line (.unignored hidle hrx)
    case h_3 hrx | h_4 hrx => exact takes_line (.faulty _ hidle (.inl fun w => by rw [hrx]; exact nofun) (by simp [lineArrives]))
    case h_5 => exact takes_stay

theorem symbolErrorArrives_takes (p : Port) (x : LineSymbol) (s : State) :
    Takes s (.symbolError p x) (symbolErrorArrives p x s) := by
  unfold symbolErrorArrives
  split
  · next h => exact takes_takingIf fun _ => .line (.interrupted h (by simp [lineArrives, endsWindow]))
  · next h => exact takes_takingIf fun _ => .line (.faulty _ (Bool.eq_false_iff.mpr h) (.inr (by simp [endsWindow])) (by simp [lineArrives, endsWindow]))

theorem framingErrorArrives_takes (p : Port) (x : LineSymbol) (incomplete : Bool) (s : State) :
    Takes s (.framingError p x incomplete) (framingErrorArrives p x incomplete s) :=
  takes_takingIf fun h => by
    rw [Bool.and_eq_true, Bool.not_eq_true'] at h
    exact .line (.faulty _ h.1 (.inr (by simp [endsWindow])) (by simp [lineArrives, endsWindow]))

theorem longFrameArrives_takes (p : Port) (s : State) : Takes s (.longFrame p) (longFrameArrives p s) :=
  takes_takingIf fun h => by
    rw [Bool.and_eq_true, Bool.not_eq_true'] at h
    exact .line (.faulty _ h.1 (.inl fun w hrx => by
      rw [hrx] at h
      cases h.2) (by simp [lineArrives]))

theorem idleArrives_takes (p : Port) (s : State) : Takes s (.lineIdle p) (idleArrives p s) := by
  unfold idleArrives
  split
  · exact takes_stay
  · next h =>
    have hidle := Bool.eq_false_iff.mpr h
    split
    case h_1 hrx => exact takes_line (.idled hidle (.inl hrx))
    case h_2 hrx => exact takes_line (.idled hidle (.inr (.inl hrx)))
    case h_3 hrx => exact takes_line (.idled hidle (.inr (.inr hrx)))
    case h_4 | h_5 => exact takes_line (.faulty _ hidle (.inr (by simp [endsWindow])) (by simp [lineArrives, endsWindow]))

/-! ## The command of a marked frame (R156, R171) -/

theorem ofByte_of_isJob {k : JobKind} {f : LineFrame} (h : isJob k f = true) :
    opaqueKind f.kind = false ∧ JobKind.ofByte f.kind = some k := by
  have hkind : f.kind = k.byte := by simpa [isJob] using h
  rw [hkind]
  constructor <;> cases k <;> rfl

theorem deliver_takes {p : Port} {isKind : LineFrame → Bool} {s : State}
    (h : ∀ f, isKind f = true → frameCommand f p = c) : Takes s c (deliver p isKind s) := by
  rcases deliver_cases p isKind s with hstay | ⟨w, hrx, hmarked, hkind, htaken⟩
  · rw [hstay]
    exact takes_stay
  · rw [htaken, ← h _ hkind]
    exact ⟨_, rfl, .inr ⟨_, .frame p w (markedWindow_some.mpr ⟨hrx, hmarked⟩), rfl⟩⟩

theorem job_takes {p : Port} {k : JobKind} {s : State}
    (h : ∀ f, opaqueKind f.kind = false → JobKind.ofByte f.kind = some k → frameCommand f p = c) :
    Takes s c (deliver p (isJob k) s) :=
  deliver_takes fun f hf => h f (ofByte_of_isJob hf).1 (ofByte_of_isJob hf).2

theorem makeUpFloat_takes (p : Port) (s : State) : Takes s (.makeUpFloat p) (execMakeUpFloat p s) :=
  deliver_takes fun f hf => by
    simp only [isConsignment, Bool.and_eq_true, Bool.not_and, Bool.or_eq_true, Bool.not_eq_true'] at hf
    obtain ⟨hjob, hother⟩ := hf
    obtain ⟨hopaque, hbyte⟩ := ofByte_of_isJob hjob
    have hhead : ¬f.body.head? = some 1#8 := by simpa [hjob] using hother
    simp [frameCommand, hopaque, hbyte, hhead]

theorem makeUpConsignment_takes (p : Port) (s : State) : Takes s (.makeUpConsignment p) (execMakeUpConsignment p s) :=
  deliver_takes fun f hf => by
    simp only [isConsignment, Bool.and_eq_true] at hf
    obtain ⟨hopaque, hbyte⟩ := ofByte_of_isJob hf.1
    have hhead : f.body.head? = some 1#8 := by simpa using hf.2
    simp [frameCommand, hopaque, hbyte, hhead]

theorem doorOpen_takes (p : Port) (s : State) : Takes s (.doorOpen p) (execDoorOpen p s) :=
  deliver_takes fun f hf => by
    simp only [isDoorClosed, Bool.and_eq_true, Bool.not_and, Bool.or_eq_true, Bool.not_eq_true'] at hf
    obtain ⟨hjob, hother⟩ := hf
    obtain ⟨hopaque, hbyte⟩ := ofByte_of_isJob hjob
    have hbody : ¬f.body = [1#8] := by simpa [hjob] using hother
    simp [frameCommand, hopaque, hbyte, hbody]

theorem doorClosed_takes (p : Port) (s : State) : Takes s (.doorClosed p) (execDoorClosed p s) :=
  deliver_takes fun f hf => by
    simp only [isDoorClosed, Bool.and_eq_true] at hf
    obtain ⟨hopaque, hbyte⟩ := ofByte_of_isJob hf.1
    have hbody : f.body = [1#8] := by simpa using hf.2
    simp [frameCommand, hopaque, hbyte, hbody]

theorem unknownKind_takes (p : Port) (s : State) : Takes s (.unknownKindFrame p) (execUnknownKindFrame p s) :=
  deliver_takes fun f hf => by
    simp only [isUnknown, Bool.and_eq_true, Bool.not_eq_true', Option.isNone_iff_eq_none] at hf
    obtain ⟨hopaque, hbyte⟩ := hf
    simp [frameCommand, hopaque, hbyte]

theorem opaqueFrame_takes (p : Port) (s : State) : Takes s (.opaqueFrame p) (execOpaqueFrame p s) :=
  deliver_takes fun f hf => by simp [frameCommand, hf]

/-! ## Requests, the trunk, the timers -/

theorem Request.exec_eq {code : Byte} {variant : State → List Byte → Bool} {run : List Byte → State → State × Result}
    (h : Request c code variant run) (s : State) : exec c s = takeRequest settle code variant run s := by
  cases h <;> rfl

theorem Request.takes {code : Byte} {variant : State → List Byte → Bool} {run : List Byte → State → State × Result}
    (h : Request c code variant run) (s : State) : Takes s c (exec c s) := by
  rw [h.exec_eq s]
  rcases takeRequest_cases settle code variant run s with hstay | ⟨tag, fields, rest, hreply, hwaits, hbuffer, -, htaken⟩
  · rw [hstay]
    exact takes_stay
  · rw [htaken]
    exact ⟨_, rfl, .inr ⟨_, .request tag fields rest h hreply hwaits hbuffer, rfl⟩⟩

theorem takeSend_takes (s : State) : Takes s .send (takeSend s) := by
  unfold takeSend
  split
  · next hreply hwaits hbuffer => exact takes_taking (.trunk (.sends hreply hwaits hbuffer))
  · exact takes_stay

theorem takeUnknown_takes (s : State) : Takes s .requestUnknown (takeUnknown s) := by
  unfold takeUnknown
  split
  · next hreply hwaits hbuffer =>
    split
    · exact takes_stay
    · exact takes_taking (.trunk (.unknown hreply hwaits hbuffer))
  · exact takes_stay

theorem trunkFrameSent_takes (s : State) : Takes s .trunkFrameSent (execTrunkFrameSent s) := by
  unfold execTrunkFrameSent
  split
  · next h => exact takes_taking (.trunk (.ended _ h))
  · exact takes_stay

/-- The state in which an expiry takes effect. -/
theorem prop_of_due {q : Prop} [Decidable q] {b : Bool} (h : (decide q && b) = true) : q :=
  of_decide_eq_true ((Bool.and_eq_true _ _).mp h).1

theorem expiry_takes {b : Bool} {f : State → State} (h : b = true → Expiry s c f) : Takes s c (takingIf b f s) :=
  takes_takingIf fun hb => .expiry (h hb)

theorem countIdleExpiry_takes (n : Nat) (s : State) : Takes s (.countIdleExpiry n) (execCountIdleExpiry n s) := by
  unfold execCountIdleExpiry
  split
  · next x hx =>
    rw [inRange_some.mp hx]
    exact expiry_takes fun h => .countIdle x (prop_of_due h)
  · exact takes_stay

theorem phase_of_txIn {p : Port} {x : TxPhase} (h : txIn s p x = true) : (s.port p).tx.phase = x := by simpa [txIn] using h

/-! ## Every command -/

/-- Every command but POWER_ON and RESTART leaves the state or is a taking. -/
theorem exec_takes {c : Instr} (hpower : c ≠ .powerOn) (hrestart : c ≠ .restart) (s : State) : Takes s c (exec c s) := by
  cases c with
  | powerOn => exact absurd rfl hpower
  | restart => exact absurd rfl hrestart
  | frameStart p => exact startArrives_takes p s
  | endOfData p bits => exact endOfDataArrives_takes p bits s
  | markByte p mark => exact markArrives_takes p mark s
  | unmarkedFrameDropped p => exact endOfFrameArrives_takes p s
  | symbolError p symbol => exact symbolErrorArrives_takes p symbol s
  | framingError p symbol incomplete => exact framingErrorArrives_takes p symbol incomplete s
  | longFrame p => exact longFrameArrives_takes p s
  | breakPulse p => exact takes_line .broken
  | lineIdle p => exact idleArrives_takes p s
  | currentFrameChoice p =>
    exact takes_takingIf fun h => .line (.chosen ((Bool.and_eq_true _ _).mp h).1 ((Bool.and_eq_true _ _).mp h).2)
  | transmitStart p => exact takes_takingIf fun h => .line (.started h)
  | arbitrationLost p bit => exact takes_takingIf fun h => .line (.lost bit h)
  | headerSent p => exact takes_takingIf fun h => .line (.headed (phase_of_txIn h))
  | sendClash p => exact takes_takingIf fun h => .line (.clashes (phase_of_txIn h))
  | dataSent p => exact takes_takingIf fun h => .line (.sent (phase_of_txIn h))
  | windowClose p => exact takes_takingIf fun h => .line (.closed (phase_of_txIn h))
  | safeCommandPlaced => exact takes_takingIf fun h => .placed h
  | tender p | refund p | pickup p | cashup p | tillOpen p | floatReceipt p | declare p | restock p | drop p | withdraw p
  | deposit p | openRequest p | openCancel p | openConfirm p | bagOpen p | batch p | handKey p | bagClose p | countAbort p
  | announce p | load p | receive p | sign p => exact job_takes fun f hopaque hbyte => by simp [frameCommand, hopaque, hbyte]
  | makeUpFloat p => exact makeUpFloat_takes p s
  | makeUpConsignment p => exact makeUpConsignment_takes p s
  | doorOpen p => exact doorOpen_takes p s
  | doorClosed p => exact doorClosed_takes p s
  | opaqueFrame p => exact opaqueFrame_takes p s
  | unknownKindFrame p => exact unknownKind_takes p s
  | delayExpiry => exact expiry_takes fun h => .delay (prop_of_due h)
  | windowExpiry => exact expiry_takes fun h => .window (prop_of_due h)
  | relockExpiry => exact expiry_takes fun h => .relock (prop_of_due h)
  | countIdleExpiry n => exact countIdleExpiry_takes n s
  | exchangeTimeout => exact expiry_takes fun h => .exchange (prop_of_due h)
  | signTimeout => exact expiry_takes fun h => .sign (prop_of_due h)
  | dayClockAdvance => exact expiry_takes fun _ => .clock
  | trunkFrameReceived chars => exact takes_taking (.trunk (.received chars))
  | trunkHoldInput asserted => exact takes_taking (.trunk (.holds asserted))
  | trunkFrameStart => exact takes_takingIf fun h => .trunk (.started h)
  | trunkFrameSent => exact trunkFrameSent_takes s
  | send => exact takeSend_takes s
  | requestUnknown => exact takeUnknown_takes s
  | tableSelect => exact Request.tableSelect.takes s
  | tableGet => exact Request.tableGet.takes s
  | tablePut => exact Request.tablePut.takes s
  | tablePutDenom => exact Request.putDenom.takes s
  | tablePutNode => exact Request.putNode.takes s
  | tablePutWitness => exact Request.putWitness.takes s
  | tablePutTill => exact Request.putTill.takes s
  | tablePutTiming => exact Request.putTiming.takes s
  | tablePutRing => exact Request.putRing.takes s
  | status => exact Request.status.takes s
  | eventsRead => exact Request.eventsRead.takes s
  | clearEvents => exact Request.clearEvents.takes s
  | eventEnable => exact Request.eventEnable.takes s
  | tallyRead => exact Request.tallyRead.takes s
  | tallyReadClear => exact Request.tallyReadClear.takes s
  | dayOpen => exact Request.dayOpen.takes s
  | dayTrade => exact Request.dayTrade.takes s
  | dayClose => exact Request.dayClose.takes s
  | dayCloseForce => exact Request.dayCloseForce.takes s
  | setClock => exact Request.setClock.takes s
  | consignHand => exact Request.consignHand.takes s
  | consignRecall => exact Request.consignRecall.takes s
  | hatchRelease => exact Request.hatchRelease.takes s
  | orderCancel => exact Request.orderCancel.takes s
  | safeRelease => exact Request.safeRelease.takes s
  | stockSet => exact Request.stockSet.takes s
  | suspectRelease => exact Request.suspectRelease.takes s
  | tillSuspend => exact Request.tillSuspend.takes s

/-- RESTART leaves the state, or restarts (R195). -/
theorem restart_takes (s : State) : exec .restart s = .next s ∨ ∃ tag fields rest, s.trunk.reply = none ∧ s.trunk.sendWaits = false ∧
    s.trunk.buffer = .request tag 0x5F fields :: rest ∧
    exec .restart s = .next (settleRestart s (answered runRestart tag 0x5F fields s)) := by
  rcases takeRequest_cases settleRestart 0x5F anyForm runRestart s with
    hstay | ⟨tag, fields, rest, hreply, hwaits, hbuffer, -, htaken⟩
  · exact .inl hstay
  · exact .inr ⟨tag, fields, rest, hreply, hwaits, hbuffer, htaken⟩

/-- What a command does: nothing, one taking, a restart, or a power-on. -/
theorem exec_cases (h : exec c s = .next t) : t = s ∨ (∃ f, Taking s c f ∧ t = settle s (f s)) ∨
    (c = .restart ∧ ∃ tag fields rest, s.trunk.reply = none ∧ s.trunk.sendWaits = false ∧
      s.trunk.buffer = .request tag 0x5F fields :: rest ∧ t = settleRestart s (answered runRestart tag 0x5F fields s)) ∨
    (c = .powerOn ∧ t = (State.reset.setPending s.pending).setDraws s.draws) := by
  by_cases hpower : c = .powerOn
  · subst hpower
    exact .inr (.inr (.inr ⟨rfl, (Host.Outcome.next.inj h).symm⟩))
  by_cases hrestart : c = .restart
  · subst hrestart
    rcases restart_takes s with hstay | ⟨tag, fields, rest, hreply, hwaits, hbuffer, htaken⟩
    · rw [hstay] at h
      exact .inl (Host.Outcome.next.inj h).symm
    · rw [htaken] at h
      exact .inr (.inr (.inl ⟨rfl, tag, fields, rest, hreply, hwaits, hbuffer, (Host.Outcome.next.inj h).symm⟩))
  · obtain ⟨u, hu, hstay | htaken⟩ := exec_takes hpower hrestart s
    · rw [hu] at h
      exact .inl (hstay ▸ (Host.Outcome.next.inj h).symm)
    · rw [hu] at h
      exact .inr (.inl (Host.Outcome.next.inj h ▸ htaken))

end

end Sys2Proof.Machine.Takings

/-! PROOF. What every command does whatever it is: it answers a next state, it leaves the queue of waiting commands, and it ends with the events
settled. -/

namespace Sys2Proof.Machine.Takings

open Sys2Proof Sys2Proof.Machine

/-! ## A step is a command or a second -/

/-- A property that every command keeps, and that reads neither the queue of waiting commands nor the seconds timer, is kept by a step. -/
theorem step_keeps {P : State → Prop} (hpending : ∀ s x, P s → P (s.setPending x)) (hsecond : ∀ s n, P s → P (s.setSeconds n))
    (hexec : ∀ {c s t}, exec c s = .next t → P s → P t) {s t : State} (h : step s = .next t) (hs : P s) : P t := by
  unfold step at h
  split at h
  · exact hexec h (hpending _ _ hs)
  · rw [← Host.Outcome.next.inj h]
    exact hpending _ _ (hsecond _ _ hs)

/-! ## The end of a taking settles the events (R181, R183) -/

/-- The events are settled at the end of a taking, whatever it has done. -/
theorem settleEvents_settled (s : State) : Settled (settleEvents s) := by
  refine ⟨settleEvents_vector s, fun e he => ?_⟩
  have hl := settleEvents_leaves s
  rw [settleEvents_event]
  exact (pendingCondition_congr (hl .drawers (by decide)) (hl .tallies (by decide)) (hl .timing (by decide)) he).symm

theorem reset_settled : Settled State.reset := by
  refine ⟨by decide +kernel, fun e he => ?_⟩
  have hsources : ∀ e ∈ Event.all, e.indirect = true → (State.reset.event e).pending = pendingCondition State.reset e := by
    decide +kernel
  exact hsources e (Event.mem_all e) he

theorem exec_settled {c : Instr} {s t : State} (h : exec c s = .next t) (hs : Settled s) : Settled t := by
  rcases exec_cases h with rfl | ⟨f, -, rfl⟩ | ⟨-, tag, fields, rest, -, -, -, rfl⟩ | ⟨-, rfl⟩
  · exact hs
  · exact settleEvents_settled _
  · exact settleEvents_settled _
  · exact reset_settled

/-- Settles O5: every taking ends with `settleEvents`. -/
theorem stepKeepsSettled : Obligations.StepKeepsSettled :=
  fun _ _ hs h => step_keeps (fun _ _ h => h) (fun _ _ h => h) exec_settled h hs

end Sys2Proof.Machine.Takings

/-! PROOF. What the blocks of the part do, once for every command: each rule is a run of moves, one move a change that keeps what the blocks rest on.
An invariant of the whole part then needs one argument for each move, and none for each command. -/

namespace Sys2Proof.Machine.Effects

open Sys2Proof Sys2Proof.Machine

/-! ## The moves of the blocks -/

/-- What a run of moves may be allowed to do beside the rest: take a bag out of the safe, unlock the safe, work at the lines, work at the trunk, load a bag,
abort a call, hand a slot, put a bag into the safe, and the receipts and restocks of the job frames; the last three
name changes of a record that every run may make. -/
inductive Passage where
  | withdrawal | unlocking | ports | trunk | loading | aborting | handing | entering | jobs | counting | signing | unpinning
  deriving DecidableEq

/-- The parts that no invariant of the blocks reads. -/
def quietParts : List Part := [.tills, .tallies, .nodes, .witness, .timing, .pointer, .events, .vector, .attention, .draws]

/-- The parts at which the lines and the trunk work. -/
def portParts : List Part := [.floor, .room, .uplink, .trunk, .events, .attention, .draws]

/-- The parts at which the lines work. -/
def lineParts : List Part := [.floor, .room, .uplink, .events, .draws]

/-- No queue of a port holds more than its places (R161, R178). -/
def PortFits (p : Port) (q : LinePort) : Prop :=
  q.out.reserved + q.out.filled.length ≤ Config.outgoingPlaces ∧ q.down.length ≤ downlinkPlaces p

/-- No queue of the lines and the trunk holds more than its places (R161, R176, R178, R189). -/
def Places (s : State) : Prop :=
  (∀ p : Port, PortFits p (s.port p)) ∧ s.uplink.reserved + s.uplink.filled.length ≤ Config.uplinkPlaces ∧
    s.trunk.buffer.length ≤ Config.bufferPlaces

/-- A port with frames put behind those that wait. -/
def PortGrows (q r : LinePort) : Prop :=
  ∃ more down, r = { q with out := { reserved := q.out.reserved, filled := q.out.filled ++ more }, down := q.down ++ down }

/-- Both ports with frames put behind those that wait, and the reserved places as they were. -/
def LinesGrow (s t : State) : Prop := (∀ p : Port, PortGrows (s.port p) (t.port p)) ∧ t.uplink.reserved = s.uplink.reserved

/-- Expected cash is the sum of the movements while the saturated flag is clear (R46). -/
def DrawerAgrees (d : Drawer) : Prop :=
  d.saturated = false → d.expected = (d.floatDelivered : Int) + d.netTendered - d.refunds - d.pickups - d.cashup

/-- A lock timer runs in DELAY, WINDOW and UNLOCKED and in no other lock state (R85). -/
def SafeTimed (x : Safe) : Prop := x.timer.isSome = true ↔ x.lock = .delay ∨ x.lock = .window ∨ x.lock = .unlocked

/-- One change of the blocks, with what its rule has checked before it. -/
inductive Move (A : Passage → Prop) (s : State) : State → Prop
  | quiet {t : State} : unchangedBut quietParts s t → Move A s t
  | ports {t : State} : A .ports → unchangedBut lineParts s t → (Places s → Places t) → Move A s t
  | trunk {t : State} : A .trunk → unchangedBut portParts s t → (Places s → Places t) → LinesGrow s t → Move A s t
  | place {t : State} (p : Port) (f : LineFrame) : placeOut p f s = some t → Move A s t
  | drawers (v : Vector Drawer 160) : (∀ t : Fin 160, DrawerAgrees s.drawers[t] → DrawerAgrees v[t]) → Move A s (s.setDrawers v)
  | lock (x : Safe) : x.inventory = s.safe.inventory → (SafeTimed s.safe → SafeTimed x) →
      (x.lock = .unlocked → s.safe.lock = .unlocked ∨ A .unlocking) → Move A s (s.setSafe x)
  | day (x : Day) : (s.day.clock ≤ 1439 → x.clock ≤ 1439) → (s.day.number ≤ 65535 → x.number ≤ 65535) → Move A s (s.setDay x)
  | openBooks : Move A s (openAccumulators s)
  | denom {t : State} (c : Fin 12) (d : Denom) : putDenom c d s = .ok t → Move A s t
  | stockSet (c : Fin 12) (loose straps : Nat) : s.denoms[c].enabled = true →
      s.stock[c].reserved ≤ loose + straps * s.denoms[c].strap → Move A s (setStockCounts c loose straps s)
  | suspectRelease (c : Fin 12) (n : Nat) : Move A s (s.setStock (put s.stock c { s.stock[c] with suspect := s.stock[c].suspect - n }))
  | newBag (b : Bag) : createCheck s b.sealNo b.declared = none → b.kind.counted = true → b.state = .sealed ∨ b.state = .received →
      b.pin = none → b.session = none → Move A s (addBag b s)
  | newOrder (i : Fin 24) (o : Order) : s.orders[i].state = .free → o.state = .pending → o.issueValue = s.valueOf o.issue →
      (∀ c : Fin 12, o.issue[c] ≤ s.freeOf c) → Move A s (reserve o.issue (setOrder i o s))
  | cancel (i : Fin 24) : s.orders[i].state = .pending → Move A s (freeOrder i .cancelled (release s.orders[i].issue s))
  | makeUp (i : Fin 24) (n : Nat) : s.orders[i].state = .pending → createCheck s n s.orders[i].issueValue = none →
      Move A s (makeUpOrder i n s)
  | consign (n : Nat) (counts : Vector Nat 12) : EnabledOnly s counts →
      (∀ c : Fin 12, counts[c] ≤ s.freeOf c ∧
        (s.denoms[c].enabled = true → counts[c] % s.denoms[c].strap = 0 ∧ counts[c] / s.denoms[c].strap ≤ s.stock[c].straps)) →
      createCheck s n (s.valueOf counts) = none →
      Move A s (addBag (Machine.newBag s .consignment .madeUp n (s.valueOf counts) none none (some counts))
        (drawStraps counts (s.valueOf counts) s))
  | restock {n : Nat} {b b' : Bag} : A .jobs → findBag s n = some b → moveRestock s.seconds b = .ok b' →
      firstRefused s (Vector.ofFn fun c => b.countOf c) = none → Move A s (restockBag b b' s)
  | receipt {n : Nat} {b b' : Bag} : A .jobs → findBag s n = some b → moveReceipt s.seconds b = .ok b' →
      Move A s (match b.order with
        | some i => freeOrder i .done (changeBag n (fun _ => b') s)
        | none => changeBag n (fun _ => b') s)
  | enter (op : SafeOp) (way : EntryWay) (node : Byte) {n : Nat} {b b' : Bag} : A .entering → findBag s n = some b →
      moveDrop s.seconds b = .ok b' ∨ moveDeposit s.seconds b = .ok b' → s.safe.inventory.length < Config.safeCapacity →
      Move A s (acceptEntry op way b' node s)
  | withdraw (node : Byte) {n : Nat} {b b' : Bag} : A .withdrawal → findBag s n = some b → moveWithdraw s.call s.seconds b = .ok b' →
      Move A s (recordOp .withdraw n node b'.state b'.state.code (leaveSafe n (changeBag n (fun _ => b') s)))
  | openCount (x : Fin 4) (node : Byte) {n : Nat} {b b' : Bag} : s.sessions[x].state = .idle → findBag s n = some b →
      moveOpen x s.seconds b = .ok b' →
      Move A s (setSession x { Session.reset with
          state := .counting, bag := n, kind := b.kind, declared := b.declared, node := node, timer := idleDeadline s }
        (changeBag n (fun _ => b') s))
  | resume (x : Fin 4) (node : Byte) : s.sessions[x].state = .suspended →
      Move A s (setSession x { s.sessions[x] with state := .counting, node := node, timer := idleDeadline s }
        (askRegister s.sessions[x].bag (moveOpen x s.seconds) s))
  | session (x : Fin 4) (v : Session) : v.state = s.sessions[x].state → v.bag = s.sessions[x].bag →
      (v.timer.isSome = s.sessions[x].timer.isSome ∨ v.state = .counting ∧ v.timer.isSome = true) →
      (v.state ≠ .idle → EnabledOnly s s.sessions[x].accepted → EnabledOnly s v.accepted) →
      (v.state ≠ .idle → EnabledOnly s s.sessions[x].suspect → EnabledOnly s v.suspect) → Move A s (setSession x v s)
  | suspend (x : Fin 4) : s.sessions[x].state = .counting →
      Move A s (setSession x { s.sessions[x] with state := .suspended, timer := none }
        (askRegister s.sessions[x].bag (moveSuspend s.seconds) s))
  | abort (x : Fin 4) : s.sessions[x].state ≠ .idle → Move A s (abortSession x s)
  | count (x : Fin 4) (variance : Int) (cls : BagClass) {b b' : Bag} : s.sessions[x].state = .counting →
      closeRefused s s.sessions[x].accepted s.sessions[x].suspect = none → findBag s s.sessions[x].bag = some b →
      moveClose x (s.valueOf s.sessions[x].accepted) (s.valueOf s.sessions[x].suspect) variance cls s.seconds b = .ok b' →
      Move A s (setSession x Session.reset (changeBag s.sessions[x].bag (fun _ => b')
        (applyClose s.sessions[x].accepted s.sessions[x].suspect (s.valueOf s.sessions[x].accepted) s)))
  | slot (i : Fin 16) (d : Descriptor) : d.owner = s.ring[i].owner → (s.ring[i].owner = .office ∨ d.outbound = s.ring[i].outbound) →
      Move A s (setSlot i d s)
  | passDay : Move A s (Machine.passDay s)
  | hand (i : Fin 16) : A .handing → s.ring[i].owner = .office → pinCheck s [] s.ring[i].outbound = none → Move A s (handSlot i s)
  | recallSlot (i : Fin 16) : s.ring[i].owner = .part → s.call.activeOn i = false → Move A s (Machine.recallSlot i s)
  | returnHead (r : CallResult) : s.call.phase = .idle ∨ s.call.slot = none → s.head.owner = .part →
      Move A s (returnSlot s.call.next r s)
  | refused (k : Nat) : Move A s (s.setCall { s.call with refused := k })
  | announce : s.call.phase = .idle ∨ s.call.slot = none → s.head.owner = .part → Move A s (acceptCourier s)
  | load {n : Nat} {b b' : Bag} (i : Fin 16) : A .loading → s.activeSlot = some i → n ∈ s.ring[i].outbound → findBag s n = some b →
      moveLoad s.seconds b = .ok b' → Move A s (afterLoad i (changeBag n (fun _ => b') s))
  | hatchRelease {n : Nat} {b b' : Bag} : findBag s n = some b → moveHatchRelease s.seconds b = .ok b' →
      Move A s (changeBag n (fun _ => b') s)
  | abortCall (i : Fin 16) (r : CallResult) : A .aborting → s.call.phase ≠ .idle → s.call.slot = some i →
      Move A s (endSession (returnSlot i r (flagUnsigned s.ring[i].received (abortBags s.ring[i].outbound s))))
  | sign (i : Fin 16) (d : Descriptor) (r : CallResult) {u : State} : s.call.phase = .signing → s.call.slot = some i →
      unchangedBut [.events] (signBags s.ring[i].outbound s) u → Move A s (endSession (returnSlot i r (setSlot i d u)))
  | purge : s.day.state = .closing → closingConditions s = true → Move A s (Machine.purge s)

/-- A run of moves. -/
def Moves (A : Passage → Prop) : State → State → Prop := Relation.ReflTransGen (Move A)

/-! ## Runs of moves -/

section
variable {A B : Passage → Prop} {s t u : State}

theorem Moves.refl (A : Passage → Prop) (s : State) : Moves A s s := Relation.ReflTransGen.refl

theorem Moves.trans (h : Moves A s t) (k : Moves A t u) : Moves A s u := Relation.ReflTransGen.trans h k

theorem Move.run (h : Move A s t) : Moves A s t := Relation.ReflTransGen.single h

/-- A relation that is a preorder and holds of each move holds of a run. -/
theorem Moves.induct {R : State → State → Prop} (hrefl : ∀ s, R s s) (htrans : ∀ {s t u}, R s t → R t u → R s u)
    (hmove : ∀ {s t}, Move A s t → R s t) (h : Moves A s t) : R s t := by
  induction h with
  | refl => exact hrefl s
  | tail _ hlast ih => exact htrans ih (hmove hlast)

/-- A property that each move keeps is kept by a run. -/
theorem Moves.keeps {P : State → Prop} (hmove : ∀ {s t}, Move A s t → P s → P t) (h : Moves A s t) : P s → P t :=
  Moves.induct (R := fun s t => P s → P t) (fun _ => id) (fun h k => k ∘ h) hmove h

theorem Move.mono (hAB : ∀ x, A x → B x) (h : Move A s t) : Move B s t := by
  cases h with
  | quiet h => exact .quiet h
  | ports hp h hk => exact .ports (hAB _ hp) h hk
  | trunk hp h hk hg => exact .trunk (hAB _ hp) h hk hg
  | place p f h => exact .place p f h
  | drawers v h => exact .drawers v h
  | lock x hi ht hu => exact .lock x hi ht fun h => (hu h).imp id (hAB _)
  | day x hc hn => exact .day x hc hn
  | openBooks => exact .openBooks
  | denom c d h => exact .denom c d h
  | stockSet c l k he hr => exact .stockSet c l k he hr
  | suspectRelease c n => exact .suspectRelease c n
  | newBag b hc hk hs hp hx => exact .newBag b hc hk hs hp hx
  | newOrder i o hf ho hv hi => exact .newOrder i o hf ho hv hi
  | cancel i h => exact .cancel i h
  | makeUp i n h hc => exact .makeUp i n h hc
  | consign n v he hv hc => exact .consign n v he hv hc
  | restock ha hb hm hf => exact .restock (hAB _ ha) hb hm hf
  | receipt ha hb hm => exact .receipt (hAB _ ha) hb hm
  | enter op way node ha hb hm hl => exact .enter op way node (hAB _ ha) hb hm hl
  | withdraw node ha hb hm => exact .withdraw node (hAB _ ha) hb hm
  | openCount x node hx hb hm => exact .openCount x node hx hb hm
  | resume x node hx => exact .resume x node hx
  | session x v hs hb ht ha hu => exact .session x v hs hb ht ha hu
  | suspend x h => exact .suspend x h
  | abort x h => exact .abort x h
  | count x v c hx hr hb hm => exact .count x v c hx hr hb hm
  | slot i d ho hout => exact .slot i d ho hout
  | passDay => exact .passDay
  | hand i ha ho hp => exact .hand i (hAB _ ha) ho hp
  | recallSlot i ho ha => exact .recallSlot i ho ha
  | returnHead r hp ho => exact .returnHead r hp ho
  | refused k => exact .refused k
  | announce hp ho => exact .announce hp ho
  | load i hl ha hn hb hm => exact .load i (hAB _ hl) ha hn hb hm
  | hatchRelease hb hm => exact .hatchRelease hb hm
  | abortCall i r ha hp hs => exact .abortCall i r (hAB _ ha) hp hs
  | sign i d r hp hs hu => exact .sign i d r hp hs hu
  | purge hd hc => exact .purge hd hc

theorem Moves.mono (hAB : ∀ x, A x → B x) (h : Moves A s t) : Moves B s t :=
  Moves.induct (Moves.refl B) Moves.trans (fun h => (h.mono hAB).run) h

/-- A change of parts that no invariant of the blocks reads. -/
theorem Moves.quiet {ex : List Part} (h : unchangedBut ex s t) (hex : ∀ b ∈ ex, b ∈ quietParts := by decide) : Moves A s t :=
  (Move.quiet (unchangedBut_mono h hex)).run

/-- A change of parts at the lines. -/
theorem Moves.ports {ex : List Part} (hA : A .ports) (h : unchangedBut ex s t) (hplaces : Places s → Places t)
    (hex : ∀ b ∈ ex, b ∈ lineParts := by decide) : Moves A s t := (Move.ports hA (unchangedBut_mono h hex) hplaces).run

/-- A change of parts at the trunk. -/
theorem Moves.trunk {ex : List Part} (hA : A .trunk) (h : unchangedBut ex s t) (hplaces : Places s → Places t) (hgrow : LinesGrow s t)
    (hex : ∀ b ∈ ex, b ∈ portParts := by decide) : Moves A s t := (Move.trunk hA (unchangedBut_mono h hex) hplaces hgrow).run

theorem Moves.ite {a b : State} {c : Prop} [Decidable c] (h : c → Moves A s a) (k : ¬c → Moves A s b) :
    Moves A s (if c then a else b) := by
  split
  · exact h ‹_›
  · exact k ‹_›

theorem Moves.foldl {α : Type} {f : State → α → State} (h : ∀ s a, Moves A s (f s a)) (l : List α) (s : State) :
    Moves A s (l.foldl f s) := by
  induction l generalizing s with
  | nil => exact .refl A s
  | cons a l ih => exact (h s a).trans (ih _)

end

end Sys2Proof.Machine.Effects

/-! PROOF. Every job rule of a frame is a run of moves; only WITHDRAW needs the passage out of the safe, and only OPEN_CONFIRM the one that unlocks it. -/

namespace Sys2Proof.Machine.Effects

open Sys2Proof Sys2Proof.Machine

section
variable {A : Passage → Prop}

/-! ## Drawers (R46 to R51) -/

theorem setDrawer_moves {t : Fin 160} {d : Drawer} {s : State} (h : DrawerAgrees s.drawers[t] → DrawerAgrees d) :
    Moves A s (setDrawer t d s) :=
  (Move.drawers _ fun u hu => by
    rw [put_get]
    split
    · next he => exact h (he ▸ hu)
    · exact hu).run

/-- What the law of R46 reads of a drawer. -/
def moneyOf (d : Drawer) : Bool × Int × Nat × Int × Nat × Nat × Nat :=
  (d.saturated, d.expected, d.floatDelivered, d.netTendered, d.refunds, d.pickups, d.cashup)

theorem agrees_of {d e : Drawer} (h : moneyOf e = moneyOf d) (hd : DrawerAgrees d) : DrawerAgrees e := by
  simp only [moneyOf, Prod.mk.injEq] at h
  obtain ⟨hsat, hexp, hfloat, hnet, hrefunds, hpickups, hcashup⟩ := h
  rw [DrawerAgrees, hsat, hexp, hfloat, hnet, hrefunds, hpickups, hcashup]
  exact hd

/-- A change of a drawer that touches none of its sums. -/
theorem touchDrawer_moves {t : Fin 160} {d : Drawer} {s : State} (h : moneyOf d = moneyOf s.drawers[t]) :
    Moves A s (setDrawer t d s) := setDrawer_moves (agrees_of h)

theorem applyMovement_moves {t : Fin 160} {f : Drawer → Drawer} (hf : ∀ d, DrawerAgrees d → DrawerAgrees (f d)) (s : State) :
    Moves A s (applyMovement t f s) := by
  unfold applyMovement
  exact .ite (fun _ => (setDrawer_moves (hf _)).trans (.quiet (raiseNum_leaves _ _ _))) fun _ => setDrawer_moves (hf _)

theorem placeCall_moves (t : Fin 160) (s : State) : Moves A s (placeCall t s) := by
  unfold placeCall
  split
  · next h => exact (Move.place _ _ h).run
  · exact .quiet (raiseQueueFull_leaves _ _ s)

theorem reevaluate_moves (t : Fin 160) (s : State) : Moves A s (reevaluate t s) := by
  have hhold : Moves A s (compareHold t s) := by
    unfold compareHold
    refine .ite (fun _ => ?_) fun _ => .ite (fun _ => touchDrawer_moves rfl) fun _ => .refl A s
    exact (touchDrawer_moves rfl : Moves A s (setDrawer t { s.drawers[t] with state := .hold } s)).trans
      (.quiet (raiseNum_leaves .drawerHold t.val _))
  have hpickup (u : State) : Moves A u (comparePickup t u) := by
    unfold comparePickup
    refine .ite (fun _ => ?_) fun _ => touchDrawer_moves rfl
    exact ((touchDrawer_moves rfl : Moves A u (setDrawer t { u.drawers[t] with due := true } u)).trans
      (.quiet (raiseNum_leaves .pickupDue t.val _))).trans (placeCall_moves t _)
  exact hhold.trans (hpickup _)

theorem moveDrawer_moves {t : Fin 160} {f : Drawer → Drawer} (hf : ∀ d, DrawerAgrees d → DrawerAgrees (f d)) (s : State) :
    Moves A s (moveDrawer t f s) := (applyMovement_moves hf s).trans (reevaluate_moves t _)

/-- A sum that is not held at an end of its range is the exact one (R1). -/
theorem satInt_exact {i : Int} (h : (satInt i).2 = false) : (satInt i).1 = i := by
  simp only [satInt, Bool.or_eq_false_iff, decide_eq_false_iff_not] at h ⊢
  omega

/-- The same for a count (R1). -/
theorem satNat_exact {n : Nat} (h : (satNat n).2 = false) : (satNat n).1 = n := by
  simp only [satNat, decide_eq_false_iff_not] at h ⊢
  omega

theorem tendered_agrees (net : Int) {d : Drawer} (h : DrawerAgrees d) : DrawerAgrees (d.tendered net) := by
  intro hsat
  simp only [Drawer.tendered, Drawer.shift, Bool.or_eq_false_iff] at hsat ⊢
  obtain ⟨⟨hd, hsum⟩, hexp⟩ := hsat
  rw [satInt_exact hsum, satInt_exact hexp, h hd]
  omega

theorem refunded_agrees (v : Nat) {d : Drawer} (h : DrawerAgrees d) : DrawerAgrees (d.refunded v) := by
  intro hsat
  simp only [Drawer.refunded, Drawer.shift, Bool.or_eq_false_iff] at hsat ⊢
  obtain ⟨⟨hd, hsum⟩, hexp⟩ := hsat
  rw [satNat_exact hsum, satInt_exact hexp, h hd]
  omega

theorem pickedUp_agrees (v : Nat) {d : Drawer} (h : DrawerAgrees d) : DrawerAgrees (d.pickedUp v) := by
  intro hsat
  simp only [Drawer.pickedUp, Drawer.shift, Bool.or_eq_false_iff] at hsat ⊢
  obtain ⟨⟨hd, hsum⟩, hexp⟩ := hsat
  rw [satNat_exact hsum, satInt_exact hexp, h hd]
  omega

theorem cashedUp_agrees (v : Nat) {d : Drawer} (h : DrawerAgrees d) : DrawerAgrees (d.cashedUpWith v) := by
  intro hsat
  simp only [Drawer.cashedUpWith, Drawer.shift, Bool.or_eq_false_iff] at hsat ⊢
  obtain ⟨⟨hd, hsum⟩, hexp⟩ := hsat
  rw [satNat_exact hsum, satInt_exact hexp, h hd]
  omega

theorem receivedFloat_agrees (v : Nat) {d : Drawer} (h : DrawerAgrees d) : DrawerAgrees (d.receivedFloat v) := by
  intro hsat
  simp only [Drawer.receivedFloat, Drawer.shift, Bool.or_eq_false_iff] at hsat ⊢
  obtain ⟨⟨hd, hsum⟩, hexp⟩ := hsat
  rw [satNat_exact hsum, satInt_exact hexp, h hd]
  omega

/-! ## The till frames (R44 to R55, R61 to R72) -/

theorem tillFrame_moves {α : Type} {k : JobKind} {parsed : Option α} {seq : α → Option Nat} {copy : Fin 160 → State → Answer}
    {job : Fin 160 → α → State → State × Answer} (h : ∀ t a s, Moves A s (job t a s).1) (f : Taken) (s : State) :
    Moves A s (tillFrame k parsed seq copy job f s).1 := by
  have h56 (t a s) : Moves A s (tillSteps56 k t (job t a) s).1 := by
    unfold tillSteps56
    split
    · exact h t a s
    · exact .quiet (unapplied_leaves k t s)
  unfold tillFrame
  split
  · exact .refl A s
  · dsimp only
    split
    · exact .quiet (unapplied_leaves k _ s)
    · split
      · exact .refl A s
      · split
        · exact h56 _ _ s
        · split
          · exact .refl A s
          · exact .refl A s
          · have hrecord (t q u) : Moves A u (recordSequence t q f.crc u) := touchDrawer_moves rfl
            exact ((Moves.quiet (raiseGap_leaves _ _ s)).trans (hrecord _ _ _)).trans (h56 _ _ _)

theorem tenderJob_moves (f : Taken) (s : State) : Moves A s (tenderJob f s).1 :=
  tillFrame_moves (fun _ _ s => moveDrawer_moves (fun _ => tendered_agrees _) s) f s

theorem refundJob_moves (f : Taken) (s : State) : Moves A s (refundJob f s).1 :=
  tillFrame_moves (fun _ _ s => moveDrawer_moves (fun _ => refunded_agrees _) s) f s

theorem pickupJob_moves (f : Taken) (s : State) : Moves A s (pickupJob f s).1 := by
  refine tillFrame_moves (fun t a s => ?_) f s
  dsimp only
  split
  · exact .refl A s
  · next hcheck =>
    have hbag : Moves A s (addBag (newBag s .pickup .sealed a.2.1 a.2.2 (some t) none none) s) :=
      (Move.newBag _ hcheck rfl (.inl rfl) rfl rfl).run
    exact hbag.trans (moveDrawer_moves (fun _ => pickedUp_agrees _) _)

theorem cashupJob_moves (f : Taken) (s : State) : Moves A s (cashupJob f s).1 := by
  refine tillFrame_moves (fun t a s => ?_) f s
  dsimp only
  split
  · exact .refl A s
  · next hcheck =>
    have hbag : Moves A s (addBag (newBag s .cashup .sealed a.2.1 a.2.2 (some t) none none) s) :=
      (Move.newBag _ hcheck rfl (.inl rfl) rfl rfl).run
    exact hbag.trans (moveDrawer_moves (fun _ => cashedUp_agrees _) _)

theorem tillOpenJob_moves (f : Taken) (s : State) : Moves A s (tillOpenJob f s).1 := by
  refine tillFrame_moves (fun t a s => ?_) f s
  dsimp only
  split
  · exact (touchDrawer_moves rfl : Moves A s (setDrawer t { s.drawers[t] with state := .opened } s)).trans (reevaluate_moves t _)
  · exact .refl A s

theorem setOpenOrder_moves (t : Fin 160) (o : Option (Fin 24)) (s : State) : Moves A s (setOpenOrder t o s) := touchDrawer_moves rfl

/-- The cap reduction takes packets away and adds none (R66). -/
theorem capReduce_le (s : State) (cap : Nat) (l : List (Fin 12)) (issue : Vector Nat 12) (flags : Vector Bool 12) (c : Fin 12) :
    (capReduce s cap l issue flags).1[c] ≤ issue[c] := by
  induction l generalizing issue flags with
  | nil => exact Nat.le_refl _
  | cons k l ih =>
    unfold capReduce
    split
    · refine (ih _ _).trans ?_
      rw [put_get]
      split
      · next h => subst h; exact Nat.sub_le _ _
      · exact Nat.le_refl _
    · exact ih _ _

/-- What is issued of a code lies within its free stock (R64). -/
theorem rebalance_issue_le (s : State) (t : Fin 160) (ps : List (Fin 12 × Nat)) (c : Fin 12) :
    (rebalance s t ps).issue[c] ≤ s.freeOf c := by
  refine (capReduce_le s _ _ _ _ c).trans ?_
  have hgrant : (grantedIssue s t ps)[c] = grantedPackets s t ps c * s.denoms[c].packet := by simp [grantedIssue]
  rw [hgrant]
  unfold grantedPackets
  split
  · exact (Nat.mul_le_mul_right _ (Nat.min_le_right _ _)).trans (Nat.div_mul_le_self _ _)
  · simp

theorem actOnRebalance_moves {t : Fin 160} {i : Fin 24} {q : Nat} {ps : List (Fin 12 × Nat)} {s : State}
    (hfree : s.orders[i].state = .free) : Moves A s (actOnRebalance t i q ps s).1 := by
  have hl : unchangedBut [.events] s (raiseShort t (rebalance s t ps) (compareDeclared t (declaredValue s ps) s)) :=
    unchangedBut_mono (unchangedBut_trans (compareDeclared_leaves t _ s) (raiseShort_leaves t _ _)) (by decide)
  unfold actOnRebalance
  dsimp only
  split
  · generalize raiseShort t (rebalance s t ps) (compareDeclared t (declaredValue s ps) s) = u at hl
    have horders : u.orders = s.orders := hl .orders (by decide)
    have hdenoms : u.denoms = s.denoms := hl .denoms (by decide)
    have hstock : u.stock = s.stock := hl .stock (by decide)
    have horder : Moves A u (reserve (rebalance s t ps).issue (setOrder i (newOrder s t q ps (rebalance s t ps)) u)) := by
      refine (Move.newOrder i (newOrder s t q ps (rebalance s t ps)) (by rw [horders]; exact hfree) rfl ?_ fun c => ?_).run
      · simp [newOrder, State.valueOf, hdenoms]
      · have := rebalance_issue_le s t ps c
        simpa [newOrder, State.freeOf, State.heldOf, hdenoms, hstock] using this
    exact ((Moves.quiet hl).trans horder).trans (setOpenOrder_moves t _ _)
  · exact .quiet hl

theorem declareJob_moves (f : Taken) (s : State) : Moves A s (declareJob f s).1 := by
  refine tillFrame_moves (fun t a s => ?_) f s
  unfold declareRule
  split
  · exact .refl A s
  · split
    · exact .refl A s
    · next i hentry =>
      split
      · exact .refl A s
      · split
        · exact .refl A s
        · exact actOnRebalance_moves (by simpa using (firstIndex_some.mp hentry).1)

theorem floatReceiptJob_moves (hA : A .jobs) (f : Taken) (s : State) : Moves A s (floatReceiptJob f s).1 := by
  refine tillFrame_moves (fun t a s => ?_) f s
  unfold receiptRule
  split
  · exact .refl A s
  · next b hfind =>
    split
    · exact .refl A s
    · next b' hmove =>
      split
      · exact .refl A s
      · exact (((Move.receipt hA hfind hmove).run).trans (setOpenOrder_moves t none _)).trans
          (moveDrawer_moves (fun _ => receivedFloat_agrees _) _)

/-! ## The stock frames (R15 to R17, R71) -/

theorem makeUpFloatJob_moves (f : Taken) (s : State) : Moves A s (makeUpFloatJob f s).1 := by
  unfold makeUpFloatJob
  split
  · exact .refl A s
  · split
    · exact .refl A s
    · split
      · exact .refl A s
      · exact .refl A s
      · next hpending =>
        split
        · exact .refl A s
        · next hcheck => exact (Move.makeUp _ _ hpending hcheck).run

/-- What the pairs of a consignment that passes have met, code by code (R15). -/
theorem consignmentPairs_ok {s : State} {seen : List (Fin 12)} {raw : List (Nat × Nat)} {ps : List (Fin 12 × Nat)}
    (h : consignmentPairs s seen raw = .ok ps) :
    ∀ p ∈ ps, s.denoms[p.1].enabled = true ∧ p.2 % s.denoms[p.1].strap = 0 ∧ p.2 ≤ s.freeOf p.1 ∧
      p.2 / s.denoms[p.1].strap ≤ s.stock[p.1].straps := by
  induction raw generalizing seen ps with
  | nil =>
    cases h
    simp
  | cons r raw ih =>
    obtain ⟨k, n⟩ := r
    unfold consignmentPairs at h
    split at h
    · cases h
    · next c _ =>
      split at h
      · cases h
      · next hen =>
        split at h
        · cases h
        · next hstrap =>
          split at h
          · cases h
          · next hfree =>
            split at h
            · cases h
            · next hstraps =>
              split at h
              · cases h
              · next qs hrest =>
                cases h
                intro p hp
                rcases List.mem_cons.mp hp with rfl | hp
                · simp only [Bool.or_eq_true, Bool.not_eq_true', not_or, Bool.not_eq_false] at hen
                  exact ⟨hen.1, not_not.mp hstrap, not_lt.mp hfree, not_lt.mp hstraps⟩
                · exact ih hrest p hp

/-- The count of a code is that of the pair that names it, and 0 where none does (R16). -/
theorem declaredCount_cases (ps : List (Fin 12 × Nat)) (c : Fin 12) :
    declaredCount ps c = 0 ∨ (c, declaredCount ps c) ∈ ps := by
  unfold declaredCount
  split
  · next p hfind =>
    have hc : p.1 = c := by simpa using List.find?_some hfind
    exact .inr (hc ▸ List.mem_of_find?_eq_some hfind)
  · exact .inl rfl

theorem makeUpConsignmentJob_moves (f : Taken) (s : State) : Moves A s (makeUpConsignmentJob f s).1 := by
  unfold makeUpConsignmentJob
  split
  · exact .refl A s
  · split
    · exact .refl A s
    · next n _ _ _ ps hpairs =>
      dsimp only
      split
      · exact .refl A s
      · split
        · exact .refl A s
        · split
          · exact .refl A s
          · next hcheck =>
            have hpair (c : Fin 12) : (pairCounts ps)[c] = declaredCount ps c := by simp [pairCounts]
            refine (Move.consign n (pairCounts ps) (fun c hdisabled => ?_) (fun c => ?_) hcheck).run
            · rw [hpair]
              rcases declaredCount_cases ps c with h | h
              · exact h
              · rw [(consignmentPairs_ok hpairs _ h).1] at hdisabled
                cases hdisabled
            · rw [hpair]
              rcases declaredCount_cases ps c with h | h
              · simp [h]
              · obtain ⟨-, hstrap, hfree, hstraps⟩ := consignmentPairs_ok hpairs _ h
                exact ⟨hfree, fun _ => ⟨hstrap, hstraps⟩⟩

theorem restockJob_moves (hA : A .jobs) (f : Taken) (s : State) : Moves A s (restockJob f s).1 := by
  unfold restockJob
  split
  · exact .refl A s
  · split
    · exact .refl A s
    · next hfind =>
      split
      · exact .refl A s
      · next hmove =>
        split
        · exact .refl A s
        · next hrefused => exact (Move.restock hA hfind hmove hrefused).run

/-! ## The safe (R81 to R96) -/

/-- A change of the safe that leaves inventory, lock and timer. -/
theorem setSafe_moves {x : Safe} {s : State} (hi : x.inventory = s.safe.inventory) (hl : x.lock = s.safe.lock)
    (ht : x.timer = s.safe.timer) : Moves A s (s.setSafe x) := by
  refine (Move.lock x hi (fun h => ?_) fun h => .inl (hl ▸ h)).run
  rw [SafeTimed, ht, hl]
  exact h

theorem setLock_moves {l : LockState} {timer : Option Nat} {s : State}
    (ht : timer.isSome = true ↔ l = .delay ∨ l = .window ∨ l = .unlocked) (hl : l = .unlocked → A .unlocking) :
    Moves A s (setLock l timer s) := (Move.lock { s.safe with lock := l, timer := timer } rfl (fun _ => ht) fun h => .inr (hl h)).run

theorem setFailed_moves (n : Nat) (s : State) : Moves A s (setFailed n s) := setSafe_moves rfl rfl rfl

theorem placeSafeCommand_moves (s : State) : Moves A s (placeSafeCommand s) := by
  unfold placeSafeCommand
  split
  · split
    · exact .refl A s
    · split
      · exact .refl A s
      · next h => exact (Move.place _ _ h).run.trans (setSafe_moves rfl rfl rfl)
  · exact .refl A s

theorem commandSafe_moves (c : BoltCommand) (s : State) : Moves A s (commandSafe c s) :=
  (setSafe_moves rfl rfl rfl : Moves A s (s.setSafe { s.safe with commanded := c, owed := true })).trans (placeSafeCommand_moves _)

theorem enterWindow_moves (s : State) : Moves A s (enterWindow s) := setLock_moves (by simp) (by simp)

theorem sealJob_moves {rule : Nat → Byte → State → State × Answer} (h : ∀ n b s, Moves A s (rule n b s).1) (f : Taken) (s : State) :
    Moves A s (sealJob rule f s).1 := by
  unfold sealJob
  split
  · exact .refl A s
  · exact h _ _ s

theorem dropJob_moves (hA : A .entering) (f : Taken) (s : State) : Moves A s (dropJob f s).1 := by
  refine sealJob_moves (fun n node s => ?_) f s
  unfold dropRule
  split
  · exact .quiet (raiseNum_leaves _ _ s)
  · split
    · exact .refl A s
    · split
      · exact .quiet (raiseNum_leaves _ _ s)
      · next hfind =>
        split
        · exact .refl A s
        · next hmove =>
          split
          · exact .quiet (raiseNum_leaves _ _ s)
          · exact (Move.enter _ _ _ hA hfind (.inl hmove) (by omega)).run

theorem depositJob_moves (hA : A .entering) (f : Taken) (s : State) : Moves A s (depositJob f s).1 := by
  refine sealJob_moves (fun n node s => ?_) f s
  unfold depositRule
  split
  · exact .refl A s
  · split
    · exact .refl A s
    · split
      · exact .refl A s
      · next hfind =>
        split
        · exact .refl A s
        · next hmove =>
          split
          · exact .quiet (raiseNum_leaves _ _ s)
          · exact (Move.enter _ _ _ hA hfind (.inr hmove) (by omega)).run

theorem withdrawJob_moves (hA : A .withdrawal) (f : Taken) (s : State) : Moves A s (withdrawJob f s).1 := by
  refine sealJob_moves (fun n node s => ?_) f s
  unfold withdrawRule
  split
  · exact .refl A s
  · split
    · exact .refl A s
    · split
      · exact .refl A s
      · next hfind =>
        split
        · exact .refl A s
        · next hmove => exact (Move.withdraw node hA hfind hmove).run

theorem doorOpened_moves (s : State) : Moves A s (doorOpened s) := by
  have hforced (s : State) (n : Nat) : Moves A s (raiseNum .doorForced n (setLock .openForced none s)) :=
    (setLock_moves (by simp) (by simp)).trans (.quiet (raiseNum_leaves _ _ _))
  unfold doorOpened
  split
  case h_1 => exact setLock_moves (by simp) (by simp)
  case h_2 | h_3 => exact .refl A s
  all_goals exact hforced s _

theorem lockedCommand_moves (s : State) : Moves A s (commandSafe .lock (setLock .locked none s)) :=
  (setLock_moves (by simp) (by simp)).trans (commandSafe_moves .lock _)

theorem doorJob_moves (f : Taken) (s : State) : Moves A s (doorJob f s).1 := by
  unfold doorJob
  split
  · rcases doorClosedJob_cases f s with h | h <;> rw [h]
    · exact .refl A s
    · exact lockedCommand_moves s
  · unfold doorOpenJob
    split
    · exact doorOpened_moves s
    · exact .refl A s

theorem openRequestJob_moves (f : Taken) (s : State) : Moves A s (openRequestJob f s).1 := by
  unfold openRequestJob
  split
  · exact .refl A s
  · split
    · exact .refl A s
    · have hkind : Moves A s (s.setSafe { s.safe with delayKind := (chooseDelay s).1 }) := setSafe_moves rfl rfl rfl
      exact hkind.trans (.ite (fun _ => enterWindow_moves _) fun _ => setLock_moves (by simp) (by simp))

theorem openCancelJob_moves (f : Taken) (s : State) : Moves A s (openCancelJob f s).1 := by
  unfold openCancelJob
  split
  · exact .refl A s
  · split
    · exact setLock_moves (by simp) (by simp)
    · exact .refl A s

theorem openConfirmJob_moves (hA : A .unlocking) (f : Taken) (s : State) : Moves A s (openConfirmJob f s).1 := by
  unfold openConfirmJob
  split
  · exact .refl A s
  · split
    · exact .refl A s
    · exact ((setLock_moves (by simp) fun _ => hA).trans (setFailed_moves 0 _)).trans (commandSafe_moves .unlock _)

theorem confirmFailed_moves (n : Nat) (s : State) : Moves A s (confirmFailed n s).1 := by
  unfold confirmFailed
  split
  · exact .refl A s
  · dsimp only
    split
    · exact setFailed_moves _ s
    · have hlockout : Moves A s (setLock .lockout none (setFailed (min 9 (s.safe.failed + 1)) s)) :=
        (setFailed_moves _ s).trans (setLock_moves (by simp) (by simp))
      exact (hlockout.trans (.quiet (raiseNum_leaves _ _ _))).trans (commandSafe_moves .lock _)

/-! ## The count sessions (R101 to R109) -/

theorem restartIdle_moves (x : Fin 4) (s : State) : Moves A s (restartIdle x s) := by
  unfold restartIdle
  split
  · next h =>
    exact (Move.session x { s.sessions[x] with timer := idleDeadline s } rfl rfl (.inr ⟨h, rfl⟩) (fun _ => id) fun _ => id).run
  · exact .refl A s

theorem counterActs_moves (x : Fin 4) (node : Byte) (s : State) : Moves A s (counterActs x node s) := by
  unfold counterActs
  split
  · exact restartIdle_moves x s
  · exact .refl A s

theorem bagOpenJob_moves (f : Taken) (s : State) : Moves A s (bagOpenJob f s).1 := by
  unfold bagOpenJob
  split
  · exact .refl A s
  · next n _ =>
    unfold bagOpenRule
    split
    · next hidle =>
      unfold beginCount
      split
      · exact .refl A s
      · next hfind =>
        split
        · exact .refl A s
        · next hmove => exact (Move.openCount _ _ hidle hfind hmove).run
    · split
      · exact restartIdle_moves _ s
      · exact .refl A s
    · next hsuspended =>
      split
      · next h =>
        subst h
        exact (Move.resume _ _ hsuspended).run
      · exact .refl A s

theorem put_zero {v : Vector Nat 12} {s : State} {c : Fin 12} {n : Nat} (hc : s.denoms[c].enabled = true) (h : EnabledOnly s v) :
    EnabledOnly s (put v c n) := by
  intro k hk
  rw [put_get]
  split
  · next he =>
    subst he
    rw [hk] at hc
    cases hc
  · exact h k hk

theorem batchJob_moves (f : Taken) (s : State) : Moves A s (batchJob f s).1 := by
  unfold batchJob
  dsimp only
  split
  · exact counterActs_moves _ _ s
  · refine (counterActs_moves (slotOf s f.frame.src) f.frame.src s).trans ?_
    generalize slotOf s f.frame.src = x
    generalize counterActs x f.frame.src s = s
    unfold batchRule
    dsimp only
    split; · exact .refl A s
    split; · exact .refl A s
    split; · exact .refl A s
    split; · exact .refl A s
    split; · exact .refl A s
    next henabled =>
    split; · exact .refl A s
    split; · exact .refl A s
    have hc := (not_not.mp henabled).1
    exact (Move.session x (s.sessions[x].batched _ _ _ _ _) rfl rfl (.inl rfl) (fun _ => put_zero hc) fun _ => put_zero hc).run

theorem run_ite {β : Type} {c : Prop} [Decidable c] {s : State} {x y : State × β} (h : c → Moves A s x.1) (k : ¬c → Moves A s y.1) :
    Moves A s (if c then x else y).1 := by
  split
  · exact h ‹_›
  · exact k ‹_›

theorem handKeyJob_moves (f : Taken) (s : State) : Moves A s (handKeyJob f s).1 := by
  unfold handKeyJob
  split; · exact .refl A s
  split; · exact .refl A s
  next x _ =>
  refine (restartIdle_moves x s).trans ?_
  generalize restartIdle x s = s
  unfold handKeyRule
  dsimp only
  split; · exact .refl A s
  split; · exact .refl A s
  next c _ =>
  split; · exact .refl A s
  next henabled =>
  split; · exact .refl A s
  split; · exact .refl A s
  split; · exact .refl A s
  refine run_ite (fun _ => .refl A s) fun _ => run_ite (fun _ => .refl A s) fun _ => ?_
  have hc : s.denoms[c].enabled = true := by
    cases he : s.denoms[c].enabled with
    | true => rfl
    | false => exact absurd (by rw [he]; rfl) henabled
  refine (Move.session x (s.sessions[x].keyed c _ _ _ _) rfl rfl (.inl rfl) (fun _ h => ?_) fun _ h => ?_).run
  · dsimp only [Session.keyed]
    split
    · exact h
    · exact put_zero hc h
  · dsimp only [Session.keyed]
    split
    · exact put_zero hc h
    · exact h

theorem closeAtDrawer_moves (b : Bag) (v : Int) (s : State) : Moves A s (closeAtDrawer b v s) := by
  unfold closeAtDrawer
  split
  · exact .ite (fun _ => touchDrawer_moves rfl) fun _ => .refl A s
  · exact .refl A s

/-- Only the session's reset reads the sessions, so it may come before the drawer, the tallies and the events (R108). -/
theorem applyCount_moves {x : Fin 4} {b b' : Bag} {variance : Int} {cls : BagClass} {s : State}
    (hcounting : s.sessions[x].state = .counting) (hclose : closeRefused s s.sessions[x].accepted s.sessions[x].suspect = none)
    (hfind : findBag s s.sessions[x].bag = some b)
    (hmove : moveClose x (s.valueOf s.sessions[x].accepted) (s.valueOf s.sessions[x].suspect) variance cls s.seconds b = .ok b') :
    Moves A s (applyCount x b b' variance cls s) := by
  have hcount := (Move.count (A := A) x variance cls hcounting hclose hfind hmove).run
  unfold applyCount
  dsimp only
  generalize hbase : changeBag s.sessions[x].bag (fun _ => b')
    (applyClose s.sessions[x].accepted s.sessions[x].suspect (s.valueOf s.sessions[x].accepted) s) = base at hcount
  have hsessions : base.sessions = s.sessions := by rw [← hbase]; rfl
  generalize hfinal : closeEvents _ _ cls (addTallies s.sessions[x] (closeAtDrawer b variance base)) = final
  have hquiet : unchangedBut [.tallies, .events] (closeAtDrawer b variance base) final := by
    rw [← hfinal]
    exact unchangedBut_mono (unchangedBut_trans (addTallies_leaves _ _) (closeEvents_leaves _ _ _ _)) (by decide)
  have hdrawers := closeAtDrawer_leaves b variance base
  have hagree (t : Fin 160) (h : DrawerAgrees base.drawers[t]) : DrawerAgrees final.drawers[t] := by
    have hdr : final.drawers = (closeAtDrawer b variance base).drawers := hquiet .drawers (by decide)
    rw [hdr]
    unfold closeAtDrawer
    split
    · split
      · next u _ _ =>
        show DrawerAgrees (put base.drawers u _)[t]
        rw [put_get]
        split
        · next he =>
          subst he
          exact h
        · exact h
      · exact h
    · exact h
  have hend : Moves A (setSession x Session.reset base) (setSession x Session.reset final) := by
    have hd := (Move.drawers (A := A) (s := setSession x Session.reset base) final.drawers hagree).run
    refine hd.trans (.quiet (ex := quietParts) (fun p hp => ?_) (by simp))
    have hboth : unchangedBut [.drawers, .tallies, .events] base final := unchangedBut_trans hdrawers hquiet
    by_cases hpd : p = .drawers
    · subst hpd
      rfl
    · by_cases hps : p = .sessions
      · subst hps
        show put final.sessions x _ = put base.sessions x _
        rw [hboth .sessions (by decide)]
      · have := hboth p (by
          simp only [List.mem_cons, List.not_mem_nil, or_false, not_or]
          exact ⟨hpd, fun h => hp (by simp [h, quietParts]), fun h => hp (by simp [h, quietParts])⟩)
        cases p <;> first | exact this | exact absurd rfl hpd | exact absurd rfl hps
  exact hcount.trans hend

theorem bagCloseJob_moves (f : Taken) (s : State) : Moves A s (bagCloseJob f s).1 := by
  unfold bagCloseJob
  dsimp only
  split
  · exact counterActs_moves _ _ s
  · refine (counterActs_moves (slotOf s f.frame.src) f.frame.src s).trans ?_
    generalize slotOf s f.frame.src = x
    generalize counterActs x f.frame.src s = s
    unfold bagCloseRule
    dsimp only
    split; · exact .refl A s
    next hcounting =>
    split; · exact .refl A s
    split; · exact .refl A s
    split; · exact .refl A s
    next hclose =>
    split; · exact .refl A s
    next hfind =>
    split; · exact .refl A s
    next hmove => exact applyCount_moves (not_not.mp hcounting) hclose hfind hmove

theorem countAbortJob_moves (f : Taken) (s : State) : Moves A s (countAbortJob f s).1 := by
  have hrule (x node console s) : Moves A s (countAbortRule x node console s).1 := by
    unfold countAbortRule
    dsimp only
    split
    · exact .refl A s
    · next h =>
      split
      · exact (Move.abort x (by rw [h]; decide)).run
      · exact .refl A s
    · next h => exact (Move.abort x (by rw [h]; decide)).run
  unfold countAbortJob
  split
  · split; · exact .refl A s
    split; · exact .refl A s
    exact hrule _ _ _ s
  · split; · exact .refl A s
    exact hrule _ _ _ s

/-! ## The handover (R125 to R137) -/

theorem checkMissed_moves (n : Nat) (s : State) : Moves A s (checkMissed n s) := by
  induction n generalizing s with
  | zero => exact .refl A s
  | succ n ih =>
    unfold checkMissed
    split
    · next h =>
      simp only [headMissed, Bool.and_eq_true, decide_eq_true_eq] at h
      obtain ⟨⟨hidle, hpart⟩, -⟩ := h
      exact (((Move.returnHead .missed (.inl hidle) hpart).run).trans (.quiet (raiseNum_leaves _ _ _))).trans (ih _)
    · exact .refl A s

theorem missedCheck_moves (s : State) : Moves A s (missedCheck s) := checkMissed_moves 16 s

theorem abortHandover_moves (hA : A .aborting) (r : CallResult) (s : State) : Moves A s (abortHandover r s) := by
  unfold abortHandover
  split
  · exact .refl A s
  · next i hslot hphase =>
    exact (((Move.abortCall i r hA (fun h => hphase h) hslot).run).trans (.quiet (raiseNum_leaves _ _ _))).trans (missedCheck_moves _)
  · exact .refl A s

theorem announceJob_moves (f : Taken) (s : State) : Moves A s (announceJob f s).1 := by
  have hrefuse (s : State) (hphase : s.call.phase = .idle ∨ s.call.slot = none) (hpart : s.head.owner = .part) :
      Moves A s (refuseCourier s).1 := by
    unfold refuseCourier
    dsimp only
    split
    · exact (Move.refused _).run
    · exact (((Move.returnHead .refusedCourier hphase hpart).run).trans (.quiet (raiseNum_leaves _ _ _))).trans (missedCheck_moves _)
  unfold announceJob
  split; · exact .refl A s
  unfold announceRule
  split
  · exact .refl A s
  · exact .refl A s
  · next hexchange hsigning =>
    have hphase : s.call.phase = .idle ∨ s.call.slot = none := by
      cases hp : s.call.phase with
      | idle => exact .inl rfl
      | exchange =>
        cases hs : s.call.slot with
        | none => exact .inr rfl
        | some i => exact absurd hs (hexchange i hp)
      | signing =>
        cases hs : s.call.slot with
        | none => exact .inr rfl
        | some i => exact absurd hs (hsigning i hp)
    split; · exact .refl A s
    split; · exact .refl A s
    next hoffice =>
    have hpart : s.head.owner = .part := by
      cases ho : s.head.owner with
      | office => exact absurd ho hoffice
      | part => rfl
    split; · exact .refl A s
    split
    · exact hrefuse s hphase hpart
    · exact (Move.announce hphase hpart).run

theorem loadJob_moves (hA : A .loading) (f : Taken) (s : State) : Moves A s (loadJob f s).1 := by
  unfold loadJob
  split; · exact .refl A s
  next n _ =>
  unfold loadRule
  split; · exact .refl A s
  next i hslot =>
  split; · exact .refl A s
  next hlisted =>
  split; · exact .refl A s
  rcases transition_spec n (moveLoad s.seconds) s with ⟨-, h⟩ | ⟨b, c, -, -, h⟩ | ⟨b, b', hfind, hmove, h⟩ <;> rw [h]
  · exact .refl A s
  · exact .refl A s
  · exact (Move.load i hA hslot (by simpa using hlisted) hfind hmove).run

theorem receiveJob_moves (f : Taken) (s : State) : Moves A s (receiveJob f s).1 := by
  unfold receiveJob
  split; · exact .refl A s
  next n v _ =>
  unfold receiveRule
  split; · exact .refl A s
  next i _ =>
  dsimp only
  split; · exact .refl A s
  split; · exact .refl A s
  split; · exact .refl A s
  next hcheck =>
  have hbag : Moves A s (addBag (newBag s .inbound .received n v none none none) s) :=
    (Move.newBag _ hcheck rfl (.inr rfl) rfl rfl).run
  have hslot (u : State) (hring : u.ring = s.ring) :
      Moves A u (setSlot i { s.ring[i] with received := s.ring[i].received ++ [n] } u) :=
    (Move.slot i _ (by rw [hring]) (.inr (by rw [hring]))).run
  exact hbag.trans (hslot _ rfl)

theorem completeCall_moves {i : Fin 16} (pair : Option (Byte × Byte)) {s : State} (hp : s.call.phase = .signing)
    (hs : s.call.slot = some i) : Moves A s (completeCall i pair s) := by
  have hvar : unchangedBut [.events] (signBags s.ring[i].outbound s) (if inboundAgrees s s.ring[i] then signBags s.ring[i].outbound s
      else raiseNum .inboundVariance i.val (signBags s.ring[i].outbound s)) :=
    unchangedBut_ite (unchangedBut_refl _ _) (raiseNum_leaves _ _ _)
  exact ((Move.sign i { s.ring[i] with supervisor := pair.map Prod.fst, courierMark := pair.map Prod.snd }
    (signResult s s.ring[i]) hp hs hvar).run.trans (.quiet (raiseNum_leaves _ _ _))).trans (missedCheck_moves _)

theorem signJob_moves (f : Taken) (s : State) : Moves A s (signJob f s).1 := by
  unfold signJob
  split; · exact .refl A s
  unfold signRule
  split
  · exact .refl A s
  · next hp hs => exact completeCall_moves f.pair hp hs
  · exact .refl A s

/-! ## The frame that is taken -/

theorem makeUpJob_moves (f : Taken) (s : State) : Moves A s (makeUpJob f s).1 := by
  unfold makeUpJob
  split
  · exact makeUpConsignmentJob_moves f s
  · exact makeUpFloatJob_moves f s

/-- Every job is a run of moves (R173, step 7). -/
theorem job_moves {k : JobKind} (hjobs : A .jobs) (henter : A .entering) (hload : k = .load → A .loading) (hout : k = .withdraw → A .withdrawal) (hunlock : k = .openConfirm → A .unlocking) (f : Taken)
    (s : State) : Moves A s (k.job f s).1 := by
  cases k with
  | tender => exact tenderJob_moves f s
  | refund => exact refundJob_moves f s
  | pickup => exact pickupJob_moves f s
  | cashup => exact cashupJob_moves f s
  | declare => exact declareJob_moves f s
  | floatReceipt => exact floatReceiptJob_moves hjobs f s
  | tillOpen => exact tillOpenJob_moves f s
  | drop => exact dropJob_moves henter f s
  | withdraw => exact withdrawJob_moves (hout rfl) f s
  | deposit => exact depositJob_moves henter f s
  | door => exact doorJob_moves f s
  | openRequest => exact openRequestJob_moves f s
  | openConfirm => exact openConfirmJob_moves (hunlock rfl) f s
  | openCancel => exact openCancelJob_moves f s
  | makeUp => exact makeUpJob_moves f s
  | restock => exact restockJob_moves hjobs f s
  | bagOpen => exact bagOpenJob_moves f s
  | batch => exact batchJob_moves f s
  | bagClose => exact bagCloseJob_moves f s
  | countAbort => exact countAbortJob_moves f s
  | handKey => exact handKeyJob_moves f s
  | announce => exact announceJob_moves f s
  | load => exact loadJob_moves (hload rfl) f s
  | receive => exact receiveJob_moves f s
  | sign => exact signJob_moves f s

/-- The passages that a frame needs where it is taken: those of a WITHDRAW and of a LOAD that pass their inspection, and of a witnessed OPEN_CONFIRM in
WINDOW (R82, R89, R129). -/
structure Opens (A : Passage → Prop) (f : Taken) (s : State) : Prop where
  jobs : A .jobs
  entering : A .entering
  load : inspectForm f s = .ok .load → A .loading
  out : inspectForm f s = .ok .withdraw → A .withdrawal
  unlock : ∀ pair, inspectForm f s = .ok .openConfirm → f.frame.body = [] → s.safe.lock = .window →
    witnessPair s s.witness[4] f = some pair → A .unlocking

/-- What decides a frame is a run of moves (R173). -/
theorem decideFrame_moves {f : Taken} {s : State} (hopen : Opens A f s) : Moves A s (decideFrame f s).1 := by
  unfold decideFrame
  split
  · exact .refl A s
  · next k hform =>
    have hout (h : k = .withdraw) : A .withdrawal := hopen.out (h ▸ hform)
    have hload (h : k = .load) : A .loading := hopen.load (h ▸ hform)
    unfold witnessAndRun
    split
    · next hguard =>
      exact job_moves hopen.jobs hopen.entering hload hout (fun h => by subst h; cases hguard) f s
    · next i hguard =>
      split
      · next pair hpair =>
        by_cases hconfirm : k = .openConfirm ∧ f.frame.body = [] ∧ s.safe.lock = .window
        · obtain ⟨hk, hbody, hlock⟩ := hconfirm
          subst hk
          cases hguard
          exact job_moves hopen.jobs hopen.entering hload hout (fun _ => hopen.unlock pair hform hbody hlock hpair) _ s
        · by_cases hk : k = .openConfirm
          · subst hk
            show Moves A s (openConfirmJob _ s).1
            unfold openConfirmJob
            split; · exact .refl A s
            next hbody =>
            split; · exact .refl A s
            next hlock => exact absurd ⟨rfl, not_not.mp hbody, not_not.mp hlock⟩ hconfirm
          · exact job_moves hopen.jobs hopen.entering hload hout (fun h => absurd h hk) _ s
      · split
        · exact confirmFailed_moves _ s
        · exact .refl A s

end

end Sys2Proof.Machine.Effects

/-! PROOF. The places of the ports' queues, of the uplink queue and of the receive buffer: no change at the lines or the trunk overfills one. -/

namespace Sys2Proof.Machine.Effects

open Sys2Proof Sys2Proof.Machine Sys2Proof.Machine.Takings Sys2Proof.Machine.TallyCount

section
variable {s t u : State} {p : Port}

/-! ## At a port (R161, R178) -/

theorem setPort_port (p q : Port) (x : LinePort) (s : State) : (s.setPort p x).port q = if p = q then x else s.port q := by
  cases p <;> cases q <;> rfl

/-- The queues, where they are left. -/
theorem places_of_leaves {ex : List Part} (h : unchangedBut ex s t) (hfloor : .floor ∉ ex := by decide) (hroom : .room ∉ ex := by decide)
    (huplink : .uplink ∉ ex := by decide) (htrunk : .trunk ∉ ex := by decide) (hs : Places s) : Places t := by
  have hport (p : Port) : t.port p = s.port p := by
    cases p
    · exact h .floor hfloor
    · exact h .room hroom
  unfold Places
  rw [h .uplink huplink, h .trunk htrunk]
  exact ⟨fun p => by rw [hport]; exact hs.1 p, hs.2⟩

/-- A port that fits keeps the queues within their places. -/
theorem places_setPort {x : LinePort} (hx : PortFits p (s.port p) → PortFits p x) (hs : Places s) : Places (s.setPort p x) := by
  have hrest : (s.setPort p x).uplink = s.uplink ∧ (s.setPort p x).trunk = s.trunk := by cases p <;> exact ⟨rfl, rfl⟩
  unfold Places
  rw [hrest.1, hrest.2]
  refine ⟨fun q => ?_, hs.2⟩
  rw [setPort_port]
  split
  · next he => exact he ▸ hx (hs.1 p)
  · exact hs.1 q

theorem setRx_places (p : Port) (rx : Receiver) (s : State) : Places s → Places (s.setRx p rx) := places_setPort id

theorem setTx_places (p : Port) (tx : Transmitter) (s : State) : Places s → Places (s.setTx p tx) := places_setPort id

theorem setLineIdle_places (p : Port) (b : Bool) (s : State) : Places s → Places (s.setLineIdle p b) := places_setPort id

theorem countError_places (p : Port) (k : LineCounter) (s : State) (hs : Places s) : Places (countError p k s) :=
  places_of_leaves (raisePair_leaves .linkError (portCode p) k.code _) (hs := places_setPort (p := p) id hs)

theorem txIdle_places (p : Port) (c : Option Current) (s : State) : Places s → Places (txIdle p c s) := setTx_places p _ s

theorem places_setOut {q : OutQueue} (h : q.reserved + q.filled.length ≤ (s.port p).out.reserved + (s.port p).out.filled.length) :
    Places s → Places (s.setOut p q) := places_setPort fun hq => ⟨h.trans hq.1, hq.2⟩

theorem freePlace_places (p : Port) (src : TxSource) (s : State) : Places s → Places (freePlace p src s) := by
  cases src with
  | outgoing i => exact places_setOut (Nat.add_le_add_left (List.length_eraseIdx_le _ _) _)
  | downlink => exact places_setPort fun hq => ⟨hq.1, (by simp : (s.port p).down.tail.length ≤ (s.port p).down.length).trans hq.2⟩

theorem deliverCurrent_places (p : Port) (s : State) (hs : Places s) : Places (deliverCurrent p s) := by
  unfold deliverCurrent
  split
  · exact freePlace_places p _ _ (txIdle_places p none s hs)
  · exact txIdle_places p none s hs

theorem restartPort_places (p : Port) (s : State) : Places s → Places (restartPort p s) :=
  places_setPort fun _ => ⟨Nat.zero_le _, Nat.zero_le _⟩

/-! ## The uplink queue (R172, R176) -/

theorem places_setUplink {x : Uplink} (hx : s.uplink.reserved + s.uplink.filled.length ≤ Config.uplinkPlaces →
    x.reserved + x.filled.length ≤ Config.uplinkPlaces) (hs : Places s) : Places (s.setUplink x) :=
  ⟨hs.1, hx hs.2.1, hs.2.2⟩

theorem fillEnvelope_places (f : Taken) (c : Code) (s : State) : Places s → Places (fillEnvelope f c s) :=
  places_setUplink fun h => by
    rcases Uplink.fill_spec s.uplink { port := f.port, second := s.seconds, stamp := c, marks := f.marks, frame := f.frame } with
      ⟨hpos, hfill⟩ | ⟨-, hfill⟩ <;> rw [hfill]
    · simp only [List.length_append, List.length_singleton]
      omega
    · exact h

theorem fillAnswer_places (f : Taken) (a : Answer) (s : State) (hs : Places s) : Places (fillAnswer f a s) := by
  obtain ⟨n, d, h, -⟩ := fillAnswer_spec f a s
  rw [h]
  refine places_setOut (s := s.setDraws n) ?_ hs
  rcases ((s.port f.port).out.fill_spec (a.frameOf f d)).2 with ⟨hpos, hreserved, hfilled⟩ | ⟨-, hfill⟩
  · rw [hreserved, hfilled, List.length_append, List.length_singleton]
    show _ ≤ (s.port f.port).out.reserved + _
    have : ((s.setDraws n).port f.port) = s.port f.port := by cases f.port <;> rfl
    rw [this]
    omega
  · rw [hfill]
    cases f.port <;> exact le_refl _

theorem releaseReservations_places (p : Port) (f : LineFrame) (s : State) (hs : Places s) : Places (releaseReservations p f s) := by
  have huplink : Places (s.setUplink { s.uplink with reserved := s.uplink.reserved - 1 }) :=
    places_setUplink (fun h => by dsimp only; omega) hs
  unfold releaseReservations
  dsimp only
  split
  · exact huplink
  · exact places_setOut (Nat.add_le_add_right (Nat.sub_le _ _) _) huplink

/-- The Inspector reserves where both queues have a FREE place (R172). -/
theorem offer_places (p : Port) (f : LineFrame) (s : State) (hs : Places s) : Places (offer p f s).1 := by
  have hqueue (b : Bool) : Places (raiseQueueFull p b s) := places_of_leaves (raiseQueueFull_leaves p b s) (hs := hs)
  have huplink (h : ¬s.uplink.free = 0) : Places (reserveUplink s) := places_setUplink (fun hq => by
    simp only [Uplink.free] at h
    dsimp only
    omega) hs
  unfold offer
  split; · exact hs
  split; · exact hs
  split; · exact hqueue _
  next hfree =>
  split; · exact huplink hfree
  split; · exact hqueue _
  next hout =>
  refine places_setPort (p := p) (fun hq => ⟨?_, hq.2⟩) (huplink hfree)
  have hsame : (reserveUplink s).port p = s.port p := by cases p <;> rfl
  simp only [OutQueue.free] at hout
  simp only [hsame] at hq ⊢
  have := hq.1
  omega

/-- The envelope that the trunk is sending, alone, is kept (R195). -/
theorem emptyUplink_places (s : State) : Places s → Places (emptyUplink s) :=
  places_setUplink fun _ => by
    have hkept : (keptEnvelopes s).length ≤ 1 := by
      unfold keptEnvelopes
      split
      · split
        · exact List.length_take_le 1 _
        · exact Nat.zero_le _
      · exact Nat.zero_le _
    rw [Nat.zero_add]
    exact hkept.trans (by decide)

/-! ## The trunk (R176, R178, R189) -/

theorem PortGrows.refl (q : LinePort) : PortGrows q q := ⟨[], [], by simp⟩

theorem PortGrows.trans {q r v : LinePort} (h : PortGrows q r) (k : PortGrows r v) : PortGrows q v := by
  obtain ⟨more, down, rfl⟩ := h
  obtain ⟨more', down', rfl⟩ := k
  exact ⟨more ++ more', down ++ down', by simp⟩

theorem LinesGrow.refl (s : State) : LinesGrow s s := ⟨fun _ => .refl _, rfl⟩

theorem LinesGrow.trans (h : LinesGrow s t) (k : LinesGrow t u) : LinesGrow s u :=
  ⟨fun p => (h.1 p).trans (k.1 p), k.2.trans h.2⟩

theorem LinesGrow.of_leaves {ex : List Part} (h : unchangedBut ex s t) (hfloor : .floor ∉ ex := by decide) (hroom : .room ∉ ex := by decide)
    (huplink : .uplink ∉ ex := by decide) : LinesGrow s t := by
  refine ⟨fun p => ?_, by rw [h .uplink huplink]⟩
  have hport : t.port p = s.port p := by
    cases p
    · exact h .floor hfloor
    · exact h .room hroom
  rw [hport]
  exact .refl _

/-- Ports grown by placed frames alone. -/
theorem LinesGrow.of_ports (h : PortsGrow s t) (huplink : t.uplink.reserved = s.uplink.reserved) : LinesGrow s t := by
  refine ⟨fun p => ?_, huplink⟩
  obtain ⟨more, hmore⟩ := h p
  exact ⟨more, [], by rw [hmore]; simp⟩

theorem places_setTrunk {x : Trunk} (hx : s.trunk.buffer.length ≤ Config.bufferPlaces → x.buffer.length ≤ Config.bufferPlaces)
    (hs : Places s) : Places (s.setTrunk x) := ⟨hs.1, hs.2.1, hx hs.2.2⟩

theorem popRequest_places (s : State) : Places s → Places (popRequest s) := places_setTrunk (by simp : s.trunk.buffer.tail.length ≤ s.trunk.buffer.length).trans

theorem answerRequest_places (tag : Word16) (code : Byte) (result : Code) (detail : Option Word32) (data : List Byte) (s : State)
    (hs : Places s) : Places (answerRequest tag code result detail data s) := by
  obtain ⟨d, n, -, h⟩ := answerRequest_spec tag code result detail data s
  rw [h]
  exact places_setTrunk (s := s.setDraws n) id hs

theorem downlinkFree_iff : downlinkFree s p = true ↔ (s.port p).down.length < downlinkPlaces p := decide_eq_true_iff

theorem setDown_grows (p : Port) (f : LineFrame) (s : State) : LinesGrow s (s.setDown p ((s.port p).down ++ [f])) := by
  refine ⟨fun q => ?_, by cases p <;> rfl⟩
  have hport : (s.setDown p ((s.port p).down ++ [f])).port q = if p = q then { s.port p with down := (s.port p).down ++ [f] } else s.port q :=
    setPort_port p q _ s
  rw [hport]
  split
  · next he => exact he ▸ ⟨[], [f], by simp⟩
  · exact .refl _

/-- A SEND placed has found a FREE place (R178). -/
theorem placeSend_places (tag : Word16) (f : LineFrame) (h : downlinkFree s p = true) (hs : Places s) : Places (placeSend tag p f s) := by
  refine answerRequest_places _ _ _ _ _ _ (popRequest_places _ (places_setPort (fun hq => ⟨hq.1, ?_⟩) hs))
  rw [List.length_append, List.length_singleton]
  exact downlinkFree_iff.mp h

theorem placeSend_grows (tag : Word16) (p : Port) (f : LineFrame) (s : State) : LinesGrow s (placeSend tag p f s) :=
  (setDown_grows p f s).trans ((LinesGrow.of_leaves (popRequest_leaves _)).trans (.of_leaves (answerRequest_leaves _ _ _ _ _ _)))

theorem placeWaiting_places (s : State) (hs : Places s) : Places (placeWaiting s) := by
  rcases placeWaiting_spec s with ⟨-, h⟩ | ⟨tag, port, pb, kind, dest, body, rest, -, -, hfree, h⟩ <;> rw [h]
  · exact hs
  · exact placeSend_places tag _ hfree hs

theorem placeWaiting_grows (s : State) : LinesGrow s (placeWaiting s) := by
  rcases placeWaiting_spec s with ⟨-, h⟩ | ⟨tag, port, pb, kind, dest, body, rest, -, -, hfree, h⟩ <;> rw [h]
  · exact .refl s
  · exact placeSend_grows tag _ _ s

theorem popAnswered_places (tag : Word16) (code : Byte) (r : Code) (s : State) (hs : Places s) :
    Places (answerRequest tag code r none [] (popRequest s)) := answerRequest_places _ _ _ _ _ _ (popRequest_places s hs)

theorem sendRule_places (tag : Word16) (port pb kind dest : Byte) (body : List Byte) (s : State) (hs : Places s) :
    Places (sendRule tag port pb kind dest body s) := by
  unfold sendRule
  split; · exact popAnswered_places _ _ _ s hs
  split; · exact popAnswered_places _ _ _ s hs
  split
  · next hfree => exact placeSend_places tag _ hfree hs
  · exact places_setTrunk id hs

theorem sendRule_grows (tag : Word16) (port pb kind dest : Byte) (body : List Byte) (s : State) :
    LinesGrow s (sendRule tag port pb kind dest body s) := by
  unfold sendRule
  split; · exact .of_leaves (popAnswered_leaves _ _ _ s)
  split; · exact .of_leaves (popAnswered_leaves _ _ _ s)
  split
  · exact placeSend_grows tag _ _ s
  · exact .of_leaves (setTrunk_leaves _ s)

theorem bufferEntry_places (e : TrunkEntry) (s : State) (hs : Places s) : Places (bufferEntry e s) := by
  rcases bufferEntry_spec e s with ⟨hlt, h⟩ | ⟨-, h⟩ <;> rw [h]
  · exact places_setTrunk (fun _ => by rw [List.length_append]; exact hlt) hs
  · exact places_setTrunk (x := { s.trunk with overrun := countUp s.trunk.overrun }) id hs

theorem trunkChar_places (s : State) (c : Byte) (hs : Places s) : Places (trunkChar s c) := by
  have hrx (u : State) (rx : TrunkRx) (hu : Places u) : Places (u.setTrunk { u.trunk with rx := rx }) := places_setTrunk id hu
  have hframing (u : State) (hu : Places u) : Places (countTrunkFraming u) :=
    places_setTrunk (x := { u.trunk with framing := countUp u.trunk.framing }) id hu
  have hcheck (u : State) (hu : Places u) : Places (countTrunkCheck u) :=
    places_setTrunk (x := { u.trunk with check := countUp u.trunk.check }) id hu
  unfold trunkChar
  split
  · split
    · exact hrx s _ hs
    · exact hs
  · unfold collectTrunk
    split
    · split; · exact hframing _ (hrx s _ hs)
      split; · exact hrx s _ hs
      unfold closeTrunkFrame
      split; · exact hcheck _ (hrx s _ hs)
      split
      · exact bufferEntry_places _ _ (hrx s _ hs)
      · exact hframing _ (hrx s _ hs)
    · exact hrx s _ hs

theorem receiveTrunk_places (chars : List Byte) (s : State) (hs : Places s) : Places (receiveTrunk chars s) := by
  unfold receiveTrunk
  induction chars generalizing s with
  | nil => exact hs
  | cons c chars ih => exact ih (trunkChar s c) (trunkChar_places s c hs)

theorem startTrunk_places (s : State) (hs : Places s) : Places (startTrunk s) := by
  unfold startTrunk
  split
  · exact places_setTrunk id hs
  · split
    · exact places_setTrunk (s := s) id hs
    · split
      · exact places_setTrunk id hs
      · exact hs

theorem holdInput_places (b : Bool) (s : State) (hs : Places s) : Places (holdInput b s) := by
  have hhold : Places (s.setTrunk { s.trunk with holdIn := b }) := places_setTrunk id hs
  unfold holdInput
  dsimp only
  split
  · exact startTrunk_places _ hhold
  · exact hhold

theorem endTrunk_places (x : Sending) (s : State) (hs : Places s) : Places (endTrunk x s) := by
  have hended : Places (s.setTrunk { s.trunk with sending := none }) := places_setTrunk id hs
  unfold endTrunk
  dsimp only
  split
  · exact places_setUplink (fun h => by simp only [List.length_tail] at h ⊢; omega) hended
  · exact hended

theorem endTrunk_grows (x : Sending) (s : State) : LinesGrow s (endTrunk x s) := by
  unfold endTrunk
  dsimp only
  split <;> exact ⟨fun p => by cases p <;> exact .refl _, rfl⟩

end

end Sys2Proof.Machine.Effects

/-! PROOF. Every taking is a run of moves: the frame that is taken, the commands of the line ports, the expiries, the requests and the end of a
taking; and RESTART, with the marked frames that it takes first. -/

namespace Sys2Proof.Machine.Effects

open Sys2Proof Sys2Proof.Machine Sys2Proof.Machine.Takings Sys2Proof.Machine.TallyCount

/-! ## What the inspection reads -/

theorem inspectForm_congr {s t : State} (hnodes : t.nodes = s.nodes) (hday : t.day = s.day) (f : Taken) :
    inspectForm f t = inspectForm f s := by
  have hnode (b : Byte) : t.node b = s.node b := by rw [State.node, State.node, hnodes]
  have hrole (b : Byte) : roleOf t b = roleOf s b := by rw [roleOf, roleOf, hnode]
  have hon (p : Port) (b : Byte) : registeredOn t p b = registeredOn s p b := by rw [registeredOn, registeredOn, hnode]
  have hdetail (b : Byte) : roleDetail t b = roleDetail s b := by rw [roleDetail, roleDetail, hrole]
  unfold inspectForm
  simp only [hon, hrole, hdetail, hday]

theorem witnessPair_congr {s t : State} (hnodes : t.nodes = s.nodes) (w : Witness) (f : Taken) :
    witnessPair t w f = witnessPair s w f := by
  have hnode (b : Byte) : t.node b = s.node b := by rw [State.node, State.node, hnodes]
  have hcand : candidates t f = candidates s f := by simp only [candidates, registeredOn, hnode]
  have hrole (b : Byte) : roleOf t b = roleOf s b := by rw [roleOf, roleOf, hnode]
  have htill (b : Byte) : tillOf t b = tillOf s b := by rw [tillOf, tillOf, hnode]
  have hserves (x r b) : serves t f x r b = serves s f x r b := by simp only [serves, hrole, htill]
  have hchoose (cs l : List Byte) : choosePair t w f cs l = choosePair s w f cs l := by
    induction l with
    | nil => rfl
    | cons a l ih => simp only [choosePair, hserves, ih]
  rw [witnessPair, witnessPair, hcand, hchoose]

section
variable {A : Passage → Prop}

theorem Opens.congr {f : Taken} {s t : State} {ex : List Part} (h : Opens A f s) (hl : unchangedBut ex s t)
    (hex : ∀ b ∈ [Part.nodes, .day, .witness, .safe], b ∉ ex) : Opens A f t := by
  have hnodes : t.nodes = s.nodes := hl .nodes (hex _ (by decide))
  have hday : t.day = s.day := hl .day (hex _ (by decide))
  have hwitness : t.witness = s.witness := hl .witness (hex _ (by decide))
  have hsafe : t.safe = s.safe := hl .safe (hex _ (by decide))
  refine ⟨h.jobs, h.entering, ?_, ?_, ?_⟩
  · rw [inspectForm_congr hnodes hday]
    exact h.load
  · rw [inspectForm_congr hnodes hday]
    exact h.out
  · intro pair
    rw [inspectForm_congr hnodes hday, hwitness, witnessPair_congr hnodes, hsafe]
    exact h.unlock pair

/-! ## At the ports -/

variable {s t : State}

theorem linePart (p : Port) : Part.ofPort p ∈ lineParts := by cases p <;> decide

/-- A change at a port, its events and the uplink queue. -/
theorem line_moves (hA : A .ports) {p : Port} {ex : List Part} (h : unchangedBut (Part.ofPort p :: ex) s t) (hplaces : Places s → Places t)
    (hex : ∀ b ∈ ex, b ∈ lineParts) : Moves A s t :=
  Moves.ports hA h hplaces fun b hb => by
    rcases List.mem_cons.mp hb with rfl | hb
    · exact linePart p
    · exact hex b hb

/-- A change at a port alone. -/
theorem port_moves (hA : A .ports) {p : Port} (h : unchangedBut [Part.ofPort p] s t) (hplaces : Places s → Places t) : Moves A s t :=
  line_moves hA h hplaces nofun

theorem portPart_apart (p : Port) {ex : List Part} (hex : ∀ b ∈ ex, b ∈ lineParts) :
    ∀ b ∈ [Part.nodes, .day, .witness, .safe], b ∉ Part.ofPort p :: ex := by
  intro b hb hmem
  have hport : b ∈ lineParts := by
    rcases List.mem_cons.mp hmem with rfl | hmem
    · exact linePart p
    · exact hex b hmem
  have hapart : ∀ b ∈ [Part.nodes, .day, .witness, .safe], b ∉ lineParts := by decide
  exact hapart b hb hport

theorem setRx_moves (hA : A .ports) (p : Port) (rx : Receiver) (s : State) : Moves A s (s.setRx p rx) :=
  port_moves hA (setRx_leaves p rx s) (setRx_places p rx s)

theorem setTx_moves (hA : A .ports) (p : Port) (tx : Transmitter) (s : State) : Moves A s (s.setTx p tx) :=
  port_moves hA (setTx_leaves p tx s) (setTx_places p tx s)

theorem setLineIdle_moves (hA : A .ports) (p : Port) (b : Bool) (s : State) : Moves A s (s.setLineIdle p b) :=
  port_moves hA (setLineIdle_leaves p b s) (setLineIdle_places p b s)

theorem countError_moves (hA : A .ports) (p : Port) (k : LineCounter) (s : State) : Moves A s (countError p k s) :=
  line_moves hA (countError_leaves p k s) (countError_places p k s) (by decide)

theorem releaseReservations_leaves (p : Port) (f : LineFrame) (s : State) :
    unchangedBut [Part.ofPort p, .uplink] s (releaseReservations p f s) := by
  have huplink : unchangedBut [.uplink] s (s.setUplink { s.uplink with reserved := s.uplink.reserved - 1 }) := setUplink_leaves _ s
  exact unchangedBut_ite (unchangedBut_mono huplink (by simp))
    (unchangedBut_mono (unchangedBut_trans huplink (setOut_leaves p _ _)) (by simp))

theorem freePlace_leaves (p : Port) (src : TxSource) (s : State) : unchangedBut [Part.ofPort p] s (freePlace p src s) := by
  cases src with
  | outgoing i => exact setOut_leaves p _ s
  | downlink => exact setDown_leaves p _ s

theorem txIdle_leaves (p : Port) (c : Option Current) (s : State) : unchangedBut [Part.ofPort p] s (txIdle p c s) :=
  setTx_leaves p _ s

theorem deliverCurrent_leaves (p : Port) (s : State) : unchangedBut [Part.ofPort p] s (deliverCurrent p s) := by
  unfold deliverCurrent
  split
  · exact unchangedBut_comp (txIdle_leaves p none s) (freePlace_leaves p _ _)
  · exact txIdle_leaves p none s

theorem offer_leaves (p : Port) (f : LineFrame) (s : State) : unchangedBut [Part.ofPort p, .uplink, .events] s (offer p f s).1 := by
  have hqueue (b : Bool) : unchangedBut [Part.ofPort p, .uplink, .events] s (raiseQueueFull p b s) :=
    unchangedBut_mono (raiseQueueFull_leaves p b s) (by simp)
  have huplink : unchangedBut [.uplink] s (reserveUplink s) := setUplink_leaves _ s
  unfold offer
  split; · exact unchangedBut_refl _ s
  split; · exact unchangedBut_refl _ s
  split; · exact hqueue _
  split; · exact unchangedBut_mono huplink (by simp)
  split; · exact hqueue _
  exact unchangedBut_mono (unchangedBut_trans huplink (setOut_leaves p _ (reserveUplink s))) (by simp)

theorem tellOwner_moves (c : Current) (s : State) : Moves A s (tellOwner c s) :=
  .ite (fun _ => setSafe_moves rfl rfl rfl) fun _ => .refl A s

theorem failAttempt_moves (hA : A .ports) (p : Port) (s : State) : Moves A s (failAttempt p s) := by
  unfold failAttempt
  split
  · next c _ =>
    refine .ite (fun _ => port_moves hA (txIdle_leaves p _ s) (txIdle_places p _ s)) fun _ => ?_
    have hfreed : Moves A s (freePlace p c.source (txIdle p none s)) :=
      port_moves hA (unchangedBut_comp (txIdle_leaves p none s) (freePlace_leaves p c.source _))
        (freePlace_places p c.source _ ∘ txIdle_places p none s)
    exact (hfreed.trans (countError_moves hA p .undelivered _)).trans (tellOwner_moves c _)
  · exact port_moves hA (txIdle_leaves p none s) (txIdle_places p none s)

theorem errorThenFail_moves (hA : A .ports) (p : Port) (k : LineCounter) (s : State) :
    Moves A s (failAttempt p (countError p k (s.setRx p .waitIdle))) :=
  ((setRx_moves hA p .waitIdle s).trans (countError_moves hA p k _)).trans (failAttempt_moves hA p _)

theorem closeWindow_moves (hA : A .ports) (p : Port) (s : State) : Moves A s (closeWindow p s) := by
  unfold closeWindow
  split
  · exact .ite (fun _ => port_moves hA (deliverCurrent_leaves p s) (deliverCurrent_places p s)) fun _ => failAttempt_moves hA p s
  · exact port_moves hA (txIdle_leaves p none s) (txIdle_places p none s)

/-! ## The frame that is taken (R173 to R176) -/

theorem takeFrame_moves (hA : A .ports) {f : Taken} {s : State} (hopen : Opens A f s) : Moves A s (takeFrame f s) := by
  unfold takeFrame
  refine .ite (fun _ => .ports hA (fillEnvelope_leaves f _ s) (fillEnvelope_places f _ s)) fun _ => ?_
  have hanswer (a u) : Moves A u (fillAnswer f a u) := line_moves hA (fillAnswer_leaves f a u) (fillAnswer_places f a u) (by decide)
  exact ((decideFrame_moves hopen).trans (hanswer _ _)).trans (.ports hA (fillEnvelope_leaves f _ _) (fillEnvelope_places f _ _))

theorem endWindow_moves (hA : A .ports) {p : Port} {w : Window} {s : State} (hopen : w.answer = .marked → Opens A (w.taken p) s) :
    Moves A s (endWindow p w s) := by
  unfold endWindow
  split
  · next h => exact takeFrame_moves hA (hopen h)
  · exact line_moves hA (releaseReservations_leaves p _ s) (releaseReservations_places p _ s) (by decide)
  · exact .refl A s

theorem receiverError_moves (hA : A .ports) {p : Port} (k : LineCounter) {s : State}
    (hopen : ∀ w, markedWindow s p = some w → Opens A (w.taken p) s) : Moves A s (receiverError p k s) := by
  have hcounted := unchangedBut_trans (setRx_leaves p .waitIdle s) (countError_leaves p k _)
  have hmoves := line_moves hA hcounted (countError_places p k _ ∘ setRx_places p .waitIdle s) (by cases p <;> decide)
  unfold receiverError
  split
  · next w hrx =>
    refine hmoves.trans (endWindow_moves hA fun hmarked => ?_)
    exact (hopen w (markedWindow_some.mpr ⟨hrx, hmarked⟩)).congr hcounted (portPart_apart p (by cases p <;> decide))
  · exact hmoves

theorem abandonAttempt_leaves (p : Port) (s : State) : unchangedBut [Part.ofPort p] s (abandonAttempt p s) := txIdle_leaves p _ s

theorem abandonAttempt_rx (p : Port) (s : State) : ((abandonAttempt p s).port p).rx = (s.port p).rx := by cases p <;> rfl

/-! ## The commands of a line port (R153 to R164) -/

theorem closeData_moves (hA : A .ports) {p : Port} (bits : List Bool) {s : State} (h : markedWindow s p = none) :
    Moves A s (closeData p bits s) := by
  have hnone : ∀ w, markedWindow s p = some w → Opens A (w.taken p) s := fun w hw => by
    rw [h] at hw
    cases hw
  unfold closeData
  split
  · exact receiverError_moves hA _ hnone
  · exact receiverError_moves hA _ hnone
  · exact receiverError_moves hA _ hnone
  · exact Moves.trans (line_moves hA (offer_leaves p _ s) (offer_places p _ s) (by decide)) (setRx_moves hA p _ _)

theorem gatherMark_moves (hA : A .ports) {p : Port} (w : Window) (mark : Byte) {s : State}
    (hopen : ∀ w, markedWindow s p = some w → Opens A (w.taken p) s) : Moves A s (gatherMark p w mark s) := by
  unfold gatherMark
  refine .ite (fun _ => receiverError_moves hA _ hopen) fun _ => .ite (fun _ => ?_) fun _ => setRx_moves hA p _ s
  exact (setRx_moves hA p _ s).trans (line_moves hA (releaseReservations_leaves p w.frame _) (releaseReservations_places p w.frame _) (by decide))

theorem recordMark_moves (hA : A .ports) (p : Port) (mark : Byte) (s : State) : Moves A s (recordMark p mark s) := by
  unfold recordMark
  dsimp only
  split
  · exact .ite (fun _ => (setTx_moves hA p _ s).trans (closeWindow_moves hA p _)) fun _ => setTx_moves hA p _ s
  · exact setTx_moves hA p _ s

theorem dataGone_moves (hA : A .ports) (p : Port) (s : State) : Moves A s (dataGone p s) := by
  unfold dataGone
  dsimp only
  split
  · refine .ite (fun _ => ?_) fun _ => setTx_moves hA p _ s
    exact (setTx_moves hA p _ s).trans (port_moves hA (deliverCurrent_leaves p _) (deliverCurrent_places p _))
  · exact port_moves hA (txIdle_leaves p none s) (txIdle_places p none s)

theorem breakEffect_moves (hA : A .ports) {p : Port} {s : State} (hopen : ∀ w, markedWindow s p = some w → Opens A (w.taken p) s) :
    Moves A s (breakEffect p s) := by
  unfold breakEffect
  split
  · refine (port_moves hA (abandonAttempt_leaves p s) (setTx_places p _ s)).trans (receiverError_moves hA .breaks fun w hw => ?_)
    rw [markedWindow_some, abandonAttempt_rx, ← markedWindow_some] at hw
    exact (hopen w hw).congr (abandonAttempt_leaves p s) (portPart_apart p nofun)
  · exact receiverError_moves hA .breaks hopen

/-- The work of a line port's command is a run of moves; a marked frame in its window is taken where the command ends the window as an error. -/
theorem lineWork_moves (hA : A .ports) {p : Port} {c : Instr} {f : State → State} (h : LineWork p s c f)
    (hopen : ∀ w, markedWindow s p = some w → endsWindow p c → Opens A (w.taken p) s) : Moves A s (f s) := by
  have hnone (hrx : ∀ w, (s.port p).rx ≠ .markWindow w) (w : Window) (hw : markedWindow s p = some w) : Opens A (w.taken p) s :=
    absurd (markedWindow_some.mp hw).1 (hrx w)
  cases h with
  | interrupted => exact errorThenFail_moves hA p .symbol s
  | opened => exact (setRx_moves hA p _ s).trans (setLineIdle_moves hA p _ _)
  | faulty k _ hends =>
    refine receiverError_moves hA k fun w hw => ?_
    rcases hends with hrx | hends
    · exact hnone hrx w hw
    · exact hopen w hw hends
  | checked had bits _ hrx =>
    refine closeData_moves hA _ ?_
    unfold markedWindow
    rw [hrx]
  | recorded mark => exact recordMark_moves hA p mark s
  | gathered w mark => exact gatherMark_moves hA w mark fun w hw => hopen w hw (by simp [endsWindow])
  | dropped w _ hrx hanswer => exact (setRx_moves hA p .idle s).trans (endWindow_moves hA fun h => absurd h hanswer)
  | unignored => exact setRx_moves hA p .idle s
  | broken => exact breakEffect_moves hA fun w hw => hopen w hw (by simp [endsWindow])
  | idled => exact (setRx_moves hA p .idle s).trans (setLineIdle_moves hA p _ _)
  | chosen => exact setTx_moves hA p _ s
  | started => exact (setTx_moves hA p _ s).trans (setLineIdle_moves hA p _ _)
  | lost bit => exact (setRx_moves hA p _ s).trans (failAttempt_moves hA p _)
  | headed => exact setTx_moves hA p _ s
  | clashes => exact errorThenFail_moves hA p .clash s
  | sent => exact dataGone_moves hA p s
  | closed => exact closeWindow_moves hA p s

/-! ## The expiries (R87, R94, R103, R133, R148) -/

theorem suspendSession_moves {x : Fin 4} (h : s.sessions[x].state = .counting) : Moves A s (suspendSession x s) :=
  (Move.suspend x h).run.trans (.quiet (raiseNum_leaves .countSuspended s.sessions[x].bag _))

theorem setClockTo_moves {m : Nat} (hm : s.day.clock ≤ 1439 → m ≤ 1439) : Moves A s (setClockTo m s) :=
  (Move.day { s.day with clock := m, clockSecond := s.seconds } hm id).run

theorem advanceClock_moves (s : State) : Moves A s (advanceClock s) := by
  unfold advanceClock
  refine .ite (fun h => (setClockTo_moves fun _ => h).trans (missedCheck_moves _)) fun _ => ?_
  exact ((setClockTo_moves fun _ => Nat.zero_le _).trans Move.passDay.run).trans (missedCheck_moves _)

theorem windowExpired_moves (s : State) : Moves A s (windowExpired s) :=
  (setLock_moves (by simp) (by simp) : Moves A s (setLock .locked none s)).trans (.quiet (raiseNum_leaves .windowExpired s.safe.failed _))

theorem expiry_moves (hA : A .aborting) {c : Instr} {f : State → State} (h : Expiry s c f) : Moves A s (f s) := by
  cases h with
  | delay => exact enterWindow_moves s
  | window => exact windowExpired_moves s
  | relock => exact lockedCommand_moves s
  | countIdle x hx => exact suspendSession_moves hx
  | exchange | sign => exact abortHandover_moves hA .timedOut s
  | clock => exact advanceClock_moves s

/-! ## The trunk (R178, R188 to R191) -/

theorem trunkWork_moves (hA : A .trunk) {c : Instr} {f : State → State} (h : TrunkWork s c f) : Moves A s (f s) := by
  cases h with
  | received chars => exact .trunk hA (receiveTrunk_leaves chars s) (receiveTrunk_places chars s) (.of_leaves (receiveTrunk_leaves chars s))
  | holds asserted => exact .trunk hA (holdInput_leaves asserted s) (holdInput_places asserted s) (.of_leaves (holdInput_leaves asserted s))
  | started => exact .trunk hA (startTrunk_leaves s) (startTrunk_places s) (.of_leaves (startTrunk_leaves s))
  | ended x => exact .trunk hA (endTrunk_leaves x s) (endTrunk_places x s) (endTrunk_grows x s)
  | sends => exact .trunk hA (sendRule_leaves _ _ _ _ _ _ s) (sendRule_places _ _ _ _ _ _ s) (sendRule_grows _ _ _ _ _ _ s)
  | unknown => exact .trunk hA (popAnswered_leaves _ _ _ s) (popAnswered_places _ _ _ s) (.of_leaves (popAnswered_leaves _ _ _ s))

/-! ## The trading day (R142 to R149) -/

theorem changeDay_moves (d : DayState) (s : State) : Moves A s (changeDay d s) :=
  (Move.day { s.day with state := d } id id).run.trans (.quiet (raiseNum_leaves .dayChanged d.code _))

theorem completeClose_moves (h : s.day.state = .closing) (hc : closingConditions s = true) : Moves A s (completeClose s) := by
  have hpurge : Moves A s (purge s) := (Move.purge h hc).run
  have hsummary (x : Summary) (u : State) : Moves A u (u.setDay { u.day with summary := x, armed := true }) :=
    (Move.day { u.day with summary := x, armed := true } id id).run
  exact (hpurge.trans (hsummary _ _)).trans (changeDay_moves .night _)

theorem testClosing_moves (s : State) : Moves A s (testClosing s) := by
  unfold testClosing
  exact .ite (fun h => completeClose_moves h.1 h.2) fun _ => .refl A s

theorem dayOpenDrawer_agrees (d : Drawer) : DrawerAgrees (dayOpenDrawer d) := by
  intro _
  simp [dayOpenDrawer, Drawer.reset]

theorem openDay_moves (s : State) : Moves A s (openDay s) := by
  have hday : Moves A s (s.setDay { s.day with number := (s.day.number + 1) % 65536, armed := false }) :=
    (Move.day { s.day with number := (s.day.number + 1) % 65536, armed := false } id fun _ => by dsimp only; omega).run
  have hdrawers (u : State) : Moves A u (u.setDrawers (mapRows dayOpenDrawer s.drawers)) :=
    (Move.drawers _ fun t _ => by
      rw [Fin.getElem_fin, mapRows_get]
      exact dayOpenDrawer_agrees _).run
  exact ((hday.trans (hdrawers _)).trans Move.openBooks.run).trans (changeDay_moves .opening _)

theorem cancelOrder_moves {i : Fin 24} (h : s.orders[i].state = .pending) : Moves A s (cancelOrder i s) :=
  (Move.cancel i h).run.trans (.quiet (raiseNum_leaves .orderCancelled s.orders[i].till.val _))

theorem cancelPending_moves (s : State) : Moves A s (cancelPending s) :=
  Moves.foldl (fun _ _ => .ite cancelOrder_moves fun _ => .refl A _) _ s

theorem abortSessions_moves (s : State) : Moves A s (abortSessions s) :=
  Moves.foldl (fun _ x => .ite (fun _ => .refl A _) fun h => (Move.abort x h).run) _ s

theorem forceDrawer_money (d : Drawer) : moneyOf (forceDrawer d) = moneyOf d := by
  unfold forceDrawer
  split <;> rfl

theorem closeDay_moves (force : Bool) (s : State) : Moves A s (closeDay force s) := by
  unfold closeDay
  have hcancelled := (changeDay_moves .closing s : Moves A _ _).trans (cancelPending_moves _)
  refine (hcancelled.trans (.ite (fun _ => ?_) fun _ => .refl A _)).trans (testClosing_moves _)
  have hdrawers (u : State) : Moves A u (u.setDrawers (mapRows forceDrawer u.drawers)) :=
    (Move.drawers _ fun t ht => by
      rw [Fin.getElem_fin, mapRows_get]
      exact agrees_of (forceDrawer_money _) ht).run
  exact (hdrawers _).trans (abortSessions_moves _)

theorem setDayClock_moves {m : Nat} (hm : m ≤ 1439) (s : State) : Moves A s (setDayClock m s) := by
  have hspent (u : State) : Moves A u (u.setDay { u.day with armed := false }) := (Move.day { u.day with armed := false } id id).run
  exact ((setClockTo_moves fun _ => hm).trans (hspent _)).trans (missedCheck_moves _)

end

end Sys2Proof.Machine.Effects

/-! PROOF. Every request, the end of a taking and RESTART are runs of moves, and with them every command but POWER_ON. -/

namespace Sys2Proof.Machine.Effects

open Sys2Proof Sys2Proof.Machine Sys2Proof.Machine.Takings Sys2Proof.Machine.TallyCount

section
variable {A : Passage → Prop}

/-! ## The requests (R18, R19, R57, R75, R92, R114, R121, R122, R136, R142 to R149, R184 to R186, R192) -/

theorem putResult_moves {s : State} {r : Except Code State} (h : ∀ t, r = .ok t → Moves A s t) : Moves A s (putResult s r).1 := by
  cases r with
  | ok t => exact (h t rfl).trans (.quiet (setPointer_leaves _ t))
  | error c => exact .refl A s

theorem runPutDenom_moves (fields : List Byte) (s : State) : Moves A s (runPutDenom fields s).1 := by
  unfold runPutDenom
  split
  · exact putResult_moves fun t ht => (Move.denom _ _ ht).run
  · exact .refl A s

theorem runPutRing_moves (fields : List Byte) (s : State) : Moves A s (runPutRing fields s).1 := by
  unfold runPutRing
  split
  · next i b _ _ =>
    refine putResult_moves fun t ht => ?_
    unfold putBooking at ht
    split at ht
    · cases ht
    · next hpart =>
      split at ht
      · cases ht
      · cases ht
        have hoffice : s.ring[i].owner = .office := by
          cases ho : s.ring[i].owner with
          | office => rfl
          | part => exact absurd ho hpart
        exact (Move.slot i (bookedSlot s.ring[i] b) rfl (.inl hoffice)).run
  · exact .refl A s

theorem runDayOpen_moves (fields : List Byte) (s : State) : Moves A s (runDayOpen fields s).1 :=
  run_ite (fun _ => openDay_moves s) fun _ => .refl A s

theorem runDayTrade_moves (fields : List Byte) (s : State) : Moves A s (runDayTrade fields s).1 :=
  run_ite (fun _ => changeDay_moves .trading s) fun _ => .refl A s

theorem runDayClose_moves (fields : List Byte) (s : State) : Moves A s (runDayClose fields s).1 := by
  unfold runDayClose
  split
  · exact .refl A s
  · exact run_ite (fun _ => closeDay_moves _ s) fun _ => .refl A s

theorem runSetClock_moves (fields : List Byte) (s : State) : Moves A s (runSetClock fields s).1 := by
  unfold runSetClock
  split
  · exact .refl A s
  · refine run_ite (fun _ => .refl A s) fun h => run_ite (fun _ => .refl A s) fun _ => run_ite (fun _ => .refl A s) fun _ => ?_
    exact setDayClock_moves (not_lt.mp h) s

theorem runConsignHand_moves (hA : A .handing) (fields : List Byte) (s : State) : Moves A s (runConsignHand fields s).1 := by
  unfold runConsignHand
  split; · exact .refl A s
  split; · exact .refl A s
  next i _ =>
  split; · exact .refl A s
  next hpart =>
  split; · exact .refl A s
  split; · exact .refl A s
  next hpins =>
  have hoffice : s.ring[i].owner = .office := by
    cases ho : s.ring[i].owner with
    | office => rfl
    | part => exact absurd ho hpart
  exact (Move.hand i hA hoffice hpins).run

theorem runConsignRecall_moves (fields : List Byte) (s : State) : Moves A s (runConsignRecall fields s).1 := by
  unfold runConsignRecall
  split; · exact .refl A s
  split; · exact .refl A s
  next i _ =>
  split; · exact .refl A s
  next hoffice =>
  split; · exact .refl A s
  next hactive =>
  have hpart : s.ring[i].owner = .part := by
    cases ho : s.ring[i].owner with
    | office => exact absurd ho hoffice
    | part => rfl
  exact (Move.recallSlot i hpart (Bool.eq_false_iff.mpr hactive)).run

theorem runHatchRelease_moves (fields : List Byte) (s : State) : Moves A s (runHatchRelease fields s).1 := by
  unfold runHatchRelease
  split; · exact .refl A s
  next n _ _ =>
  rcases transition_spec n (moveHatchRelease s.seconds) s with ⟨-, h⟩ | ⟨b, c, -, -, h⟩ | ⟨b, b', hfind, hmove, h⟩ <;> rw [h]
  · exact .refl A s
  · exact .refl A s
  · exact (Move.hatchRelease hfind hmove).run

theorem runOrderCancel_moves (fields : List Byte) (s : State) : Moves A s (runOrderCancel fields s).1 := by
  unfold runOrderCancel
  split; · exact .refl A s
  split; · exact .refl A s
  split
  · exact .refl A s
  · exact .refl A s
  · next h => exact cancelOrder_moves h

theorem runSafeRelease_moves (fields : List Byte) (s : State) : Moves A s (runSafeRelease fields s).1 := by
  refine run_ite (fun _ => ?_) fun _ => .refl A s
  have hlocked : Moves A s (setLock .locked none s) := setLock_moves (by simp) (by simp)
  exact (hlocked.trans (setFailed_moves 0 _)).trans (commandSafe_moves .lock _)

theorem runStockSet_moves (fields : List Byte) (s : State) : Moves A s (runStockSet fields s).1 := by
  unfold runStockSet
  split
  · split; · exact .refl A s
    split; · exact .refl A s
    split; · exact .refl A s
    next henabled =>
    split; · exact .refl A s
    next hreserved => exact (Move.stockSet _ _ _ (by simpa using henabled) (not_lt.mp hreserved)).run
  · exact .refl A s

theorem runSuspectRelease_moves (fields : List Byte) (s : State) : Moves A s (runSuspectRelease fields s).1 := by
  unfold runSuspectRelease
  split
  · split; · exact .refl A s
    split; · exact .refl A s
    exact (Move.suspectRelease _ _).run
  · exact .refl A s

theorem runTillSuspend_moves (fields : List Byte) (s : State) : Moves A s (runTillSuspend fields s).1 := by
  unfold runTillSuspend
  split; · exact .refl A s
  split; · exact .refl A s
  split; · exact .refl A s
  split
  · exact .refl A s
  · exact .refl A s
  all_goals exact touchDrawer_moves rfl

/-- The rule of a request is a run of moves. -/
theorem run_moves {c : Instr} {code : Byte} {variant : State → List Byte → Bool} {run : List Byte → State → State × Result}
    (h : Request c code variant run) (hA : c = .consignHand → A .handing) (fields : List Byte) (s : State) : Moves A s (run fields s).1 := by
  cases h with
  | tableSelect => exact .quiet (runTableSelect_leaves fields s)
  | tableGet => exact .quiet (runTableGet_leaves fields s)
  | tablePut => exact .quiet (runTablePut_leaves fields s)
  | putDenom => exact runPutDenom_moves fields s
  | putNode => exact .quiet (runPutNode_leaves fields s)
  | putWitness => exact .quiet (runPutWitness_leaves fields s)
  | putTill => exact .quiet (runPutTill_leaves fields s)
  | putTiming => exact .quiet (runPutTiming_leaves fields s)
  | putRing => exact runPutRing_moves fields s
  | status | eventsRead => exact .refl A s
  | clearEvents => exact .quiet (runClearEvents_leaves fields s)
  | eventEnable => exact .quiet (runEventEnable_leaves fields s)
  | tallyRead | tallyReadClear => exact .quiet (runTallyRead_leaves fields s)
  | dayOpen => exact runDayOpen_moves fields s
  | dayTrade => exact runDayTrade_moves fields s
  | dayClose | dayCloseForce => exact runDayClose_moves fields s
  | setClock => exact runSetClock_moves fields s
  | consignHand => exact runConsignHand_moves (hA rfl) fields s
  | consignRecall => exact runConsignRecall_moves fields s
  | hatchRelease => exact runHatchRelease_moves fields s
  | orderCancel => exact runOrderCancel_moves fields s
  | safeRelease => exact runSafeRelease_moves fields s
  | stockSet => exact runStockSet_moves fields s
  | suspectRelease => exact runSuspectRelease_moves fields s
  | tillSuspend => exact runTillSuspend_moves fields s

theorem answered_moves (hA : A .trunk) {run : List Byte → State → State × Result} (tag : Word16) (code : Byte) (fields : List Byte)
    (s : State) (hrun : Moves A (popRequest s) (run fields (popRequest s)).1) : Moves A s (answered run tag code fields s) :=
  ((Moves.trunk hA (popRequest_leaves s) (popRequest_places s) (.of_leaves (popRequest_leaves s))).trans hrun).trans
    (.trunk hA (answerRequest_leaves _ _ _ _ _ _) (answerRequest_places _ _ _ _ _ _) (.of_leaves (answerRequest_leaves _ _ _ _ _ _)))

/-! ## The end of a taking (R93, R145, R178, R181, R183) -/

theorem testReports_moves (s t : State) : Moves A t (testReports s t) := by
  unfold testReports
  exact .ite (fun _ => .refl A t) fun _ => testClosing_moves t

theorem sendIfFreed_moves (hA : A .trunk) (s t : State) : Moves A t (sendIfFreed s t) :=
  .ite (fun _ => .refl A t) fun _ => .trunk hA (placeWaiting_leaves t) (placeWaiting_places t) (placeWaiting_grows t)

theorem settle_moves (hA : A .trunk) (s t : State) : Moves A t (settle s t) := by
  have hplaced (u : State) : Moves A u (placeIfFreed s u) := .ite (fun _ => .refl A u) fun _ => placeSafeCommand_moves u
  exact (((testReports_moves s t).trans (hplaced _)).trans (sendIfFreed_moves hA s _)).trans (.quiet (settleEvents_leaves _))

theorem settleRestart_moves (hA : A .trunk) (s t : State) : Moves A t (settleRestart s t) :=
  ((testReports_moves s t).trans (sendIfFreed_moves hA s _)).trans (.quiet (settleEvents_leaves _))

/-! ## Every command but POWER_ON and RESTART -/

/-- The passages that a command needs: those of its own, and those of the marked frame that it takes. -/
structure Passes (A : Passage → Prop) (c : Instr) (s : State) : Prop where
  ports : A .ports
  trunk : A .trunk
  aborting : A .aborting
  handing : c = .consignHand → A .handing
  frame : ∀ (p : Port) (w : Window), markedWindow s p = some w → endsWindow p c ∨ c = frameCommand w.frame p → Opens A (w.taken p) s

theorem taking_moves {c : Instr} {s : State} {f : State → State} (h : Taking s c f) (hp : Passes A c s) :
    Moves A s (f s) := by
  cases h with
  | line h => exact lineWork_moves hp.ports h fun w hw hends => hp.frame _ w hw (.inl hends)
  | frame p w hw =>
    exact (setRx_moves hp.ports p .idle s).trans
      (takeFrame_moves hp.ports ((hp.frame p w hw (.inr rfl)).congr (setRx_leaves p .idle s) (portPart_apart p nofun)))
  | placed => exact placeSafeCommand_moves s
  | expiry h => exact expiry_moves hp.aborting h
  | trunk h => exact trunkWork_moves hp.trunk h
  | request tag fields rest h => exact answered_moves hp.trunk tag _ fields s (run_moves h hp.handing fields _)

/-- Every command but POWER_ON and RESTART is a run of moves. -/
theorem exec_moves {c : Instr} {s t : State} (hpower : c ≠ .powerOn) (hrestart : c ≠ .restart) (hp : Passes A c s)
    (h : exec c s = .next t) : Moves A s t := by
  rcases exec_cases h with rfl | ⟨f, htaking, rfl⟩ | ⟨rfl, -⟩ | ⟨rfl, -⟩
  · exact .refl A t
  · exact (taking_moves htaking hp).trans (settle_moves hp.trunk s _)
  · exact absurd rfl hrestart
  · exact absurd rfl hpower

/-! ## RESTART (R166, R195) -/

theorem takeMarkedWindow_moves (hA : A .ports) {p : Port} {s : State} (hopen : ∀ w, markedWindow s p = some w → Opens A (w.taken p) s) :
    Moves A s (takeMarkedWindow p s) := by
  unfold takeMarkedWindow
  split
  · next w hw =>
    exact (setRx_moves hA p .waitIdle s).trans
      (takeFrame_moves hA ((hopen w hw).congr (setRx_leaves p .waitIdle s) (portPart_apart p nofun)))
  · exact .refl A s

theorem restartPort_moves (hA : A .ports) (p : Port) (s : State) : Moves A s (restartPort p s) := 
  port_moves hA (setPort_leaves p _ s) (restartPort_places p s)

theorem restartLock_moves (s : State) : Moves A s (restartLock s) := by
  unfold restartLock
  have howed (u : State) : Moves A u (u.setSafe { u.safe with owed := true }) := setSafe_moves rfl rfl rfl
  exact Moves.trans (.ite (fun _ => setLock_moves (by simp) (by simp)) fun _ => .refl A s) (howed _)

/-- The rest of RESTART, once the marked frames are taken (R195, steps 2 to 5). -/
def restartRest (s : State) : State :=
  emptyUplink (restartLock (abortHandover .aborted (abortSessions (restartPort .room (restartPort .floor s)))))

theorem runRestart_eq (fields : List Byte) (s : State) : (runRestart fields s).1 = restartRest (takeMarkedWindows s) := rfl

theorem restartRest_moves (hA : A .ports) (hab : A .aborting) (s : State) : Moves A s (restartRest s) := by
  have hports := (restartPort_moves hA .floor s).trans (restartPort_moves hA .room _)
  have hcalls := (hports.trans (abortSessions_moves _)).trans (abortHandover_moves hab .aborted _)
  exact (hcalls.trans (restartLock_moves _)).trans (.ports hA (setUplink_leaves _ _) (emptyUplink_places _))

/-- RESTART takes the marked frame of one port, then that of the other, and then does the rest (R195, log entry 6). -/
theorem takeMarkedWindows_eq (s : State) : ∃ (p q : Port) (u : State), p ≠ q ∧ unchangedBut [.draws] s u ∧
    takeMarkedWindows s = takeMarkedWindow q (takeMarkedWindow p u) := by
  unfold takeMarkedWindows
  split
  · split
    · exact ⟨.floor, .room, _, by decide, setDraws_leaves _ s, rfl⟩
    · exact ⟨.room, .floor, _, by decide, setDraws_leaves _ s, rfl⟩
  · exact ⟨.floor, .room, s, by decide, unchangedBut_refl _ s, rfl⟩

theorem markedWindow_congr {s t : State} {p : Port} (h : (t.port p).rx = (s.port p).rx) : markedWindow t p = markedWindow s p := by
  rw [markedWindow, markedWindow, h]

/-- Taking one port's marked frame leaves the other port's receiver. -/
theorem takeMarkedWindow_other {p q : Port} (hpq : p ≠ q) (s : State) : markedWindow (takeMarkedWindow p s) q = markedWindow s q := by
  unfold takeMarkedWindow
  split
  · next w _ =>
    obtain ⟨r, more, hport, -⟩ := takeFrame_fills (w.taken p) (s.setRx p .waitIdle) q
    refine markedWindow_congr ?_
    rw [hport]
    cases p <;> cases q <;> first | exact absurd rfl hpq | rfl
  · rfl

theorem takeMarkedWindow_leaves (p : Port) (s : State) :
    unchangedBut (Part.jobParts ++ [.uplink, .draws]) s (takeMarkedWindow p s) := by
  unfold takeMarkedWindow
  split
  · exact unchangedBut_comp (unchangedBut_mono (setRx_leaves p .waitIdle s) (by cases p <;> decide)) (takeFrame_leaves _ _)
  · exact unchangedBut_refl _ s

/-- The taking of the two marked frames, each with the passages that it needs where it is taken. -/
theorem takeMarkedWindows_moves (hA : A .ports) {s : State} (hopen : ∀ f u, Opens A f u) : Moves A s (takeMarkedWindows s) := by
  obtain ⟨p, q, u, -, hu, heq⟩ := takeMarkedWindows_eq s
  rw [heq]
  have hframe (p : Port) (u : State) : Moves A u (takeMarkedWindow p u) := takeMarkedWindow_moves hA fun _ _ => hopen _ _
  exact (Moves.ports hA hu (places_of_leaves hu)).trans ((hframe p u).trans (hframe q _))

/-- RESTART as a run: the marked frames, then the rest and the end of the taking. -/
theorem restart_moves (hA : A .ports) (hT : A .trunk) (hab : A .aborting) (hopen : ∀ f u, Opens A f u) {s t : State} (h : exec .restart s = .next t) :
    Moves A s t := by
  rcases restart_takes s with hstay | ⟨tag, fields, rest, -, -, -, htaken⟩
  · rw [hstay] at h
    exact Host.Outcome.next.inj h ▸ .refl A s
  · rw [htaken] at h
    rw [← Host.Outcome.next.inj h]
    refine Moves.trans (answered_moves hT tag _ fields s ?_) (settleRestart_moves hT s _)
    exact (takeMarkedWindows_moves hA hopen).trans (restartRest_moves hA hab _)

end

/-- Every passage is open. -/
def anyPassage : Passage → Prop := fun _ => True

/-- Every command but POWER_ON is a run of moves with every passage open. -/
theorem exec_moves_open {c : Instr} {s t : State} (hpower : c ≠ .powerOn) (h : exec c s = .next t) : Moves anyPassage s t := by
  have hopen (f : Taken) (u : State) : Opens anyPassage f u :=
    ⟨trivial, trivial, fun _ => trivial, fun _ => trivial, fun _ _ _ _ _ => trivial⟩
  by_cases hrestart : c = .restart
  · subst hrestart
    exact restart_moves trivial trivial trivial hopen h
  · exact exec_moves hpower hrestart ⟨trivial, trivial, trivial, fun _ => trivial, fun _ _ _ _ => hopen _ _⟩ h

/-- A property that every move keeps, that holds at power-on, and that reads neither the queue of waiting commands nor the timer of seconds, is kept by a
step. -/
theorem step_keeps_of_moves {P : State → Prop} (hpending : ∀ s x, P s → P (s.setPending x)) (hsecond : ∀ s n, P s → P (s.setSeconds n))
    (hdraws : ∀ s n, P s → P (s.setDraws n)) (hreset : P State.reset)
    (hmove : ∀ {s t}, Move anyPassage s t → P s → P t) {s t : State} (h : step s = .next t) (hs : P s) : P t := by
  refine step_keeps hpending hsecond (fun {c s t} h hs => ?_) h hs
  by_cases hpower : c = .powerOn
  · subst hpower
    rw [← Host.Outcome.next.inj h]
    exact hdraws _ _ (hpending _ _ hreset)
  · exact (exec_moves_open hpower h).keeps hmove hs

end Sys2Proof.Machine.Effects

/-! PROOF. The invariants of one block each: the day clock and the denominations in range, the drawers, the lock's timer and the idle timers. -/

namespace Sys2Proof.Machine.Effects

open Sys2Proof Sys2Proof.Machine Sys2Proof.Machine.Takings Sys2Proof.Machine.TallyCount

section
variable {A : Passage → Prop} {s t : State}

/-! ## The moves whose effect is a choice, by the parts they leave -/

theorem receipt_leaves (n : Nat) (b b' : Bag) (s : State) :
    unchangedBut [.bags, .orders, .drawers] s (match b.order with
      | some i => freeOrder i .done (changeBag n (fun _ => b') s)
      | none => changeBag n (fun _ => b') s) := by
  have hbag := changeBag_leaves n (fun _ => b') s
  split
  · exact unchangedBut_mono (unchangedBut_trans hbag (freeOrder_leaves _ _ _)) (by decide)
  · exact unchangedBut_mono hbag (by decide)

theorem askedSession_leaves (x : Fin 4) (v : Session) (n : Nat) (move : Bag → Except Code Bag) (s : State) :
    unchangedBut [.bags, .sessions] s (setSession x v (askRegister n move s)) :=
  unchangedBut_trans (askRegister_leaves n move s) (setSession_leaves x v _)

theorem acceptCourier_call (s : State) : unchangedBut [.call] s (acceptCourier s) := acceptCourier_leaves s

theorem afterLoad_leaves (i : Fin 16) (s : State) : unchangedBut [.call] s (afterLoad i s) :=
  unchangedBut_ite (setPhase_leaves _ _ _ s) (unchangedBut_refl _ s)

theorem loaded_leaves (i : Fin 16) (n : Nat) (b' : Bag) (s : State) :
    unchangedBut [.bags, .call] s (afterLoad i (changeBag n (fun _ => b') s)) :=
  unchangedBut_trans (changeBag_leaves n _ s) (afterLoad_leaves i _)

theorem aborted_leaves (i : Fin 16) (r : CallResult) (seals outs : List Nat) (s : State) :
    unchangedBut [.bags, .ring, .call] s (endSession (returnSlot i r (flagUnsigned seals (abortBags outs s)))) := by
  have hbags : unchangedBut [.bags] s (flagUnsigned seals (abortBags outs s)) :=
    unchangedBut_comp (setBags_leaves _ s) (setBags_leaves _ _)
  exact unchangedBut_mono (unchangedBut_trans (unchangedBut_trans hbags (returnSlot_leaves i r _)) (endSession_leaves _)) (by decide)

theorem signed_leaves {i : Fin 16} (d : Descriptor) (r : CallResult) {outs : List Nat} {s u : State}
    (hu : unchangedBut [.events] (signBags outs s) u) :
    unchangedBut [.bags, .ring, .call, .events] s (endSession (returnSlot i r (setSlot i d u))) := by
  have hbags : unchangedBut [.bags] s (signBags outs s) := setBags_leaves _ s
  have hslot := unchangedBut_trans (unchangedBut_trans hbags hu) (setSlot_leaves i d u)
  exact unchangedBut_mono (unchangedBut_trans (unchangedBut_trans hslot (returnSlot_leaves i r _)) (endSession_leaves _)) (by decide)

theorem openAccumulators_leaves (s : State) : unchangedBut [.acc] s (openAccumulators s) := setAcc_leaves _ s

theorem opened_leaves (x : Fin 4) (v : Session) (n : Nat) (b' : Bag) (s : State) :
    unchangedBut [.bags, .sessions] s (setSession x v (changeBag n (fun _ => b') s)) :=
  unchangedBut_trans (changeBag_leaves n _ s) (setSession_leaves x v _)

theorem counted_leaves (x : Fin 4) (v : Session) (n : Nat) (b' : Bag) (acc sus : Vector Nat 12) (value : Nat) (s : State) :
    unchangedBut [.stock, .acc, .bags, .sessions] s (setSession x v (changeBag n (fun _ => b') (applyClose acc sus value s))) :=
  unchangedBut_trans (unchangedBut_trans (applyClose_leaves acc sus value s) (changeBag_leaves n _ _)) (setSession_leaves x v _)

theorem withdrawn_leaves (n : Nat) (node : Byte) (b' : Bag) (st : BagState) (detail : Nat) (s : State) :
    unchangedBut [.bags, .safe] s (recordOp .withdraw n node st detail (leaveSafe n (changeBag n (fun _ => b') s))) :=
  unchangedBut_trans (changeBag_leaves n _ s) (unchangedBut_comp (setSafe_leaves _ _) (setSafe_leaves _ _))

theorem passDay_leaves (s : State) : unchangedBut [.ring] s (passDay s) := setRing_leaves _ s

theorem handSlot_leaves (i : Fin 16) (s : State) : unchangedBut [.bags, .ring] s (handSlot i s) :=
  unchangedBut_trans (setBags_leaves _ s) (setSlot_leaves i _ _)

theorem recallSlot_leaves (i : Fin 16) (s : State) : unchangedBut [.bags, .ring] s (recallSlot i s) :=
  unchangedBut_trans (setBags_leaves _ s) (setSlot_leaves i _ _)

theorem freeOrder_agrees (i : Fin 24) (o : OrderOutcome) (s : State) (k : Fin 160) (h : DrawerAgrees s.drawers[k]) :
    DrawerAgrees (freeOrder i o s).drawers[k] := by
  show DrawerAgrees (put s.drawers s.orders[i].till { s.drawers[s.orders[i].till] with openOrder := none })[k]
  rw [put_get]
  split
  · next he =>
    subst he
    exact agrees_of (d := s.drawers[s.orders[i].till]) rfl h
  · exact h

/-! ## What a move is to the blocks that it may touch -/

/-- What stays of the queue of waiting commands, the day, the denominations, the drawers, the lock, the sessions and the ports. -/
structure Touched (A : Passage → Prop) (s t : State) : Prop where
  queue : t.pending = s.pending
  seconds : t.seconds = s.seconds
  day : DayInRange s → DayInRange t
  denoms : t.denoms = s.denoms ∨ ∃ c d, putDenom c d s = .ok t
  drawers : ∀ k : Fin 160, DrawerAgrees s.drawers[k] → DrawerAgrees t.drawers[k]
  timed : SafeTimed s.safe → SafeTimed t.safe
  unlocked : t.safe.lock = .unlocked → s.safe.lock = .unlocked ∨ A .unlocking
  idle : IdleTimed s → IdleTimed t
  grows : A .ports ∨ LinesGrow s t
  trunk : A .trunk ∨ t.trunk = s.trunk
  places : Places s → Places t

/-- The parts that `Touched` speaks of. -/
def touchedParts : List Part := [.pending, .seconds, .day, .denoms, .drawers, .safe, .sessions, .floor, .room, .uplink, .trunk]

/-- A change that leaves one of these parts keeps what is said of it; of the others it must be shown. -/
theorem Touched.of_leaves {ex : List Part} (h : unchangedBut ex s t) (hqueue : .pending ∉ ex := by decide)
    (hseconds : .seconds ∉ ex := by decide) (hday : .day ∈ ex → DayInRange s → DayInRange t := by exact fun hx => absurd hx (by decide))
    (hdenoms : .denoms ∈ ex → ∃ c d, putDenom c d s = .ok t := by exact fun hx => absurd hx (by decide))
    (hdrawers : .drawers ∈ ex → ∀ k : Fin 160, DrawerAgrees s.drawers[k] → DrawerAgrees t.drawers[k] := by exact fun hx => absurd hx (by decide))
    (hsafe : .safe ∈ ex → (SafeTimed s.safe → SafeTimed t.safe) ∧
      (t.safe.lock = .unlocked → s.safe.lock = .unlocked ∨ A .unlocking) := by exact fun hx => absurd hx (by decide))
    (hsessions : .sessions ∈ ex → IdleTimed s → IdleTimed t := by exact fun hx => absurd hx (by decide))
    (hports : .floor ∈ ex ∨ .room ∈ ex ∨ .uplink ∈ ex ∨ .trunk ∈ ex → (A .ports ∨ LinesGrow s t) ∧ (A .trunk ∨ t.trunk = s.trunk) ∧
      (Places s → Places t) := by exact fun hx => absurd hx (by decide)) : Touched A s t where
  queue := h .pending hqueue
  seconds := h .seconds hseconds
  day := by
    by_cases hx : Part.day ∈ ex
    · exact hday hx
    · intro hs
      rw [DayInRange, h .day hx]
      exact hs
  denoms := by
    by_cases hx : Part.denoms ∈ ex
    · exact .inr (hdenoms hx)
    · exact .inl (h .denoms hx)
  drawers := by
    by_cases hx : Part.drawers ∈ ex
    · exact hdrawers hx
    · rw [h .drawers hx]
      exact fun _ => id
  timed := by
    by_cases hx : Part.safe ∈ ex
    · exact (hsafe hx).1
    · rw [h .safe hx]
      exact id
  unlocked := by
    by_cases hx : Part.safe ∈ ex
    · exact (hsafe hx).2
    · rw [h .safe hx]
      exact .inl
  idle := by
    by_cases hx : Part.sessions ∈ ex
    · exact hsessions hx
    · intro hs
      rw [IdleTimed, h .sessions hx]
      exact hs
  grows := by
    by_cases hx : Part.floor ∈ ex ∨ Part.room ∈ ex ∨ Part.uplink ∈ ex ∨ Part.trunk ∈ ex
    · exact (hports hx).1
    · rw [not_or, not_or, not_or] at hx
      exact .inr (.of_leaves h hx.1 hx.2.1 hx.2.2.1)
  trunk := by
    by_cases hx : Part.trunk ∈ ex
    · exact (hports (.inr (.inr (.inr hx)))).2.1
    · exact .inr (h .trunk hx)
  places := by
    by_cases hx : Part.floor ∈ ex ∨ Part.room ∈ ex ∨ Part.uplink ∈ ex ∨ Part.trunk ∈ ex
    · exact (hports hx).2.2
    · rw [not_or, not_or, not_or] at hx
      exact places_of_leaves h hx.1 hx.2.1 hx.2.2.1 hx.2.2.2

/-- A session that takes another state and timer, one fit for the other, leaves an idle timer running exactly in COUNTING (R99, R103). -/
theorem idleTimed_setSession {u : State} {x : Fin 4} {v : Session} (hu : u.sessions = s.sessions)
    (hv : IdleTimed s → (v.timer.isSome = true ↔ v.state = .counting)) (hs : IdleTimed s) : IdleTimed (setSession x v u) := by
  intro y
  have hrow : (setSession x v u).sessions[y] = if x = y then v else s.sessions[y] := by
    show (put u.sessions x v)[y] = _
    rw [hu, put_get]
  rw [hrow]
  split
  · exact hv hs
  · exact hs y

/-- A frame placed has found a FREE place (R161). -/
theorem placeOut_places {p : Port} {f : LineFrame} (h : placeOut p f s = some t) (hs : Places s) : Places t := by
  unfold placeOut at h
  rcases (s.port p).out.place_spec f with ⟨-, hplace⟩ | ⟨hfree, hplace⟩ <;> rw [hplace] at h
  · cases h
  · cases h
    refine places_setPort (p := p) (fun hq => ⟨?_, hq.2⟩) hs
    show (s.port p).out.reserved + ((s.port p).out.filled ++ [f]).length ≤ Config.outgoingPlaces
    simp only [OutQueue.free] at hfree
    rw [List.length_append, List.length_singleton]
    omega

theorem lock_kept {x y : Safe} (hlock : y.lock = x.lock) (htimer : y.timer = x.timer) :
    (SafeTimed x → SafeTimed y) ∧ (y.lock = .unlocked → x.lock = .unlocked ∨ A .unlocking) := by
  rw [SafeTimed, SafeTimed, hlock, htimer]
  exact ⟨id, .inl⟩

theorem Move.touched (h : Move A s t) : Touched A s t := by
  have hnone {u : State} (hu : u.sessions = s.sessions) (x : Fin 4) : IdleTimed s → IdleTimed (setSession x Session.reset u) :=
    idleTimed_setSession hu fun _ => by simp [Session.reset]
  cases h with
  | quiet h => exact .of_leaves h
  | ports hA h hplaces => exact .of_leaves h (hports := fun _ => ⟨.inl hA, .inr (h .trunk (by decide)), hplaces⟩)
  | trunk hA h hplaces hgrow => exact .of_leaves h (hports := fun _ => ⟨.inr hgrow, .inl hA, hplaces⟩)
  | place p f h =>
    have hleaves : unchangedBut [.floor, .room] s t := unchangedBut_mono (placeOut_leaves h) (by cases p <;> decide)
    refine .of_leaves hleaves (hports := fun _ => ?_)
    exact ⟨.inr (.of_ports (placeOut_grows h) (by rw [hleaves .uplink (by decide)])), .inr (hleaves .trunk (by decide)), placeOut_places h⟩
  | drawers v h => exact .of_leaves (setDrawers_leaves v s) (hdrawers := fun _ => h)
  | lock x _ ht hu => exact .of_leaves (setSafe_leaves x s) (hsafe := fun _ => ⟨ht, hu⟩)
  | day x hc hn => exact .of_leaves (setDay_leaves x s) (hday := fun _ h => ⟨hc h.1, hn h.2⟩)
  | openBooks => exact .of_leaves (openAccumulators_leaves s)
  | denom c d h => exact .of_leaves (putDenom_leaves h) (hdenoms := fun _ => ⟨c, d, h⟩)
  | stockSet c l k _ _ => exact .of_leaves (setStockCounts_leaves c l k s)
  | suspectRelease c n => exact .of_leaves (setStock_leaves _ s)
  | newBag b _ _ _ _ _ => exact .of_leaves (addBag_leaves b s)
  | newOrder i o _ _ _ _ => exact .of_leaves (unchangedBut_trans (setOrder_leaves i o s) (reserve_leaves o.issue _))
  | cancel i _ =>
    refine .of_leaves (unchangedBut_trans (release_leaves s.orders[i].issue s) (freeOrder_leaves i .cancelled _)) (hdrawers := fun _ k => ?_)
    exact freeOrder_agrees i .cancelled (release s.orders[i].issue s) k
  | makeUp i n _ _ => exact .of_leaves (makeUpOrder_leaves i n s)
  | consign n v _ _ _ => exact .of_leaves (unchangedBut_trans (drawStraps_leaves v _ s) (addBag_leaves _ _))
  | @restock n b b' _ _ _ _ =>
    refine .of_leaves (restockBag_leaves b b' s) (hdrawers := fun _ k hk => ?_)
    unfold restockBag
    dsimp only
    split
    · exact freeOrder_agrees _ .restocked _ k hk
    · exact hk
  | @receipt n b b' _ _ _ =>
    refine .of_leaves (receipt_leaves n b b' s) (hdrawers := fun _ k hk => ?_)
    split
    · exact freeOrder_agrees _ .done _ k hk
    · exact hk
  | @enter op way node n b b' _ _ _ _ => exact .of_leaves (acceptEntry_leaves op way b' node s) (hsafe := fun _ => lock_kept rfl rfl)
  | @withdraw node n b b' _ _ _ => exact .of_leaves (withdrawn_leaves n node b' _ _ s) (hsafe := fun _ => lock_kept rfl rfl)
  | openCount x node _ _ _ =>
    refine .of_leaves (opened_leaves x _ _ _ s) (hsessions := fun _ => idleTimed_setSession ?_ fun _ => by simp [idleDeadline])
    exact changeBag_leaves _ _ s .sessions (by decide)
  | resume x node _ =>
    refine .of_leaves (askedSession_leaves x _ _ _ s) (hsessions := fun _ => idleTimed_setSession ?_ fun _ => by simp [idleDeadline])
    exact askRegister_leaves _ _ s .sessions (by decide)
  | session x v hv _ ht _ _ =>
    refine .of_leaves (setSession_leaves x v s) (hsessions := fun _ => idleTimed_setSession rfl fun hs => ?_)
    rcases ht with ht | ⟨hcounting, htimer⟩
    · rw [ht, hv]
      exact hs x
    · simp [hcounting, htimer]
  | suspend x _ =>
    refine .of_leaves (askedSession_leaves x _ _ _ s) (hsessions := fun _ => idleTimed_setSession ?_ fun _ => by simp)
    exact askRegister_leaves _ _ s .sessions (by decide)
  | abort x _ =>
    exact .of_leaves (askedSession_leaves x _ _ _ s) (hsessions := fun _ => hnone (askRegister_leaves _ _ s .sessions (by decide)) x)
  | count x _ _ _ _ _ _ =>
    refine .of_leaves (counted_leaves x _ _ _ _ _ _ s) (hsessions := fun _ => hnone ?_ x)
    exact unchangedBut_trans (applyClose_leaves _ _ _ s) (changeBag_leaves _ _ _) .sessions (by decide)
  | slot i d _ _ => exact .of_leaves (setSlot_leaves i d s)
  | passDay => exact .of_leaves (passDay_leaves s)
  | hand i _ _ _ => exact .of_leaves (handSlot_leaves i s)
  | recallSlot i _ _ => exact .of_leaves (recallSlot_leaves i s)
  | returnHead r _ _ => exact .of_leaves (returnSlot_leaves s.call.next r s)
  | refused k => exact .of_leaves (setCall_leaves _ s)
  | announce _ _ => exact .of_leaves (acceptCourier_leaves s)
  | load i _ _ _ _ _ => exact .of_leaves (loaded_leaves i _ _ s)
  | hatchRelease _ _ => exact .of_leaves (changeBag_leaves _ _ s)
  | abortCall i r _ _ _ => exact .of_leaves (aborted_leaves i r _ _ s)
  | sign i d r _ _ hu => exact .of_leaves (signed_leaves d r hu)
  | purge _ _ => exact .of_leaves (setBags_leaves _ s)

/-! ## Every command answers -/

/-- Settles O3: a command other than POWER_ON is a run of moves, and no move is at the queue of waiting commands. -/
theorem everyCommandAnswers : Obligations.EveryCommandAnswers := by
  intro c s
  by_cases hpower : c = .powerOn
  · subst hpower
    exact ⟨_, rfl, rfl⟩
  have hnext : ∃ t, exec c s = .next t := by
    by_cases hrestart : c = .restart
    · subst hrestart
      rcases restart_takes s with h | ⟨_, _, _, -, -, -, h⟩ <;> exact ⟨_, h⟩
    · obtain ⟨t, h, -⟩ := exec_takes hpower hrestart s
      exact ⟨t, h⟩
  obtain ⟨t, h⟩ := hnext
  refine ⟨t, h, ?_⟩
  exact Moves.induct (R := fun s t => t.pending = s.pending) (fun _ => rfl) (fun h k => k.trans h) (fun h => h.touched.queue)
    (exec_moves_open hpower h)

/-! ## The day and the denominations (R4, R141, R148) -/

/-- What a write to DENOM that is taken has met, and what it leaves (R5 to R7). -/
theorem putDenom_ok {c : Fin 12} {d : Denom} (h : putDenom c d s = .ok t) :
    t = s.setDenoms (put s.denoms c d.clamped) ∧ s.day.state = .night ∧
      (changesHeld s.denoms[c] d.clamped && inUse s c) = false := by
  unfold putDenom at h
  split at h
  · cases h
  · next hnight =>
    split at h
    · cases h
    · split at h
      · cases h
      · next hheld => exact ⟨(Except.ok.inj h).symm, not_not.mp hnight, Bool.eq_false_iff.mpr hheld⟩

theorem clamped_inRange (d : Denom) : 1 ≤ d.clamped.face ∧ d.clamped.face ≤ 1000000 ∧ 1 ≤ d.clamped.strap ∧ d.clamped.strap ≤ 1000 ∧
    1 ≤ d.clamped.packet ∧ d.clamped.packet ≤ 1000 := by
  simp only [Denom.clamped, clamp]
  omega

theorem Move.denoms_inRange (h : Move A s t) (hs : DenomsInRange s) : DenomsInRange t := by
  rcases h.touched.denoms with h | ⟨c, d, h⟩
  · rw [DenomsInRange, h]
    exact hs
  · obtain ⟨rfl, -⟩ := putDenom_ok h
    intro k
    have hrow : (s.setDenoms (put s.denoms c d.clamped)).denoms[k] = if c = k then d.clamped else s.denoms[k] := put_get _ _ _ _
    rw [hrow]
    split
    · exact fun _ => clamped_inRange d
    · exact hs k

theorem reset_dayInRange : DayInRange State.reset := ⟨by decide, by decide⟩

theorem reset_denomsInRange : DenomsInRange State.reset := by
  have hrows : ∀ c : Fin 12, State.reset.denoms[c].enabled = false := by decide
  exact fun c h => absurd ((hrows c).symm.trans h) (by decide)

end

/-- Settles O8: each move keeps the ranges, and a write to DENOM clamps. -/
theorem stepKeepsRanges : Obligations.StepKeepsRanges := fun _ _ h =>
  ⟨step_keeps_of_moves (fun _ _ h => h) (fun _ _ h => h) (fun _ _ h => h) reset_dayInRange (fun h => h.touched.day) h,
    step_keeps_of_moves (fun _ _ h => h) (fun _ _ h => h) (fun _ _ h => h) reset_denomsInRange Move.denoms_inRange h⟩

end Sys2Proof.Machine.Effects

/-! PROOF. The movements of a drawer: every step keeps expected cash the sum of the movements, and each movement saturates as R1 says. -/

namespace Sys2Proof.Machine.Effects

open Sys2Proof Sys2Proof.Machine

theorem reset_drawersAgree : DrawersAgree State.reset := by
  intro t _
  have hrow : State.reset.drawers[t] = Drawer.reset := by
    show (Vector.replicate 160 Drawer.reset)[t] = _
    rw [Fin.getElem_fin, Vector.getElem_replicate]
  rw [hrow]
  decide

theorem step_drawersAgree {s t : State} (hs : DrawersAgree s) (h : step s = .next t) : DrawersAgree t :=
  step_keeps_of_moves (fun _ _ h => h) (fun _ _ h => h) (fun _ _ h => h) reset_drawersAgree
    (fun h hs k => h.touched.drawers k (hs k)) h hs

/-! ## One movement (R1, R46) -/

theorem satNat_held (n : Nat) : (satNat n).1 = min Config.top32 n := by rw [satNat_fst, Nat.min_comm]

/-- A movement that lowers expected cash takes it to the exact difference, held at the ends. -/
theorem lowered_held (i : Int) (v : Nat) : (satInt (i + -(v : Int))).1 = max Config.low31 (min Config.high31 (i - v)) := by
  rw [← sub_eq_add_neg, satInt_fst]

theorem or_saturated {b x y : Bool} {p q : Prop} (hx : x = true ↔ p) (hy : y = true ↔ q) :
    (b || x || y) = true ↔ b = true ∨ p ∨ q := by
  rw [Bool.or_eq_true, Bool.or_eq_true, hx, hy, or_assoc]

/-- A movement with a sum of 32 bits saturates where that sum or expected cash would pass its range (R46). -/
theorem lowered_saturated (b : Bool) (n : Nat) (i : Int) (v : Nat) :
    (b || (satNat n).2 || (satInt (i + -(v : Int))).2) = true ↔
      b = true ∨ Config.top32 < n ∨ i - v < Config.low31 ∨ Config.high31 < i - v := by
  rw [← sub_eq_add_neg]
  exact or_saturated (satNat_snd n) (satInt_snd _)

theorem raised_saturated (b : Bool) (n : Nat) (i : Int) :
    (b || (satNat n).2 || (satInt i).2) = true ↔ b = true ∨ Config.top32 < n ∨ i < Config.low31 ∨ Config.high31 < i :=
  or_saturated (satNat_snd n) (satInt_snd i)

/-- The same for net tendered, a signed 32-bit sum. -/
theorem tendered_saturated (b : Bool) (i j : Int) :
    (b || (satInt i).2 || (satInt j).2) = true ↔
      b = true ∨ i < Config.low31 ∨ Config.high31 < i ∨ j < Config.low31 ∨ Config.high31 < j := by
  rw [or_saturated (satInt_snd i) (satInt_snd j), or_assoc]

/-- Settles O26: the sums by `Move.touched`, the arithmetic by the ends of `satInt` and `satNat`. -/
theorem movementArithmetic : Obligations.MovementArithmetic := by
  refine ⟨fun s t hs h => step_drawersAgree hs h, fun d net v => ⟨?_, ?_, ?_, ?_, ?_⟩⟩
  · exact ⟨satInt_fst _, satInt_fst _, tendered_saturated _ _ _⟩
  · exact ⟨satNat_held _, lowered_held _ v, lowered_saturated _ _ _ v⟩
  · exact ⟨satNat_held _, rfl, lowered_held _ v, rfl, lowered_saturated _ _ _ v⟩
  · exact ⟨satNat_held _, rfl, congrArg some (satInt_fst _), lowered_held _ v, lowered_saturated _ _ _ v⟩
  · exact ⟨satNat_held _, satInt_fst _, rfl, raised_saturated _ _ _⟩

end Sys2Proof.Machine.Effects

/-! PROOF. The register: how a move changes its records, row by row, and with it the seals, the inventory and the pins. -/

namespace Sys2Proof.Machine.Effects

open Sys2Proof Sys2Proof.Machine

section
variable {A : Passage → Prop} {s t : State} {n : Nat} {b b' : Bag}

/-! ## The records and their seals (R25) -/

theorem sealNo_inj (hd : SealsDistinct s) (hb : b ∈ s.bags) (hb' : b' ∈ s.bags) (h : b.sealNo = b'.sealNo) : b = b' :=
  List.inj_on_of_nodup_map hd.1 hb hb' h

/-- With distinct seals a record is found by its seal. -/
theorem findBag_of_mem (hd : SealsDistinct s) (hb : b ∈ s.bags) : findBag s b.sealNo = some b := by
  cases h : findBag s b.sealNo with
  | none => exact absurd rfl (findBag_none.mp h b hb)
  | some c =>
    obtain ⟨hc, hseal⟩ := findBag_some h
    rw [sealNo_inj hd hc hb hseal]

theorem findBag_iff (hd : SealsDistinct s) : findBag s n = some b ↔ b ∈ s.bags ∧ b.sealNo = n :=
  ⟨findBag_some, fun ⟨hb, hn⟩ => hn ▸ findBag_of_mem hd hb⟩

theorem changeBag_const (n : Nat) (b' : Bag) (s : State) :
    (changeBag n (fun _ => b') s).bags = s.bags.map fun b => if b.sealNo = n then b' else b := rfl

/-! ## What the transitions change (R28 to R32) -/

theorem drop_ok {now : Nat} (h : moveDrop now b = .ok b') :
    (b.kind.counted = true ∧ (b.state = .sealed ∨ b.state = .received)) ∧ b' = b.moved .inSafe now := by
  unfold moveDrop at h
  split at h
  · next hg => exact ⟨by simpa using hg, (Except.ok.inj h).symm⟩
  · cases h

theorem deposit_ok {now : Nat} (h : moveDeposit now b = .ok b') :
    b.state = .hatchHeld ∧ b' = { b.moved .inSafe now with pin := none } ∨
    (b.kind.counted = true ∧ (b.state = .sealed ∨ b.state = .received ∨ b.state = .outForCount) ∨
      b.kind.counted = false ∧ b.state = .madeUp ∨ b.kind = .consignment ∧ b.state = .inHandling) ∧ b' = b.moved .inSafe now := by
  unfold moveDeposit at h
  split at h
  · next hg => exact .inl ⟨hg, (Except.ok.inj h).symm⟩
  · split at h
    · next hg => exact .inr ⟨.inl (by simpa [or_assoc] using hg), (Except.ok.inj h).symm⟩
    · split at h
      · next hg => exact .inr ⟨.inr (.inl (by simpa using hg)), (Except.ok.inj h).symm⟩
      · split at h
        · next hg => exact .inr ⟨.inr (.inr (by simpa using hg)), (Except.ok.inj h).symm⟩
        · cases h

/-- A withdrawal takes a bag IN_SAFE to the state of its kind; a pinned consignment into IN_HANDLING for the slot in session (R28, R29). -/
theorem withdraw_ok {call : Handover} {now : Nat} (h : moveWithdraw call now b = .ok b') :
    b.state = .inSafe ∧
    (b.kind.counted = true ∧ b' = b.moved .outForCount now ∨
      b.kind.counted = false ∧ (b.kind = .consignment → b.pin = none) ∧ b' = b.moved .madeUp now ∨
      b.kind = .consignment ∧ ∃ i, b.pin = some i ∧ call.activeOn i = true ∧ b' = b.moved .inHandling now) := by
  unfold moveWithdraw at h
  split at h
  · cases h
  · next hg =>
    refine ⟨not_not.mp hg, ?_⟩
    split at h
    · next hk => exact .inl ⟨by rw [hk]; rfl, (Except.ok.inj h).symm⟩
    · next hk => exact .inl ⟨by rw [hk]; rfl, (Except.ok.inj h).symm⟩
    · next hk => exact .inl ⟨by rw [hk]; rfl, (Except.ok.inj h).symm⟩
    · next hk => exact .inr (.inl ⟨by rw [hk]; rfl, by rw [hk]; nofun, (Except.ok.inj h).symm⟩)
    · next hk =>
      split at h
      · next hp => exact .inr (.inl ⟨by rw [hk]; rfl, fun _ => hp, (Except.ok.inj h).symm⟩)
      · next i hp =>
        split at h
        · next ha => exact .inr (.inr ⟨hk, i, hp, ha, (Except.ok.inj h).symm⟩)
        · cases h

theorem open_ok {x : Fin 4} {now : Nat} (h : moveOpen x now b = .ok b') : b.pin = none ∧
    (b.state = .outForCount ∧ b' = { b.moved .counting now with session := some x } ∨
      b.state = .countSuspended ∧ b.session = some x ∧ b' = b.moved .counting now) := by
  unfold moveOpen at h
  split at h
  · cases h
  · next hp =>
    refine ⟨by simpa using hp, ?_⟩
    split at h
    · next hg => exact .inl ⟨hg, (Except.ok.inj h).symm⟩
    · split at h
      · next hg =>
        obtain ⟨hs, hx⟩ : b.state = .countSuspended ∧ b.session = some x := by simpa using hg
        exact .inr ⟨hs, hx, (Except.ok.inj h).symm⟩
      · cases h

theorem suspend_ok {now : Nat} (h : moveSuspend now b = .ok b') : b.state = .counting ∧ b' = b.moved .countSuspended now := by
  unfold moveSuspend at h
  split at h
  · next hg => exact ⟨hg, (Except.ok.inj h).symm⟩
  · cases h

theorem abort_ok {x : Fin 4} {now : Nat} (h : moveAbort x now b = .ok b') :
    (b.state = .counting ∨ b.state = .countSuspended) ∧ b.session = some x ∧
      b' = { b.moved .outForCount now with session := none } := by
  unfold moveAbort at h
  split at h
  · next hg =>
    obtain ⟨hs, hx⟩ : (b.state = .counting ∨ b.state = .countSuspended) ∧ b.session = some x := by simpa using hg
    exact ⟨hs, hx, (Except.ok.inj h).symm⟩
  · cases h

theorem close_ok {x : Fin 4} {counted suspect : Nat} {variance : Int} {cls : BagClass} {now : Nat}
    (h : moveClose x counted suspect variance cls now b = .ok b') :
    b.state = .counting ∧ b.session = some x ∧ b' = { b.moved .counted now with
      session := none, counted := some counted, suspect := some suspect, variance := some variance, cls := some cls } := by
  unfold moveClose at h
  split at h
  · next hg =>
    obtain ⟨hs, hx⟩ : b.state = .counting ∧ b.session = some x := by simpa using hg
    exact ⟨hs, hx, (Except.ok.inj h).symm⟩
  · cases h

theorem load_ok {now : Nat} (h : moveLoad now b = .ok b') : b.state = .inHandling ∧ b' = b.moved .loaded now := by
  unfold moveLoad at h
  split at h
  · next hg => exact ⟨hg, (Except.ok.inj h).symm⟩
  · cases h

theorem hatchRelease_ok {now : Nat} (h : moveHatchRelease now b = .ok b') :
    b.state = .hatchHeld ∧ b' = { b.moved .handedOver now with pin := none } := by
  unfold moveHatchRelease at h
  split at h
  · next hg => exact ⟨hg, (Except.ok.inj h).symm⟩
  · cases h

theorem receipt_ok {now : Nat} (h : moveReceipt now b = .ok b') :
    b.kind = .floatBag ∧ b.state = .madeUp ∧ b' = b.moved .delivered now := by
  unfold moveReceipt at h
  split at h
  · next hg =>
    obtain ⟨hk, hs⟩ : b.kind = .floatBag ∧ b.state = .madeUp := by simpa using hg
    exact ⟨hk, hs, (Except.ok.inj h).symm⟩
  · cases h

theorem restock_ok {now : Nat} (h : moveRestock now b = .ok b') :
    b.kind.counted = false ∧ b.state = .madeUp ∧ b' = b.moved .restocked now := by
  unfold moveRestock at h
  split at h
  · next hg =>
    obtain ⟨hk, hs⟩ : b.kind.counted = false ∧ b.state = .madeUp := by simpa using hg
    exact ⟨hk, hs, (Except.ok.inj h).symm⟩
  · cases h

/-! ## One change of a record -/

/-- One change of a record, with what its rule has checked of it (R28 to R35). -/
inductive RowMove (A : Passage → Prop) (call : Handover) (b : Bag) : Bag → Prop
  | entered (now : Nat) : A .entering → b.kind.counted = true ∧ (b.state = .sealed ∨ b.state = .received ∨ b.state = .outForCount) ∨
      b.kind.counted = false ∧ b.state = .madeUp ∨ b.kind = .consignment ∧ b.state = .inHandling → RowMove A call b (b.moved .inSafe now)
  | reentered (now : Nat) : A .entering → b.state = .hatchHeld → RowMove A call b { b.moved .inSafe now with pin := none }
  | withdrawn (now : Nat) {c : Bag} : A .withdrawal → moveWithdraw call now b = .ok c → RowMove A call b c
  | opened (x : Fin 4) (now : Nat) : A .counting → b.pin = none → b.state = .outForCount →
      RowMove A call b { b.moved .counting now with session := some x }
  | resumed (x : Fin 4) (now : Nat) : A .counting → b.pin = none → b.state = .countSuspended → b.session = some x → RowMove A call b (b.moved .counting now)
  | suspended (now : Nat) : A .counting → b.state = .counting → RowMove A call b (b.moved .countSuspended now)
  | aborted (x : Fin 4) (now : Nat) : A .counting → b.state = .counting ∨ b.state = .countSuspended → b.session = some x →
      RowMove A call b { b.moved .outForCount now with session := none }
  | closed (x : Fin 4) (counted suspect : Nat) (variance : Int) (cls : BagClass) (now : Nat) : A .counting → b.state = .counting → b.session = some x →
      RowMove A call b { b.moved .counted now with
        session := none, counted := some counted, suspect := some suspect, variance := some variance, cls := some cls }
  | loaded (now : Nat) : A .loading → b.state = .inHandling → RowMove A call b (b.moved .loaded now)
  | released (now : Nat) : b.state = .hatchHeld → RowMove A call b { b.moved .handedOver now with pin := none }
  | delivered (now : Nat) : A .jobs → b.kind = .floatBag → b.state = .madeUp → RowMove A call b (b.moved .delivered now)
  | restocked (now : Nat) : A .jobs → b.kind.counted = false → b.state = .madeUp → RowMove A call b (b.moved .restocked now)
  | signed (now : Nat) : A .signing → b.state = .loaded → RowMove A call b (b.moved .handedOver now)
  | held (now : Nat) : A .aborting → b.state = .loaded → RowMove A call b (b.moved .hatchHeld now)
  | returned (now : Nat) : A .aborting → b.state = .inHandling → RowMove A call b { b.moved .madeUp now with pin := none }
  | flagged : A .aborting → RowMove A call b { b with unsigned := true }
  | pinned (i : Fin 16) : A .handing → b.kind = .consignment → b.state = .inSafe → b.pin = none → RowMove A call b { b with pin := some i }
  | unpinned : A .unpinning → b.state = .inSafe ∨ b.state = .handedOver → RowMove A call b { b with pin := none }

/-- What a change of a record keeps. -/
theorem RowMove.keeps {call : Handover} (h : RowMove A call b b') : b'.sealNo = b.sealNo ∧ b'.kind = b.kind ∧
    b'.declared = b.declared ∧ b'.counts = b.counts ∧ b'.order = b.order := by
  cases h with
  | withdrawn now _ hm =>
    rcases (withdraw_ok hm).2 with ⟨-, rfl⟩ | ⟨-, -, rfl⟩ | ⟨-, i, -, -, rfl⟩ <;> exact ⟨rfl, rfl, rfl, rfl, rfl⟩
  | _ => exact ⟨rfl, rfl, rfl, rfl, rfl⟩

/-- A run of changes of one record. -/
def RowMoves (A : Passage → Prop) (call : Handover) : Bag → Bag → Prop := Relation.ReflTransGen (RowMove A call)

theorem RowMove.run {call : Handover} (h : RowMove A call b b') : RowMoves A call b b' := Relation.ReflTransGen.single h

theorem RowMoves.refl (call : Handover) (b : Bag) : RowMoves A call b b := Relation.ReflTransGen.refl

theorem RowMoves.keeps {call : Handover} (h : RowMoves A call b b') : b'.sealNo = b.sealNo ∧ b'.kind = b.kind ∧
    b'.declared = b.declared ∧ b'.counts = b.counts ∧ b'.order = b.order := by
  induction h with
  | refl => exact ⟨rfl, rfl, rfl, rfl, rfl⟩
  | tail _ hlast ih =>
    obtain ⟨h1, h2, h3, h4, h5⟩ := hlast.keeps
    obtain ⟨k1, k2, k3, k4, k5⟩ := ih
    exact ⟨h1.trans k1, h2.trans k2, h3.trans k3, h4.trans k4, h5.trans k5⟩

/-! ## What a move does to the register -/

/-- A record as it is created (R15, R26, R71). -/
def Fresh (b : Bag) : Prop :=
  b.pin = none ∧ b.session = none ∧
    (b.kind.counted = true ∧ (b.state = .sealed ∨ b.state = .received) ∨ b.kind.counted = false ∧ b.state = .madeUp)

/-- The register after a move: every record changed by a run of changes, a record added, or the terminal ones removed. -/
inductive Register (A : Passage → Prop) (s : State) : List Bag → Prop
  | mapped (f : Bag → Bag) : (∀ b ∈ s.bags, (f b).sealNo = b.sealNo) → (SealsDistinct s → ∀ b ∈ s.bags, RowMoves A s.call b (f b)) →
      Register A s (s.bags.map f)
  | added (b : Bag) : createCheck s b.sealNo b.declared = none → Fresh b → Register A s (s.bags ++ [b])
  | purged : Register A s (s.bags.filter fun b => !b.state.terminal)

theorem Register.kept (h : t.bags = s.bags) : Register A s t.bags := by
  have hid : t.bags = s.bags.map id := by rw [h, List.map_id]
  rw [hid]
  exact .mapped id (fun _ _ => rfl) fun _ b _ => .refl s.call b

/-- A change of a record by its seal. -/
theorem Register.changed (hfind : findBag s n = some b) (h : RowMove A s.call b b') :
    Register A s (s.bags.map fun c => if c.sealNo = n then b' else c) := by
  obtain ⟨hb, hn⟩ := findBag_some hfind
  refine .mapped _ (fun c _ => ?_) fun hd c hc => ?_
  · split
    · next he => exact h.keeps.1.trans (hn.trans he.symm)
    · rfl
  · split
    · next he =>
      rw [sealNo_inj hd hc hb (he.trans hn.symm)]
      exact h.run
    · exact .refl _ _

theorem Register.asked {move : Bag → Except Code Bag} (h : ∀ b b', move b = .ok b' → RowMove A s.call b b') (n : Nat) :
    Register A s (askRegister n move s).bags := by
  unfold askRegister
  rcases transition_spec n move s with ⟨-, ht⟩ | ⟨b, c, -, -, ht⟩ | ⟨b, b', hfind, hmove, ht⟩ <;> rw [ht]
  · exact .kept rfl
  · exact .kept rfl
  · exact .changed hfind (h b b' hmove)

theorem pinCheck_mem {earlier seals : List Nat} (h : pinCheck s earlier seals = none) :
    ∀ n ∈ seals, ∃ b, findBag s n = some b ∧ b.kind = .consignment ∧ b.state = .inSafe ∧ b.pin = none := by
  induction seals generalizing earlier with
  | nil => simp
  | cons m rest ih =>
    unfold pinCheck at h
    split at h
    · cases h
    · next b hb =>
      split at h
      · cases h
      · next hk =>
        split at h
        · cases h
        · next hp =>
          split at h
          · cases h
          · intro n hn
            rcases List.mem_cons.mp hn with rfl | hn
            · obtain ⟨hkind, hstate⟩ := not_not.mp hk
              exact ⟨b, hb, hkind, hstate, by simpa using hp⟩
            · exact ih h n hn

/-- The return of a slot clears its pins on IN_SAFE and HANDED_OVER records (R34). -/
theorem unpinReturned_row (hA : A .unpinning) (call : Handover) (i : Fin 16) (b : Bag) :
    RowMoves A call b (if b.pin = some i && (b.state = .inSafe || b.state = .handedOver) then { b with pin := none } else b) := by
  split
  · next h =>
    obtain ⟨-, hstate⟩ : b.pin = some i ∧ (b.state = .inSafe ∨ b.state = .handedOver) := by simpa using h
    exact (RowMove.unpinned hA hstate).run
  · exact .refl _ _

theorem unpinRecalled_row (hA : A .unpinning) (call : Handover) (i : Fin 16) (b : Bag) :
    RowMoves A call b (if b.pin = some i && b.state = .inSafe then { b with pin := none } else b) := by
  split
  · next h =>
    obtain ⟨-, hstate⟩ : b.pin = some i ∧ b.state = .inSafe := by simpa using h
    exact (RowMove.unpinned hA (.inl hstate)).run
  · exact .refl _ _

/-- The second of two conditions of which both hold. -/
theorem prop_of_and {c : Bool} {q : Prop} [Decidable q] (h : (c && decide q) = true) : q :=
  of_decide_eq_true ((Bool.and_eq_true _ _).mp h).2

/-- The rows of an aborted call: held, made up again, flagged, and unpinned with the slot's return (R31, R34, R35). -/
theorem abortCall_row (hA : A .aborting) (call : Handover) (seals : List Nat) (now : Nat) (b : Bag) :
    RowMoves A call b (if seals.contains b.sealNo && b.state = .loaded then b.moved .hatchHeld now
      else if seals.contains b.sealNo && b.state = .inHandling then { b.moved .madeUp now with pin := none } else b) := by
  split
  · next h => exact (RowMove.held now hA (prop_of_and h)).run
  · split
    · next h => exact (RowMove.returned now hA (prop_of_and h)).run
    · exact .refl _ _

theorem flag_row (hA : A .aborting) (call : Handover) (seals : List Nat) (b : Bag) :
    RowMoves A call b (if seals.contains b.sealNo then { b with unsigned := true } else b) := by
  split
  · exact (RowMove.flagged hA).run
  · exact .refl _ _

theorem sign_row (hA : A .signing) (call : Handover) (seals : List Nat) (now : Nat) (b : Bag) :
    RowMoves A call b (if seals.contains b.sealNo && b.state = .loaded then b.moved .handedOver now else b) := by
  split
  · next h => exact (RowMove.signed now hA (prop_of_and h)).run
  · exact .refl _ _

/-- Changes of every record, row by row. -/
theorem Register.rows {f : Bag → Bag} (h : ∀ b, RowMoves A s.call b (f b)) : Register A s (s.bags.map f) :=
  .mapped f (fun b _ => (h b).keeps.1) fun _ b _ => h b

theorem returnSlot_bags (i : Fin 16) (r : CallResult) (s : State) : (returnSlot i r s).bags = (unpinReturned i s).bags := rfl

theorem freeOrder_bags (i : Fin 24) (o : OrderOutcome) (s : State) : (freeOrder i o s).bags = s.bags := rfl

/-! ## The records after the moves at the safe, the sessions, the ring and the call -/

theorem entered_row {call : Handover} {now : Nat} (hA : A .entering) (h : moveDrop now b = .ok b' ∨ moveDeposit now b = .ok b') :
    RowMove A call b b' ∧ b.state ≠ .inSafe ∧ b'.state = .inSafe := by
  rcases h with h | h
  · obtain ⟨⟨hkind, hstate⟩, rfl⟩ := drop_ok h
    refine ⟨.entered now hA (.inl ⟨hkind, hstate.elim .inl (.inr ∘ .inl)⟩), ?_, rfl⟩
    rcases hstate with h | h <;> rw [h] <;> decide
  · rcases deposit_ok h with ⟨hstate, rfl⟩ | ⟨hstate, rfl⟩
    · exact ⟨.reentered now hA hstate, by rw [hstate]; decide, rfl⟩
    · refine ⟨.entered now hA hstate, ?_, rfl⟩
      rcases hstate with ⟨-, h | h | h⟩ | ⟨-, h⟩ | ⟨-, h⟩ <;> rw [h] <;> decide

theorem opened_row {call : Handover} {x : Fin 4} {now : Nat} (hA : A .counting) (h : moveOpen x now b = .ok b') : RowMove A call b b' := by
  obtain ⟨hpin, ⟨hstate, rfl⟩ | ⟨hstate, hx, rfl⟩⟩ := open_ok h
  · exact .opened x now hA hpin hstate
  · exact .resumed x now hA hpin hstate hx

theorem suspended_row {call : Handover} {now : Nat} (hA : A .counting) (h : moveSuspend now b = .ok b') : RowMove A call b b' := by
  obtain ⟨hstate, rfl⟩ := suspend_ok h
  exact .suspended now hA hstate

theorem aborted_row {call : Handover} {x : Fin 4} {now : Nat} (hA : A .counting) (h : moveAbort x now b = .ok b') : RowMove A call b b' := by
  obtain ⟨hstate, hx, rfl⟩ := abort_ok h
  exact .aborted x now hA hstate hx

theorem closed_row {call : Handover} {x : Fin 4} {k u : Nat} {variance : Int} {cls : BagClass} {now : Nat} (hA : A .counting)
    (h : moveClose x k u variance cls now b = .ok b') : RowMove A call b b' := by
  obtain ⟨hstate, hx, rfl⟩ := close_ok h
  exact .closed x k u variance cls now hA hstate hx

theorem handSlot_register {i : Fin 16} (hA : A .handing) (hpins : pinCheck s [] s.ring[i].outbound = none) :
    Register A s (handSlot i s).bags := by
  refine .mapped _ (fun b _ => by split <;> rfl) fun hd b hb => ?_
  split
  · next hmem =>
    obtain ⟨c, hfind, hkind, hstate, hpin⟩ := pinCheck_mem hpins b.sealNo (by simpa using hmem)
    rw [findBag_of_mem hd hb] at hfind
    cases hfind
    exact (RowMove.pinned i hA hkind hstate hpin).run
  · exact .refl _ _

theorem recallSlot_register (hA : A .unpinning) (i : Fin 16) : Register A s (recallSlot i s).bags :=
  .rows (unpinRecalled_row hA s.call i)

theorem returnSlot_register (hA : A .unpinning) (i : Fin 16) (r : CallResult) : Register A s (returnSlot i r s).bags :=
  .rows (unpinReturned_row hA s.call i)

theorem aborted_register (hA : A .aborting) (hA' : A .unpinning) (i : Fin 16) (r : CallResult) (received outbound : List Nat) :
    Register A s (endSession (returnSlot i r (flagUnsigned received (abortBags outbound s)))).bags := by
  have hbags : (endSession (returnSlot i r (flagUnsigned received (abortBags outbound s)))).bags = ((s.bags.map _).map _).map _ := rfl
  rw [hbags, List.map_map, List.map_map]
  exact .rows fun b => ((abortCall_row hA s.call outbound s.seconds b).trans
    (flag_row hA s.call received _)).trans (unpinReturned_row hA' s.call i _)

theorem signed_register {u : State} (hA : A .signing) (hA' : A .unpinning) (i : Fin 16) (d : Descriptor) (r : CallResult)
    (outbound : List Nat) (hu : unchangedBut [.events] (signBags outbound s) u) :
    Register A s (endSession (returnSlot i r (setSlot i d u))).bags := by
  have hbags : (endSession (returnSlot i r (setSlot i d u))).bags = u.bags.map _ := rfl
  have hsigned : u.bags = s.bags.map _ := hu .bags (by decide)
  rw [hbags, hsigned, List.map_map]
  exact .rows fun b => (sign_row hA s.call outbound s.seconds b).trans (unpinReturned_row hA' s.call i _)

/-- The changes of a record that a run may make: those of its passages, and those that every run may make. -/
def rowsOf (A : Passage → Prop) : Passage → Prop := fun x => A x ∨ x = .counting ∨ x = .signing ∨ x = .unpinning

/-- Those that take no bag into the safe or out of it. -/
def aside (A : Passage → Prop) : Passage → Prop := fun x => rowsOf A x ∧ x ≠ .withdrawal ∧ x ≠ .entering

/-- What a move does to the register beside the safe's inventory: a bag comes in, one goes out, or the inventory stays and no record comes or goes IN_SAFE
(R79). -/
inductive Stored (A : Passage → Prop) (s t : State) : Prop
  | aside : Register (aside A) s t.bags → t.safe.inventory = s.safe.inventory → Stored A s t
  | entered {n : Nat} {b b' : Bag} (e : SafeEntry) : findBag s n = some b → RowMove A s.call b b' → b.state ≠ .inSafe →
      b'.state = .inSafe → s.safe.inventory.length < Config.safeCapacity →
      t.bags = (s.bags.map fun c => if c.sealNo = n then b' else c) → e.sealNo = n →
      t.safe.inventory = s.safe.inventory ++ [e] → Stored A s t
  | withdrawn {n : Nat} {b b' : Bag} : A .withdrawal → findBag s n = some b → moveWithdraw s.call s.seconds b = .ok b' →
      t.bags = (s.bags.map fun c => if c.sealNo = n then b' else c) →
      t.safe.inventory = (s.safe.inventory.filter fun e => !decide (e.sealNo = n)) → Stored A s t

theorem Stored.of_leaves {ex : List Part} (h : unchangedBut ex s t) (hbags : .bags ∉ ex := by decide) (hsafe : .safe ∉ ex := by decide) :
    Stored A s t := .aside (.kept (h .bags hbags)) (by rw [h .safe hsafe])

/-- Every move changes the register and the inventory in one of the three ways. -/
theorem Move.stored (h : Move A s t) : Stored A s t := by
  have hother {x : Passage} (hA : A x) (hw : x ≠ .withdrawal := by decide) (he : x ≠ .entering := by decide) : aside A x := ⟨.inl hA, hw, he⟩
  have hcount : aside A .counting := ⟨.inr (.inl rfl), by decide, by decide⟩
  have hunpin : aside A .unpinning := ⟨.inr (.inr (.inr rfl)), by decide, by decide⟩
  have hsign : aside A .signing := ⟨.inr (.inr (.inl rfl)), by decide, by decide⟩
  cases h with
  | quiet h => exact .of_leaves h
  | ports _ h _ => exact .of_leaves h
  | trunk _ h _ _ => exact .of_leaves h
  | place p f h => exact .of_leaves (placeOut_leaves h) (by cases p <;> decide) (by cases p <;> decide)
  | drawers v _ => exact .of_leaves (setDrawers_leaves v s)
  | lock x hinventory _ _ => exact .aside (.kept rfl) hinventory
  | day x _ _ => exact .of_leaves (setDay_leaves x s)
  | openBooks => exact .of_leaves (openAccumulators_leaves s)
  | denom c d h => exact .of_leaves (TallyCount.putDenom_leaves h)
  | stockSet c l k _ _ => exact .of_leaves (setStockCounts_leaves c l k s)
  | suspectRelease c n => exact .of_leaves (setStock_leaves _ s)
  | newBag b hcheck hkind hstate hpin hsession => exact .aside (.added b hcheck ⟨hpin, hsession, .inl ⟨hkind, hstate⟩⟩) rfl
  | newOrder i o _ _ _ _ => exact .of_leaves (unchangedBut_trans (setOrder_leaves i o s) (reserve_leaves o.issue _))
  | cancel i _ =>
    exact .of_leaves (unchangedBut_trans (release_leaves s.orders[i].issue s) (freeOrder_leaves i .cancelled _))
  | makeUp i n _ hcheck =>
    exact .aside (.added _ hcheck ⟨rfl, rfl, .inr ⟨rfl, rfl⟩⟩) (congrArg Safe.inventory (makeUpOrder_leaves i n s .safe (by decide)))
  | consign n v _ _ hcheck => exact .aside (.added _ hcheck ⟨rfl, rfl, .inr ⟨rfl, rfl⟩⟩) rfl
  | @restock n b b' hA hfind hmove _ =>
    obtain ⟨hkind, hstate, rfl⟩ := restock_ok hmove
    have hreg := Register.changed hfind (RowMove.restocked (A := aside A) (call := s.call) s.seconds (hother hA) hkind hstate)
    refine .aside ?_ (congrArg Safe.inventory (restockBag_leaves b _ s .safe (by decide)))
    unfold restockBag
    dsimp only
    rw [(findBag_some hfind).2]
    split <;> exact hreg
  | @receipt n b b' hA hfind hmove =>
    obtain ⟨hkind, hstate, rfl⟩ := receipt_ok hmove
    have hreg := Register.changed hfind (RowMove.delivered (A := aside A) (call := s.call) s.seconds (hother hA) hkind hstate)
    refine .aside ?_ (congrArg Safe.inventory (receipt_leaves n b _ s .safe (by decide)))
    split <;> exact hreg
  | @enter op way node n b b' hA hfind hmove hplace =>
    obtain ⟨hrow, hout, hin⟩ := entered_row (call := s.call) hA hmove
    have hseal : b'.sealNo = n := hrow.keeps.1.trans (findBag_some hfind).2
    exact .entered { sealNo := b'.sealNo, way := way, second := s.seconds } hfind hrow hout hin hplace (by rw [← hseal]; rfl) hseal rfl
  | withdraw node hA hfind hmove => exact .withdrawn hA hfind hmove rfl rfl
  | openCount x node _ hfind hmove =>
    refine .aside ?_ (congrArg Safe.inventory (opened_leaves x _ _ _ s .safe (by decide)))
    exact .changed hfind (opened_row hcount hmove)
  | resume x node _ =>
    exact .aside (.asked (fun _ _ => opened_row hcount) _) (congrArg Safe.inventory (askedSession_leaves x _ _ _ s .safe (by decide)))
  | session x v _ _ _ _ _ => exact .of_leaves (setSession_leaves x v s)
  | suspend x _ =>
    exact .aside (.asked (fun _ _ => suspended_row hcount) _) (congrArg Safe.inventory (askedSession_leaves x _ _ _ s .safe (by decide)))
  | abort x _ =>
    exact .aside (.asked (fun _ _ => aborted_row hcount) _) (congrArg Safe.inventory (askedSession_leaves x _ _ _ s .safe (by decide)))
  | count x variance cls _ _ hfind hmove =>
    refine .aside ?_ (congrArg Safe.inventory (counted_leaves x _ _ _ _ _ _ s .safe (by decide)))
    exact .changed hfind (closed_row hcount hmove)
  | slot i d _ _ => exact .of_leaves (setSlot_leaves i d s)
  | passDay => exact .of_leaves (passDay_leaves s)
  | hand i hA _ hpins => exact .aside (handSlot_register (hother hA) hpins) rfl
  | recallSlot i _ _ => exact .aside (recallSlot_register hunpin i) rfl
  | returnHead r _ _ => exact .aside (returnSlot_register hunpin _ r) rfl
  | refused k => exact .of_leaves (setCall_leaves _ s)
  | announce _ _ => exact .of_leaves (acceptCourier_leaves s)
  | @load n b b' i hA _ _ hfind hmove =>
    obtain ⟨hstate, rfl⟩ := load_ok hmove
    refine .aside ?_ (congrArg Safe.inventory (loaded_leaves i n _ s .safe (by decide)))
    rw [afterLoad_leaves i _ .bags (by decide)]
    exact .changed hfind (.loaded s.seconds (hother hA) hstate)
  | hatchRelease hfind hmove =>
    obtain ⟨hstate, rfl⟩ := hatchRelease_ok hmove
    exact .aside (.changed hfind (.released s.seconds hstate)) rfl
  | abortCall i r hA _ _ =>
    exact .aside (aborted_register (hother hA) hunpin i r _ _) (congrArg Safe.inventory (aborted_leaves i r _ _ s .safe (by decide)))
  | @sign i d r u _ _ hu =>
    exact .aside (signed_register hsign hunpin i d r _ hu) (congrArg Safe.inventory (signed_leaves d r hu .safe (by decide)))
  | purge _ _ => exact .aside .purged rfl

theorem RowMove.mono {B : Passage → Prop} (hAB : ∀ x, A x → B x) {call : Handover} (h : RowMove A call b b') : RowMove B call b b' := by
  cases h with
  | entered now ha h => exact .entered now (hAB _ ha) h
  | reentered now ha h => exact .reentered now (hAB _ ha) h
  | withdrawn now ha h => exact .withdrawn now (hAB _ ha) h
  | opened x now ha hp hs => exact .opened x now (hAB _ ha) hp hs
  | resumed x now ha hp hs hx => exact .resumed x now (hAB _ ha) hp hs hx
  | suspended now ha hs => exact .suspended now (hAB _ ha) hs
  | aborted x now ha hs hx => exact .aborted x now (hAB _ ha) hs hx
  | closed x k u v c now ha hs hx => exact .closed x k u v c now (hAB _ ha) hs hx
  | loaded now ha hs => exact .loaded now (hAB _ ha) hs
  | released now hs => exact .released now hs
  | delivered now ha hk hs => exact .delivered now (hAB _ ha) hk hs
  | restocked now ha hk hs => exact .restocked now (hAB _ ha) hk hs
  | signed now ha hs => exact .signed now (hAB _ ha) hs
  | held now ha hs => exact .held now (hAB _ ha) hs
  | returned now ha hs => exact .returned now (hAB _ ha) hs
  | flagged ha => exact .flagged (hAB _ ha)
  | pinned i ha hk hs hp => exact .pinned i (hAB _ ha) hk hs hp
  | unpinned ha hs => exact .unpinned (hAB _ ha) hs

theorem Register.mono {B : Passage → Prop} (hAB : ∀ x, A x → B x) {bags : List Bag} (h : Register A s bags) : Register B s bags := by
  cases h with
  | mapped f hf h => exact .mapped f hf fun hd b hb => Relation.ReflTransGen.mono (fun _ _ => RowMove.mono hAB) _ _ (h hd b hb)
  | added b hcheck hfresh => exact .added b hcheck hfresh
  | purged => exact .purged

theorem Stored.register (h : Stored A s t) : Register (rowsOf A) s t.bags := by
  cases h with
  | aside h _ => exact h.mono fun _ hx => hx.1
  | entered e hfind hrow _ _ _ hbags _ _ => exact hbags ▸ .changed hfind (hrow.mono fun _ => .inl)
  | withdrawn hA hfind hmove hbags _ => exact hbags ▸ .changed hfind (.withdrawn s.seconds (.inl hA) hmove)

theorem Move.register (h : Move A s t) : Register (rowsOf A) s t.bags := h.stored.register

/-! ## Distinct seals and the number of records (R23, R25) -/

theorem Register.sealsDistinct (h : Register A s t.bags) (hs : SealsDistinct s) : SealsDistinct t := by
  obtain ⟨hnodup, hzero⟩ := hs
  generalize hbags : t.bags = bags at h
  unfold SealsDistinct
  rw [hbags]
  cases h with
  | mapped f hf _ =>
    have hseals : (s.bags.map f).map Bag.sealNo = s.bags.map Bag.sealNo := by
      rw [List.map_map]
      exact List.map_congr_left hf
    rw [hseals]
    refine ⟨hnodup, fun b hb => ?_⟩
    obtain ⟨c, hc, rfl⟩ := List.mem_map.mp hb
    rw [hf c hc]
    exact hzero c hc
  | added b hcheck _ =>
    obtain ⟨hseal, -, -, hfind, -⟩ := createCheck_none.mp hcheck
    rw [List.map_append, List.map_singleton, List.nodup_append]
    refine ⟨⟨hnodup, List.nodup_singleton _, fun n hn m hm => ?_⟩, fun c hc => ?_⟩
    · obtain ⟨c, hc, rfl⟩ := List.mem_map.mp hn
      rw [List.mem_singleton.mp hm]
      exact findBag_none.mp hfind c hc
    · rcases List.mem_append.mp hc with hc | hc
      · exact hzero c hc
      · rw [List.mem_singleton.mp hc]
        exact hseal
  | purged =>
    exact ⟨(List.filter_sublist.map _).nodup hnodup, fun b hb => hzero b (List.mem_filter.mp hb).1⟩

/-- The register holds no more than its places (R23). -/
theorem Register.length_le (h : Register A s t.bags) (hs : s.bags.length ≤ Config.bagCapacity) : t.bags.length ≤ Config.bagCapacity := by
  generalize t.bags = bags at h
  cases h with
  | mapped f _ _ => rwa [List.length_map]
  | added b hcheck _ =>
    rw [List.length_append]
    exact (createCheck_none.mp hcheck).2.2.2.2
  | purged => exact (List.length_filter_le _ _).trans hs

theorem Move.sealsDistinct (h : Move A s t) : SealsDistinct s → SealsDistinct t := h.register.sealsDistinct

end

end Sys2Proof.Machine.Effects

/-! PROOF. The inventory of the safe follows the records IN_SAFE, and a pin stands on consignments in the states in which it lasts. -/

namespace Sys2Proof.Machine.Effects

open Sys2Proof Sys2Proof.Machine

section
variable {A : Passage → Prop} {s t : State} {n : Nat} {b b' : Bag}

/-! ## The inventory (R79) -/

theorem bagIn_iff_mem (hd : SealsDistinct s) {st : BagState} :
    bagIn s n st = true ↔ ∃ b ∈ s.bags, b.sealNo = n ∧ b.state = st := by
  rw [bagIn_iff]
  constructor
  · rintro ⟨b, hfind, hstate⟩
    exact ⟨b, (findBag_some hfind).1, (findBag_some hfind).2, hstate⟩
  · rintro ⟨b, hb, hn, hstate⟩
    exact ⟨b, (findBag_iff hd).mpr ⟨hb, hn⟩, hstate⟩

/-- Without a deposit or a withdrawal no record comes or goes IN_SAFE. -/
theorem RowMoves.inSafe_iff (hw : ¬A .withdrawal) (he : ¬A .entering) {call : Handover} (h : RowMoves A call b b') :
    b'.state = .inSafe ↔ b.state = .inSafe := by
  induction h with
  | refl => rfl
  | tail _ hlast ih =>
    rw [← ih]
    cases hlast with
    | entered now ha _ => exact absurd ha he
    | reentered now ha _ => exact absurd ha he
    | withdrawn now ha _ => exact absurd ha hw
    | flagged => rfl
    | pinned => rfl
    | unpinned => rfl
    | aborted _ _ _ hs _ => rcases hs with hs | hs <;> simp [hs, Bag.moved]
    | _ => simp [*, Bag.moved]

theorem Register.bagIn_inSafe (h : Register (aside A) s t.bags) (hd : SealsDistinct s) (n : Nat) :
    bagIn t n .inSafe = true ↔ bagIn s n .inSafe = true := by
  rw [bagIn_iff_mem (h.sealsDistinct hd), bagIn_iff_mem hd]
  generalize t.bags = bags at h
  cases h with
  | mapped f hf hrows =>
    have hsafe (b) (hb : b ∈ s.bags) := (hrows hd b hb).inSafe_iff (fun h => h.2.1 rfl) fun h => h.2.2 rfl
    constructor
    · rintro ⟨c, hc, hn, hstate⟩
      obtain ⟨b, hb, rfl⟩ := List.mem_map.mp hc
      exact ⟨b, hb, (hf b hb).symm.trans hn, (hsafe b hb).mp hstate⟩
    · rintro ⟨b, hb, hn, hstate⟩
      exact ⟨f b, List.mem_map_of_mem hb, (hf b hb).trans hn, (hsafe b hb).mpr hstate⟩
  | added b hcheck hfresh =>
    have hnew : b.state ≠ .inSafe := by
      rcases hfresh.2.2 with ⟨-, h | h⟩ | ⟨-, h⟩ <;> rw [h] <;> decide
    constructor
    · rintro ⟨c, hc, hn, hstate⟩
      rcases List.mem_append.mp hc with hc | hc
      · exact ⟨c, hc, hn, hstate⟩
      · exact absurd (List.mem_singleton.mp hc ▸ hstate) hnew
    · rintro ⟨c, hc, hn, hstate⟩
      exact ⟨c, List.mem_append_left _ hc, hn, hstate⟩
  | purged =>
    constructor
    · rintro ⟨c, hc, hn, hstate⟩
      exact ⟨c, (List.mem_filter.mp hc).1, hn, hstate⟩
    · rintro ⟨c, hc, hn, hstate⟩
      exact ⟨c, List.mem_filter.mpr ⟨hc, by rw [hstate]; rfl⟩, hn, hstate⟩

/-- After one record was replaced, another seal's state is the same, and this seal's is the new record's. -/
theorem bagIn_changed (hd : SealsDistinct s) (hd' : SealsDistinct t) (hfind : findBag s n = some b) (hseal : b'.sealNo = n)
    (hbags : t.bags = s.bags.map fun c => if c.sealNo = n then b' else c) (m : Nat) (st : BagState) :
    bagIn t m st = true ↔ if m = n then b'.state = st else bagIn s m st = true := by
  obtain ⟨hb, hn⟩ := findBag_some hfind
  rw [bagIn_iff_mem hd', bagIn_iff_mem hd, hbags]
  split
  · next hm =>
    subst hm
    constructor
    · rintro ⟨c, hc, hcn, hstate⟩
      obtain ⟨a, -, rfl⟩ := List.mem_map.mp hc
      split at hstate
      · exact hstate
      · next hne =>
        rw [if_neg hne] at hcn
        exact absurd hcn hne
    · exact fun hstate => ⟨b', List.mem_map.mpr ⟨b, hb, if_pos hn⟩, hseal, hstate⟩
  · next hm =>
    constructor
    · rintro ⟨c, hc, hcn, hstate⟩
      obtain ⟨a, ha, rfl⟩ := List.mem_map.mp hc
      split at hcn
      · exact absurd (hcn.symm.trans hseal) hm
      · next hne =>
        rw [if_neg hne] at hstate
        exact ⟨a, ha, hcn, hstate⟩
    · rintro ⟨a, ha, han, hstate⟩
      exact ⟨a, List.mem_map.mpr ⟨a, ha, if_neg (han ▸ hm)⟩, han, hstate⟩

theorem Stored.inventoryMatches (h : Stored A s t) (hd : SealsDistinct s) (hs : InventoryMatches s) : InventoryMatches t := by
  have hd' : SealsDistinct t := h.register.sealsDistinct hd
  obtain ⟨hnodup, hlisted⟩ := hs
  unfold InventoryMatches
  cases h with
  | aside hreg hinventory =>
    rw [hinventory]
    exact ⟨hnodup, fun n => (hlisted n).trans (hreg.bagIn_inSafe hd n).symm⟩
  | @entered n b b' e hfind hrow hout hin _ hbags he hinventory =>
    have hseal : b'.sealNo = n := hrow.keeps.1.trans (findBag_some hfind).2
    have hnew : n ∉ s.safe.inventory.map SafeEntry.sealNo := fun h => by
      obtain ⟨c, hc, hstate⟩ := bagIn_iff.mp ((hlisted n).mp h)
      rw [hfind] at hc
      exact hout (Option.some.inj hc ▸ hstate)
    rw [hinventory, List.map_append, List.map_singleton, he]
    refine ⟨?_, fun m => ?_⟩
    · rw [List.nodup_append]
      exact ⟨hnodup, List.nodup_singleton _, fun a ha c hc => by rintro rfl; exact hnew (List.mem_singleton.mp hc ▸ ha)⟩
    · rw [bagIn_changed hd hd' hfind hseal hbags, List.mem_append, List.mem_singleton, hlisted]
      by_cases hm : m = n
      · simp [hm, hin]
      · simp [hm]
  | @withdrawn n b b' hA hfind hmove hbags hinventory =>
    have hseal : b'.sealNo = n := (RowMove.withdrawn s.seconds hA hmove).keeps.1.trans (findBag_some hfind).2
    have hout : b'.state ≠ .inSafe := by
      rcases (withdraw_ok hmove).2 with ⟨-, rfl⟩ | ⟨-, -, rfl⟩ | ⟨-, i, -, -, rfl⟩ <;> exact nofun
    rw [hinventory]
    refine ⟨(List.filter_sublist.map _).nodup hnodup, fun m => ?_⟩
    rw [bagIn_changed hd hd' hfind hseal hbags, List.mem_map]
    by_cases hm : m = n
    · simp [hm, hout]
    · rw [if_neg hm, ← hlisted, List.mem_map]
      constructor
      · rintro ⟨e, he, rfl⟩
        exact ⟨e, (List.mem_filter.mp he).1, rfl⟩
      · rintro ⟨e, he, rfl⟩
        exact ⟨e, List.mem_filter.mpr ⟨he, by simpa using hm⟩, rfl⟩

/-- The inventory holds no more than its places (R79). -/
theorem Stored.inventory_le (h : Stored A s t) (hs : s.safe.inventory.length ≤ Config.safeCapacity) :
    t.safe.inventory.length ≤ Config.safeCapacity := by
  cases h with
  | aside _ hinventory => rwa [hinventory]
  | entered e _ _ _ _ hplace _ _ hinventory =>
    rw [hinventory, List.length_append]
    exact hplace
  | withdrawn _ _ _ _ hinventory =>
    rw [hinventory]
    exact (List.length_filter_le _ _).trans hs

theorem reset_sealsDistinct : SealsDistinct State.reset := ⟨List.nodup_nil, fun _ h => nomatch h⟩

theorem reset_inventoryMatches : InventoryMatches State.reset := ⟨List.nodup_nil, fun _ => ⟨nofun, nofun⟩⟩

theorem step_sealsDistinct (hs : SealsDistinct s) (h : step s = .next t) : SealsDistinct t :=
  step_keeps_of_moves (fun _ _ h => h) (fun _ _ h => h) (fun _ _ h => h) reset_sealsDistinct Move.sealsDistinct h hs

end

/-- An invariant of states with distinct seals, kept by every move, is kept by a step. -/
theorem step_keeps_distinct {P : State → Prop} (hpending : ∀ s x, P s → P (s.setPending x)) (hsecond : ∀ s n, P s → P (s.setSeconds n))
    (hdraws : ∀ s n, P s → P (s.setDraws n)) (hreset : P State.reset)
    (hmove : ∀ {s t}, Move anyPassage s t → SealsDistinct s → P s → P t) {s t : State} (hd : SealsDistinct s) (h : step s = .next t)
    (hs : P s) : P t :=
  (step_keeps_of_moves (P := fun s => SealsDistinct s ∧ P s) (fun s x h => ⟨h.1, hpending s x h.2⟩) (fun s n h => ⟨h.1, hsecond s n h.2⟩)
    (fun s n h => ⟨h.1, hdraws s n h.2⟩) ⟨reset_sealsDistinct, hreset⟩ (fun hm hs => ⟨hm.sealsDistinct hs.1, hmove hm hs.1 hs.2⟩) h
    ⟨hd, hs⟩).2

/-- Settles O6: each move keeps the seals distinct, and the inventory in step with the records. -/
theorem stepKeepsRegister : Obligations.StepKeepsRegister := fun _ _ hd h =>
  ⟨step_sealsDistinct hd h, step_keeps_distinct (fun _ _ h => h) (fun _ _ h => h) (fun _ _ h => h) reset_inventoryMatches
    (fun hm => hm.stored.inventoryMatches) hd h⟩

end Sys2Proof.Machine.Effects

/-! PROOF. The pins, and the moves at the sessions, the ring and the call apart from those that touch none of them. -/

namespace Sys2Proof.Machine.Effects

open Sys2Proof Sys2Proof.Machine

section
variable {A : Passage → Prop} {s t : State} {n : Nat} {b b' : Bag}

/-! ## The pins (R24, R33, R34) -/

/-- A pin stands on a consignment, in a state in which it lasts. -/
def PinLasts (b : Bag) : Prop :=
  b.pin.isSome = true → b.kind = .consignment ∧
    (b.state = .inSafe ∨ b.state = .inHandling ∨ b.state = .loaded ∨ b.state = .hatchHeld ∨ b.state = .handedOver)

theorem pinLasts_of_none (h : b.pin = none) : PinLasts b := fun hp => by rw [h] at hp; cases hp

theorem RowMove.pinLasts {call : Handover} (h : RowMove A call b b') (hb : PinLasts b) : PinLasts b' := by
  have hout {st : BagState} (hs : b.state = st)
      (hst : ¬(st = .inSafe ∨ st = .inHandling ∨ st = .loaded ∨ st = .hatchHeld ∨ st = .handedOver)) : b.pin = none := by
    cases hp : b.pin with
    | none => rfl
    | some i => exact absurd (hs ▸ (hb (by rw [hp]; rfl)).2) hst
  cases h with
  | entered now _ _ => exact fun hp => ⟨(hb hp).1, .inl rfl⟩
  | reentered | released | returned | unpinned => exact pinLasts_of_none rfl
  | withdrawn now _ hm =>
    obtain ⟨-, ⟨hk, rfl⟩ | ⟨hk, hnone, rfl⟩ | ⟨hk, i, -, -, rfl⟩⟩ := withdraw_ok hm
    · intro hp
      rw [(hb hp).1] at hk
      cases hk
    · intro hp
      have hpin := hnone (hb hp).1
      exact absurd hp (by show ¬b.pin.isSome = true; rw [hpin]; decide)
    · exact fun _ => ⟨hk, .inr (.inl rfl)⟩
  | opened x now _ hp _ => exact pinLasts_of_none hp
  | resumed x now _ hp _ _ => exact pinLasts_of_none hp
  | suspended now _ hs => exact pinLasts_of_none (hout hs (by decide))
  | aborted x now _ hs _ =>
    have hnone : b.pin = none := by rcases hs with hs | hs <;> exact hout hs (by decide)
    exact pinLasts_of_none hnone
  | closed x _ _ _ _ now _ hs _ => exact pinLasts_of_none (b := { b.moved .counted now with session := none, .. }) (hout hs (by decide))
  | loaded now _ _ => exact fun hp => ⟨(hb hp).1, .inr (.inr (.inl rfl))⟩
  | delivered now _ _ hs => exact pinLasts_of_none (hout hs (by decide))
  | restocked now _ _ hs => exact pinLasts_of_none (hout hs (by decide))
  | signed now _ _ => exact fun hp => ⟨(hb hp).1, .inr (.inr (.inr (.inr rfl)))⟩
  | held now _ _ => exact fun hp => ⟨(hb hp).1, .inr (.inr (.inr (.inl rfl)))⟩
  | flagged => exact hb
  | pinned i _ hk hs _ => exact fun _ => ⟨hk, .inl hs⟩

theorem RowMoves.pinLasts {call : Handover} (h : RowMoves A call b b') (hb : PinLasts b) : PinLasts b' := by
  induction h with
  | refl => exact hb
  | tail _ hlast ih => exact hlast.pinLasts ih

theorem Move.pinsSound (h : Move A s t) (hd : SealsDistinct s) (hs : PinsSound s) : PinsSound t := by
  have hreg := h.register
  unfold PinsSound
  generalize t.bags = bags at hreg
  cases hreg with
  | mapped f _ hrows =>
    intro c hc
    obtain ⟨b, hb, rfl⟩ := List.mem_map.mp hc
    exact (hrows hd b hb).pinLasts (hs b hb)
  | added b _ hfresh =>
    intro c hc
    rcases List.mem_append.mp hc with hc | hc
    · exact hs c hc
    · rw [List.mem_singleton.mp hc]
      exact pinLasts_of_none hfresh.1
  | purged => exact fun c hc => hs c (List.mem_filter.mp hc).1

/-! ## The moves at the safe, the sessions, the ring and the call -/

/-- A move that touches no session, no slot and no call, and no record but by a creation, a receipt, a restock, a release or the purge. -/
structure Plain (s t : State) : Prop where
  register : Register (fun x => x = .jobs) s t.bags
  call : t.call = s.call
  ring : t.ring = s.ring
  sessions : t.sessions = s.sessions

/-- The moves, with all that are `Plain` under one head. -/
inductive Shift (s : State) : State → Prop
  | plain {t : State} : Plain s t → Shift s t
  | enter (op : SafeOp) (way : EntryWay) (node : Byte) {n : Nat} {b b' : Bag} : findBag s n = some b →
      moveDrop s.seconds b = .ok b' ∨ moveDeposit s.seconds b = .ok b' → Shift s (acceptEntry op way b' node s)
  | withdraw (node : Byte) {n : Nat} {b b' : Bag} : findBag s n = some b → moveWithdraw s.call s.seconds b = .ok b' →
      Shift s (recordOp .withdraw n node b'.state b'.state.code (leaveSafe n (changeBag n (fun _ => b') s)))
  | openCount (x : Fin 4) (v : Session) {n : Nat} {b b' : Bag} : s.sessions[x].state = .idle → findBag s n = some b →
      moveOpen x s.seconds b = .ok b' → v.state = .counting → v.bag = n → Shift s (setSession x v (changeBag n (fun _ => b') s))
  | resume (x : Fin 4) (v : Session) : s.sessions[x].state = .suspended → v.state = .counting → v.bag = s.sessions[x].bag →
      Shift s (setSession x v (askRegister s.sessions[x].bag (moveOpen x s.seconds) s))
  | session (x : Fin 4) (v : Session) : v.state = s.sessions[x].state → v.bag = s.sessions[x].bag → Shift s (setSession x v s)
  | suspend (x : Fin 4) (v : Session) : s.sessions[x].state = .counting → v.state = .suspended → v.bag = s.sessions[x].bag →
      Shift s (setSession x v (askRegister s.sessions[x].bag (moveSuspend s.seconds) s))
  | abort (x : Fin 4) : s.sessions[x].state ≠ .idle → Shift s (abortSession x s)
  | count (x : Fin 4) {t : State} {b b' : Bag} {k u : Nat} {variance : Int} {cls : BagClass} : s.sessions[x].state = .counting →
      findBag s s.sessions[x].bag = some b → moveClose x k u variance cls s.seconds b = .ok b' → unchangedBut [.stock, .acc] s t →
      Shift s (setSession x Session.reset (changeBag s.sessions[x].bag (fun _ => b') t))
  | slot (i : Fin 16) (d : Descriptor) : d.owner = s.ring[i].owner → (s.ring[i].owner = .office ∨ d.outbound = s.ring[i].outbound) →
      Shift s (setSlot i d s)
  | passDay : Shift s (Machine.passDay s)
  | hand (i : Fin 16) : s.ring[i].owner = .office → pinCheck s [] s.ring[i].outbound = none → Shift s (handSlot i s)
  | recallSlot (i : Fin 16) : s.ring[i].owner = .part → s.call.activeOn i = false → Shift s (Machine.recallSlot i s)
  | returnHead (r : CallResult) : s.call.phase = .idle ∨ s.call.slot = none → s.head.owner = .part → Shift s (returnSlot s.call.next r s)
  | refused (k : Nat) : Shift s (s.setCall { s.call with refused := k })
  | announce : s.call.phase = .idle ∨ s.call.slot = none → s.head.owner = .part → Shift s (acceptCourier s)
  | load {n : Nat} {b b' : Bag} (i : Fin 16) : s.activeSlot = some i → n ∈ s.ring[i].outbound → findBag s n = some b →
      moveLoad s.seconds b = .ok b' → Shift s (afterLoad i (changeBag n (fun _ => b') s))
  | abortCall (i : Fin 16) (r : CallResult) : s.call.phase ≠ .idle → s.call.slot = some i →
      Shift s (endSession (returnSlot i r (flagUnsigned s.ring[i].received (abortBags s.ring[i].outbound s))))
  | sign (i : Fin 16) (d : Descriptor) (r : CallResult) {u : State} : s.call.phase = .signing → s.call.slot = some i →
      unchangedBut [.events] (signBags s.ring[i].outbound s) u → Shift s (endSession (returnSlot i r (setSlot i d u)))

theorem Shift.of_leaves {ex : List Part} (h : unchangedBut ex s t) (hbags : .bags ∉ ex := by decide) (hcall : .call ∉ ex := by decide)
    (hring : .ring ∉ ex := by decide) (hsessions : .sessions ∉ ex := by decide) : Shift s t :=
  .plain ⟨.kept (h .bags hbags), h .call hcall, h .ring hring, h .sessions hsessions⟩

theorem Shift.of_register {ex : List Part} (hreg : Register (fun x => x = .jobs) s t.bags) (h : unchangedBut ex s t)
    (hcall : .call ∉ ex := by decide) (hring : .ring ∉ ex := by decide) (hsessions : .sessions ∉ ex := by decide) : Shift s t :=
  .plain ⟨hreg, h .call hcall, h .ring hring, h .sessions hsessions⟩

/-- Every move is one of these. -/
theorem Move.shift (h : Move A s t) : Shift s t := by
  cases h with
  | quiet h => exact .of_leaves h
  | ports _ h _ => exact .of_leaves h
  | trunk _ h _ _ => exact .of_leaves h
  | place p f h =>
    exact .of_leaves (placeOut_leaves h) (by cases p <;> decide) (by cases p <;> decide) (by cases p <;> decide) (by cases p <;> decide)
  | drawers v _ => exact .of_leaves (setDrawers_leaves v s)
  | lock x _ _ _ => exact .of_leaves (setSafe_leaves x s)
  | day x _ _ => exact .of_leaves (setDay_leaves x s)
  | openBooks => exact .of_leaves (openAccumulators_leaves s)
  | denom c d h => exact .of_leaves (TallyCount.putDenom_leaves h)
  | stockSet c l k _ _ => exact .of_leaves (setStockCounts_leaves c l k s)
  | suspectRelease c n => exact .of_leaves (setStock_leaves _ s)
  | newBag b hcheck hkind hstate hpin hsession =>
    exact .of_register (.added b hcheck ⟨hpin, hsession, .inl ⟨hkind, hstate⟩⟩) (addBag_leaves b s)
  | newOrder i o _ _ _ _ => exact .of_leaves (unchangedBut_trans (setOrder_leaves i o s) (reserve_leaves o.issue _))
  | cancel i _ => exact .of_leaves (unchangedBut_trans (release_leaves s.orders[i].issue s) (freeOrder_leaves i .cancelled _))
  | makeUp i n _ hcheck => exact .of_register (.added _ hcheck ⟨rfl, rfl, .inr ⟨rfl, rfl⟩⟩) (makeUpOrder_leaves i n s)
  | consign n v _ _ hcheck =>
    exact .of_register (.added _ hcheck ⟨rfl, rfl, .inr ⟨rfl, rfl⟩⟩) (unchangedBut_trans (drawStraps_leaves v _ s) (addBag_leaves _ _))
  | @restock n b b' _ hfind hmove _ =>
    obtain ⟨hkind, hstate, rfl⟩ := restock_ok hmove
    refine .of_register ?_ (restockBag_leaves b _ s)
    unfold restockBag
    dsimp only
    rw [(findBag_some hfind).2]
    split <;> exact .changed hfind (.restocked s.seconds rfl hkind hstate)
  | @receipt n b b' _ hfind hmove =>
    obtain ⟨hkind, hstate, rfl⟩ := receipt_ok hmove
    refine .of_register ?_ (receipt_leaves n b _ s)
    split <;> exact .changed hfind (.delivered s.seconds rfl hkind hstate)
  | enter op way node _ hfind hmove _ => exact .enter op way node hfind hmove
  | withdraw node _ hfind hmove => exact .withdraw node hfind hmove
  | openCount x node hidle hfind hmove => exact .openCount x _ hidle hfind hmove rfl rfl
  | resume x node hs => exact .resume x _ hs rfl rfl
  | session x v hs hb _ _ _ => exact .session x v hs hb
  | suspend x hs => exact .suspend x _ hs rfl rfl
  | abort x hs => exact .abort x hs
  | count x variance cls hs _ hfind hmove => exact .count x hs hfind hmove (applyClose_leaves _ _ _ s)
  | slot i d ho hout => exact .slot i d ho hout
  | passDay => exact .passDay
  | hand i _ ho hpins => exact .hand i ho hpins
  | recallSlot i ho ha => exact .recallSlot i ho ha
  | returnHead r hp ho => exact .returnHead r hp ho
  | refused k => exact .refused k
  | announce hp ho => exact .announce hp ho
  | load i _ ha hn hfind hmove => exact .load i ha hn hfind hmove
  | hatchRelease hfind hmove =>
    obtain ⟨hstate, rfl⟩ := hatchRelease_ok hmove
    exact .of_register (.changed hfind (.released s.seconds hstate)) (changeBag_leaves _ _ s)
  | abortCall i r _ hp hs => exact .abortCall i r hp hs
  | sign i d r hp hs hu => exact .sign i d r hp hs hu
  | purge _ _ => exact .of_register .purged (setBags_leaves _ s)

/-! ## The call and its slot (R124) -/

theorem sessionSound_idle (hphase : t.call.phase = .idle) (hslot : t.call.slot = none) (htimer : t.call.timer = none) : SessionSound t := by
  unfold SessionSound
  rw [if_pos hphase]
  exact ⟨hslot, htimer⟩

theorem sessionSound_active (hphase : t.call.phase ≠ .idle) (hslot : t.call.slot = some t.call.next) (htimer : t.call.timer.isSome = true)
    (howner : t.ring[t.call.next].owner = .part) : SessionSound t := by
  unfold SessionSound
  rw [if_neg hphase]
  exact ⟨hslot, htimer, howner⟩

theorem callIdle_of (hs : SessionSound s) (h : s.call.phase = .idle) : s.call.slot = none ∧ s.call.timer = none := by
  unfold SessionSound at hs
  rwa [if_pos h] at hs

theorem callActive_of (hs : SessionSound s) (h : s.call.phase ≠ .idle) :
    s.call.slot = some s.call.next ∧ s.call.timer.isSome = true ∧ s.ring[s.call.next].owner = .part := by
  unfold SessionSound at hs
  rwa [if_neg h] at hs

/-- The state of the call depends on the call and on who owns the slots. -/
theorem sessionSound_congr (hcall : t.call = s.call) (howner : ∀ j : Fin 16, s.ring[j].owner = .part → t.ring[j].owner = .part)
    (hs : SessionSound s) : SessionSound t := by
  by_cases hphase : s.call.phase = .idle
  · obtain ⟨hslot, htimer⟩ := callIdle_of hs hphase
    exact sessionSound_idle (by rw [hcall]; exact hphase) (by rw [hcall]; exact hslot) (by rw [hcall]; exact htimer)
  · obtain ⟨hslot, htimer, hpart⟩ := callActive_of hs hphase
    refine sessionSound_active (by rw [hcall]; exact hphase) (by rw [hcall]; exact hslot) (by rw [hcall]; exact htimer) ?_
    simp only [hcall]
    exact howner _ hpart

/-- A session that is active has a slot. -/
theorem phase_idle_of (hs : SessionSound s) (h : s.call.phase = .idle ∨ s.call.slot = none) : s.call.phase = .idle := by
  by_contra hphase
  rw [(callActive_of hs hphase).1] at h
  rcases h with h | h
  · exact hphase h
  · cases h

theorem setSlot_ring (i j : Fin 16) (d : Descriptor) (s : State) : (setSlot i d s).ring[j] = if i = j then d else s.ring[j] := put_get _ _ _ _

theorem mapRows_row {α β : Type} {n : Nat} (f : α → β) (v : Vector α n) (j : Fin n) : (mapRows f v)[j] = f v[j] :=
  mapRows_get f v j j.isLt

theorem passDay_ring (j : Fin 16) (s : State) :
    (passDay s).ring[j] = if s.ring[j].owner = .part then { s.ring[j] with dayPassed := true } else s.ring[j] := by
  have hring : (passDay s).ring = mapRows (fun d => if d.owner = .part then { d with dayPassed := true } else d) s.ring := rfl
  rw [hring, mapRows_row]

/-- A slot that was PART's stays so, where the slot that changes stays PART's or is another. -/
theorem owner_kept {i : Fin 16} {d : Descriptor} {ring : Vector Descriptor 16} (hd : ring[i].owner = .part → d.owner = .part) (j : Fin 16)
    (hj : ring[j].owner = .part) : (put ring i d)[j].owner = .part := by
  rw [put_get]
  split
  · next he => exact hd (he ▸ hj)
  · exact hj

theorem acceptCourier_phase (s : State) : acceptCourier s = s.setCall { s.call with
    refused := 0, phase := if s.head.outbound = [] then .signing else .exchange, slot := some s.call.next
    timer := some (s.seconds + if s.head.outbound = [] then s.timing.signTimeout else s.timing.exchangeTimeout) } := by
  unfold acceptCourier
  dsimp only
  split <;> rfl

theorem Shift.sessionSound (h : Shift s t) (hs : SessionSound s) : SessionSound t := by
  have hkept {ex : List Part} (h : unchangedBut ex s t) (hcall : .call ∉ ex) (hring : .ring ∉ ex) : SessionSound t :=
    sessionSound_congr (h .call hcall) (fun j hj => by rw [h .ring hring]; exact hj) hs
  cases h with
  | plain h => exact sessionSound_congr h.call (fun j hj => by rw [h.ring]; exact hj) hs
  | @enter op way node n b b' _ _ => exact hkept (acceptEntry_leaves op way b' node s) (by decide) (by decide)
  | @withdraw node n b b' _ _ => exact hkept (withdrawn_leaves n node b' _ _ s) (by decide) (by decide)
  | openCount x v _ _ _ _ _ => exact hkept (opened_leaves x v _ _ s) (by decide) (by decide)
  | resume x v _ _ _ => exact hkept (askedSession_leaves x v _ _ s) (by decide) (by decide)
  | session x v _ _ => exact hkept (setSession_leaves x v s) (by decide) (by decide)
  | suspend x v _ _ _ => exact hkept (askedSession_leaves x v _ _ s) (by decide) (by decide)
  | abort x _ => exact hkept (askedSession_leaves x _ _ _ s) (by decide) (by decide)
  | count x _ _ _ hu =>
    exact hkept (unchangedBut_trans (unchangedBut_trans hu (changeBag_leaves _ _ _)) (setSession_leaves x _ _)) (by decide) (by decide)
  | slot i d ho _ => exact sessionSound_congr (s := s) rfl (owner_kept fun h => ho.trans h) hs
  | passDay =>
    exact sessionSound_congr (s := s) rfl (fun j hj => by rw [passDay_ring, if_pos hj]; exact hj) hs
  | hand i _ _ => exact sessionSound_congr (s := s) rfl (owner_kept fun _ => rfl) hs
  | recallSlot i _ ha =>
    by_cases hphase : s.call.phase = .idle
    · exact sessionSound_idle hphase (callIdle_of hs hphase).1 (callIdle_of hs hphase).2
    · obtain ⟨hslot, htimer, howner⟩ := callActive_of hs hphase
      refine sessionSound_active hphase hslot htimer ?_
      have hne : i ≠ s.call.next := by
        rintro rfl
        simp [Handover.activeOn, hphase, hslot] at ha
      show (put s.ring i _)[s.call.next].owner = _
      rw [put_get, if_neg hne]
      exact howner
  | returnHead r hp _ =>
    have hphase := phase_idle_of hs hp
    exact sessionSound_idle hphase (callIdle_of hs hphase).1 (callIdle_of hs hphase).2
  | refused k =>
    by_cases hphase : s.call.phase = .idle
    · exact sessionSound_idle hphase (callIdle_of hs hphase).1 (callIdle_of hs hphase).2
    · exact sessionSound_active hphase (callActive_of hs hphase).1 (callActive_of hs hphase).2.1 (callActive_of hs hphase).2.2
  | announce _ ho =>
    rw [acceptCourier_phase]
    refine sessionSound_active ?_ rfl rfl ho
    show (if s.head.outbound = [] then Phase.signing else Phase.exchange) ≠ .idle
    split <;> decide
  | load i ha _ _ _ =>
    have hphase : s.call.phase ≠ .idle := fun h => by simp [State.activeSlot, h] at ha
    obtain ⟨hslot, htimer, howner⟩ := callActive_of hs hphase
    have hi : i = s.call.next := by
      rw [State.activeSlot, if_neg hphase, hslot] at ha
      exact (Option.some.inj ha).symm
    unfold afterLoad
    split
    · refine sessionSound_active (fun h => nomatch h) (congrArg some hi) rfl howner
    · exact sessionSound_active hphase hslot htimer howner
  | abortCall i r _ _ => exact sessionSound_idle rfl rfl rfl
  | sign i d r _ _ hu => exact sessionSound_idle rfl rfl rfl

end

end Sys2Proof.Machine.Effects

/-! PROOF. The count sessions and the records that they count. -/

namespace Sys2Proof.Machine.Effects

open Sys2Proof Sys2Proof.Machine

section
variable {A : Passage → Prop} {s t : State} {n : Nat} {b b' : Bag}

/-! ## The records that a session counts (R99, R100) -/

/-- A record that a session counts or holds suspended. -/
def Counted (b : Bag) : Prop := b.state = .counting ∨ b.state = .countSuspended

/-- Outside a count no record comes to be counted, or stops, and a counted one keeps its state and session. -/
theorem RowMove.counted (hA : ¬A .counting) {call : Handover} (h : RowMove A call b b') :
    (Counted b' ↔ Counted b) ∧ (Counted b → b'.state = b.state ∧ b'.session = b.session) := by
  have hout {st : BagState} (hs : b.state = st) (hst : ¬(st = .counting ∨ st = .countSuspended) := by decide) : ¬Counted b :=
    fun h => hst (hs ▸ h)
  have haway (hb : ¬Counted b) (hb' : ¬Counted b') :
      (Counted b' ↔ Counted b) ∧ (Counted b → b'.state = b.state ∧ b'.session = b.session) := ⟨iff_of_false hb' hb, fun h => absurd h hb⟩
  cases h with
  | entered now _ hs =>
    refine haway ?_ (by simp [Counted, Bag.moved])
    rcases hs with ⟨-, hs | hs | hs⟩ | ⟨-, hs⟩ | ⟨-, hs⟩ <;> exact hout hs
  | reentered now _ hs => exact haway (hout hs) (by simp [Counted, Bag.moved])
  | withdrawn now _ hm =>
    obtain ⟨hs, ⟨-, rfl⟩ | ⟨-, -, rfl⟩ | ⟨-, i, -, -, rfl⟩⟩ := withdraw_ok hm <;> exact haway (hout hs) (by simp [Counted, Bag.moved])
  | opened | resumed | suspended | aborted | closed => exact absurd ‹A .counting› hA
  | loaded now _ hs => exact haway (hout hs) (by simp [Counted, Bag.moved])
  | released now hs => exact haway (hout hs) (by simp [Counted, Bag.moved])
  | delivered now _ _ hs => exact haway (hout hs) (by simp [Counted, Bag.moved])
  | restocked now _ _ hs => exact haway (hout hs) (by simp [Counted, Bag.moved])
  | signed now _ hs => exact haway (hout hs) (by simp [Counted, Bag.moved])
  | held now _ hs => exact haway (hout hs) (by simp [Counted, Bag.moved])
  | returned now _ hs => exact haway (hout hs) (by simp [Counted, Bag.moved])
  | flagged | pinned | unpinned => exact ⟨Iff.rfl, fun _ => ⟨rfl, rfl⟩⟩

theorem RowMoves.counted (hA : ¬A .counting) {call : Handover} (h : RowMoves A call b b') :
    (Counted b' ↔ Counted b) ∧ (Counted b → b'.state = b.state ∧ b'.session = b.session) := by
  induction h with
  | refl => exact ⟨Iff.rfl, fun _ => ⟨rfl, rfl⟩⟩
  | tail _ hlast ih =>
    obtain ⟨hiff, hkeeps⟩ := hlast.counted hA
    refine ⟨hiff.trans ih.1, fun hb => ?_⟩
    obtain ⟨hstate, hsession⟩ := hkeeps (ih.1.mpr hb)
    exact ⟨hstate.trans (ih.2 hb).1, hsession.trans (ih.2 hb).2⟩

/-- The state of a record in the session's hands. -/
def countState (v : Session) : BagState := if v.state = .counting then .counting else .countSuspended

theorem countState_counted (v : Session) (h : b.state = countState v) : Counted b := by
  unfold countState at h
  split at h
  · exact .inl h
  · exact .inr h

/-- A session that is not IDLE and its record, where seals are distinct. -/
theorem countsMatch_iff (hd : SealsDistinct s) : CountsMatch s ↔
    (∀ x : Fin 4, s.sessions[x].state ≠ .idle →
      ∃ b ∈ s.bags, b.sealNo = s.sessions[x].bag ∧ b.session = some x ∧ b.state = countState s.sessions[x]) ∧
    ∀ b ∈ s.bags, Counted b → ∃ x : Fin 4, b.session = some x ∧ s.sessions[x].state ≠ .idle ∧ s.sessions[x].bag = b.sealNo := by
  refine and_congr (forall_congr' fun x => forall_congr' fun _ => exists_congr fun b => ?_) Iff.rfl
  rw [findBag_iff hd, and_assoc]
  rfl

/-- A change of the register outside a count keeps sessions and records on each other. -/
theorem Register.countsMatch (h : Register A s t.bags) (hA : ¬A .counting)
    (hsessions : ∀ x : Fin 4, t.sessions[x].state = s.sessions[x].state ∧ t.sessions[x].bag = s.sessions[x].bag)
    (hd : SealsDistinct s) (hs : CountsMatch s) : CountsMatch t := by
  have hstate (x : Fin 4) : countState t.sessions[x] = countState s.sessions[x] := by rw [countState, (hsessions x).1]; rfl
  obtain ⟨hof, hby⟩ := (countsMatch_iff hd).mp hs
  rw [countsMatch_iff (h.sealsDistinct hd)]
  simp only [hstate, fun x => (hsessions x).1, fun x => (hsessions x).2]
  generalize t.bags = bags at h
  cases h with
  | mapped f hf hrows =>
    have hrow (b) (hb : b ∈ s.bags) := (hrows hd b hb).counted hA
    constructor
    · intro x hx
      obtain ⟨b, hb, hseal, hsession, hcount⟩ := hof x hx
      obtain ⟨hst, hse⟩ := (hrow b hb).2 (countState_counted _ hcount)
      exact ⟨f b, List.mem_map_of_mem hb, (hf b hb).trans hseal, hse.trans hsession, hst.trans hcount⟩
    · intro c hc hcount
      obtain ⟨b, hb, rfl⟩ := List.mem_map.mp hc
      have hbc := (hrow b hb).1.mp hcount
      obtain ⟨x, hx, hidle, hbag⟩ := hby b hb hbc
      exact ⟨x, ((hrow b hb).2 hbc).2.trans hx, hidle, hbag.trans (hf b hb).symm⟩
  | added b hcheck hfresh =>
    constructor
    · intro x hx
      obtain ⟨c, hc, h⟩ := hof x hx
      exact ⟨c, List.mem_append_left _ hc, h⟩
    · intro c hc hcount
      rcases List.mem_append.mp hc with hc | hc
      · exact hby c hc hcount
      · rw [List.mem_singleton.mp hc] at hcount
        rcases hfresh.2.2 with ⟨-, h | h⟩ | ⟨-, h⟩ <;> simp [Counted, h] at hcount
  | purged =>
    constructor
    · intro x hx
      obtain ⟨c, hc, hseal, hsession, hcount⟩ := hof x hx
      refine ⟨c, List.mem_filter.mpr ⟨hc, ?_⟩, hseal, hsession, hcount⟩
      rcases countState_counted _ hcount with h | h <;> rw [h] <;> rfl
    · exact fun c hc => hby c (List.mem_filter.mp hc).1

/-- No two sessions count one bag. -/
theorem countsMatch_other (hs : CountsMatch s) {x y : Fin 4} (hx : s.sessions[x].state ≠ .idle) (hy : s.sessions[y].state ≠ .idle)
    (h : s.sessions[y].bag = s.sessions[x].bag) : y = x := by
  obtain ⟨b, hb, hbx, -⟩ := hs.1 x hx
  obtain ⟨c, hc, hcy, -⟩ := hs.1 y hy
  rw [h, hb] at hc
  cases hc
  rw [hbx] at hcy
  exact (Option.some.inj hcy).symm

/-- One session changes and with it the record that it counts, counted before or counted after. -/
theorem countsMatch_changed {x : Fin 4} {v : Session} (hd : SealsDistinct s) (hs : CountsMatch s) (hfind : findBag s n = some b)
    (hrow : RowMove A s.call b b') (hbags : t.bags = s.bags.map fun c => if c.sealNo = n then b' else c)
    (hsessions : t.sessions = put s.sessions x v) (hother : ∀ y, s.sessions[y].state ≠ .idle → s.sessions[y].bag = n → y = x)
    (hmine : s.sessions[x].state ≠ .idle → s.sessions[x].bag = n)
    (hnew : v.state ≠ .idle → v.bag = n ∧ b'.session = some x ∧ b'.state = countState v) (hold : Counted b' → v.state ≠ .idle) :
    CountsMatch t := by
  have hseal : b'.sealNo = n := hrow.keeps.1.trans (findBag_some hfind).2
  have hd' : SealsDistinct t := Register.sealsDistinct (A := A) (hbags ▸ .changed hfind hrow) hd
  have hmem : b' ∈ t.bags := hbags ▸ List.mem_map.mpr ⟨b, (findBag_some hfind).1, if_pos (findBag_some hfind).2⟩
  have hrest (c : Bag) (hc : c ∈ s.bags) (hn : c.sealNo ≠ n) : c ∈ t.bags := hbags ▸ List.mem_map.mpr ⟨c, hc, if_neg hn⟩
  have hrow (y : Fin 4) : t.sessions[y] = if x = y then v else s.sessions[y] := by rw [hsessions, put_get]
  obtain ⟨hof, hby⟩ := (countsMatch_iff hd).mp hs
  rw [countsMatch_iff hd']
  constructor
  · intro y hy
    rw [hrow] at hy ⊢
    split at hy
    · next he =>
      obtain ⟨hbag, hsession, hstate⟩ := hnew hy
      rw [if_pos he]
      exact ⟨b', hmem, hseal.trans hbag.symm, he ▸ hsession, hstate⟩
    · next hne =>
      obtain ⟨c, hc, hbag, h⟩ := hof y hy
      rw [if_neg hne]
      exact ⟨c, hrest c hc fun hn => hne (hother y hy (hbag.symm.trans hn)).symm, hbag, h⟩
  · intro c hc hcount
    rw [hbags] at hc
    obtain ⟨a, ha, rfl⟩ := List.mem_map.mp hc
    split at hcount
    · next hn =>
      have hv := hold hcount
      obtain ⟨hbag, hsession, -⟩ := hnew hv
      rw [if_pos hn]
      exact ⟨x, hsession, by rw [hrow, if_pos rfl]; exact hv, by rw [hrow, if_pos rfl, hseal]; exact hbag⟩
    · next hn =>
      obtain ⟨y, hy, hidle, hbag⟩ := hby a ha hcount
      have hne : x ≠ y := by
        rintro rfl
        exact hn (hbag.symm.trans (hmine hidle))
      rw [if_neg hn]
      exact ⟨y, hy, by rw [hrow, if_neg hne]; exact hidle, by rw [hrow, if_neg hne]; exact hbag⟩

/-- What a session asks of the register's record, where the record allows it. -/
theorem askRegister_ok {move : Bag → Except Code Bag} (hfind : findBag s n = some b) (hmove : move b = .ok b') :
    askRegister n move s = changeBag n (fun _ => b') s := by
  unfold askRegister
  rcases transition_spec n move s with ⟨hnone, -⟩ | ⟨c, e, hc, he, -⟩ | ⟨c, c', hc, hc', h⟩
  · rw [hfind] at hnone
    cases hnone
  · rw [hfind] at hc
    cases hc
    rw [hmove] at he
    cases he
  · rw [hfind] at hc
    cases hc
    rw [hmove] at hc'
    cases hc'
    rw [h]

/-- The record of a session that suspends, resumes or ends, and the session after it. -/
theorem countsMatch_asked {x : Fin 4} {v : Session} {move : Bag → Except Code Bag} (hd : SealsDistinct s) (hs : CountsMatch s)
    (hx : s.sessions[x].state ≠ .idle) (hfind : findBag s s.sessions[x].bag = some b) (hmove : move b = .ok b')
    (hrow : RowMove (fun p => p = .counting) s.call b b')
    (hnew : v.state ≠ .idle → v.bag = s.sessions[x].bag ∧ b'.session = some x ∧ b'.state = countState v) (hold : Counted b' → v.state ≠ .idle) :
    CountsMatch (setSession x v (askRegister s.sessions[x].bag move s)) := by
  rw [askRegister_ok hfind hmove]
  exact countsMatch_changed hd hs hfind hrow rfl rfl (fun y hy h => countsMatch_other hs hx hy h) (fun _ => rfl) hnew hold

theorem Shift.countsMatch (h : Shift s t) (hd : SealsDistinct s) (hp : PinsSound s) (hs : CountsMatch s) : CountsMatch t := by
  have hall {p : Passage} (hp : p ≠ .counting := by decide) : (fun x : Passage => x ≠ .counting) p := hp
  have hapart {u : State} (hreg : Register (fun x => x ≠ .counting) s u.bags) (hsessions : u.sessions = s.sessions) : CountsMatch u :=
    hreg.countsMatch (fun h => h rfl) (fun x => by rw [hsessions]; exact ⟨rfl, rfl⟩) hd hs
  have hkept {ex : List Part} {u : State} (h : unchangedBut ex s u) (hbags : .bags ∉ ex) (hsessions : .sessions ∉ ex) : CountsMatch u :=
    hapart (.kept (h .bags hbags)) (h .sessions hsessions)
  cases h with
  | plain h => exact hapart (h.register.mono fun x hx => by subst hx; exact hall) h.sessions
  | @enter op way node n b b' hfind hmove =>
    have hseal : b'.sealNo = n := (entered_row (A := fun x => x ≠ .counting) (call := s.call) hall hmove).1.keeps.1.trans (findBag_some hfind).2
    subst hseal
    exact hapart (.changed hfind (entered_row hall hmove).1) (acceptEntry_leaves op way b' node s .sessions (by decide))
  | @withdraw node n b b' hfind hmove =>
    exact hapart (.changed hfind (.withdrawn s.seconds hall hmove)) (withdrawn_leaves n node b' _ _ s .sessions (by decide))
  | @openCount x v n b b' hidle hfind hmove hv hbag =>
    have hfree (y : Fin 4) (hy : s.sessions[y].state ≠ .idle) (hn : s.sessions[y].bag = n) : y = x := by
      obtain ⟨c, hc, hsession, hstate⟩ := hs.1 y hy
      rw [hn, hfind] at hc
      cases hc
      obtain ⟨-, ⟨hout, -⟩ | ⟨-, hx, -⟩⟩ := open_ok hmove
      · rw [hout] at hstate
        split at hstate <;> cases hstate
      · rw [hx] at hsession
        exact (Option.some.inj hsession).symm
    refine countsMatch_changed (A := fun p => p = .counting) hd hs hfind (opened_row rfl hmove) rfl rfl hfree (fun h => absurd hidle h)
      (fun _ => ⟨hbag, ?_⟩) fun _ => by rw [hv]; decide
    rw [countState, if_pos hv]
    obtain ⟨-, ⟨-, rfl⟩ | ⟨-, hx, rfl⟩⟩ := open_ok hmove
    · exact ⟨rfl, rfl⟩
    · exact ⟨hx, rfl⟩
  | resume x v hsus hv hbag =>
    have hx : s.sessions[x].state ≠ .idle := by rw [hsus]; decide
    obtain ⟨b, hfind, hsession, hstate⟩ := hs.1 x hx
    have hsuspended : b.state = .countSuspended := by rw [hstate, hsus]; rfl
    have hpin : b.pin = none := by
      cases h : b.pin with
      | none => rfl
      | some i =>
        have hlasts := (hp b (findBag_some hfind).1 (by rw [h]; rfl)).2
        rw [hsuspended] at hlasts
        simp at hlasts
    have hmove : moveOpen x s.seconds b = .ok (b.moved .counting s.seconds) := by simp [moveOpen, hpin, hsuspended, hsession]
    exact countsMatch_asked hd hs hx hfind hmove (opened_row rfl hmove) (fun _ => ⟨hbag, hsession, by rw [countState, if_pos hv]; rfl⟩)
      fun _ => by rw [hv]; decide
  | session x v hstate hbag =>
    refine (Register.kept (A := fun x => x ≠ .counting) (s := s) (t := setSession x v s) rfl).countsMatch (fun h => h rfl) (fun y => ?_) hd hs
    have hrow : (setSession x v s).sessions[y] = if x = y then v else s.sessions[y] := put_get _ _ _ _
    rw [hrow]
    split
    · next he =>
      subst he
      exact ⟨hstate, hbag⟩
    · exact ⟨rfl, rfl⟩
  | suspend x v hcounting hv hbag =>
    have hx : s.sessions[x].state ≠ .idle := by rw [hcounting]; decide
    obtain ⟨b, hfind, hsession, hstate⟩ := hs.1 x hx
    have hc : b.state = .counting := by rw [hstate, if_pos hcounting]
    have hmove : moveSuspend s.seconds b = .ok (b.moved .countSuspended s.seconds) := by simp [moveSuspend, hc]
    exact countsMatch_asked hd hs hx hfind hmove (suspended_row rfl hmove)
      (fun _ => ⟨hbag, hsession, by rw [countState, if_neg (by rw [hv]; decide)]; rfl⟩) fun _ => by rw [hv]; decide
  | abort x hx =>
    obtain ⟨b, hfind, hsession, hstate⟩ := hs.1 x hx
    have hcount : b.state = .counting ∨ b.state = .countSuspended := by
      rw [hstate]
      split
      · exact .inl rfl
      · exact .inr rfl
    have hmove : moveAbort x s.seconds b = .ok { b.moved .outForCount s.seconds with session := none } := by
      rcases hcount with h | h <;> simp [moveAbort, h, hsession]
    exact countsMatch_asked hd hs hx hfind hmove (aborted_row rfl hmove) (fun h => absurd rfl h) fun h => by
      rcases h with h | h <;> cases h
  | @count x u b b' k sus variance cls hcounting hfind hmove hu =>
    have hx : s.sessions[x].state ≠ .idle := by rw [hcounting]; decide
    have hbags : u.bags = s.bags := hu .bags (by decide)
    have hsessions : u.sessions = s.sessions := hu .sessions (by decide)
    refine countsMatch_changed (A := fun p => p = .counting) (x := x) (v := Session.reset) hd hs hfind (closed_row rfl hmove) ?_ ?_
      (fun y hy h => countsMatch_other hs hx hy h) (fun _ => rfl) (fun h => absurd rfl h) fun h => ?_
    · show u.bags.map _ = _
      rw [hbags]
    · show put u.sessions x _ = _
      rw [hsessions]
    · obtain ⟨-, -, rfl⟩ := close_ok hmove
      rcases h with h | h <;> cases h
  | slot i d _ _ => exact hkept (setSlot_leaves i d s) (by decide) (by decide)
  | passDay => exact hkept (passDay_leaves s) (by decide) (by decide)
  | hand i _ hpins => exact hapart (handSlot_register hall hpins) (handSlot_leaves i s .sessions (by decide))
  | recallSlot i _ _ => exact hapart (recallSlot_register hall i) (recallSlot_leaves i s .sessions (by decide))
  | returnHead r _ _ => exact hapart (returnSlot_register hall _ r) (returnSlot_leaves _ r s .sessions (by decide))
  | refused k => exact hkept (setCall_leaves _ s) (by decide) (by decide)
  | announce _ _ => exact hkept (acceptCourier_leaves s) (by decide) (by decide)
  | @load n b b' i _ _ hfind hmove =>
    obtain ⟨hstate, rfl⟩ := load_ok hmove
    refine hapart ?_ (loaded_leaves i n _ s .sessions (by decide))
    rw [afterLoad_leaves i _ .bags (by decide)]
    exact .changed hfind (.loaded s.seconds hall hstate)
  | abortCall i r _ _ => exact hapart (aborted_register hall hall i r _ _) (aborted_leaves i r _ _ s .sessions (by decide))
  | sign i d r _ _ hu => exact hapart (signed_register hall hall i d r _ hu) (signed_leaves d r hu .sessions (by decide))

end

end Sys2Proof.Machine.Effects

/-! PROOF. The bags of a handover session, on the list of its slot. -/

namespace Sys2Proof.Machine.Effects

open Sys2Proof Sys2Proof.Machine

section
variable {A : Passage → Prop} {s t : State} {n : Nat} {b b' : Bag}

/-! ## The moves away from the hatch (R29, R31) -/

/-- A bag that a handover has in hand. -/
def InHands (b : Bag) : Prop := b.state = .loaded ∨ b.state = .inHandling

/-- The changes of records that are none of a handover's. -/
def Calm : Passage → Prop := fun x => x = .entering ∨ x = .jobs ∨ x = .counting

/-- Away from the hatch no bag comes into hand, a loaded one stays, and a pin IN_SAFE was there before. -/
structure CalmRow (b b' : Bag) : Prop where
  hands : InHands b' → InHands b ∧ b'.pin = b.pin
  loaded : b.state = .loaded → b'.state = .loaded
  safe : ∀ i, b'.state = .inSafe → b'.pin = some i → (b.state = .inSafe ∨ b.state = .inHandling) ∧ b.pin = some i

/-- A record moved out of one state into another, neither of them the hatch's. -/
theorem calmRow_of_moved (hb : b.state ≠ .loaded) (hb' : b'.state ≠ .loaded ∧ b'.state ≠ .inHandling ∧ b'.state ≠ .inSafe) : CalmRow b b' where
  hands h := (h.elim hb'.1 hb'.2.1).elim
  loaded h := absurd h hb
  safe _ h := absurd h hb'.2.2

theorem RowMove.calm {call : Handover} (h : RowMove Calm call b b') (hp : PinLasts b) : CalmRow b b' := by
  have haway {st : BagState} (hs : b.state = st) (hne : st ≠ .loaded := by decide) : b.state ≠ .loaded := hs ▸ hne
  cases h with
  | entered now _ hs =>
    refine ⟨fun h => (h.elim nofun nofun), fun h => ?_, fun i _ hi => ?_⟩
    · rw [h] at hs
      simp at hs
    · have hpin : b.pin = some i := hi
      obtain ⟨hkind, hstate⟩ := hp (by rw [hpin]; rfl)
      refine ⟨?_, hpin⟩
      rcases hs with ⟨-, hs | hs | hs⟩ | ⟨-, hs⟩ | ⟨-, hs⟩
      · simp [hs] at hstate
      · simp [hs] at hstate
      · simp [hs] at hstate
      · simp [hs] at hstate
      · exact .inr hs
  | reentered now _ hs =>
    exact ⟨fun h => (h.elim nofun nofun), fun h => absurd h (haway hs), fun i _ hi => nomatch (hi : none = some i)⟩
  | opened x now _ _ hs => exact calmRow_of_moved (haway hs) ⟨nofun, nofun, nofun⟩
  | resumed x now _ _ hs _ => exact calmRow_of_moved (haway hs) ⟨nofun, nofun, nofun⟩
  | suspended now _ hs => exact calmRow_of_moved (haway hs) ⟨nofun, nofun, nofun⟩
  | aborted x now _ hs _ =>
    refine calmRow_of_moved ?_ ⟨nofun, nofun, nofun⟩
    rcases hs with hs | hs <;> exact haway hs
  | closed x k u v c now _ hs _ => exact calmRow_of_moved (haway hs) ⟨nofun, nofun, nofun⟩
  | released now hs => exact calmRow_of_moved (haway hs) ⟨nofun, nofun, nofun⟩
  | delivered now _ _ hs => exact calmRow_of_moved (haway hs) ⟨nofun, nofun, nofun⟩
  | restocked now _ _ hs => exact calmRow_of_moved (haway hs) ⟨nofun, nofun, nofun⟩
  | withdrawn now ha | loaded now ha | signed now ha | held now ha | returned now ha | flagged ha | pinned i ha | unpinned ha =>
    simp [Calm] at ha

theorem RowMoves.calm {call : Handover} (h : RowMoves Calm call b b') (hp : PinLasts b) : CalmRow b b' := by
  induction h with
  | refl => exact ⟨fun h => ⟨h, rfl⟩, id, fun i hs hi => ⟨.inl hs, hi⟩⟩
  | tail hrun hlast ih =>
    have hnext := hlast.calm (RowMoves.pinLasts hrun hp)
    refine ⟨fun h => ?_, hnext.loaded ∘ ih.loaded, fun i hs hi => ?_⟩
    · obtain ⟨hmid, hpin⟩ := hnext.hands h
      exact ⟨(ih.hands hmid).1, hpin.trans (ih.hands hmid).2⟩
    · obtain ⟨hsafe | hhand, hpin⟩ := hnext.safe i hs hi
      · exact ih.safe i hsafe hpin
      · obtain ⟨hhand, hsame⟩ := ih.hands (.inr hhand)
        have hp' := hsame ▸ hpin
        rcases hhand with hl | hh
        · have hl' := ih.loaded hl
          simp_all
        · exact ⟨.inr hh, hp'⟩

/-- What the register is to a handover after a move away from the hatch. -/
structure CalmBags (s t : State) : Prop where
  hands : ∀ c ∈ t.bags, InHands c → ∃ b ∈ s.bags, b.sealNo = c.sealNo ∧ InHands b ∧ c.pin = b.pin
  loaded : ∀ n, bagIn s n .loaded = true → bagIn t n .loaded = true
  safe : ∀ c ∈ t.bags, ∀ i, c.state = .inSafe → c.pin = some i →
    ∃ b ∈ s.bags, b.sealNo = c.sealNo ∧ (b.state = .inSafe ∨ b.state = .inHandling) ∧ b.pin = some i

theorem Register.calm (h : Register Calm s t.bags) (hd : SealsDistinct s) (hp : PinsSound s) : CalmBags s t := by
  have hd' := h.sealsDistinct hd
  have hloaded (n : Nat) : bagIn s n .loaded = true ↔ _ := bagIn_iff_mem hd
  have hloaded' (n : Nat) : bagIn t n .loaded = true ↔ _ := bagIn_iff_mem hd'
  have hmk (bags : List Bag) (hbags : t.bags = bags)
      (hhands : ∀ c ∈ bags, InHands c → ∃ b ∈ s.bags, b.sealNo = c.sealNo ∧ InHands b ∧ c.pin = b.pin)
      (hkeep : ∀ b ∈ s.bags, b.state = .loaded → ∃ c ∈ bags, c.sealNo = b.sealNo ∧ c.state = .loaded)
      (hsafe : ∀ c ∈ bags, ∀ i, c.state = .inSafe → c.pin = some i →
        ∃ b ∈ s.bags, b.sealNo = c.sealNo ∧ (b.state = .inSafe ∨ b.state = .inHandling) ∧ b.pin = some i) : CalmBags s t := by
    refine ⟨by rwa [hbags], fun n hn => ?_, by rwa [hbags]⟩
    obtain ⟨b, hb, rfl, hst⟩ := (hloaded n).mp hn
    obtain ⟨c, hc, hseal, hcst⟩ := hkeep b hb hst
    exact (hloaded' _).mpr ⟨c, hbags ▸ hc, hseal, hcst⟩
  generalize hbags : t.bags = bags at h
  cases h with
  | mapped f hf hrows =>
    have hrow (b) (hb : b ∈ s.bags) : CalmRow b (f b) := (hrows hd b hb).calm (hp b hb)
    refine hmk _ hbags (fun c hc hin => ?_) (fun b hb hl => ⟨f b, List.mem_map_of_mem hb, hf b hb, (hrow b hb).loaded hl⟩) fun c hc i hs hi => ?_
    · obtain ⟨b, hb, rfl⟩ := List.mem_map.mp hc
      exact ⟨b, hb, (hf b hb).symm, (hrow b hb).hands hin⟩
    · obtain ⟨b, hb, rfl⟩ := List.mem_map.mp hc
      exact ⟨b, hb, (hf b hb).symm, (hrow b hb).safe i hs hi⟩
  | added b hcheck hfresh =>
    have hnew : ¬InHands b := by
      rcases hfresh.2.2 with ⟨-, h | h⟩ | ⟨-, h⟩ <;> simp [InHands, h]
    refine hmk _ hbags (fun c hc hin => ?_) (fun c hc hl => ⟨c, List.mem_append_left _ hc, rfl, hl⟩) fun c hc i hs hi => ?_
    · rcases List.mem_append.mp hc with hc | hc
      · exact ⟨c, hc, rfl, hin, rfl⟩
      · exact absurd (List.mem_singleton.mp hc ▸ hin) hnew
    · rcases List.mem_append.mp hc with hc | hc
      · exact ⟨c, hc, rfl, .inl hs, hi⟩
      · rw [List.mem_singleton.mp hc, hfresh.1] at hi
        cases hi
  | purged =>
    refine hmk _ hbags (fun c hc hin => ⟨c, (List.mem_filter.mp hc).1, rfl, hin, rfl⟩)
      (fun c hc hl => ⟨c, List.mem_filter.mpr ⟨hc, by rw [hl]; rfl⟩, rfl, hl⟩)
      fun c hc i hs hi => ⟨c, (List.mem_filter.mp hc).1, rfl, .inl hs, hi⟩

/-- PART's slots as they were. -/
def SlotsKept (s t : State) : Prop := ∀ i : Fin 16, s.ring[i].owner = .part → t.ring[i].owner = .part ∧ t.ring[i].outbound = s.ring[i].outbound

theorem SlotsKept.of_eq (h : t.ring = s.ring) : SlotsKept s t := fun i hi => by rw [h]; exact ⟨hi, rfl⟩

theorem slotsKept_put {i : Fin 16} {d : Descriptor} (hring : t.ring = put s.ring i d)
    (hd : s.ring[i].owner = .part → d.owner = .part ∧ d.outbound = s.ring[i].outbound) : SlotsKept s t := fun j hj => by
  rw [hring, put_get]
  split
  · next he =>
    subst he
    exact hd hj
  · exact ⟨hj, rfl⟩

/-- The slot of the session is PART's. -/
theorem callSlot_owner (hs : SessionSound s) (hphase : s.call.phase ≠ .idle) {i : Fin 16} (hi : s.call.slot = some i) :
    i = s.call.next ∧ s.ring[i].owner = .part := by
  obtain ⟨hslot, -, howner⟩ := callActive_of hs hphase
  rw [hslot] at hi
  cases hi
  exact ⟨rfl, howner⟩

theorem CalmBags.handoverBags (h : CalmBags s t) (hphase : t.call.phase = s.call.phase) (hslot : t.call.slot = s.call.slot)
    (hring : SlotsKept s t) (hsound : SessionSound s) (hs : HandoverBags s) : HandoverBags t := by
  obtain ⟨hhands, hsafe, hsigning⟩ := hs
  have hin (b) (hb : b ∈ s.bags) (hst : InHands b) (i : Fin 16) (hi : b.pin = some i) :
      s.ring[i].owner = .part ∧ b.sealNo ∈ s.ring[i].outbound ∧ s.call.phase ≠ .idle ∧ s.call.slot = some i := by
    obtain ⟨hne, j, hj, hpin, hmem⟩ := hhands b hb hst
    rw [hpin] at hi
    cases hi
    exact ⟨(callSlot_owner hsound hne hj).2, hmem, hne, hj⟩
  refine ⟨fun c hc hst => ?_, fun c hc i hst hi => ?_, fun hp i hi n hn => ?_⟩
  · obtain ⟨b, hb, hseal, hbst, hpin⟩ := h.hands c hc hst
    obtain ⟨hne, i, hi, hbpin, hmem⟩ := hhands b hb hbst
    rw [hphase, hslot]
    exact ⟨hne, i, hi, hpin.trans hbpin, by rw [(hring i (callSlot_owner hsound hne hi).2).2, ← hseal]; exact hmem⟩
  · obtain ⟨b, hb, hseal, hbst, hpin⟩ := h.safe c hc i hst hi
    have hb' : s.ring[i].owner = .part ∧ b.sealNo ∈ s.ring[i].outbound := by
      rcases hbst with hbst | hbst
      · exact hsafe b hb i hbst hpin
      · exact ⟨(hin b hb (.inr hbst) i hpin).1, (hin b hb (.inr hbst) i hpin).2.1⟩
    rw [(hring i hb'.1).2, ← hseal]
    exact ⟨(hring i hb'.1).1, hb'.2⟩
  · rw [hphase] at hp
    rw [hslot] at hi
    have hne : s.call.phase ≠ .idle := by rw [hp]; decide
    rw [(hring i (callSlot_owner hsound hne hi).2).2] at hn
    exact h.loaded n (hsigning hp i hi n hn)

/-! ## The moves at the hatch (R31 to R35, R121 to R136) -/

/-- With no session and no bag in hand. -/
theorem handoverBags_idle (hphase : t.call.phase = .idle) (hhands : ∀ c ∈ t.bags, ¬InHands c)
    (hsafe : ∀ c ∈ t.bags, ∀ i : Fin 16, c.state = .inSafe → c.pin = some i → t.ring[i].owner = .part ∧ c.sealNo ∈ t.ring[i].outbound) :
    HandoverBags t :=
  ⟨fun c hc h => absurd h (hhands c hc), hsafe, fun h => by rw [hphase] at h; cases h⟩

/-- With no session no bag is in hand. -/
theorem handoverBags_none (hs : HandoverBags s) (hphase : s.call.phase = .idle) (b : Bag) (hb : b ∈ s.bags) : ¬InHands b :=
  fun h => (hs.1 b hb h).1 hphase

/-- The end of a slot's turn: no bag is left in hand, the slot's pins are gone from the safe, and the other slots stay. -/
theorem handoverBags_returned {i : Fin 16} {f : Bag → Bag} (hs : HandoverBags s) (hphase : t.call.phase = .idle)
    (hbags : t.bags = s.bags.map f) (hseal : ∀ b ∈ s.bags, (f b).sealNo = b.sealNo) (hhands : ∀ b ∈ s.bags, ¬InHands (f b))
    (hsafe : ∀ b ∈ s.bags, (f b).state = .inSafe → b.state = .inSafe ∧ (f b).pin ≠ some i ∧ ∀ j, (f b).pin = some j → b.pin = some j)
    (hring : ∀ j, j ≠ i → t.ring[j] = s.ring[j]) : HandoverBags t := by
  refine handoverBags_idle hphase (fun c hc => ?_) fun c hc j hst hj => ?_
  · rw [hbags] at hc
    obtain ⟨b, hb, rfl⟩ := List.mem_map.mp hc
    exact hhands b hb
  · rw [hbags] at hc
    obtain ⟨b, hb, rfl⟩ := List.mem_map.mp hc
    obtain ⟨hbst, hne, hpin⟩ := hsafe b hb hst
    rw [hring j (by rintro rfl; exact hne hj), hseal b hb]
    exact hs.2.1 b hb j hbst (hpin j hj)

/-- The row of a record when a slot returns (R34). -/
def returnedRow (i : Fin 16) (b : Bag) : Bag := if b.pin = some i && (b.state = .inSafe || b.state = .handedOver) then { b with pin := none } else b

/-- The row of a record when a call is aborted (R31, R35). -/
def abortedRow (seals : List Nat) (now : Nat) (b : Bag) : Bag :=
  if seals.contains b.sealNo && b.state = .loaded then b.moved .hatchHeld now
  else if seals.contains b.sealNo && b.state = .inHandling then { b.moved .madeUp now with pin := none } else b

/-- The row of a record when a call is signed (R30). -/
def signedRow (seals : List Nat) (now : Nat) (b : Bag) : Bag :=
  if seals.contains b.sealNo && b.state = .loaded then b.moved .handedOver now else b

theorem returnedRow_keeps (i : Fin 16) (b : Bag) : (returnedRow i b).sealNo = b.sealNo ∧ (returnedRow i b).state = b.state := by
  unfold returnedRow
  split <;> exact ⟨rfl, rfl⟩

theorem returnedRow_safe {i : Fin 16} (h : (returnedRow i b).state = .inSafe) :
    b.state = .inSafe ∧ (returnedRow i b).pin ≠ some i ∧ ∀ j, (returnedRow i b).pin = some j → b.pin = some j := by
  have hst : b.state = .inSafe := (returnedRow_keeps i b).2.symm.trans h
  refine ⟨hst, ?_⟩
  unfold returnedRow
  split
  · exact ⟨nofun, nofun⟩
  · next hne => exact ⟨fun hi => hne (by simp [hi, hst]), fun _ => id⟩

theorem abortedRow_cases (seals : List Nat) (now : Nat) (b : Bag) :
    (b.sealNo ∈ seals ∧ InHands b ∧ (abortedRow seals now b).sealNo = b.sealNo ∧ ¬InHands (abortedRow seals now b) ∧
      (abortedRow seals now b).state ≠ .inSafe) ∨ ¬(b.sealNo ∈ seals ∧ InHands b) ∧ abortedRow seals now b = b := by
  unfold abortedRow
  split
  · next h =>
    obtain ⟨hmem, hst⟩ : b.sealNo ∈ seals ∧ b.state = .loaded := by simpa using h
    exact .inl ⟨hmem, .inl hst, rfl, fun h => h.elim nofun nofun, nofun⟩
  · split
    · next h =>
      obtain ⟨hmem, hst⟩ : b.sealNo ∈ seals ∧ b.state = .inHandling := by simpa using h
      exact .inl ⟨hmem, .inr hst, rfl, fun h => h.elim nofun nofun, nofun⟩
    · next hl hh => exact .inr ⟨fun ⟨hmem, hst⟩ => hst.elim (fun h => hl (by simp [hmem, h])) fun h => hh (by simp [hmem, h]), rfl⟩

theorem signedRow_cases (seals : List Nat) (now : Nat) (b : Bag) :
    (b.sealNo ∈ seals ∧ b.state = .loaded ∧ signedRow seals now b = b.moved .handedOver now) ∨
      ¬(b.sealNo ∈ seals ∧ b.state = .loaded) ∧ signedRow seals now b = b := by
  unfold signedRow
  split
  · next h =>
    obtain ⟨hmem, hst⟩ : b.sealNo ∈ seals ∧ b.state = .loaded := by simpa using h
    exact .inl ⟨hmem, hst, rfl⟩
  · next h => exact .inr ⟨by simpa using h, rfl⟩

theorem returnSlot_ring_other {i j : Fin 16} (r : CallResult) (s : State) (h : j ≠ i) : (returnSlot i r s).ring[j] = s.ring[j] :=
  put_get_other _ _ _ _ h.symm

theorem handoverBags_return (r : CallResult) (hphase : s.call.phase = .idle) (hs : HandoverBags s) :
    HandoverBags (returnSlot s.call.next r s) := by
  refine handoverBags_returned (i := s.call.next) (f := returnedRow s.call.next) hs hphase rfl (fun b _ => (returnedRow_keeps _ b).1)
    (fun b hb h => ?_) (fun b _ h => returnedRow_safe h) fun j hj => returnSlot_ring_other r s hj
  exact handoverBags_none hs hphase b hb ((returnedRow_keeps s.call.next b).2 ▸ h : b.state = _ ∨ b.state = _)

/-- What a record's flag says is nothing to the handover. -/
def flaggedRow (seals : List Nat) (b : Bag) : Bag := if seals.contains b.sealNo then { b with unsigned := true } else b

theorem flaggedRow_keeps (seals : List Nat) (b : Bag) :
    (flaggedRow seals b).sealNo = b.sealNo ∧ (flaggedRow seals b).state = b.state ∧ (flaggedRow seals b).pin = b.pin := by
  unfold flaggedRow
  split <;> exact ⟨rfl, rfl, rfl⟩

theorem handoverBags_abort {i : Fin 16} (r : CallResult) (hslot : s.call.slot = some i) (hs : HandoverBags s) :
    HandoverBags (endSession (returnSlot i r (flagUnsigned s.ring[i].received (abortBags s.ring[i].outbound s)))) := by
  have hmine (b) (hb : b ∈ s.bags) (h : InHands b) : b.sealNo ∈ s.ring[i].outbound := by
    obtain ⟨-, j, hj, -, hmem⟩ := hs.1 b hb h
    rw [hslot] at hj
    cases hj
    exact hmem
  refine handoverBags_returned (i := i) (f := fun b => returnedRow i (flaggedRow s.ring[i].received (abortedRow s.ring[i].outbound s.seconds b))) hs rfl
    ?_ (fun b _ => ?_) (fun b hb h => ?_) (fun b hb h => ?_) fun j hj => ?_
  · have hbags : (endSession (returnSlot i r (flagUnsigned s.ring[i].received (abortBags s.ring[i].outbound s)))).bags =
        ((s.bags.map (abortedRow s.ring[i].outbound s.seconds)).map (flaggedRow s.ring[i].received)).map (returnedRow i) := rfl
    rw [hbags, List.map_map, List.map_map]
    rfl
  · refine (returnedRow_keeps i _).1.trans ((flaggedRow_keeps _ _).1.trans ?_)
    rcases abortedRow_cases s.ring[i].outbound s.seconds b with ⟨-, -, h, -⟩ | ⟨-, h⟩
    · exact h
    · rw [h]
  · have hst := (returnedRow_keeps i (flaggedRow s.ring[i].received (abortedRow s.ring[i].outbound s.seconds b))).2.trans
      (flaggedRow_keeps s.ring[i].received (abortedRow s.ring[i].outbound s.seconds b)).2.1
    have h' : InHands (abortedRow s.ring[i].outbound s.seconds b) := h.imp hst.symm.trans hst.symm.trans
    rcases abortedRow_cases s.ring[i].outbound s.seconds b with ⟨-, -, -, hne, -⟩ | ⟨hne, heq⟩
    · exact hne h'
    · rw [heq] at h'
      exact hne ⟨hmine b hb h', h'⟩
  · obtain ⟨hst, hne, hpin⟩ := returnedRow_safe h
    obtain ⟨-, hfst, hfpin⟩ := flaggedRow_keeps s.ring[i].received (abortedRow s.ring[i].outbound s.seconds b)
    rw [hfst] at hst
    rcases abortedRow_cases s.ring[i].outbound s.seconds b with ⟨-, -, -, -, hout⟩ | ⟨-, heq⟩
    · exact absurd hst hout
    · rw [heq] at hst hfpin
      exact ⟨hst, hne, fun j hj => hfpin.symm.trans (heq ▸ hpin j hj)⟩
  · exact returnSlot_ring_other r _ hj

theorem handoverBags_sign {i : Fin 16} {d : Descriptor} {u : State} (r : CallResult) (hd : SealsDistinct s) (hphase : s.call.phase = .signing)
    (hslot : s.call.slot = some i) (hu : unchangedBut [.events] (signBags s.ring[i].outbound s) u) (hs : HandoverBags s) :
    HandoverBags (endSession (returnSlot i r (setSlot i d u))) := by
  have hmine (b) (hb : b ∈ s.bags) (h : InHands b) : b.sealNo ∈ s.ring[i].outbound ∧ b.state = .loaded := by
    obtain ⟨-, j, hj, -, hmem⟩ := hs.1 b hb h
    rw [hslot] at hj
    cases hj
    obtain ⟨c, hc, hseal, hst⟩ := (bagIn_iff_mem hd).mp (hs.2.2 hphase i hslot b.sealNo hmem)
    rw [sealNo_inj hd hb hc hseal.symm]
    exact ⟨hseal ▸ sealNo_inj hd hb hc hseal.symm ▸ hmem, hst⟩
  refine handoverBags_returned (i := i) (f := returnedRow i ∘ signedRow s.ring[i].outbound s.seconds) hs rfl ?_ (fun b _ => ?_)
    (fun b hb h => ?_) (fun b hb h => ?_) fun j hj => ?_
  · have hsigned : u.bags = s.bags.map (signedRow s.ring[i].outbound s.seconds) := hu .bags (by decide)
    have hbags : (endSession (returnSlot i r (setSlot i d u))).bags = u.bags.map (returnedRow i) := rfl
    rw [hbags, hsigned, List.map_map]
  · refine (returnedRow_keeps i _).1.trans ?_
    rcases signedRow_cases s.ring[i].outbound s.seconds b with ⟨-, -, h⟩ | ⟨-, h⟩ <;> rw [h]
    rfl
  · have h' : InHands (signedRow s.ring[i].outbound s.seconds b) := h.imp (returnedRow_keeps i _).2.symm.trans (returnedRow_keeps i _).2.symm.trans
    rcases signedRow_cases s.ring[i].outbound s.seconds b with ⟨-, -, heq⟩ | ⟨hne, heq⟩ <;> rw [heq] at h'
    · exact h'.elim nofun nofun
    · exact hne (hmine b hb h')
  · obtain ⟨hst, hne, hpin⟩ := returnedRow_safe h
    rcases signedRow_cases s.ring[i].outbound s.seconds b with ⟨-, -, heq⟩ | ⟨-, heq⟩
    · rw [heq] at hst
      cases hst
    · rw [heq] at hst
      exact ⟨hst, hne, fun j hj => heq ▸ hpin j hj⟩
  · refine (returnSlot_ring_other r _ hj).trans ((put_get_other _ _ _ _ hj.symm).trans ?_)
    have hring : u.ring = s.ring := hu .ring (by decide)
    rw [hring]

theorem handoverBags_hand {i : Fin 16} (hd : SealsDistinct s)
    (hpins : pinCheck s [] s.ring[i].outbound = none) (hs : HandoverBags s) : HandoverBags (handSlot i s) := by
  have hd' : SealsDistinct (handSlot i s) := (handSlot_register (A := fun _ => True) trivial hpins).sealsDistinct hd
  have hring (j : Fin 16) : (handSlot i s).ring[j] = if i = j then { s.ring[i] with owner := .part, dayPassed := false } else s.ring[j] :=
    put_get s.ring i j _
  have hout (j : Fin 16) : (handSlot i s).ring[j].outbound = s.ring[j].outbound := by
    rw [hring]
    split
    · next he => subst he; rfl
    · rfl
  have hpart (j : Fin 16) (hj : s.ring[j].owner = .part) : (handSlot i s).ring[j].owner = .part := by
    rw [hring]
    split
    · rfl
    · exact hj
  have hlisted (b) (hb : b ∈ s.bags) (hmem : b.sealNo ∈ s.ring[i].outbound) : b.state = .inSafe := by
    obtain ⟨c, hfind, -, hst, -⟩ := pinCheck_mem hpins b.sealNo hmem
    rw [findBag_of_mem hd hb] at hfind
    cases hfind
    exact hst
  have hbags : (handSlot i s).bags = s.bags.map fun b => if s.ring[i].outbound.contains b.sealNo then { b with pin := some i } else b := rfl
  have hrow (c) (hc : c ∈ (handSlot i s).bags) : ∃ b ∈ s.bags, (b.sealNo ∈ s.ring[i].outbound ∧ c = { b with pin := some i }) ∨
      b.sealNo ∉ s.ring[i].outbound ∧ c = b := by
    rw [hbags] at hc
    obtain ⟨b, hb, rfl⟩ := List.mem_map.mp hc
    by_cases hmem : b.sealNo ∈ s.ring[i].outbound
    · exact ⟨b, hb, .inl ⟨hmem, if_pos (by simpa using hmem)⟩⟩
    · exact ⟨b, hb, .inr ⟨hmem, if_neg (by simpa using hmem)⟩⟩
  obtain ⟨hhands, hsafe, hsigning⟩ := hs
  refine ⟨fun c hc hst => ?_, fun c hc j hst hj => ?_, fun hp j hj n hn => ?_⟩
  · obtain ⟨b, hb, ⟨hmem, rfl⟩ | ⟨-, rfl⟩⟩ := hrow c hc
    · have hb' : b.state = .loaded ∨ b.state = .inHandling := hst
      rw [hlisted b hb hmem] at hb'
      simp at hb'
    · obtain ⟨hne, j, hj, hpin, hmem⟩ := hhands c hb hst
      exact ⟨hne, j, hj, hpin, by rw [hout]; exact hmem⟩
  · obtain ⟨b, hb, ⟨hmem, rfl⟩ | ⟨-, rfl⟩⟩ := hrow c hc
    · cases hj
      exact ⟨by rw [hring, if_pos rfl], by rw [hout]; exact hmem⟩
    · obtain ⟨howner, hmem⟩ := hsafe c hb j hst hj
      exact ⟨hpart j howner, by rw [hout]; exact hmem⟩
  · rw [hout] at hn
    obtain ⟨b, hb, hseal, hst⟩ := (bagIn_iff_mem hd).mp (hsigning hp j hj n hn)
    refine (bagIn_iff_mem hd').mpr ⟨b, ?_, hseal, hst⟩
    rw [hbags]
    refine List.mem_map.mpr ⟨b, hb, if_neg fun hmem => ?_⟩
    rw [hlisted b hb (by simpa using hmem)] at hst
    cases hst

theorem handoverBags_recall {i : Fin 16} (hd : SealsDistinct s) (hactive : s.call.activeOn i = false)
    (hs : HandoverBags s) : HandoverBags (recallSlot i s) := by
  have hd' : SealsDistinct (recallSlot i s) := (recallSlot_register (A := fun _ => True) trivial i).sealsDistinct hd
  have hring (j : Fin 16) (hj : j ≠ i) : (recallSlot i s).ring[j] = s.ring[j] := put_get_other _ _ _ _ hj.symm
  have hactive' (hne : s.call.phase ≠ .idle) (j : Fin 16) (hj : s.call.slot = some j) : j ≠ i := by
    rintro rfl
    simp [Handover.activeOn, hne, hj] at hactive
  have hbags : (recallSlot i s).bags = s.bags.map fun b => if b.pin = some i && b.state = .inSafe then { b with pin := none } else b := rfl
  have hrow (c) (hc : c ∈ (recallSlot i s).bags) : ∃ b ∈ s.bags, (b.pin = some i ∧ b.state = .inSafe ∧ c = { b with pin := none }) ∨
      ¬(b.pin = some i ∧ b.state = .inSafe) ∧ c = b := by
    rw [hbags] at hc
    obtain ⟨b, hb, rfl⟩ := List.mem_map.mp hc
    by_cases h : b.pin = some i ∧ b.state = .inSafe
    · exact ⟨b, hb, .inl ⟨h.1, h.2, if_pos (by simpa using h)⟩⟩
    · exact ⟨b, hb, .inr ⟨h, if_neg (by simpa using h)⟩⟩
  obtain ⟨hhands, hsafe, hsigning⟩ := hs
  refine ⟨fun c hc hst => ?_, fun c hc j hst hj => ?_, fun hp j hj n hn => ?_⟩
  · obtain ⟨b, hb, ⟨-, hin, rfl⟩ | ⟨-, rfl⟩⟩ := hrow c hc
    · have hb' : b.state = .loaded ∨ b.state = .inHandling := hst
      rw [hin] at hb'
      simp at hb'
    · obtain ⟨hne, j, hj, hpin, hmem⟩ := hhands c hb hst
      exact ⟨hne, j, hj, hpin, by rw [hring j (hactive' hne j hj)]; exact hmem⟩
  · obtain ⟨b, hb, ⟨-, -, rfl⟩ | ⟨hout, rfl⟩⟩ := hrow c hc
    · cases hj
    · rw [hring j (by rintro rfl; exact hout ⟨hj, hst⟩)]
      exact hsafe c hb j hst hj
  · have hne : s.call.phase ≠ .idle := by
      intro h
      have hp' : s.call.phase = .signing := hp
      rw [h] at hp'
      cases hp'
    rw [hring j (hactive' hne j hj)] at hn
    obtain ⟨b, hb, hseal, hst⟩ := (bagIn_iff_mem hd).mp (hsigning hp j hj n hn)
    refine (bagIn_iff_mem hd').mpr ⟨b, ?_, hseal, hst⟩
    rw [hbags]
    refine List.mem_map.mpr ⟨b, hb, if_neg fun h => ?_⟩
    simp [hst] at h

theorem handoverBags_withdraw (node : Byte) (hd : SealsDistinct s) (hfind : findBag s n = some b)
    (hmove : moveWithdraw s.call s.seconds b = .ok b') (hs : HandoverBags s) :
    HandoverBags (recordOp .withdraw n node b'.state b'.state.code (leaveSafe n (changeBag n (fun _ => b') s))) := by
  have hrow : RowMove (fun _ => True) s.call b b' := .withdrawn s.seconds trivial hmove
  have hseal : b'.sealNo = n := hrow.keeps.1.trans (findBag_some hfind).2
  have hd' : SealsDistinct (recordOp .withdraw n node b'.state b'.state.code (leaveSafe n (changeBag n (fun _ => b') s))) :=
    (Register.changed hfind hrow).sealsDistinct hd
  obtain ⟨hin, hto⟩ := withdraw_ok hmove
  obtain ⟨hhands, hsafe, hsigning⟩ := hs
  have hcase (c) (hc : c ∈ s.bags.map fun c => if c.sealNo = n then b' else c) : c = b' ∨ c ∈ s.bags := by
    obtain ⟨a, ha, rfl⟩ := List.mem_map.mp hc
    split
    · exact .inl rfl
    · exact .inr ha
  refine ⟨fun c hc hst => ?_, fun c hc j hst hj => ?_, fun hp j hj m hm => ?_⟩
  · rcases hcase c hc with rfl | hc
    · rcases hto with ⟨-, rfl⟩ | ⟨-, -, rfl⟩ | ⟨-, i, hpin, hact, rfl⟩
      · rcases hst with h | h <;> cases h
      · rcases hst with h | h <;> cases h
      · obtain ⟨hne, hslot⟩ : s.call.phase ≠ .idle ∧ s.call.slot = some i := by simpa [Handover.activeOn] using hact
        exact ⟨hne, i, hslot, hpin, (hsafe b (findBag_some hfind).1 i hin hpin).2⟩
    · exact hhands c hc hst
  · rcases hcase c hc with rfl | hc
    · rcases hto with ⟨-, rfl⟩ | ⟨-, -, rfl⟩ | ⟨-, i, -, -, rfl⟩ <;> cases hst
    · exact hsafe c hc j hst hj
  · have hl := hsigning hp j hj m hm
    refine (bagIn_changed hd hd' hfind hseal rfl m .loaded).mpr ?_
    split
    · next he =>
      obtain ⟨c, hc, hst⟩ := bagIn_iff.mp hl
      rw [he, hfind] at hc
      cases hc
      rw [hin] at hst
      cases hst
    · exact hl

theorem handoverBags_announce (hphase : s.call.phase = .idle) (hs : HandoverBags s) : HandoverBags (acceptCourier s) := by
  have hbags : (acceptCourier s).bags = s.bags := acceptCourier_leaves s .bags (by decide)
  have hring : (acceptCourier s).ring = s.ring := acceptCourier_leaves s .ring (by decide)
  refine ⟨fun c hc h => ?_, fun c hc j hst hj => ?_, fun hp j hj n hn => ?_⟩
  · rw [hbags] at hc
    exact absurd h (handoverBags_none hs hphase c hc)
  · rw [hbags] at hc
    rw [hring]
    exact hs.2.1 c hc j hst hj
  · rw [acceptCourier_phase] at hp hj
    rw [hring] at hn
    cases hj
    have hempty : s.head.outbound = [] := by
      by_contra hne
      have hp' : (if s.head.outbound = [] then Phase.signing else Phase.exchange) = .signing := hp
      rw [if_neg hne] at hp'
      cases hp'
    have hn' : n ∈ s.head.outbound := hn
    rw [hempty] at hn'
    cases hn'

theorem handoverBags_load {i : Fin 16} (hd : SealsDistinct s) (hactive : s.activeSlot = some i)
    (hfind : findBag s n = some b) (hmove : moveLoad s.seconds b = .ok b') (hs : HandoverBags s) :
    HandoverBags (afterLoad i (changeBag n (fun _ => b') s)) := by
  obtain ⟨hin, rfl⟩ := load_ok hmove
  have hrow : RowMove (fun _ => True) s.call b (b.moved .loaded s.seconds) := .loaded s.seconds trivial hin
  have hphase : s.call.phase ≠ .idle := fun h => by simp [State.activeSlot, h] at hactive
  have hslot : s.call.slot = some i := by rwa [State.activeSlot, if_neg hphase] at hactive
  have hd' : SealsDistinct (changeBag n (fun _ => b.moved .loaded s.seconds) s) := (Register.changed hfind hrow).sealsDistinct hd
  have hloaded (m : Nat) (hm : bagIn s m .loaded = true) : bagIn (changeBag n (fun _ => b.moved .loaded s.seconds) s) m .loaded = true := by
    refine (bagIn_changed (b' := b.moved .loaded s.seconds) hd hd' hfind (findBag_some hfind).2 rfl m .loaded).mpr ?_
    split
    · rfl
    · exact hm
  have hcase (c) (hc : c ∈ (changeBag n (fun _ => b.moved .loaded s.seconds) s).bags) : c = b.moved .loaded s.seconds ∨ c ∈ s.bags := by
    obtain ⟨a, ha, rfl⟩ := List.mem_map.mp hc
    split
    · exact .inl rfl
    · exact .inr ha
  obtain ⟨hhands, hsafe, hsigning⟩ := hs
  have hhands' (c) (hc : c ∈ (changeBag n (fun _ => b.moved .loaded s.seconds) s).bags) (hst : InHands c) :
      ∃ j, s.call.slot = some j ∧ c.pin = some j ∧ c.sealNo ∈ s.ring[j].outbound := by
    rcases hcase c hc with rfl | hc
    · exact (hhands b (findBag_some hfind).1 (.inr hin)).2
    · exact (hhands c hc hst).2
  have hsafe' (c) (hc : c ∈ (changeBag n (fun _ => b.moved .loaded s.seconds) s).bags) (j : Fin 16) (hst : c.state = .inSafe)
      (hj : c.pin = some j) : s.ring[j].owner = .part ∧ c.sealNo ∈ s.ring[j].outbound := by
    rcases hcase c hc with rfl | hc
    · cases hst
    · exact hsafe c hc j hst hj
  unfold afterLoad
  split
  · next hall =>
    refine ⟨fun c hc h => ⟨nofun, ?_⟩, hsafe', fun _ j hj m hm => ?_⟩
    · obtain ⟨j, hj, h⟩ := hhands' c hc h
      exact ⟨j, by rw [← hj, hslot]; rfl, h⟩
    · cases hj
      have hnone := List.filter_eq_nil_iff.mp (List.length_eq_zero_iff.mp hall) m hm
      exact (by simpa using hnone : bagIn (changeBag n (fun _ => b.moved .loaded s.seconds) s) m .loaded = true)
  · exact ⟨fun c hc h => ⟨hphase, hhands' c hc h⟩, hsafe', fun hp j hj m hm => hloaded m (hsigning hp j hj m hm)⟩

end

end Sys2Proof.Machine.Effects

/-! PROOF. The SEND that waits at the head of the receive buffer; and with the sessions, the pins and the bags of a handover, what every step keeps. -/

namespace Sys2Proof.Machine.Effects

open Sys2Proof Sys2Proof.Machine Sys2Proof.Machine.Takings Sys2Proof.Machine.TallyCount

section
variable {A : Passage → Prop} {s t : State}

/-! ## The bags of the handover (R124, R128) -/

theorem Shift.handoverBags (h : Shift s t) (hd : SealsDistinct s) (hp : PinsSound s) (hsound : SessionSound s) (hs : HandoverBags s) :
    HandoverBags t := by
  have hjobs : Calm .jobs := .inr (.inl rfl)
  have henter : Calm .entering := .inl rfl
  have hcount : Calm .counting := .inr (.inr rfl)
  have hcalm {u : State} (hreg : Register Calm s u.bags) (hcall : u.call = s.call) (hring : u.ring = s.ring) : HandoverBags u :=
    (hreg.calm hd hp).handoverBags (by rw [hcall]) (by rw [hcall]) (.of_eq hring) hsound hs
  have hkept {ex : List Part} {u : State} (h : unchangedBut ex s u) (hbags : .bags ∉ ex) (hcall : .call ∉ ex) (hring : .ring ∉ ex) :
      HandoverBags u := hcalm (.kept (h .bags hbags)) (h .call hcall) (h .ring hring)
  cases h with
  | plain h => exact hcalm (h.register.mono fun x hx => by subst hx; exact hjobs) h.call h.ring
  | @enter op way node n b b' hfind hmove =>
    have hrow := (entered_row (A := Calm) (call := s.call) henter hmove).1
    have hseal : b'.sealNo = n := hrow.keeps.1.trans (findBag_some hfind).2
    subst hseal
    have hleaves := acceptEntry_leaves op way b' node s
    exact hcalm (.changed hfind hrow) (hleaves .call (by decide)) (hleaves .ring (by decide))
  | withdraw node hfind hmove => exact handoverBags_withdraw node hd hfind hmove hs
  | @openCount x v n b b' _ hfind hmove _ _ =>
    have hleaves := opened_leaves x v n b' s
    exact hcalm (.changed hfind (opened_row hcount hmove)) (hleaves .call (by decide)) (hleaves .ring (by decide))
  | resume x v _ _ _ =>
    have hleaves := askedSession_leaves x v s.sessions[x].bag (moveOpen x s.seconds) s
    exact hcalm (.asked (fun _ _ => opened_row hcount) _) (hleaves .call (by decide)) (hleaves .ring (by decide))
  | session x v _ _ => exact hkept (setSession_leaves x v s) (by decide) (by decide) (by decide)
  | suspend x v _ _ _ =>
    have hleaves := askedSession_leaves x v s.sessions[x].bag (moveSuspend s.seconds) s
    exact hcalm (.asked (fun _ _ => suspended_row hcount) _) (hleaves .call (by decide)) (hleaves .ring (by decide))
  | abort x _ =>
    have hleaves := askedSession_leaves x Session.reset s.sessions[x].bag (moveAbort x s.seconds) s
    exact hcalm (.asked (fun _ _ => aborted_row hcount) _) (hleaves .call (by decide)) (hleaves .ring (by decide))
  | @count x u b b' k sus variance cls _ hfind hmove hu =>
    have hleaves := unchangedBut_trans (unchangedBut_trans hu (changeBag_leaves s.sessions[x].bag (fun _ => b') u)) (setSession_leaves x Session.reset _)
    refine hcalm ?_ (hleaves .call (by decide)) (hleaves .ring (by decide))
    have hbags : u.bags = s.bags := hu .bags (by decide)
    show Register Calm s (u.bags.map _)
    rw [hbags]
    exact .changed hfind (closed_row hcount hmove)
  | slot i d ho hout =>
    refine ((Register.kept (A := Calm) (s := s) (t := setSlot i d s) rfl).calm hd hp).handoverBags rfl rfl (slotsKept_put rfl fun hi => ?_) hsound hs
    refine ⟨ho.trans hi, ?_⟩
    rcases hout with hoffice | hout
    · rw [hi] at hoffice
      cases hoffice
    · exact hout
  | passDay =>
    refine ((Register.kept (A := Calm) (s := s) (t := Machine.passDay s) rfl).calm hd hp).handoverBags rfl rfl (fun i hi => ?_) hsound hs
    rw [passDay_ring, if_pos hi]
    exact ⟨hi, rfl⟩
  | hand i _ hpins => exact handoverBags_hand hd hpins hs
  | recallSlot i _ ha => exact handoverBags_recall hd ha hs
  | returnHead r hphase _ => exact handoverBags_return r (phase_idle_of hsound hphase) hs
  | refused k =>
    exact ((Register.kept (A := Calm) (s := s) (t := s.setCall { s.call with refused := k }) rfl).calm hd hp).handoverBags rfl rfl
      (.of_eq rfl) hsound hs
  | announce hphase _ => exact handoverBags_announce (phase_idle_of hsound hphase) hs
  | load i ha _ hfind hmove => exact handoverBags_load hd ha hfind hmove hs
  | abortCall i r _ hslot => exact handoverBags_abort r hslot hs
  | sign i d r hphase hslot hu => exact handoverBags_sign r hd hphase hslot hu hs

/-! ## The SEND that waits (R178) -/

theorem waitingSound_congr (h : t.trunk = s.trunk) (hs : WaitingSound s) : WaitingSound t := by
  unfold WaitingSound
  rw [h]
  exact hs

theorem waitingSound_of_not (h : t.trunk.sendWaits = false) : WaitingSound t := fun hw => by
  rw [h] at hw
  cases hw

/-- A run away from the trunk leaves it. -/
theorem Moves.trunk_kept (h : Moves A s t) (hA : ¬A .trunk) : t.trunk = s.trunk :=
  Moves.induct (R := fun s t => t.trunk = s.trunk) (fun _ => rfl) (fun h k => k.trans h) (fun h => h.touched.trunk.resolve_left hA) h

/-- What reception does to the buffer: entries behind those that wait (R189). -/
structure Buffered (s t : State) : Prop where
  waits : t.trunk.sendWaits = s.trunk.sendWaits
  reply : t.trunk.reply = s.trunk.reply
  sending : t.trunk.sending = s.trunk.sending
  buffer : ∃ more, t.trunk.buffer = s.trunk.buffer ++ more

theorem Buffered.refl (s : State) : Buffered s s := ⟨rfl, rfl, rfl, [], by simp⟩

theorem Buffered.trans {u : State} (h : Buffered s t) (k : Buffered t u) : Buffered s u := by
  obtain ⟨more, hmore⟩ := h.buffer
  obtain ⟨more', hmore'⟩ := k.buffer
  exact ⟨k.waits.trans h.waits, k.reply.trans h.reply, k.sending.trans h.sending, more ++ more', by rw [hmore', hmore, List.append_assoc]⟩

theorem bufferEntry_buffered (e : TrunkEntry) (s : State) : Buffered s (bufferEntry e s) := by
  rcases bufferEntry_spec e s with ⟨-, h⟩ | ⟨-, h⟩ <;> rw [h]
  · exact ⟨rfl, rfl, rfl, [e], rfl⟩
  · exact ⟨rfl, rfl, rfl, [], (List.append_nil _).symm⟩

theorem trunkChar_buffered (s : State) (c : Byte) : Buffered s (trunkChar s c) := by
  have hrx (rx : TrunkRx) : Buffered s (s.setTrunk { s.trunk with rx := rx }) := ⟨rfl, rfl, rfl, [], (List.append_nil _).symm⟩
  have hframing : Buffered s (countTrunkFraming (huntTrunk s)) := ⟨rfl, rfl, rfl, [], (List.append_nil _).symm⟩
  unfold trunkChar
  split
  · split
    · exact hrx _
    · exact .refl s
  · unfold collectTrunk
    split
    · split; · exact hframing
      split; · exact hrx _
      unfold closeTrunkFrame
      split; · exact ⟨rfl, rfl, rfl, [], (List.append_nil _).symm⟩
      split
      · exact (hrx .hunting).trans (bufferEntry_buffered _ _)
      · exact hframing
    · exact hrx _

theorem receiveTrunk_buffered (chars : List Byte) (s : State) : Buffered s (receiveTrunk chars s) := by
  unfold receiveTrunk
  induction chars generalizing s with
  | nil => exact .refl s
  | cons c chars ih => exact (trunkChar_buffered s c).trans (ih _)

theorem startTrunk_trunk (s : State) : (startTrunk s).trunk.sendWaits = s.trunk.sendWaits ∧ (startTrunk s).trunk.buffer = s.trunk.buffer ∧
    ((startTrunk s).trunk.reply = s.trunk.reply ∨ (startTrunk s).trunk.reply = none) := by
  unfold startTrunk
  split
  · exact ⟨rfl, rfl, .inr rfl⟩
  · split
    · exact ⟨rfl, rfl, .inl rfl⟩
    · split <;> exact ⟨rfl, rfl, .inl rfl⟩

theorem waitingSound_startTrunk (hs : WaitingSound s) : WaitingSound (startTrunk s) := by
  obtain ⟨hwaits, hbuffer, hreply⟩ := startTrunk_trunk s
  unfold WaitingSound
  rw [hwaits, hbuffer]
  intro hw
  obtain ⟨hnone, hhead⟩ := hs hw
  refine ⟨?_, hhead⟩
  rcases hreply with h | h
  · exact h.trans hnone
  · exact h

theorem waitingSound_placeSend (tag : Word16) (p : Port) (f : LineFrame) (s : State) : WaitingSound (placeSend tag p f s) :=
  waitingSound_of_not (placeSend_spec tag p f s).2.2.1

theorem waitingSound_answered (tag : Word16) (code : Byte) (r : Code) (d : Option Word32) (data : List Byte)
    (h : s.trunk.sendWaits = false) : WaitingSound (answerRequest tag code r d data s) := by
  obtain ⟨x, n, -, hanswer⟩ := answerRequest_spec tag code r d data s
  rw [hanswer]
  exact waitingSound_of_not h

theorem waitingSound_trunk {c : Instr} {f : State → State} (h : TrunkWork s c f) (hs : WaitingSound s) : WaitingSound (f s) := by
  cases h with
  | received chars =>
    obtain ⟨hwaits, hreply, -, more, hbuffer⟩ := receiveTrunk_buffered chars s
    unfold WaitingSound
    rw [hwaits, hreply, hbuffer]
    intro hw
    obtain ⟨hnone, tag, port, pb, kind, dest, body, rest, hhead⟩ := hs hw
    exact ⟨hnone, tag, port, pb, kind, dest, body, rest ++ more, by rw [hhead, List.cons_append]⟩
  | holds asserted =>
    have hhold : WaitingSound (s.setTrunk { s.trunk with holdIn := asserted }) := hs
    unfold holdInput
    dsimp only
    split
    · exact waitingSound_startTrunk hhold
    · exact hhold
  | started => exact waitingSound_startTrunk hs
  | ended x =>
    have hended : WaitingSound (s.setTrunk { s.trunk with sending := none }) := hs
    unfold endTrunk
    dsimp only
    split
    · exact waitingSound_congr rfl hended
    · exact hended
  | @sends tag port pb kind dest body rest hreply hwaits hbuffer =>
    unfold sendRule
    split; · exact waitingSound_answered _ _ _ _ _ rfl
    split; · exact waitingSound_answered _ _ _ _ _ rfl
    split
    · exact waitingSound_placeSend _ _ _ s
    · exact fun _ => ⟨hreply, tag, port, pb, kind, dest, body, rest, hbuffer⟩
  | unknown => exact waitingSound_answered _ _ _ _ _ rfl

/-- A passage other than the trunk's. -/
def offTrunk : Passage → Prop := fun x => x ≠ .trunk

theorem opens_offTrunk (f : Taken) (s : State) : Opens offTrunk f s :=
  ⟨nofun, nofun, fun _ => nofun, fun _ => nofun, fun _ _ _ _ _ => nofun⟩

theorem run_trunk {c : Instr} {code : Byte} {variant : State → List Byte → Bool} {run : List Byte → State → State × Result}
    (h : Request c code variant run) (fields : List Byte) (s : State) : (run fields s).1.trunk = s.trunk :=
  (run_moves (A := offTrunk) h (fun _ => nofun) fields s).trunk_kept fun h => h rfl

theorem restart_trunk (fields : List Byte) (s : State) : (runRestart fields s).1.trunk = s.trunk := by
  rw [runRestart_eq]
  exact ((takeMarkedWindows_moves (A := offTrunk) nofun opens_offTrunk).trans (restartRest_moves nofun nofun _)).trunk_kept fun h => h rfl

theorem waitingSound_taking {c : Instr} {f : State → State} (h : Taking s c f) (hs : WaitingSound s) : WaitingSound (f s) := by
  have hoff {u : State} (hmoves : Moves offTrunk s u) : WaitingSound u := waitingSound_congr (hmoves.trunk_kept fun h => h rfl) hs
  cases h with
  | line h => exact hoff (lineWork_moves nofun h fun _ _ _ => opens_offTrunk _ s)
  | frame p w _ => exact hoff ((setRx_moves nofun p .idle s).trans (takeFrame_moves nofun (opens_offTrunk _ _)))
  | placed _ => exact hoff (placeSafeCommand_moves s)
  | expiry h => exact hoff (expiry_moves nofun h)
  | trunk h => exact waitingSound_trunk h hs
  | request tag fields rest h _ _ _ =>
    exact waitingSound_answered _ _ _ _ _ (by rw [run_trunk h]; rfl)

theorem waitingSound_placeWaiting (hs : WaitingSound s) : WaitingSound (placeWaiting s) := by
  rcases placeWaiting_spec s with ⟨-, h⟩ | ⟨_, _, _, _, _, _, _, -, -, -, h⟩ <;> rw [h]
  · exact hs
  · exact waitingSound_placeSend _ _ _ s

theorem waitingSound_sendIfFreed (u : State) (hs : WaitingSound s) : WaitingSound (settleEvents (sendIfFreed u s)) := by
  refine waitingSound_congr (settleEvents_leaves _ .trunk (by decide)) ?_
  unfold sendIfFreed
  split
  · exact hs
  · exact waitingSound_placeWaiting hs

theorem waitingSound_exec {c : Instr} (h : exec c s = .next t) (hs : WaitingSound s) : WaitingSound t := by
  have htests (u v : State) (hv : WaitingSound v) : WaitingSound (testReports u v) :=
    waitingSound_congr ((testReports_moves (A := offTrunk) u v).trunk_kept fun h => h rfl) hv
  rcases exec_cases h with rfl | ⟨f, htaking, rfl⟩ | ⟨-, tag, fields, rest, -, -, -, rfl⟩ | ⟨-, rfl⟩
  · exact hs
  · refine waitingSound_sendIfFreed s (waitingSound_congr ?_ (htests s _ (waitingSound_taking htaking hs)))
    have hplaced : Moves offTrunk (testReports s (f s)) (placeIfFreed s (testReports s (f s))) :=
      .ite (fun _ => .refl _ _) fun _ => placeSafeCommand_moves _
    exact hplaced.trunk_kept fun h => h rfl
  · refine waitingSound_sendIfFreed s (htests s _ (waitingSound_answered _ _ _ _ _ ?_))
    rw [restart_trunk]
    rfl
  · exact waitingSound_of_not rfl

/-! ## Every step -/

theorem reset_pinsSound : PinsSound State.reset := fun _ h => nomatch h

theorem reset_sessionSound : SessionSound State.reset := sessionSound_idle rfl rfl rfl

theorem reset_handoverBags : HandoverBags State.reset := ⟨fun _ h => (nomatch h), fun _ h => (nomatch h), nofun⟩

theorem reset_lockTimed : LockTimed State.reset := by
  unfold LockTimed
  decide

theorem reset_idleTimed : IdleTimed State.reset := by
  unfold IdleTimed
  decide

theorem reset_countsMatch : CountsMatch State.reset := by
  have hidle : ∀ x : Fin 4, State.reset.sessions[x].state = .idle := by decide
  exact ⟨fun x h => absurd (hidle x) h, fun _ h => nomatch h⟩

theorem reset_waitingSound : WaitingSound State.reset := nofun

end

/-- An invariant of states with distinct seals and sound pins, kept by every move, is kept by a step. -/
theorem step_keeps_pinned {P : State → Prop} (hpending : ∀ s x, P s → P (s.setPending x)) (hsecond : ∀ s n, P s → P (s.setSeconds n))
    (hdraws : ∀ s n, P s → P (s.setDraws n)) (hreset : P State.reset)
    (hmove : ∀ {s t}, Move anyPassage s t → SealsDistinct s → PinsSound s → P s → P t) {s t : State} (hd : SealsDistinct s)
    (hp : PinsSound s) (h : step s = .next t) (hs : P s) : P t :=
  (step_keeps_distinct (P := fun s => PinsSound s ∧ P s) (fun s x h => ⟨h.1, hpending s x h.2⟩) (fun s n h => ⟨h.1, hsecond s n h.2⟩)
    (fun s n h => ⟨h.1, hdraws s n h.2⟩) ⟨reset_pinsSound, hreset⟩
    (fun hm hd hs => ⟨hm.pinsSound hd hs.1, hmove hm hd hs.1 hs.2⟩) hd h ⟨hp, hs⟩).2

/-- Settles O9: each move keeps the session, the timers, the pins and the counts sound, and of the trunk each taking keeps the SEND that waits. -/
theorem stepKeepsSessions : Obligations.StepKeepsSessions := by
  intro s t h
  refine ⟨?_, ?_, ?_, ?_, fun hd hp => ⟨?_, ?_, fun hsound hs => ?_⟩⟩
  · exact step_keeps_of_moves (fun _ _ h => h) (fun _ _ h => h) (fun _ _ h => h) reset_sessionSound (fun h => h.shift.sessionSound) h
  · exact step_keeps_of_moves (fun _ _ h => h) (fun _ _ h => h) (fun _ _ h => h) reset_lockTimed (fun h => h.touched.timed) h
  · exact step_keeps_of_moves (fun _ _ h => h) (fun _ _ h => h) (fun _ _ h => h) reset_idleTimed (fun h => h.touched.idle) h
  · exact step_keeps (fun _ _ h => h) (fun _ _ h => h) (fun h => waitingSound_exec h) h
  · exact step_keeps_distinct (fun _ _ h => h) (fun _ _ h => h) (fun _ _ h => h) reset_pinsSound (fun hm => hm.pinsSound) hd h hp
  · exact step_keeps_pinned (fun _ _ h => h) (fun _ _ h => h) (fun _ _ h => h) reset_countsMatch (fun hm => hm.shift.countsMatch) hd hp h
  · exact (step_keeps_pinned (P := fun s => SessionSound s ∧ HandoverBags s) (fun _ _ h => h) (fun _ _ h => h) (fun _ _ h => h)
      ⟨reset_sessionSound, reset_handoverBags⟩
      (fun hm hd hp hs => ⟨hm.shift.sessionSound hs.1, hm.shift.handoverBags hd hp hs.1 hs.2⟩) hd hp h ⟨hsound, hs⟩).2

end Sys2Proof.Machine.Effects

/-! PROOF. The RESERVED places of the outgoing and the uplink queues, each with the frame in a window for which it was reserved. -/

namespace Sys2Proof.Machine.Effects

open Sys2Proof Sys2Proof.Machine Sys2Proof.Machine.Takings Sys2Proof.Machine.TallyCount

section
variable {A : Passage → Prop} {s t u : State} {p q : Port} {a b : Nat}

/-! ## What a window holds (R172) -/

/-- The outgoing places that a receiver's window holds. -/
def outHeld (rx : Receiver) : Nat :=
  match holdsPlaces rx with
  | some w => if opaqueKind w.frame.kind then 0 else 1
  | none => 0

/-- The uplink places that a receiver's window holds. -/
def uplinkHeld (rx : Receiver) : Nat := (holdsPlaces rx).toList.length

/-- The reservations match but for `a` outgoing and `b` uplink places that port `p` has still to fill or to give back. -/
structure Owing (p : Port) (a b : Nat) (s : State) : Prop where
  here : (s.port p).out.reserved = outHeld (s.port p).rx + a
  there : ∀ q ≠ p, (s.port q).out.reserved = outHeld (s.port q).rx ∧ ((s.port q).tx.phase ≠ .idle → (s.port q).rx = .idle)
  uplink : s.uplink.reserved = uplinkHeld s.floor.rx + uplinkHeld s.room.rx + b

theorem reservationsMatch_iff (p : Port) :
    ReservationsMatch s ↔ Owing p 0 0 s ∧ ((s.port p).tx.phase ≠ .idle → (s.port p).rx = .idle) := by
  constructor
  · rintro ⟨hout, huplink, hphase⟩
    exact ⟨⟨hout p, fun q _ => ⟨hout q, hphase q⟩, huplink⟩, hphase p⟩
  · rintro ⟨⟨hhere, hthere, huplink⟩, hphase⟩
    refine ⟨fun q => ?_, huplink, fun q => ?_⟩
    · by_cases hq : q = p
      · exact hq ▸ hhere
      · exact (hthere q hq).1
    · by_cases hq : q = p
      · exact hq ▸ hphase
      · exact (hthere q hq).2

theorem uplinkHeld_split (p : Port) (s : State) :
    ∃ q, q ≠ p ∧ uplinkHeld s.floor.rx + uplinkHeld s.room.rx = uplinkHeld (s.port p).rx + uplinkHeld (s.port q).rx := by
  cases p
  · exact ⟨.room, by decide, rfl⟩
  · exact ⟨.floor, by decide, Nat.add_comm _ _⟩

theorem port_other {p q r : Port} (hq : q ≠ p) (hr : r ≠ p) : q = r := by
  cases p <;> cases q <;> cases r <;> first | rfl | exact absurd rfl hq | exact absurd rfl hr

/-- A change at the port itself. -/
theorem owing_setPort {x : LinePort} {a' b' : Nat} (hout : x.out.reserved + outHeld (s.port p).rx + a = (s.port p).out.reserved + outHeld x.rx + a')
    (huplink : uplinkHeld x.rx + b' = uplinkHeld (s.port p).rx + b) (h : Owing p a b s) : Owing p a' b' (s.setPort p x) := by
  obtain ⟨hhere, hthere, hup⟩ := h
  have hrest : (s.setPort p x).uplink = s.uplink := by cases p <;> rfl
  obtain ⟨q, hq, hsplit⟩ := uplinkHeld_split p s
  obtain ⟨r, hr, hsplit'⟩ := uplinkHeld_split p (s.setPort p x)
  have hqr := port_other hr hq
  subst hqr
  have hself : (s.setPort p x).port p = x := by rw [setPort_port, if_pos rfl]
  have hother (q : Port) (hq : q ≠ p) : (s.setPort p x).port q = s.port q := by rw [setPort_port, if_neg (Ne.symm hq)]
  refine ⟨?_, fun q hq => ?_, ?_⟩
  · rw [hself]
    omega
  · rw [hother q hq]
    exact hthere q hq
  · rw [hsplit', hrest, hup, hsplit, hself, hother _ hq]
    omega

/-- Frames placed and events raised leave what is reserved. -/
theorem Owing.grown (h : Owing p a b s) (hg : LinesGrow s t) : Owing p a b t := by
  have hsame (q : Port) : (t.port q).out.reserved = (s.port q).out.reserved ∧ (t.port q).rx = (s.port q).rx ∧ (t.port q).tx = (s.port q).tx := by
    obtain ⟨more, down, hq⟩ := hg.1 q
    rw [hq]
    exact ⟨rfl, rfl, rfl⟩
  refine ⟨?_, fun q hq => ?_, ?_⟩
  · rw [(hsame p).1, (hsame p).2.1]
    exact h.here
  · rw [(hsame q).1, (hsame q).2.1, (hsame q).2.2]
    exact h.there q hq
  · have hf : t.floor.rx = s.floor.rx := (hsame .floor).2.1
    have hr : t.room.rx = s.room.rx := (hsame .room).2.1
    rw [hg.2, hf, hr]
    exact h.uplink

theorem Owing.setUplink {x : Uplink} {b' : Nat} (hx : x.reserved + b = s.uplink.reserved + b') (h : Owing p a b s) :
    Owing p a b' (s.setUplink x) := by
  obtain ⟨hhere, hthere, hup⟩ := h
  refine ⟨?_, fun q hq => ?_, ?_⟩
  · cases p <;> exact hhere
  · cases q <;> exact hthere _ hq
  · show x.reserved = uplinkHeld s.floor.rx + uplinkHeld s.room.rx + b'
    omega

/-- A run away from the lines leaves the ports but for the frames placed. -/
theorem Moves.lines_grow (h : Moves A s t) (hA : ¬A .ports) : LinesGrow s t :=
  Moves.induct .refl LinesGrow.trans (fun h => h.touched.grows.resolve_left hA) h

/-! ## The changes of a port -/

/-- Another receiver at the port. -/
theorem Owing.setRx {rx : Receiver} {a' b' : Nat} (hout : outHeld (s.port p).rx + a = outHeld rx + a')
    (huplink : uplinkHeld rx + b' = uplinkHeld (s.port p).rx + b) (h : Owing p a b s) : Owing p a' b' (s.setRx p rx) :=
  owing_setPort (by dsimp only; omega) huplink h

theorem Owing.setTx {tx : Transmitter} (h : Owing p a b s) : Owing p a b (s.setTx p tx) := owing_setPort rfl rfl h

theorem Owing.setLineIdle {x : Bool} (h : Owing p a b s) : Owing p a b (s.setLineIdle p x) := owing_setPort rfl rfl h

theorem Owing.countError (k : LineCounter) (h : Owing p a b s) : Owing p a b (countError p k s) :=
  Owing.grown (owing_setPort (x := { s.port p with errors := (s.port p).errors.bump k }) rfl rfl h)
    (.of_leaves (raisePair_leaves .linkError (portCode p) k.code _))

theorem Owing.txIdle (c : Option Current) (h : Owing p a b s) : Owing p a b (txIdle p c s) := h.setTx

theorem Owing.freePlace (src : TxSource) (h : Owing p a b s) : Owing p a b (freePlace p src s) := by
  cases src <;> exact owing_setPort rfl rfl h

theorem Owing.deliverCurrent (h : Owing p a b s) : Owing p a b (deliverCurrent p s) := by
  unfold Machine.deliverCurrent
  split
  · exact (h.txIdle none).freePlace _
  · exact h.txIdle none

theorem Owing.failAttempt (h : Owing p a b s) : Owing p a b (failAttempt p s) := by
  unfold Machine.failAttempt
  split
  · split
    · exact h.txIdle _
    · next c _ _ =>
      refine (((h.txIdle none).freePlace c.source).countError .undelivered).grown ?_
      exact (tellOwner_moves (A := fun _ => False) c _).lines_grow id
  · exact h.txIdle none

theorem Owing.closeWindow (h : Owing p a b s) : Owing p a b (closeWindow p s) := by
  unfold Machine.closeWindow
  split
  · split
    · exact h.deliverCurrent
    · exact h.failAttempt
  · exact h.txIdle none

/-- The places of a window that is given up are released (R172). -/
theorem Owing.release (f : LineFrame) (h : Owing p (if opaqueKind f.kind then 0 else 1) 1 s) : Owing p 0 0 (releaseReservations p f s) := by
  have huplink {a : Nat} (h : Owing p a 1 s) : Owing p a 0 (s.setUplink { s.uplink with reserved := s.uplink.reserved - 1 }) :=
    h.setUplink (by have := h.uplink; dsimp only; omega)
  unfold releaseReservations
  dsimp only
  split
  · next hopaque =>
    rw [if_pos hopaque] at h
    exact huplink h
  · next hopaque =>
    rw [if_neg hopaque] at h
    have hfreed := huplink h
    generalize s.setUplink { s.uplink with reserved := s.uplink.reserved - 1 } = u at hfreed
    refine owing_setPort ?_ rfl hfreed
    have hhere := hfreed.here
    simp only [OutQueue.release]
    omega

/-! ## The frame that is taken (R175, R176) -/

theorem fillEnvelope_owing (f : Taken) (c : Code) (h : Owing p a (b + 1) s) : Owing p a b (fillEnvelope f c s) := by
  refine h.setUplink ?_
  have hup := h.uplink
  rcases Uplink.fill_spec s.uplink { port := f.port, second := s.seconds, stamp := c, marks := f.marks, frame := f.frame } with
    ⟨hpos, hfill⟩ | ⟨hnone, -⟩
  · rw [hfill]
    dsimp only
    omega
  · omega

theorem fillAnswer_owing (f : Taken) (x : Answer) (hf : f.port = p) (h : Owing p (a + 1) b s) : Owing p a b (fillAnswer f x s) := by
  subst hf
  obtain ⟨n, d, heq, -⟩ := fillAnswer_spec f x s
  rw [heq]
  have hport : (s.setDraws n).port f.port = s.port f.port := by cases f.port <;> rfl
  have hdraws : Owing f.port (a + 1) b (s.setDraws n) := h.grown (.of_leaves (setDraws_leaves n s))
  refine owing_setPort (a := a + 1) ?_ rfl hdraws
  have hhere := hdraws.here
  rw [hport] at hhere ⊢
  rcases ((s.port f.port).out.fill_spec (x.frameOf f d)).2 with ⟨hpos, hreserved, -⟩ | ⟨hnone, -⟩
  · rw [hreserved]
    dsimp only
    omega
  · omega

theorem decideFrame_grow (f : Taken) (s : State) : LinesGrow s (decideFrame f s).1 :=
  .of_ports (decideFrame_grows f s) (by rw [decideFrame_leaves f s .uplink (by decide)])

/-- A marked frame that is taken fills the places that its window held. -/
theorem takeFrame_owing {f : Taken} (hf : f.port = p) (h : Owing p (if opaqueKind f.frame.kind then 0 else 1) 1 s) :
    Owing p 0 0 (takeFrame f s) := by
  unfold takeFrame
  split
  · next hopaque =>
    rw [if_pos hopaque] at h
    exact fillEnvelope_owing f _ h
  · next hopaque =>
    rw [if_neg hopaque] at h
    exact fillEnvelope_owing f _ (fillAnswer_owing f _ hf (h.grown (decideFrame_grow f s)))

/-- A window that ends owes the places that it held, and fills them or gives them back. -/
theorem Owing.endWindow {w : Window} (h : Owing p (outHeld (.markWindow w)) (uplinkHeld (.markWindow w)) s) : Owing p 0 0 (endWindow p w s) := by
  unfold Machine.endWindow
  cases hanswer : w.answer with
  | marked =>
    rw [outHeld, uplinkHeld, holdsPlaces, if_neg (by rw [hanswer]; decide)] at h
    exact takeFrame_owing (f := w.taken p) rfl h
  | sending =>
    rw [outHeld, uplinkHeld, holdsPlaces, if_neg (by rw [hanswer]; decide)] at h
    exact h.release w.frame
  | none =>
    rw [outHeld, uplinkHeld, holdsPlaces, if_pos hanswer] at h
    exact h

/-- A receiver's error gives the window's places to the frame, or back. -/
theorem Owing.receiverError (k : LineCounter) (h : Owing p 0 0 s) : Owing p 0 0 (receiverError p k s) := by
  unfold Machine.receiverError
  split
  · next w hrx =>
    refine Owing.endWindow (Owing.countError k (h.setRx ?_ ?_))
    · rw [hrx]
      exact Nat.add_comm _ _
    · rw [hrx]
      exact Nat.add_comm _ _
  · next hrx =>
    have hnone : outHeld (s.port p).rx = 0 ∧ uplinkHeld (s.port p).rx = 0 := by
      cases hr : (s.port p).rx with
      | markWindow w => exact absurd hr (hrx w)
      | _ => exact ⟨rfl, rfl⟩
    refine Owing.countError k (h.setRx ?_ ?_)
    · rw [hnone.1]
      rfl
    · rw [hnone.2]
      rfl

/-! ## The transmitter beside the receiver (R163) -/

/-- Where the receiver and the transmitter's phase are as they were. -/
def LineKept (p : Port) (s t : State) : Prop := (t.port p).rx = (s.port p).rx ∧ (t.port p).tx = (s.port p).tx

theorem LineKept.trans (h : LineKept p s t) (k : LineKept p t u) : LineKept p s u := ⟨k.1.trans h.1, k.2.trans h.2⟩

theorem takeFrame_lineKept (f : Taken) (s : State) (p : Port) : LineKept p s (takeFrame f s) := by
  obtain ⟨r, more, h, -⟩ := takeFrame_fills f s p
  exact ⟨by rw [h], by rw [h]⟩

theorem releaseReservations_lineKept (p : Port) (f : LineFrame) (s : State) : LineKept p s (releaseReservations p f s) := by
  unfold releaseReservations
  dsimp only
  split <;> cases p <;> exact ⟨rfl, rfl⟩

theorem endWindow_lineKept (p : Port) (w : Window) (s : State) : LineKept p s (endWindow p w s) := by
  unfold endWindow
  split
  · exact takeFrame_lineKept _ s p
  · exact releaseReservations_lineKept p _ s
  · exact ⟨rfl, rfl⟩

theorem countError_lineKept (p : Port) (k : LineCounter) (s : State) : LineKept p s (countError p k s) := by
  cases p <;> exact ⟨rfl, rfl⟩

theorem setRx_tx (p : Port) (rx : Receiver) (s : State) : ((s.setRx p rx).port p).tx = (s.port p).tx := by cases p <;> rfl

theorem setRx_rx (p : Port) (rx : Receiver) (s : State) : ((s.setRx p rx).port p).rx = rx := by cases p <;> rfl

theorem receiverError_tx (p : Port) (k : LineCounter) (s : State) : ((receiverError p k s).port p).tx = (s.port p).tx := by
  have herror := (countError_lineKept p k (s.setRx p .waitIdle)).2.trans (setRx_tx p .waitIdle s)
  unfold receiverError
  split
  · exact (endWindow_lineKept p _ _).2.trans herror
  · exact herror

theorem setTx_tx (p : Port) (tx : Transmitter) (s : State) : ((s.setTx p tx).port p).tx = tx := by cases p <;> rfl

theorem txIdle_phase (p : Port) (c : Option Current) (s : State) : ((txIdle p c s).port p).tx.phase = .idle := by cases p <;> rfl

theorem freePlace_tx (p : Port) (src : TxSource) (s : State) : ((freePlace p src s).port p).tx = (s.port p).tx := by
  cases src <;> cases p <;> rfl

theorem deliverCurrent_phase (p : Port) (s : State) : ((deliverCurrent p s).port p).tx.phase = .idle := by
  unfold deliverCurrent
  split
  · rw [freePlace_tx]
    exact txIdle_phase p none s
  · exact txIdle_phase p none s

theorem tellOwner_port (c : Current) (s : State) (p : Port) : (tellOwner c s).port p = s.port p := by
  unfold tellOwner
  split
  · cases p <;> rfl
  · rfl

theorem failAttempt_phase (p : Port) (s : State) : ((failAttempt p s).port p).tx.phase = .idle := by
  unfold failAttempt
  split
  · split
    · exact txIdle_phase p _ s
    · unfold discardCurrent
      rw [tellOwner_port, (countError_lineKept p .undelivered _).2, freePlace_tx]
      exact txIdle_phase p none s
  · exact txIdle_phase p none s

theorem closeWindow_phase (p : Port) (s : State) : ((closeWindow p s).port p).tx.phase = .idle := by
  unfold closeWindow
  split
  · split
    · exact deliverCurrent_phase p s
    · exact failAttempt_phase p s
  · exact txIdle_phase p none s

/-! ## The commands of a line port -/

theorem outHeld_none {rx : Receiver} (h : rx = .idle ∨ rx = .waitIdle ∨ rx = .ignoring ∨ ∃ bits, rx = .receiving bits) :
    outHeld rx = 0 ∧ uplinkHeld rx = 0 := by
  rcases h with rfl | rfl | rfl | ⟨bits, rfl⟩ <;> exact ⟨rfl, rfl⟩

/-- A receiver without a window gives way to another without one. -/
theorem Owing.setRx_empty {rx : Receiver} (hold : outHeld (s.port p).rx = 0 ∧ uplinkHeld (s.port p).rx = 0)
    (hnew : outHeld rx = 0 ∧ uplinkHeld rx = 0) (h : Owing p a b s) : Owing p a b (s.setRx p rx) :=
  h.setRx (by rw [hold.1, hnew.1]) (by rw [hold.2, hnew.2])

/-- What the Inspector reserves is what the window will hold (R172). -/
theorem openWindow_owing {f : LineFrame} {crc : Word16} (hrx : outHeld (s.port p).rx = 0 ∧ uplinkHeld (s.port p).rx = 0) (h : Owing p 0 0 s) :
    Owing p 0 0 (openWindow p f crc s) := by
  have hoffer : Owing p (if (offer p f s).2 = .sending then (if opaqueKind f.kind then 0 else 1) else 0)
      (if (offer p f s).2 = .sending then 1 else 0) (offer p f s).1 ∧ LineKept p s (offer p f s).1 ∧ (offer p f s).2 ≠ .marked := by
    have hqueue (x : Bool) : Owing p 0 0 (raiseQueueFull p x s) ∧ LineKept p s (raiseQueueFull p x s) :=
      ⟨h.grown (.of_leaves (raiseQueueFull_leaves p x s)), by cases p <;> exact ⟨rfl, rfl⟩⟩
    have hup : Owing p 0 1 (reserveUplink s) := h.setUplink (by rfl)
    unfold offer
    split; · exact ⟨h, ⟨rfl, rfl⟩, nofun⟩
    split; · exact ⟨h, ⟨rfl, rfl⟩, nofun⟩
    split; · exact ⟨(hqueue _).1, (hqueue _).2, nofun⟩
    split
    · exact ⟨hup, by cases p <;> exact ⟨rfl, rfl⟩, nofun⟩
    · split; · exact ⟨(hqueue _).1, (hqueue _).2, nofun⟩
      refine ⟨?_, by cases p <;> exact ⟨rfl, rfl⟩, nofun⟩
      show Owing p 1 1 _
      generalize reserveUplink s = u at hup
      refine owing_setPort ?_ rfl hup
      dsimp only
      omega
  obtain ⟨howing, ⟨hkept, -⟩, hmarked⟩ := hoffer
  unfold openWindow
  dsimp only
  refine howing.setRx ?_ ?_
  · rw [hkept, hrx.1]
    cases hanswer : (offer p f s).2 with
    | marked => exact absurd hanswer hmarked
    | none => rfl
    | sending => simp [outHeld, holdsPlaces]
  · rw [hkept, hrx.2]
    cases hanswer : (offer p f s).2 with
    | marked => exact absurd hanswer hmarked
    | none => rfl
    | sending => rfl

theorem closeData_owing (bits : List Bool) (hrx : outHeld (s.port p).rx = 0 ∧ uplinkHeld (s.port p).rx = 0) (h : Owing p 0 0 s) :
    Owing p 0 0 (closeData p bits s) := by
  unfold closeData
  split
  · exact h.receiverError _
  · exact h.receiverError _
  · exact h.receiverError _
  · exact openWindow_owing hrx h

theorem breakEffect_owing (h : Owing p 0 0 s) : Owing p 0 0 (breakEffect p s) := by
  unfold breakEffect
  split
  · exact (h.txIdle _).receiverError .breaks
  · exact h.receiverError .breaks

theorem gatherMark_owing {w : Window} (mark : Byte) (hrx : (s.port p).rx = .markWindow w) (h : Owing p 0 0 s) :
    Owing p 0 0 (gatherMark p w mark s) := by
  unfold gatherMark
  split; · exact h.receiverError .framing
  split
  · next hlost =>
    refine Owing.release w.frame (h.setRx ?_ ?_) <;> rw [hrx]
    · simp [outHeld, holdsPlaces, hlost.1]
    · simp [uplinkHeld, holdsPlaces, hlost.1]
  · refine h.setRx ?_ ?_ <;> rw [hrx]
    · cases hanswer : w.answer <;> simp [outHeld, holdsPlaces, hanswer]
    · cases hanswer : w.answer <;> simp [uplinkHeld, holdsPlaces, hanswer]

theorem recordMark_owing (mark : Byte) (h : Owing p 0 0 s) : Owing p 0 0 (recordMark p mark s) := by
  unfold recordMark
  dsimp only
  split
  · split
    · exact Owing.closeWindow h.setTx
    · exact h.setTx
  · exact h.setTx

theorem dataGone_owing (h : Owing p 0 0 s) : Owing p 0 0 (dataGone p s) := by
  unfold dataGone
  dsimp only
  split
  · split
    · exact Owing.deliverCurrent h.setTx
    · exact h.setTx
  · exact h.txIdle none

theorem setLineIdle_lineKept (p : Port) (b : Bool) (s : State) : LineKept p s (s.setLineIdle p b) := by cases p <;> exact ⟨rfl, rfl⟩

theorem setTx_rx (p : Port) (tx : Transmitter) (s : State) : ((s.setTx p tx).port p).rx = (s.port p).rx := by cases p <;> rfl

theorem openWindow_tx (p : Port) (f : LineFrame) (crc : Word16) (s : State) : ((openWindow p f crc s).port p).tx = (s.port p).tx := by
  have hoffer : ((offer p f s).1.port p).tx = (s.port p).tx := by
    unfold offer
    split; · rfl
    split; · rfl
    split; · cases p <;> rfl
    split; · cases p <;> rfl
    split <;> cases p <;> rfl
  unfold openWindow
  dsimp only
  rw [setRx_tx, hoffer]

theorem closeData_tx (p : Port) (bits : List Bool) (s : State) : ((closeData p bits s).port p).tx = (s.port p).tx := by
  unfold closeData
  split
  · exact receiverError_tx p _ s
  · exact receiverError_tx p _ s
  · exact receiverError_tx p _ s
  · exact openWindow_tx p _ _ s

theorem gatherMark_tx (p : Port) (w : Window) (mark : Byte) (s : State) : ((gatherMark p w mark s).port p).tx = (s.port p).tx := by
  unfold gatherMark
  split; · exact receiverError_tx p _ s
  split
  · rw [(releaseReservations_lineKept p w.frame _).2, setRx_tx]
  · exact setRx_tx p _ s

theorem breakEffect_phase (p : Port) (s : State) : ((breakEffect p s).port p).tx.phase = .idle := by
  unfold breakEffect
  rw [receiverError_tx]
  split
  · exact txIdle_phase p _ s
  · next h => exact not_not.mp (by simpa [txActive] using h)

/-- The receiver stays, or the transmitter comes to rest. -/
theorem recordMark_still (p : Port) (mark : Byte) (s : State) :
    ((recordMark p mark s).port p).tx.phase = .idle ∨ ((recordMark p mark s).port p).rx = (s.port p).rx := by
  unfold recordMark
  dsimp only
  split
  · split
    · exact .inl (closeWindow_phase p _)
    · exact .inr (setTx_rx p _ s)
  · exact .inr (setTx_rx p _ s)

theorem dataGone_still (p : Port) (s : State) :
    ((dataGone p s).port p).tx.phase = .idle ∨ ((dataGone p s).port p).rx = (s.port p).rx := by
  unfold dataGone
  dsimp only
  split
  · split
    · exact .inl (deliverCurrent_phase p _)
    · exact .inr (setTx_rx p _ s)
  · exact .inl (txIdle_phase p none s)

theorem lineWork_reservations {c : Instr} {f : State → State} (h : LineWork p s c f) (hs : ReservationsMatch s) : ReservationsMatch (f s) := by
  obtain ⟨ho, hstill⟩ := (reservationsMatch_iff p).mp hs
  rw [reservationsMatch_iff p]
  have hinactive (h : txActive s p = false) : (s.port p).tx.phase = .idle := not_not.mp (by simpa [txActive] using h)
  have hrest {u : State} (h : (u.port p).tx.phase = .idle) : (u.port p).tx.phase ≠ .idle → (u.port p).rx = .idle := fun hne => absurd h hne
  have hactive (hne : (s.port p).tx.phase ≠ .idle) : outHeld (s.port p).rx = 0 ∧ uplinkHeld (s.port p).rx = 0 :=
    outHeld_none (.inl (hstill hne))
  have herror (k : LineCounter) (hne : (s.port p).tx.phase ≠ .idle) : Owing p 0 0 (failAttempt p (countError p k (s.setRx p .waitIdle))) :=
    Owing.failAttempt (Owing.countError k (ho.setRx_empty (hactive hne) (outHeld_none (.inr (.inl rfl)))))
  have hheard {rx : Receiver} (hrx : rx = .ignoring ∨ ∃ bits, rx = .receiving bits) : outHeld rx = 0 ∧ uplinkHeld rx = 0 :=
    outHeld_none (.inr (.inr hrx))
  cases h with
  | interrupted h => exact ⟨herror .symbol (by simpa [txActive] using h), hrest (failAttempt_phase p _)⟩
  | opened h hrx =>
    refine ⟨Owing.setLineIdle (ho.setRx_empty (outHeld_none (.inl hrx)) (hheard ?_)), hrest ?_⟩
    · split
      · exact .inl rfl
      · exact .inr ⟨_, rfl⟩
    · rw [(setLineIdle_lineKept p _ _).2, setRx_tx]
      exact hinactive h
  | faulty k h _ =>
    refine ⟨ho.receiverError k, hrest ?_⟩
    rw [receiverError_tx]
    exact hinactive h
  | checked had bits h hrx =>
    refine ⟨closeData_owing _ (outHeld_none (.inr (.inr (.inr ⟨had, hrx⟩)))) ho, hrest ?_⟩
    rw [closeData_tx]
    exact hinactive h
  | recorded mark h =>
    refine ⟨recordMark_owing mark ho, fun hne => ?_⟩
    rw [(recordMark_still p mark s).resolve_left hne]
    exact hstill (by rw [h]; decide)
  | gathered w mark _ hrx =>
    refine ⟨gatherMark_owing mark hrx ho, hrest ?_⟩
    rw [gatherMark_tx]
    by_contra hne
    rw [hstill hne] at hrx
    cases hrx
  | dropped w h hrx _ =>
    refine ⟨Owing.endWindow (ho.setRx ?_ ?_), hrest ?_⟩
    · rw [hrx]
      exact Nat.add_comm _ _
    · rw [hrx]
      exact Nat.add_comm _ _
    · rw [(endWindow_lineKept p w _).2, setRx_tx]
      exact hinactive h
  | unignored h hrx =>
    refine ⟨ho.setRx_empty (outHeld_none (.inr (.inr (.inl hrx)))) (outHeld_none (.inl rfl)), hrest ?_⟩
    rw [setRx_tx]
    exact hinactive h
  | broken => exact ⟨breakEffect_owing ho, hrest (breakEffect_phase p s)⟩
  | idled h hrx =>
    refine ⟨Owing.setLineIdle (ho.setRx_empty (outHeld_none (hrx.imp id (.imp id .inl))) (outHeld_none (.inl rfl))), hrest ?_⟩
    rw [(setLineIdle_lineKept p _ _).2, setRx_tx]
    exact hinactive h
  | chosen h _ =>
    refine ⟨ho.setTx, hrest ?_⟩
    unfold chooseCurrent
    rw [setTx_tx]
    exact of_decide_eq_true ((Bool.and_eq_true _ _).mp h).1
  | started h =>
    refine ⟨Owing.setLineIdle ho.setTx, fun _ => ?_⟩
    unfold startSending
    rw [(setLineIdle_lineKept p _ _).1, setTx_rx]
    simp only [mayStart, Bool.and_eq_true, decide_eq_true_eq] at h
    exact h.1.2
  | lost bit h =>
    have hne : (s.port p).tx.phase ≠ .idle := by
      simp only [mayLose, Bool.and_eq_true, decide_eq_true_eq] at h
      rw [h.1]
      decide
    refine ⟨Owing.failAttempt (ho.setRx_empty (hactive hne) (hheard ?_)), hrest (failAttempt_phase p _)⟩
    split
    · exact .inl rfl
    · exact .inr ⟨_, rfl⟩
  | headed h =>
    refine ⟨ho.setTx, fun _ => ?_⟩
    unfold sendBody
    rw [setTx_rx]
    exact hstill (by rw [h]; decide)
  | clashes h => exact ⟨herror .clash (by rw [h]; decide), hrest (failAttempt_phase p _)⟩
  | sent h =>
    refine ⟨dataGone_owing ho, fun hne => ?_⟩
    rw [(dataGone_still p s).resolve_left hne]
    exact hstill (by rw [h]; decide)
  | closed => exact ⟨ho.closeWindow, hrest (closeWindow_phase p s)⟩

/-! ## Every step -/

/-- A run away from the lines keeps the reservations. -/
theorem Moves.reservations (h : Moves A s t) (hA : ¬A .ports) (hs : ReservationsMatch s) : ReservationsMatch t := by
  have hg := h.lines_grow hA
  obtain ⟨ho, hstill⟩ := (reservationsMatch_iff .floor).mp hs
  refine (reservationsMatch_iff .floor).mpr ⟨ho.grown hg, ?_⟩
  obtain ⟨more, down, hport⟩ := hg.1 .floor
  rw [hport]
  exact hstill

/-- A passage other than the lines'. -/
def offLines : Passage → Prop := fun x => x ≠ .ports

theorem outHeld_marked {w : Window} (h : w.answer = .marked) : outHeld (.markWindow w) = if opaqueKind w.frame.kind then 0 else 1 := by
  simp [outHeld, holdsPlaces, h]

theorem uplinkHeld_marked {w : Window} (h : w.answer = .marked) : uplinkHeld (.markWindow w) = 1 := by
  simp [uplinkHeld, holdsPlaces, h]

/-- A marked frame taken out of its window (R156). -/
theorem takeFrame_reservations {w : Window} {rx : Receiver} (hw : markedWindow s p = some w)
    (hrx : outHeld rx = 0 ∧ uplinkHeld rx = 0) (hs : ReservationsMatch s) : ReservationsMatch (takeFrame (w.taken p) (s.setRx p rx)) := by
  obtain ⟨ho, hstill⟩ := (reservationsMatch_iff p).mp hs
  obtain ⟨hwindow, hmarked⟩ := markedWindow_some.mp hw
  refine (reservationsMatch_iff p).mpr ⟨takeFrame_owing rfl (ho.setRx ?_ ?_), fun hne => ?_⟩
  · rw [hrx.1, hwindow, outHeld_marked hmarked, Nat.add_zero, Nat.zero_add]
    rfl
  · rw [hrx.2, hwindow, uplinkHeld_marked hmarked]
  · rw [(takeFrame_lineKept _ _ p).2, setRx_tx] at hne
    rw [hstill hne] at hwindow
    cases hwindow

theorem takeMarkedWindow_reservations (p : Port) (hs : ReservationsMatch s) : ReservationsMatch (takeMarkedWindow p s) := by
  unfold takeMarkedWindow
  split
  · next w hw => exact takeFrame_reservations hw (outHeld_none (.inr (.inl rfl))) hs
  · exact hs

theorem emptyUplink_port (p : Port) (s : State) : (emptyUplink s).port p = s.port p := by cases p <;> rfl

/-- RESTART leaves no place reserved. -/
theorem restartRest_reservations (s : State) : ReservationsMatch (restartRest s) := by
  have hrestarted (rx : Receiver) : outHeld rx.restarted = 0 ∧ uplinkHeld rx.restarted = 0 := by cases rx <;> exact ⟨rfl, rfl⟩
  have hports (p : Port) : ((restartPort .room (restartPort .floor s)).port p).out.reserved = 0 ∧
      ((restartPort .room (restartPort .floor s)).port p).rx = (s.port p).rx.restarted ∧
      ((restartPort .room (restartPort .floor s)).port p).tx.phase = .idle := by cases p <;> exact ⟨rfl, rfl, rfl⟩
  have hmoves : Moves offLines (restartPort .room (restartPort .floor s))
      (restartLock (abortHandover .aborted (abortSessions (restartPort .room (restartPort .floor s))))) :=
    ((abortSessions_moves _).trans (abortHandover_moves nofun .aborted _)).trans (restartLock_moves _)
  obtain ⟨hgrow, -⟩ := hmoves.lines_grow fun h => h rfl
  rw [restartRest]
  generalize restartLock (abortHandover .aborted (abortSessions (restartPort .room (restartPort .floor s)))) = u at hgrow
  have hafter (p : Port) : ((emptyUplink u).port p).out.reserved = 0 ∧ ((emptyUplink u).port p).rx = (s.port p).rx.restarted ∧
      ((emptyUplink u).port p).tx.phase = .idle := by
    obtain ⟨more, down, hport⟩ := hgrow p
    rw [emptyUplink_port, hport]
    exact hports p
  have hempty (p : Port) : outHeld ((emptyUplink u).port p).rx = 0 ∧ uplinkHeld ((emptyUplink u).port p).rx = 0 := by
    rw [(hafter p).2.1]
    exact hrestarted _
  refine (reservationsMatch_iff .floor).mpr ⟨⟨?_, fun q _ => ⟨?_, fun hne => absurd (hafter q).2.2 hne⟩, ?_⟩,
    fun hne => absurd (hafter .floor).2.2 hne⟩
  · rw [(hafter .floor).1, (hempty .floor).1]
  · rw [(hafter q).1, (hempty q).1]
  · have hfloor : uplinkHeld (emptyUplink u).floor.rx = 0 := (hempty .floor).2
    have hroom : uplinkHeld (emptyUplink u).room.rx = 0 := (hempty .room).2
    rw [hfloor, hroom]
    rfl

theorem reservations_exec {c : Instr} (h : exec c s = .next t) (hs : ReservationsMatch s) : ReservationsMatch t := by
  have hoff {u v : State} (hmoves : Moves offLines u v) (hu : ReservationsMatch u) : ReservationsMatch v :=
    hmoves.reservations (fun h => h rfl) hu
  rcases exec_cases h with rfl | ⟨f, htaking, rfl⟩ | ⟨-, tag, fields, rest, -, -, -, rfl⟩ | ⟨-, rfl⟩
  · exact hs
  · refine hoff (settle_moves nofun s _) ?_
    cases htaking with
    | line h => exact lineWork_reservations h hs
    | frame p w hw => exact takeFrame_reservations hw (outHeld_none (.inl rfl)) hs
    | placed _ => exact hoff (placeSafeCommand_moves s) hs
    | expiry h => exact hoff (expiry_moves nofun h) hs
    | trunk h => exact hoff (trunkWork_moves nofun h) hs
    | request tag fields rest hrequest _ _ _ =>
      exact hoff (answered_moves nofun tag _ fields s (run_moves hrequest (fun _ => nofun) fields _)) hs
  · refine hoff (settleRestart_moves nofun s _) (hoff (Moves.trunk nofun (answerRequest_leaves _ _ _ _ _ _)
      (answerRequest_places _ _ _ _ _ _) (.of_leaves (answerRequest_leaves _ _ _ _ _ _))) ?_)
    rw [runRestart_eq]
    exact restartRest_reservations _
  · exact ⟨fun p => by cases p <;> rfl, rfl, fun p hne => by cases p <;> exact absurd rfl hne⟩

theorem Move.placesHeld (h : Move A s t) (hs : PlacesHeld s) : PlacesHeld t := by
  obtain ⟨hports, huplink, hbuffer, hbags, hinventory⟩ := hs
  obtain ⟨hports', huplink', hbuffer'⟩ := h.touched.places ⟨hports, huplink, hbuffer⟩
  exact ⟨hports', huplink', hbuffer', h.register.length_le hbags, h.stored.inventory_le hinventory⟩

theorem reset_placesHeld : PlacesHeld State.reset :=
  ⟨fun p => by cases p <;> exact ⟨Nat.zero_le _, Nat.zero_le _⟩, Nat.zero_le _, Nat.zero_le _, Nat.zero_le _, Nat.zero_le _⟩

end

/-- Settles O7: each move keeps the queues within their places, and each taking the RESERVED places with their windows. -/
theorem stepKeepsPlaces : Obligations.StepKeepsPlaces := fun _ _ h =>
  ⟨step_keeps_of_moves (fun _ _ h => h) (fun _ _ h => h) (fun _ _ h => h) reset_placesHeld Move.placesHeld h,
    step_keeps (fun _ _ h => h) (fun _ _ h => h) (fun h => reservations_exec h) h⟩

end Sys2Proof.Machine.Effects

/-! PROOF. The figures of the stock: what an addition, a draw and a write do to held stock and to the value of the holding. -/

namespace Sys2Proof.Machine.Effects

open Sys2Proof Sys2Proof.Machine

section
variable {s t : State} {d : Denom} {r : StockRec} {n : Nat}

/-! ## One code (R12 to R14) -/

/-- An addition adds its pieces, loose ends below the strap size (R12). -/
theorem held_addPieces (d : Denom) (r : StockRec) (n : Nat) : held d (addPieces d r n) = held d r + n := by
  unfold held addPieces
  split
  · next h => rw [h, Nat.add_zero]
  · have h := Nat.mod_add_div (r.loose + n) d.strap
    dsimp only
    rw [Nat.add_mul, Nat.mul_comm (_ / _) d.strap]
    omega

theorem addPieces_keeps (d : Denom) (r : StockRec) (n : Nat) :
    (addPieces d r n).reserved = r.reserved ∧ (addPieces d r n).suspect = r.suspect := by
  unfold addPieces
  split <;> exact ⟨rfl, rfl⟩

theorem addPieces_zero (d : Denom) (r : StockRec) : addPieces d r 0 = r := rfl

/-- The straps broken are the fewest that bring loose up to the count (R14). -/
theorem strapsBroken_spec (hstrap : 1 ≤ d.strap) (r : StockRec) (n : Nat) :
    n ≤ r.loose + strapsBroken d r n * d.strap ∧ ∀ k, n ≤ r.loose + k * d.strap → strapsBroken d r n ≤ k := by
  unfold strapsBroken
  constructor
  · have h := Nat.div_add_mod (n - r.loose + d.strap - 1) d.strap
    have hmod := Nat.mod_lt (n - r.loose + d.strap - 1) hstrap
    rw [Nat.mul_comm] at h
    omega
  · intro k hk
    have hlt : n - r.loose + d.strap - 1 < (k + 1) * d.strap := by
      rw [Nat.add_mul]
      omega
    exact Nat.lt_succ_iff.mp ((Nat.div_lt_iff_lt_mul hstrap).mpr hlt)

/-- A draw within held stock takes exactly its pieces (R14). -/
theorem held_drawPieces (hstrap : 1 ≤ d.strap) (hn : n ≤ held d r) : held d (drawPieces d r n) + n = held d r := by
  obtain ⟨henough, hfewest⟩ := strapsBroken_spec hstrap r n
  have hle := hfewest r.straps hn
  have hsplit : (r.straps - strapsBroken d r n) * d.strap + strapsBroken d r n * d.strap = r.straps * d.strap := by
    rw [← Nat.add_mul, Nat.sub_add_cancel hle]
  unfold held drawPieces
  dsimp only
  omega

/-- A draw of whole straps takes exactly their pieces (R16). -/
theorem held_drawStraps (hmod : n % d.strap = 0) (hle : n / d.strap ≤ r.straps) :
    held d { r with straps := r.straps - n / d.strap } + n = held d r := by
  have hn : n / d.strap * d.strap = n := Nat.div_mul_cancel (Nat.dvd_of_mod_eq_zero hmod)
  have hsplit : (r.straps - n / d.strap) * d.strap + n / d.strap * d.strap = r.straps * d.strap := by
    rw [← Nat.add_mul, Nat.sub_add_cancel hle]
  unfold held
  dsimp only
  omega

/-! ## The value of the holding (R20, R21) -/

theorem sumCodes_congr {f g : Fin 12 → Nat} (h : ∀ c, f c = g c) : sumCodes f = sumCodes g := congrArg sumCodes (funext h)

theorem sumCodes_add (f g : Fin 12 → Nat) : sumCodes (fun c => f c + g c) = sumCodes f + sumCodes g := List.sum_map_add

theorem valueOf_congr (h : t.denoms = s.denoms) (v : Vector Nat 12) : t.valueOf v = s.valueOf v := by
  rw [State.valueOf, State.valueOf, h]

/-- The holding rises by the value of what enabled codes gain. -/
theorem holdingValue_add {counts : Vector Nat 12} (hdenoms : t.denoms = s.denoms) (honly : EnabledOnly s counts)
    (h : ∀ c : Fin 12, s.denoms[c].enabled = true → t.heldOf c = s.heldOf c + counts[c]) : holdingValue t = holdingValue s + s.valueOf counts := by
  unfold holdingValue State.valueOf
  rw [← sumCodes_add]
  refine sumCodes_congr fun c => ?_
  rw [hdenoms]
  cases he : s.denoms[c].enabled with
  | true =>
    rw [if_pos rfl, if_pos rfl, h c he, Nat.add_mul]
  | false =>
    rw [honly c he]
    simp

/-- A change at one code changes the holding by as much. -/
theorem holdingValue_put {c : Fin 12} (hdenoms : t.denoms = s.denoms) (hc : s.denoms[c].enabled = true)
    (h : ∀ k : Fin 12, k ≠ c → t.heldOf k = s.heldOf k) :
    holdingValue t + s.heldOf c * s.denoms[c].face = holdingValue s + t.heldOf c * s.denoms[c].face := by
  unfold holdingValue
  have hsum := CapLoop.sumCodes_add_of_eq_off (f := fun c => if t.denoms[c].enabled then t.heldOf c * t.denoms[c].face else 0)
    (g := fun c => if s.denoms[c].enabled then s.heldOf c * s.denoms[c].face else 0) c fun k hk => by
      rw [hdenoms, h k hk]
  rw [hdenoms, if_pos hc, if_pos hc] at hsum
  rw [hdenoms]
  exact hsum

theorem satNat_of_le {n : Nat} (h : n ≤ Config.top32) : satNat n = (n, false) := by
  simp only [satNat, Prod.mk.injEq, decide_eq_false_iff_not, not_lt]
  exact ⟨Nat.min_eq_left h, h⟩

/-! ## The movements keep the conservation law (R21) -/

theorem ofFn_row {α : Type} {n : Nat} (f : Fin n → α) (c : Fin n) : (Vector.ofFn f)[c] = f c := by simp

theorem applyClose_held (acc sus : Vector Nat 12) (v : Nat) (s : State) (c : Fin 12) :
    (applyClose acc sus v s).heldOf c = s.heldOf c + acc[c] := by
  have hrow : (applyClose acc sus v s).stock[c] =
      { addPieces s.denoms[c] s.stock[c] acc[c] with suspect := s.stock[c].suspect + sus[c] } := ofFn_row _ c
  rw [State.heldOf, hrow]
  exact held_addPieces _ _ _

theorem addAll_held (counts : Vector Nat 12) (s : State) (c : Fin 12) : (addAll s counts).heldOf c = s.heldOf c + counts[c] := by
  have hrow : (addAll s counts).stock[c] = addPieces s.denoms[c] s.stock[c] counts[c] := ofFn_row _ c
  rw [State.heldOf, hrow]
  exact held_addPieces _ _ _

theorem drawFloat_held {issue : Vector Nat 12} (v : Nat) {c : Fin 12} (hstrap : 1 ≤ s.denoms[c].strap) (hle : issue[c] ≤ s.heldOf c) :
    (drawFloat issue v s).heldOf c + issue[c] = s.heldOf c := by
  have hrow : (drawFloat issue v s).stock[c] = drawPieces s.denoms[c] s.stock[c] issue[c] := ofFn_row _ c
  rw [State.heldOf, hrow]
  exact held_drawPieces hstrap hle

theorem drawStraps_held {counts : Vector Nat 12} (v : Nat) {c : Fin 12} (hmod : counts[c] % s.denoms[c].strap = 0)
    (hle : counts[c] / s.denoms[c].strap ≤ s.stock[c].straps) : (drawStraps counts v s).heldOf c + counts[c] = s.heldOf c := by
  have hrow : (drawStraps counts v s).stock[c] = { s.stock[c] with straps := s.stock[c].straps - counts[c] / s.denoms[c].strap } := ofFn_row _ c
  rw [State.heldOf, hrow]
  exact held_drawStraps hmod hle

theorem applyClose_conserved {acc sus : Vector Nat 12} (hs : Conserved s) (honly : EnabledOnly s acc)
    (hrange : s.acc.countedIn + s.valueOf acc ≤ Config.top32) : Conserved (applyClose acc sus (s.valueOf acc) s) := by
  have hvalue : holdingValue (applyClose acc sus (s.valueOf acc) s) = holdingValue s + s.valueOf acc :=
    holdingValue_add (s := s) (t := applyClose acc sus (s.valueOf acc) s) rfl honly fun c _ => applyClose_held acc sus _ s c
  have hacc : (applyClose acc sus (s.valueOf acc) s).acc = { s.acc with
      countedIn := (satNat (s.acc.countedIn + s.valueOf acc)).1
      saturated := s.acc.saturated || (satNat (s.acc.countedIn + s.valueOf acc)).2 } := rfl
  unfold Conserved at hs ⊢
  rw [hvalue, hacc, satNat_of_le hrange]
  push_cast
  omega

theorem addRestocked_stock (v : Nat) (s : State) : (addRestocked v s).denoms = s.denoms ∧ (addRestocked v s).heldOf = s.heldOf := ⟨rfl, rfl⟩

theorem restocked_conserved {counts : Vector Nat 12} (hs : Conserved s) (honly : EnabledOnly s counts)
    (hrange : s.acc.restocked + s.valueOf counts ≤ Config.top32) : Conserved (addRestocked (s.valueOf counts) (addAll s counts)) := by
  have hvalue : holdingValue (addRestocked (s.valueOf counts) (addAll s counts)) = holdingValue s + s.valueOf counts :=
    holdingValue_add (s := s) (t := addRestocked (s.valueOf counts) (addAll s counts)) (addRestocked_stock _ _).1 honly fun c _ => by
      rw [(addRestocked_stock _ _).2]
      exact addAll_held counts s c
  have hacc : (addRestocked (s.valueOf counts) (addAll s counts)).acc = { s.acc with
      restocked := (satNat (s.acc.restocked + s.valueOf counts)).1
      saturated := s.acc.saturated || (satNat (s.acc.restocked + s.valueOf counts)).2 } := rfl
  unfold Conserved at hs ⊢
  rw [hvalue, hacc, satNat_of_le hrange]
  push_cast
  omega

/-- A draw whose value goes into the made-up accumulator. -/
theorem drawn_conserved {counts : Vector Nat 12} (hs : Conserved s) (hdenoms : t.denoms = s.denoms) (honly : EnabledOnly s counts)
    (hheld : ∀ c : Fin 12, s.denoms[c].enabled = true → t.heldOf c + counts[c] = s.heldOf c)
    (hacc : t.acc = { s.acc with
      madeUp := (satNat (s.acc.madeUp + s.valueOf counts)).1
      saturated := s.acc.saturated || (satNat (s.acc.madeUp + s.valueOf counts)).2 })
    (hrange : s.acc.madeUp + s.valueOf counts ≤ Config.top32) : Conserved t := by
  have hvalue : holdingValue s = holdingValue t + t.valueOf counts :=
    holdingValue_add hdenoms.symm (fun c hc => honly c (by rw [← hdenoms]; exact hc)) fun c hc => (hheld c (by rw [← hdenoms]; exact hc)).symm
  rw [valueOf_congr hdenoms] at hvalue
  unfold Conserved at hs ⊢
  rw [hacc, satNat_of_le hrange]
  rw [hvalue] at hs
  push_cast at hs ⊢
  omega

theorem drawFloat_conserved {issue : Vector Nat 12} (hs : Conserved s) (hd : DenomsInRange s) (honly : EnabledOnly s issue)
    (hle : ∀ c : Fin 12, issue[c] ≤ s.heldOf c) (hrange : s.acc.madeUp + s.valueOf issue ≤ Config.top32) :
    Conserved (drawFloat issue (s.valueOf issue) s) :=
  drawn_conserved hs rfl honly (fun c hc => drawFloat_held _ (hd c hc).2.2.1 (hle c)) rfl hrange

theorem drawStraps_conserved {counts : Vector Nat 12} (hs : Conserved s) (honly : EnabledOnly s counts)
    (hstraps : ∀ c : Fin 12, counts[c] % s.denoms[c].strap = 0 ∧ counts[c] / s.denoms[c].strap ≤ s.stock[c].straps)
    (hrange : s.acc.madeUp + s.valueOf counts ≤ Config.top32) : Conserved (drawStraps counts (s.valueOf counts) s) :=
  drawn_conserved hs rfl honly (fun c _ => drawStraps_held _ (hstraps c).1 (hstraps c).2) rfl hrange

theorem setStockCounts_held (c k : Fin 12) (loose straps : Nat) (s : State) :
    (setStockCounts c loose straps s).heldOf k = if c = k then loose + straps * s.denoms[c].strap else s.heldOf k := by
  have hrow : (setStockCounts c loose straps s).stock[k] = if c = k then { s.stock[c] with loose := loose, straps := straps } else s.stock[k] :=
    put_get _ _ _ _
  rw [State.heldOf, hrow]
  split
  · next h =>
    subst h
    rfl
  · rfl

theorem setStockCounts_conserved {c : Fin 12} {loose straps : Nat} (hs : Conserved s) (hc : s.denoms[c].enabled = true)
    (hadj : (setStockCounts c loose straps s).acc.adjustment =
      s.acc.adjustment + ((loose + straps * s.denoms[c].strap : Nat) - (s.heldOf c : Int)) * s.denoms[c].face) :
    Conserved (setStockCounts c loose straps s) := by
  have hvalue := holdingValue_put (s := s) (t := setStockCounts c loose straps s) rfl hc fun k hk => by
    rw [setStockCounts_held, if_neg hk.symm]
  rw [setStockCounts_held, if_pos rfl] at hvalue
  have hint : ((holdingValue (setStockCounts c loose straps s) : Nat) : Int) + (s.heldOf c : Int) * s.denoms[c].face =
      holdingValue s + ((loose + straps * s.denoms[c].strap : Nat) : Int) * s.denoms[c].face := by exact_mod_cast hvalue
  have hrest : (setStockCounts c loose straps s).acc.opening = s.acc.opening ∧ (setStockCounts c loose straps s).acc.countedIn = s.acc.countedIn ∧
      (setStockCounts c loose straps s).acc.restocked = s.acc.restocked ∧ (setStockCounts c loose straps s).acc.madeUp = s.acc.madeUp :=
    ⟨rfl, rfl, rfl, rfl⟩
  unfold Conserved at hs ⊢
  rw [hadj, hrest.1, hrest.2.1, hrest.2.2.1, hrest.2.2.2]
  rw [sub_mul]
  linarith

end

end Sys2Proof.Machine.Effects

/-! PROOF. What the stock rests on: the reservations, the values of orders, bags and sessions, and the conservation law while nothing has saturated. -/

namespace Sys2Proof.Machine.Effects

open Sys2Proof Sys2Proof.Machine Sys2Proof.Machine.TallyCount

section
variable {A : Passage → Prop} {s t : State} {n : Nat} {b b' : Bag}

/-! ## The parts of the invariant -/

/-- The rows of the stock: reserved within held, the sum of the PENDING issues, and nothing at a disabled code (R9 to R11). -/
def RowsSound (s : State) : Prop :=
  ∀ c : Fin 12, s.stock[c].reserved ≤ s.heldOf c ∧ s.stock[c].reserved = pendingIssue s c ∧
    (s.denoms[c].enabled = false → s.stock[c] = { loose := 0, straps := 0, reserved := 0, suspect := 0 })

/-- A PENDING order has the value of its issue. -/
def OrdersValued (s : State) : Prop := ∀ i : Fin 24, s.orders[i].state = .pending → s.orders[i].issueValue = s.valueOf s.orders[i].issue

/-- A made-up bag has its value and its codes, and a float bag its order. -/
def BagSound (s : State) (b : Bag) : Prop :=
  b.state.terminal = false → b.kind.counted = false →
    (∃ v, b.counts = some v ∧ b.declared = s.valueOf v ∧ EnabledOnly s v) ∧
    if b.kind = .consignment then b.order = none
    else ∃ i, b.order = some i ∧ s.orders[i].state = .madeUp ∧ s.orders[i].sealNo = some b.sealNo

/-- A session's counts are of enabled codes. -/
def SessionSums (s : State) : Prop := ∀ x : Fin 4, s.sessions[x].state ≠ .idle → EnabledOnly s s.sessions[x].accepted ∧ EnabledOnly s s.sessions[x].suspect

theorem stockSound_iff : StockSound s ↔ DenomsInRange s ∧ RowsSound s ∧ OrdersValued s ∧ (∀ b ∈ s.bags, BagSound s b) ∧ SessionSums s := Iff.rfl

/-! ## Each part by what it reads -/

theorem enabledOnly_congr (h : t.denoms = s.denoms) {v : Vector Nat 12} (hv : EnabledOnly s v) : EnabledOnly t v := by
  unfold EnabledOnly
  rw [h]
  exact hv

theorem heldOf_congr (hdenoms : t.denoms = s.denoms) (hstock : t.stock = s.stock) (c : Fin 12) : t.heldOf c = s.heldOf c := by
  rw [State.heldOf, State.heldOf, hdenoms, hstock]

theorem pendingIssue_congr (h : t.orders = s.orders) (c : Fin 12) : pendingIssue t c = pendingIssue s c := by
  rw [pendingIssue, pendingIssue, h]

theorem rowsSound_congr (hdenoms : t.denoms = s.denoms) (hstock : t.stock = s.stock) (horders : t.orders = s.orders) (hs : RowsSound s) :
    RowsSound t := fun c => by
  rw [heldOf_congr hdenoms hstock, pendingIssue_congr horders, hdenoms, hstock]
  exact hs c

theorem ordersValued_congr (hdenoms : t.denoms = s.denoms) (horders : t.orders = s.orders) (hs : OrdersValued s) : OrdersValued t := fun i => by
  rw [horders, valueOf_congr hdenoms]
  exact hs i

/-- A bag's soundness reads the denominations and the orders that are MADE_UP. -/
theorem bagSound_congr (hdenoms : t.denoms = s.denoms) (horders : ∀ i : Fin 24, s.orders[i].state = .madeUp → t.orders[i] = s.orders[i])
    (h : BagSound s b) : BagSound t b := fun hterminal hkind => by
  obtain ⟨⟨v, hcounts, hvalue, honly⟩, horder⟩ := h hterminal hkind
  refine ⟨⟨v, hcounts, by rw [valueOf_congr hdenoms]; exact hvalue, enabledOnly_congr hdenoms honly⟩, ?_⟩
  split
  · next hc => rwa [if_pos hc] at horder
  · next hc =>
    rw [if_neg hc] at horder
    obtain ⟨i, hi, hstate, hseal⟩ := horder
    exact ⟨i, hi, by rw [horders i hstate]; exact hstate, by rw [horders i hstate]; exact hseal⟩

theorem sessionSums_congr (hdenoms : t.denoms = s.denoms) (hsessions : t.sessions = s.sessions) (hs : SessionSums s) : SessionSums t := fun x => by
  rw [hsessions]
  exact fun h => ⟨enabledOnly_congr hdenoms (hs x h).1, enabledOnly_congr hdenoms (hs x h).2⟩

/-! ## The records -/

/-- No terminal record comes back. -/
theorem RowMove.terminal {call : Handover} (h : RowMove A call b b') : b'.state.terminal = false → b.state.terminal = false := by
  cases h with
  | entered now _ hs =>
    intro _
    rcases hs with ⟨-, hs | hs | hs⟩ | ⟨-, hs⟩ | ⟨-, hs⟩ <;> rw [hs] <;> rfl
  | withdrawn now _ hm =>
    intro _
    rw [(withdraw_ok hm).1]
    rfl
  | aborted x now _ hs _ =>
    intro _
    rcases hs with hs | hs <;> rw [hs] <;> rfl
  | closed | released | delivered | restocked | signed => exact fun h => nomatch h
  | reentered | opened | resumed | suspended | loaded | held | returned =>
    intro _
    rename_i hs
    simp [*, BagState.terminal]
  | flagged | pinned | unpinned => exact id

theorem RowMoves.terminal {call : Handover} (h : RowMoves A call b b') : b'.state.terminal = false → b.state.terminal = false := by
  induction h with
  | refl => exact id
  | tail _ hlast ih => exact ih ∘ hlast.terminal

theorem RowMoves.bagSound {call : Handover} (h : RowMoves A call b b') (hb : BagSound s b) : BagSound s b' := by
  obtain ⟨hseal, hkind, hdeclared, hcounts, horder⟩ := h.keeps
  intro hterminal
  unfold BagSound at hb
  rw [hkind, hdeclared, hcounts, horder, hseal]
  exact hb (h.terminal hterminal)

/-- The records of a register that no bag joins. -/
theorem Register.bagsSound (h : Register A s t.bags) (hlength : t.bags.length ≤ s.bags.length) (hd : SealsDistinct s)
    (hs : ∀ b ∈ s.bags, BagSound s b) : ∀ b ∈ t.bags, BagSound s b := by
  generalize t.bags = bags at h hlength
  cases h with
  | mapped f _ hrows =>
    intro c hc
    obtain ⟨b, hb, rfl⟩ := List.mem_map.mp hc
    exact (hrows hd b hb).bagSound (hs b hb)
  | added b _ _ =>
    rw [List.length_append, List.length_singleton] at hlength
    omega
  | purged => exact fun c hc => hs c (List.mem_filter.mp hc).1

/-! ## The orders -/

/-- What a PENDING order claims of a code. -/
def claim (o : Order) (c : Fin 12) : Nat := if o.state = .pending then o.issue[c] else 0

theorem pendingIssue_eq (s : State) (c : Fin 12) : pendingIssue s c = ∑ i : Fin 24, claim s.orders[i] c := by
  rw [Fin.sum_univ_def]
  rfl

/-- A change at one order changes the PENDING sum by its claim. -/
theorem pendingIssue_put {i : Fin 24} (h : ∀ j, j ≠ i → t.orders[j] = s.orders[j]) (c : Fin 12) :
    pendingIssue t c + claim s.orders[i] c = pendingIssue s c + claim t.orders[i] c := by
  have hs := Finset.add_sum_erase Finset.univ (fun j => claim s.orders[j] c) (Finset.mem_univ i)
  have ht := Finset.add_sum_erase Finset.univ (fun j => claim t.orders[j] c) (Finset.mem_univ i)
  have hrest : ∑ j ∈ Finset.univ.erase i, claim t.orders[j] c = ∑ j ∈ Finset.univ.erase i, claim s.orders[j] c :=
    Finset.sum_congr rfl fun j hj => by rw [h j (Finset.ne_of_mem_erase hj)]
  rw [pendingIssue_eq, pendingIssue_eq]
  omega

theorem claim_le (s : State) (i : Fin 24) (c : Fin 12) : claim s.orders[i] c ≤ pendingIssue s c := by
  rw [pendingIssue_eq]
  exact Finset.single_le_sum (f := fun j => claim s.orders[j] c) (fun _ _ => Nat.zero_le _) (Finset.mem_univ i)

theorem claim_pending {o : Order} (h : o.state = .pending) (c : Fin 12) : claim o c = o.issue[c] := if_pos h

theorem claim_other {o : Order} (h : o.state ≠ .pending) (c : Fin 12) : claim o c = 0 := if_neg h

/-- What a PENDING order claims is reserved, held and of enabled codes. -/
theorem RowsSound.issue (hs : RowsSound s) {i : Fin 24} (hi : s.orders[i].state = .pending) (c : Fin 12) :
    s.orders[i].issue[c] ≤ s.stock[c].reserved ∧ s.orders[i].issue[c] ≤ s.heldOf c ∧
      (s.denoms[c].enabled = false → s.orders[i].issue[c] = 0) := by
  obtain ⟨hheld, hreserved, hdisabled⟩ := hs c
  have hle := claim_le s i c
  rw [claim_pending hi] at hle
  refine ⟨by omega, by omega, fun h => ?_⟩
  rw [hdisabled h] at hreserved
  dsimp only at hreserved
  omega

end

end Sys2Proof.Machine.Effects

/-! PROOF. Every move keeps what the stock rests on. -/

namespace Sys2Proof.Machine.Effects

open Sys2Proof Sys2Proof.Machine Sys2Proof.Machine.TallyCount

section
variable {A : Passage → Prop} {s t : State} {n : Nat} {b b' : Bag}

/-! ## Moves that leave stock and accumulators -/

/-- What a move keeps of the stock. -/
def StockKept (s t : State) : Prop := StockSound t ∧ (Ledger s → Ledger t)

theorem ledger_congr (hdenoms : t.denoms = s.denoms) (hstock : t.stock = s.stock) (hacc : t.acc = s.acc) (hs : Ledger s) : Ledger t := by
  unfold Ledger Conserved
  rw [holding_congr hdenoms hstock, hacc]
  exact hs

/-- The records and the sessions may change; the stock, the orders and the accumulators stay. -/
theorem stockKept_of_still {ex : List Part} (h : unchangedBut ex s t) (hs : StockSound s) (hbags : ∀ b ∈ t.bags, BagSound s b)
    (hsessions : SessionSums t) (hdenoms : .denoms ∉ ex := by decide) (hstock : .stock ∉ ex := by decide)
    (horders : .orders ∉ ex := by decide) (hacc : .acc ∉ ex := by decide) : StockKept s t := by
  have hd : t.denoms = s.denoms := h .denoms hdenoms
  have hst : t.stock = s.stock := h .stock hstock
  have ho : t.orders = s.orders := h .orders horders
  obtain ⟨hrange, hrows, hvalued, -, -⟩ := stockSound_iff.mp hs
  refine ⟨stockSound_iff.mpr ⟨by rw [DenomsInRange, hd]; exact hrange, rowsSound_congr hd hst ho hrows, ordersValued_congr hd ho hvalued,
    fun b hb => bagSound_congr hd (fun i _ => by rw [ho]) (hbags b hb), hsessions⟩, ledger_congr hd hst (h .acc hacc)⟩

theorem stockKept_of_leaves {ex : List Part} (h : unchangedBut ex s t) (hs : StockSound s) (hdenoms : .denoms ∉ ex := by decide)
    (hstock : .stock ∉ ex := by decide) (horders : .orders ∉ ex := by decide) (hacc : .acc ∉ ex := by decide)
    (hbags : .bags ∉ ex := by decide) (hsessions : .sessions ∉ ex := by decide) : StockKept s t := by
  obtain ⟨-, -, -, hb, hx⟩ := stockSound_iff.mp hs
  exact stockKept_of_still h hs (by rw [h .bags hbags]; exact hb) (sessionSums_congr (h .denoms hdenoms) (h .sessions hsessions) hx)
    hdenoms hstock horders hacc

/-- The records change by the register's rules, none is added, and the sessions stay. -/
theorem stockKept_of_register {ex : List Part} (hreg : Register A s t.bags) (hlength : t.bags.length ≤ s.bags.length) (h : unchangedBut ex s t)
    (hd : SealsDistinct s) (hs : StockSound s) (hdenoms : .denoms ∉ ex := by decide) (hstock : .stock ∉ ex := by decide)
    (horders : .orders ∉ ex := by decide) (hacc : .acc ∉ ex := by decide) (hsessions : .sessions ∉ ex := by decide) : StockKept s t := by
  obtain ⟨-, -, -, hb, hx⟩ := stockSound_iff.mp hs
  exact stockKept_of_still h hs (hreg.bagsSound hlength hd hb) (sessionSums_congr (h .denoms hdenoms) (h .sessions hsessions) hx)
    hdenoms hstock horders hacc

/-- One session changes, and with it at most its record. -/
theorem stockKept_of_session {x : Fin 4} {v : Session} {u : State} (hu : unchangedBut [.bags] s u) (hreg : Register A s u.bags)
    (hlength : u.bags.length ≤ s.bags.length) (hv : v.state ≠ .idle → EnabledOnly s v.accepted ∧ EnabledOnly s v.suspect)
    (hd : SealsDistinct s) (hs : StockSound s) : StockKept s (setSession x v u) := by
  obtain ⟨-, -, -, hb, hx⟩ := stockSound_iff.mp hs
  refine stockKept_of_still (unchangedBut_trans hu (setSession_leaves x v u)) hs (hreg.bagsSound hlength hd hb) fun y hy => ?_
  have hdenoms : u.denoms = s.denoms := hu .denoms (by decide)
  have hsessions : u.sessions = s.sessions := hu .sessions (by decide)
  have hrow : (setSession x v u).sessions[y] = if x = y then v else s.sessions[y] := by
    show (put u.sessions x v)[y] = _
    rw [hsessions, put_get]
  have honly (w : Vector Nat 12) (hw : EnabledOnly s w) : EnabledOnly (setSession x v u) w := enabledOnly_congr (s := s) hdenoms hw
  rw [hrow] at hy ⊢
  split at hy
  · next he =>
    rw [if_pos he]
    exact ⟨honly _ (hv hy).1, honly _ (hv hy).2⟩
  · next he =>
    rw [if_neg he]
    exact ⟨honly _ (hx y hy).1, honly _ (hx y hy).2⟩

theorem askRegister_length (n : Nat) (move : Bag → Except Code Bag) (s : State) : (askRegister n move s).bags.length = s.bags.length := by
  unfold askRegister
  rcases transition_spec n move s with ⟨-, h⟩ | ⟨b, c, -, -, h⟩ | ⟨b, b', -, -, h⟩ <;> rw [h]
  exact List.length_map _

theorem session_sums (hs : StockSound s) {x : Fin 4} (hx : s.sessions[x].state ≠ .idle) :
    EnabledOnly s s.sessions[x].accepted ∧ EnabledOnly s s.sessions[x].suspect := (stockSound_iff.mp hs).2.2.2.2 x hx

theorem enabledOnly_zero (s : State) : EnabledOnly s Session.reset.accepted ∧ EnabledOnly s Session.reset.suspect := by
  have hzero : ∀ c : Fin 12, Session.reset.accepted[c] = 0 ∧ Session.reset.suspect[c] = 0 := by decide
  exact ⟨fun c _ => (hzero c).1, fun c _ => (hzero c).2⟩

/-- The stock changes within its rows, and the rest stays. -/
theorem stockSound_rows (hdenoms : t.denoms = s.denoms) (hrest : t.orders = s.orders ∧ t.bags = s.bags ∧ t.sessions = s.sessions)
    (hs : StockSound s) (hrows : RowsSound t) : StockSound t := by
  obtain ⟨hrange, -, hvalued, hbags, hsessions⟩ := stockSound_iff.mp hs
  obtain ⟨horders, hb, hx⟩ := hrest
  refine stockSound_iff.mpr ⟨by rw [DenomsInRange, hdenoms]; exact hrange, hrows, ordersValued_congr hdenoms horders hvalued, ?_,
    sessionSums_congr hdenoms hx hsessions⟩
  rw [hb]
  exact fun b hm => bagSound_congr hdenoms (fun i _ => by rw [horders]) (hbags b hm)

/-! ## The books (R21, R142) -/

theorem openAccumulators_acc (s : State) : (openAccumulators s).acc = {
    opening := (satNat (holdingValue s)).1
    countedIn := 0
    restocked := 0
    madeUp := 0
    adjustment := 0
    saturated := (satNat (holdingValue s)).2 } := rfl

theorem satNat_of_range {n : Nat} (h : (satNat n).2 = false) : (satNat n).1 = n := by
  simp only [satNat, decide_eq_false_iff_not, not_lt] at h
  exact Nat.min_eq_left h

theorem stockKept_openBooks (hs : StockSound s) : StockKept s (openAccumulators s) := by
  have hleaves := openAccumulators_leaves s
  have hd : (openAccumulators s).denoms = s.denoms := hleaves .denoms (by decide)
  have hst : (openAccumulators s).stock = s.stock := hleaves .stock (by decide)
  have ho : (openAccumulators s).orders = s.orders := hleaves .orders (by decide)
  refine ⟨stockSound_rows hd ⟨ho, hleaves .bags (by decide), hleaves .sessions (by decide)⟩ hs
    (rowsSound_congr hd hst ho (stockSound_iff.mp hs).2.1), fun _ hsat => ?_⟩
  rw [openAccumulators_acc] at hsat
  unfold Conserved
  rw [holding_congr hd hst, openAccumulators_acc]
  dsimp only at hsat ⊢
  rw [satNat_of_range hsat]
  simp

/-! ## A denomination rewritten (R5 to R7) -/

/-- Nothing counts the code: no stock, no PENDING issue, no live bag and no session. -/
structure Unused (s : State) (c : Fin 12) : Prop where
  row : s.stock[c] = { loose := 0, straps := 0, reserved := 0, suspect := 0 }
  orders : ∀ i : Fin 24, s.orders[i].state = .pending → s.orders[i].issue[c] = 0
  bags : ∀ b ∈ s.bags, b.state.terminal = false → b.kind.counted = false → ∀ v, b.counts = some v → v[c] = 0
  sessions : ∀ x : Fin 4, s.sessions[x].state ≠ .idle → s.sessions[x].accepted[c] = 0 ∧ s.sessions[x].suspect[c] = 0

/-- A code that is not in use is counted nowhere. -/
theorem unused_of_not_inUse (hs : StockSound s) {c : Fin 12} (hc : s.denoms[c].enabled = true) (h : inUse s c = false) : Unused s c := by
  obtain ⟨hrange, hrows, -, -, -⟩ := stockSound_iff.mp hs
  obtain ⟨⟨⟨⟨hheld, hreserved⟩, hsuspect⟩, hbags⟩, hsessions⟩ :
      (((s.heldOf c = 0 ∧ s.stock[c].reserved = 0) ∧ s.stock[c].suspect = 0) ∧
        (s.bags.any fun b => !b.state.terminal && decide (0 < b.countOf c)) = false) ∧
      anyRow (fun (x : Session) => decide (x.state ≠ .idle) && (decide (0 < x.accepted[c]) || decide (0 < x.suspect[c]))) s.sessions = false := by
    unfold inUse at h
    simp only [Bool.or_eq_false_iff, decide_eq_false_iff_not, not_lt, Nat.le_zero] at h
    exact h
  have hloose : s.stock[c].loose = 0 ∧ s.stock[c].straps = 0 := by
    have hstrap := (hrange c hc).2.2.1
    rw [State.heldOf, held] at hheld
    rcases Nat.mul_eq_zero.mp (Nat.eq_zero_of_add_eq_zero_left hheld) with h | h <;> omega
  refine ⟨?_, fun i hi => ?_, fun b hb hterminal _ v hv => ?_, fun x hx => ?_⟩
  · cases hr : s.stock[c] with
    | mk l k r u =>
      rw [hr] at hloose hreserved hsuspect
      obtain ⟨rfl, rfl⟩ := hloose
      dsimp only at hreserved hsuspect
      subst hreserved hsuspect
      rfl
  · have hle := (hrows.issue hi c).1
    omega
  · have hb' := (List.any_eq_false.mp hbags) b hb
    simpa [hterminal, Bag.countOf, hv] using hb'
  · have hx' := (anyRow_false_iff _ _).mp hsessions x
    simp only [ne_eq, decide_not, Bool.and_eq_false_imp, Bool.not_eq_eq_eq_not, Bool.not_true, decide_eq_false_iff_not,
      Bool.or_eq_false_iff, not_lt, Nat.le_zero] at hx'
    exact hx' hx

/-- A disabled code is counted nowhere. -/
theorem unused_of_disabled (hs : StockSound s) {c : Fin 12} (hc : s.denoms[c].enabled = false) : Unused s c := by
  obtain ⟨-, hrows, -, hbags, hsessions⟩ := stockSound_iff.mp hs
  refine ⟨(hrows c).2.2 hc, fun i hi => (hrows.issue hi c).2.2 hc, fun b hb hterminal hkind v hv => ?_,
    fun x hx => ⟨(hsessions x hx).1 c hc, (hsessions x hx).2 c hc⟩⟩
  obtain ⟨⟨w, hw, -, honly⟩, -⟩ := hbags b hb hterminal hkind
  rw [hw] at hv
  cases hv
  exact honly c hc

/-- A write to DENOM that is taken leaves face, strap and enable, or the code is counted nowhere. -/
theorem denom_kept_or_unused (hs : StockSound s) {c : Fin 12} {d : Denom} (h : (changesHeld s.denoms[c] d && inUse s c) = false) :
    (d.face = s.denoms[c].face ∧ d.strap = s.denoms[c].strap ∧ d.enabled = s.denoms[c].enabled) ∨ Unused s c := by
  cases hc : s.denoms[c].enabled with
  | false => exact .inr (unused_of_disabled hs hc)
  | true =>
    cases hu : inUse s c with
    | false => exact .inr (unused_of_not_inUse hs hc hu)
    | true =>
      rw [hu, Bool.and_true, changesHeld, hc, Bool.true_and] at h
      simp only [Bool.or_eq_false_iff, decide_eq_false_iff_not, not_not, Bool.not_eq_eq_eq_not, Bool.not_false] at h
      obtain ⟨⟨⟨hface, -⟩, hstrap⟩, henabled⟩ := h
      exact .inl ⟨hface.symm, hstrap.symm, henabled⟩

/-- A write to DENOM leaves what the stock rests on. -/
theorem stockKept_denom {c : Fin 12} {d : Denom} (hs : StockSound s) (hrange : DenomsInRange (s.setDenoms (put s.denoms c d)))
    (hd : (d.face = s.denoms[c].face ∧ d.strap = s.denoms[c].strap ∧ d.enabled = s.denoms[c].enabled) ∨ Unused s c) :
    StockKept s (s.setDenoms (put s.denoms c d)) := by
  obtain ⟨-, hrows, hvalued, hbags, hsessions⟩ := stockSound_iff.mp hs
  have hrow (k : Fin 12) : (s.setDenoms (put s.denoms c d)).denoms[k] = if c = k then d else s.denoms[k] := put_get _ _ _ _
  have hheld (k : Fin 12) : (s.setDenoms (put s.denoms c d)).heldOf k = s.heldOf k := by
    rw [State.heldOf, State.heldOf, hrow]
    split
    · next he =>
      subst he
      rcases hd with ⟨-, hstrap, -⟩ | hu
      · show s.stock[c].loose + s.stock[c].straps * d.strap = _
        rw [hstrap]
        rfl
      · show s.stock[c].loose + s.stock[c].straps * d.strap = s.stock[c].loose + s.stock[c].straps * s.denoms[c].strap
        rw [hu.row]
        simp
    · rfl
  have hvalue {v : Vector Nat 12} (hv : Unused s c → v[c] = 0) : (s.setDenoms (put s.denoms c d)).valueOf v = s.valueOf v := by
    refine sumCodes_congr fun k => ?_
    rw [hrow]
    split
    · next he =>
      subst he
      rcases hd with ⟨hface, -, -⟩ | hu
      · rw [hface]
      · rw [hv hu, Nat.zero_mul, Nat.zero_mul]
    · rfl
  have honly {v : Vector Nat 12} (hv : Unused s c → v[c] = 0) (h : EnabledOnly s v) : EnabledOnly (s.setDenoms (put s.denoms c d)) v := by
    intro k hk
    rw [hrow] at hk
    split at hk
    · next he =>
      subst he
      rcases hd with ⟨-, -, henabled⟩ | hu
      · exact h c (henabled ▸ hk)
      · exact hv hu
    · exact h k hk
  refine ⟨stockSound_iff.mpr ⟨hrange, fun k => ?_, fun i hi => ?_, fun b hb hterminal hkind => ?_, fun x hx => ?_⟩, fun hledger hsat => ?_⟩
  · rw [hheld]
    refine ⟨(hrows k).1, (hrows k).2.1, fun hk => ?_⟩
    rw [hrow] at hk
    split at hk
    · next he =>
      subst he
      rcases hd with ⟨-, -, henabled⟩ | hu
      · exact (hrows c).2.2 (henabled ▸ hk)
      · exact hu.row
    · exact (hrows k).2.2 hk
  · exact (hvalued i hi).trans (hvalue fun hu => hu.orders i hi).symm
  · obtain ⟨⟨v, hv, hdeclared, hv'⟩, horder⟩ := hbags b hb hterminal hkind
    have hzero (hu : Unused s c) : v[c] = 0 := hu.bags b hb hterminal hkind v hv
    exact ⟨⟨v, hv, by rw [hvalue hzero]; exact hdeclared, honly hzero hv'⟩, horder⟩
  · exact ⟨honly (fun hu => (hu.sessions x hx).1) (hsessions x hx).1, honly (fun hu => (hu.sessions x hx).2) (hsessions x hx).2⟩
  · have hholding : holdingValue (s.setDenoms (put s.denoms c d)) = holdingValue s := by
      refine sumCodes_congr fun k => ?_
      rw [hheld, hrow]
      split
      · next he =>
        subst he
        rcases hd with ⟨hface, -, henabled⟩ | hu
        · rw [hface, henabled]
        · have hzero : s.heldOf c = 0 := by
            rw [State.heldOf, hu.row]
            simp [held]
          rw [hzero]
          simp
      · rfl
    unfold Conserved
    rw [hholding]
    exact hledger hsat

/-! ## The stock alone (R11, R18, R19) -/

/-- A sum within its range is kept as it is. -/
theorem satInt_of_range {i : Int} (h : (satInt i).2 = false) : (satInt i).1 = i := by
  simp only [satInt, Bool.or_eq_false_iff, decide_eq_false_iff_not, not_lt] at h
  rw [satInt_fst, min_eq_right h.2, max_eq_right h.1]

theorem stockKept_stockSet {c : Fin 12} {loose straps : Nat} (hc : s.denoms[c].enabled = true)
    (hle : s.stock[c].reserved ≤ loose + straps * s.denoms[c].strap) (hs : StockSound s) : StockKept s (setStockCounts c loose straps s) := by
  obtain ⟨-, hrows, -, -, -⟩ := stockSound_iff.mp hs
  have hrow (k : Fin 12) : (setStockCounts c loose straps s).stock[k] =
      if c = k then { s.stock[c] with loose := loose, straps := straps } else s.stock[k] := put_get _ _ _ _
  refine ⟨stockSound_rows (s := s) rfl ⟨rfl, rfl, rfl⟩ hs fun k => ?_, fun hledger hsat => ?_⟩
  · rw [setStockCounts_held, hrow]
    by_cases he : c = k
    · subst he
      rw [if_pos rfl, if_pos rfl]
      exact ⟨hle, (hrows c).2.1, fun hk => absurd (hc.symm.trans hk) (by decide)⟩
    · rw [if_neg he, if_neg he]
      exact hrows k
  · have hsat' : (s.acc.saturated || (satInt (s.acc.adjustment +
        ((held s.denoms[c] { s.stock[c] with loose := loose, straps := straps } : Int) - s.heldOf c) * s.denoms[c].face)).2) = false := hsat
    rw [Bool.or_eq_false_iff] at hsat'
    refine setStockCounts_conserved (hledger hsat'.1) hc ?_
    exact satInt_of_range hsat'.2

theorem stockKept_suspect (c : Fin 12) (n : Nat) (hs : StockSound s) :
    StockKept s (s.setStock (put s.stock c { s.stock[c] with suspect := s.stock[c].suspect - n })) := by
  obtain ⟨-, hrows, -, -, -⟩ := stockSound_iff.mp hs
  have hrow (k : Fin 12) : (s.setStock (put s.stock c { s.stock[c] with suspect := s.stock[c].suspect - n })).stock[k] =
      if c = k then { s.stock[c] with suspect := s.stock[c].suspect - n } else s.stock[k] := put_get _ _ _ _
  have hheld (k : Fin 12) : (s.setStock (put s.stock c { s.stock[c] with suspect := s.stock[c].suspect - n })).heldOf k = s.heldOf k := by
    rw [State.heldOf, hrow]
    split
    · next he =>
      subst he
      rfl
    · rfl
  refine ⟨stockSound_rows (s := s) rfl ⟨rfl, rfl, rfl⟩ hs fun k => ?_, fun hledger hsat => ?_⟩
  · rw [hheld, hrow]
    split
    · next he =>
      subst he
      refine ⟨(hrows c).1, (hrows c).2.1, fun hk => ?_⟩
      rw [(hrows c).2.2 hk]
      simp
    · exact hrows k
  · have hholding : holdingValue (s.setStock (put s.stock c { s.stock[c] with suspect := s.stock[c].suspect - n })) = holdingValue s :=
      sumCodes_congr fun k => by rw [hheld]; rfl
    unfold Conserved
    rw [hholding]
    exact hledger hsat

end

end Sys2Proof.Machine.Effects

/-! PROOF. The orders, the made-up bags and the counts; and with them what every step keeps of the stock. -/

namespace Sys2Proof.Machine.Effects

open Sys2Proof Sys2Proof.Machine Sys2Proof.Machine.TallyCount

section
variable {A : Passage → Prop} {s t : State} {n : Nat} {b b' : Bag} {i : Fin 24}

/-! ## One order changes (R68, R69) -/

/-- The law reads the held stock, the denominations and the accumulators. -/
theorem ledger_of_held (hheld : ∀ c : Fin 12, t.heldOf c = s.heldOf c) (hdenoms : t.denoms = s.denoms) (hacc : t.acc = s.acc)
    (hs : Ledger s) : Ledger t := by
  have hvalue : holdingValue t = holdingValue s := sumCodes_congr fun c => by rw [hheld, hdenoms]
  unfold Ledger Conserved
  rw [hvalue, hacc]
  exact hs

/-- One order changes; the rest of the invariant is shown on the state after it. -/
theorem stockSound_order (hdenoms : t.denoms = s.denoms) (horders : ∀ j, j ≠ i → t.orders[j] = s.orders[j]) (hrows : RowsSound t)
    (hvalued : t.orders[i].state = .pending → t.orders[i].issueValue = s.valueOf t.orders[i].issue) (hbags : ∀ b ∈ t.bags, BagSound t b)
    (hsessions : t.sessions = s.sessions) (hs : StockSound s) : StockSound t := by
  obtain ⟨hrange, -, hv, -, hx⟩ := stockSound_iff.mp hs
  refine stockSound_iff.mpr ⟨by rw [DenomsInRange, hdenoms]; exact hrange, hrows, fun j hj => ?_, hbags, sessionSums_congr hdenoms hsessions hx⟩
  rw [valueOf_congr hdenoms]
  by_cases hji : j = i
  · subst hji
    exact hvalued hj
  · rw [horders j hji] at hj ⊢
    exact hv j hj

/-- The records stay sound where the order that changes was not MADE_UP. -/
theorem bagsSound_order (hdenoms : t.denoms = s.denoms) (horders : ∀ j, j ≠ i → t.orders[j] = s.orders[j])
    (hi : s.orders[i].state ≠ .madeUp) (hs : StockSound s) : ∀ b ∈ s.bags, BagSound t b := fun b hb =>
  bagSound_congr hdenoms (fun j hj => horders j (by rintro rfl; exact hi hj)) ((stockSound_iff.mp hs).2.2.2.1 b hb)

theorem put_order (i : Fin 24) (o : Order) (s : State) (j : Fin 24) : (put s.orders i o)[j] = if i = j then o else s.orders[j] := put_get _ _ _ _

theorem stockKept_newOrder {o : Order} (hfree : s.orders[i].state = .free) (ho : o.state = .pending) (hvalue : o.issueValue = s.valueOf o.issue)
    (hissue : ∀ c : Fin 12, o.issue[c] ≤ s.freeOf c) (hs : StockSound s) : StockKept s (reserve o.issue (setOrder i o s)) := by
  have hrow (c : Fin 12) : (reserve o.issue (setOrder i o s)).stock[c] = { s.stock[c] with reserved := s.stock[c].reserved + o.issue[c] } := ofFn_row _ c
  have hself : (reserve o.issue (setOrder i o s)).orders[i] = o := (put_order i o s i).trans (if_pos rfl)
  have hother (j : Fin 24) (hj : j ≠ i) : (reserve o.issue (setOrder i o s)).orders[j] = s.orders[j] :=
    (put_order i o s j).trans (if_neg hj.symm)
  have hheld (c : Fin 12) : (reserve o.issue (setOrder i o s)).heldOf c = s.heldOf c := by
    rw [State.heldOf, hrow]
    rfl
  have hrows := (stockSound_iff.mp hs).2.1
  refine ⟨stockSound_order (s := s) (i := i) rfl hother (fun c => ?_) (fun _ => ?_) (bagsSound_order (s := s) (i := i) rfl hother ?_ hs) rfl hs,
    ledger_of_held hheld rfl rfl⟩
  · obtain ⟨hle, hreserved, hdisabled⟩ := hrows c
    have hput := pendingIssue_put hother c
    rw [hself, claim_pending ho, claim_other (by rw [hfree]; decide)] at hput
    have hfreeOf := hissue c
    rw [State.freeOf] at hfreeOf
    rw [hheld, hrow]
    refine ⟨by dsimp only; omega, by dsimp only; omega, fun hd => ?_⟩
    have hzero := hdisabled hd
    have hnone : o.issue[c] = 0 := by
      rw [State.heldOf, hzero] at hfreeOf
      simp only [held] at hfreeOf
      omega
    rw [hnone]
    exact hzero
  · rw [hself]
    exact hvalue
  · rw [hfree]
    decide

theorem freeOrder_row (i j : Fin 24) (o : OrderOutcome) (s : State) :
    (freeOrder i o s).orders[j] = if i = j then { s.orders[i] with state := .free, outcome := o } else s.orders[j] := put_order i _ s j

theorem release_row (issue : Vector Nat 12) (s : State) (c : Fin 12) :
    (release issue s).stock[c] = { s.stock[c] with reserved := s.stock[c].reserved - issue[c] } := ofFn_row _ c

theorem heldOf_row (hdenoms : t.denoms = s.denoms) {c : Fin 12} (h : t.stock[c].loose = s.stock[c].loose ∧ t.stock[c].straps = s.stock[c].straps) :
    t.heldOf c = s.heldOf c := by
  rw [State.heldOf, State.heldOf, held, held, hdenoms, h.1, h.2]

theorem stockKept_cancel (hi : s.orders[i].state = .pending) (hs : StockSound s) :
    StockKept s (freeOrder i .cancelled (release s.orders[i].issue s)) := by
  have hrelease := release_leaves s.orders[i].issue s
  have hreleased := release_row s.orders[i].issue s
  have hleaves := unchangedBut_trans hrelease (freeOrder_leaves i .cancelled _)
  have horder (j : Fin 24) : (freeOrder i .cancelled (release s.orders[i].issue s)).orders[j] =
      if i = j then { s.orders[i] with state := .free, outcome := .cancelled } else s.orders[j] := by
    have ho : (release s.orders[i].issue s).orders = s.orders := hrelease .orders (by decide)
    rw [freeOrder_row, ho]
  have hstock : (freeOrder i .cancelled (release s.orders[i].issue s)).stock = (release s.orders[i].issue s).stock :=
    freeOrder_leaves i .cancelled _ .stock (by decide)
  generalize freeOrder i .cancelled (release s.orders[i].issue s) = t at hleaves horder hstock
  have hdenoms : t.denoms = s.denoms := hleaves .denoms (by decide)
  have hbags : t.bags = s.bags := hleaves .bags (by decide)
  have hrow (c : Fin 12) : t.stock[c] = { s.stock[c] with reserved := s.stock[c].reserved - s.orders[i].issue[c] } := by
    rw [hstock]
    exact hreleased c
  have hself : t.orders[i] = { s.orders[i] with state := .free, outcome := .cancelled } := (horder i).trans (if_pos rfl)
  have hother (j : Fin 24) (hj : j ≠ i) : t.orders[j] = s.orders[j] := (horder j).trans (if_neg hj.symm)
  have hheld (c : Fin 12) : t.heldOf c = s.heldOf c := heldOf_row hdenoms (by rw [hrow]; exact ⟨rfl, rfl⟩)
  have hrows := (stockSound_iff.mp hs).2.1
  have hkept := bagsSound_order hdenoms hother (by rw [hi]; decide) hs
  refine ⟨stockSound_order hdenoms hother (fun c => ?_) (fun h => ?_) (by rw [hbags]; exact hkept) (hleaves .sessions (by decide)) hs,
    ledger_of_held hheld hdenoms (hleaves .acc (by decide))⟩
  · obtain ⟨hle, hreserved, hdisabled⟩ := hrows c
    have hput := pendingIssue_put hother c
    rw [hself, claim_pending hi, claim_other (show OrderState.free ≠ .pending by decide)] at hput
    rw [hheld, hrow, hdenoms]
    refine ⟨by dsimp only; omega, by dsimp only; omega, fun hd => ?_⟩
    rw [hdisabled hd]
    simp
  · rw [hself] at h
    cases h

theorem drawPieces_none (d : Denom) :
    drawPieces d { loose := 0, straps := 0, reserved := 0, suspect := 0 } 0 = { loose := 0, straps := 0, reserved := 0, suspect := 0 } := by
  have hbroken : strapsBroken d { loose := 0, straps := 0, reserved := 0, suspect := 0 } 0 = 0 := by
    unfold strapsBroken
    rcases Nat.eq_zero_or_pos d.strap with h | h
    · rw [h, Nat.div_zero]
    · exact Nat.div_eq_of_lt (by dsimp only; omega)
  unfold drawPieces
  rw [hbroken]
  simp

theorem drawFloat_acc (issue : Vector Nat 12) (v : Nat) (s : State) : (drawFloat issue v s).acc = { s.acc with
    madeUp := (satNat (s.acc.madeUp + v)).1
    saturated := s.acc.saturated || (satNat (s.acc.madeUp + v)).2 } := rfl

theorem drawStraps_acc (counts : Vector Nat 12) (v : Nat) (s : State) : (drawStraps counts v s).acc = { s.acc with
    madeUp := (satNat (s.acc.madeUp + v)).1
    saturated := s.acc.saturated || (satNat (s.acc.madeUp + v)).2 } := rfl

/-- An accumulator that is not saturated after a movement was not before, and the movement stayed in range. -/
theorem range_of_saturated {x : Bool} {n : Nat} (h : (x || (satNat n).2) = false) : x = false ∧ n ≤ Config.top32 := by
  rw [Bool.or_eq_false_iff] at h
  exact ⟨h.1, by simpa [satNat] using h.2⟩

theorem conserved_congr (hdenoms : t.denoms = s.denoms) (hstock : t.stock = s.stock) (hacc : t.acc = s.acc) (h : Conserved s) : Conserved t := by
  unfold Conserved
  rw [holding_congr hdenoms hstock, hacc]
  exact h

/-! ## The made-up bags (R15, R16, R71) -/

theorem mem_addBag {c x : Bag} {l : List Bag} (h : c ∈ l ++ [x]) : c ∈ l ∨ c = x := by
  rcases List.mem_append.mp h with h | h
  · exact .inl h
  · exact .inr (List.mem_singleton.mp h)

theorem makeUpOrder_row (i j : Fin 24) (n : Nat) (s : State) :
    (makeUpOrder i n s).orders[j] = if i = j then { s.orders[i] with state := .madeUp, sealNo := some n } else s.orders[j] := put_order i _ s j

theorem makeUpOrder_draw (i : Fin 24) (n : Nat) (s : State) :
    (makeUpOrder i n s).stock = (drawFloat s.orders[i].issue s.orders[i].issueValue s).stock ∧
      (makeUpOrder i n s).acc = (drawFloat s.orders[i].issue s.orders[i].issueValue s).acc := ⟨rfl, rfl⟩

theorem makeUpOrder_bags (i : Fin 24) (n : Nat) (s : State) : (makeUpOrder i n s).bags = s.bags ++
    [newBag (drawFloat s.orders[i].issue s.orders[i].issueValue s) .floatBag .madeUp n s.orders[i].issueValue
      (some s.orders[i].till) (some i) (some s.orders[i].issue)] := rfl

theorem drawFloat_row (issue : Vector Nat 12) (v : Nat) (s : State) (c : Fin 12) :
    (drawFloat issue v s).stock[c] = drawPieces s.denoms[c] s.stock[c] issue[c] := ofFn_row _ c

theorem drawStraps_row (counts : Vector Nat 12) (v : Nat) (s : State) (c : Fin 12) :
    (drawStraps counts v s).stock[c] = { s.stock[c] with straps := s.stock[c].straps - counts[c] / s.denoms[c].strap } := ofFn_row _ c

theorem stockKept_makeUp (n : Nat) (hi : s.orders[i].state = .pending) (hs : StockSound s) : StockKept s (makeUpOrder i n s) := by
  obtain ⟨hrange, hrows, hvalued, -, -⟩ := stockSound_iff.mp hs
  have hvalue := hvalued i hi
  have honly : EnabledOnly s s.orders[i].issue := fun c => (hrows.issue hi c).2.2
  have hleaves := makeUpOrder_leaves i n s
  have horder (j : Fin 24) := makeUpOrder_row i j n s
  have hdraw := makeUpOrder_draw i n s
  have hbags := makeUpOrder_bags i n s
  generalize makeUpOrder i n s = t at hleaves horder hdraw hbags ⊢
  have hdenoms : t.denoms = s.denoms := hleaves .denoms (by decide)
  have hdrawn : (drawFloat s.orders[i].issue s.orders[i].issueValue s).denoms = s.denoms := drawFloat_leaves _ _ s .denoms (by decide)
  have hrow (c : Fin 12) : t.stock[c] = drawPieces s.denoms[c] s.stock[c] s.orders[i].issue[c] := by
    rw [hdraw.1]
    exact drawFloat_row _ _ s c
  have hself : t.orders[i] = { s.orders[i] with state := .madeUp, sealNo := some n } := (horder i).trans (if_pos rfl)
  have hother (j : Fin 24) (hj : j ≠ i) : t.orders[j] = s.orders[j] := (horder j).trans (if_neg hj.symm)
  refine ⟨stockSound_order hdenoms hother (fun c => ?_) (fun h => ?_) (fun c hc => ?_) (hleaves .sessions (by decide)) hs, fun hledger hsat => ?_⟩
  · obtain ⟨hle, hreserved, hdisabled⟩ := hrows c
    obtain ⟨hle', hheld', hzero⟩ := hrows.issue hi c
    have hput := pendingIssue_put hother c
    rw [hself, claim_pending hi, claim_other (show OrderState.madeUp ≠ .pending by decide)] at hput
    rw [hdenoms]
    cases hd : s.denoms[c].enabled with
    | true =>
      have hheld : t.heldOf c + s.orders[i].issue[c] = s.heldOf c := by
        rw [State.heldOf, hrow, hdenoms]
        exact held_drawPieces (hrange c hd).2.2.1 hheld'
      have hkept : t.stock[c].reserved = s.stock[c].reserved - s.orders[i].issue[c] := by
        rw [hrow]
        rfl
      rw [hkept]
      exact ⟨by omega, by omega, nofun⟩
    | false =>
      rw [State.heldOf, hrow, hdisabled hd, hzero hd, drawPieces_none]
      have hnone := hreserved
      rw [hdisabled hd] at hnone
      dsimp only at hnone
      exact ⟨Nat.zero_le _, by dsimp only; omega, fun _ => rfl⟩
  · rw [hself] at h
    cases h
  · rw [hbags] at hc
    rcases mem_addBag hc with hc | rfl
    · exact bagsSound_order hdenoms hother (by rw [hi]; decide) hs c hc
    · refine fun _ _ => ⟨⟨_, rfl, ?_, enabledOnly_congr hdenoms honly⟩, ?_⟩
      · rw [valueOf_congr hdenoms]
        exact hvalue
      · split
        · next h => cases h
        exact ⟨i, rfl, by rw [hself], by rw [hself]; rfl⟩
  · rw [hdraw.2, drawFloat_acc] at hsat
    obtain ⟨hunsaturated, hle⟩ := range_of_saturated hsat
    rw [hvalue] at hle hdraw hdrawn
    exact conserved_congr (hdenoms.trans hdrawn.symm) hdraw.1 hdraw.2
      (drawFloat_conserved (hledger hunsaturated) hrange honly (fun c => (hrows.issue hi c).2.1) hle)

/-- The rows of the stock where reservations stay and nothing comes below them. -/
theorem rowsSound_of_held (hdenoms : t.denoms = s.denoms) (horders : ∀ c, pendingIssue t c = pendingIssue s c)
    (hreserved : ∀ c : Fin 12, t.stock[c].reserved = s.stock[c].reserved) (hheld : ∀ c : Fin 12, s.stock[c].reserved ≤ t.heldOf c)
    (hdisabled : ∀ c : Fin 12, s.denoms[c].enabled = false → t.stock[c] = s.stock[c]) (hs : RowsSound s) : RowsSound t := fun c => by
  rw [hreserved, horders, hdenoms]
  exact ⟨hheld c, (hs c).2.1, fun hd => (hdisabled c hd).trans ((hs c).2.2 hd)⟩

theorem stockKept_consign {counts : Vector Nat 12} (n : Nat) (honly : EnabledOnly s counts)
    (hstraps : ∀ c : Fin 12, counts[c] ≤ s.freeOf c ∧
      (s.denoms[c].enabled = true → counts[c] % s.denoms[c].strap = 0 ∧ counts[c] / s.denoms[c].strap ≤ s.stock[c].straps)) (hs : StockSound s) :
    StockKept s (addBag (newBag s .consignment .madeUp n (s.valueOf counts) none none (some counts)) (drawStraps counts (s.valueOf counts) s)) := by
  obtain ⟨hrange, hrows, hvalued, hbags, hsessions⟩ := stockSound_iff.mp hs
  have hall (c : Fin 12) : counts[c] % s.denoms[c].strap = 0 ∧ counts[c] / s.denoms[c].strap ≤ s.stock[c].straps := by
    cases hd : s.denoms[c].enabled with
    | true => exact (hstraps c).2 hd
    | false => rw [honly c hd, Nat.zero_mod, Nat.zero_div]; exact ⟨rfl, Nat.zero_le _⟩
  have hdrawn (c : Fin 12) : (drawStraps counts (s.valueOf counts) s).heldOf c + counts[c] = s.heldOf c :=
    drawStraps_held _ (hall c).1 (hall c).2
  have hconserved (hrangeOf : s.acc.madeUp + s.valueOf counts ≤ Config.top32) (hc : Conserved s) :=
    drawStraps_conserved hc honly hall hrangeOf
  have hrow (c : Fin 12) := drawStraps_row counts (s.valueOf counts) s c
  have hacc := drawStraps_acc counts (s.valueOf counts) s
  have hleaves := drawStraps_leaves counts (s.valueOf counts) s
  generalize drawStraps counts (s.valueOf counts) s = u at hdrawn hconserved hrow hacc hleaves ⊢
  have hdenoms : u.denoms = s.denoms := hleaves .denoms (by decide)
  have horders : u.orders = s.orders := hleaves .orders (by decide)
  have hrows' : RowsSound u := by
    refine rowsSound_of_held hdenoms (pendingIssue_congr horders) (fun c => by rw [hrow]) (fun c => ?_) (fun c hd => ?_) hrows
    · have hfree := (hstraps c).1
      have hheld := hdrawn c
      have hle := (hrows c).1
      rw [State.freeOf] at hfree
      omega
    · rw [hrow, honly c hd, Nat.zero_div]
      rfl
  have hbag := addBag_leaves (newBag s .consignment .madeUp n (s.valueOf counts) none none (some counts)) u
  have hadded : (addBag (newBag s .consignment .madeUp n (s.valueOf counts) none none (some counts)) u).bags =
      u.bags ++ [newBag s .consignment .madeUp n (s.valueOf counts) none none (some counts)] := rfl
  generalize addBag (newBag s .consignment .madeUp n (s.valueOf counts) none none (some counts)) u = t at hbag hadded ⊢
  have hdenoms' : t.denoms = s.denoms := (hbag .denoms (by decide)).trans hdenoms
  have horders' : t.orders = s.orders := (hbag .orders (by decide)).trans horders
  have hstock' : t.stock = u.stock := hbag .stock (by decide)
  have hacc' : t.acc = u.acc := hbag .acc (by decide)
  refine ⟨stockSound_iff.mpr ⟨by rw [DenomsInRange, hdenoms']; exact hrange,
    rowsSound_congr (hbag .denoms (by decide)) hstock' (hbag .orders (by decide)) hrows', ordersValued_congr hdenoms' horders' hvalued,
    fun c hc => ?_, sessionSums_congr hdenoms' ((hbag .sessions (by decide)).trans (hleaves .sessions (by decide))) hsessions⟩,
    fun hledger hsat => ?_⟩
  · rw [hadded, hleaves .bags (by decide)] at hc
    rcases mem_addBag hc with hc | rfl
    · exact bagSound_congr hdenoms' (fun _ _ => by rw [horders']) (hbags c hc)
    · exact fun _ _ => ⟨⟨_, rfl, (valueOf_congr hdenoms' _).symm, enabledOnly_congr hdenoms' honly⟩, rfl⟩
  · rw [hacc', hacc] at hsat
    obtain ⟨hunsaturated, hle⟩ := range_of_saturated hsat
    exact conserved_congr (hbag .denoms (by decide)) hstock' hacc' (hconserved hle (hledger hunsaturated))

/-! ## Receipts and restocks (R17, R72) -/

/-- A float bag's order, when it is freed, is no other record's. -/
theorem bagsSound_freed (hdenoms : t.denoms = s.denoms) (horders : ∀ j, j ≠ i → t.orders[j] = s.orders[j])
    (hseal : s.orders[i].sealNo = some n) (hs : StockSound s) : ∀ c ∈ s.bags, c.sealNo ≠ n → BagSound t c := by
  intro c hc hn hterminal hkind
  obtain ⟨⟨v, hcounts, hvalue, honly⟩, horder⟩ := (stockSound_iff.mp hs).2.2.2.1 c hc hterminal hkind
  refine ⟨⟨v, hcounts, by rw [valueOf_congr hdenoms]; exact hvalue, enabledOnly_congr hdenoms honly⟩, ?_⟩
  split
  · next hk => rwa [if_pos hk] at horder
  · next hk =>
    rw [if_neg hk] at horder
    obtain ⟨j, hj, hstate, hsealj⟩ := horder
    have hji : j ≠ i := by
      rintro rfl
      rw [hseal] at hsealj
      exact hn (Option.some.inj hsealj).symm
    exact ⟨j, hj, by rw [horders j hji]; exact hstate, by rw [horders j hji]; exact hsealj⟩

/-- A made-up bag becomes terminal, and its order, if it has one, is freed. -/
theorem stockSound_delivered {u : State} {o : OrderOutcome} (hfind : findBag s n = some b) (hstate : b.state = .madeUp)
    (hkind : b.kind.counted = false) (hterminal : b'.state.terminal = true) (hu : unchangedBut [.stock, .acc] s u) (hrows : RowsSound u)
    (hs : StockSound s) : StockSound (match b.order with
      | some i => freeOrder i o (changeBag n (fun _ => b') u)
      | none => changeBag n (fun _ => b') u) := by
  obtain ⟨hrange, -, hvalued, hbags, hsessions⟩ := stockSound_iff.mp hs
  obtain ⟨hb, hn⟩ := findBag_some hfind
  obtain ⟨-, horder⟩ := hbags b hb (by rw [hstate]; rfl) hkind
  have hdenoms : u.denoms = s.denoms := hu .denoms (by decide)
  have horders : u.orders = s.orders := hu .orders (by decide)
  have hus : StockSound u := by
    refine stockSound_iff.mpr ⟨by rw [DenomsInRange, hdenoms]; exact hrange, hrows, ordersValued_congr hdenoms horders hvalued, ?_,
      sessionSums_congr hdenoms (hu .sessions (by decide)) hsessions⟩
    rw [show u.bags = s.bags from hu .bags (by decide)]
    exact fun c hc => bagSound_congr hdenoms (fun _ _ => by rw [horders]) (hbags c hc)
  have hchanged := changeBag_leaves n (fun _ => b') u
  have hmap : (changeBag n (fun _ => b') u).bags = u.bags.map fun c => if c.sealNo = n then b' else c := rfl
  have hcase {t : State} (hmap : t.bags = u.bags.map fun c => if c.sealNo = n then b' else c) (hrest : ∀ c ∈ u.bags, c.sealNo ≠ n → BagSound t c) :
      ∀ c ∈ t.bags, BagSound t c := by
    intro c hc
    rw [hmap] at hc
    obtain ⟨a, ha, rfl⟩ := List.mem_map.mp hc
    split
    · intro h
      rw [hterminal] at h
      cases h
    · next hne => exact hrest a ha hne
  generalize changeBag n (fun _ => b') u = v at hchanged hmap ⊢
  have hvd : v.denoms = u.denoms := hchanged .denoms (by decide)
  have hvo : v.orders = u.orders := hchanged .orders (by decide)
  have hrows' : RowsSound v := rowsSound_congr hvd (hchanged .stock (by decide)) hvo hrows
  have hvalued' := (stockSound_iff.mp hus).2.2.1
  split
  · next i hi =>
    have hfloat : b.kind ≠ .consignment := by
      intro hk
      rw [if_pos hk] at horder
      rw [horder] at hi
      cases hi
    rw [if_neg hfloat] at horder
    obtain ⟨j, hj, hmade, hseal⟩ := horder
    rw [hi] at hj
    cases hj
    have hfree := freeOrder_leaves i o v
    have hrow (j : Fin 24) := freeOrder_row i j o v
    generalize freeOrder i o v = t at hfree hrow ⊢
    have htd : t.denoms = u.denoms := (hfree .denoms (by decide)).trans hvd
    have hother (j : Fin 24) (hj : j ≠ i) : t.orders[j] = u.orders[j] := by rw [hrow, if_neg hj.symm, hvo]
    have hself : t.orders[i] = { v.orders[i] with state := .free, outcome := o } := (hrow i).trans (if_pos rfl)
    have hbags' : t.bags = u.bags.map fun c => if c.sealNo = n then b' else c := (hfree .bags (by decide)).trans hmap
    refine stockSound_order htd hother (fun c => ?_) (fun h => ?_) (hcase hbags' (bagsSound_freed htd hother ?_ hus))
      ((hfree .sessions (by decide)).trans (hchanged .sessions (by decide))) hus
    · have hput := pendingIssue_put hother c
      have hmade' : u.orders[i].state ≠ .pending := by
        rw [horders, hmade]
        decide
      rw [hself, claim_other hmade', claim_other (show OrderState.free ≠ .pending by decide)] at hput
      have hstock : t.stock = u.stock := (hfree .stock (by decide)).trans (hchanged .stock (by decide))
      rw [heldOf_congr htd hstock, hstock, htd]
      obtain ⟨hle, hreserved, hdisabled⟩ := hrows c
      exact ⟨hle, by omega, hdisabled⟩
    · rw [hself] at h
      cases h
    · rw [horders, hseal, hn]
  · refine stockSound_iff.mpr ⟨?_, hrows', ordersValued_congr hvd hvo hvalued', hcase hmap fun c hc _ => ?_,
      sessionSums_congr hvd (hchanged .sessions (by decide)) (stockSound_iff.mp hus).2.2.2.2⟩
    · rw [DenomsInRange, hvd, hdenoms]
      exact hrange
    · exact bagSound_congr hvd (fun _ _ => by rw [hvo]) ((stockSound_iff.mp hus).2.2.2.1 c hc)

end

end Sys2Proof.Machine.Effects

/-! PROOF. Every move, and with it every step, keeps what the stock rests on and the conservation law. -/

namespace Sys2Proof.Machine.Effects

open Sys2Proof Sys2Proof.Machine Sys2Proof.Machine.TallyCount

section
variable {A : Passage → Prop} {s t : State} {n : Nat} {b b' : Bag}

/-! ## The restock and the close (R17, R106) -/

theorem restocked_leaves (v : Nat) (counts : Vector Nat 12) (s : State) : unchangedBut [.stock, .acc] s (addRestocked v (addAll s counts)) :=
  unchangedBut_trans (setStock_leaves _ s) (setAcc_leaves _ _)

theorem addAll_row (counts : Vector Nat 12) (s : State) (c : Fin 12) :
    (addAll s counts).stock[c] = addPieces s.denoms[c] s.stock[c] counts[c] := ofFn_row _ c

theorem addRestocked_eq (v : Nat) (s : State) : (addRestocked v s).stock = s.stock ∧ (addRestocked v s).acc = { s.acc with
    restocked := (satNat (s.acc.restocked + v)).1
    saturated := s.acc.saturated || (satNat (s.acc.restocked + v)).2 } := ⟨rfl, rfl⟩

/-- A restock adds within every row. -/
theorem restocked_rows {counts : Vector Nat 12} (v : Nat) (honly : EnabledOnly s counts) (hs : RowsSound s) :
    RowsSound (addRestocked v (addAll s counts)) := by
  have hleaves := restocked_leaves v counts s
  have hstock := (addRestocked_eq v (addAll s counts)).1
  have hrow (c : Fin 12) := addAll_row counts s c
  have hheld (c : Fin 12) := addAll_held counts s c
  have hstock' := (addRestocked_stock v (addAll s counts)).2
  generalize addRestocked v (addAll s counts) = u at hleaves hstock hstock' ⊢
  refine rowsSound_of_held (hleaves .denoms (by decide)) (pendingIssue_congr (hleaves .orders (by decide))) (fun c => ?_) (fun c => ?_)
    (fun c hd => ?_) hs
  · rw [hstock, hrow]
    exact (addPieces_keeps _ _ _).1
  · rw [hstock', hheld]
    exact (hs c).1.trans (Nat.le_add_right _ _)
  · rw [hstock, hrow, honly c hd, addPieces_zero]

theorem stockKept_restock (hfind : findBag s n = some b) (hmove : moveRestock s.seconds b = .ok b') (hs : StockSound s) :
    StockKept s (restockBag b b' s) := by
  obtain ⟨hkind, hstate, rfl⟩ := restock_ok hmove
  obtain ⟨hb, hn⟩ := findBag_some hfind
  obtain ⟨-, hrows, -, hbags, -⟩ := stockSound_iff.mp hs
  obtain ⟨⟨v, hcounts, hdeclared, honly⟩, -⟩ := hbags b hb (by rw [hstate]; rfl) hkind
  have hv : (Vector.ofFn fun c => b.countOf c) = v := by
    ext c hc
    simp [Bag.countOf, hcounts]
  have hu := restocked_leaves b.declared v s
  have hsound := stockSound_delivered (b' := b.moved .restocked s.seconds) (o := .restocked) hfind hstate hkind rfl hu
    (restocked_rows b.declared honly hrows) hs
  have hconserved (hc : Conserved s) (hle : s.acc.restocked + s.valueOf v ≤ Config.top32) := restocked_conserved hc honly hle
  rw [← hdeclared] at hconserved
  have hacc := (addRestocked_eq b.declared (addAll s v)).2
  have hsame : (addAll s v).acc = s.acc := (setStock_leaves _ s) .acc (by decide)
  rw [hsame] at hacc
  unfold restockBag
  rw [hv, hn]
  dsimp only
  generalize addRestocked b.declared (addAll s v) = u at hu hsound hconserved hacc ⊢
  have hleaves (t : State) (ht : t = match b.order with
      | some i => freeOrder i .restocked (changeBag n (fun _ => b.moved .restocked s.seconds) u)
      | none => changeBag n (fun _ => b.moved .restocked s.seconds) u) : unchangedBut [.bags, .orders, .drawers] u t := by
    have hchanged := changeBag_leaves n (fun _ => b.moved .restocked s.seconds) u
    rw [ht]
    split
    · exact unchangedBut_mono (unchangedBut_trans hchanged (freeOrder_leaves _ _ _)) (by decide)
    · exact unchangedBut_mono hchanged (by decide)
  have ht := hleaves _ rfl
  refine ⟨hsound, fun hledger hsat => ?_⟩
  have hsat' : u.acc.saturated = false := (congrArg Accumulators.saturated (ht .acc (by decide))).symm.trans hsat
  rw [hacc] at hsat'
  obtain ⟨hunsaturated, hle⟩ := range_of_saturated hsat'
  exact conserved_congr (ht .denoms (by decide)) (ht .stock (by decide)) (ht .acc (by decide)) (hconserved (hledger hunsaturated) hle)

theorem stockKept_receipt (hfind : findBag s n = some b) (hmove : moveReceipt s.seconds b = .ok b') (hs : StockSound s) :
    StockKept s (match b.order with
      | some i => freeOrder i .done (changeBag n (fun _ => b') s)
      | none => changeBag n (fun _ => b') s) := by
  obtain ⟨hkind, hstate, rfl⟩ := receipt_ok hmove
  have hleaves := receipt_leaves n b (b.moved .delivered s.seconds) s
  have hcounted : b.kind.counted = false := by rw [hkind]; rfl
  exact ⟨stockSound_delivered hfind hstate hcounted rfl (unchangedBut_refl _ s) (stockSound_iff.mp hs).2.1 hs,
    ledger_congr (hleaves .denoms (by decide)) (hleaves .stock (by decide)) (hleaves .acc (by decide))⟩

theorem applyClose_row (acc sus : Vector Nat 12) (v : Nat) (s : State) (c : Fin 12) : (applyClose acc sus v s).stock[c] =
    { addPieces s.denoms[c] s.stock[c] acc[c] with suspect := s.stock[c].suspect + sus[c] } := ofFn_row _ c

theorem applyClose_acc (acc sus : Vector Nat 12) (v : Nat) (s : State) : (applyClose acc sus v s).acc = { s.acc with
    countedIn := (satNat (s.acc.countedIn + v)).1
    saturated := s.acc.saturated || (satNat (s.acc.countedIn + v)).2 } := rfl

theorem stockKept_count {x : Fin 4} {variance : Int} {cls : BagClass} (hx : s.sessions[x].state = .counting)
    (hfind : findBag s s.sessions[x].bag = some b)
    (hmove : moveClose x (s.valueOf s.sessions[x].accepted) (s.valueOf s.sessions[x].suspect) variance cls s.seconds b = .ok b')
    (hd : SealsDistinct s) (hs : StockSound s) :
    StockKept s (setSession x Session.reset (changeBag s.sessions[x].bag (fun _ => b')
      (applyClose s.sessions[x].accepted s.sessions[x].suspect (s.valueOf s.sessions[x].accepted) s))) := by
  obtain ⟨hrange, hrows, hvalued, hbags, hsessions⟩ := stockSound_iff.mp hs
  obtain ⟨hacc, hsus⟩ := hsessions x (by rw [hx]; decide)
  have hrow (c : Fin 12) := applyClose_row s.sessions[x].accepted s.sessions[x].suspect (s.valueOf s.sessions[x].accepted) s c
  have hheld (c : Fin 12) := applyClose_held s.sessions[x].accepted s.sessions[x].suspect (s.valueOf s.sessions[x].accepted) s c
  have hsums := applyClose_acc s.sessions[x].accepted s.sessions[x].suspect (s.valueOf s.sessions[x].accepted) s
  have hconserved (hc : Conserved s) (hle : s.acc.countedIn + s.valueOf s.sessions[x].accepted ≤ Config.top32) :=
    applyClose_conserved (sus := s.sessions[x].suspect) hc hacc hle
  have hleaves := applyClose_leaves s.sessions[x].accepted s.sessions[x].suspect (s.valueOf s.sessions[x].accepted) s
  generalize applyClose s.sessions[x].accepted s.sessions[x].suspect (s.valueOf s.sessions[x].accepted) s = u at hrow hheld hsums hconserved hleaves ⊢
  have hdenoms : u.denoms = s.denoms := hleaves .denoms (by decide)
  have horders : u.orders = s.orders := hleaves .orders (by decide)
  have hrows' : RowsSound u := by
    refine rowsSound_of_held hdenoms (pendingIssue_congr horders) (fun c => ?_) (fun c => ?_) (fun c hc => ?_) hrows
    · rw [hrow]
      exact (addPieces_keeps _ _ _).1
    · rw [hheld]
      exact (hrows c).1.trans (Nat.le_add_right _ _)
    · rw [hrow, hacc c hc, hsus c hc]
      rfl
  have hsound : StockSound u := by
    refine stockSound_iff.mpr ⟨by rw [DenomsInRange, hdenoms]; exact hrange, hrows', ordersValued_congr hdenoms horders hvalued, ?_,
      sessionSums_congr hdenoms (hleaves .sessions (by decide)) hsessions⟩
    rw [show u.bags = s.bags from hleaves .bags (by decide)]
    exact fun c hc => bagSound_congr hdenoms (fun _ _ => by rw [horders]) (hbags c hc)
  have hdu : SealsDistinct u := by
    rw [SealsDistinct, show u.bags = s.bags from hleaves .bags (by decide)]
    exact hd
  have hreg : Register (fun p => p = .counting) u (changeBag s.sessions[x].bag (fun _ => b') u).bags := by
    refine .changed (b := b) ?_ (closed_row (A := fun p => p = .counting) rfl hmove)
    rw [findBag, show u.bags = s.bags from hleaves .bags (by decide)]
    exact hfind
  obtain ⟨hkept, hledger⟩ := stockKept_of_session (x := x) (v := Session.reset) (changeBag_leaves s.sessions[x].bag (fun _ => b') u) hreg
    (le_of_eq (List.length_map _)) (fun h => absurd rfl h) hdu hsound
  refine ⟨hkept, fun hs' => hledger fun hsat => ?_⟩
  rw [hsums] at hsat
  obtain ⟨hunsaturated, hle⟩ := range_of_saturated hsat
  exact hconserved (hs' hunsaturated) hle

/-! ## Every move -/

theorem stockKept_newBag (hkind : b.kind.counted = true) (hs : StockSound s) : StockKept s (addBag b s) := by
  obtain ⟨-, -, -, hbags, hsessions⟩ := stockSound_iff.mp hs
  refine stockKept_of_still (addBag_leaves b s) hs (fun c hc => ?_) hsessions
  rcases mem_addBag hc with hc | rfl
  · exact hbags c hc
  · exact fun _ h => absurd (hkind.symm.trans h) (by decide)

theorem Move.stockKept (h : Move A s t) (hd : SealsDistinct s) (hs : StockSound s) : StockKept s t := by
  have hkept {ex : List Part} (h : unchangedBut ex s t) := @stockKept_of_leaves s t ex h hs
  have hreg := h.register
  cases h with
  | quiet h => exact hkept h
  | ports _ h _ => exact hkept h
  | trunk _ h _ _ => exact hkept h
  | place p f h =>
    exact hkept (ex := [.floor, .room]) (unchangedBut_mono (placeOut_leaves h) (by cases p <;> decide))
  | drawers v _ => exact hkept (setDrawers_leaves v s)
  | lock x _ _ _ => exact hkept (setSafe_leaves x s)
  | day x _ _ => exact hkept (setDay_leaves x s)
  | openBooks => exact stockKept_openBooks hs
  | denom c d hput =>
    obtain ⟨rfl, -, hheld⟩ := putDenom_ok hput
    exact stockKept_denom hs ((Move.denom (A := A) c d hput).denoms_inRange (stockSound_iff.mp hs).1) (denom_kept_or_unused hs hheld)
  | stockSet c l k hc hle => exact stockKept_stockSet hc hle hs
  | suspectRelease c n => exact stockKept_suspect c n hs
  | newBag b _ hkind _ _ _ => exact stockKept_newBag hkind hs
  | newOrder i o hfree ho hvalue hissue => exact stockKept_newOrder hfree ho hvalue hissue hs
  | cancel i hi => exact stockKept_cancel hi hs
  | makeUp i n hi _ => exact stockKept_makeUp n hi hs
  | consign n v honly hstraps _ => exact stockKept_consign n honly hstraps hs
  | restock _ hfind hmove _ => exact stockKept_restock hfind hmove hs
  | receipt _ hfind hmove => exact stockKept_receipt hfind hmove hs
  | @enter op way node n b b' _ _ _ _ =>
    exact stockKept_of_register hreg (le_of_eq (List.length_map _)) (acceptEntry_leaves op way b' node s) hd hs
  | @withdraw node n b b' _ _ _ =>
    exact stockKept_of_register hreg (le_of_eq (List.length_map _)) (withdrawn_leaves n node b' _ _ s) hd hs
  | openCount x node _ hfind hmove =>
    exact stockKept_of_session (changeBag_leaves _ _ s) (.changed hfind (opened_row (A := fun _ => True) trivial hmove))
      (le_of_eq (List.length_map _)) (fun _ => enabledOnly_zero s) hd hs
  | resume x node hx =>
    exact stockKept_of_session (askRegister_leaves _ _ s) (.asked (fun _ _ => opened_row (A := fun _ => True) trivial) _)
      (le_of_eq (askRegister_length _ _ s)) (fun _ => session_sums hs (by rw [hx]; decide)) hd hs
  | session x v hstate _ _ hacc hsus =>
    exact stockKept_of_session (unchangedBut_refl _ s) (A := fun _ => True) (.kept rfl) (le_refl _)
      (fun hv => ⟨hacc hv (session_sums hs (hstate ▸ hv)).1, hsus hv (session_sums hs (hstate ▸ hv)).2⟩) hd hs
  | suspend x hx =>
    exact stockKept_of_session (askRegister_leaves _ _ s) (.asked (fun _ _ => suspended_row (A := fun _ => True) trivial) _)
      (le_of_eq (askRegister_length _ _ s)) (fun _ => session_sums hs (by rw [hx]; decide)) hd hs
  | abort x _ =>
    exact stockKept_of_session (askRegister_leaves _ _ s) (.asked (fun _ _ => aborted_row (A := fun _ => True) trivial) _)
      (le_of_eq (askRegister_length _ _ s)) (fun h => absurd rfl h) hd hs
  | count x variance cls hx _ hfind hmove => exact stockKept_count hx hfind hmove hd hs
  | slot i d _ _ => exact hkept (setSlot_leaves i d s)
  | passDay => exact hkept (passDay_leaves s)
  | hand i _ _ _ => exact stockKept_of_register hreg (le_of_eq (List.length_map _)) (handSlot_leaves i s) hd hs
  | recallSlot i _ _ => exact stockKept_of_register hreg (le_of_eq (List.length_map _)) (recallSlot_leaves i s) hd hs
  | returnHead r _ _ => exact stockKept_of_register hreg (le_of_eq (List.length_map _)) (returnSlot_leaves s.call.next r s) hd hs
  | refused k => exact hkept (setCall_leaves _ s)
  | announce _ _ => exact hkept (acceptCourier_leaves s)
  | @load n b b' i _ _ _ _ _ =>
    refine stockKept_of_register hreg (le_of_eq ?_) (loaded_leaves i n b' s) hd hs
    rw [afterLoad_leaves i _ .bags (by decide)]
    exact List.length_map _
  | hatchRelease _ _ => exact stockKept_of_register hreg (le_of_eq (List.length_map _)) (changeBag_leaves _ _ s) hd hs
  | abortCall i r _ _ _ =>
    refine stockKept_of_register hreg (le_of_eq ?_) (aborted_leaves i r _ _ s) hd hs
    have hbags : (endSession (returnSlot i r (flagUnsigned s.ring[i].received (abortBags s.ring[i].outbound s)))).bags =
        ((s.bags.map _).map _).map _ := rfl
    rw [hbags, List.length_map, List.length_map, List.length_map]
  | @sign i d r u _ _ hu =>
    refine stockKept_of_register hreg (le_of_eq ?_) (signed_leaves d r hu) hd hs
    have hbags : (endSession (returnSlot i r (setSlot i d u))).bags = u.bags.map _ := rfl
    have hsigned : u.bags = s.bags.map _ := hu .bags (by decide)
    rw [hbags, hsigned, List.length_map, List.length_map]
  | purge _ _ => exact stockKept_of_register hreg (List.length_filter_le _ _) (setBags_leaves _ s) hd hs

theorem reset_stockSound : StockSound State.reset := by
  have hstate : ∀ i : Fin 24, State.reset.orders[i].state = .free := by decide
  have hstock : ∀ c : Fin 12, State.reset.stock[c] = { loose := 0, straps := 0, reserved := 0, suspect := 0 } := by decide
  have hidle : ∀ x : Fin 4, State.reset.sessions[x].state = .idle := by decide
  refine stockSound_iff.mpr ⟨reset_denomsInRange, fun c => ?_, fun i hi => ?_, fun _ h => (nomatch h), fun x hx => absurd (hidle x) hx⟩
  · have hpending : pendingIssue State.reset c = 0 := by
      rw [pendingIssue_eq]
      exact Finset.sum_eq_zero fun i _ => claim_other (by rw [hstate i]; decide) c
    rw [hpending, hstock c]
    exact ⟨Nat.zero_le _, rfl, fun _ => rfl⟩
  · rw [hstate i] at hi
    cases hi

theorem reset_ledger : Ledger State.reset := by
  intro _
  have henabled : ∀ c : Fin 12, State.reset.denoms[c].enabled = false := by decide
  have hvalue : holdingValue State.reset = 0 := CapLoop.sumCodes_eq_zero fun c => by rw [henabled c]; rfl
  unfold Conserved
  rw [hvalue]
  rfl

end

/-- Settles O18: each move keeps the rows, the values and the law; and each movement by itself keeps the law where it stays in range. -/
theorem movementsConserve : Obligations.MovementsConserve := by
  refine ⟨fun s t hd hs h => ⟨?_, fun hledger => ?_⟩, fun s hs hd => ⟨?_, ?_, ?_, ?_, ?_⟩⟩
  · exact step_keeps_distinct (fun _ _ h => h) (fun _ _ h => h) (fun _ _ h => h) reset_stockSound (fun hm hd hs => (hm.stockKept hd hs).1) hd h hs
  · exact (step_keeps_distinct (P := fun s => StockSound s ∧ Ledger s) (fun _ _ h => h) (fun _ _ h => h) (fun _ _ h => h)
      ⟨reset_stockSound, reset_ledger⟩ (fun hm hd hs => ⟨(hm.stockKept hd hs.1).1, (hm.stockKept hd hs.1).2 hs.2⟩) hd h ⟨hs, hledger⟩).2
  · exact fun acc sus honly hle => applyClose_conserved hs honly hle
  · exact fun counts honly hle => restocked_conserved hs honly hle
  · exact fun issue honly hheld hle => drawFloat_conserved hs hd honly hheld hle
  · exact fun counts honly hstraps hle => drawStraps_conserved hs honly hstraps hle
  · exact fun c loose straps hc hadj => setStockCounts_conserved hs hc hadj

end Sys2Proof.Machine.Effects

/-! PROOF. The transmitter's choice and its current frame (R162 to R164). -/

namespace Sys2Proof.Machine.Effects

open Sys2Proof Sys2Proof.Machine Sys2Proof.Machine.Takings Sys2Proof.Machine.TallyCount

section
variable {s t u : State} {p q : Port} {c : Current}

/-! ## The lowest header (R162) -/

theorem lowestFrame_none {n : Nat} {l : List LineFrame} : lowestFrame n l = none ↔ l = [] := by
  cases l with
  | nil => exact ⟨fun _ => rfl, fun _ => rfl⟩
  | cons f rest =>
    refine ⟨fun h => ?_, nofun⟩
    unfold lowestFrame at h
    split at h
    · cases h
    · split at h <;> cases h

/-- The frame found has the lowest header of all, and a lower one than every frame before it. -/
theorem lowestFrame_some {n m : Nat} {l : List LineFrame} {f : LineFrame} (h : lowestFrame n l = some (m, f)) :
    ∃ k, m = n + k ∧ l[k]? = some f ∧ (∀ g ∈ l, f.rank ≤ g.rank) ∧ ∀ j < k, ∀ g, l[j]? = some g → f.rank < g.rank := by
  induction l generalizing n m f with
  | nil => cases h
  | cons a rest ih =>
    unfold lowestFrame at h
    cases hrest : lowestFrame (n + 1) rest with
    | none =>
      rw [hrest] at h
      cases h
      rw [lowestFrame_none.mp hrest]
      exact ⟨0, rfl, rfl, by simp, nofun⟩
    | some x =>
      obtain ⟨m', g⟩ := x
      rw [hrest] at h
      obtain ⟨k, hm, hk, hlow, hfirst⟩ := ih hrest
      dsimp only at h
      split at h
      · next hle =>
        cases h
        refine ⟨0, rfl, rfl, fun x hx => ?_, nofun⟩
        rcases List.mem_cons.mp hx with rfl | hx
        · exact le_refl _
        · exact hle.trans (hlow x hx)
      · next hlt =>
        cases h
        refine ⟨k + 1, by omega, hk, fun x hx => ?_, fun j hj x hx => ?_⟩
        · rcases List.mem_cons.mp hx with rfl | hx
          · omega
          · exact hlow x hx
        · cases j with
          | zero =>
            cases hx
            omega
          | succ j => exact hfirst j (by omega) x hx

/-- What is chosen from the outgoing queue. -/
theorem outgoing_spec {l : List LineFrame} {n : Nat} {f : LineFrame} (h : lowestFrame 0 l = some (n, f)) :
    (∀ g ∈ l, f.rank ≤ g.rank) ∧ l[n]? = some f ∧ ∀ j < n, ∀ g, l[j]? = some g → f.rank < g.rank := by
  obtain ⟨k, hk, hfind, hlow, hfirst⟩ := lowestFrame_some h
  rw [Nat.zero_add] at hk
  subst hk
  exact ⟨hlow, hfind, hfirst⟩

theorem chooseFrame_some {q : LinePort} (h : chooseFrame q = some c) :
    (∀ f ∈ q.out.filled, c.frame.rank ≤ f.rank) ∧ (∀ f ∈ q.down.head?, c.frame.rank ≤ f.rank) ∧
    (c.source = .downlink → q.down.head? = some c.frame) ∧
    (∀ i : Nat, c.source = .outgoing i →
      q.out.filled[i]? = some c.frame ∧ ∀ j < i, ∀ g, q.out.filled[j]? = some g → c.frame.rank < g.rank) ∧ c.attempts = 0 := by
  unfold chooseFrame at h
  split at h
  · cases h
  · next n f hlow hdown =>
    cases h
    obtain ⟨hle, hfind, hfirst⟩ := outgoing_spec hlow
    rw [hdown]
    refine ⟨hle, nofun, nofun, fun i hi => ?_, rfl⟩
    cases hi
    exact ⟨hfind, hfirst⟩
  · next d rest hlow hdown =>
    cases h
    rw [lowestFrame_none.mp hlow, hdown]
    exact ⟨nofun, fun f hf => by cases hf; exact le_refl _, fun _ => rfl, nofun, rfl⟩
  · next n f d rest hlow hdown =>
    obtain ⟨hle, hfind, hfirst⟩ := outgoing_spec hlow
    rw [hdown]
    split at h
    · next hfd =>
      cases h
      refine ⟨hle, fun g hg => by cases hg; exact hfd, nofun, fun i hi => ?_, rfl⟩
      cases hi
      exact ⟨hfind, hfirst⟩
    · next hfd =>
      cases h
      exact ⟨fun g hg => (le_of_lt (not_le.mp hfd)).trans (hle g hg), fun g hg => by cases hg; exact le_refl _, fun _ => rfl, nofun, rfl⟩

theorem chooseFrame_none {q : LinePort} : chooseFrame q = none ↔ q.out.filled = [] ∧ q.down = [] := by
  unfold chooseFrame
  split
  · next hlow hdown => exact iff_of_true rfl ⟨lowestFrame_none.mp hlow, hdown⟩
  · next n f hlow hdown =>
    refine iff_of_false nofun fun h => ?_
    rw [lowestFrame_none.mpr h.1] at hlow
    cases hlow
  · next d rest hlow hdown => exact iff_of_false nofun fun h => by rw [h.2] at hdown; cases hdown
  · next n f d rest hlow hdown =>
    split <;> exact iff_of_false nofun fun h => by rw [h.2] at hdown; cases hdown

/-! ## What leaves a current frame (R162) -/

/-- Frames placed behind those that wait. -/
def QueuesGrow (q r : LinePort) : Prop := (∃ more, r.out.filled = q.out.filled ++ more) ∧ ∃ down, r.down = q.down ++ down

theorem QueuesGrow.refl (q : LinePort) : QueuesGrow q q := ⟨⟨[], (List.append_nil _).symm⟩, [], (List.append_nil _).symm⟩

theorem QueuesGrow.trans {q r v : LinePort} (h : QueuesGrow q r) (k : QueuesGrow r v) : QueuesGrow q v := by
  obtain ⟨⟨more, hmore⟩, down, hdown⟩ := h
  obtain ⟨⟨more', hmore'⟩, down', hdown'⟩ := k
  exact ⟨⟨more ++ more', by rw [hmore', hmore, List.append_assoc]⟩, down ++ down', by rw [hdown', hdown, List.append_assoc]⟩

/-- A frame in its place is there when others were placed behind. -/
theorem QueuesGrow.place {q r : LinePort} (h : QueuesGrow q r) :
    (∀ (i : Nat) f, q.out.filled[i]? = some f → r.out.filled[i]? = some f) ∧ ∀ f, q.down.head? = some f → r.down.head? = some f := by
  obtain ⟨⟨more, hmore⟩, down, hdown⟩ := h
  rw [hmore, hdown]
  refine ⟨fun i f hf => ?_, fun f hf => ?_⟩
  · rw [List.getElem?_append_left (List.getElem?_eq_some_iff.mp hf).1]
    exact hf
  · rw [List.head?_append, hf]
    rfl

/-- A port whose current frame and its attempts are left, with the count of undelivered frames. -/
structure Steady (q r : LinePort) : Prop where
  tx : r.tx.current = q.tx.current
  queues : QueuesGrow q r

theorem Steady.refl (q : LinePort) : Steady q q := ⟨rfl, .refl q⟩

theorem Steady.trans {q r v : LinePort} (h : Steady q r) (k : Steady r v) : Steady q v := ⟨k.tx.trans h.tx, h.queues.trans k.queues⟩

theorem PortGrows.steady {q r : LinePort} (h : PortGrows q r) : Steady q r := by
  obtain ⟨more, down, rfl⟩ := h
  exact ⟨rfl, ⟨more, rfl⟩, down, rfl⟩

theorem steady_setRx (p q : Port) (rx : Receiver) (s : State) : Steady (s.port q) ((s.setRx p rx).port q) := by
  cases p <;> cases q <;> exact ⟨rfl, .refl _⟩

theorem steady_setLineIdle (p q : Port) (b : Bool) (s : State) : Steady (s.port q) ((s.setLineIdle p b).port q) := by
  cases p <;> cases q <;> exact ⟨rfl, .refl _⟩

theorem steady_countError (p q : Port) (k : LineCounter) (s : State) : Steady (s.port q) ((countError p k s).port q) := by
  cases p <;> cases q <;> exact ⟨rfl, .refl _⟩

theorem steady_takeFrame (f : Taken) (s : State) (q : Port) : Steady (s.port q) ((takeFrame f s).port q) := by
  obtain ⟨r, more, h, -⟩ := takeFrame_fills f s q
  rw [h]
  exact ⟨rfl, ⟨more, rfl⟩, [], (List.append_nil _).symm⟩

theorem steady_release (p q : Port) (f : LineFrame) (s : State) : Steady (s.port q) ((releaseReservations p f s).port q) := by
  unfold releaseReservations
  dsimp only
  split <;> cases p <;> cases q <;> exact ⟨rfl, .refl _⟩

theorem steady_endWindow (p q : Port) (w : Window) (s : State) : Steady (s.port q) ((endWindow p w s).port q) := by
  unfold endWindow
  split
  · exact steady_takeFrame _ s q
  · exact steady_release p q _ s
  · exact .refl _

theorem steady_receiverError (p q : Port) (k : LineCounter) (s : State) : Steady (s.port q) ((receiverError p k s).port q) := by
  have herror := (steady_setRx p q .waitIdle s).trans (steady_countError p q k _)
  unfold receiverError
  split
  · exact herror.trans (steady_endWindow p q _ _)
  · exact herror

theorem steady_openWindow (p q : Port) (f : LineFrame) (crc : Word16) (s : State) : Steady (s.port q) ((openWindow p f crc s).port q) := by
  have hoffer : Steady (s.port q) ((offer p f s).1.port q) := by
    unfold offer
    split; · exact .refl _
    split; · exact .refl _
    split; · cases q <;> exact .refl _
    split; · cases q <;> exact .refl _
    split
    · cases q <;> exact .refl _
    · cases p <;> cases q <;> exact ⟨rfl, .refl _⟩
  exact hoffer.trans (steady_setRx p q _ _)

theorem steady_closeData (p q : Port) (bits : List Bool) (s : State) : Steady (s.port q) ((closeData p bits s).port q) := by
  unfold closeData
  split
  · exact steady_receiverError p q _ s
  · exact steady_receiverError p q _ s
  · exact steady_receiverError p q _ s
  · exact steady_openWindow p q _ _ s

theorem steady_gatherMark (p q : Port) (w : Window) (mark : Byte) (s : State) : Steady (s.port q) ((gatherMark p w mark s).port q) := by
  unfold gatherMark
  split; · exact steady_receiverError p q _ s
  split
  · exact (steady_setRx p q _ s).trans (steady_release p q _ _)
  · exact steady_setRx p q _ s

/-! ## Work at the other port -/

theorem port_setPort_other {x : LinePort} (h : p ≠ q) : (s.setPort p x).port q = s.port q := by rw [setPort_port, if_neg h]

theorem freePlace_other (src : TxSource) (h : p ≠ q) (s : State) : (freePlace p src s).port q = s.port q := by
  cases src <;> exact port_setPort_other h

theorem txIdle_other (c : Option Current) (h : p ≠ q) (s : State) : (txIdle p c s).port q = s.port q := port_setPort_other h

theorem countError_other (k : LineCounter) (h : p ≠ q) (s : State) : (countError p k s).port q = s.port q := by
  cases p <;> cases q <;> first | exact absurd rfl h | rfl

theorem deliverCurrent_other (h : p ≠ q) (s : State) : (deliverCurrent p s).port q = s.port q := by
  unfold deliverCurrent
  split
  · rw [freePlace_other _ h, txIdle_other _ h]
  · exact txIdle_other _ h s

theorem failAttempt_other (h : p ≠ q) (s : State) : (failAttempt p s).port q = s.port q := by
  unfold failAttempt
  split
  · split
    · exact txIdle_other _ h s
    · unfold discardCurrent
      rw [tellOwner_port, countError_other _ h, freePlace_other _ h, txIdle_other _ h]
  · exact txIdle_other _ h s

theorem closeWindow_other (h : p ≠ q) (s : State) : (closeWindow p s).port q = s.port q := by
  unfold closeWindow
  split
  · split
    · exact deliverCurrent_other h s
    · exact failAttempt_other h s
  · exact txIdle_other _ h s

theorem recordMark_other (mark : Byte) (h : p ≠ q) (s : State) : (recordMark p mark s).port q = s.port q := by
  unfold recordMark
  dsimp only
  split
  · split
    · rw [closeWindow_other h]
      exact port_setPort_other h
    · exact port_setPort_other h
  · exact port_setPort_other h

theorem dataGone_other (h : p ≠ q) (s : State) : (dataGone p s).port q = s.port q := by
  unfold dataGone
  dsimp only
  split
  · split
    · rw [deliverCurrent_other h]
      exact port_setPort_other h
    · exact port_setPort_other h
  · exact txIdle_other _ h s

/-- A line port's work leaves the other port but for the frames placed. -/
theorem lineWork_other {x : Instr} {f : State → State} (h : LineWork p s x f) (hpq : p ≠ q) : Steady (s.port q) ((f s).port q) := by
  have hsame {u : State} (hu : u.port q = s.port q) : Steady (s.port q) (u.port q) := by
    rw [hu]
    exact .refl _
  have hother {x : LinePort} (v : State) : (v.setPort p x).port q = v.port q := port_setPort_other hpq
  cases h with
  | interrupted | clashes =>
    simp only [txSymbolError, clashed]
    exact hsame (by rw [failAttempt_other hpq, countError_other _ hpq]; exact hother s)
  | opened => exact (steady_setRx p q _ s).trans (steady_setLineIdle p q _ _)
  | faulty k => exact steady_receiverError p q k s
  | checked had bits => exact steady_closeData p q _ s
  | recorded mark => exact hsame (recordMark_other mark hpq s)
  | gathered w mark => exact steady_gatherMark p q w mark s
  | dropped w => exact (steady_setRx p q _ s).trans (steady_endWindow p q w _)
  | unignored => exact steady_setRx p q _ s
  | broken =>
    unfold breakEffect
    split
    · exact (hsame (txIdle_other _ hpq s)).trans (steady_receiverError p q _ _)
    · exact steady_receiverError p q _ s
  | idled => exact (steady_setRx p q _ s).trans (steady_setLineIdle p q _ _)
  | chosen | headed => exact hsame (hother s)
  | started => exact (hsame (hother s)).trans (steady_setLineIdle p q _ _)
  | lost bit =>
    unfold loseArbitration
    exact hsame (by rw [failAttempt_other hpq]; exact hother s)
  | sent => exact hsame (dataGone_other hpq s)
  | closed => exact hsame (closeWindow_other hpq s)

/-! ## What work at the port makes of its current frame (R163, R164) -/

/-- The frame stays current, with another number of attempts at most, and keeps its place. -/
def StaysCurrent (c : Current) (q r : LinePort) : Prop :=
  ∃ d, r.tx.current = some d ∧ d.frame = c.frame ∧ d.source = c.source ∧ QueuesGrow q r

theorem Steady.stays {q r : LinePort} (h : Steady q r) (hc : q.tx.current = some c) : StaysCurrent c q r :=
  ⟨c, h.tx.trans hc, rfl, rfl, h.queues⟩

/-- The ways in which a frame is delivered or discarded (R164). -/
def Ends (x : Instr) (p : Port) (c : Current) (q r : LinePort) : Prop :=
  (x = .dataSent p ∧ q.tx.phase = .sending ∧ markMode c.frame.pb = .none) ∨
  (x = .windowClose p ∧ q.tx.phase = .awaitMarks ∧ c.frame.dest ≠ 255 ∧ c.frame.dest ∈ q.tx.marks) ∨
  (∃ mark, x = .markByte p mark ∧ q.tx.phase = .awaitMarks ∧ c.frame.dest ≠ 255 ∧ c.frame.dest ∈ q.tx.marks ++ [mark]) ∨
  (q.tx.phase ≠ .idle ∧ 4 ≤ c.attempts ∧ r.errors.undelivered = countUp q.errors.undelivered)

theorem countError_undelivered (p : Port) (s : State) :
    ((countError p .undelivered s).port p).errors.undelivered = countUp (s.port p).errors.undelivered := by cases p <;> rfl

theorem freePlace_errors (p : Port) (src : TxSource) (s : State) : ((freePlace p src s).port p).errors = (s.port p).errors := by
  cases src <;> cases p <;> rfl

theorem txIdle_queues (p : Port) (c : Option Current) (s : State) : QueuesGrow (s.port p) ((txIdle p c s).port p) ∧
    ((txIdle p c s).port p).tx.current = c ∧ ((txIdle p c s).port p).errors = (s.port p).errors := by
  cases p <;> exact ⟨.refl _, rfl, rfl⟩

theorem freePlace_current (p : Port) (src : TxSource) (s : State) : ((freePlace p src s).port p).tx.current = (s.port p).tx.current := by
  cases src <;> cases p <;> rfl

theorem deliverCurrent_current (p : Port) (s : State) : ((deliverCurrent p s).port p).tx.current = none := by
  unfold deliverCurrent
  split
  · rw [freePlace_current, (txIdle_queues p none s).2.1]
  · exact (txIdle_queues p none s).2.1

/-- A failed attempt leaves the frame current, or discards it at the limit. -/
theorem failAttempt_current (hc : (s.port p).tx.current = some c) :
    StaysCurrent c (s.port p) ((failAttempt p s).port p) ∨
    (4 ≤ c.attempts ∧ ((failAttempt p s).port p).errors.undelivered = countUp (s.port p).errors.undelivered ∧
      ((failAttempt p s).port p).tx.current = none) := by
  rcases failAttempt_spec hc with ⟨-, h⟩ | ⟨hlimit, h⟩ <;> rw [h]
  · obtain ⟨hq, hcur, -⟩ := txIdle_queues p (some c) s
    exact .inl ⟨c, hcur, rfl, rfl, hq⟩
  · refine .inr ⟨hlimit, ?_, ?_⟩ <;> unfold discardCurrent
    · rw [tellOwner_port, countError_undelivered, freePlace_errors, (txIdle_queues p none s).2.2]
    · rw [tellOwner_port, (steady_countError p p .undelivered _).tx, freePlace_current, (txIdle_queues p none s).2.1]

/-- The frame has ended in one of these ways, and no frame is current. -/
def Ended (x : Instr) (p : Port) (c : Current) (q r : LinePort) : Prop := Ends x p c q r ∧ r.tx.current = none

theorem failAttempt_ends {x : Instr} (hs : Steady (s.port p) (u.port p)) (herrors : (u.port p).errors.undelivered = (s.port p).errors.undelivered)
    (hphase : (s.port p).tx.phase ≠ .idle) (hc : (s.port p).tx.current = some c) :
    StaysCurrent c (s.port p) ((failAttempt p u).port p) ∨ Ended x p c (s.port p) ((failAttempt p u).port p) := by
  rcases failAttempt_current (hs.tx.trans hc) with ⟨d, hd, hf, hsrc, hq⟩ | ⟨hlimit, hund, hnone⟩
  · exact .inl ⟨d, hd, hf, hsrc, hs.queues.trans hq⟩
  · exact .inr ⟨.inr (.inr (.inr ⟨hphase, hlimit, by rw [hund, herrors]⟩)), hnone⟩

theorem steady_setTx {tx : Transmitter} (h : tx.current = (s.port p).tx.current) : Steady (s.port p) ((s.setTx p tx).port p) := by
  cases p <;> exact ⟨h, .refl _⟩

theorem setTx_errors (p : Port) (tx : Transmitter) (s : State) : ((s.setTx p tx).port p).errors = (s.port p).errors := by cases p <;> rfl

theorem closeWindow_ends {x : Instr} (hs : Steady (s.port p) (u.port p)) (herrors : (u.port p).errors.undelivered = (s.port p).errors.undelivered)
    (hphase : (s.port p).tx.phase ≠ .idle) (hc : (s.port p).tx.current = some c)
    (hmarks : c.frame.dest ≠ 255 ∧ c.frame.dest ∈ (u.port p).tx.marks → Ends x p c (s.port p) ((closeWindow p u).port p)) :
    StaysCurrent c (s.port p) ((closeWindow p u).port p) ∨ Ended x p c (s.port p) ((closeWindow p u).port p) := by
  rcases closeWindow_spec (hs.tx.trans hc) with ⟨hm, h⟩ | ⟨-, h⟩
  · exact .inr ⟨hmarks hm, by rw [h, freePlace_current, (txIdle_queues p none u).2.1]⟩
  · rw [h]
    exact failAttempt_ends hs herrors hphase hc

theorem abandonAttempt_stays (hc : (s.port p).tx.current = some c) : StaysCurrent c (s.port p) ((abandonAttempt p s).port p) := by
  obtain ⟨hq, hcur, -⟩ := txIdle_queues p ((s.port p).tx.current.map fun c => { c with attempts := c.attempts - 1 }) s
  refine ⟨{ c with attempts := c.attempts - 1 }, ?_, rfl, rfl, hq⟩
  unfold abandonAttempt
  rw [hcur, hc]
  rfl

theorem StaysCurrent.steady {q r v : LinePort} (h : StaysCurrent c q r) (k : Steady r v) : StaysCurrent c q v := by
  obtain ⟨d, hd, hf, hsrc, hq⟩ := h
  exact ⟨d, k.tx.trans hd, hf, hsrc, hq.trans k.queues⟩

theorem txActive_phase (h : txActive s p = true) : (s.port p).tx.phase ≠ .idle := by simpa [txActive] using h

theorem recordMark_eq (mark : Byte) (hc : (s.port p).tx.current = some c) : recordMark p mark s =
    if fullWindow c.frame.pb ≤ (s.port p).tx.marks.length + 1 then
      closeWindow p (s.setTx p { (s.port p).tx with marks := (s.port p).tx.marks ++ [mark] })
    else s.setTx p { (s.port p).tx with marks := (s.port p).tx.marks ++ [mark] } := by
  unfold recordMark
  simp only [hc]

theorem dataGone_eq (hc : (s.port p).tx.current = some c) : dataGone p s =
    if markMode c.frame.pb = .none then
      deliverCurrent p (s.setTx p { (s.port p).tx with phase := .awaitMarks, marks := [], driven := c.frame.wire })
    else s.setTx p { (s.port p).tx with phase := .awaitMarks, marks := [], driven := c.frame.wire } := by
  unfold dataGone
  simp only [hc]

theorem lineWork_current {x : Instr} {f : State → State} (h : LineWork p s x f) (hc : (s.port p).tx.current = some c) :
    StaysCurrent c (s.port p) ((f s).port p) ∨ Ended x p c (s.port p) ((f s).port p) := by
  have hsteady {u : State} (hu : Steady (s.port p) (u.port p)) : StaysCurrent c (s.port p) (u.port p) ∨ Ended x p c (s.port p) (u.port p) :=
    .inl (hu.stays hc)
  have herror (k : LineCounter) (hk : k ≠ .undelivered) :
      Steady (s.port p) ((countError p k (s.setRx p .waitIdle)).port p) ∧
        ((countError p k (s.setRx p .waitIdle)).port p).errors.undelivered = (s.port p).errors.undelivered := by
    refine ⟨(steady_setRx p p _ s).trans (steady_countError p p k _), ?_⟩
    cases k <;> cases p <;> first | rfl | exact absurd rfl hk
  cases h with
  | interrupted h => exact failAttempt_ends (herror .symbol (by decide)).1 (herror .symbol (by decide)).2 (txActive_phase h) hc
  | opened => exact hsteady ((steady_setRx p p _ s).trans (steady_setLineIdle p p _ _))
  | faulty k => exact hsteady (steady_receiverError p p k s)
  | checked had bits => exact hsteady (steady_closeData p p _ s)
  | recorded mark hphase =>
    have hs : Steady (s.port p) ((s.setTx p { (s.port p).tx with marks := (s.port p).tx.marks ++ [mark] }).port p) := steady_setTx rfl
    rw [recordMark_eq mark hc]
    split
    · refine closeWindow_ends hs (by rw [setTx_errors]) (by rw [hphase]; decide) hc fun hm => .inr (.inr (.inl ⟨mark, rfl, hphase, hm.1, ?_⟩))
      rw [setTx_tx] at hm
      exact hm.2
    · exact hsteady hs
  | gathered w mark => exact hsteady (steady_gatherMark p p w mark s)
  | dropped w => exact hsteady ((steady_setRx p p _ s).trans (steady_endWindow p p w _))
  | unignored => exact hsteady (steady_setRx p p _ s)
  | broken =>
    unfold breakEffect
    split
    · exact .inl ((abandonAttempt_stays hc).steady (steady_receiverError p p _ _))
    · exact hsteady (steady_receiverError p p _ s)
  | idled => exact hsteady ((steady_setRx p p _ s).trans (steady_setLineIdle p p _ _))
  | chosen h =>
    rw [mayChoose, hc] at h
    simp at h
  | started =>
    refine .inl ?_
    have hstays : StaysCurrent c (s.port p) ((s.setTx p { phase := .arbitrating
                                                          current := (s.port p).tx.current.map fun c => { c with attempts := c.attempts + 1 }
                                                          marks := [], driven := [] }).port p) := by
      refine ⟨{ c with attempts := c.attempts + 1 }, ?_, rfl, rfl, by cases p <;> exact .refl _⟩
      rw [setTx_tx, hc]
      rfl
    exact hstays.steady (steady_setLineIdle p p _ _)
  | lost bit h =>
    have hphase : (s.port p).tx.phase ≠ .idle := by
      simp only [mayLose, Bool.and_eq_true, decide_eq_true_eq] at h
      rw [h.1]
      decide
    exact failAttempt_ends (steady_setRx p p _ s) (by cases p <;> rfl) hphase hc
  | headed => exact hsteady (steady_setTx rfl)
  | clashes h => exact failAttempt_ends (herror .clash (by decide)).1 (herror .clash (by decide)).2 (by rw [h]; decide) hc
  | sent hphase =>
    rw [dataGone_eq hc]
    split
    · next hmode => exact .inr ⟨.inl ⟨rfl, hphase, hmode⟩, deliverCurrent_current p _⟩
    · exact hsteady (steady_setTx rfl)
  | closed hphase =>
    exact closeWindow_ends (.refl _) rfl (by rw [hphase]; decide) hc fun hm => .inr (.inl ⟨rfl, hphase, hm.1, hm.2⟩)

/-! ## Every command -/

theorem restartRest_current (s : State) (p : Port) : ((restartRest s).port p).tx.current = none := by
  have hmoves : Moves offLines (restartPort .room (restartPort .floor s))
      (restartLock (abortHandover .aborted (abortSessions (restartPort .room (restartPort .floor s))))) :=
    ((abortSessions_moves _).trans (abortHandover_moves nofun .aborted _)).trans (restartLock_moves _)
  have hports : ((restartPort .room (restartPort .floor s)).port p).tx.current = none := by cases p <;> rfl
  have hgrow := ((hmoves.lines_grow fun h => h rfl).1 p).steady
  rw [restartRest, emptyUplink_port]
  exact hgrow.tx.trans hports

theorem Ends.steady {x : Instr} {q r v : LinePort} (h : Ends x p c q r) (k : v.errors = r.errors) : Ends x p c q v := by
  rcases h with h | h | h | ⟨hphase, hlimit, hund⟩
  · exact .inl h
  · exact .inr (.inl h)
  · exact .inr (.inr (.inl h))
  · exact .inr (.inr (.inr ⟨hphase, hlimit, by rw [k]; exact hund⟩))

theorem PortGrows.errors {q r : LinePort} (h : PortGrows q r) : r.errors = q.errors := by
  obtain ⟨more, down, rfl⟩ := h
  rfl

/-- A command leaves the frame current in its place, ends it in one of its ways, or resets the port. -/
theorem exec_current {x : Instr} (h : exec x s = .next t) (hc : (s.port p).tx.current = some c) :
    StaysCurrent c (s.port p) (t.port p) ∨ Ended x p c (s.port p) (t.port p) ∨
      ((x = .powerOn ∨ x = .restart) ∧ (t.port p).tx.current = none) := by
  have hoff {u v : State} (hmoves : Moves offLines u v) : PortGrows (u.port p) (v.port p) := (hmoves.lines_grow fun h => h rfl).1 p
  have hfull {u : State} (hu : Steady (s.port p) (u.port p)) : StaysCurrent c (s.port p) (u.port p) := hu.stays hc
  rcases exec_cases h with rfl | ⟨f, htaking, rfl⟩ | ⟨hx, tag, fields, rest, -, -, -, rfl⟩ | ⟨hx, rfl⟩
  · exact .inl (hfull (.refl _))
  · have hsettle := hoff (settle_moves nofun s (f s))
    have hafter : StaysCurrent c (s.port p) ((f s).port p) ∨ Ended x p c (s.port p) ((f s).port p) := by
      cases htaking with
      | @line q _ _ h =>
        by_cases hq : q = p
        · subst hq
          exact lineWork_current h hc
        · exact .inl (hfull (lineWork_other h hq))
      | frame q w _ => exact .inl (hfull ((steady_setRx q p .idle s).trans (steady_takeFrame _ _ p)))
      | placed _ => exact .inl (hfull (hoff (placeSafeCommand_moves s)).steady)
      | expiry h => exact .inl (hfull (hoff (expiry_moves nofun h)).steady)
      | trunk h => exact .inl (hfull (hoff (trunkWork_moves nofun h)).steady)
      | request tag fields rest hrequest _ _ _ =>
        exact .inl (hfull (hoff (answered_moves nofun tag _ fields s (run_moves hrequest (fun _ => nofun) fields _))).steady)
    rcases hafter with hstays | hends
    · exact .inl (hstays.steady hsettle.steady)
    · exact .inr (.inl ⟨hends.1.steady hsettle.errors, hsettle.steady.tx.trans hends.2⟩)
  · refine .inr (.inr ⟨.inr hx, ?_⟩)
    have hanswer : Moves offLines (runRestart fields (popRequest s)).1 (answered runRestart tag 0x5F fields s) :=
      Moves.trunk nofun (answerRequest_leaves _ _ _ _ _ _) (answerRequest_places _ _ _ _ _ _) (.of_leaves (answerRequest_leaves _ _ _ _ _ _))
    rw [((hoff (settleRestart_moves nofun s _)).steady).tx, (hoff hanswer).steady.tx, runRestart_eq]
    exact restartRest_current _ p
  · refine .inr (.inr ⟨.inl hx, ?_⟩)
    cases p <;> rfl

end

section
variable {s t : State} {p : Port} {c : Current}

/-! ## The end of a taking at a line port -/

/-- A taking that changes a port, frees no place there and leaves what a condition of the close reads, ends with the events (R93, R145, R178). -/
theorem settle_port {ex : List Part} (h : unchangedBut (Part.ofPort p :: ex) s t) (hex : ∀ b ∈ ex, b ∈ [Part.uplink, .events, .draws] := by decide)
    (hfree : (t.port p).out.free ≤ (s.port p).out.free) (hdown : (t.port p).down = (s.port p).down) : settle s t = settleEvents t := by
  have hleaves : unchangedBut (Part.ofPort p :: [Part.uplink, .events, .draws]) s t := unchangedBut_mono h fun b hb => by
    rcases List.mem_cons.mp hb with rfl | hb
    · exact List.mem_cons_self
    · exact List.mem_cons_of_mem _ (hex b hb)
  have hout (b : Part) (hb : b ∉ [Part.floor, .room, .uplink, .events, .draws]) : b ∉ Part.ofPort p :: [Part.uplink, .events, .draws] := by
    intro hmem
    cases p <;> exact hb (by revert hmem; cases b <;> decide)
  have hother (q : Port) (hq : q ≠ p) : t.port q = s.port q := by
    cases p <;> cases q <;> first | exact absurd rfl hq | exact hleaves .floor (by decide) | exact hleaves .room (by decide)
  have hports (q : Port) : (t.port q).out.free ≤ (s.port q).out.free ∧ (t.port q).down = (s.port q).down := by
    by_cases hq : q = p
    · exact hq ▸ ⟨hfree, hdown⟩
    · rw [hother q hq]
      exact ⟨le_refl _, rfl⟩
  have htrunk : t.trunk = s.trunk := hleaves .trunk (hout _ (by decide))
  have hnodes : t.nodes = s.nodes := hleaves .nodes (hout _ (by decide))
  refine settle_quiet (commandPlaceable_mono ?_ (hports .room).1 hnodes) (fun hw => ?_) fun hd => ⟨?_, ?_⟩
  · rw [hleaves .safe (hout _ (by decide))]
    exact id
  · rwa [waitingPlaceable_congr (by rw [htrunk]) (by rw [htrunk]) (hports .floor).2 (hports .room).2 hnodes] at hw
  · rwa [hleaves .day (hout _ (by decide))] at hd
  · unfold closeInputs
    rw [hleaves .drawers (hout _ (by decide)), hleaves .sessions (hout _ (by decide)), hleaves .call (hout _ (by decide)),
      hleaves .bags (hout _ (by decide)), hleaves .safe (hout _ (by decide))]

theorem settleEvents_port (p : Port) (s : State) : (settleEvents s).port p = s.port p := by
  cases p
  · exact settleEvents_leaves s .floor (by decide)
  · exact settleEvents_leaves s .room (by decide)

theorem takingIf_true {b : Bool} {f : State → State} (h : b = true) : takingIf b f s = .next (settle s (f s)) := by rw [h]; rfl

/-- An IDLE transmitter without a current frame takes the chosen one (R162). -/
theorem choice_taken (hphase : (s.port p).tx.phase = .idle) (hnone : (s.port p).tx.current = none) (hchoice : chooseFrame (s.port p) = some c) :
    Yields (.currentFrameChoice p) s fun t => (t.port p).tx.current = some c ∧ (t.port p).out = (s.port p).out ∧
      (t.port p).down = (s.port p).down := by
  have hmay : (mayChoose (s.port p) && (chooseFrame (s.port p)).isSome) = true := by simp [mayChoose, hphase, hnone, hchoice]
  have hport : (chooseCurrent p s).port p = { s.port p with tx := { (s.port p).tx with current := some c } } := by
    rw [chooseCurrent, hchoice]
    cases p <;> rfl
  have hsettle : settle s (chooseCurrent p s) = settleEvents (chooseCurrent p s) :=
    settle_port (p := p) (s := s) (t := chooseCurrent p s) (setTx_leaves p _ s) (by decide) (by rw [hport]) (by rw [hport])
  refine ⟨_, takingIf_true hmay, ?_⟩
  show ((settle s (chooseCurrent p s)).port p).tx.current = _ ∧ _
  rw [hsettle, settleEvents_port, hport]
  exact ⟨rfl, rfl, rfl⟩

/-- A current frame is not displaced by a choice (R162). -/
theorem choice_kept (hc : (s.port p).tx.current = some c) : exec (.currentFrameChoice p) s = .next s := by
  have hmay : (mayChoose (s.port p) && (chooseFrame (s.port p)).isSome) = false := by simp [mayChoose, hc]
  show takingIf (mayChoose (s.port p) && (chooseFrame (s.port p)).isSome) (chooseCurrent p) s = _
  rw [hmay]
  rfl

end

/-- Settles O19: the choice by its recursion over the queue; of a current frame, by the work of the line port's commands. -/
theorem lowestHeaderChosen : Obligations.LowestHeaderChosen := by
  refine ⟨fun q c h => chooseFrame_some h, fun q => chooseFrame_none, fun p s c => ⟨choice_taken, choice_kept⟩,
    fun x s t p c d h hc hd => ?_, fun x s t p c h hc hnone => ?_⟩
  · rcases exec_current h hc with ⟨e, he, hframe, hsource, hq⟩ | hends | ⟨-, hnone⟩
    · rw [hd] at he
      cases he
      exact ⟨hframe, hsource, fun i _ => hq.place.1 i _, fun _ => hq.place.2 _⟩
    · rw [hends.2] at hd
      cases hd
    · rw [hd] at hnone
      cases hnone
  · rcases exec_current h hc with ⟨e, he, -⟩ | hends | ⟨hx, -⟩
    · rw [hnone] at he
      cases he
    · exact .inr (.inr hends.1)
    · exact hx.imp id .inl

end Sys2Proof.Machine.Effects

/-! PROOF. The step on the queue of commands, POWER_ON and the reset state (R196). -/

namespace Sys2Proof.Machine.Effects

open Sys2Proof Sys2Proof.Machine Sys2Proof.Machine.Takings Sys2Proof.Machine.TallyCount

section
variable {s : State}

/-! ## What a second makes due (R85, R87, R94, R103, R124, R134, R148) -/

theorem mem_ifDue {b : Bool} {c d : Instr} : c ∈ ifDue b d ↔ b = true ∧ c = d := by cases b <;> simp [ifDue]

theorem ifDue_sublist (b : Bool) (c : Instr) : (ifDue b c).Sublist [c] := by cases b <;> simp [ifDue]

theorem expired_iff {o : Option Nat} : expired s o = true ↔ ∃ deadline, o = some deadline ∧ deadline ≤ s.seconds := by
  cases o <;> simp [expired]

theorem safeNode_isSome : (safeNode s).isSome = true ↔ ∃ i : Fin 252, s.nodes[i].enabled = true ∧ s.nodes[i].role = .safe := by
  unfold safeNode
  rw [Option.isSome_map]
  cases h : firstIndex 252 fun i => s.nodes[i].enabled && decide (s.nodes[i].role = .safe) with
  | some i => exact iff_of_true rfl ⟨i, by simpa using (firstIndex_some.mp h).1⟩
  | none =>
    refine iff_of_false nofun fun ⟨i, hi⟩ => ?_
    have := firstIndex_none.mp h i
    simp_all

theorem idleDue_sublist (l : List (Fin 4)) :
    (l.flatMap fun x => ifDue (idleExpired s x) (.countIdleExpiry x.val)).Sublist (l.map fun x => .countIdleExpiry x.val) := by
  induction l with
  | nil => exact .slnil
  | cons x l ih => exact (ifDue_sublist _ _).append ih

theorem dueCommands_sublist : (dueCommands s).Sublist [.delayExpiry, .windowExpiry, .relockExpiry, .countIdleExpiry 0, .countIdleExpiry 1,
    .countIdleExpiry 2, .countIdleExpiry 3, .exchangeTimeout, .signTimeout, .dayClockAdvance, .safeCommandPlaced] :=
  (((((((ifDue_sublist _ _).append (ifDue_sublist _ _)).append (ifDue_sublist _ _)).append (idleDue_sublist (List.finRange 4))).append
    (ifDue_sublist _ _)).append (ifDue_sublist _ _)).append (ifDue_sublist _ _)).append (ifDue_sublist _ _)

theorem mem_dueCommands {c : Instr} : c ∈ dueCommands s ↔
    (s.safe.lock = .delay ∧ expired s s.safe.timer = true ∧ c = .delayExpiry) ∨
    (s.safe.lock = .window ∧ expired s s.safe.timer = true ∧ c = .windowExpiry) ∨
    (s.safe.lock = .unlocked ∧ expired s s.safe.timer = true ∧ c = .relockExpiry) ∨
    (∃ x : Fin 4, idleExpired s x = true ∧ c = .countIdleExpiry x.val) ∨
    (s.call.phase = .exchange ∧ expired s s.call.timer = true ∧ c = .exchangeTimeout) ∨
    (s.call.phase = .signing ∧ expired s s.call.timer = true ∧ c = .signTimeout) ∨
    (clockDue s = true ∧ c = .dayClockAdvance) ∨ (commandPlaceable s = true ∧ c = .safeCommandPlaced) := by
  simp only [dueCommands, List.mem_append, mem_ifDue, List.mem_flatMap, List.mem_finRange, true_and, Bool.and_eq_true, decide_eq_true_eq,
    and_assoc, or_assoc]

theorem commandPlaceable_iff : commandPlaceable s = true ↔ s.safe.owed = true ∧ s.room.out.reserved + s.room.out.filled.length < 8 ∧
    ∃ i : Fin 252, s.nodes[i].enabled = true ∧ s.nodes[i].role = .safe := by
  have hfree : 0 < s.room.out.free ↔ s.room.out.reserved + s.room.out.filled.length < 8 := by
    unfold OutQueue.free Config.outgoingPlaces
    omega
  rw [commandPlaceable, Bool.and_eq_true, Bool.and_eq_true, decide_eq_true_eq, hfree, safeNode_isSome, and_assoc]

/-- What is queued when a second passes with nothing waiting. -/
theorem tick_pending (h : s.pending = []) : (tick s).pending = dueCommands (s.setSeconds (s.seconds + 1)) := by
  show s.pending ++ _ = _
  rw [h]
  rfl

theorem tick_leaves (s : State) : unchangedBut [.pending, .seconds] s (tick s) :=
  unchangedBut_mono (unchangedBut_trans (setSeconds_leaves _ s) (setPending_leaves _ _)) (by decide)

end

/-- Settles O1: membership in the list of due commands, read off one by one. -/
theorem stepRunsFrontCommand : Obligations.StepRunsFrontCommand := by
  refine ⟨fun c rest s h => by rw [step, h], fun s h => by rw [step, h], fun s h => ⟨tick s, by rw [step, h], rfl, tick_leaves s, ?_⟩⟩
  dsimp only
  rw [tick_pending h]
  have hdue {o : Option Nat} : expired (s.setSeconds (s.seconds + 1)) o = true ↔ ∃ deadline, o = some deadline ∧ deadline ≤ (tick s).seconds :=
    expired_iff
  refine ⟨dueCommands_sublist, ?_, ?_, ?_, fun x => ?_, ?_, ?_, ?_, ?_⟩ <;> rw [mem_dueCommands]
  case refine_4 =>
    have hsame (y : Fin 4) : x.val = y.val ↔ y = x := ⟨fun h => (Fin.ext h).symm, fun h => by rw [h]⟩
    simp only [reduceCtorEq, and_false, false_or, or_false, Instr.countIdleExpiry.injEq, hsame, exists_eq_right, idleExpired, Bool.and_eq_true,
      decide_eq_true_eq, hdue]
    rfl
  case refine_7 =>
    simp only [reduceCtorEq, and_false, exists_false, false_or, or_false, and_true, clockDue, decide_eq_true_eq]
    rfl
  case refine_8 =>
    simp only [reduceCtorEq, and_false, exists_false, false_or, and_true, commandPlaceable_iff]
    rfl
  all_goals
    simp only [reduceCtorEq, and_false, exists_false, false_or, or_false, and_true, hdue]
    rfl

section
variable {s : State}

theorem trunkReady_reset : trunkReady State.reset = true := by decide

theorem setPending_same {e : Event} {b : Bool} (h : (s.event e).pending = b) : Machine.setPending e b s = s := by
  subst h
  show s.setEvents (put s.events e.row s.events[e.row.val]) = s
  rw [put_same]
  rfl

/-- Where the events stand on their sources, evaluating them again changes nothing (R181, R183). -/
theorem settleEvents_same (h : Settled s) : settleEvents s = s := by
  obtain ⟨hvector, hsource⟩ := h
  have hsync : syncIndirect s = s := by
    have hpickup : Machine.setPending .pickupDue (pickupDueAny s) s = s := setPending_same (hsource .pickupDue rfl)
    have hhalf : Machine.setPending .tallyHalf (tallyAny (fun t => t.half) s) s = s := setPending_same (hsource .tallyHalf rfl)
    have hfull : Machine.setPending .tallyFull (tallyAny (fun t => t.full) s) s = s := setPending_same (hsource .tallyFull rfl)
    rw [syncIndirect, hpickup, hhalf, hfull]
  rw [settleEvents, hsync, evaluateVector, ← hvector, decide_eq_false (lt_irrefl _), Bool.or_false]
  rfl

theorem active_reset (e : Event) : State.reset.active e = decide (e = .powerUp) := by cases e <;> rfl

theorem topEvent_reset : topEvent State.reset = 26 := by
  simp only [topEvent, active_reset]
  decide

theorem tally_reset (g : TallyGroup) (c : Fin 12) : State.reset.tally g c = { count := 0, half := false, full := false } := by
  cases g <;> exact Vector.getElem_replicate ..

theorem anyRow_replicate {α : Type} {n : Nat} {f : α → Bool} {x : α} (h : f x = false) : anyRow f (Vector.replicate n x) = false := by
  refine List.any_eq_false.mpr fun y hy => ?_
  rw [Vector.toList_replicate] at hy
  rw [List.eq_of_mem_replicate hy, h]
  decide

theorem tallyAny_reset {f : Tally → Bool} (h : f { count := 0, half := false, full := false } = false) : tallyAny f State.reset = false := by
  refine List.any_eq_false.mpr fun g _ => ?_
  have hrow : State.reset.tallies[g.row] = Vector.replicate 12 { count := 0, half := false, full := false } := Vector.getElem_replicate ..
  rw [hrow, anyRow_replicate h, Bool.and_false]
  decide

theorem pickupDueAny_reset : pickupDueAny State.reset = false := anyRow_replicate rfl

theorem reset_settled : Settled State.reset := by
  refine ⟨topEvent_reset.symm, fun e he => ?_⟩
  cases e with
  | pickupDue => exact pickupDueAny_reset.symm
  | tallyHalf => exact (tallyAny_reset rfl).symm
  | tallyFull => exact (tallyAny_reset rfl).symm
  | _ => cases he

/-- The frame that starts after the reset is an ATTENTION with POWER_UP's code and the summary DAY alone (R183, R196). -/
theorem trunkStart_reset : (settle State.reset (startTrunk State.reset)).trunk.sending =
    some { source := .attention, chars := trunkChars typeAttention [26, 1] } ∧
    (settle State.reset (startTrunk State.reset)).attention = false := by
  have hstart : startTrunk State.reset = (State.reset.setTrunk { State.reset.trunk with
      sending := some { source := .attention, chars := trunkChars typeAttention [26, 1] } }).setAttention false := by
    rw [show ([26, 1] : List Byte) = attentionPayload State.reset by decide]
    rfl
  have hsettled : Settled (startTrunk State.reset) := by
    rw [hstart]
    exact reset_settled
  have hplaceable : commandPlaceable (startTrunk State.reset) = false ∧ waitingPlaceable (startTrunk State.reset) = false ∧
      (startTrunk State.reset).day.state = .night := by
    rw [hstart]
    exact ⟨rfl, rfl, rfl⟩
  obtain ⟨hcommand, hwaiting, hday⟩ := hplaceable
  rw [settle_quiet (by simp [hcommand]) (by simp [hwaiting]) (by simp [hday]), settleEvents_same hsettled, hstart]
  exact ⟨rfl, rfl⟩

theorem reset_countsInRange : CountsInRange State.reset :=
  powerOn_countsInRange (s := State.reset) (t := (State.reset.setPending _).setDraws _) rfl

theorem reset_reservationsMatch : ReservationsMatch State.reset :=
  ⟨fun p => by cases p <;> rfl, rfl, fun p hne => by cases p <;> exact absurd rfl hne⟩

end

/-- Settles O2: the reset state is written out. -/
theorem powerOnState : Obligations.PowerOnState := by
  refine ⟨fun s => rfl, rfl, fun c => ?_, rfl, rfl, fun t => ?_, fun i => ?_, rfl, fun x => ?_, fun g c => ?_, fun i => ?_, rfl, rfl, rfl, rfl,
    rfl, rfl, fun n => ?_, rfl, rfl, fun g => ?_, fun p => ?_, rfl, rfl, rfl, rfl, rfl, rfl, fun e he => ?_, rfl, rfl, ?_⟩
  · exact ⟨Vector.getElem_replicate .., Vector.getElem_replicate ..⟩
  · exact ⟨Vector.getElem_replicate .., Vector.getElem_replicate ..⟩
  · exact Vector.getElem_replicate ..
  · rw [show State.reset.sessions[x] = Session.reset from Vector.getElem_replicate ..]
    exact ⟨rfl, rfl, rfl, rfl, rfl, rfl, rfl, fun c => ⟨Vector.getElem_replicate .., Vector.getElem_replicate .., Vector.getElem_replicate ..⟩⟩
  · exact tally_reset g c
  · exact Vector.getElem_replicate ..
  · exact Vector.getElem_replicate ..
  · exact Vector.getElem_replicate ..
  · cases p <;> exact ⟨rfl, rfl, rfl, rfl, rfl, rfl, rfl⟩
  · cases e <;> first | rfl | exact absurd rfl he
  · exact ⟨_, takingIf_true trunkReady_reset, trunkStart_reset⟩

/-- Settles O4: each invariant of the reset state from its own lemma. -/
theorem invariantsAtReset : Obligations.InvariantsAtReset :=
  ⟨reset_settled, reset_sealsDistinct, reset_inventoryMatches, reset_placesHeld, reset_reservationsMatch, reset_dayInRange, reset_denomsInRange,
    reset_countsInRange, reset_countsMatch, reset_sessionSound, reset_lockTimed, reset_idleTimed, reset_waitingSound, reset_pinsSound,
    reset_handoverBags, reset_drawersAgree, reset_stockSound, reset_ledger⟩

end Sys2Proof.Machine.Effects

/-! PROOF. What a frame command leaves alone: by the kind of its frame, and row by row (R44 to R57, R61 to R72, R171 to R175). -/

namespace Sys2Proof.Machine.Effects

open Sys2Proof Sys2Proof.Machine Sys2Proof.Machine.Takings Sys2Proof.Machine.TallyCount

section
variable {s t u : State} {p : Port} {w : Window} {k : JobKind}

/-! ## What a kind's job leaves alone -/

/-- What holds of the states of both outcomes holds of the state of the outcome. -/
theorem state_ite {β : Type} {P : State → Prop} {c : Prop} [Decidable c] {x y : State × β} (h : P x.1) (k : P y.1) : P (if c then x else y).1 := by
  split <;> assumption

/-- The parts that a kind's job may change (R173, step 7). -/
theorem job_parts (k : JobKind) (f : Taken) (s : State) : unchangedBut (k.parts ++ Part.answerParts) s (k.job f s).1 := by
  have hsub {ex : List Part} {u : State} (h : unchangedBut ex s u) (hex : ∀ b ∈ ex, b ∈ k.parts ++ Part.answerParts) :
      unchangedBut (k.parts ++ Part.answerParts) s u := unchangedBut_mono h hex
  cases k with
  | tender => exact hsub (tenderJob_leaves f s) (by decide)
  | refund => exact hsub (refundJob_leaves f s) (by decide)
  | pickup => exact hsub (pickupJob_leaves f s) (by decide)
  | cashup => exact hsub (cashupJob_leaves f s) (by decide)
  | declare => exact hsub (declareJob_leaves f s) (by decide)
  | floatReceipt => exact hsub (floatReceiptJob_leaves f s) (by decide)
  | tillOpen => exact hsub (tillOpenJob_leaves f s) (by decide)
  | drop => exact hsub (dropJob_leaves f s) (by decide)
  | withdraw => exact hsub (withdrawJob_leaves f s) (by decide)
  | deposit => exact hsub (depositJob_leaves f s) (by decide)
  | door => 
    exact state_ite (P := unchangedBut _ s) (hsub (doorClosedJob_leaves f s) (by decide)) (hsub (doorOpenJob_leaves f s) (by decide))
  | openRequest => exact hsub (openRequestJob_leaves f s) (by decide)
  | openConfirm => exact hsub (openConfirmJob_leaves f s) (by decide)
  | openCancel => exact hsub (openCancelJob_leaves f s) (by decide)
  | makeUp =>
    exact state_ite (P := unchangedBut _ s) (hsub (makeUpConsignmentJob_leaves f s) (by decide)) (hsub (makeUpFloatJob_leaves f s) (by decide))
  | restock => exact hsub (restockJob_leaves f s) (by decide)
  | bagOpen => exact hsub (bagOpenJob_leaves f s) (by decide)
  | batch => exact hsub (batchJob_leaves f s) (by decide)
  | bagClose => exact hsub (bagCloseJob_leaves f s) (by decide)
  | countAbort => exact hsub (countAbortJob_leaves f s) (by decide)
  | handKey => exact hsub (handKeyJob_leaves f s) (by decide)
  | announce => exact hsub (announceJob_leaves f s) (by decide)
  | load => exact hsub (loadJob_leaves f s) (by decide)
  | receive => exact hsub (receiveJob_leaves f s) (by decide)
  | sign => exact hsub (signJob_leaves f s) (by decide)

/-- The events that a kind's job may raise. -/
theorem job_events (k : JobKind) (f : Taken) (s : State) : eventsBut k.events s (k.job f s).1 := by
  have hnone {ex : List Part} {u : State} (h : unchangedBut ex s u) (hex : .events ∉ ex) : eventsBut k.events s u := eventsBut_of_leaves _ h hex
  cases k with
  | tender => exact tenderJob_events f s
  | refund => exact refundJob_events f s
  | pickup => exact pickupJob_events f s
  | cashup => exact cashupJob_events f s
  | declare => exact declareJob_events f s
  | floatReceipt => exact floatReceiptJob_events f s
  | tillOpen => exact tillOpenJob_events f s
  | drop => exact dropJob_events f s
  | withdraw => exact hnone (withdrawJob_leaves f s) (by decide)
  | deposit => exact depositJob_events f s
  | door => exact state_ite (P := eventsBut _ s) (hnone (doorClosedJob_leaves f s) (by decide)) (doorOpenJob_events f s)
  | openRequest => exact hnone (openRequestJob_leaves f s) (by decide)
  | openConfirm => exact hnone (openConfirmJob_leaves f s) (by decide)
  | openCancel => exact hnone (openCancelJob_leaves f s) (by decide)
  | makeUp =>
    exact state_ite (P := eventsBut _ s) (hnone (makeUpConsignmentJob_leaves f s) (by decide)) (hnone (makeUpFloatJob_leaves f s) (by decide))
  | restock => exact hnone (restockJob_leaves f s) (by decide)
  | bagOpen => exact hnone (bagOpenJob_leaves f s) (by decide)
  | batch => exact hnone (batchJob_leaves f s) (by decide)
  | bagClose => exact bagCloseJob_events f s
  | countAbort => exact hnone (countAbortJob_leaves f s) (by decide)
  | handKey => exact hnone (handKeyJob_leaves f s) (by decide)
  | announce => exact announceJob_events f s
  | load => exact hnone (loadJob_leaves f s) (by decide)
  | receive => exact hnone (receiveJob_leaves f s) (by decide)
  | sign => exact signJob_events f s

/-- What decides a frame leaves the state, or it is the job of the kind as which the frame passes, or a confirm without its witnesses (R173, R90). -/
theorem decideFrame_cases (f : Taken) (s : State) : (decideFrame f s).1 = s ∨
    (∃ k pair, inspectForm f s = .ok k ∧ (decideFrame f s).1 = (k.job { f with pair := pair } s).1) ∨
    inspectForm f s = .ok .openConfirm ∧ ∃ n, (decideFrame f s).1 = (confirmFailed n s).1 := by
  unfold decideFrame
  split
  · exact .inl rfl
  · next k hform =>
    unfold witnessAndRun
    split
    · exact .inr (.inl ⟨k, f.pair, hform, rfl⟩)
    · split
      · next pair _ => exact .inr (.inl ⟨k, some pair, hform, rfl⟩)
      · split
        · next hk => exact .inr (.inr ⟨hk ▸ hform, _, rfl⟩)
        · exact .inl rfl

/-- The commands of one kind: what the deciding of their frames leaves alone, by what the job of that kind leaves alone. -/
theorem decideFrame_leave {isKind : LineFrame → Bool} {parts : List Part} {events : List Event} (hkind : ∀ f, isKind f = true → f.kind = k.byte)
    (hjob : ∀ f s, isKind f.frame = true → unchangedBut (parts ++ Part.answerParts) s (k.job f s).1 ∧ eventsBut events s (k.job f s).1)
    (hconfirm : k = .openConfirm → .safe ∈ parts ∧ .safeLockout ∈ events) (f : Taken) (s : State) (h : isKind f.frame = true) :
    unchangedBut (parts ++ Part.answerParts) s (decideFrame f s).1 ∧ eventsBut events s (decideFrame f s).1 := by
  have hbyte {k' : JobKind} (hform : inspectForm f s = .ok k') : k' = k := by
    have hk := (inspectForm_ok hform).1.symm.trans (hkind _ h)
    cases k' <;> cases k <;> first | rfl | exact absurd hk (by decide)
  rcases decideFrame_cases f s with he | ⟨k', pair, hform, he⟩ | ⟨hform, n, he⟩ <;> rw [he]
  · exact ⟨unchangedBut_refl _ s, eventsBut_refl _ s⟩
  · rw [hbyte hform]
    exact hjob { f with pair := pair } s h
  · obtain ⟨hsafe, hlockout⟩ := hconfirm (hbyte hform).symm
    refine ⟨unchangedBut_mono (confirmFailed_leaves n s) ?_, eventsBut_mono (confirmFailed_events n s) ?_⟩
    · intro b hb
      simp only [List.mem_cons, List.not_mem_nil, or_false] at hb
      rcases hb with rfl | rfl | rfl <;> simp [Part.answerParts, Part.eventParts, hsafe]
    · simpa using hlockout

/-- The frames of a kind leave alone what its job leaves alone. -/
theorem kind_leaves {c : Port → Instr} (k : JobKind) (hc : ∀ p s, exec (c p) s = deliver p (isJob k) s) (parts : List Part) (events : List Event)
    (hparts : ∀ b ∈ k.parts, b ∈ parts) (hevents : k.events = events) : FrameLeaves c parts events := by
  subst hevents
  have hdecide := decideFrame_leave (k := k) (isKind := isJob k) (parts := parts) (events := k.events) (fun f h => by simpa [isJob] using h)
    (fun f s _ => ⟨unchangedBut_mono (job_parts k f s) fun b hb => by
      rcases List.mem_append.mp hb with hb | hb
      · exact List.mem_append_left _ (hparts b hb)
      · exact List.mem_append_right _ hb, job_events k f s⟩)
    (fun h => ⟨hparts _ (by rw [h]; decide), by rw [h]; decide⟩)
  exact frame_leaves hc (fun f s h _ => (hdecide f s h).1) fun f s h _ => (hdecide f s h).2

/-- The frames of one form of a kind leave alone what its job leaves alone on that form. -/
theorem form_leaves {c : Port → Instr} {isKind : LineFrame → Bool} (k : JobKind) (hc : ∀ p s, exec (c p) s = deliver p isKind s)
    {parts : List Part} {events : List Event} (hkind : ∀ f, isKind f = true → f.kind = k.byte) (hk : k ≠ .openConfirm)
    (hjob : ∀ f s, isKind f.frame = true → unchangedBut (parts ++ Part.answerParts) s (k.job f s).1 ∧ eventsBut events s (k.job f s).1) :
    FrameLeaves c parts events :=
  frame_leaves hc (fun f s h _ => (decideFrame_leave hkind hjob (fun h => absurd h hk) f s h).1)
    fun f s h _ => (decideFrame_leave hkind hjob (fun h => absurd h hk) f s h).2

/-! ## The state after a frame command -/

/-- The state after a frame command is, but for the ports, the answer and the end of the taking, the one that its deciding leaves. -/
theorem frame_result {c : Port → Instr} {isKind : LineFrame → Bool} (hc : ∀ p s, exec (c p) s = deliver p isKind s)
    (hkind : ∀ f, isKind f = true → f.kind = k.byte) (hrx : (s.port p).rx = .markWindow w) (h : exec (c p) s = .next t) :
    ∃ v u, unchangedBut [Part.ofPort p] s v ∧ unchangedBut ([.bags, .day] ++ Part.answerParts) u t ∧
      (s.day.state ≠ .closing → t.bags = u.bags) ∧
      (u = v ∨ (inspectForm (w.taken p) v = .ok k ∧ ∃ pair, u = (k.job { w.taken p with pair := pair } v).1) ∨
        k = .openConfirm ∧ ∃ n, u = (confirmFailed n v).1) := by
  rw [hc] at h
  rcases deliver_cases p isKind s with he | ⟨w', hw', -, hk, he⟩
  · rw [he] at h
    cases h
    exact ⟨s, s, unchangedBut_refl _ s, unchangedBut_refl _ s, fun _ => rfl, .inl rfl⟩
  · rw [hrx] at hw'
    cases hw'
    rw [he] at h
    cases h
    have hend : unchangedBut ([.bags, .day] ++ Part.eventParts) (takeFrame (w.taken p) (s.setRx p .idle))
        (settle s (takeFrame (w.taken p) (s.setRx p .idle))) := by
      rw [settle_frame]
      exact unchangedBut_mono (unchangedBut_trans (testReports_leaves s _) (settleEvents_leaves _)) (by decide)
    have hopen (h : s.day.state ≠ .closing) : (settle s (takeFrame (w.taken p) (s.setRx p .idle))).bags =
        (takeFrame (w.taken p) (s.setRx p .idle)).bags := by
      rw [settle_frame, testReports_frame s p _ h]
      exact settleEvents_leaves _ .bags (by decide)
    have hanswer : ∃ u, unchangedBut ([Part.ofPort p] ++ [.uplink, .draws]) u (takeFrame (w.taken p) (s.setRx p .idle)) ∧
        (u = s.setRx p .idle ∨ u = (decideFrame (w.taken p) (s.setRx p .idle)).1) := by
      unfold takeFrame
      split
      · exact ⟨_, unchangedBut_mono (fillEnvelope_leaves _ _ _) (by simp), .inl rfl⟩
      · exact ⟨_, unchangedBut_mono (unchangedBut_trans (fillAnswer_leaves (w.taken p) _ _) (fillEnvelope_leaves (w.taken p) _ _))
          (by cases p <;> simp [Part.ofPort, Window.taken]), .inr rfl⟩
    obtain ⟨u, hu, hdecided⟩ := hanswer
    refine ⟨s.setRx p .idle, u, setRx_leaves p .idle s, unchangedBut_mono (unchangedBut_trans hu hend) (by cases p <;> decide),
      fun h => (hopen h).trans (hu .bags (by cases p <;> decide)), ?_⟩
    rcases hdecided with rfl | rfl
    · exact .inl rfl
    · rcases decideFrame_cases (w.taken p) (s.setRx p .idle) with he | ⟨k', pair, hform, he⟩ | ⟨hform, n, he⟩
      · exact .inl he
      · have hsame : k' = k := by
          have hb := (inspectForm_ok hform).1.symm.trans (hkind _ hk)
          cases k' <;> cases k <;> first | rfl | exact absurd hb (by decide)
        subst hsame
        exact .inr (.inl ⟨hform, pair, he⟩)
      · have hsame : JobKind.openConfirm = k := by
          have hb := (inspectForm_ok hform).1.symm.trans (hkind _ hk)
          cases k <;> first | rfl | exact absurd hb (by decide)
        exact .inr (.inr ⟨hsame.symm, n, he⟩)

/-! ## The other rows -/

/-- Every drawer but one stays. -/
def OtherDrawers (k : Fin 160) (s t : State) : Prop := ∀ j : Fin 160, j ≠ k → t.drawers[j] = s.drawers[j]

/-- Every session but one stays. -/
def OtherSessions (x : Fin 4) (s t : State) : Prop := ∀ y : Fin 4, y ≠ x → t.sessions[y] = s.sessions[y]

/-- Every bag but one stays. -/
def OtherBags (n : Nat) (s t : State) : Prop := ∀ m, m ≠ n → findBag t m = findBag s m

section
variable {i : Fin 160} {x : Fin 4} {n : Nat}

theorem otherDrawers_of_leaves {ex : List Part} (h : unchangedBut ex s t) (hex : .drawers ∉ ex := by decide) : OtherDrawers i s t :=
  fun j _ => by rw [h .drawers hex]

theorem OtherDrawers.trans (h : OtherDrawers i s t) (k : OtherDrawers i t u) : OtherDrawers i s u := fun j hj => (k j hj).trans (h j hj)

theorem setDrawer_others (i : Fin 160) (d : Drawer) (s : State) : OtherDrawers i s (setDrawer i d s) := fun _ hj => put_get_other _ _ _ _ hj.symm

theorem otherSessions_of_leaves {ex : List Part} (h : unchangedBut ex s t) (hex : .sessions ∉ ex := by decide) : OtherSessions x s t :=
  fun y _ => by rw [h .sessions hex]

theorem OtherSessions.trans (h : OtherSessions x s t) (k : OtherSessions x t u) : OtherSessions x s u := fun y hy => (k y hy).trans (h y hy)

theorem setSession_others (x : Fin 4) (v : Session) (s : State) : OtherSessions x s (setSession x v s) := fun _ hy => put_get_other _ _ _ _ hy.symm

theorem otherBags_of_leaves {ex : List Part} (h : unchangedBut ex s t) (hex : .bags ∉ ex := by decide) : OtherBags n s t :=
  fun m _ => findBag_congr (h .bags hex) m

theorem OtherBags.trans (h : OtherBags n s t) (k : OtherBags n t u) : OtherBags n s u := fun m hm => (k m hm).trans (h m hm)

theorem changeBag_others {b : Bag} (hb : b.sealNo = n) (s : State) : OtherBags n s (changeBag n (fun _ => b) s) := by
  intro m hm
  show (s.bags.map fun c => if c.sealNo = n then b else c).find? _ = s.bags.find? _
  induction s.bags with
  | nil => rfl
  | cons c l ih =>
    by_cases hc : c.sealNo = n
    · have hrow : ¬c.sealNo = m := fun h => hm (h.symm.trans hc)
      have hnew : ¬b.sealNo = m := fun h => hm (h.symm.trans hb)
      rw [List.map_cons, if_pos hc, List.find?_cons_of_neg (by simpa using hnew), List.find?_cons_of_neg (by simpa using hrow)]
      exact ih
    · rw [List.map_cons, if_neg hc, List.find?_cons, List.find?_cons, ih]

theorem askRegister_others {move : Bag → Except Code Bag} (hmove : ∀ b b', move b = .ok b' → b'.sealNo = b.sealNo) (n : Nat) (s : State) :
    OtherBags n s (askRegister n move s) := by
  unfold askRegister
  rcases transition_spec n move s with ⟨-, ht⟩ | ⟨b, c, -, -, ht⟩ | ⟨b, b', hfind, hok, ht⟩ <;> rw [ht]
  · exact fun _ _ => rfl
  · exact fun _ _ => rfl
  · exact changeBag_others ((hmove b b' hok).trans (findBag_some hfind).2) s

end

/-! ## Till frames -/

section
variable {i : Fin 160}

theorem compareHold_others (i : Fin 160) (s : State) : OtherDrawers i s (compareHold i s) := by
  unfold compareHold
  dsimp only
  split
  · exact (setDrawer_others i _ s).trans (otherDrawers_of_leaves (raiseNum_leaves _ _ _))
  · split
    · exact setDrawer_others i _ s
    · exact fun _ _ => rfl

theorem comparePickup_others (i : Fin 160) (s : State) : OtherDrawers i s (comparePickup i s) := by
  unfold comparePickup
  split
  · exact ((setDrawer_others i _ s).trans (otherDrawers_of_leaves (raiseNum_leaves _ _ _))).trans (otherDrawers_of_leaves (placeCall_leaves i _))
  · exact setDrawer_others i _ s

theorem reevaluate_others (i : Fin 160) (s : State) : OtherDrawers i s (reevaluate i s) :=
  (compareHold_others i s).trans (comparePickup_others i _)

theorem moveDrawer_others (i : Fin 160) (f : Drawer → Drawer) (s : State) : OtherDrawers i s (moveDrawer i f s) := by
  have happly : OtherDrawers i s (applyMovement i f s) := by
    unfold applyMovement
    split
    · exact (setDrawer_others i _ s).trans (otherDrawers_of_leaves (raiseNum_leaves _ _ _))
    · exact setDrawer_others i _ s
  exact happly.trans (reevaluate_others i _)

/-- What a till frame's job does to the state whose sequence it records, a till frame does: a relation that holds of the records and of the events, and
that composes (R44, R45). -/
theorem tillFrame_related {α : Type} {R : State → State → Prop} {k : JobKind} {parsed : Option α} {seq : α → Option Nat}
    {copy : Fin 160 → State → Answer} {job : Fin 160 → α → State → State × Answer} {f : Taken} {s : State}
    (hevents : ∀ {u v : State}, unchangedBut [.events] u v → R u v) (htrans : ∀ {u v x : State}, R u v → R v x → R u x)
    (hrecord : ∀ q u, R u (recordSequence (tillOf s f.frame.src) q f.crc u))
    (hjob : ∀ a u, parsed = some a → unchangedBut [.events, .drawers] s u → R u (job (tillOf s f.frame.src) a u).1) :
    R s (tillFrame k parsed seq copy job f s).1 := by
  have hsteps (a : α) (u : State) (ha : parsed = some a) (hu : unchangedBut [.events, .drawers] s u) :
      R u (tillSteps56 k (tillOf s f.frame.src) (job (tillOf s f.frame.src) a) u).1 := by
    unfold tillSteps56
    split
    · exact hjob a u ha hu
    · exact hevents (unapplied_leaves k _ u)
  have hstay : R s s := hevents (unchangedBut_refl _ s)
  unfold tillFrame
  cases hparsed : parsed with
  | none => exact hstay
  | some a =>
    dsimp only
    split; · exact hevents (unapplied_leaves k _ s)
    split; · exact hstay
    split
    · exact hsteps a s hparsed (unchangedBut_refl _ s)
    · split
      · exact hstay
      · exact hstay
      · refine htrans (htrans (hevents (raiseGap_leaves _ _ s)) (hrecord _ _)) (hsteps a _ hparsed ?_)
        exact unchangedBut_trans (raiseGap_leaves _ _ s) (recordSequence_leaves _ _ _ _)

theorem tillFrame_others {α : Type} {k : JobKind} {parsed : Option α} {seq : α → Option Nat}
    {copy : Fin 160 → State → Answer} {job : Fin 160 → α → State → State × Answer} {f : Taken} {s : State}
    (hjob : ∀ i a u, OtherDrawers i u (job i a u).1) : OtherDrawers (tillOf s f.frame.src) s (tillFrame k parsed seq copy job f s).1 :=
  tillFrame_related (R := OtherDrawers (tillOf s f.frame.src)) (fun h => otherDrawers_of_leaves h) OtherDrawers.trans
    (fun _ _ => setDrawer_others _ _ _) fun a u _ _ => hjob _ a u

theorem actOnRebalance_others (i : Fin 160) (e : Fin 24) (q : Nat) (ps : List (Fin 12 × Nat)) (s : State) :
    OtherDrawers i s (actOnRebalance i e q ps s).1 := by
  have hraised : OtherDrawers i s (raiseShort i (rebalance s i ps) (compareDeclared i (declaredValue s ps) s)) :=
    otherDrawers_of_leaves (unchangedBut_trans (compareDeclared_leaves i _ s) (raiseShort_leaves i _ _))
  unfold actOnRebalance
  dsimp only
  split
  · exact (hraised.trans (otherDrawers_of_leaves (unchangedBut_trans (setOrder_leaves e _ _) (reserve_leaves _ _)))).trans (setDrawer_others i _ _)
  · exact hraised

/-- The till frames but FLOAT_RECEIPT keep every drawer but the one of the till that sent them. -/
theorem tillJob_others (hk : k = .tender ∨ k = .refund ∨ k = .pickup ∨ k = .cashup ∨ k = .tillOpen ∨ k = .declare) (f : Taken) (s : State) :
    OtherDrawers (tillOf s f.frame.src) s (k.job f s).1 := by
  have hbag (i : Fin 160) (g : Drawer → Drawer) (b : Bag) (u : State) : OtherDrawers i u (moveDrawer i g (addBag b u)) :=
    (otherDrawers_of_leaves (addBag_leaves b u)).trans (moveDrawer_others i g _)
  rcases hk with rfl | rfl | rfl | rfl | rfl | rfl
  · exact tillFrame_others fun i a u => moveDrawer_others i _ u
  · exact tillFrame_others fun i a u => moveDrawer_others i _ u
  · refine tillFrame_others fun i a u => ?_
    dsimp only
    split
    · exact fun _ _ => rfl
    · exact hbag i _ _ u
  · refine tillFrame_others fun i a u => ?_
    dsimp only
    split
    · exact fun _ _ => rfl
    · exact hbag i _ _ u
  · refine tillFrame_others fun i a u => ?_
    dsimp only
    split
    · exact (setDrawer_others i _ u).trans (reevaluate_others i _)
    · exact fun _ _ => rfl
  · refine tillFrame_others fun i a u => ?_
    unfold declareRule
    split; · exact fun _ _ => rfl
    split; · exact fun _ _ => rfl
    split; · exact fun _ _ => rfl
    split; · exact fun _ _ => rfl
    exact actOnRebalance_others i _ _ _ u

theorem tillOf_congr (h : t.nodes = s.nodes) (b : Byte) : tillOf t b = tillOf s b := by
  unfold tillOf State.node
  rw [h]

/-- A drawer that stays, or whose open order is cleared for a reason. -/
def MayClear (P : Prop) (j : Fin 160) (s t : State) : Prop :=
  t.drawers[j] = s.drawers[j] ∨ P ∧ t.drawers[j] = { s.drawers[j] with openOrder := none }

theorem MayClear.trans {P : Prop} {j : Fin 160} (h : MayClear P j s t) (k : MayClear P j t u) : MayClear P j s u := by
  unfold MayClear at *
  rcases k with k | ⟨hP, k⟩ <;> rw [k]
  · exact h
  · rcases h with h | ⟨-, h⟩ <;> rw [h] <;> exact .inr ⟨hP, rfl⟩

/-- The bag that a FLOAT_RECEIPT names carries an order of this till. -/
def ReceiptOrderOf (s : State) (f : Taken) (j : Fin 160) : Prop :=
  ∃ q n b e, parseReceipt f.frame.body = some (q, n) ∧ findBag s n = some b ∧ b.order = some e ∧ s.orders[e].till = j

/-- A FLOAT_RECEIPT changes the drawer of its till, and of the till of its bag's order the open order at most (R72). -/
theorem receiptJob_others (f : Taken) (s : State) (j : Fin 160) (hj : j ≠ tillOf s f.frame.src) :
    MayClear (ReceiptOrderOf s f j) j s (floatReceiptJob f s).1 := by
  have hother {u v : State} (h : OtherDrawers (tillOf s f.frame.src) u v) : MayClear (ReceiptOrderOf s f j) j u v := .inl (h j hj)
  refine tillFrame_related (fun h => .inl (by rw [h .drawers (by decide)])) MayClear.trans (fun _ _ => hother (setDrawer_others _ _ _))
    fun a u ha hu => ?_
  unfold receiptRule
  split; · exact .inl rfl
  next b hfind =>
  split; · exact .inl rfl
  next b' hmove =>
  split; · exact .inl rfl
  have hfreed : MayClear (ReceiptOrderOf s f j) j (changeBag a.2 (fun _ => b') u) (match b.order with
      | some e => freeOrder e .done (changeBag a.2 (fun _ => b') u)
      | none => changeBag a.2 (fun _ => b') u) := by
    split
    · next e horder =>
      by_cases htill : j = s.orders[e].till
      · have hrow : ReceiptOrderOf s f j := by
          refine ⟨a.1, a.2, b, e, ha, ?_, horder, htill.symm⟩
          rwa [← findBag_congr (hu .bags (by decide)) a.2]
        have hsame : (changeBag a.2 (fun _ => b') u).orders[e].till = j := by
          rw [htill, ← hu .orders (by decide)]
          rfl
        refine .inr ⟨hrow, ?_⟩
        unfold freeOrder
        rw [hsame]
        exact put_get_self _ _ _
      · have hne : (changeBag a.2 (fun _ => b') u).orders[e].till ≠ j := by
          intro h
          rw [show (changeBag a.2 (fun _ => b') u).orders = s.orders from hu .orders (by decide)] at h
          exact htill h.symm
        exact .inl (put_get_other _ _ _ _ hne)
    · exact .inl rfl
  have hlast (v : State) : MayClear (ReceiptOrderOf s f j) j v
      (moveDrawer (tillOf s f.frame.src) (fun d => d.receivedFloat b.declared) (setOpenOrder (tillOf s f.frame.src) none v)) :=
    hother ((setDrawer_others _ _ v).trans (moveDrawer_others _ _ _))
  exact MayClear.trans (s := u) (t := changeBag a.2 (fun _ => b') u) (.inl rfl) (hfreed.trans (hlast _))

end

end

section
variable {s t : State} {p : Port} {w : Window}

theorem port_apart (p : Port) {b : Part} (hb : b ∉ [Part.floor, .room] := by decide) : b ∉ [Part.ofPort p] := by
  cases p <;> exact fun h => hb (by rw [List.mem_singleton.mp h]; decide)

/-- The state before the deciding of a frame, where only its receiver has changed. -/
theorem drawers_after {u v : State} (hv : unchangedBut [Part.ofPort p] s v) (hu : unchangedBut ([.bags, .day] ++ Part.answerParts) u t) {j : Fin 160}
    (h : u.drawers[j] = v.drawers[j]) : t.drawers[j] = s.drawers[j] := by
  rw [hu .drawers (by decide), h, hv .drawers (port_apart p)]

theorem tillFrame_drawers {c : Port → Instr} (k : JobKind) (hc : ∀ p s, exec (c p) s = deliver p (isJob k) s)
    (hk : k = .tender ∨ k = .refund ∨ k = .pickup ∨ k = .cashup ∨ k = .tillOpen ∨ k = .declare) (hrx : (s.port p).rx = .markWindow w)
    (h : exec (c p) s = .next t) (j : Fin 160) (hj : j ≠ tillOf s w.frame.src) : t.drawers[j] = s.drawers[j] := by
  obtain ⟨v, u, hv, hu, -, hjob⟩ := frame_result hc (fun f hf => by simpa [isJob] using hf) hrx h
  refine drawers_after hv hu ?_
  rcases hjob with rfl | ⟨-, pair, rfl⟩ | ⟨rfl, -⟩
  · rfl
  · refine tillJob_others hk _ v j ?_
    rwa [tillOf_congr (hv .nodes (port_apart p))]
  · simp at hk

end

/-- Settles O58: the parts and events by the kind's job, the other drawers by the till frame's rule. -/
theorem tillFramesLeave : Obligations.TillFramesLeave := by
  refine ⟨⟨kind_leaves .tender (fun _ _ => rfl) _ _ (by decide) rfl, kind_leaves .refund (fun _ _ => rfl) _ _ (by decide) rfl,
    kind_leaves .pickup (fun _ _ => rfl) _ _ (by decide) rfl, kind_leaves .cashup (fun _ _ => rfl) _ _ (by decide) rfl,
    kind_leaves .tillOpen (fun _ _ => rfl) _ _ (by decide) rfl, kind_leaves .declare (fun _ _ => rfl) _ _ (by decide) rfl,
    kind_leaves .floatReceipt (fun _ _ => rfl) _ _ (by decide) rfl⟩, fun c hc p s t w hrx h j hj => ?_, fun p s t w hrx h j hj => ?_⟩
  · simp only [List.mem_cons, List.not_mem_nil, or_false] at hc
    rcases hc with rfl | rfl | rfl | rfl | rfl | rfl
    · exact tillFrame_drawers .tender (fun _ _ => rfl) (by decide) hrx h j hj
    · exact tillFrame_drawers .refund (fun _ _ => rfl) (by decide) hrx h j hj
    · exact tillFrame_drawers .pickup (fun _ _ => rfl) (by decide) hrx h j hj
    · exact tillFrame_drawers .cashup (fun _ _ => rfl) (by decide) hrx h j hj
    · exact tillFrame_drawers .tillOpen (fun _ _ => rfl) (by decide) hrx h j hj
    · exact tillFrame_drawers .declare (fun _ _ => rfl) (by decide) hrx h j hj
  · obtain ⟨v, u, hv, hu, -, hjob⟩ := frame_result (k := .floatReceipt) (c := .floatReceipt) (fun _ _ => rfl)
      (fun f hf => by simpa [isJob] using hf) hrx h
    rcases hjob with rfl | ⟨-, pair, rfl⟩ | ⟨hk, -⟩
    · exact .inl (drawers_after hv hu rfl)
    · have hrow := receiptJob_others { w.taken p with pair := pair } v j (by rwa [tillOf_congr (hv .nodes (port_apart p))])
      rcases hrow with hsame | ⟨⟨q, n, b, e, hbody, hfind, horder, htill⟩, hclear⟩
      · exact .inl (drawers_after hv hu hsame)
      · refine .inr ⟨q, n, b, e, hbody, ?_, horder, ?_, ?_⟩
        · rwa [← findBag_congr (hv .bags (port_apart p)) n]
        · rwa [← hv .orders (port_apart p)]
        · rw [hu .drawers (by decide)]
          refine hclear.trans ?_
          rw [hv .drawers (port_apart p)]
    · cases hk

end Sys2Proof.Machine.Effects

/-! PROOF. What a room frame leaves alone: the other bags and the other sessions (R79 to R84, R100 to R109, R125 to R132). -/

namespace Sys2Proof.Machine.Effects

open Sys2Proof Sys2Proof.Machine Sys2Proof.Machine.Takings Sys2Proof.Machine.TallyCount

section
variable {s t u : State} {n m : Nat} {b b' : Bag} {x : Fin 4}

/-! ## The seal of a moved record -/

theorem entered_seal {now : Nat} (h : moveDrop now b = .ok b' ∨ moveDeposit now b = .ok b') : b'.sealNo = b.sealNo :=
  (entered_row (A := anyPassage) (call := Handover.reset) trivial h).1.keeps.1

theorem withdrawn_seal {call : Handover} {now : Nat} (h : moveWithdraw call now b = .ok b') : b'.sealNo = b.sealNo :=
  (RowMove.withdrawn (A := anyPassage) now trivial h).keeps.1

theorem opened_seal {now : Nat} (h : moveOpen x now b = .ok b') : b'.sealNo = b.sealNo :=
  (opened_row (A := anyPassage) (call := Handover.reset) trivial h).keeps.1

theorem aborted_seal {now : Nat} (h : moveAbort x now b = .ok b') : b'.sealNo = b.sealNo :=
  (aborted_row (A := anyPassage) (call := Handover.reset) trivial h).keeps.1

theorem closed_seal {counted suspect now : Nat} {variance : Int} {cls : BagClass} (h : moveClose x counted suspect variance cls now b = .ok b') :
    b'.sealNo = b.sealNo :=
  (closed_row (A := anyPassage) (call := Handover.reset) trivial h).keeps.1

/-! ## The frames that name a bag -/

theorem otherBags_of_bags (h : t.bags = s.bags) : OtherBags n s t := fun m _ => findBag_congr h m

theorem acceptEntry_others (op : SafeOp) (way : EntryWay) (node : Byte) (hfind : findBag s n = some b)
    (h : moveDrop s.seconds b = .ok b' ∨ moveDeposit s.seconds b = .ok b') : OtherBags n s (acceptEntry op way b' node s) := by
  have hseal : b'.sealNo = n := (entered_seal h).trans (findBag_some hfind).2
  have hchanged : (acceptEntry op way b' node s).bags = (changeBag n (fun _ => b') s).bags := by rw [← hseal]; rfl
  exact (changeBag_others hseal s).trans (otherBags_of_bags hchanged)

theorem dropRule_others (n : Nat) (node : Byte) (s : State) : OtherBags n s (dropRule n node s).1 := by
  unfold dropRule
  split; · exact otherBags_of_leaves (raiseNum_leaves _ _ s)
  split; · exact fun _ _ => rfl
  split; · exact otherBags_of_leaves (raiseNum_leaves _ _ s)
  next hfind =>
  split; · exact fun _ _ => rfl
  next hmove =>
  split; · exact otherBags_of_leaves (raiseNum_leaves _ _ s)
  exact acceptEntry_others .drop .chute node hfind (.inl hmove)

theorem depositRule_others (n : Nat) (node : Byte) (s : State) : OtherBags n s (depositRule n node s).1 := by
  unfold depositRule
  split; · exact fun _ _ => rfl
  split; · exact fun _ _ => rfl
  split; · exact fun _ _ => rfl
  next hfind =>
  split; · exact fun _ _ => rfl
  next hmove =>
  split; · exact otherBags_of_leaves (raiseNum_leaves _ _ s)
  exact acceptEntry_others .deposit .door node hfind (.inr hmove)

theorem withdrawRule_others (n : Nat) (node : Byte) (s : State) : OtherBags n s (withdrawRule n node s).1 := by
  unfold withdrawRule
  split; · exact fun _ _ => rfl
  split; · exact fun _ _ => rfl
  split; · exact fun _ _ => rfl
  next hfind =>
  split; · exact fun _ _ => rfl
  next b' hmove =>
  have hseal : b'.sealNo = n := (withdrawn_seal hmove).trans (findBag_some hfind).2
  exact (changeBag_others hseal s).trans (otherBags_of_bags rfl)

theorem loadRule_others (n : Nat) (s : State) : OtherBags n s (loadRule n s).1 := by
  unfold loadRule
  split; · exact fun _ _ => rfl
  split; · exact fun _ _ => rfl
  split; · exact fun _ _ => rfl
  rcases transition_spec n (moveLoad s.seconds) s with ⟨-, ht⟩ | ⟨b, c, -, -, ht⟩ | ⟨b, b', hfind, hok, ht⟩ <;> rw [ht]
  · exact fun _ _ => rfl
  · exact fun _ _ => rfl
  · have hseal : b'.sealNo = n := by
      obtain ⟨-, rfl⟩ := load_ok hok
      exact (findBag_some hfind).2
    exact (changeBag_others hseal s).trans (otherBags_of_leaves (afterLoad_leaves _ _))

theorem restockBag_others (hfind : findBag s n = some b) (hmove : moveRestock s.seconds b = .ok b') : OtherBags n s (restockBag b b' s) := by
  obtain ⟨hb, hn⟩ := findBag_some hfind
  have hseal : b'.sealNo = b.sealNo := by
    obtain ⟨-, -, rfl⟩ := restock_ok hmove
    rfl
  have hadd : OtherBags n s (addRestocked b.declared (addAll s (Vector.ofFn fun c => b.countOf c))) := otherBags_of_bags rfl
  have hchanged := hadd.trans (changeBag_others (hseal.trans hn) _)
  unfold restockBag
  dsimp only
  rw [hn]
  split
  · exact hchanged.trans (otherBags_of_leaves (freeOrder_leaves _ _ _))
  · exact hchanged

theorem bagOpenRule_others (x : Fin 4) (node : Byte) (n : Nat) (s : State) : OtherBags n s (bagOpenRule x node n s).1 := by
  unfold bagOpenRule
  split
  · unfold beginCount
    split; · exact fun _ _ => rfl
    next hfind =>
    split; · exact fun _ _ => rfl
    next b' hmove =>
    exact (changeBag_others ((opened_seal hmove).trans (findBag_some hfind).2) s).trans (otherBags_of_bags rfl)
  · split
    · exact otherBags_of_leaves (restartIdle_leaves x s)
    · exact fun _ _ => rfl
  · split
    · exact (askRegister_others (fun _ _ => opened_seal) n s).trans (otherBags_of_leaves (setSession_leaves x _ _))
    · exact fun _ _ => rfl

/-- The frames whose body names a bag by its seal change no other bag. -/
theorem sealNamed_others {k : JobKind} (hk : k = .drop ∨ k = .withdraw ∨ k = .deposit ∨ k = .load ∨ k = .restock ∨ k = .bagOpen) (f : Taken) (s : State)
    (hm : parseSeal f.frame.body ≠ some m) : findBag (k.job f s).1 m = findBag s m := by
  have hseal {rule : Nat → Byte → State → State × Answer} (hrule : ∀ n node s, OtherBags n s (rule n node s).1) :
      findBag (sealJob rule f s).1 m = findBag s m := by
    unfold sealJob
    split
    · rfl
    · next n hn => exact hrule n _ s m fun h => hm (h ▸ hn)
  rcases hk with rfl | rfl | rfl | rfl | rfl | rfl
  · exact hseal dropRule_others
  · exact hseal withdrawRule_others
  · exact hseal depositRule_others
  · show findBag (loadJob f s).1 m = _
    unfold loadJob
    split
    · rfl
    · next n hn => exact loadRule_others n s m fun h => hm (h ▸ hn)
  · show findBag (restockJob f s).1 m = _
    unfold restockJob
    split; · rfl
    next n hn =>
    split; · rfl
    next b hfind =>
    split; · rfl
    next b' hmove =>
    split; · rfl
    exact restockBag_others hfind hmove m fun h => hm (h ▸ hn)
  · show findBag (bagOpenJob f s).1 m = _
    unfold bagOpenJob
    split
    · rfl
    · next n hn => exact bagOpenRule_others _ _ n s m fun h => hm (h ▸ hn)

/-! ## The frames that create a bag -/

/-- The bags stay, or one comes behind them. -/
def MayAdd (s t : State) : Prop := t.bags = s.bags ∨ ∃ b, t.bags = s.bags ++ [b]

theorem mayAdd_of_leaves {ex : List Part} (h : unchangedBut ex s t) (hex : .bags ∉ ex := by decide) : MayAdd s t := .inl (h .bags hex)

theorem MayAdd.before (h : t.bags = s.bags) (k : MayAdd t u) : MayAdd s u := by
  unfold MayAdd at *
  rwa [← h]

theorem MayAdd.after (h : MayAdd s t) (k : u.bags = t.bags) : MayAdd s u := by
  unfold MayAdd at *
  rwa [k]

/-- A till frame adds a bag at most where its job does. -/
theorem tillFrame_adds {α : Type} {k : JobKind} {parsed : Option α} {seq : α → Option Nat} {copy : Fin 160 → State → Answer}
    {job : Fin 160 → α → State → State × Answer} (hjob : ∀ i a u, MayAdd u (job i a u).1) (f : Taken) (s : State) :
    MayAdd s (tillFrame k parsed seq copy job f s).1 := by
  have hrelated : (tillFrame k parsed seq copy job f s).1.bags = s.bags ∨ MayAdd s (tillFrame k parsed seq copy job f s).1 := by
    refine tillFrame_related (R := fun u v => v.bags = u.bags ∨ MayAdd s v) (fun h => .inl (h .bags (by decide))) (fun {u v x} h k => ?_)
      (fun _ _ => .inl rfl) fun a u _ hu => .inr (MayAdd.before (hu .bags (by decide)) (hjob _ a u))
    rcases k with k | k
    · exact h.imp k.trans fun h => h.after k
    · exact .inr k
  exact hrelated.elim .inl id

theorem skimmed_adds (i : Fin 160) (g : Drawer → Drawer) (b : Bag) (s : State) : MayAdd s (moveDrawer i g (addBag b s)) :=
  .inr ⟨b, moveDrawer_leaves i g _ .bags (by decide)⟩

/-- The frames that create a bag change no other (R15, R26, R71, R130). -/
theorem creating_adds {k : JobKind} (hk : k = .makeUp ∨ k = .receive ∨ k = .pickup ∨ k = .cashup) (f : Taken) (s : State) :
    MayAdd s (k.job f s).1 := by
  rcases hk with rfl | rfl | rfl | rfl
  · refine state_ite (P := MayAdd s) ?_ ?_
    · unfold makeUpConsignmentJob
      split; · exact .inl rfl
      split; · exact .inl rfl
      dsimp only
      split; · exact .inl rfl
      split; · exact .inl rfl
      split; · exact .inl rfl
      exact .inr ⟨_, rfl⟩
    · unfold makeUpFloatJob
      split; · exact .inl rfl
      split; · exact .inl rfl
      split; · exact .inl rfl
      · exact .inl rfl
      split; · exact .inl rfl
      exact .inr ⟨_, rfl⟩
  · show MayAdd s (receiveJob f s).1
    unfold receiveJob
    split; · exact .inl rfl
    unfold receiveRule
    split; · exact .inl rfl
    dsimp only
    split; · exact .inl rfl
    split; · exact .inl rfl
    split; · exact .inl rfl
    exact .inr ⟨_, rfl⟩
  · refine tillFrame_adds (fun i a u => ?_) f s
    dsimp only
    split
    · exact .inl rfl
    · exact skimmed_adds i _ _ u
  · refine tillFrame_adds (fun i a u => ?_) f s
    dsimp only
    split
    · exact .inl rfl
    · exact skimmed_adds i _ _ u

/-! ## The frames of a session -/

theorem restartIdle_others (x : Fin 4) (s : State) : OtherSessions x s (restartIdle x s) := by
  unfold restartIdle
  split
  · exact setSession_others x _ s
  · exact fun _ _ => rfl

theorem counterActs_others (x : Fin 4) (node : Byte) (s : State) : OtherSessions x s (counterActs x node s) := by
  unfold counterActs
  split
  · exact restartIdle_others x s
  · exact fun _ _ => rfl

/-- The session that acts keeps its bag. -/
theorem counterActs_bag (x : Fin 4) (node : Byte) (s : State) : (counterActs x node s).sessions[x].bag = s.sessions[x].bag := by
  unfold counterActs
  split
  · obtain ⟨tm, h⟩ := restart_session x s
    rw [h]
  · rfl

theorem abortSession_sessions (x : Fin 4) (s : State) : OtherSessions x s (abortSession x s) := fun y hy => by
  rw [abort_sessions, if_neg hy.symm]

theorem abortSession_bags (x : Fin 4) (s : State) : OtherBags s.sessions[x].bag s (abortSession x s) :=
  (askRegister_others (fun _ _ => aborted_seal) _ s).trans (otherBags_of_leaves (setSession_leaves x _ _))

theorem countAbortRule_others (x : Fin 4) (node : Byte) (console : Bool) (s : State) :
    OtherBags s.sessions[x].bag s (countAbortRule x node console s).1 ∧ OtherSessions x s (countAbortRule x node console s).1 := by
  have haborted := And.intro (abortSession_bags x s) (abortSession_sessions x s)
  unfold countAbortRule
  dsimp only
  split
  · exact ⟨fun _ _ => rfl, fun _ _ => rfl⟩
  · split
    · exact haborted
    · exact ⟨fun _ _ => rfl, fun _ _ => rfl⟩
  · exact haborted

/-- The close of a session: stock and accumulator, the bag, then drawer, tallies and events, and the session last (R106 to R108). -/
theorem applyCount_steps (x : Fin 4) (b b' : Bag) (variance : Int) (cls : BagClass) (s : State) :
    ∃ base final, unchangedBut [.stock, .acc] s base ∧
      unchangedBut [.drawers, .tallies, .events] (changeBag s.sessions[x].bag (fun _ => b') base) final ∧
      applyCount x b b' variance cls s = setSession x Session.reset final :=
  ⟨_, _, applyClose_leaves _ _ _ s, unchangedBut_mono (unchangedBut_trans (unchangedBut_trans (closeAtDrawer_leaves b variance _)
    (addTallies_leaves _ _)) (closeEvents_leaves _ _ cls _)) (by decide), rfl⟩

theorem applyCount_others {variance : Int} {cls : BagClass} (hfind : findBag s s.sessions[x].bag = some b) (hseal : b'.sealNo = b.sealNo) :
    OtherBags s.sessions[x].bag s (applyCount x b b' variance cls s) ∧ OtherSessions x s (applyCount x b b' variance cls s) := by
  obtain ⟨base, final, hbase, hfinal, heq⟩ := applyCount_steps x b b' variance cls s
  rw [heq]
  constructor
  · have hchanged := changeBag_others (hseal.trans (findBag_some hfind).2) base
    exact (((otherBags_of_leaves hbase).trans hchanged).trans (otherBags_of_leaves hfinal)).trans (otherBags_of_leaves (setSession_leaves x _ _))
  · have hsame : OtherSessions x s final := fun y _ => by
      rw [hfinal .sessions (by decide)]
      show base.sessions[y] = _
      rw [hbase .sessions (by decide)]
    exact hsame.trans (setSession_others x _ _)

theorem bagCloseRule_others (x : Fin 4) (node : Byte) (s : State) :
    OtherBags s.sessions[x].bag s (bagCloseRule x node s).1 ∧ OtherSessions x s (bagCloseRule x node s).1 := by
  have hstay : OtherBags s.sessions[x].bag s s ∧ OtherSessions x s s := ⟨fun _ _ => rfl, fun _ _ => rfl⟩
  unfold bagCloseRule
  dsimp only
  split; · exact hstay
  split; · exact hstay
  split; · exact hstay
  split; · exact hstay
  split; · exact hstay
  next b hfind =>
  split; · exact hstay
  next hmove => exact applyCount_others hfind (closed_seal hmove)

theorem bagCloseJob_others (f : Taken) (s : State) :
    OtherBags s.sessions[slotOf s f.frame.src].bag s (bagCloseJob f s).1 ∧ OtherSessions (slotOf s f.frame.src) s (bagCloseJob f s).1 := by
  have hacts := counterActs_others (slotOf s f.frame.src) f.frame.src s
  have hbags (n : Nat) : OtherBags n s (counterActs (slotOf s f.frame.src) f.frame.src s) := otherBags_of_leaves (counterActs_leaves _ _ s)
  unfold bagCloseJob
  dsimp only
  split
  · exact ⟨hbags _, hacts⟩
  · obtain ⟨hbag, hsession⟩ := bagCloseRule_others (slotOf s f.frame.src) f.frame.src (counterActs (slotOf s f.frame.src) f.frame.src s)
    rw [counterActs_bag] at hbag
    exact ⟨(hbags _).trans hbag, hacts.trans hsession⟩

theorem batchRule_others (x : Fin 4) (node : Byte) (k a u r : Nat) (s : State) : OtherSessions x s (batchRule x node k a u r s).1 := by
  unfold batchRule
  dsimp only
  split; · exact fun _ _ => rfl
  split; · exact fun _ _ => rfl
  split; · exact fun _ _ => rfl
  split; · exact fun _ _ => rfl
  split; · exact fun _ _ => rfl
  split; · exact fun _ _ => rfl
  split; · exact fun _ _ => rfl
  exact setSession_others x _ s

theorem batchJob_others (f : Taken) (s : State) : OtherSessions (slotOf s f.frame.src) s (batchJob f s).1 := by
  have hacts := counterActs_others (slotOf s f.frame.src) f.frame.src s
  unfold batchJob
  dsimp only
  split
  · exact hacts
  · exact hacts.trans (batchRule_others _ _ _ _ _ _ _)

theorem handKeyRule_others (x : Fin 4) (k n : Nat) (resolves outSuspect : Bool) (s : State) :
    OtherSessions x s (handKeyRule x k n resolves outSuspect s).1 := by
  unfold handKeyRule
  dsimp only
  split; · exact fun _ _ => rfl
  split; · exact fun _ _ => rfl
  split; · exact fun _ _ => rfl
  split; · exact fun _ _ => rfl
  split; · exact fun _ _ => rfl
  split; · exact fun _ _ => rfl
  exact state_ite (P := OtherSessions x s) (fun _ _ => rfl) (state_ite (P := OtherSessions x s) (fun _ _ => rfl) (setSession_others x _ s))

theorem bagOpenRule_sessions (x : Fin 4) (node : Byte) (n : Nat) (s : State) : OtherSessions x s (bagOpenRule x node n s).1 := by
  unfold bagOpenRule
  split
  · unfold beginCount
    split; · exact fun _ _ => rfl
    split; · exact fun _ _ => rfl
    exact (otherSessions_of_leaves (changeBag_leaves n _ s)).trans (setSession_others x _ _)
  · split
    · exact restartIdle_others x s
    · exact fun _ _ => rfl
  · split
    · exact (otherSessions_of_leaves (askRegister_leaves n _ s)).trans (setSession_others x _ _)
    · exact fun _ _ => rfl

/-- The counter frames but COUNT_ABORT come from a counter alone, and act on its session. -/
theorem sessionNamed_counter {f : Taken} {k : JobKind} (hk : k = .bagOpen ∨ k = .batch ∨ k = .bagClose) (hform : inspectForm f s = .ok k) :
    sessionNamed s f.frame = some (slotOf s f.frame.src) := by
  have hbyte := (inspectForm_ok hform).1
  have hsender : k.senders.any (fun r => roleOf s f.frame.src = some r) = true := by
    unfold inspectForm at hform
    split at hform
    · cases hform
    split at hform
    · cases hform
    next k' _ =>
    split at hform
    · cases hform
    next hrole =>
    have hsame : k' = k := by
      split at hform
      · cases hform
      · split at hform <;> cases hform
        rfl
    rw [← hsame]
    simpa using hrole
  have hrole : roleOf s f.frame.src = some .counter := by
    rcases hk with rfl | rfl | rfl <;> simpa [JobKind.senders] using hsender
  have hkind : f.frame.kind ≠ JobKind.handKey.byte := by
    rw [hbyte]
    rcases hk with rfl | rfl | rfl <;> decide
  unfold sessionNamed
  rw [if_neg hkind, hrole]
  rfl

/-- The session frames change no session but the one that their counter or their body names. -/
theorem sessionFrame_others {k : JobKind} (hk : k = .bagOpen ∨ k = .batch ∨ k = .bagClose ∨ k = .handKey ∨ k = .countAbort) {f : Taken}
    {pair : Option (Byte × Byte)} (hform : inspectForm f s = .ok k) (hx : sessionNamed s f.frame ≠ some x) :
    (k.job { f with pair := pair } s).1.sessions[x] = s.sessions[x] := by
  have hcounter (hk : k = .bagOpen ∨ k = .batch ∨ k = .bagClose) : x ≠ slotOf s f.frame.src :=
    fun h => hx (by rw [sessionNamed_counter hk hform, h])
  rcases hk with rfl | rfl | rfl | rfl | rfl
  · show (bagOpenJob _ s).1.sessions[x] = _
    unfold bagOpenJob
    split
    · rfl
    · exact bagOpenRule_sessions _ _ _ s x (hcounter (by decide))
  · exact batchJob_others _ s x (hcounter (by decide))
  · exact (bagCloseJob_others _ s).2 x (hcounter (by decide))
  · have hnamed : (parseHandKey f.frame.body).bind (fun a => inRange 4 a.1) ≠ some x := by
      unfold sessionNamed at hx
      rwa [if_pos (inspectForm_ok hform).1] at hx
    show (handKeyJob _ s).1.sessions[x] = _
    unfold handKeyJob
    split; · rfl
    next hparse =>
    split; · rfl
    next y hrange =>
    have hne : x ≠ y := fun h => hnamed (by rw [hparse, h]; exact hrange)
    exact ((restartIdle_others y s).trans (handKeyRule_others y _ _ _ _ _)) x hne
  · have hkind : f.frame.kind ≠ JobKind.handKey.byte := by
      rw [(inspectForm_ok hform).1]
      decide
    unfold sessionNamed at hx
    rw [if_neg hkind] at hx
    show (countAbortJob _ s).1.sessions[x] = _
    unfold countAbortJob
    split
    · next hconsole =>
      rw [if_pos hconsole] at hx
      split; · rfl
      next hparse =>
      split; · rfl
      next y hrange =>
      have hne : x ≠ y := fun h => hx (by rw [hparse, h]; exact hrange)
      exact (countAbortRule_others y _ _ s).2 x hne
    · next hconsole =>
      rw [if_neg hconsole] at hx
      split; · rfl
      exact (countAbortRule_others _ _ _ s).2 x fun h => hx (by rw [h])

/-- A BAG_CLOSE and a COUNT_ABORT change no bag but the one that their session counts. -/
theorem sessionBag_others {k : JobKind} (hk : k = .bagClose ∨ k = .countAbort) {f : Taken} {pair : Option (Byte × Byte)}
    (hform : inspectForm f s = .ok k) (hm : ∀ x, sessionNamed s f.frame = some x → s.sessions[x].bag ≠ m) :
    findBag (k.job { f with pair := pair } s).1 m = findBag s m := by
  rcases hk with rfl | rfl
  · exact (bagCloseJob_others _ s).1 m (hm _ (sessionNamed_counter (by decide) hform)).symm
  · have hkind : f.frame.kind ≠ JobKind.handKey.byte := by
      rw [(inspectForm_ok hform).1]
      decide
    unfold sessionNamed at hm
    rw [if_neg hkind] at hm
    show findBag (countAbortJob _ s).1 m = _
    unfold countAbortJob
    split
    · next hconsole =>
      rw [if_pos hconsole] at hm
      split; · rfl
      next hparse =>
      split; · rfl
      next y hrange => exact (countAbortRule_others y _ _ s).1 m (hm y (by rw [hparse]; exact hrange)).symm
    · next hconsole =>
      rw [if_neg hconsole] at hm
      split; · rfl
      exact (countAbortRule_others _ _ _ s).1 m (hm _ rfl).symm

end

section
variable {s t : State} {p : Port} {w : Window} {k : JobKind} {c : Port → Instr} {isKind : LineFrame → Bool}

/-! ## The commands of the room frames -/

theorem isJob_kind (k : JobKind) (f : LineFrame) (h : isJob k f = true) : f.kind = k.byte := by simpa [isJob] using h

theorem form_kind {other : LineFrame → Bool} (k : JobKind) (f : LineFrame) (h : (isJob k f && !other f) = true) : f.kind = k.byte :=
  isJob_kind k f ((Bool.and_eq_true _ _).mp h).1

theorem consignment_kind (f : LineFrame) (h : isConsignment f = true) : f.kind = JobKind.makeUp.byte :=
  isJob_kind _ f ((Bool.and_eq_true _ _).mp h).1

theorem doorClosed_kind (f : LineFrame) (h : isDoorClosed f = true) : f.kind = JobKind.door.byte :=
  isJob_kind _ f ((Bool.and_eq_true _ _).mp h).1

theorem makeUpFloat_leaves : FrameLeaves .makeUpFloat [.orders, .bags, .stock, .acc] [] := by
  refine form_leaves .makeUp (isKind := fun f => isJob .makeUp f && !isConsignment f) (fun _ _ => rfl) (form_kind .makeUp) (by decide)
    fun f s h => ?_
  have hhead : ¬f.frame.body.head? = some 1#8 := fun hb => by simp [isConsignment, hb] at h
  show unchangedBut _ s (makeUpJob f s).1 ∧ _
  rw [makeUpJob, if_neg hhead]
  exact ⟨unchangedBut_mono (makeUpFloatJob_leaves f s) (by decide), job_events .makeUp f s⟩

theorem makeUpConsignment_leaves : FrameLeaves .makeUpConsignment [.bags, .stock, .acc] [] := by
  refine form_leaves .makeUp (isKind := isConsignment) (fun _ _ => rfl) consignment_kind (by decide) fun f s h => ?_
  have hhead : f.frame.body.head? = some 1#8 := by simpa using ((Bool.and_eq_true _ _).mp h).2
  show unchangedBut _ s (makeUpJob f s).1 ∧ _
  rw [makeUpJob, if_pos hhead]
  exact ⟨unchangedBut_mono (makeUpConsignmentJob_leaves f s) (by decide), job_events .makeUp f s⟩

theorem doorOpen_leaves : FrameLeaves .doorOpen [.safe] [.doorForced] := by
  exact form_leaves .door (isKind := fun f => isJob .door f && !isDoorClosed f) (fun _ _ => rfl) (form_kind .door) (by decide)
    fun f s _ => ⟨job_parts .door f s, job_events .door f s⟩

theorem doorClosed_leaves : FrameLeaves .doorClosed [.safe] [] := by
  refine form_leaves .door (isKind := isDoorClosed) (fun _ _ => rfl) doorClosed_kind (by decide) fun f s h => ?_
  have hbody : f.frame.body = [1#8] := by simpa using ((Bool.and_eq_true _ _).mp h).2
  refine ⟨job_parts .door f s, ?_⟩
  show eventsBut _ s (doorJob f s).1
  rw [doorJob, if_pos hbody]
  exact eventsBut_of_leaves _ (doorClosedJob_leaves f s) (by decide)

/-- A frame of an unknown kind decides nothing (R173). -/
theorem decideFrame_unknown {f : Taken} (h : isUnknown f.frame = true) : (decideFrame f s).1 = s := by
  have hform {k : JobKind} (hform : inspectForm f s = .ok k) : False := by
    have hnone : JobKind.ofByte f.frame.kind = none := by simpa using ((Bool.and_eq_true _ _).mp h).2
    rw [(inspectForm_ok hform).1] at hnone
    cases k <;> exact absurd hnone (by decide)
  rcases decideFrame_cases f s with he | ⟨k, pair, hk, -⟩ | ⟨hk, -⟩
  · exact he
  · exact (hform hk).elim
  · exact (hform hk).elim

/-- Outside CLOSING a record that the deciding leaves is as it was. -/
theorem frame_bag (hc : ∀ p s, exec (c p) s = deliver p isKind s) (hkind : ∀ f, isKind f = true → f.kind = k.byte) (hk : k ≠ .openConfirm)
    (hrx : (s.port p).rx = .markWindow w) (h : exec (c p) s = .next t) (hopen : s.day.state ≠ .closing) {m : Nat}
    (hjob : ∀ v pair, unchangedBut [Part.ofPort p] s v → inspectForm (w.taken p) v = .ok k →
      findBag (k.job { w.taken p with pair := pair } v).1 m = findBag v m) : findBag t m = findBag s m := by
  obtain ⟨v, u, hv, -, hbags, hcases⟩ := frame_result hc hkind hrx h
  rw [findBag_congr (hbags hopen) m, ← findBag_congr (hv .bags (port_apart p)) m]
  rcases hcases with rfl | ⟨hform, pair, rfl⟩ | ⟨hconfirm, -⟩
  · rfl
  · exact hjob v pair hv hform
  · exact absurd hconfirm hk

theorem frame_adds (hc : ∀ p s, exec (c p) s = deliver p isKind s) (hkind : ∀ f, isKind f = true → f.kind = k.byte)
    (hk : k = .makeUp ∨ k = .receive ∨ k = .pickup ∨ k = .cashup) (h : exec (c p) s = .next t) (hopen : s.day.state ≠ .closing) : MayAdd s t := by
  have hw : t = s ∨ ∃ w, (s.port p).rx = .markWindow w := by
    rw [hc] at h
    rcases deliver_cases p isKind s with he | ⟨w, hrx, -⟩
    · rw [he] at h
      exact .inl (Host.Outcome.next.inj h).symm
    · exact .inr ⟨w, hrx⟩
  rcases hw with rfl | ⟨w, hrx⟩
  · exact .inl rfl
  · obtain ⟨v, u, hv, -, hbags, hcases⟩ := frame_result hc hkind hrx h
    refine MayAdd.before (hv .bags (port_apart p)) (MayAdd.after ?_ (hbags hopen))
    rcases hcases with rfl | ⟨-, pair, rfl⟩ | ⟨hconfirm, -⟩
    · exact .inl rfl
    · exact creating_adds hk _ v
    · rw [hconfirm] at hk
      simp at hk

theorem sessionNamed_congr {v : State} (hv : unchangedBut [Part.ofPort p] s v) (f : LineFrame) : sessionNamed v f = sessionNamed s f := by
  have hnodes : v.nodes = s.nodes := hv .nodes (port_apart p)
  unfold sessionNamed slotOf roleOf State.node
  rw [hnodes]

/-- A session frame leaves every session but the one that it names. -/
theorem frame_session (hc : ∀ p s, exec (c p) s = deliver p (isJob k) s)
    (hk : k = .bagOpen ∨ k = .batch ∨ k = .bagClose ∨ k = .handKey ∨ k = .countAbort) (hrx : (s.port p).rx = .markWindow w)
    (h : exec (c p) s = .next t) {x : Fin 4} (hx : sessionNamed s w.frame ≠ some x) : t.sessions[x] = s.sessions[x] := by
  obtain ⟨v, u, hv, hu, -, hcases⟩ := frame_result hc (isJob_kind k) hrx h
  rw [hu .sessions (by decide), ← hv .sessions (port_apart p)]
  rcases hcases with rfl | ⟨hform, pair, rfl⟩ | ⟨hconfirm, -⟩
  · rfl
  · exact sessionFrame_others hk hform (by rwa [← sessionNamed_congr hv] at hx)
  · rw [hconfirm] at hk
    simp at hk

end

/-- Settles O59: parts and events by the kind's job; bags and sessions by what the body or the counter names. -/
theorem roomFramesLeave : Obligations.RoomFramesLeave := by
  refine ⟨⟨?_, ?_, kind_leaves .restock (fun _ _ => rfl) _ _ (by decide) rfl, kind_leaves .drop (fun _ _ => rfl) _ _ (by decide) rfl,
    kind_leaves .withdraw (fun _ _ => rfl) _ _ (by decide) rfl, kind_leaves .deposit (fun _ _ => rfl) _ _ (by decide) rfl, ?_, ?_,
    kind_leaves .openRequest (fun _ _ => rfl) _ _ (by decide) rfl, kind_leaves .openCancel (fun _ _ => rfl) _ _ (by decide) rfl,
    kind_leaves .openConfirm (fun _ _ => rfl) _ _ (by decide) rfl, kind_leaves .bagOpen (fun _ _ => rfl) _ _ (by decide) rfl,
    kind_leaves .batch (fun _ _ => rfl) _ _ (by decide) rfl, kind_leaves .handKey (fun _ _ => rfl) _ _ (by decide) rfl,
    kind_leaves .bagClose (fun _ _ => rfl) _ _ (by decide) rfl, kind_leaves .countAbort (fun _ _ => rfl) _ _ (by decide) rfl,
    kind_leaves .announce (fun _ _ => rfl) _ _ (by decide) rfl, kind_leaves .load (fun _ _ => rfl) _ _ (by decide) rfl,
    kind_leaves .receive (fun _ _ => rfl) _ _ (by decide) rfl, kind_leaves .sign (fun _ _ => rfl) _ _ (by decide) rfl, ?_, ?_⟩,
    fun c hc p s t w hrx h hopen m hm => ?_, fun c hc p s t h hopen => ?_, fun c hc p s t w hrx h hopen m hm => ?_,
    fun c hc p s t w hrx h x hx => ?_⟩
  · exact makeUpFloat_leaves
  · exact makeUpConsignment_leaves
  · exact doorOpen_leaves
  · exact doorClosed_leaves
  · exact frame_leaves (isKind := fun f => opaqueKind f.kind) (fun _ _ => rfl) (fun f s hk ho => by rw [hk] at ho; cases ho)
      fun f s hk ho => by rw [hk] at ho; cases ho
  · exact frame_leaves (isKind := isUnknown) (fun _ _ => rfl) (fun f s hk _ => by rw [decideFrame_unknown hk]; exact unchangedBut_refl _ s)
      fun f s hk _ => by rw [decideFrame_unknown hk]; exact eventsBut_refl _ s
  · simp only [List.mem_cons, List.not_mem_nil, or_false] at hc
    rcases hc with rfl | rfl | rfl | rfl | rfl | rfl
    · exact frame_bag (k := .drop) (fun _ _ => rfl) (isJob_kind _) (by decide) hrx h hopen fun v _ _ _ => sealNamed_others (by decide) _ v hm
    · exact frame_bag (k := .withdraw) (fun _ _ => rfl) (isJob_kind _) (by decide) hrx h hopen fun v _ _ _ => sealNamed_others (by decide) _ v hm
    · exact frame_bag (k := .deposit) (fun _ _ => rfl) (isJob_kind _) (by decide) hrx h hopen fun v _ _ _ => sealNamed_others (by decide) _ v hm
    · exact frame_bag (k := .load) (fun _ _ => rfl) (isJob_kind _) (by decide) hrx h hopen fun v _ _ _ => sealNamed_others (by decide) _ v hm
    · exact frame_bag (k := .restock) (fun _ _ => rfl) (isJob_kind _) (by decide) hrx h hopen fun v _ _ _ => sealNamed_others (by decide) _ v hm
    · exact frame_bag (k := .bagOpen) (fun _ _ => rfl) (isJob_kind _) (by decide) hrx h hopen fun v _ _ _ => sealNamed_others (by decide) _ v hm
  · simp only [List.mem_cons, List.not_mem_nil, or_false] at hc
    rcases hc with rfl | rfl | rfl | rfl | rfl
    · exact frame_adds (k := .makeUp) (fun _ _ => rfl) (form_kind _) (by decide) h hopen
    · exact frame_adds (k := .makeUp) (fun _ _ => rfl) consignment_kind (by decide) h hopen
    · exact frame_adds (k := .receive) (fun _ _ => rfl) (isJob_kind _) (by decide) h hopen
    · exact frame_adds (k := .pickup) (fun _ _ => rfl) (isJob_kind _) (by decide) h hopen
    · exact frame_adds (k := .cashup) (fun _ _ => rfl) (isJob_kind _) (by decide) h hopen
  · have hnamed {k : JobKind} (hk : k = .bagClose ∨ k = .countAbort) (v : State) (pair : Option (Byte × Byte)) (hv : unchangedBut [Part.ofPort p] s v)
        (hform : inspectForm (w.taken p) v = .ok k) : findBag (k.job { w.taken p with pair := pair } v).1 m = findBag v m := by
      refine sessionBag_others hk hform fun x hx => ?_
      rw [hv .sessions (port_apart p)]
      exact hm x (by rw [← sessionNamed_congr hv]; exact hx)
    simp only [List.mem_cons, List.not_mem_nil, or_false] at hc
    rcases hc with rfl | rfl
    · exact frame_bag (k := .bagClose) (fun _ _ => rfl) (isJob_kind _) (by decide) hrx h hopen (hnamed (by decide))
    · exact frame_bag (k := .countAbort) (fun _ _ => rfl) (isJob_kind _) (by decide) hrx h hopen (hnamed (by decide))
  · simp only [List.mem_cons, List.not_mem_nil, or_false] at hc
    rcases hc with rfl | rfl | rfl | rfl | rfl
    · exact frame_session (k := .bagOpen) (fun _ _ => rfl) (by decide) hrx h hx
    · exact frame_session (k := .batch) (fun _ _ => rfl) (by decide) hrx h hx
    · exact frame_session (k := .bagClose) (fun _ _ => rfl) (by decide) hrx h hx
    · exact frame_session (k := .handKey) (fun _ _ => rfl) (by decide) hrx h hx
    · exact frame_session (k := .countAbort) (fun _ _ => rfl) (by decide) hrx h hx

end Sys2Proof.Machine.Effects

/-! PROOF. What the commands of a line port leave alone, with and without a marked frame (R153 to R164). -/

namespace Sys2Proof.Machine.Effects

open Sys2Proof Sys2Proof.Machine Sys2Proof.Machine.Takings Sys2Proof.Machine.TallyCount

section
variable {s t u : State} {p q : Port} {w : Window} {ev : List Event}

/-! ## Work at the lines without a frame taken -/

/-- Work at a line port: its own port, the reserved uplink places, its events, and the owed flag of the safe. -/
structure LineQuiet (p : Port) (ev : List Event) (s t : State) : Prop where
  leaves : unchangedBut [.floor, .room, .uplink, .safe, .events, .draws] s t
  events : eventsBut ev s t
  safe : t.safe = { s.safe with owed := t.safe.owed }
  uplink : t.uplink.filled = s.uplink.filled
  other : ∀ q : Port, q ≠ p → t.port q = s.port q

theorem LineQuiet.refl (p : Port) (ev : List Event) (s : State) : LineQuiet p ev s s :=
  ⟨unchangedBut_refl _ s, eventsBut_refl _ s, rfl, rfl, fun _ _ => rfl⟩

theorem LineQuiet.trans (h : LineQuiet p ev s t) (k : LineQuiet p ev t u) : LineQuiet p ev s u where
  leaves := unchangedBut_comp h.leaves k.leaves
  events := eventsBut_comp h.events k.events
  safe := by rw [k.safe, h.safe]
  uplink := k.uplink.trans h.uplink
  other q hq := (k.other q hq).trans (h.other q hq)

theorem LineQuiet.mono {ex : List Event} (h : LineQuiet p ev s t) (hex : ∀ e ∈ ev, e ∈ ex) : LineQuiet p ex s t :=
  { h with events := eventsBut_mono h.events hex }

theorem setPort_quiet (p : Port) (x : LinePort) (s : State) : LineQuiet p ev s (s.setPort p x) where
  leaves := unchangedBut_mono (setPort_leaves p x s) (by cases p <;> decide)
  events := eventsBut_of_leaves _ (setPort_leaves p x s) (by cases p <;> decide)
  safe := by cases p <;> rfl
  uplink := by cases p <;> rfl
  other q hq := port_setPort_other hq.symm

theorem setUplink_quiet {x : Uplink} (h : x.filled = s.uplink.filled) : LineQuiet p ev s (s.setUplink x) where
  leaves := unchangedBut_mono (setUplink_leaves x s) (by decide)
  events := eventsBut_of_leaves _ (setUplink_leaves x s) (by decide)
  safe := rfl
  uplink := h
  other q _ := by cases q <;> rfl

theorem raise_quiet {e : Event} (a b : Nat) (he : e ∈ ev) : LineQuiet p ev s (raisePair e a b s) where
  leaves := unchangedBut_mono (raisePair_leaves e a b s) (by decide)
  events := eventsBut_mono (raisePair_events e a b s) (by simpa using he)
  safe := by rw [raisePair_leaves e a b s .safe (by decide)]
  uplink := by rw [raisePair_leaves e a b s .uplink (by decide)]
  other q _ := by
    cases q
    · exact raisePair_leaves e a b s .floor (by decide)
    · exact raisePair_leaves e a b s .room (by decide)

theorem setOwed_quiet (b : Bool) (s : State) : LineQuiet p ev s (s.setSafe { s.safe with owed := b }) where
  leaves := unchangedBut_mono (setSafe_leaves _ s) (by decide)
  events := eventsBut_of_leaves _ (setSafe_leaves _ s) (by decide)
  safe := rfl
  uplink := rfl
  other q _ := by cases q <;> rfl

/-- The work of the line ports raises LINK_ERROR. -/
abbrev LineWorks (p : Port) : State → State → Prop := LineQuiet p [.linkError]

theorem countError_quiet (k : LineCounter) (s : State) : LineWorks p s (countError p k s) :=
  (setPort_quiet p _ s).trans (raise_quiet _ _ (by decide))

theorem txIdle_quiet (c : Option Current) (s : State) : LineQuiet p ev s (txIdle p c s) := setPort_quiet p _ s

theorem freePlace_quiet (src : TxSource) (s : State) : LineQuiet p ev s (freePlace p src s) := by
  cases src <;> exact setPort_quiet p _ s

theorem tellOwner_quiet (c : Current) (s : State) : LineQuiet p ev s (tellOwner c s) := by
  unfold tellOwner
  split
  · exact setOwed_quiet true s
  · exact .refl p ev s

theorem failAttempt_quiet (p : Port) (s : State) : LineWorks p s (failAttempt p s) := by
  unfold failAttempt
  split
  · next c _ =>
    split
    · exact txIdle_quiet _ s
    · exact (((txIdle_quiet none s).trans (freePlace_quiet c.source _)).trans (countError_quiet .undelivered _)).trans (tellOwner_quiet c _)
  · exact txIdle_quiet none s

theorem deliverCurrent_quiet (p : Port) (s : State) : LineWorks p s (deliverCurrent p s) := by
  unfold deliverCurrent
  split
  · exact (txIdle_quiet none s).trans (freePlace_quiet _ _)
  · exact txIdle_quiet none s

theorem closeWindow_quiet (p : Port) (s : State) : LineWorks p s (closeWindow p s) := by
  unfold closeWindow
  split
  · split
    · exact deliverCurrent_quiet p s
    · exact failAttempt_quiet p s
  · exact txIdle_quiet none s

theorem recordMark_quiet (p : Port) (mark : Byte) (s : State) : LineWorks p s (recordMark p mark s) := by
  unfold recordMark
  dsimp only
  split
  · split
    · exact (setPort_quiet p _ s).trans (closeWindow_quiet p _)
    · exact setPort_quiet p _ s
  · exact setPort_quiet p _ s

theorem dataGone_quiet (p : Port) (s : State) : LineWorks p s (dataGone p s) := by
  unfold dataGone
  dsimp only
  split
  · split
    · exact (setPort_quiet p _ s).trans (deliverCurrent_quiet p _)
    · exact setPort_quiet p _ s
  · exact txIdle_quiet none s

theorem releaseReservations_quiet (f : LineFrame) (s : State) : LineQuiet p ev s (releaseReservations p f s) := by
  unfold releaseReservations
  dsimp only
  split
  · exact setUplink_quiet rfl
  · exact LineQuiet.trans (t := s.setUplink { s.uplink with reserved := s.uplink.reserved - 1 }) (setUplink_quiet rfl) (setPort_quiet p _ _)

theorem offer_quiet (p : Port) (f : LineFrame) (s : State) : LineQuiet p [.linkError, .queueFull] s (offer p f s).1 := by
  have hreserve : LineQuiet p [.linkError, .queueFull] s (reserveUplink s) := setUplink_quiet rfl
  unfold offer
  split; · exact .refl _ _ s
  split; · exact .refl _ _ s
  split; · exact raise_quiet _ _ (by decide)
  split; · exact hreserve
  split
  · exact raise_quiet _ _ (by decide)
  · exact hreserve.trans (setPort_quiet p _ _)

theorem openWindow_quiet (p : Port) (f : LineFrame) (crc : Word16) (s : State) : LineQuiet p [.linkError, .queueFull] s (openWindow p f crc s) :=
  (offer_quiet p f s).trans (setPort_quiet p _ _)

/-! ## Errors, and the frame that they take -/

/-- The receiver after an error, before a marked frame is taken: its port but for the queues and the transmitter, and LINK_ERROR. -/
structure ErrorCounted (p : Port) (s u : State) : Prop where
  leaves : unchangedBut [Part.ofPort p, .events] s u
  events : eventsBut [.linkError] s u
  ports : ∀ q : Port, (u.port q).tx = (s.port q).tx ∧ (u.port q).out = (s.port q).out ∧ (u.port q).down = (s.port q).down

theorem errorCounted (p : Port) (k : LineCounter) (s : State) : ErrorCounted p s (countError p k (s.setRx p .waitIdle)) where
  leaves := unchangedBut_mono (unchangedBut_trans (setRx_leaves p .waitIdle s) (countError_leaves p k _)) (by simp)
  events := eventsBut_comp (eventsBut_of_leaves _ (setRx_leaves p .waitIdle s) (by cases p <;> decide)) (countError_events p k _)
  ports q := by cases p <;> cases q <;> exact ⟨rfl, rfl, rfl⟩

theorem ErrorCounted.works (h : ErrorCounted p s u) : LineWorks p s u where
  leaves := unchangedBut_mono h.leaves (by cases p <;> decide)
  events := h.events
  safe := by rw [h.leaves .safe (by cases p <;> decide)]
  uplink := by rw [h.leaves .uplink (by cases p <;> decide)]
  other q hq := by cases p <;> cases q <;> first | exact absurd rfl hq | exact h.leaves .floor (by decide) | exact h.leaves .room (by decide)

theorem markedWindow_none (hrx : (s.port p).rx = .markWindow w) (h : w.answer ≠ .marked) : markedWindow s p = none := by
  unfold markedWindow
  rw [hrx]
  exact if_neg h

/-- What a receiver error does: the counter, and where the window is marked, the taking of its frame (R156). -/
theorem receiverError_taken (p : Port) (k : LineCounter) (s : State) :
    (markedWindow s p = none ∧ LineWorks p s (receiverError p k s)) ∨
      ∃ w u, markedWindow s p = some w ∧ ErrorCounted p s u ∧ receiverError p k s = takeFrame (w.taken p) u := by
  have herror : LineWorks p s (countError p k (s.setRx p .waitIdle)) := (setPort_quiet p _ s).trans (countError_quiet k _)
  by_cases hrx : ∃ w, (s.port p).rx = .markWindow w
  · obtain ⟨w, hrx⟩ := hrx
    rw [receiverError_window hrx]
    unfold endWindow
    by_cases hmarked : w.answer = .marked
    · exact .inr ⟨w, _, markedWindow_some.mpr ⟨hrx, hmarked⟩, errorCounted p k s, by rw [hmarked]⟩
    · refine .inl ⟨markedWindow_none hrx hmarked, ?_⟩
      split
      · next h => exact absurd h hmarked
      · exact herror.trans (releaseReservations_quiet _ _)
      · exact herror
  · have hplain : ∀ w, (s.port p).rx ≠ .markWindow w := fun w h => hrx ⟨w, h⟩
    rw [receiverError_plain hplain]
    refine .inl ⟨?_, herror⟩
    unfold markedWindow
    split
    · next w h => exact absurd h (hplain w)
    · rfl

/-! ## The commands of a port -/

/-- The port whose command it is. -/
def linePort : Instr → Option Port
  | .frameStart p | .endOfData p _ | .markByte p _ | .unmarkedFrameDropped p | .symbolError p _ | .framingError p _ _ | .longFrame p
  | .breakPulse p | .lineIdle p | .currentFrameChoice p | .transmitStart p | .arbitrationLost p _ | .headerSent p | .sendClash p | .dataSent p
  | .windowClose p => some p
  | _ => none

/-- The events that a line command may raise where it takes no frame. -/
def lineEvents : Instr → List Event
  | .endOfData _ _ => [.linkError, .queueFull]
  | _ => [.linkError]

theorem linkError_mem (c : Instr) : ∀ e ∈ [Event.linkError], e ∈ lineEvents c := by
  intro e he
  rw [List.mem_singleton.mp he]
  unfold lineEvents
  split <;> exact List.mem_cons_self

theorem lineArrives_port {c : Instr} (h : lineArrives p c) : linePort c = some p := by
  rcases h with h | rfl | rfl
  · rcases h with rfl | rfl | rfl | ⟨bits, rfl⟩ | ⟨mark, rfl⟩ | ⟨sym, rfl⟩ | ⟨sym, inc, rfl⟩ <;> rfl
  · rfl
  · rfl

theorem lineWork_port {c : Instr} {f : State → State} (h : LineWork p s c f) : linePort c = some p := by
  cases h with
  | interrupted _ h => exact lineArrives_port h
  | faulty k _ _ h => exact lineArrives_port h
  | _ => rfl

theorem frameCommand_port (f : LineFrame) (p : Port) : linePort (frameCommand f p) = none := by
  unfold frameCommand
  split
  · rfl
  · cases JobKind.ofByte f.kind with
    | none => rfl
    | some k =>
      cases k with
      | door => dsimp only; split <;> rfl
      | makeUp => dsimp only; split <;> rfl
      | _ => rfl

/-- A line command's taking is its port's work. -/
theorem taking_line {c : Instr} {f : State → State} (h : Taking s c f) (hc : linePort c = some p) : LineWork p s c f := by
  cases h with
  | @line q _ _ h =>
    rw [lineWork_port h] at hc
    cases hc
    exact h
  | frame q w _ =>
    rw [frameCommand_port] at hc
    cases hc
  | placed => cases hc
  | expiry h => cases h <;> cases hc
  | trunk h => cases h <;> cases hc
  | request tag fields rest h => cases h <;> cases hc

/-- A command takes the marked frame of the window that it ends, once the receiver has counted its error. -/
def TakesMarked (p : Port) (s t : State) : Prop :=
  ∃ w u, markedWindow s p = some w ∧ LineWorks p s u ∧ (txActive s p = false → ErrorCounted p s u) ∧ t = takeFrame (w.taken p) u

/-- The work of a line command: quiet, or the taking of the marked frame whose window it ends (R154 to R164). -/
theorem lineWork_taken {c : Instr} {f : State → State} (h : LineWork p s c f) :
    LineQuiet p (lineEvents c) s (f s) ∨ TakesMarked p s (f s) := by
  have hquiet {u : State} (hu : LineWorks p s u) : LineQuiet p (lineEvents c) s u := hu.mono (linkError_mem c)
  have herror (k : LineCounter) : LineQuiet p (lineEvents c) s (receiverError p k s) ∨ TakesMarked p s (receiverError p k s) :=
    (receiverError_taken p k s).imp (fun h => hquiet h.2) fun ⟨w, u, hw, hu, ht⟩ => ⟨w, u, hw, hu.works, fun _ => hu, ht⟩
  have hcounted (k : LineCounter) : LineWorks p s (countError p k (s.setRx p .waitIdle)) := (setPort_quiet p _ s).trans (countError_quiet k _)
  cases h with
  | interrupted => exact .inl (hquiet ((hcounted .symbol).trans (failAttempt_quiet p _)))
  | opened => exact .inl ((setPort_quiet p _ s).trans (setPort_quiet p _ _))
  | faulty k => exact herror k
  | checked had bits =>
    unfold closeData
    split
    · exact herror .longFrame
    · exact herror .framing
    · exact herror .check
    · exact .inl (openWindow_quiet p _ _ s)
  | recorded mark => exact .inl (hquiet (recordMark_quiet p mark s))
  | gathered w mark =>
    unfold gatherMark
    split; · exact herror .framing
    split
    · exact .inl ((setPort_quiet p _ s).trans (releaseReservations_quiet _ _))
    · exact .inl (setPort_quiet p _ s)
  | dropped w _ hrx hanswer =>
    refine .inl (LineQuiet.trans (t := s.setRx p .idle) (setPort_quiet p _ s) ?_)
    unfold endWindow
    split
    · next h => exact absurd h hanswer
    · exact releaseReservations_quiet _ _
    · exact .refl p _ _
  | unignored => exact .inl (setPort_quiet p _ s)
  | broken =>
    unfold breakEffect
    split
    · next hactive =>
      have habandon : LineWorks p s (abandonAttempt p s) := txIdle_quiet _ s
      have hwindow : markedWindow (abandonAttempt p s) p = markedWindow s p := markedWindow_congr (by cases p <;> rfl)
      rcases receiverError_taken p .breaks (abandonAttempt p s) with ⟨-, h⟩ | ⟨w, u, hw, hu, ht⟩
      · exact .inl (hquiet (habandon.trans h))
      · refine .inr ⟨w, u, hwindow ▸ hw, habandon.trans hu.works, fun h => ?_, ht⟩
        rw [hactive] at h
        cases h
    · exact herror .breaks
  | idled => exact .inl ((setPort_quiet p _ s).trans (setPort_quiet p _ _))
  | chosen => exact .inl (setPort_quiet p _ s)
  | started => exact .inl ((setPort_quiet p _ s).trans (setPort_quiet p _ _))
  | lost bit => exact .inl (hquiet (LineQuiet.trans (t := s.setRx p _) (setPort_quiet p _ s) (failAttempt_quiet p _)))
  | headed => exact .inl (setPort_quiet p _ s)
  | clashes => exact .inl (hquiet ((hcounted .clash).trans (failAttempt_quiet p _)))
  | sent => exact .inl (hquiet (dataGone_quiet p s))
  | closed => exact .inl (hquiet (closeWindow_quiet p s))

/-! ## The end of a line command's taking -/

/-- Where nothing that the close reads has changed, nothing is tested (R145). -/
theorem testReports_same (hday : u.day = s.day) (hinputs : closeInputs u = closeInputs s) : testReports s u = u := by
  unfold testReports
  split
  · rfl
  · next h =>
    unfold testClosing
    rw [if_neg]
    exact fun hc => h ⟨hday ▸ hc.1, hinputs.symm⟩

theorem placeSafeCommand_owed (s : State) : (placeSafeCommand s).safe = { s.safe with owed := (placeSafeCommand s).safe.owed } := by
  rcases placeSafeCommand_spec s with ⟨-, h⟩ | ⟨-, b, -, h⟩ <;> rw [h]
  rfl

/-- The end of a taking that left the closing conditions alone: the places that it freed are filled, and the events follow (R93, R178, R181). -/
theorem settle_untested (h : testReports s u = u) :
    unchangedBut ([.floor, .room, .safe, .trunk, .draws] ++ Part.eventParts) u (settle s u) ∧ eventsBut [] u (settle s u) ∧
      (settle s u).safe = { u.safe with owed := (settle s u).safe.owed } := by
  have hplaced : unchangedBut [.safe, .room] u (placeIfFreed s u) := unchangedBut_ite (unchangedBut_refl _ u) (placeSafeCommand_leaves u)
  have hsafe : (placeIfFreed s u).safe = { u.safe with owed := (placeIfFreed s u).safe.owed } := by
    unfold placeIfFreed
    split
    · rfl
    · exact placeSafeCommand_owed u
  have hsent : unchangedBut [.floor, .room, .trunk, .draws] (placeIfFreed s u) (sendIfFreed s (placeIfFreed s u)) :=
    unchangedBut_ite (unchangedBut_refl _ _) (placeWaiting_leaves _)
  have hboth := unchangedBut_trans hplaced hsent
  have hsettle : settle s u = settleEvents (sendIfFreed s (placeIfFreed s u)) := by rw [settle, h]
  have hend := settleEvents_leaves (sendIfFreed s (placeIfFreed s u))
  rw [hsettle]
  refine ⟨unchangedBut_mono (unchangedBut_trans hboth hend) (by decide),
    eventsBut_comp (eventsBut_of_leaves _ hboth (by decide)) (settleEvents_events _), ?_⟩
  rw [hend .safe (by decide), hsent .safe (by decide)]
  exact hsafe

/-- Behind a settled taking a port is as before but for the frames placed. -/
theorem settle_port_grows (s u : State) (q : Port) : PortGrows (u.port q) ((settle s u).port q) :=
  ((settle_moves (A := offLines) nofun s u).lines_grow fun h => h rfl).1 q

theorem closeInputs_works (h : LineQuiet p ev s u) : closeInputs u = closeInputs s := by
  unfold closeInputs
  rw [h.leaves .drawers (by decide), h.leaves .sessions (by decide), h.leaves .call (by decide), h.leaves .bags (by decide), h.safe]

/-- The end of a line command that takes no frame. -/
theorem settle_works (h : LineQuiet p ev s u) :
    unchangedBut ([.floor, .room, .uplink, .safe, .trunk, .draws] ++ Part.eventParts) s (settle s u) ∧ eventsBut ev s (settle s u) ∧
      (settle s u).safe = { s.safe with owed := (settle s u).safe.owed } ∧ (settle s u).uplink.filled = s.uplink.filled ∧
      ∀ q : Port, q ≠ p → ((settle s u).port q).rx = (s.port q).rx ∧ ((settle s u).port q).tx = (s.port q).tx ∧
        ((settle s u).port q).lineIdle = (s.port q).lineIdle ∧ ((settle s u).port q).errors = (s.port q).errors := by
  obtain ⟨hleaves, hevents, hsafe⟩ := settle_untested (testReports_same (h.leaves .day (by decide)) (closeInputs_works h))
  refine ⟨unchangedBut_mono (unchangedBut_trans h.leaves hleaves) (by decide), eventsBut_comp h.events (eventsBut_mono hevents nofun),
    by rw [hsafe, h.safe], by rw [hleaves .uplink (by decide), h.uplink], fun q hq => ?_⟩
  obtain ⟨more, down, hgrow⟩ := settle_port_grows s u q
  rw [hgrow, h.other q hq]
  exact ⟨rfl, rfl, rfl, rfl⟩

/-- A line command without a marked frame in its window. -/
theorem lineCommand_leaves {c : Port → Instr} {events : List Event} (hport : ∀ p, linePort (c p) = some p) (hev : ∀ p, lineEvents (c p) = events) :
    LineLeaves c events := by
  intro p s t hnone h
  rcases exec_cases h with rfl | ⟨f, htaking, rfl⟩ | ⟨hx, -⟩ | ⟨hx, -⟩
  · exact ⟨unchangedBut_refl _ t, eventsBut_refl _ t, rfl, rfl, fun _ _ => ⟨rfl, rfl, rfl, rfl⟩⟩
  · rcases lineWork_taken (taking_line htaking (hport p)) with hq | ⟨w, u, hw, -⟩
    · rw [hev p] at hq
      exact settle_works hq
    · rw [hnone] at hw
      cases hw
  · have := hport p
    rw [hx] at this
    cases this
  · have := hport p
    rw [hx] at this
    cases this

/-! ## With a marked frame (R156) -/

theorem ofByte_byte (k : JobKind) : JobKind.ofByte k.byte = some k := by cases k <;> rfl

theorem opaque_not_ok {f : Taken} {k : JobKind} (h : opaqueKind f.frame.kind = true) : inspectForm f s ≠ .ok k := fun hok => by
  rw [(inspectForm_ok hok).2] at h
  cases h

/-- What the taking of a frame changes: the parts and events of its kind's job, the queues and the answer. -/
theorem takeFrame_takes (f : Taken) (s : State) :
    unchangedBut (takenParts f.frame ++ Part.answerParts) s (takeFrame f s) ∧ eventsBut (takenEvents f.frame) s (takeFrame f s) := by
  have hkind {k : JobKind} (hok : inspectForm f s = .ok k) : takenParts f.frame = k.parts ∧ takenEvents f.frame = k.events := by
    unfold takenParts takenEvents
    rw [(inspectForm_ok hok).1, ofByte_byte]
    exact ⟨rfl, rfl⟩
  have hdecided : unchangedBut (takenParts f.frame ++ Part.answerParts) s (decideFrame f s).1 ∧ eventsBut (takenEvents f.frame) s (decideFrame f s).1 := by
    rcases decideFrame_cases f s with he | ⟨k, pair, hok, he⟩ | ⟨hok, n, he⟩ <;> rw [he]
    · exact ⟨unchangedBut_refl _ s, eventsBut_refl _ s⟩
    · rw [(hkind hok).1, (hkind hok).2]
      exact ⟨job_parts k _ s, job_events k _ s⟩
    · rw [(hkind hok).1, (hkind hok).2]
      exact ⟨unchangedBut_mono (confirmFailed_leaves n s) (by decide), confirmFailed_events n s⟩
  unfold takeFrame
  split
  · exact ⟨unchangedBut_mono (fillEnvelope_leaves _ _ _) (by simp [Part.answerParts]), eventsBut_of_leaves _ (fillEnvelope_leaves _ _ _) (by decide)⟩
  · have hanswer := unchangedBut_trans (fillAnswer_leaves f (decideFrame f s).2 (decideFrame f s).1) (fillEnvelope_leaves f (decideFrame f s).2.stamp _)
    refine ⟨unchangedBut_comp hdecided.1 (unchangedBut_mono hanswer ?_), eventsBut_comp hdecided.2 (eventsBut_of_leaves _ hanswer ?_)⟩
    · cases f.port <;> simp [Part.ofPort, Part.answerParts]
    · cases f.port <;> decide

theorem uplink_fill_more (x : Uplink) (e : Envelope) : ∃ more, (x.fill e).filled = x.filled ++ more := by
  rcases x.fill_spec e with ⟨-, h⟩ | ⟨-, h⟩ <;> rw [h]
  · exact ⟨_, rfl⟩
  · exact ⟨[], (List.append_nil _).symm⟩

/-- An error frees no place, so that its taking ends with the closing test and the events. -/
theorem settle_marked {f : Taken} (h : ErrorCounted p s u) : settle s (takeFrame f u) = settleEvents (testReports s (takeFrame f u)) := by
  have hout (b : Part) (hb : b ∉ [Part.floor, .room, .events]) : b ∉ [Part.ofPort p, .events] := by
    cases p <;> exact fun hmem => hb (by revert hmem; cases b <;> decide)
  have hsafe : u.safe = s.safe := h.leaves .safe (hout _ (by decide))
  have hnodes : u.nodes = s.nodes := h.leaves .nodes (hout _ (by decide))
  have htrunk : u.trunk = s.trunk := h.leaves .trunk (hout _ (by decide))
  refine settle_tested (fun hc => ?_) fun hw => ?_
  · have hcommand := takeFrame_placeable f u hc
    exact commandPlaceable_mono (by rw [hsafe]; exact id) (le_of_eq (congrArg OutQueue.free (h.ports .room).2.1)) hnodes hcommand
  · rw [takeFrame_waiting] at hw
    rwa [waitingPlaceable_congr (by rw [htrunk]) (by rw [htrunk]) (h.ports .floor).2.2 (h.ports .room).2.2 hnodes] at hw

/-- What the ports keep when a window with a marked frame ends. -/
def WindowKept (p : Port) (s t : State) : Prop :=
  ∀ q : Port, (t.port q).tx = (s.port q).tx ∧ (t.port q).down = (s.port q).down ∧
    (q ≠ p → (t.port q).rx = (s.port q).rx ∧ (t.port q).lineIdle = (s.port q).lineIdle ∧ (t.port q).errors = (s.port q).errors) ∧
    ∃ more, (t.port q).out.filled = (s.port q).out.filled ++ more

/-- An error that ends the window of a marked frame: what the taking of the frame may change, and LINK_ERROR. -/
theorem marked_leaves {f : Taken} (h : ErrorCounted p s u) :
    unchangedBut (takenParts f.frame ++ closingParts s ++ Part.answerParts) s (settle s (takeFrame f u)) ∧
      eventsBut (takenEvents f.frame ++ [.linkError] ++ closingEvents s) s (settle s (takeFrame f u)) ∧
      (∃ more, (settle s (takeFrame f u)).uplink.filled = s.uplink.filled ++ more) ∧ WindowKept p s (settle s (takeFrame f u)) := by
  obtain ⟨hparts, hevents⟩ := takeFrame_takes f u
  have hbefore : unchangedBut (takenParts f.frame ++ Part.answerParts) s (takeFrame f u) :=
    unchangedBut_comp (unchangedBut_mono h.leaves (by cases p <;> simp [Part.ofPort, Part.answerParts, Part.eventParts])) hparts
  have hraised : eventsBut (takenEvents f.frame ++ [.linkError]) s (takeFrame f u) :=
    eventsBut_mono (eventsBut_trans h.events hevents) (by simp; tauto)
  have hday : (takeFrame f u).day = s.day := by
    rw [takeFrame_leaves f u .day (by decide), h.leaves .day (by cases p <;> decide)]
  have hopen (hd : s.day.state ≠ .closing) : testReports s (takeFrame f u) = takeFrame f u := by
    rcases testReports_spec s (takeFrame f u) with he | ⟨hc, -⟩
    · exact he
    · rw [hday] at hc
      exact absurd hc hd
  rw [settle_marked h]
  have hend := settleEvents_leaves (testReports s (takeFrame f u))
  have htest := testReports_leaves s (takeFrame f u)
  refine ⟨?_, ?_, ?_, fun q => ?_⟩
  · by_cases hd : s.day.state = .closing
    · refine unchangedBut_mono (unchangedBut_trans (unchangedBut_trans hbefore htest) hend) ?_
      simp [closingParts, hd, Part.answerParts, Part.eventParts]
      tauto
    · rw [hopen hd]
      refine unchangedBut_mono (unchangedBut_trans hbefore (settleEvents_leaves _)) ?_
      simp [closingParts, hd, Part.answerParts, Part.eventParts]
      tauto
  · by_cases hd : s.day.state = .closing
    · refine eventsBut_mono (eventsBut_trans (eventsBut_trans hraised (testReports_events s _)) (settleEvents_events _)) ?_
      simp [closingEvents, hd]
    · rw [hopen hd]
      refine eventsBut_mono (eventsBut_trans hraised (settleEvents_events _)) ?_
      simp [closingEvents, hd]
  · obtain ⟨stamp, hfill⟩ := takeFrame_uplink f u
    rw [hend .uplink (by decide), htest .uplink (by decide), hfill, h.leaves .uplink (by cases p <;> decide)]
    exact uplink_fill_more _ _
  · obtain ⟨r, more, hport, -⟩ := takeFrame_fills f u q
    obtain ⟨htx, hout, hdown⟩ := h.ports q
    have hsame : (settleEvents (testReports s (takeFrame f u))).port q = (takeFrame f u).port q := by
      rw [settleEvents_port]
      cases q
      · exact htest .floor (by decide)
      · exact htest .room (by decide)
    rw [hsame, hport]
    refine ⟨htx, hdown, fun hq => ?_, more, by rw [← hout]⟩
    have hother : u.port q = s.port q := h.works.other q hq
    exact ⟨by rw [← hother], by rw [← hother], by rw [← hother]⟩

/-- What an arriving command does to a port with a marked frame in its window and an IDLE transmitter. -/
theorem lineWork_marked {c : Instr} {f : State → State} (h : LineWork p s c f) (hw : markedWindow s p = some w) (hidle : txActive s p = false)
    (hc : endsWindow p c) : (∃ rx, f s = s.setRx p rx) ∨ ∃ u, ErrorCounted p s u ∧ f s = takeFrame (w.taken p) u := by
  obtain ⟨hrx, hmarked⟩ := markedWindow_some.mp hw
  have herror (k : LineCounter) : ∃ u, ErrorCounted p s u ∧ receiverError p k s = takeFrame (w.taken p) u := by
    rcases receiverError_taken p k s with ⟨hnone, -⟩ | ⟨w', u, hw', hu, ht⟩
    · rw [hnone] at hw
      cases hw
    · rw [hw] at hw'
      cases hw'
      exact ⟨u, hu, ht⟩
  cases h with
  | interrupted hactive => rw [hidle] at hactive; cases hactive
  | opened _ h | checked _ _ _ h => rw [hrx] at h; cases h
  | idled _ h => rcases h with h | h | h <;> rw [hrx] at h <;> cases h
  | faulty k => exact .inr (herror k)
  | recorded mark h =>
    unfold txActive at hidle
    rw [h] at hidle
    cases hidle
  | gathered w' mark _ h =>
    rw [hrx] at h
    cases h
    unfold gatherMark
    split; · exact .inr (herror .framing)
    split
    · next hs => rw [hmarked] at hs; exact absurd hs.1 (by decide)
    · exact .inl ⟨_, rfl⟩
  | broken =>
    unfold breakEffect
    rw [if_neg (by rw [hidle]; decide)]
    exact .inr (herror .breaks)
  | dropped | unignored | chosen | started | lost | headed | clashes | sent | closed => simp [endsWindow] at hc

/-- A change of the receiver alone ends with the events. -/
theorem setRx_leave (p : Port) (rx : Receiver) (s : State) : unchangedBut (Part.ofPort p :: Part.eventParts) s (settle s (s.setRx p rx)) ∧
    eventsBut [] s (settle s (s.setRx p rx)) ∧ WindowKept p s (settle s (s.setRx p rx)) := by
  have hsettle : settle s (s.setRx p rx) = settleEvents (s.setRx p rx) :=
    settle_port (p := p) (setRx_leaves p rx s) (by decide) (by cases p <;> exact le_refl _) (by cases p <;> rfl)
  rw [hsettle]
  refine ⟨unchangedBut_trans (setRx_leaves p rx s) (settleEvents_leaves _),
    eventsBut_comp (eventsBut_of_leaves _ (setRx_leaves p rx s) (by cases p <;> decide)) (settleEvents_events _), fun q => ?_⟩
  rw [settleEvents_port]
  cases p <;> cases q <;> exact ⟨rfl, rfl, fun h => by first | exact absurd rfl h | exact ⟨rfl, rfl, rfl⟩, [], (List.append_nil _).symm⟩

theorem takingIf_cases {b : Bool} {f : State → State} (h : takingIf b f s = .next t) : t = s ∨ b = true ∧ t = settle s (f s) := by
  unfold takingIf at h
  split at h
  · next hb => exact .inr ⟨hb, (Host.Outcome.next.inj h).symm⟩
  · exact .inl (Host.Outcome.next.inj h).symm

/-- The placing of an owed command (R93). -/
theorem placed_leaves (s : State) : unchangedBut ([.safe, .room] ++ Part.eventParts) s (settle s (placeSafeCommand s)) ∧
    (settle s (placeSafeCommand s)).safe = { s.safe with owed := (settle s (placeSafeCommand s)).safe.owed } ∧
    ((settle s (placeSafeCommand s)).room = s.room ∨
      ∃ f, (settle s (placeSafeCommand s)).room = { s.room with out := { s.room.out with filled := s.room.out.filled ++ [f] } }) := by
  have hleaves := placeSafeCommand_leaves s
  have hsafe := placeSafeCommand_owed s
  have hsettle : settle s (placeSafeCommand s) = settleEvents (placeSafeCommand s) := by
    refine settle_quiet (fun h => by rw [placeSafeCommand_done] at h; cases h) (fun h => ?_) fun h => ?_
    · rwa [waitingPlaceable_congr (s := s) (by rw [hleaves .trunk (by decide)]) (by rw [hleaves .trunk (by decide)])
        (by rw [hleaves .floor (by decide)]) (by rcases placeSafeCommand_spec s with ⟨-, he⟩ | ⟨-, b, -, he⟩ <;> rw [he] <;> rfl)
        (hleaves .nodes (by decide))] at h
    · rw [hleaves .day (by decide)] at h
      refine ⟨h, ?_⟩
      unfold closeInputs
      rw [hleaves .drawers (by decide), hleaves .sessions (by decide), hleaves .call (by decide), hleaves .bags (by decide), hsafe]
  have hend := settleEvents_leaves (placeSafeCommand s)
  rw [hsettle]
  refine ⟨unchangedBut_trans hleaves hend, by rw [hend .safe (by decide), ← hsafe], ?_⟩
  rw [hend .room (by decide)]
  rcases placeSafeCommand_spec s with ⟨-, he⟩ | ⟨-, b, -, he⟩ <;> rw [he]
  · exact .inl rfl
  · exact .inr ⟨_, rfl⟩

theorem endsWindow_port {c : Instr} (h : endsWindow p c) : linePort c = some p := lineArrives_port (.inl h)

/-- What arrives at a port with a marked frame changes what the taking of the frame may change, and LINK_ERROR. -/
theorem window_leaves {c : Instr} (hw : markedWindow s p = some w) (hidle : (s.port p).tx.phase = .idle) (hc : endsWindow p c)
    (h : exec c s = .next t) :
    unchangedBut (takenParts w.frame ++ closingParts s ++ Part.answerParts) s t ∧
      eventsBut (takenEvents w.frame ++ [.linkError] ++ closingEvents s) s t ∧
      (∃ more, t.uplink.filled = s.uplink.filled ++ more) ∧ WindowKept p s t := by
  rcases exec_cases h with rfl | ⟨f, htaking, rfl⟩ | ⟨rfl, -⟩ | ⟨rfl, -⟩
  · exact ⟨unchangedBut_refl _ t, eventsBut_refl _ t, ⟨[], (List.append_nil _).symm⟩,
      fun q => ⟨rfl, rfl, fun _ => ⟨rfl, rfl, rfl⟩, [], (List.append_nil _).symm⟩⟩
  · rcases lineWork_marked (taking_line htaking (endsWindow_port hc)) hw (by simp [txActive, hidle]) hc with ⟨rx, he⟩ | ⟨u, hu, he⟩ <;> rw [he]
    · obtain ⟨hleaves, hevents, hports⟩ := setRx_leave p rx s
      generalize settle s (s.setRx p rx) = u at *
      have hparts : unchangedBut (takenParts w.frame ++ closingParts s ++ Part.answerParts) s u :=
        unchangedBut_mono hleaves (by cases p <;> simp [Part.ofPort, Part.answerParts, Part.eventParts])
      have hraised : eventsBut (takenEvents w.frame ++ [.linkError] ++ closingEvents s) s u := eventsBut_mono hevents (by simp)
      have huplink : u.uplink.filled = s.uplink.filled ++ [] := by rw [hleaves .uplink (by cases p <;> decide), List.append_nil]
      exact ⟨hparts, hraised, ⟨[], huplink⟩, hports⟩
    · exact marked_leaves (f := w.taken p) hu
  · have := endsWindow_port hc
    cases this
  · have := endsWindow_port hc
    cases this

end

/-- Settles O57: the work of a line command without a frame is quiet, with one it is the frame's taking behind the error. -/
theorem lineCommandsLeave : Obligations.LineCommandsLeave := by
  refine ⟨fun p c s t w hw hidle hc h => window_leaves hw hidle hc h, fun c hc => ?_, fun bits => lineCommand_leaves (fun _ => rfl) fun _ => rfl,
    fun mark => lineCommand_leaves (fun _ => rfl) fun _ => rfl, fun sym => lineCommand_leaves (fun _ => rfl) fun _ => rfl,
    fun sym inc => lineCommand_leaves (fun _ => rfl) fun _ => rfl, fun bit => lineCommand_leaves (fun _ => rfl) fun _ => rfl, fun s t h => ?_⟩
  · simp only [List.mem_cons, List.not_mem_nil, or_false] at hc
    rcases hc with rfl | rfl | rfl | rfl | rfl | rfl | rfl | rfl | rfl | rfl | rfl <;>
      exact lineCommand_leaves (fun _ => rfl) fun _ => rfl
  · rcases takingIf_cases (h : takingIf (commandPlaceable s) placeSafeCommand s = .next t) with rfl | ⟨-, rfl⟩
    · exact ⟨unchangedBut_refl _ t, rfl, .inl rfl⟩
    · exact placed_leaves s

end Sys2Proof.Machine.Effects

/-! PROOF. What the requests, the trunk's own commands and the expiries leave alone (R133, R148, R188 to R193). -/

namespace Sys2Proof.Machine.Effects

open Sys2Proof Sys2Proof.Machine Sys2Proof.Machine.Takings Sys2Proof.Machine.TallyCount

section
variable {s t u : State} {parts : List Part} {events : List Event}

/-! ## The end of a taking -/

/-- What the end of a taking leaves alone, by what the effect has changed: it may complete a close, place an owed command and place a waiting SEND, each
only where the effect made room for it (R93, R145, R178). -/
theorem settle_leave (hleaves : unchangedBut (parts ++ Part.eventParts) s u) (hevents : eventsBut events s u)
    (hday : u.day.state = .closing → s.day.state = .closing ∨ .bags ∈ parts ∧ .day ∈ parts ∧ .dayChanged ∈ events)
    (hcommand : commandPlaceable u = true → commandPlaceable s = true ∨ .safe ∈ parts ∧ .room ∈ parts)
    (hwaiting : waitingPlaceable u = true → waitingPlaceable s = true) :
    unchangedBut (parts ++ closingParts s ++ Part.eventParts) s (settle s u) ∧ eventsBut (events ++ closingEvents s) s (settle s u) := by
  have hbefore : unchangedBut (parts ++ closingParts s ++ Part.eventParts) s u := unchangedBut_mono hleaves (by simp; tauto)
  have htested : unchangedBut (parts ++ closingParts s ++ Part.eventParts) u (testReports s u) ∧
      eventsBut (events ++ closingEvents s) u (testReports s u) := by
    rcases testReports_spec s u with he | ⟨hclosing, -⟩
    · rw [he]
      exact ⟨unchangedBut_refl _ u, eventsBut_refl _ u⟩
    · have hroom : .bags ∈ parts ++ closingParts s ∧ .day ∈ parts ++ closingParts s ∧ .dayChanged ∈ events ++ closingEvents s := by
        rcases hday hclosing with hd | ⟨hb, hd, he⟩
        · simp [closingParts, closingEvents, hd]
        · exact ⟨List.mem_append_left _ hb, List.mem_append_left _ hd, List.mem_append_left _ he⟩
      obtain ⟨hb, hd, he⟩ := hroom
      refine ⟨unchangedBut_mono (testReports_leaves s u) fun b hmem => ?_, eventsBut_mono (testReports_events s u) (by simpa using he)⟩
      simp only [List.mem_cons, List.not_mem_nil, or_false] at hmem
      rcases hmem with rfl | rfl | rfl
      · exact List.mem_append_left _ hb
      · exact List.mem_append_left _ hd
      · simp [Part.eventParts]
  have hplaced : unchangedBut (parts ++ closingParts s ++ Part.eventParts) (testReports s u) (placeIfFreed s (testReports s u)) := by
    unfold placeIfFreed
    split
    · exact unchangedBut_refl _ _
    · next hfree =>
      rcases placeSafeCommand_spec (testReports s u) with ⟨-, he⟩ | ⟨hplace, -⟩
      · rw [he]
        exact unchangedBut_refl _ _
      · have hu : commandPlaceable u = true := by
          rwa [commandPlaceable_congr (s := u) (by rw [testReports_leaves s u .safe (by decide)]) (by rw [testReports_leaves s u .room (by decide)])
            (testReports_leaves s u .nodes (by decide))] at hplace
        rcases hcommand hu with h | ⟨hs, hr⟩
        · exact absurd h hfree
        · refine unchangedBut_mono (placeSafeCommand_leaves _) fun b hmem => ?_
          simp only [List.mem_cons, List.not_mem_nil, or_false] at hmem
          rcases hmem with rfl | rfl <;> simp [hs, hr]
  have hplacedEvents : eventsBut (events ++ closingEvents s) (testReports s u) (placeIfFreed s (testReports s u)) :=
    eventsBut_ite (eventsBut_refl _ _) (eventsBut_of_leaves _ (placeSafeCommand_leaves _) (by decide))
  have hsent : sendIfFreed s (placeIfFreed s (testReports s u)) = placeIfFreed s (testReports s u) := by
    unfold sendIfFreed
    split
    · rfl
    · next hs =>
      refine placeWaiting_of_not (Bool.eq_false_iff.mpr fun hw => hs (hwaiting ?_))
      have hboth : unchangedBut [.bags, .day, .events, .safe, .room] u (placeIfFreed s (testReports s u)) :=
        unchangedBut_trans (testReports_leaves s u) (unchangedBut_ite (unchangedBut_refl _ _) (placeSafeCommand_leaves _))
      have hdown : (placeIfFreed s (testReports s u)).room.down = u.room.down := by
        rw [← testReports_leaves s u .room (by decide)]
        unfold placeIfFreed
        split
        · rfl
        · rcases placeSafeCommand_spec (testReports s u) with ⟨-, he⟩ | ⟨-, b, -, he⟩ <;> rw [he] <;> rfl
      rwa [waitingPlaceable_congr (s := u) (by rw [hboth .trunk (by decide)]) (by rw [hboth .trunk (by decide)])
        (by rw [hboth .floor (by decide)]) hdown (hboth .nodes (by decide))] at hw
  rw [settle, hsent]
  refine ⟨unchangedBut_comp (unchangedBut_comp (unchangedBut_comp hbefore htested.1) hplaced) (unchangedBut_mono (settleEvents_leaves _) (by simp +contextual)),
    eventsBut_comp (eventsBut_comp (eventsBut_comp (eventsBut_mono hevents (by simp; tauto)) htested.2) hplacedEvents)
      (eventsBut_mono (settleEvents_events _) (by simp))⟩

/-! ## Requests (R190) -/

/-- What the rule of a request leaves alone: with parts and events, that it begins no CLOSING unless it may complete the close, and frees no place unless
it may place the owed command. -/
structure RunLeaves (parts : List Part) (events : List Event) (s t : State) : Prop where
  leaves : unchangedBut (parts ++ [.events]) s t
  raises : eventsBut events s t
  day : t.day.state = .closing → s.day.state = .closing ∨ .bags ∈ parts ∧ .day ∈ parts ∧ .dayChanged ∈ events
  command : commandPlaceable t = true → commandPlaceable s = true ∨ .safe ∈ parts ∧ .room ∈ parts
  trunk : t.trunk = s.trunk

theorem commandPlaceable_of_leaves {ex : List Part} (h : unchangedBut ex s t) (hsafe : .safe ∉ ex := by decide) (hroom : .room ∉ ex := by decide)
    (hnodes : .nodes ∉ ex := by decide) : commandPlaceable t = commandPlaceable s :=
  commandPlaceable_congr (by rw [h .safe hsafe]) (by rw [h .room hroom]) (h .nodes hnodes)

/-- A rule that touches neither the day nor what an owed command waits for. -/
theorem RunLeaves.of_events {ex : List Part} (h : unchangedBut ex s t) (hev : eventsBut events s t)
    (hex : ∀ b ∈ ex, b ∈ parts ++ [.events] := by decide) (hday : .day ∉ ex := by decide) (hsafe : .safe ∉ ex := by decide)
    (hroom : .room ∉ ex := by decide) (hnodes : .nodes ∉ ex := by decide) (htrunk : .trunk ∉ ex := by decide) : RunLeaves parts events s t where
  leaves := unchangedBut_mono h hex
  raises := hev
  day hd := .inl (by rwa [h .day hday] at hd)
  command hc := .inl (by rwa [commandPlaceable_of_leaves h hsafe hroom hnodes] at hc)
  trunk := h .trunk htrunk

theorem RunLeaves.of_leaves {ex : List Part} (h : unchangedBut ex s t) (hev : .events ∉ ex := by decide)
    (hex : ∀ b ∈ ex, b ∈ parts ++ [.events] := by decide) (hday : .day ∉ ex := by decide) (hsafe : .safe ∉ ex := by decide)
    (hroom : .room ∉ ex := by decide) (hnodes : .nodes ∉ ex := by decide) (htrunk : .trunk ∉ ex := by decide) : RunLeaves parts events s t :=
  .of_events h (eventsBut_of_leaves _ h hev) hex hday hsafe hroom hnodes htrunk

/-- A request that is answered on the trunk leaves alone what its rule leaves alone. -/
theorem answered_leave {r : Code} {d : Option Word32} {data : List Byte} {tag : Word16} {code : Byte} (h : RunLeaves parts events (popRequest s) u) :
    unchangedBut (parts ++ closingParts s ++ Part.replyParts) s (settle s (answerRequest tag code r d data u)) ∧
      eventsBut (events ++ closingEvents s) s (settle s (answerRequest tag code r d data u)) := by
  have hpop := popRequest_leaves s
  have hanswer := answerRequest_leaves tag code r d data u
  obtain ⟨x, n, -, he⟩ := answerRequest_spec tag code r d data u
  have hwaits : (answerRequest tag code r d data u).trunk.sendWaits = false := by
    rw [he]
    show u.trunk.sendWaits = false
    rw [h.trunk]
    rfl
  have hsettled := settle_leave (parts := parts ++ [.trunk, .draws]) (events := events) (s := s) (u := answerRequest tag code r d data u)
    (unchangedBut_mono (unchangedBut_trans (unchangedBut_trans hpop h.leaves) hanswer) (by simp +contextual [Part.eventParts]; tauto))
    (eventsBut_comp (eventsBut_comp (eventsBut_of_leaves _ hpop (by decide)) h.raises) (eventsBut_of_leaves _ hanswer (by decide)))
    (fun hd => by
      rw [hanswer .day (by decide)] at hd
      rcases h.day hd with hs | ⟨hb, hd, he⟩
      · exact .inl hs
      · exact .inr ⟨List.mem_append_left _ hb, List.mem_append_left _ hd, he⟩)
    (fun hc => by
      rw [commandPlaceable_of_leaves hanswer] at hc
      rcases h.command hc with hs | ⟨hs, hr⟩
      · exact .inl (by rwa [commandPlaceable_of_leaves hpop] at hs)
      · exact .inr ⟨List.mem_append_left _ hs, List.mem_append_left _ hr⟩)
    (fun hw => by
      unfold waitingPlaceable at hw
      rw [hwaits] at hw
      cases hw)
  refine ⟨unchangedBut_mono hsettled.1 ?_, hsettled.2⟩
  simp +contextual [Part.replyParts]
  tauto

/-- The requests of one code leave alone what their rule leaves alone. -/
theorem request_leaves {c : Instr} {code : Byte} {variant : State → List Byte → Bool} {run : List Byte → State → State × Result}
    (hexec : ∀ s, exec c s = takeRequest settle code variant run s)
    (hrun : ∀ s fields u, variant s fields = true → RunLeaves parts events u (run fields u).1) : RequestLeaves c parts events := by
  intro s t h
  rw [hexec] at h
  rcases takeRequest_cases settle code variant run s with hstay | ⟨tag, fields, rest, -, -, -, hv, htaken⟩
  · rw [hstay] at h
    cases h
    exact ⟨unchangedBut_refl _ s, eventsBut_refl _ s⟩
  · rw [htaken] at h
    cases h
    exact answered_leave (hrun s fields _ hv)

/-! ## The rules of the requests -/

theorem runClearEvents_run (fields : List Byte) (s : State) : RunLeaves [] Event.all s (runClearEvents fields s).1 := by
  refine .of_events (runClearEvents_leaves fields s) ⟨fun e => ?_, fun e he => absurd (by cases e <;> decide) he⟩
  unfold runClearEvents
  split
  · dsimp only
    rw [clearSelected_event]
    split <;> rfl
  · rfl

theorem changeDay_state (d : DayState) (s : State) : (changeDay d s).day.state = d := rfl

theorem runDayOpen_run (fields : List Byte) (s : State) : RunLeaves [.day, .drawers, .acc] [.dayChanged] s (runDayOpen fields s).1 where
  leaves := unchangedBut_mono (runDayOpen_leaves fields s) (by decide)
  raises := by
    unfold runDayOpen
    split
    · exact openDay_events s
    · exact eventsBut_refl _ s
  day h := by
    unfold runDayOpen at h
    split at h
    · cases h
    · exact .inl h
  command h := .inl (by rwa [commandPlaceable_of_leaves (runDayOpen_leaves fields s)] at h)
  trunk := runDayOpen_leaves fields s .trunk (by decide)

theorem runDayTrade_run (fields : List Byte) (s : State) : RunLeaves [.day] [.dayChanged] s (runDayTrade fields s).1 where
  leaves := unchangedBut_mono (runDayTrade_leaves fields s) (by decide)
  raises := by
    unfold runDayTrade
    split
    · exact changeDay_events .trading s
    · exact eventsBut_refl _ s
  day h := by
    unfold runDayTrade at h
    split at h
    · cases h
    · exact .inl h
  command h := .inl (by rwa [commandPlaceable_of_leaves (runDayTrade_leaves fields s)] at h)
  trunk := runDayTrade_leaves fields s .trunk (by decide)

theorem closeDay_run (force : Bool) (s : State) :
    unchangedBut ([.day, .bags, .orders, .stock, .drawers, .events] ++ if force then [.sessions] else []) s (closeDay force s) := by
  have hclosing := unchangedBut_trans (changeDay_leaves .closing s) (cancelPending_leaves (changeDay .closing s))
  unfold closeDay
  dsimp only
  cases force with
  | false => exact unchangedBut_mono (unchangedBut_trans hclosing (testClosing_leaves _)) (by decide)
  | true =>
    have hforced := unchangedBut_trans
      (setDrawers_leaves (mapRows forceDrawer (cancelPending (changeDay .closing s)).drawers) (cancelPending (changeDay .closing s))) (abortSessions_leaves _)
    exact unchangedBut_mono (unchangedBut_trans (unchangedBut_trans hclosing hforced) (testClosing_leaves _)) (by decide)

theorem runDayClose_run {parts : List Part} {fields : List Byte} (hflag : ∀ force rest, takeFlag fields = some (force, rest) → force = true → .sessions ∈ parts)
    (hparts : ∀ b ∈ [Part.day, .bags, .orders, .stock, .drawers], b ∈ parts) (s : State) :
    RunLeaves parts [.dayChanged, .orderCancelled] s (runDayClose fields s).1 := by
  have hrun : (runDayClose fields s).1 = s ∨ ∃ force rest, takeFlag fields = some (force, rest) ∧ (runDayClose fields s).1 = closeDay force s := by
    unfold runDayClose
    split
    · exact .inl rfl
    · next force rest hflag =>
      split
      · exact .inr ⟨force, rest, hflag, rfl⟩
      · exact .inl rfl
  have hleaves : unchangedBut [.day, .bags, .orders, .stock, .drawers, .events, .sessions] s (runDayClose fields s).1 ∧
      unchangedBut (parts ++ [.events]) s (runDayClose fields s).1 := by
    rcases hrun with he | ⟨force, rest, hforce, he⟩ <;> rw [he]
    · exact ⟨unchangedBut_refl _ s, unchangedBut_refl _ s⟩
    · refine ⟨unchangedBut_mono (closeDay_run force s) (by cases force <;> decide), unchangedBut_mono (closeDay_run force s) fun b hb => ?_⟩
      rcases List.mem_append.mp hb with hb | hb
      · by_cases he : b = .events
        · simp [he]
        · exact List.mem_append_left _ (hparts b (by simp_all))
      · cases force with
        | false => cases hb
        | true => exact List.mem_append_left _ (List.mem_singleton.mp hb ▸ hflag true rest hforce rfl)
  exact
  { leaves := hleaves.2
    raises := by
      rcases hrun with he | ⟨force, rest, -, he⟩ <;> rw [he]
      · exact eventsBut_refl _ s
      · exact closeDay_events force s
    day := fun _ => .inr ⟨hparts _ (by decide), hparts _ (by decide), by decide⟩
    command := fun h => .inl (by rwa [commandPlaceable_of_leaves hleaves.1] at h)
    trunk := hleaves.1 .trunk (by decide) }

theorem runSetClock_run (fields : List Byte) (s : State) : RunLeaves [.day, .ring, .call, .bags] [.windowMissed] s (runSetClock fields s).1 := by
  have hrun : (runSetClock fields s).1 = s ∨ ∃ m, (runSetClock fields s).1 = setDayClock m s := by
    unfold runSetClock
    split; · exact .inl rfl
    split; · exact .inl rfl
    split; · exact .inl rfl
    split; · exact .inl rfl
    exact .inr ⟨_, rfl⟩
  have hleaves := runSetClock_leaves fields s
  exact
  { leaves := unchangedBut_mono hleaves (by decide)
    raises := by
      rcases hrun with he | ⟨m, he⟩ <;> rw [he]
      · exact eventsBut_refl _ s
      · exact setDayClock_events m s
    day := fun h => .inl (by
      rcases hrun with he | ⟨m, he⟩ <;> rw [he] at h
      · exact h
      · rw [setDayClock, missedCheck_leaves _ .day (by decide)] at h
        exact h)
    command := fun h => .inl (by rwa [commandPlaceable_of_leaves hleaves] at h)
    trunk := hleaves .trunk (by decide) }

theorem runOrderCancel_run (fields : List Byte) (s : State) :
    RunLeaves [.orders, .stock, .drawers] [.orderCancelled] s (runOrderCancel fields s).1 := by
  refine .of_events (runOrderCancel_leaves fields s) ?_
  unfold runOrderCancel
  split; · exact eventsBut_refl _ s
  split; · exact eventsBut_refl _ s
  split
  · exact eventsBut_refl _ s
  · exact eventsBut_refl _ s
  · exact cancelOrder_events _ s

theorem runEventsRead_same (fields : List Byte) (s : State) : (runEventsRead fields s).1 = s := rfl

theorem runPutNode_run (fields : List Byte) (s : State) : RunLeaves [.nodes, .pointer, .safe, .room] [] s (runPutNode fields s).1 where
  leaves := unchangedBut_mono (runPutNode_leaves fields s) (by decide)
  raises := eventsBut_of_leaves _ (runPutNode_leaves fields s) (by decide)
  day h := .inl (by rwa [runPutNode_leaves fields s .day (by decide)] at h)
  command _ := .inr (by decide)
  trunk := runPutNode_leaves fields s .trunk (by decide)

theorem runSafeRelease_run (fields : List Byte) (s : State) : RunLeaves [.safe, .room] [] s (runSafeRelease fields s).1 where
  leaves := unchangedBut_mono (runSafeRelease_leaves fields s) (by decide)
  raises := eventsBut_of_leaves _ (runSafeRelease_leaves fields s) (by decide)
  day h := .inl (by rwa [runSafeRelease_leaves fields s .day (by decide)] at h)
  command _ := .inr (by decide)
  trunk := runSafeRelease_leaves fields s .trunk (by decide)

theorem runEventEnable_kept (fields : List Byte) (s : State) (e : Event) : ((runEventEnable fields s).1.event e).detail = (s.event e).detail ∧
    ((runEventEnable fields s).1.event e).count = (s.event e).count := by
  unfold runEventEnable
  split
  · split
    · dsimp only
      rw [enableSelected_event]
      split <;> exact ⟨rfl, rfl⟩
    · exact ⟨rfl, rfl⟩
  · exact ⟨rfl, rfl⟩

/-- An EVENT_ENABLE keeps details and counts, and leaves every other part (R186). -/
theorem eventEnable_leave (h : exec .eventEnable s = .next t) :
    unchangedBut Part.replyParts s t ∧ ∀ e : Event, (t.event e).detail = (s.event e).detail ∧ (t.event e).count = (s.event e).count := by
  rw [show exec .eventEnable s = takeRequest settle 0x22 anyForm runEventEnable s from rfl] at h
  rcases takeRequest_cases settle 0x22 anyForm runEventEnable s with hstay | ⟨tag, fields, rest, hreply, hwaits, hbuffer, hv, -⟩
  · rw [hstay] at h
    cases h
    exact ⟨unchangedBut_refl _ s, fun e => ⟨rfl, rfl⟩⟩
  · have hrun := runEventEnable_leaves fields (popRequest s)
    have hleaves : unchangedBut ([.trunk] ++ [.events]) s (runEventEnable fields (popRequest s)).1 := unchangedBut_trans (popRequest_leaves s) hrun
    obtain ⟨u, d, htaken, hu, hevents, -⟩ := request_answered (run := runEventEnable) (s' := (runEventEnable fields (popRequest s)).1) (r := (runEventEnable fields (popRequest s)).2) ⟨hreply, hwaits, by rw [hbuffer]; rfl⟩ hv rfl hrun
      (by decide) (fun hd _ => ⟨by rwa [hleaves .day (by decide)] at hd,
        (closeInputs_congr (hleaves .drawers (by decide)) (hleaves .sessions (by decide)) (hleaves .call (by decide)) (hleaves .bags (by decide))
          (hleaves .safe (by decide))).symm⟩)
    obtain rfl : u = t := by
      rw [htaken] at h
      exact Host.Outcome.next.inj h
    refine ⟨unchangedBut_mono (unchangedBut_trans hleaves hu) (by decide), fun e => ?_⟩
    rw [hevents]
    exact runEventEnable_kept fields (popRequest s) e

/-! ## The trunk's own commands (R188 to R191) -/

theorem trunkChar_events (s : State) (c : Byte) : eventsBut [.linkError] s (trunkChar s c) := by
  have hrx (rx : TrunkRx) : eventsBut [.linkError] s (s.setTrunk { s.trunk with rx := rx }) := eventsBut_of_leaves _ (setTrunk_leaves _ s) (by decide)
  have hframing : eventsBut [.linkError] s (countTrunkFraming (huntTrunk s)) := eventsBut_comp (hrx .hunting) (countTrunkFraming_events _)
  unfold trunkChar
  split
  · exact eventsBut_ite (hrx _) (eventsBut_refl _ s)
  · unfold collectTrunk
    split
    · refine eventsBut_ite hframing (eventsBut_ite (hrx _) ?_)
      unfold closeTrunkFrame
      split; · exact eventsBut_comp (hrx .hunting) (countTrunkCheck_events _)
      split
      · unfold bufferEntry
        exact eventsBut_comp (hrx .hunting) (eventsBut_ite (countTrunkOverrun_events _) (eventsBut_of_leaves _ (setTrunk_leaves _ _) (by decide)))
      · exact hframing
    · exact hrx _

theorem receiveTrunk_events (chars : List Byte) (s : State) : eventsBut [.linkError] s (receiveTrunk chars s) := by
  unfold receiveTrunk
  induction chars generalizing s with
  | nil => exact eventsBut_refl _ s
  | cons c chars ih => exact eventsBut_comp (trunkChar_events s c) (ih _)

/-- The end of a trunk command's taking: neither what waits for a close nor what waits for a place is touched. -/
theorem settle_trunk {ex : List Part} (h : unchangedBut ex s u) (hex : ∀ b ∈ ex, b ∈ [Part.trunk, .uplink, .attention, .events] := by decide)
    (hwaiting : waitingPlaceable u = true → waitingPlaceable s = true) : settle s u = settleEvents u := by
  have hleaves := unchangedBut_mono h hex
  refine settle_quiet (fun hc => by rwa [commandPlaceable_of_leaves hleaves] at hc) hwaiting fun hd => ⟨by rwa [hleaves .day (by decide)] at hd, ?_⟩
  exact (closeInputs_congr (hleaves .drawers (by decide)) (hleaves .sessions (by decide)) (hleaves .call (by decide)) (hleaves .bags (by decide))
    (hleaves .safe (by decide))).symm

theorem settleEvents_trunk (s : State) : (settleEvents s).trunk = s.trunk := settleEvents_leaves s .trunk (by decide)

theorem downlinkFree_congr {ex : List Part} {port dest : Byte} (h : unchangedBut ex s u) (hfloor : .floor ∉ ex := by decide) (hroom : .room ∉ ex := by decide)
    (hnodes : .nodes ∉ ex := by decide) : downlinkFree u (sendQueue u port dest) = downlinkFree s (sendQueue s port dest) := by
  have hqueue : sendQueue u port dest = sendQueue s port dest := by
    unfold sendQueue registeredOn State.node
    rw [h .nodes hnodes]
  have hport (p : Port) : u.port p = s.port p := by
    cases p
    · exact h .floor hfloor
    · exact h .room hroom
  rw [hqueue, downlinkFree, downlinkFree, hport]

/-- An entry received behind those that wait makes no SEND placeable (R178). -/
theorem waitingPlaceable_received {chars : List Byte} (hs : WaitingSound s) (hw : waitingPlaceable (receiveTrunk chars s) = true) :
    waitingPlaceable s = true := by
  have hbuffered := receiveTrunk_buffered chars s
  have hleaves := receiveTrunk_leaves chars s
  obtain ⟨more, hmore⟩ := hbuffered.buffer
  cases hwaits : s.trunk.sendWaits with
  | false =>
    unfold waitingPlaceable at hw
    rw [hbuffered.waits, hwaits] at hw
    cases hw
  | true =>
    obtain ⟨-, tag, port, pb, kind, dest, body, rest, hhead⟩ := hs hwaits
    unfold waitingPlaceable at hw ⊢
    rw [hbuffered.waits, hwaits, hmore, hhead] at hw
    rw [hwaits, hhead]
    exact (downlinkFree_congr hleaves).symm.trans hw

theorem trunkReceived_leave {chars : List Byte} (hs : WaitingSound s) (h : exec (.trunkFrameReceived chars) s = .next t) :
    unchangedBut ([.trunk] ++ Part.eventParts) s t ∧ eventsBut [.linkError] s t ∧ ∃ more, t.trunk.buffer = s.trunk.buffer ++ more := by
  have hleaves := receiveTrunk_leaves chars s
  obtain rfl : settle s (receiveTrunk chars s) = t := Host.Outcome.next.inj h
  rw [settle_trunk hleaves (hwaiting := waitingPlaceable_received hs), settleEvents_trunk]
  exact ⟨unchangedBut_mono (unchangedBut_trans hleaves (settleEvents_leaves _)) (by decide),
    eventsBut_comp (receiveTrunk_events chars s) (eventsBut_mono (settleEvents_events _) nofun), (receiveTrunk_buffered chars s).buffer⟩

/-- A command at the trunk's transmitter, which reads nothing that waits. -/
theorem trunkTaken_leave (hleaves : unchangedBut [.trunk, .uplink, .attention] s u) (hwaits : u.trunk.sendWaits = s.trunk.sendWaits)
    (hbuffer : u.trunk.buffer = s.trunk.buffer) :
    unchangedBut Part.eventParts u (settle s u) ∧ eventsBut [] s (settle s u) ∧ (settle s u).trunk.buffer = s.trunk.buffer := by
  have hwaiting : waitingPlaceable u = waitingPlaceable s :=
    waitingPlaceable_congr hwaits hbuffer (by rw [hleaves .floor (by decide)]) (by rw [hleaves .room (by decide)]) (hleaves .nodes (by decide))
  rw [settle_trunk hleaves (hwaiting := fun h => by rwa [hwaiting] at h), settleEvents_trunk]
  exact ⟨settleEvents_leaves u, eventsBut_comp (eventsBut_of_leaves _ hleaves (by decide)) (settleEvents_events u), hbuffer⟩

theorem holdInput_trunk (b : Bool) (s : State) :
    (holdInput b s).trunk.sendWaits = s.trunk.sendWaits ∧ (holdInput b s).trunk.buffer = s.trunk.buffer := by
  unfold holdInput
  dsimp only
  split
  · obtain ⟨hwaits, hbuffer, -⟩ := startTrunk_trunk (s.setTrunk { s.trunk with holdIn := b })
    exact ⟨hwaits, hbuffer⟩
  · exact ⟨rfl, rfl⟩

theorem trunkHold_leave {b : Bool} (h : exec (.trunkHoldInput b) s = .next t) :
    unchangedBut ([.trunk] ++ Part.eventParts) s t ∧ eventsBut [] s t ∧ t.trunk.buffer = s.trunk.buffer := by
  have hleaves := holdInput_leaves b s
  obtain ⟨hwaits, hbuffer⟩ := holdInput_trunk b s
  obtain rfl : settle s (holdInput b s) = t := Host.Outcome.next.inj h
  obtain ⟨hend, hevents, hkept⟩ := trunkTaken_leave (unchangedBut_mono hleaves (by decide)) hwaits hbuffer
  exact ⟨unchangedBut_mono (unchangedBut_trans hleaves hend) (by decide), hevents, hkept⟩

theorem trunkStart_leave (h : exec .trunkFrameStart s = .next t) :
    unchangedBut ([.trunk] ++ Part.eventParts) s t ∧ eventsBut [] s t ∧ t.trunk.buffer = s.trunk.buffer := by
  rcases takingIf_cases h with rfl | ⟨-, rfl⟩
  · exact ⟨unchangedBut_refl _ _, eventsBut_refl _ _, rfl⟩
  · have hleaves := startTrunk_leaves s
    obtain ⟨hwaits, hbuffer, -⟩ := startTrunk_trunk s
    obtain ⟨hend, hevents, hkept⟩ := trunkTaken_leave (unchangedBut_mono hleaves (by decide)) hwaits hbuffer
    exact ⟨unchangedBut_mono (unchangedBut_trans hleaves hend) (by decide), hevents, hkept⟩

theorem endTrunk_trunk (x : Sending) (s : State) : (endTrunk x s).trunk = { s.trunk with sending := none } := by
  unfold endTrunk
  dsimp only
  split <;> rfl

theorem trunkSent_leave (h : exec .trunkFrameSent s = .next t) :
    unchangedBut ([.trunk, .uplink] ++ Part.eventParts) s t ∧ eventsBut [] s t ∧ t.trunk.buffer = s.trunk.buffer := by
  rw [show exec .trunkFrameSent s = execTrunkFrameSent s from rfl] at h
  unfold execTrunkFrameSent at h
  split at h
  · next x hsending =>
    have hleaves := endTrunk_leaves x s
    obtain rfl : settle s (endTrunk x s) = t := Host.Outcome.next.inj h
    obtain ⟨hend, hevents, hkept⟩ := trunkTaken_leave (u := endTrunk x s) (unchangedBut_mono hleaves (by decide)) (by rw [endTrunk_trunk]) (by rw [endTrunk_trunk])
    exact ⟨unchangedBut_mono (unchangedBut_trans hleaves hend) (by decide), hevents, hkept⟩
  · cases h
    exact ⟨unchangedBut_refl _ _, eventsBut_refl _ _, rfl⟩

/-! ## SEND and the unknown request (R178, R190) -/

theorem sendRule_waiting {tag : Word16} {port pb kind dest : Byte} {body : List Byte} {rest : List TrunkEntry}
    (hbuffer : s.trunk.buffer = .send tag port pb kind dest body :: rest) :
    waitingPlaceable (sendRule tag port pb kind dest body s) = false := by
  have hidle {u : State} (h : u.trunk.sendWaits = false) : waitingPlaceable u = false := by
    unfold waitingPlaceable
    rw [h]
  have hanswered (r : Code) : waitingPlaceable (answerRequest tag 0 r none [] (popRequest s)) = false := by
    obtain ⟨x, n, -, he⟩ := answerRequest_spec tag 0 r none [] (popRequest s)
    rw [he]
    exact hidle rfl
  unfold sendRule
  split; · exact hanswered .malformed
  split; · exact hanswered .unknownNode
  split
  · exact hidle (placeSend_spec _ _ _ s).2.2.1
  · next hfull =>
    unfold waitingPlaceable
    rw [show (s.setTrunk { s.trunk with sendWaits := true }).trunk.buffer = _ from hbuffer]
    exact (downlinkFree_congr (setTrunk_leaves _ s)).trans (Bool.eq_false_iff.mpr hfull)

theorem sendRule_placeable (tag : Word16) (port pb kind dest : Byte) (body : List Byte) (s : State) :
    commandPlaceable (sendRule tag port pb kind dest body s) = commandPlaceable s := by
  have hleaves := sendRule_leaves tag port pb kind dest body s
  refine commandPlaceable_congr (by rw [hleaves .safe (by decide)]) ?_ (hleaves .nodes (by decide))
  unfold sendRule
  split; · rfl
  split; · rfl
  split
  · cases sendQueue s port dest <;> rfl
  · rfl

theorem send_leave : RequestLeaves .send [.floor, .room] [] := by
  intro s t h
  rw [show exec .send s = takeSend s from rfl] at h
  unfold takeSend at h
  split at h
  · next tag port pb kind dest body rest _ _ hbuffer =>
    obtain rfl : settle s (sendRule tag port pb kind dest body s) = t := Host.Outcome.next.inj h
    have hleaves := sendRule_leaves tag port pb kind dest body s
    have hend := settle_leave (parts := [.floor, .room, .trunk, .draws]) (events := []) (unchangedBut_mono hleaves (by decide))
      (eventsBut_of_leaves _ hleaves (by decide)) (fun hd => .inl (by rwa [hleaves .day (by decide)] at hd))
      (fun hc => .inl (by rwa [sendRule_placeable] at hc)) (fun hw => by
        rw [sendRule_waiting hbuffer] at hw
        cases hw)
    exact ⟨unchangedBut_mono hend.1 (by simp +contextual [Part.replyParts]; tauto), hend.2⟩
  · cases h
    exact ⟨unchangedBut_refl _ _, eventsBut_refl _ _⟩

theorem requestUnknown_leave : RequestLeaves .requestUnknown [] [] := by
  intro s t h
  rw [show exec .requestUnknown s = takeUnknown s from rfl] at h
  unfold takeUnknown at h
  split at h
  · split at h
    · cases h
      exact ⟨unchangedBut_refl _ _, eventsBut_refl _ _⟩
    · next tag code fields rest _ _ _ _ =>
      obtain rfl : settle s (answerRequest tag code .unknownKind none [] (popRequest s)) = t := Host.Outcome.next.inj h
      exact answered_leave (.of_leaves (unchangedBut_refl [] _))
  · cases h
    exact ⟨unchangedBut_refl _ _, eventsBut_refl _ _⟩

/-! ## The expiries (R87, R94, R103, R133, R148) -/

/-- An expiry whose effect leaves the day's state, what an owed command waits for unless it commands the bolt itself, and the trunk. -/
theorem expiry_leave {c : Instr} {b : Bool} {f : State → State} (h : exec c s = .next t) (hexec : exec c s = takingIf b f s)
    (hleaves : unchangedBut (parts ++ [.events]) s (f s)) (hevents : eventsBut events s (f s)) (hday : (f s).day.state = s.day.state)
    (hcommand : commandPlaceable (f s) = true → commandPlaceable s = true) (hdown : (f s).room.down = s.room.down)
    (htrunk : .trunk ∉ parts := by decide) (hfloor : .floor ∉ parts := by decide) (hnodes : .nodes ∉ parts := by decide) :
    unchangedBut (parts ++ closingParts s ++ Part.eventParts) s t ∧ eventsBut (events ++ closingEvents s) s t := by
  rw [hexec] at h
  rcases takingIf_cases h with rfl | ⟨-, rfl⟩
  · exact ⟨unchangedBut_refl _ _, eventsBut_refl _ _⟩
  · have hout {b : Part} (hb : b ∉ parts) (he : b ≠ .events) : b ∉ parts ++ [.events] := by simp [hb, he]
    refine settle_leave (unchangedBut_mono hleaves (by simp +contextual [Part.eventParts]; tauto)) hevents (fun hd => .inl (by rwa [hday] at hd))
      (fun hc => .inl (hcommand hc)) fun hw => ?_
    rwa [waitingPlaceable_congr (s := s) (by rw [hleaves .trunk (hout htrunk (by decide))]) (by rw [hleaves .trunk (hout htrunk (by decide))])
      (by rw [hleaves .floor (hout hfloor (by decide))]) hdown (hleaves .nodes (hout hnodes (by decide)))] at hw

/-- An expiry that leaves what an owed command waits for. -/
theorem expiry_away {c : Instr} {b : Bool} {f : State → State} {ex : List Part} (h : exec c s = .next t) (hexec : exec c s = takingIf b f s)
    (hleaves : unchangedBut ex s (f s)) (hevents : eventsBut events s (f s)) (hday : (f s).day.state = s.day.state)
    (howed : (f s).safe.owed = s.safe.owed) (hex : ∀ b ∈ ex, b ∈ parts ++ [.events] := by decide)
    (htrunk : .trunk ∉ parts := by decide) (hfloor : .floor ∉ parts := by decide) (hroom : .room ∉ parts := by decide)
    (hnodes : .nodes ∉ parts := by decide) :
    unchangedBut (parts ++ closingParts s ++ Part.eventParts) s t ∧ eventsBut (events ++ closingEvents s) s t := by
  have hmore := unchangedBut_mono hleaves hex
  have hsame : (f s).room = s.room := hmore .room (by simp [hroom])
  refine expiry_leave h hexec hmore hevents hday (fun hc => ?_) (by rw [hsame]) htrunk hfloor hnodes
  rwa [commandPlaceable_congr howed (by rw [hsame]) (hmore .nodes (by simp [hnodes]))] at hc

theorem suspendSession_leave {c : Instr} (x : Fin 4) (hexec : exec c s = takingIf (idleExpired s x) (suspendSession x) s) (h : exec c s = .next t) :
    unchangedBut ([.sessions, .bags] ++ closingParts s ++ Part.eventParts) s t ∧ eventsBut ([.countSuspended] ++ closingEvents s) s t :=
  expiry_away h hexec (suspendSession_leaves x s) (suspendSession_events x s) (by rw [suspendSession_leaves x s .day (by decide)])
    (by rw [suspendSession_leaves x s .safe (by decide)])

theorem timeout_leave {c : Instr} {b : Bool} (hexec : exec c s = takingIf b (abortHandover .timedOut) s) (h : exec c s = .next t) :
    unchangedBut ([.bags, .ring, .call] ++ closingParts s ++ Part.eventParts) s t ∧
      eventsBut ([.handoverAborted, .windowMissed] ++ closingEvents s) s t := by
  have hleaves := abortHandover_leaves .timedOut s
  exact expiry_away h hexec hleaves (abortHandover_events .timedOut s) (by rw [hleaves .day (by decide)]) (by rw [hleaves .safe (by decide)])

theorem dayClock_leave (h : exec .dayClockAdvance s = .next t) :
    unchangedBut ([.day, .ring, .call, .bags] ++ closingParts s ++ Part.eventParts) s t ∧ eventsBut ([.windowMissed] ++ closingEvents s) s t := by
  have hleaves := advanceClock_leaves s
  have hday : (advanceClock s).day.state = s.day.state := by
    unfold advanceClock
    split <;> rw [missedCheck_leaves _ .day (by decide)] <;> rfl
  exact expiry_away h rfl hleaves (advanceClock_events s) hday (by rw [hleaves .safe (by decide)])

theorem relock_leave (h : exec .relockExpiry s = .next t) :
    unchangedBut ([.safe, .room] ++ closingParts s ++ Part.eventParts) s t ∧ eventsBut ([] ++ closingEvents s) s t := by
  have hleaves := relockExpired_leaves s
  refine expiry_leave h rfl (unchangedBut_mono hleaves (by decide)) (eventsBut_of_leaves _ hleaves (by decide)) (by rw [hleaves .day (by decide)]) (fun hc => ?_) ?_
  · rw [relockExpired, commandSafe_done] at hc
    cases hc
  · obtain ⟨more, hgrown⟩ := commandSafe_grows .lock (setLock .locked none s) .room
    exact (congrArg (·.down) hgrown).trans rfl

end

/-- Settles O60: a request leaves what its rule leaves, a command of the trunk or an expiry what its effect leaves; the end of the taking touches no more,
since none of them frees a place for a SEND that waits. -/
theorem otherCommandsLeave : Obligations.OtherCommandsLeave := by
  unfold Obligations.OtherCommandsLeave
  have hsame : ∀ s : State, unchangedBut [] s s := unchangedBut_refl []
  refine ⟨⟨request_leaves (fun _ => rfl) fun s fields u _ => .of_leaves (runTableSelect_leaves fields u),
    request_leaves (fun _ => rfl) fun s fields u _ => .of_leaves (runTableGet_leaves fields u),
    request_leaves (fun _ => rfl) fun s fields u _ => .of_leaves (runTablePut_leaves fields u),
    request_leaves (fun _ => rfl) fun s fields u _ => .of_leaves (runPutDenom_leaves fields u),
    request_leaves (fun _ => rfl) fun s fields u _ => runPutNode_run fields u,
    request_leaves (fun _ => rfl) fun s fields u _ => .of_leaves (runPutWitness_leaves fields u),
    request_leaves (fun _ => rfl) fun s fields u _ => .of_leaves (runPutTill_leaves fields u),
    request_leaves (fun _ => rfl) fun s fields u _ => .of_leaves (runPutTiming_leaves fields u),
    request_leaves (fun _ => rfl) fun s fields u _ => .of_leaves (runPutRing_leaves fields u),
    request_leaves (fun _ => rfl) fun s fields u _ => .of_leaves (hsame u),
    request_leaves (fun _ => rfl) fun s fields u _ => .of_leaves (hsame u),
    request_leaves (fun _ => rfl) fun s fields u _ => runClearEvents_run fields u,
    request_leaves (fun _ => rfl) fun s fields u hv => ?_,
    request_leaves (fun _ => rfl) fun s fields u _ => .of_leaves (runTallyRead_leaves fields u),
    request_leaves (fun _ => rfl) fun s fields u _ => runDayOpen_run fields u,
    request_leaves (fun _ => rfl) fun s fields u _ => runDayTrade_run fields u,
    request_leaves (fun _ => rfl) fun s fields u hv => runDayClose_run (fun force rest hflag hforce => ?_) (by decide) u,
    request_leaves (fun _ => rfl) fun s fields u _ => runDayClose_run (fun _ _ _ _ => by decide) (by decide) u,
    request_leaves (fun _ => rfl) fun s fields u _ => runSetClock_run fields u,
    request_leaves (fun _ => rfl) fun s fields u _ => .of_leaves (runConsignHand_leaves fields u),
    request_leaves (fun _ => rfl) fun s fields u _ => .of_leaves (runConsignRecall_leaves fields u),
    request_leaves (fun _ => rfl) fun s fields u _ => .of_leaves (runHatchRelease_leaves fields u),
    request_leaves (fun _ => rfl) fun s fields u _ => runOrderCancel_run fields u,
    request_leaves (fun _ => rfl) fun s fields u _ => runSafeRelease_run fields u,
    request_leaves (fun _ => rfl) fun s fields u _ => .of_leaves (runStockSet_leaves fields u),
    request_leaves (fun _ => rfl) fun s fields u _ => .of_leaves (runSuspectRelease_leaves fields u),
    request_leaves (fun _ => rfl) fun s fields u _ => .of_leaves (runTillSuspend_leaves fields u),
    requestUnknown_leave, send_leave⟩, fun s t h => eventEnable_leave h, fun chars s t hs h => trunkReceived_leave hs h, fun b s t h => trunkHold_leave h,
    fun s t h => trunkStart_leave h, fun s t h => trunkSent_leave h, fun x hx s t h => ?_⟩
  · rw [runTallyRead_same (s := s) (by simpa using hv)]
    exact .of_leaves (hsame u)
  · rw [hforce] at hflag
    simp [asksForce, takeFlag_true hflag] at hv
  · simp only [List.mem_cons, List.not_mem_nil, or_false] at hx
    rcases hx with rfl | rfl | rfl | rfl | rfl | rfl | rfl | rfl | rfl | rfl
    · exact expiry_away h rfl (setSafe_leaves _ s) (eventsBut_of_leaves _ (setSafe_leaves _ s) (by decide)) rfl rfl
    · exact expiry_away h rfl (windowExpired_leaves s) (windowExpired_events s) rfl rfl
    · exact relock_leave h
    · exact suspendSession_leave 0 rfl h
    · exact suspendSession_leave 1 rfl h
    · exact suspendSession_leave 2 rfl h
    · exact suspendSession_leave 3 rfl h
    · exact timeout_leave rfl h
    · exact timeout_leave rfl h
    · exact dayClock_leave h

end Sys2Proof.Machine.Effects

/-! PROOF. The frame that is taken and answered: once for every frame that is not opaque, what stands behind the taking by what deciding the frame left
(R145, R175, R176). -/

namespace Sys2Proof.Machine.Effects

open Sys2Proof Sys2Proof.Machine Sys2Proof.Machine.Takings Sys2Proof.Machine.TallyCount

section
variable {s s' u : State} {p : Port} {w : Window} {k : JobKind} {a : Answer}

/-- Behind the taking of a frame: the state that deciding it left, with the answer at the tail of the port's queue, the envelope, and what the end of the
taking does. A taking that reports nothing to the closing test completes no close (R145). -/
structure FrameDone (s : State) (p : Port) (w : Window) (a : Answer) (s' u : State) : Prop where
  leaves : unchangedBut (closingParts s ++ Part.answerParts) s' u
  raises : eventsBut (closingEvents s) s' u
  answer : ∃ d, (u.port p).out.filled = (s'.port p).out.filled ++ [a.frameOf (w.taken p) d] ∧ ∀ c x, a = .verdict c (some x) → d = x
  relayed : Relayed s u p w a.stamp
  other : ∀ q, q ≠ p → (u.port q).out.filled = (s'.port q).out.filled
  bags : ∀ n b, findBag s' n = some b → b.state.terminal = false → findBag u n = some b
  settled : Settled u
  unreported : closeInputs s' = closeInputs s → unchangedBut Part.answerParts s' u ∧ eventsBut [] s' u
  calling : s'.call.phase ≠ .idle → unchangedBut Part.answerParts s' u ∧ eventsBut [] s' u

theorem FrameDone.answered {code : Code} {d : Option Word32} (h : FrameDone s p w (.verdict code d) s' u) : Answered s u p w code d := by
  obtain ⟨x, hfilled, hx⟩ := h.answer
  exact ⟨⟨_, x, hfilled, fun y hy => hx code y (by rw [hy])⟩, h.relayed⟩

theorem FrameDone.advised {status : Code} {body : List Byte} (h : FrameDone s p w (.advice status body) s' u) : Advised s u p w status body := by
  obtain ⟨x, hfilled, -⟩ := h.answer
  exact ⟨⟨_, hfilled⟩, h.relayed⟩

/-- Outside CLOSING no close completes. -/
theorem FrameDone.open (h : FrameDone s p w a s' u) (hday : s.day.state ≠ .closing) : unchangedBut Part.answerParts s' u ∧ eventsBut [] s' u := by
  have hleaves := h.leaves
  have hevents := h.raises
  simp only [closingParts, closingEvents, if_neg hday, List.nil_append] at hleaves hevents
  exact ⟨hleaves, hevents⟩

/-- The parts that neither the answer nor a completed close touches. -/
theorem FrameDone.part (h : FrameDone s p w a s' u) (b : Part) (hb : b ∉ [.bags, .day] ++ Part.answerParts := by decide) : b.same s' u :=
  h.leaves b fun hmem => hb (by
    unfold closingParts at hmem
    split at hmem
    · exact hmem
    · exact List.mem_append_right _ hmem)

/-- An event that is neither indirect nor DAY_CHANGED is as deciding the frame left it. -/
theorem FrameDone.event (h : FrameDone s p w a s' u) (e : Event) (hi : e.indirect = false := by rfl) (he : e ≠ .dayChanged := by decide) :
    u.event e = s'.event e := by
  have hnot : e ∉ closingEvents s := by
    unfold closingEvents
    split <;> simp [he]
  obtain ⟨hd, hc, hp⟩ := h.raises.2 e hnot
  have hn := h.raises.1 e
  have hp := hp hi
  cases hu : u.event e
  cases hs : s'.event e
  rw [hu, hs] at hd hc hn hp
  simp_all

/-- PICKUP_DUE follows the flags of the drawers (R181). -/
theorem FrameDone.pickupDue (h : FrameDone s p w a s' u) :
    u.event .pickupDue = { s'.event .pickupDue with pending := anyRow (fun d => d.due) u.drawers } := by
  have hnot : Event.pickupDue ∉ closingEvents s := by
    unfold closingEvents
    split <;> decide
  obtain ⟨hd, hc, -⟩ := h.raises.2 .pickupDue hnot
  have hn := h.raises.1 .pickupDue
  have hp : (u.event .pickupDue).pending = anyRow (fun d => d.due) u.drawers := h.settled.2 .pickupDue rfl
  cases hu : u.event .pickupDue
  rw [hu] at hd hc hn hp
  simp_all

/-- A frame that decides to change nothing changes nothing but its answer. -/
theorem FrameDone.unmoved (h : FrameDone s p w a (s.setRx p .idle) u) : unchangedBut Part.answerParts s u ∧ eventsBut [] s u := by
  have hrx := setRx_leaves p .idle s
  obtain ⟨hleaves, hevents⟩ := h.unreported (closeInputs_congr (by simp) (by simp) (by simp) (by simp) (by simp))
  exact ⟨unchangedBut_comp (unchangedBut_mono hrx (by cases p <;> simp [Part.ofPort, Part.answerParts])) hleaves,
    eventsBut_comp (eventsBut_of_leaves _ hrx (by cases p <;> decide)) hevents⟩

theorem State.event_setRx (s : State) (p : Port) (rx : Receiver) (e : Event) : (s.setRx p rx).event e = s.event e := by
  unfold State.event
  simp

/-- The bags that a completed close purges are the terminal ones alone (R37, R147). -/
theorem testReports_find {n : Nat} {b : Bag} (h : findBag s' n = some b) (ht : b.state.terminal = false) : findBag (testReports s s') n = some b := by
  rcases testReports_spec s s' with he | ⟨-, -, -, he⟩ <;> rw [he]
  · exact h
  · exact (findBag_congr (changeDay_leaves _ _ .bags (by decide)) n).trans (purge_find s' n b h ht)

/-- What deciding a frame leaves alone at the ports, the uplink and the clocks. -/
theorem decided_port (f : Taken) (s : State) : (∀ q, ∃ more, (decideFrame f s).1.port q = { s.port q with
    out := { reserved := (s.port q).out.reserved, filled := (s.port q).out.filled ++ more } }) ∧
    (decideFrame f s).1.uplink = s.uplink ∧ (decideFrame f s).1.seconds = s.seconds :=
  ⟨decideFrame_grows f s, decideFrame_leaves f s .uplink (by decide), decideFrame_leaves f s .seconds (by decide)⟩

/-- The RESERVED places of answer and envelope take both (R175, R176). -/
theorem answerAndRelay_fills (hout : 0 < (s'.port p).out.reserved) (hup : 0 < s'.uplink.reserved) :
    (∃ d, ((answerAndRelay (w.taken p) a s').port p).rx = (s'.port p).rx ∧
      ((answerAndRelay (w.taken p) a s').port p).out.filled = (s'.port p).out.filled ++ [a.frameOf (w.taken p) d] ∧
      ∀ c x, a = .verdict c (some x) → d = x) ∧
    (∀ q, q ≠ p → ((answerAndRelay (w.taken p) a s').port q) = s'.port q) ∧
    (answerAndRelay (w.taken p) a s').uplink.filled =
      s'.uplink.filled ++ [{ port := p, second := s'.seconds, stamp := a.stamp, marks := w.marks, frame := w.frame }] := by
  obtain ⟨n, d, hanswer, hd⟩ := fillAnswer_spec (w.taken p) a s'
  have hport (q : Port) : (answerAndRelay (w.taken p) a s').port q = (fillAnswer (w.taken p) a s').port q := by cases q <;> rfl
  refine ⟨⟨d, ?_, ?_, ?_⟩, fun q hq => ?_, ?_⟩
  · rw [hport, hanswer]
    simp [State.setOut, Window.taken]
  · rw [hport, hanswer]
    simp only [State.setOut, Window.taken, State.setPort_port]
    unfold OutQueue.fill
    rw [if_neg (by omega)]
  · rintro c x rfl
    exact hd x rfl ⟨c, rfl⟩
  · rw [hport, hanswer]
    exact State.setPort_other _ _ _ _ (Ne.symm hq)
  · show (fillEnvelope _ _ (fillAnswer (w.taken p) a s')).uplink.filled = _
    rw [hanswer]
    unfold fillEnvelope Uplink.fill
    simp only [State.setUplink_uplink, State.setOut_uplink, State.setDraws_uplink]
    rw [if_neg (by omega)]
    cases p <;> rfl

/-- A marked frame that is not opaque is decided, answered and relayed (R171 to R176). -/
theorem frame_done {c : Port → Instr} {isKind : LineFrame → Bool} (hc : ∀ p s, exec (c p) s = deliver p isKind s) (hm : MarkedAt s p w)
    (hk : isKind w.frame = true) (ho : opaqueKind w.frame.kind = false) (hd : decideFrame (w.taken p) (s.setRx p .idle) = (s', a)) :
    ∃ u, exec (c p) s = .next u ∧ FrameDone s p w a s' u := by
  obtain ⟨hrx, hans, hup, hout⟩ := hm
  have htake : takeFrame (w.taken p) (s.setRx p .idle) = answerAndRelay (w.taken p) a s' := by
    unfold takeFrame
    rw [show opaqueKind (w.taken p).frame.kind = false from ho, hd]
    rfl
  obtain ⟨hports, huplink, hseconds⟩ := decided_port (w.taken p) (s.setRx p .idle)
  rw [hd] at hports huplink hseconds
  have hidle : (s'.port p).rx = .idle ∧ 0 < (s'.port p).out.reserved := by
    obtain ⟨more, hgrown⟩ := hports p
    rw [hgrown]
    cases p <;> exact ⟨rfl, hout ho⟩
  have hup' : 0 < s'.uplink.reserved := by
    rw [huplink]
    simpa using hup
  obtain ⟨⟨d, hrx', hfilled, hdetail⟩, hother, henvelope⟩ := answerAndRelay_fills (w := w) (a := a) hidle.2 hup'
  have hanswer : unchangedBut [Part.ofPort p, .draws, .uplink] s' (answerAndRelay (w.taken p) a s') :=
    unchangedBut_mono (unchangedBut_trans (fillAnswer_leaves (w.taken p) a s') (fillEnvelope_leaves (w.taken p) a.stamp _))
      (by simp [Window.taken])
  have hsettle : settle s (takeFrame (w.taken p) (s.setRx p .idle)) = settleEvents (testReports s (answerAndRelay (w.taken p) a s')) := by
    rw [settle_frame, htake]
  have htested := testReports_leaves s (answerAndRelay (w.taken p) a s')
  have hend : unchangedBut ([.bags, .day, .events] ++ Part.eventParts) (answerAndRelay (w.taken p) a s')
      (settleEvents (testReports s (answerAndRelay (w.taken p) a s'))) :=
    unchangedBut_trans htested (settleEvents_leaves _)
  have hportEnd (q : Port) : (settleEvents (testReports s (answerAndRelay (w.taken p) a s'))).port q = (answerAndRelay (w.taken p) a s').port q := by
    cases q
    · exact hend .floor (by decide)
    · exact hend .room (by decide)
  have hopen (h : testReports s (answerAndRelay (w.taken p) a s') = answerAndRelay (w.taken p) a s') :
      unchangedBut Part.answerParts s' (settleEvents (testReports s (answerAndRelay (w.taken p) a s'))) ∧
        eventsBut [] s' (settleEvents (testReports s (answerAndRelay (w.taken p) a s'))) := by
    rw [h]
    refine ⟨unchangedBut_mono (unchangedBut_trans hanswer (settleEvents_leaves _)) ?_,
      eventsBut_comp (eventsBut_of_leaves _ hanswer (by cases p <;> decide)) (settleEvents_events _)⟩
    cases p <;> simp [Part.ofPort, Part.answerParts, Part.eventParts]
  refine ⟨settleEvents (testReports s (answerAndRelay (w.taken p) a s')), by rw [hc, deliver_marked hrx hans hk, hsettle], ?_⟩
  have hclosing (P : Prop) (hopened : unchangedBut Part.answerParts s' (settleEvents (testReports s (answerAndRelay (w.taken p) a s'))) ∧
        eventsBut [] s' (settleEvents (testReports s (answerAndRelay (w.taken p) a s'))) → P) (hclosed : s.day.state = .closing → P) : P := by
    by_cases h : s.day.state = .closing
    · exact hclosed h
    · exact hopened (hopen (by rw [← htake, testReports_frame s p _ h]))
  exact
  { leaves := hclosing _ (fun h => unchangedBut_mono h.1 fun b hb => List.mem_append_right _ hb) fun h => by
      refine unchangedBut_mono (unchangedBut_trans hanswer hend) ?_
      cases p <;> simp [closingParts, h, Part.ofPort, Part.answerParts, Part.eventParts]
    raises := hclosing _ (fun h => eventsBut_mono h.2 nofun) fun h => by
      refine eventsBut_mono (eventsBut_trans (eventsBut_trans (eventsBut_of_leaves [] hanswer (by cases p <;> decide)) (testReports_events s _))
        (settleEvents_events _)) ?_
      simp [closingEvents, h]
    answer := ⟨d, by rw [hportEnd, hfilled], hdetail⟩
    relayed := ⟨by rw [hportEnd, hrx', hidle.1], by
      rw [show (settleEvents (testReports s (answerAndRelay (w.taken p) a s'))).uplink = _ from hend .uplink (by decide), henvelope, huplink, hseconds]
      simp⟩
    other := fun q hq => by rw [hportEnd, hother q hq]
    bags := fun n b hb ht => by
      rw [findBag_congr (settleEvents_leaves _ .bags (by decide))]
      exact testReports_find ((findBag_congr (hanswer .bags (by cases p <;> decide)) n).trans hb) ht
    settled := settleEvents_settled _
    unreported := fun hinputs => hclosing _ id fun h => hopen (by
      have hsame : closeInputs (answerAndRelay (w.taken p) a s') = closeInputs s' :=
        closeInputs_congr (hanswer .drawers (by cases p <;> decide)) (hanswer .sessions (by cases p <;> decide)) (hanswer .call (by cases p <;> decide))
          (hanswer .bags (by cases p <;> decide)) (hanswer .safe (by cases p <;> decide))
      unfold testReports
      rw [if_pos ⟨h, (hsame.trans hinputs).symm⟩])
    calling := fun hcall => hopen (by
      rcases testReports_spec s (answerAndRelay (w.taken p) a s') with he | ⟨-, hconditions, -⟩
      · exact he
      · unfold closingConditions at hconditions
        rw [show (answerAndRelay (w.taken p) a s').call = s'.call from hanswer .call (by cases p <;> decide)] at hconditions
        simp [hcall] at hconditions) }

/-- A frame taken as a kind is answered by that kind's job. -/
theorem job_done {c : Port → Instr} {isKind : LineFrame → Bool} {pair : Option (Byte × Byte)} (hc : ∀ p s, exec (c p) s = deliver p isKind s)
    (h : TakenAs s p w k pair) (hk : isKind w.frame = true) (hjob : k.job { w.taken p with pair := pair } (s.setRx p .idle) = (s', a)) :
    ∃ u, exec (c p) s = .next u ∧ FrameDone s p w a s' u :=
  frame_done hc h.1 hk (inspectForm_ok h.2.1).2 ((decideFrame_takenAs h).trans hjob)

/-- What a frame taken as a kind yields, by what holds of every state that answers its job. -/
theorem job_yields {c : Port → Instr} {isKind : LineFrame → Bool} {pair : Option (Byte × Byte)} {P : State → Prop}
    (hc : ∀ p s, exec (c p) s = deliver p isKind s) (h : TakenAs s p w k pair) (hk : isKind w.frame = true)
    (hjob : k.job { w.taken p with pair := pair } (s.setRx p .idle) = (s', a)) (hP : ∀ u, FrameDone s p w a s' u → P u) : Yields (c p) s P := by
  obtain ⟨u, hu, hdone⟩ := job_done hc h hk hjob
  exact ⟨u, hu, hP u hdone⟩

end

end Sys2Proof.Machine.Effects

/-! PROOF. The lock of the deposit safe: the only ways into UNLOCKED, and the frames of opening by right with the door switch (R85 to R93). -/

namespace Sys2Proof.Machine.Effects

open Sys2Proof Sys2Proof.Machine Sys2Proof.Machine.Takings Sys2Proof.Machine.TallyCount

section
variable {A : Passage → Prop} {s s' t u v : State} {p q : Port} {w : Window} {k : JobKind} {c : Instr}

/-! ## Into UNLOCKED (R89) -/

/-- A witnessed OPEN_CONFIRM marked in a port's window, on a state in WINDOW. -/
def Confirmed (s : State) (p : Port) (w : Window) : Prop :=
  markedWindow s p = some w ∧ inspectForm (w.taken p) s = .ok .openConfirm ∧ w.frame.body = [] ∧
    ∃ pair, witnessPair s s.witness[4] (w.taken p) = some pair

/-- A run unlocks the safe by its own passage alone. -/
theorem Moves.unlocked (h : Moves A s t) (ht : t.safe.lock = .unlocked) : s.safe.lock = .unlocked ∨ A .unlocking := by
  refine Moves.induct (R := fun s t => t.safe.lock = .unlocked → s.safe.lock = .unlocked ∨ A .unlocking) (fun _ => .inl) (fun h k ht => ?_)
    (fun h => h.touched.unlocked) h ht
  exact (k ht).elim h .inr

/-- Every passage but that into UNLOCKED, which is open where `P` holds. -/
def unlockingIf (P : Prop) : Passage → Prop := fun x => x = .unlocking → P

theorem opens_unlockingIf {P : Prop} {f : Taken} (h : ∀ pair, inspectForm f s = .ok .openConfirm → f.frame.body = [] → s.safe.lock = .window →
    witnessPair s s.witness[4] f = some pair → P) : Opens (unlockingIf P) f s where
  jobs := nofun
  entering := nofun
  load _ := nofun
  out _ := nofun
  unlock pair hform hbody hlock hpair _ := h pair hform hbody hlock hpair

theorem frameCommand_openConfirm {f : LineFrame} (h : f.kind = JobKind.openConfirm.byte) : frameCommand f p = .openConfirm p := by
  have hopaque : opaqueKind f.kind = false := by rw [h]; decide
  have hbyte : JobKind.ofByte f.kind = some .openConfirm := by rw [h]; decide
  simp [frameCommand, hopaque, hbyte]

/-- A command but POWER_ON and RESTART unlocks the safe with a witnessed OPEN_CONFIRM that it takes in WINDOW. -/
theorem unlocked_of_exec (hpower : c ≠ .powerOn) (hrestart : c ≠ .restart) (h : exec c s = .next t) (ht : t.safe.lock = .unlocked)
    (hs : s.safe.lock ≠ .unlocked) : ∃ p w, Confirmed s p w ∧ s.safe.lock = .window ∧ (c = .openConfirm p ∨ endsWindow p c) := by
  have hmoves := exec_moves (A := unlockingIf (∃ p w, Confirmed s p w ∧ s.safe.lock = .window ∧ (c = .openConfirm p ∨ endsWindow p c))) hpower hrestart
    ⟨nofun, nofun, nofun, fun _ => nofun, fun p w hw hends => opens_unlockingIf fun pair hform hbody hlock hpair =>
      ⟨p, w, ⟨hw, hform, hbody, pair, hpair⟩, hlock, hends.symm.imp (fun he => he.trans (frameCommand_openConfirm (inspectForm_ok hform).1)) id⟩⟩ h
  exact ((hmoves.unlocked ht).resolve_left hs) rfl

/-! ## Into WINDOW (R88) -/

theorem dropRule_lock (n : Nat) (b : Byte) (s : State) : (dropRule n b s).1.safe.lock = s.safe.lock := by
  unfold dropRule
  repeat' split
  all_goals rfl

theorem depositRule_lock (n : Nat) (b : Byte) (s : State) : (depositRule n b s).1.safe.lock = s.safe.lock := by
  unfold depositRule
  repeat' split
  all_goals rfl

theorem withdrawRule_lock (n : Nat) (b : Byte) (s : State) : (withdrawRule n b s).1.safe.lock = s.safe.lock := by
  unfold withdrawRule
  repeat' split
  all_goals rfl

theorem sealJob_lock {rule : Nat → Byte → State → State × Answer} (h : ∀ n b s, (rule n b s).1.safe.lock = s.safe.lock) (f : Taken) (s : State) :
    (sealJob rule f s).1.safe.lock = s.safe.lock := by
  unfold sealJob
  split
  · rfl
  · exact h _ _ s

theorem commandSafe_lock (x : BoltCommand) (s : State) : (commandSafe x s).safe.lock = s.safe.lock := by rw [(commandSafe_spec x s).1]

theorem doorOpened_lock (s : State) : (doorOpened s).safe.lock =
    if s.safe.lock = .unlocked ∨ s.safe.lock = .opened then .opened else .openForced := by
  unfold doorOpened
  split <;> next hlock => rw [hlock]; rfl

theorem doorClosed_lock (s : State) : (doorClosed s).safe.lock = if s.safe.lock.doorStands = true then .locked else s.safe.lock := by
  unfold doorClosed
  split
  · exact commandSafe_lock _ _
  · rfl

/-- Only an OPEN_REQUEST on a LOCKED safe brings WINDOW (R88). -/
theorem job_window {f : Taken} (h : (k.job f s).1.safe.lock = .window) : s.safe.lock = .window ∨ s.safe.lock = .locked ∧ k = .openRequest := by
  have hkept (he : (k.job f s).1.safe.lock = s.safe.lock) : s.safe.lock = .window ∨ s.safe.lock = .locked ∧ k = .openRequest := .inl (he ▸ h)
  have haway (hparts : Part.safe ∉ k.parts ++ Part.answerParts) : s.safe.lock = .window ∨ s.safe.lock = .locked ∧ k = .openRequest :=
    hkept (by rw [job_parts k f s .safe hparts])
  cases k with
  | tender | refund | pickup | cashup | declare | floatReceipt | tillOpen | makeUp | restock | bagOpen | batch | bagClose | countAbort | handKey
  | announce | load | receive | sign => exact haway (by decide)
  | drop => exact hkept (sealJob_lock dropRule_lock f s)
  | deposit => exact hkept (sealJob_lock depositRule_lock f s)
  | withdraw => exact hkept (sealJob_lock withdrawRule_lock f s)
  | door =>
    refine .inl ?_
    revert h
    refine state_ite (P := fun u => u.safe.lock = .window → s.safe.lock = .window) ?_ ?_
    · refine state_ite (P := fun u => u.safe.lock = .window → s.safe.lock = .window) ?_ id
      show (doorClosed s).safe.lock = _ → _
      rw [doorClosed_lock]
      split
      · exact nofun
      · exact id
    · refine state_ite (P := fun u => u.safe.lock = .window → s.safe.lock = .window) ?_ id
      show (doorOpened s).safe.lock = _ → _
      rw [doorOpened_lock]
      split <;> exact nofun
  | openRequest =>
    revert h
    refine state_ite (P := fun u => u.safe.lock = .window → s.safe.lock = .window ∨ _) .inl ?_
    by_cases hlock : s.safe.lock = .locked
    · exact fun _ => .inr ⟨hlock, rfl⟩
    · rw [if_pos hlock]
      exact .inl
  | openConfirm =>
    refine .inl ?_
    revert h
    refine state_ite (P := fun u => u.safe.lock = .window → s.safe.lock = .window) id (state_ite (P := fun u => u.safe.lock = .window → s.safe.lock = .window) id ?_)
    rw [commandSafe_lock]
    exact nofun
  | openCancel =>
    refine .inl ?_
    revert h
    exact state_ite (P := fun u => u.safe.lock = .window → s.safe.lock = .window) id
      (state_ite (P := fun u => u.safe.lock = .window → s.safe.lock = .window) nofun id)

theorem confirmFailed_window {n : Nat} (h : (confirmFailed n s).1.safe.lock = .window) : s.safe.lock = .window := by
  by_contra hlock
  unfold confirmFailed at h
  rw [if_pos hlock] at h
  exact hlock h

/-- A frame brings WINDOW as an OPEN_REQUEST on a LOCKED safe alone. -/
theorem takeFrame_window {f : Taken} (h : (takeFrame f s).safe.lock = .window) :
    s.safe.lock = .window ∨ s.safe.lock = .locked ∧ inspectForm f s = .ok .openRequest := by
  unfold takeFrame at h
  split at h
  · exact .inl h
  · have hanswer : (answerAndRelay f (decideFrame f s).2 (decideFrame f s).1).safe = (decideFrame f s).1.safe :=
      unchangedBut_trans (fillAnswer_leaves f _ _) (fillEnvelope_leaves f _ _) .safe (by cases f.port <;> decide)
    rw [hanswer] at h
    rcases decideFrame_cases f s with he | ⟨k, pair, hform, he⟩ | ⟨-, n, he⟩ <;> rw [he] at h
    · exact .inl h
    · exact (job_window h).imp id fun ⟨hlock, hk⟩ => ⟨hlock, hk ▸ hform⟩
    · exact .inl (confirmFailed_window h)

/-! ## RESTART (R195) -/

/-- What the inspection of a frame and its marks reads, and the receivers. -/
theorem confirmed_congr (hrx : (t.port q).rx = (s.port q).rx) (hnodes : t.nodes = s.nodes) (hday : t.day = s.day) (hwitness : t.witness = s.witness)
    (h : Confirmed t q w) : Confirmed s q w := by
  obtain ⟨hw, hform, hbody, pair, hpair⟩ := h
  rw [markedWindow_congr hrx] at hw
  rw [inspectForm_congr hnodes hday] at hform
  rw [hwitness, witnessPair_congr hnodes] at hpair
  exact ⟨hw, hform, hbody, pair, hpair⟩

/-- Taking a marked frame unlocks the safe with a witnessed OPEN_CONFIRM in WINDOW alone. -/
theorem takeMarkedWindow_unlocked (h : (takeMarkedWindow p s).safe.lock = .unlocked) (hs : s.safe.lock ≠ .unlocked) :
    ∃ w, Confirmed s p w ∧ s.safe.lock = .window := by
  have hmoves := takeMarkedWindow_moves (A := unlockingIf (∃ w, Confirmed s p w ∧ s.safe.lock = .window)) (p := p) (s := s) nofun
    fun w hw => opens_unlockingIf fun pair hform hbody hlock hpair => ⟨w, ⟨hw, hform, hbody, pair, hpair⟩, hlock⟩
  exact ((hmoves.unlocked h).resolve_left hs) rfl

theorem takeMarkedWindow_window (h : (takeMarkedWindow p s).safe.lock = .window) :
    s.safe.lock = .window ∨ s.safe.lock = .locked ∧ ∃ v, markedWindow s p = some v ∧ inspectForm (v.taken p) s = .ok .openRequest := by
  unfold takeMarkedWindow at h
  split at h
  · next v hv =>
    have hset := setRx_leaves p .waitIdle s
    rcases takeFrame_window h with hlock | ⟨hlock, hform⟩
    · exact .inl (by rwa [hset .safe (by cases p <;> decide)] at hlock)
    · rw [inspectForm_setRx] at hform
      exact .inr ⟨by rwa [hset .safe (by cases p <;> decide)] at hlock, v, hv, hform⟩
  · exact .inl h

/-- A RESTART unlocks the safe with a witnessed OPEN_CONFIRM in WINDOW, which the OPEN_REQUEST of the other port may have brought. -/
theorem unlocked_of_restart (h : exec .restart s = .next t) (ht : t.safe.lock = .unlocked) (hs : s.safe.lock ≠ .unlocked) :
    ∃ p w, Confirmed s p w ∧ (s.safe.lock = .window ∨ s.safe.lock = .locked ∧
      ∃ q v, q ≠ p ∧ markedWindow s q = some v ∧ inspectForm (v.taken q) s = .ok .openRequest) := by
  rcases restart_takes s with hstay | ⟨tag, fields, rest, -, -, -, htaken⟩
  · rw [hstay] at h
    cases h
    exact absurd ht hs
  · rw [htaken] at h
    obtain rfl := Host.Outcome.next.inj h
    have hafter : (takeMarkedWindows (popRequest s)).safe.lock = .unlocked := by
      have hmoves : Moves (unlockingIf False) (takeMarkedWindows (popRequest s)) (settleRestart s (answered runRestart tag 0x5F fields s)) := by
        refine Moves.trans ?_ (settleRestart_moves nofun s _)
        unfold answered
        rw [runRestart_eq]
        exact (restartRest_moves nofun nofun _).trans (.trunk nofun (answerRequest_leaves _ _ _ _ _ _) (answerRequest_places _ _ _ _ _ _) (.of_leaves (answerRequest_leaves _ _ _ _ _ _)))
      exact (hmoves.unlocked ht).resolve_right fun hA => hA rfl
    obtain ⟨p, q, u, hpq, hu, heq⟩ := takeMarkedWindows_eq (popRequest s)
    rw [heq] at hafter
    have hbefore : unchangedBut [.trunk, .draws] s u := unchangedBut_trans (popRequest_leaves s) hu
    have hlock : u.safe = s.safe := hbefore .safe (by decide)
    have hport (r : Port) : u.port r = s.port r := by
      cases r
      · exact hbefore .floor (by decide)
      · exact hbefore .room (by decide)
    have hfirst := takeMarkedWindow_leaves p u
    have hconfirmed {r : Port} {w : Window} (h : Confirmed u r w) : Confirmed s r w :=
      confirmed_congr (by rw [hport]) (hbefore .nodes (by decide)) (hbefore .day (by decide)) (hbefore .witness (by decide)) h
    by_cases hunlocked : (takeMarkedWindow p u).safe.lock = .unlocked
    · obtain ⟨w, hc, hwindow⟩ := takeMarkedWindow_unlocked hunlocked (by rwa [hlock])
      exact ⟨p, w, hconfirmed hc, .inl (by rwa [hlock] at hwindow)⟩
    · obtain ⟨w, ⟨hw, hform, hbody, pair, hpair⟩, hwindow⟩ := takeMarkedWindow_unlocked hafter hunlocked
      rw [takeMarkedWindow_other hpq] at hw
      rw [inspectForm_congr (hfirst .nodes (by decide)) (hfirst .day (by decide))] at hform
      rw [hfirst .witness (by decide), witnessPair_congr (hfirst .nodes (by decide))] at hpair
      refine ⟨q, w, hconfirmed ⟨hw, hform, hbody, pair, hpair⟩, ?_⟩
      rcases takeMarkedWindow_window hwindow with hkept | ⟨hlocked, v, hv, hrequest⟩
      · exact .inl (by rwa [hlock] at hkept)
      · refine .inr ⟨by rwa [hlock] at hlocked, p, v, hpq, ?_, ?_⟩
        · exact (markedWindow_congr (by rw [hport])).symm.trans hv
        · rwa [inspectForm_congr (hbefore .nodes (by decide)) (hbefore .day (by decide))] at hrequest

/-! ## The command to the bolt (R93) -/

theorem safeNode_iff {b : Byte} : safeNode s = some b ↔ LowestSafeNode s b := by
  unfold safeNode LowestSafeNode
  rw [Option.map_eq_some_iff]
  constructor
  · rintro ⟨i, hi, rfl⟩
    obtain ⟨hsafe, hlower⟩ := firstIndex_some.mp hi
    simp only [Bool.and_eq_true, decide_eq_true_eq] at hsafe
    refine ⟨i, rfl, hsafe.1, hsafe.2, fun j hj => ?_⟩
    have := hlower j hj
    simpa [or_iff_not_imp_left] using this
  · rintro ⟨i, rfl, henabled, hrole, hlower⟩
    refine ⟨i, firstIndex_some.mpr ⟨by simpa using ⟨henabled, hrole⟩, fun j hj => ?_⟩, rfl⟩
    simpa [or_iff_not_imp_left] using hlower j hj

theorem lowestSafeNode_unique {b b' : Byte} (h : LowestSafeNode s b) (h' : LowestSafeNode s b') : b = b' :=
  Option.some.inj ((safeNode_iff.mpr h).symm.trans (safeNode_iff.mpr h'))

theorem safeNode_setSafe (x : Safe) (s : State) : safeNode (s.setSafe x) = safeNode s := rfl

/-- A command decided on is placed where a place is FREE and a SAFE node is enabled, and owed where not. -/
theorem commandSafe_places (x : BoltCommand) (s : State) :
    (commandSafe x s).safe.commanded = x ∧
    (∀ b, 0 < s.room.out.free → LowestSafeNode s b → (commandSafe x s).safe.owed = false ∧
      (commandSafe x s).room.out.filled = s.room.out.filled ++ [safeCommandFrame b x]) ∧
    (s.room.out.free = 0 ∨ (∀ b, ¬LowestSafeNode s b) → (commandSafe x s).safe.owed = true ∧ (commandSafe x s).room.out.filled = s.room.out.filled) := by
  refine ⟨by rw [(commandSafe_spec x s).1], fun b hfree hb => ?_, fun hnot => ?_⟩
  · have hb' := safeNode_iff.mpr hb
    unfold commandSafe
    rcases placeSafeCommand_spec (s.setSafe { s.safe with commanded := x, owed := true }) with ⟨hno, -⟩ | ⟨-, b', hb'', he⟩
    · have hyes : commandPlaceable (s.setSafe { s.safe with commanded := x, owed := true }) = true := by
        unfold commandPlaceable
        rw [safeNode_setSafe, hb']
        exact Bool.and_eq_true_iff.mpr ⟨decide_eq_true hfree, rfl⟩
      rw [hyes] at hno
      cases hno
    · rw [safeNode_setSafe] at hb''
      obtain rfl : b' = b := Option.some.inj (hb''.symm.trans hb')
      rw [he]
      exact ⟨rfl, rfl⟩
  · unfold commandSafe
    rcases placeSafeCommand_spec (s.setSafe { s.safe with commanded := x, owed := true }) with ⟨-, he⟩ | ⟨hyes, b, hb, -⟩
    · rw [he]
      exact ⟨rfl, rfl⟩
    · have hfree : 0 < s.room.out.free := by
        unfold commandPlaceable at hyes
        simp only [Bool.and_eq_true, decide_eq_true_eq] at hyes
        exact hyes.1.2
      exact (hnot.elim (fun h => by omega) fun h => h b (safeNode_iff.mp hb)).elim

/-- The frame that a taking puts behind a command is no SAFE_COMMAND. -/
theorem FrameDone.room {a : Answer} (h : FrameDone s p w a s' u) :
    ∃ more, u.room.out.filled = s'.room.out.filled ++ more ∧ ∀ f ∈ more, f.kind ≠ kindSafeCommand := by
  cases p with
  | floor => exact ⟨[], by simpa using h.other .room (by decide), by simp⟩
  | room =>
    obtain ⟨d, hfilled, -⟩ := h.answer
    refine ⟨_, hfilled, fun f hf => ?_⟩
    rw [List.mem_singleton.mp hf]
    cases a with
    | verdict => exact show kindVerdict ≠ kindSafeCommand by decide
    | advice => exact show kindAdvice ≠ kindSafeCommand by decide

/-- Where a command goes that deciding a frame commands the bolt with. -/
theorem FrameDone.goes {a : Answer} {x : BoltCommand} (h : FrameDone s p w a (commandSafe x v) u) (hout : v.room.out = s.room.out)
    (hnodes : v.nodes = s.nodes) : CommandGoes s u s.room.out x := by
  obtain ⟨hcommanded, hplaced, howed⟩ := commandSafe_places x v
  obtain ⟨more, hmore, hkinds⟩ := h.room
  have hsafe : u.safe = (commandSafe x v).safe := h.part .safe
  have hnode (b : Byte) : LowestSafeNode v b ↔ LowestSafeNode s b := by
    unfold LowestSafeNode
    rw [hnodes]
  rw [hout] at hplaced howed
  refine ⟨by rw [hsafe, hcommanded], fun b hfree hb => ?_, fun hnot => ?_⟩
  · obtain ⟨ho, hf⟩ := hplaced b hfree ((hnode b).mpr hb)
    exact ⟨by rw [hsafe, ho], more, by rw [hmore, hf, List.append_assoc]; rfl, hkinds⟩
  · obtain ⟨ho, hf⟩ := howed (hnot.imp id fun h b hb => h b ((hnode b).mp hb))
    exact ⟨by rw [hsafe, ho], more, by rw [hmore, hf], hkinds⟩

theorem setRx_out (s : State) (p q : Port) (rx : Receiver) : ((s.setRx p rx).port q).out = (s.port q).out := by
  cases p <;> cases q <;> rfl

/-! ## The door switch and the frames of opening by right (R85 to R91) -/

theorem doorOpened_timer (h : s.safe.lock = .unlocked ∨ s.safe.lock.chuteWorks = true) : (doorOpened s).safe.timer = none := by
  unfold doorOpened
  split <;> first | rfl | (next hlock => simp [hlock, LockState.chuteWorks] at h)

theorem doorOpened_event (h : s.safe.lock.chuteWorks = true) :
    ((doorOpened s).event .doorForced).pending = true ∧ ((doorOpened s).event .doorForced).detail = BitVec.ofNat 32 s.safe.lock.code := by
  have hraised (v : State) (n : Nat) : ((raiseNum .doorForced n v).event .doorForced).pending = true ∧
      ((raiseNum .doorForced n v).event .doorForced).detail = BitVec.ofNat 32 n := by
    unfold raiseNum
    rw [raise_event, if_pos rfl]
    exact ⟨rfl, rfl⟩
  unfold doorOpened
  split <;> first | exact hraised _ _ | (next hlock => simp [hlock, LockState.chuteWorks] at h)

theorem doorOpen_taken (h : TakenAs s p w .door none) (hbody : w.frame.body = [0#8]) : Yields (.doorOpen p) s fun u =>
    (s.safe.lock = .unlocked → u.safe.lock = .opened ∧ u.safe.timer = none) ∧
    (s.safe.lock = .opened ∨ s.safe.lock = .openForced → u.safe.lock = s.safe.lock) ∧
    (s.safe.lock.chuteWorks = true → u.safe.lock = .openForced ∧ u.safe.timer = none ∧
      (u.event .doorForced).pending = true ∧ (u.event .doorForced).detail = BitVec.ofNat 32 s.safe.lock.code) ∧
    Answered s u p w .accepted (num u.safe.lock.code) := by
  have hnot : isDoorClosed w.frame = false := by simp [isDoorClosed, hbody]
  obtain ⟨u, hu, hdone⟩ := job_done (c := .doorOpen) (isKind := fun f => isJob .door f && !isDoorClosed f) (fun _ _ => rfl) h
    (by rw [isJob_of_takenAs h, hnot]; rfl)
    (show doorJob { w.taken p with pair := none } (s.setRx p .idle) =
        (doorOpened (s.setRx p .idle), .verdict .accepted (lockDetail (doorOpened (s.setRx p .idle)))) by
      simp [doorJob, doorOpenJob, Window.taken, hbody])
  have hsafe : u.safe = (doorOpened (s.setRx p .idle)).safe := hdone.part .safe
  have hlock : (s.setRx p .idle).safe = s.safe := by simp
  refine ⟨u, hu, fun h => ?_, fun h => ?_, fun h => ?_, ?_⟩
  · rw [hsafe, doorOpened_lock, doorOpened_timer (by rw [hlock]; exact .inl h), hlock, if_pos (.inl h)]
    exact ⟨rfl, rfl⟩
  · rw [hsafe, doorOpened_lock, hlock]
    rcases h with h | h <;> rw [h] <;> rfl
  · rw [hdone.event .doorForced, hsafe, doorOpened_lock, doorOpened_timer (by rw [hlock]; exact .inr h), hlock, if_neg (by rintro (hl | hl) <;> rw [hl] at h <;> cases h)]
    have hraised := doorOpened_event (s := s.setRx p .idle) (by rw [hlock]; exact h)
    rw [hlock] at hraised
    exact ⟨rfl, rfl, hraised⟩
  · rw [hsafe]
    exact hdone.answered

theorem doorClosed_taken (h : TakenAs s p w .door none) (hbody : w.frame.body = [1#8]) : Yields (.doorClosed p) s fun u =>
    (s.safe.lock.doorStands = true → u.safe.lock = .locked ∧ u.safe.timer = none ∧ u.safe.commanded = .lock ∧ CommandGoes s u s.room.out .lock) ∧
    (s.safe.lock.doorStands = false → u.safe = s.safe) ∧ Answered s u p w .accepted (num u.safe.lock.code) := by
  have hclosed : isDoorClosed w.frame = true := by simp [isDoorClosed, isJob_of_takenAs h, hbody]
  have hlock : (s.setRx p .idle).safe = s.safe := by simp
  obtain ⟨u, hu, hdone⟩ := job_done (c := .doorClosed) (isKind := isDoorClosed) (fun _ _ => rfl) h hclosed
    (show doorJob { w.taken p with pair := none } (s.setRx p .idle) =
        (doorClosed (s.setRx p .idle), .verdict .accepted (lockDetail (doorClosed (s.setRx p .idle)))) by
      simp only [doorJob, doorClosedJob, Window.taken, hbody, if_true])
  have hsafe : u.safe = (doorClosed (s.setRx p .idle)).safe := hdone.part .safe
  refine ⟨u, hu, fun h => ?_, fun h => ?_, ?_⟩
  · have hcommand : doorClosed (s.setRx p .idle) = commandSafe .lock (setLock .locked none (s.setRx p .idle)) := by
      unfold doorClosed
      rw [hlock, if_pos h]
    rw [hcommand] at hdone hsafe
    have hgoes := hdone.goes (setRx_out s p .room .idle) (by show (s.setRx p .idle).nodes = _; simp)
    rw [hsafe, (commandSafe_spec .lock _).1]
    exact ⟨rfl, rfl, rfl, hgoes⟩
  · rw [hsafe]
    unfold doorClosed
    rw [hlock, if_neg (by simp [h])]
    exact hlock
  · rw [hsafe]
    exact hdone.answered

theorem openRequest_taken {pair : Byte × Byte} {kind : DelayKind} {length : Nat} (h : TakenAs s p w .openRequest (some pair)) (hbody : w.frame.body = [])
    (hlock : s.safe.lock = .locked) (hdelay : chooseDelay s = (kind, length)) : Yields (.openRequest p) s fun u =>
      u.safe.delayKind = kind ∧ u.safe.lock = (if length = 0 then .window else .delay) ∧
      u.safe.timer = some (s.seconds + if length = 0 then s.timing.openWindow else length) ∧ Answered s u p w .accepted (num length) := by
  have hset : chooseDelay (s.setRx p .idle) = (kind, length) := by
    rw [← hdelay]
    simp [chooseDelay]
  obtain ⟨u, hu, hdone⟩ := job_done (c := .openRequest) (isKind := isJob .openRequest) (fun _ _ => rfl) h (isJob_of_takenAs h)
    (show openRequestJob { w.taken p with pair := some pair } (s.setRx p .idle) =
        (if length = 0 then enterWindow ((s.setRx p .idle).setSafe { s.safe with delayKind := kind })
         else setLock .delay (some (s.seconds + length)) ((s.setRx p .idle).setSafe { s.safe with delayKind := kind }), .verdict .accepted (num length)) by
      simp [openRequestJob, Window.taken, hbody, hlock, hset])
  have hsafe := hdone.part .safe
  refine ⟨u, hu, ?_⟩
  dsimp only
  rw [show u.safe = _ from hsafe]
  by_cases hzero : length = 0
  · subst hzero
    rw [if_pos rfl]
    exact ⟨rfl, rfl, by simp [enterWindow, setLock], hdone.answered⟩
  · rw [if_neg hzero, if_neg hzero, if_neg hzero]
    exact ⟨rfl, rfl, rfl, hdone.answered⟩

theorem openCancel_taken (h : TakenAs s p w .openCancel none) (hbody : w.frame.body = []) (hlock : s.safe.lock = .delay ∨ s.safe.lock = .window) :
    Yields (.openCancel p) s fun u =>
      u.safe.lock = .locked ∧ u.safe.timer = none ∧ u.safe.failed = s.safe.failed ∧ Answered s u p w .accepted none := by
  obtain ⟨u, hu, hdone⟩ := job_done (c := .openCancel) (isKind := isJob .openCancel) (fun _ _ => rfl) h (isJob_of_takenAs h)
    (show openCancelJob { w.taken p with pair := none } (s.setRx p .idle) = (setLock .locked none (s.setRx p .idle), .verdict .accepted none) by
      simp [openCancelJob, Window.taken, hbody, hlock])
  refine ⟨u, hu, ?_⟩
  dsimp only
  rw [show u.safe = _ from hdone.part .safe]
  exact ⟨rfl, rfl, by simp [setLock], hdone.answered⟩

theorem openConfirm_taken {pair : Byte × Byte} (h : TakenAs s p w .openConfirm (some pair)) (hbody : w.frame.body = []) (hlock : s.safe.lock = .window) :
    Yields (.openConfirm p) s fun u =>
      u.safe.lock = .unlocked ∧ u.safe.timer = some (s.seconds + s.timing.relockTime) ∧ u.safe.failed = 0 ∧
      CommandGoes s u s.room.out .unlock ∧ Answered s u p w .accepted (num s.timing.relockTime) := by
  obtain ⟨u, hu, hdone⟩ := job_done (c := .openConfirm) (isKind := isJob .openConfirm) (fun _ _ => rfl) h (isJob_of_takenAs h)
    (show openConfirmJob { w.taken p with pair := some pair } (s.setRx p .idle) =
        (commandSafe .unlock (setFailed 0 (setLock .unlocked (some (s.seconds + s.timing.relockTime)) (s.setRx p .idle))),
          .verdict .accepted (num s.timing.relockTime)) by
      simp [openConfirmJob, Window.taken, hbody, hlock])
  have hgoes := hdone.goes (setRx_out s p .room .idle) (by show (s.setRx p .idle).nodes = _; simp)
  refine ⟨u, hu, ?_⟩
  dsimp only
  rw [show u.safe = _ from hdone.part .safe, (commandSafe_spec .unlock _).1]
  exact ⟨rfl, rfl, rfl, hgoes, hdone.answered⟩

/-! ## Refused (R86, R88, R89, R91) -/

theorem door_refused (h : TakenAs s p w .door none) (hopen : w.frame.body ≠ [0#8]) (hclosed : w.frame.body ≠ [1#8]) :
    RefusedFrame .doorOpen s p w .malformed none := by
  have hnot : isDoorClosed w.frame = false := by simp [isDoorClosed, hclosed]
  exact refused_of_job (isKind := fun f => isJob .door f && !isDoorClosed f) (fun _ _ => rfl) h (by rw [isJob_of_takenAs h, hnot]; rfl)
    (by simp [JobKind.job, doorJob, doorOpenJob, Window.taken, hclosed, hopen])

theorem openCancel_refused (h : TakenAs s p w .openCancel none) :
    (w.frame.body ≠ [] → RefusedFrame .openCancel s p w .malformed none) ∧
    (w.frame.body = [] → s.safe.lock ≠ .delay → s.safe.lock ≠ .window →
      RefusedFrame .openCancel s p w .wrongLockState (num s.safe.lock.code)) := by
  refine ⟨fun hbody => ?_, fun hbody hdelay hwindow => ?_⟩ <;>
    refine refused_of_job (isKind := isJob .openCancel) (fun _ _ => rfl) h (isJob_of_takenAs h) ?_
  · simp [JobKind.job, openCancelJob, Window.taken, hbody]
  · simp [JobKind.job, openCancelJob, Window.taken, hbody, hdelay, hwindow, lockDetail]

theorem openRequest_refused {pair : Byte × Byte} (h : TakenAs s p w .openRequest (some pair)) :
    (w.frame.body ≠ [] → RefusedFrame .openRequest s p w .malformed none) ∧
    (w.frame.body = [] → s.safe.lock ≠ .locked → RefusedFrame .openRequest s p w .busy (num s.safe.lock.code)) := by
  refine ⟨fun hbody => ?_, fun hbody hlock => ?_⟩ <;>
    refine refused_of_job (isKind := isJob .openRequest) (fun _ _ => rfl) h (isJob_of_takenAs h) ?_
  · simp [JobKind.job, openRequestJob, Window.taken, hbody]
  · simp [JobKind.job, openRequestJob, Window.taken, hbody, hlock, lockDetail]

theorem openConfirm_refused {pair : Byte × Byte} (h : TakenAs s p w .openConfirm (some pair)) :
    (w.frame.body ≠ [] → RefusedFrame .openConfirm s p w .malformed none) ∧
    (w.frame.body = [] → s.safe.lock ≠ .window → RefusedFrame .openConfirm s p w .wrongLockState (num s.safe.lock.code)) := by
  refine ⟨fun hbody => ?_, fun hbody hlock => ?_⟩ <;>
    refine refused_of_job (isKind := isJob .openConfirm) (fun _ _ => rfl) h (isJob_of_takenAs h) ?_
  · simp [JobKind.job, openConfirmJob, Window.taken, hbody]
  · simp [JobKind.job, openConfirmJob, Window.taken, hbody, hlock, lockDetail]

end

/-- Settles O41: a run unlocks the safe by one passage, which a witnessed OPEN_CONFIRM in WINDOW opens; the frames by their jobs, answered. -/
theorem lockFrames : Obligations.LockFrames := by
  unfold Obligations.LockFrames
  refine ⟨fun c s t h ht hs => ?_, fun p s w => ⟨doorOpen_taken, doorClosed_taken, fun pair kind length h hbody hlock hdelay => ?_, openCancel_taken,
    fun pair => openConfirm_taken, door_refused, openCancel_refused, fun pair => ⟨openRequest_refused, openConfirm_refused⟩⟩⟩
  · by_cases hpower : c = .powerOn
    · subst hpower
      rw [← Host.Outcome.next.inj h] at ht
      cases ht
    · by_cases hrestart : c = .restart
      · subst hrestart
        obtain ⟨p, w, ⟨hw, hform, hbody, pair, hpair⟩, hlock⟩ := unlocked_of_restart h ht hs
        exact ⟨p, w, pair, hw, hform, hbody, hpair, .inr (.inr ⟨rfl, hlock⟩)⟩
      · obtain ⟨p, w, ⟨hw, hform, hbody, pair, hpair⟩, hlock, hc⟩ := unlocked_of_exec hpower hrestart h ht hs
        exact ⟨p, w, pair, hw, hform, hbody, hpair, hc.elim (fun hc => .inl ⟨hc, hlock⟩) fun hc => .inr (.inl ⟨hc, hlock⟩)⟩
  · refine openRequest_taken h hbody hlock ?_
    rcases hdelay with ⟨hphase, rfl, rfl⟩ | ⟨hphase, hday, rfl, rfl⟩ | ⟨hphase, hday, rfl, rfl⟩ <;> simp [chooseDelay, *]

end Sys2Proof.Machine.Effects

/-! PROOF. One record through the operations of the register, the ring and the call: what stands under a seal behind each of them (R27, R31 to R35, R109,
R137). -/

namespace Sys2Proof.Machine.Effects

open Sys2Proof Sys2Proof.Machine Sys2Proof.Machine.Takings Sys2Proof.Machine.TallyCount

section
variable {s t u : State} {n m : Nat} {b b' : Bag} {i : Fin 16} {r : CallResult}

/-- A record replaced under its seal. -/
theorem findBag_replaced (hseal : b'.sealNo = m) : findBag (changeBag m (fun _ => b') s) n = if n = m then (findBag s m).map fun _ => b' else findBag s n := by
  unfold changeBag findBag
  simp only [State.setBags_bags]
  induction s.bags with
  | nil => simp
  | cons c l ih =>
    rw [List.map_cons, List.find?_cons, List.find?_cons, ih]
    by_cases hc : c.sealNo = m
    · by_cases hn : n = m
      · simp [hc, hn, hseal]
      · have hcn : c.sealNo ≠ n := fun h => hn (h.symm.trans hc)
        have hbn : b'.sealNo ≠ n := fun h => hn (h.symm.trans hseal)
        simp [hc, hn, hbn, Ne.symm hn]
    · by_cases hn : n = m
      · simp [hc, hn]
      · rw [if_neg hc, if_neg hn, if_neg hn, List.find?_cons]

/-- What stands under a seal after its record asked for a transition that its rule allows. -/
theorem findBag_moved (hfind : findBag s m = some b) (hseal : b'.sealNo = b.sealNo) :
    findBag (changeBag m (fun _ => b') s) n = if n = m then some b' else findBag s n := by
  rw [findBag_replaced (hseal.trans (findBag_some hfind).2), hfind]
  rfl

theorem findBag_returnSlot : findBag (returnSlot i r s) n = (findBag s n).map (returnedRow i) :=
  findBag_map (fun b => (returnedRow_keeps i b).1) n

theorem findBag_abortBags (seals : List Nat) : findBag (abortBags seals s) n = (findBag s n).map (abortedRow seals s.seconds) :=
  findBag_map (fun b => by split; · rfl
                           split <;> rfl) n

theorem findBag_flagUnsigned (seals : List Nat) : findBag (flagUnsigned seals s) n = (findBag s n).map (flaggedRow seals) :=
  findBag_map (fun b => (flaggedRow_keeps seals b).1) n

theorem findBag_signBags (seals : List Nat) : findBag (signBags seals s) n = (findBag s n).map (signedRow seals s.seconds) :=
  findBag_map (fun b => by split <;> rfl) n

theorem findBag_of_leaves {ex : List Part} (h : unchangedBut ex s t) (hex : .bags ∉ ex := by decide) : findBag t n = findBag s n :=
  findBag_congr (h .bags hex) n

/-- A record that no session counts stays through the abort of the sessions (R109). -/
theorem findBag_abortSessions (h : findBag s n = some b) (hstate : b.state ≠ .counting ∧ b.state ≠ .countSuspended) :
    findBag (abortSessions s) n = some b := by
  rw [abortSessions_fold]
  generalize List.finRange 4 = l
  induction l generalizing s with
  | nil => exact h
  | cons x l ih =>
    refine ih ?_
    unfold abortStep
    split
    · exact h
    · rw [abort_bag x s n b h, if_neg fun ⟨_, _, hs⟩ => hs.elim hstate.1 hstate.2]

/-- A record behind the return of heads: as it was, or without its pin where it was IN_SAFE or HANDED_OVER (R34). -/
def Unpinned (b b' : Bag) : Prop := b' = b ∨ (b.state = .inSafe ∨ b.state = .handedOver) ∧ b' = { b with pin := none }

theorem Unpinned.trans {c : Bag} (h : Unpinned b b') (k : Unpinned b' c) : Unpinned b c := by
  rcases h with rfl | ⟨hs, rfl⟩
  · exact k
  · rcases k with rfl | ⟨-, rfl⟩ <;> exact .inr ⟨hs, rfl⟩

theorem unpinned_returnedRow (i : Fin 16) (b : Bag) : Unpinned b (returnedRow i b) := by
  unfold returnedRow
  split
  · next h =>
    simp only [Bool.and_eq_true, Bool.or_eq_true, decide_eq_true_eq] at h
    exact .inr ⟨h.2, rfl⟩
  · exact .inl rfl

theorem findBag_missedCheck (h : findBag s n = some b) : ∃ b', findBag (missedCheck s) n = some b' ∧ Unpinned b b' := by
  unfold missedCheck
  generalize 16 = k
  induction k generalizing s b with
  | zero => exact ⟨b, h, .inl rfl⟩
  | succ k ih =>
    unfold checkMissed
    split
    · have hrow : findBag (raiseNum .windowMissed s.call.next.val (returnSlot s.call.next .missed s)) n = some (returnedRow s.call.next b) := by
        rw [findBag_of_leaves (raiseNum_leaves _ _ _), findBag_returnSlot, h]
        rfl
      obtain ⟨b', hb', hrows⟩ := ih hrow
      exact ⟨b', hb', (unpinned_returnedRow _ b).trans hrows⟩
    · exact ⟨b, h, .inl rfl⟩

/-- A record behind the abort of a call: aborted and flagged, and unpinned where the slots that return say so (R31, R34, R35). -/
theorem findBag_abortCall (h : findBag s n = some b) : ∃ b', findBag (abortCall i r s) n = some b' ∧
    Unpinned (flaggedRow s.ring[i].received (abortedRow s.ring[i].outbound s.seconds b)) b' := by
  have hbags : findBag (raiseNum .handoverAborted i.val (endSession (returnSlot i r (flagUnsigned s.ring[i].received (abortBags s.ring[i].outbound s))))) n =
      some (returnedRow i (flaggedRow s.ring[i].received (abortedRow s.ring[i].outbound s.seconds b))) := by
    rw [findBag_of_leaves (raiseNum_leaves _ _ _), findBag_of_leaves (endSession_leaves _), findBag_returnSlot, findBag_flagUnsigned, findBag_abortBags, h]
    rfl
  obtain ⟨b', hb', hrows⟩ := findBag_missedCheck hbags
  exact ⟨b', hb', (unpinned_returnedRow _ _).trans hrows⟩

theorem abortHandover_cases (r : CallResult) (s : State) :
    abortHandover r s = s ∧ s.activeSlot = none ∨ ∃ i, s.activeSlot = some i ∧ abortHandover r s = abortCall i r s := by
  unfold abortHandover State.activeSlot
  cases hp : s.call.phase <;> cases hs : s.call.slot <;> simp

end

end Sys2Proof.Machine.Effects

/-! PROOF. The pin request (R121), and how a pinned record leaves IN_SAFE (R33, R166, R195). -/

namespace Sys2Proof.Machine.Effects

open Sys2Proof Sys2Proof.Machine Sys2Proof.Machine.Takings Sys2Proof.Machine.TallyCount

section
variable {A : Passage → Prop} {s s' t u : State} {p : Port} {w : Window} {n m : Nat} {b b' : Bag} {c : Code} {earlier seals : List Nat}

/-! ## The check of the seals -/

/-- What a pin request asks of a seal's record. -/
def Pinnable (s : State) (n : Nat) : Prop := ∃ b, findBag s n = some b ∧ b.kind = .consignment ∧ b.state = .inSafe ∧ b.pin = none

/-- How a seal fails the request, by the seals that stand before it. -/
def PinFails (s : State) (seen : Prop) (n : Nat) (c : Code) : Prop :=
  (findBag s n = none ∧ c = .unknownBag) ∨ ∃ b, findBag s n = some b ∧
    ((¬(b.kind = .consignment ∧ b.state = .inSafe) ∧ c = .wrongBagState) ∨
     (b.kind = .consignment ∧ b.state = .inSafe ∧ b.pin.isSome = true ∧ c = .pinned) ∨
     (b.kind = .consignment ∧ b.state = .inSafe ∧ b.pin = none ∧ seen ∧ c = .malformed))

/-- The first seal fails, or the check goes on behind it. -/
theorem pinCheck_cons (s : State) (earlier : List Nat) (n : Nat) (rest : List Nat) :
    (Pinnable s n ∧ n ∉ earlier ∧ pinCheck s earlier (n :: rest) = pinCheck s (n :: earlier) rest) ∨
    ∃ c, PinFails s (n ∈ earlier) n c ∧ ¬(Pinnable s n ∧ n ∉ earlier) ∧ pinCheck s earlier (n :: rest) = some (c, n) := by
  rw [pinCheck]
  cases hfind : findBag s n with
  | none =>
    refine .inr ⟨.unknownBag, .inl ⟨hfind, rfl⟩, fun ⟨⟨b, hb, _⟩, _⟩ => ?_, rfl⟩
    rw [hfind] at hb
    cases hb
  | some b =>
    have hfails {c : Code} (hnot : ¬(b.kind = .consignment ∧ b.state = .inSafe ∧ b.pin = none ∧ n ∉ earlier))
        (h : (¬(b.kind = .consignment ∧ b.state = .inSafe) ∧ c = .wrongBagState) ∨
          (b.kind = .consignment ∧ b.state = .inSafe ∧ b.pin.isSome = true ∧ c = .pinned) ∨
          (b.kind = .consignment ∧ b.state = .inSafe ∧ b.pin = none ∧ n ∈ earlier ∧ c = .malformed)) :
        ∃ c', PinFails s (n ∈ earlier) n c' ∧ ¬(Pinnable s n ∧ n ∉ earlier) ∧ some (c, n) = some (c', n) := by
      refine ⟨c, .inr ⟨b, hfind, h⟩, fun ⟨⟨b', hb', hk, hs, hp⟩, he⟩ => hnot ?_, rfl⟩
      rw [hfind] at hb'
      cases hb'
      exact ⟨hk, hs, hp, he⟩
    dsimp only
    split
    · next h => exact .inr (hfails (fun ⟨hk, hs, _⟩ => h ⟨hk, hs⟩) (.inl ⟨h, rfl⟩))
    · next h =>
      obtain ⟨hk, hs⟩ := not_not.mp h
      split
      · next hp => exact .inr (hfails (fun ⟨_, _, hn, _⟩ => by rw [hn] at hp; cases hp) (.inr (.inl ⟨hk, hs, hp, rfl⟩)))
      · next hp =>
        have hp : b.pin = none := by simpa using hp
        split
        · next he =>
          have he : n ∈ earlier := by simpa using he
          exact .inr (hfails (fun ⟨_, _, _, hn⟩ => hn he) (.inr (.inr ⟨hk, hs, hp, he, rfl⟩)))
        · next he => exact .inl ⟨⟨b, hfind, hk, hs, hp⟩, by simpa using he, rfl⟩

theorem pinCheck_none : pinCheck s earlier seals = none ↔ (seals.Nodup ∧ ∀ n ∈ seals, n ∉ earlier) ∧ ∀ n ∈ seals, Pinnable s n := by
  induction seals generalizing earlier with
  | nil => simp [pinCheck]
  | cons n rest ih =>
    rcases pinCheck_cons s earlier n rest with ⟨hp, he, heq⟩ | ⟨c, -, hnot, heq⟩ <;> rw [heq]
    · rw [ih]
      simp only [List.nodup_cons, List.mem_cons, not_or, forall_eq_or_imp]
      constructor
      · rintro ⟨⟨hn, hearlier⟩, hrest⟩
        exact ⟨⟨⟨fun h => (hearlier n h).1 rfl, hn⟩, he, fun m hm => (hearlier m hm).2⟩, hp, hrest⟩
      · rintro ⟨⟨⟨hnot, hn⟩, -, hearlier⟩, -, hrest⟩
        exact ⟨⟨hn, fun m hm => ⟨fun h => hnot (h ▸ hm), hearlier m hm⟩⟩, hrest⟩
    · simp only [reduceCtorEq, false_iff]
      rintro ⟨⟨-, hearlier⟩, hall⟩
      exact hnot ⟨hall n List.mem_cons_self, hearlier n List.mem_cons_self⟩

theorem pinCheck_some (h : pinCheck s earlier seals = some (c, n)) : ∃ before after, seals = before ++ n :: after ∧
    pinCheck s earlier before = none ∧ PinFails s (n ∈ earlier ∨ n ∈ before) n c := by
  induction seals generalizing earlier with
  | nil => cases h
  | cons m rest ih =>
    rcases pinCheck_cons s earlier m rest with ⟨hp, he, heq⟩ | ⟨c', hfails, -, heq⟩ <;> rw [heq] at h
    · obtain ⟨before, after, rfl, hbefore, hfails⟩ := ih h
      refine ⟨m :: before, after, rfl, ?_, ?_⟩
      · rcases pinCheck_cons s earlier m before with ⟨-, -, heq'⟩ | ⟨-, -, hnot, -⟩
        · rw [heq', hbefore]
        · exact absurd ⟨hp, he⟩ hnot
      · have hseen : (n ∈ m :: earlier ∨ n ∈ before) = (n ∈ earlier ∨ n ∈ m :: before) := by
          rw [List.mem_cons, List.mem_cons]
          exact propext ⟨by tauto, by tauto⟩
        rwa [hseen] at hfails
    · cases h
      refine ⟨[], rest, rfl, rfl, ?_⟩
      simpa using hfails

theorem pinCheck_congr (h : t.bags = s.bags) (earlier seals : List Nat) : pinCheck t earlier seals = pinCheck s earlier seals := by
  induction seals generalizing earlier with
  | nil => rfl
  | cons n rest ih => simp only [pinCheck, findBag_congr h, ih]

/-! ## CONSIGN_HAND (R121) -/

theorem runConsignHand_eq {i : Fin 16} {more : List Byte} (howner : s.ring[i].owner = .office) (hwindow : s.day.clock ≤ s.ring[i].windowEnd) :
    runConsignHand (be 1 i.val ++ more) s =
      (pinCheck s [] s.ring[i].outbound).elim (handSlot i s, Result.of .accepted none) fun x => (s, Result.of x.1 (num x.2)) := by
  unfold runConsignHand
  rw [takeNat_be (by omega)]
  dsimp only
  rw [inRange_val]
  dsimp only
  rw [if_neg (by rw [howner]; decide), if_neg (by omega)]
  cases pinCheck s [] s.ring[i].outbound <;> rfl

/-- The conditions of a close do not read a pin. -/
theorem closeInputs_pinBags (i : Fin 16) (seals : List Nat) (s : State) : closeInputs (pinBags i seals s) = closeInputs s := by
  have hbags : ((pinBags i seals s).bags.filter Bag.holdsClose).map (fun b => b.sealNo) = (s.bags.filter Bag.holdsClose).map fun b => b.sealNo := by
    show ((s.bags.map _).filter Bag.holdsClose).map _ = _
    rw [List.filter_map, List.map_map]
    have hholds : (Bag.holdsClose ∘ fun b : Bag => if seals.contains b.sealNo then { b with pin := some i } else b) = Bag.holdsClose := by
      funext b
      dsimp only [Function.comp]
      split <;> rfl
    rw [hholds]
    refine List.map_congr_left fun b _ => ?_
    dsimp only [Function.comp]
    split <;> rfl
  unfold closeInputs
  rw [hbags]
  rfl

theorem findBag_handSlot (i : Fin 16) (s : State) :
    findBag (handSlot i s) n = (findBag s n).map fun b => if s.ring[i].outbound.contains b.sealNo then { b with pin := some i } else b :=
  findBag_map (fun b => by split <;> rfl) n

theorem consignHand_passes {tag : Word16} {i : Fin 16} {more : List Byte} (h : RequestAtHead s tag 0x38 (be 1 i.val ++ more))
    (howner : s.ring[i].owner = .office) (hwindow : s.day.clock ≤ s.ring[i].windowEnd) (hpins : pinCheck s [] s.ring[i].outbound = none) :
    Yields .consignHand s fun u =>
      (∀ n b, findBag s n = some b → findBag u n = some { b with pin := if n ∈ s.ring[i].outbound then some i else b.pin }) ∧
      Replied s u tag 0x38 .accepted [] := by
  have hpinsPop : pinCheck (popRequest s) [] (popRequest s).ring[i].outbound = none := (pinCheck_congr (s := s) (t := popRequest s) rfl _ _).trans hpins
  have hpop := popRequest_leaves s
  have hhand := handSlot_leaves i (popRequest s)
  have hboth := unchangedBut_trans hpop hhand
  have hinputs : closeInputs (handSlot i (popRequest s)) = closeInputs s := closeInputs_pinBags i _ s
  obtain ⟨u, d, hu, hleaves, -, -, -, -, htrunk⟩ := request_answered (run := runConsignHand) (s' := handSlot i (popRequest s)) (r := Result.of .accepted none)
    (variant := anyForm) h rfl ((runConsignHand_eq (s := popRequest s) howner hwindow).trans (congrArg (Option.elim · _ _) hpinsPop))
    hhand (by decide) (fun hd _ => ⟨by rwa [hboth .day (by decide)] at hd, hinputs.symm⟩)
  refine ⟨u, hu, fun n b hb => ?_, by rw [htrunk], d, by rw [htrunk]; rfl⟩
  obtain rfl : b.sealNo = n := (findBag_some hb).2
  rw [findBag_of_leaves hleaves, findBag_handSlot, show findBag (popRequest s) b.sealNo = _ from hb]
  show some (if s.ring[i].outbound.contains b.sealNo then _ else _) = _
  by_cases hn : b.sealNo ∈ s.ring[i].outbound
  · rw [if_pos hn, if_pos (List.contains_iff_mem.mpr hn)]
  · rw [if_neg hn, if_neg (fun h => hn (List.contains_iff_mem.mp h))]

theorem consignHand_fails {tag : Word16} {i : Fin 16} {more : List Byte} (h : RequestAtHead s tag 0x38 (be 1 i.val ++ more))
    (howner : s.ring[i].owner = .office) (hwindow : s.day.clock ≤ s.ring[i].windowEnd) (hpins : pinCheck s [] s.ring[i].outbound = some (c, n)) :
    Yields .consignHand s fun u => u.bags = s.bags ∧ u.ring = s.ring ∧ RepliedDetail s u tag 0x38 c n [] := by
  have hpinsPop : pinCheck (popRequest s) [] (popRequest s).ring[i].outbound = some (c, n) := (pinCheck_congr (s := s) (t := popRequest s) rfl _ _).trans hpins
  obtain ⟨u, hu, hleaves, -, d, hd, htrunk⟩ := refused_of_run (c := .consignHand) (run := runConsignHand) (variant := anyForm) (result := c) (detail := some n)
    (fun _ => rfl) h rfl
    ((runConsignHand_eq (s := popRequest s) howner hwindow).trans (congrArg (Option.elim · _ _) hpinsPop))
  refine ⟨u, hu, hleaves .bags (by decide), hleaves .ring (by decide), by rw [htrunk], ?_⟩
  rw [htrunk, hd n rfl]

/-! ## A pinned record through a run (R33) -/

section
variable {call : Handover} {π : Option (Fin 16)}

/-- A consignment IN_SAFE. -/
def InSafeBag (b : Bag) : Prop := b.kind = .consignment ∧ b.state = .inSafe

/-- A consignment IN_SAFE that has the pin, or has lost it by the return of its slot. -/
def PinnedBag (π : Option (Fin 16)) (b : Bag) : Prop := InSafeBag b ∧ (b.pin = π ∨ b.pin = none)

/-- A consignment on its way to the courier, its pin kept (R29). -/
def AfootBag (π : Option (Fin 16)) (b : Bag) : Prop := b.kind = .consignment ∧ b.state = .inHandling ∧ b.pin = π

theorem RowMove.inSafeBag (hw : ¬A .withdrawal) (h : RowMove A call b b') (hb : InSafeBag b) : InSafeBag b' := by
  obtain ⟨hkind, hstate⟩ := hb
  cases h with
  | entered | reentered => exact ⟨hkind, rfl⟩
  | withdrawn _ ha => exact absurd ha hw
  | pinned | unpinned | flagged => exact ⟨hkind, hstate⟩
  | aborted _ _ _ hs => rcases hs with hs | hs <;> rw [hstate] at hs <;> cases hs
  | opened _ _ _ _ hs | resumed _ _ _ _ hs | suspended _ _ hs | closed _ _ _ _ _ _ _ hs | loaded _ _ hs | released _ hs | delivered _ _ _ hs
  | restocked _ _ _ hs | signed _ _ hs | held _ _ hs | returned _ _ hs => rw [hstate] at hs; cases hs

theorem RowMove.pinnedBag (hw : ¬A .withdrawal) (hh : ¬A .handing) (h : RowMove A call b b') (hb : PinnedBag π b) : PinnedBag π b' := by
  refine ⟨h.inSafeBag hw hb.1, ?_⟩
  obtain ⟨⟨-, hstate⟩, hpin⟩ := hb
  cases h with
  | withdrawn _ ha => exact absurd ha hw
  | pinned _ ha => exact absurd ha hh
  | reentered | released | returned | unpinned => exact .inr rfl
  | _ => exact hpin

theorem RowMove.afootBag (hw : ¬A .withdrawal) (hh : ¬A .handing) (hl : ¬A .loading) (ha : ¬A .aborting) (h : RowMove A call b b')
    (hb : AfootBag π b ∨ PinnedBag π b) : AfootBag π b' ∨ PinnedBag π b' := by
  rcases hb with ⟨hkind, hstate, hpin⟩ | hb
  · cases h with
    | entered => exact .inr ⟨⟨hkind, rfl⟩, .inl hpin⟩
    | withdrawn _ h => exact absurd h hw
    | pinned _ h => exact absurd h hh
    | loaded _ h => exact absurd h hl
    | returned _ h | flagged h => exact absurd h ha
    | unpinned _ hs => rcases hs with hs | hs <;> rw [hstate] at hs <;> cases hs
    | aborted _ _ _ hs => rcases hs with hs | hs <;> rw [hstate] at hs <;> cases hs
    | opened _ _ _ _ hs | resumed _ _ _ _ hs | suspended _ _ hs | closed _ _ _ _ _ _ _ hs | released _ hs | delivered _ _ _ hs
    | restocked _ _ _ hs | signed _ _ hs | held _ _ hs | reentered _ _ hs => rw [hstate] at hs; cases hs
  · exact .inr (h.pinnedBag hw hh hb)

/-- What stands under a seal. -/
def Stands (n : Nat) (P : Bag → Prop) (s : State) : Prop := SealsDistinct s ∧ ∃ b, findBag s n = some b ∧ P b

theorem Stands.mono {P Q : Bag → Prop} (h : Stands n P s) (hPQ : ∀ b, P b → Q b) : Stands n Q s :=
  ⟨h.1, h.2.imp fun _ hb => ⟨hb.1, hPQ _ hb.2⟩⟩

theorem Stands.of_leaves {P : Bag → Prop} {ex : List Part} (h : Stands n P s) (hl : unchangedBut ex s t) (hex : .bags ∉ ex := by decide) : Stands n P t := by
  refine ⟨?_, ?_⟩
  · rw [SealsDistinct, hl .bags hex]
    exact h.1
  · simp only [findBag_of_leaves hl hex]
    exact h.2

/-- What every change of one record keeps, and no terminal record has, stands behind a run. -/
theorem Moves.stands {P : Bag → Prop} (hrow : ∀ {call b b'}, RowMove (rowsOf A) call b b' → P b → P b') (hterminal : ∀ b, P b → b.state.terminal = false)
    (h : Moves A s t) (hs : Stands n P s) : Stands n P t := by
  refine Moves.keeps (P := Stands n P) (fun {s t} hmove ⟨hd, b, hb, hP⟩ => ⟨hmove.sealsDistinct hd, ?_⟩) h hs
  have hreg := hmove.register
  have hrows {call b'} (h : RowMoves (rowsOf A) call b b') : P b' := by
    induction h with
    | refl => exact hP
    | tail _ hlast ih => exact hrow hlast ih
  obtain ⟨hmem, hseal⟩ := findBag_some hb
  have hdt := hmove.sealsDistinct hd
  have hfound {c : Bag} (hc : c ∈ t.bags) (hcseal : c.sealNo = n) (hPc : P c) : ∃ b, findBag t n = some b ∧ P b :=
    ⟨c, (findBag_iff hdt).mpr ⟨hc, hcseal⟩, hPc⟩
  revert hfound
  generalize t.bags = bags at hreg
  intro hfound
  cases hreg with
  | mapped f hf hmoves => exact hfound (List.mem_map.mpr ⟨b, hmem, rfl⟩) ((hf b hmem).trans hseal) (hrows (hmoves hd b hmem))
  | added c _ _ => exact hfound (List.mem_append_left _ hmem) hseal hP
  | purged => exact hfound (List.mem_filter.mpr ⟨hmem, by simp [hterminal b hP]⟩) hseal hP

theorem inSafeBag_stays (hw : ¬A .withdrawal) (h : Moves A s t) (hs : Stands n InSafeBag s) : Stands n InSafeBag t :=
  h.stands (fun h => h.inSafeBag fun hx => hw (hx.resolve_right (by simp))) (fun b hb => by rw [hb.2]; rfl) hs

theorem pinnedBag_stays (hw : ¬A .withdrawal) (hh : ¬A .handing) (h : Moves A s t) (hs : Stands n (PinnedBag π) s) : Stands n (PinnedBag π) t :=
  h.stands (fun h => h.pinnedBag (fun hx => hw (hx.resolve_right (by simp))) fun hx => hh (hx.resolve_right (by simp)))
    (fun b hb => by rw [hb.1.2]; rfl) hs

theorem afootBag_stays (hw : ¬A .withdrawal) (hh : ¬A .handing) (hl : ¬A .loading) (ha : ¬A .aborting) (h : Moves A s t)
    (hs : Stands n (fun b => AfootBag π b ∨ PinnedBag π b) s) : Stands n (fun b => AfootBag π b ∨ PinnedBag π b) t :=
  h.stands (fun h => h.afootBag (fun hx => hw (hx.resolve_right (by simp))) (fun hx => hh (hx.resolve_right (by simp)))
    (fun hx => hl (hx.resolve_right (by simp))) fun hx => ha (hx.resolve_right (by simp)))
    (fun b hb => by rcases hb with hb | hb; · rw [hb.2.1]; rfl
                    · rw [hb.1.2]; rfl) hs

end

/-! ## The frames that move it (R29, R129) -/

section
variable {π : Option (Fin 16)} {f : Taken}

/-- The row of a record behind a WITHDRAW: withdrawn under the frame's seal, or as it was. -/
theorem withdrawJob_row (f : Taken) (hb : findBag s n = some b) : findBag (withdrawJob f s).1 n = some b ∨
    ∃ b', moveWithdraw s.call s.seconds b = .ok b' ∧ findBag (withdrawJob f s).1 n = some b' := by
  have hrule (m : Nat) (node : Byte) : findBag (withdrawRule m node s).1 n = some b ∨
      ∃ b', moveWithdraw s.call s.seconds b = .ok b' ∧ findBag (withdrawRule m node s).1 n = some b' := by
    unfold withdrawRule
    split; · exact .inl hb
    split; · exact .inl hb
    split; · exact .inl hb
    next c hc =>
    split; · exact .inl hb
    next c' hmove =>
    have hseal : c'.sealNo = c.sealNo := (RowMove.withdrawn (A := anyPassage) _ trivial hmove).keeps.1
    have hrow : findBag (recordOp .withdraw m node c'.state c'.state.code (leaveSafe m (changeBag m (fun _ => c') s))) n =
        if n = m then some c' else findBag s n := (findBag_congr rfl n).trans (findBag_moved hc hseal)
    dsimp only
    rw [hrow]
    split
    · next h =>
      subst h
      rw [hb] at hc
      cases hc
      exact .inr ⟨c', hmove, rfl⟩
    · exact .inl hb
  unfold withdrawJob sealJob
  split
  · exact .inl hb
  · exact hrule _ _

/-- A withdrawal of a consignment: with the pin of the slot in session into IN_HANDLING, without a pin into MADE_UP (R29). -/
theorem withdrawn_consignment {call : Handover} {now : Nat} (hkind : b.kind = .consignment) (h : moveWithdraw call now b = .ok b') :
    (AfootBag b.pin b' ∧ b.pin.isSome = true) ∨ b.pin = none ∧ b'.kind = .consignment ∧ b'.state = .madeUp ∧ b'.pin = none := by
  obtain ⟨-, ⟨hcounted, -⟩ | ⟨-, hpin, rfl⟩ | ⟨-, i, hpin, -, rfl⟩⟩ := withdraw_ok h
  · rw [hkind] at hcounted
    cases hcounted
  · exact .inr ⟨hpin hkind, hkind, rfl, hpin hkind⟩
  · exact .inl ⟨⟨hkind, rfl, rfl⟩, by rw [hpin]; rfl⟩

/-- A consignment made up again, without a pin. -/
def MadeUpBag (b : Bag) : Prop := b.kind = .consignment ∧ b.state = .madeUp ∧ b.pin = none

/-- What a frame leaves of a pinned consignment IN_SAFE; made up again where the pin may have been lost before. -/
def MovedBag (π : Option (Fin 16)) (lost : Prop) (b : Bag) : Prop := PinnedBag π b ∨ AfootBag π b ∨ lost ∧ MadeUpBag b

/-- Every passage but those that take a record from the safe or the hatch, or pin it. -/
def restful : Passage → Prop := fun x => x ≠ .withdrawal ∧ x ≠ .handing ∧ x ≠ .loading ∧ x ≠ .aborting

theorem takeFrame_bags (f : Taken) (s : State) : (takeFrame f s).bags = if opaqueKind f.frame.kind then s.bags else (decideFrame f s).1.bags := by
  unfold takeFrame
  split
  · rfl
  · exact unchangedBut_trans (fillAnswer_leaves f _ _) (fillEnvelope_leaves f _ _) .bags (by cases f.port <;> decide)

/-- A frame that is no WITHDRAW takes no record out of the safe. -/
theorem decideFrame_restful (hwithdraw : inspectForm f s ≠ .ok .withdraw) (hload : inspectForm f s ≠ .ok .load) : Moves restful s (decideFrame f s).1 :=
  decideFrame_moves ⟨by simp [restful], by simp [restful], fun h => absurd h hload, fun h => absurd h hwithdraw, fun _ _ _ _ _ => by simp [restful]⟩

theorem decideFrame_inSafe (hwithdraw : inspectForm f s ≠ .ok .withdraw) :
    Moves (fun x => x ≠ .withdrawal ∧ x ≠ .handing) s (decideFrame f s).1 :=
  decideFrame_moves ⟨by simp, by simp, fun _ => by simp, fun h => absurd h hwithdraw, fun _ _ _ _ _ => by simp⟩

theorem decideFrame_withdraw (h : inspectForm f s = .ok .withdraw) : (decideFrame f s).1 = (withdrawJob f s).1 := by
  unfold decideFrame
  rw [h]
  rfl

theorem decideFrame_load (h : inspectForm f s = .ok .load) : (decideFrame f s).1 = (loadJob f s).1 := by
  unfold decideFrame
  rw [h]
  rfl

theorem decideFrame_pinned {lost : Prop} (hs : Stands n (fun b => PinnedBag π b ∧ (b.pin = none → lost)) s) :
    Stands n (MovedBag π lost) (decideFrame f s).1 := by
  by_cases hwithdraw : inspectForm f s = .ok .withdraw
  · rw [decideFrame_withdraw hwithdraw]
    obtain ⟨hd, b, hb, ⟨⟨hkind, hstate⟩, hpin⟩, hlost⟩ := hs
    refine ⟨(withdrawJob_moves (A := anyPassage) trivial f s).keeps Move.sealsDistinct hd, ?_⟩
    rcases withdrawJob_row f hb with h | ⟨b', hmove, h⟩
    · exact ⟨b, h, .inl ⟨⟨hkind, hstate⟩, hpin⟩⟩
    · refine ⟨b', h, .inr ?_⟩
      rcases withdrawn_consignment hkind hmove with ⟨hafoot, hsome⟩ | ⟨hnone, hmade⟩
      · rcases hpin with hpin | hpin
        · exact .inl (hpin ▸ hafoot)
        · rw [hpin] at hsome
          cases hsome
      · exact .inr ⟨hlost hnone, hmade⟩
  · exact (pinnedBag_stays (by simp) (by simp) (decideFrame_inSafe hwithdraw) (hs.mono fun _ h => h.1)).mono fun b hb => .inl hb

/-- Taking a frame leaves the register, the ring and the call as deciding it did, or, where the frame is opaque, as they were. -/
theorem takeFrame_decided (f : Taken) (s : State) : ∃ ex, unchangedBut ex (if opaqueKind f.frame.kind then s else (decideFrame f s).1) (takeFrame f s) ∧
    ∀ b ∈ [Part.bags, .ring, .call], b ∉ ex := by
  unfold takeFrame
  split
  · exact ⟨_, fillEnvelope_leaves f _ s, by decide⟩
  · exact ⟨_, unchangedBut_trans (fillAnswer_leaves f _ _) (fillEnvelope_leaves f _ _), by cases f.port <;> decide⟩

theorem takeFrame_stands {P Q : Bag → Prop} (hPQ : ∀ b, P b → Q b) (hs : Stands n P s) (hd : Stands n Q (decideFrame f s).1) : Stands n Q (takeFrame f s) := by
  obtain ⟨ex, hleaves, hex⟩ := takeFrame_decided f s
  refine Stands.of_leaves ?_ hleaves (hex _ (by decide))
  split
  · exact hs.mono hPQ
  · exact hd

theorem takeFrame_pinned {lost : Prop} (hs : Stands n (fun b => PinnedBag π b ∧ (b.pin = none → lost)) s) : Stands n (MovedBag π lost) (takeFrame f s) :=
  takeFrame_stands (fun _ h => .inl h.1) hs (decideFrame_pinned hs)

/-! ## Every command but RESTART -/

/-- What a command but RESTART leaves of a pinned consignment. -/
def KeptBag (π : Option (Fin 16)) (b : Bag) : Prop := InSafeBag b ∨ AfootBag π b

theorem keptBag_stays (hw : ¬A .withdrawal) (hh : ¬A .handing) (hl : ¬A .loading) (ha : ¬A .aborting) (h : Moves A s t) (hs : Stands n (KeptBag π) s) :
    Stands n (KeptBag π) t :=
  h.stands (fun hrow hb => by
      rcases hb with hb | hb
      · exact .inl (hrow.inSafeBag (fun hx => hw (hx.resolve_right (by simp))) hb)
      · exact (hrow.afootBag (fun hx => hw (hx.resolve_right (by simp))) (fun hx => hh (hx.resolve_right (by simp)))
          (fun hx => hl (hx.resolve_right (by simp))) (fun hx => ha (hx.resolve_right (by simp))) (.inl hb)).elim .inr fun h => .inl h.1)
    (fun b hb => by
      rcases hb with hb | hb
      · rw [hb.2]
        rfl
      · rw [hb.2.1]
        rfl) hs

theorem taking_kept {c : Instr} {g : State → State} (hπ : π.isSome = true) (h : Taking s c g)
    (hs : Stands n (fun b => InSafeBag b ∧ b.pin = π) s) : Stands n (KeptBag π) (g s) := by
  have hframe {f : Taken} {ex : List Part} {u : State} (hu : unchangedBut ex s u) (hex : .bags ∉ ex) : Stands n (KeptBag π) (takeFrame f u) := by
    refine (takeFrame_pinned (lost := False) ((hs.of_leaves hu hex).mono fun b hb => ⟨⟨hb.1, .inl hb.2⟩, fun hnone => ?_⟩)).mono fun b hb => ?_
    · rw [← hb.2, hnone] at hπ
      cases hπ
    · exact hb.elim (fun h => .inl h.1) fun h => h.elim .inr fun h => h.1.elim
  have hmoves {u : State} (h : Moves (fun x => x ≠ .withdrawal) s u) : Stands n (KeptBag π) u :=
    (inSafeBag_stays (by simp) h (hs.mono fun _ h => h.1)).mono fun _ => .inl
  cases h with
  | line h =>
    rcases lineWork_taken h with hquiet | ⟨w, u, -, hu, -, heq⟩
    · exact (hs.mono fun _ h => .inl h.1).of_leaves hquiet.leaves
    · rw [heq]
      exact hframe hu.leaves (by decide)
  | frame p w hw => exact hframe (setRx_leaves p .idle s) (by cases p <;> decide)
  | placed => exact hmoves (placeSafeCommand_moves s)
  | expiry h => exact hmoves (expiry_moves (by simp) h)
  | trunk h => exact hmoves (trunkWork_moves (by simp) h)
  | request tag fields rest h => exact hmoves (answered_moves (by simp) tag _ fields s (run_moves h (fun _ => by simp) fields _))

theorem exec_kept {c : Instr} (hpower : c ≠ .powerOn) (hrestart : c ≠ .restart) (hπ : π.isSome = true) (h : exec c s = .next t)
    (hs : Stands n (fun b => InSafeBag b ∧ b.pin = π) s) : Stands n (KeptBag π) t := by
  rcases exec_cases h with rfl | ⟨g, htaking, rfl⟩ | ⟨rfl, -⟩ | ⟨rfl, -⟩
  · exact hs.mono fun _ h => .inl h.1
  · exact keptBag_stays (A := fun x => x = .trunk) (by simp) (by simp) (by simp) (by simp) (settle_moves (A := fun x => x = .trunk) rfl s _) (taking_kept hπ htaking hs)
  · exact absurd rfl hrestart
  · exact absurd rfl hpower

/-! ## RESTART (R195) -/

/-- A consignment in the hatch for the slot in session. -/
def LoadedIn (π : Option (Fin 16)) (n : Nat) (s : State) : Prop :=
  (∃ b, findBag s n = some b ∧ b.kind = .consignment ∧ b.state = .loaded ∧ b.pin = π) ∧ ∃ i, s.activeSlot = some i ∧ n ∈ s.ring[i].outbound

theorem loadedIn_congr {ex : List Part} (h : LoadedIn π n s) (hl : unchangedBut ex s t) (hex : ∀ b ∈ [Part.bags, .ring, .call], b ∉ ex) : LoadedIn π n t := by
  obtain ⟨⟨b, hb, hkept⟩, i, hi, hmem⟩ := h
  refine ⟨⟨b, (findBag_of_leaves hl (hex _ (by decide))).trans hb, hkept⟩, i, ?_, ?_⟩
  · rw [State.activeSlot, hl .call (hex _ (by decide))]
    exact hi
  · rw [hl .ring (hex _ (by decide))]
    exact hmem

/-- The row of a record IN_HANDLING behind a LOAD: loaded on the list of the slot in session, or as it was (R129). -/
theorem loadJob_row (f : Taken) (hb : findBag s n = some b) : findBag (loadJob f s).1 n = some b ∨
    ∃ b' i, moveLoad s.seconds b = .ok b' ∧ findBag (loadJob f s).1 n = some b' ∧ (loadJob f s).1.activeSlot = some i ∧
      n ∈ (loadJob f s).1.ring[i].outbound := by
  have hrule (m : Nat) : findBag (loadRule m s).1 n = some b ∨
      ∃ b' i, moveLoad s.seconds b = .ok b' ∧ findBag (loadRule m s).1 n = some b' ∧ (loadRule m s).1.activeSlot = some i ∧
        n ∈ (loadRule m s).1.ring[i].outbound := by
    unfold loadRule
    split; · exact .inl hb
    next i hi =>
    split; · exact .inl hb
    next hmem =>
    split; · exact .inl hb
    rcases transition_spec m (moveLoad s.seconds) s with ⟨-, ht⟩ | ⟨c, e, -, -, ht⟩ | ⟨c, c', hc, hmove, ht⟩ <;> rw [ht]
    · exact .inl hb
    · exact .inl hb
    · have hseal : c'.sealNo = c.sealNo := by
        obtain ⟨-, rfl⟩ := load_ok hmove
        rfl
      have hafter := afterLoad_leaves i (changeBag m (fun _ => c') s)
      have hrow : findBag (afterLoad i (changeBag m (fun _ => c') s)) n = if n = m then some c' else findBag s n :=
        (findBag_of_leaves hafter).trans (findBag_moved hc hseal)
      have hactive : (afterLoad i (changeBag m (fun _ => c') s)).activeSlot = some i := by
        unfold afterLoad
        split
        · rfl
        · exact hi
      dsimp only
      rw [hrow]
      split
      · next h =>
        subst h
        rw [hb] at hc
        cases hc
        have hring : ∀ ring, ring = s.ring → n ∈ ring[i].outbound := by
          rintro _ rfl
          simpa using hmem
        exact .inr ⟨c', i, hmove, rfl, hactive, hring _ (hafter .ring (by decide))⟩
      · exact .inl hb
  unfold loadJob
  split
  · exact .inl hb
  · exact hrule _

/-- What a frame leaves of a pinned consignment on its way to the courier. -/
theorem decideFrame_afoot (hs : Stands n (AfootBag π) s) :
    Stands n (fun b => AfootBag π b ∨ PinnedBag π b) (decideFrame f s).1 ∨ LoadedIn π n (decideFrame f s).1 := by
  obtain ⟨hd, b, hb, hkind, hstate, hpin⟩ := hs
  by_cases hwithdraw : inspectForm f s = .ok .withdraw
  · rw [decideFrame_withdraw hwithdraw]
    refine .inl ⟨(withdrawJob_moves (A := anyPassage) trivial f s).keeps Move.sealsDistinct hd, ?_⟩
    rcases withdrawJob_row f hb with h | ⟨b', hmove, -⟩
    · exact ⟨b, h, .inl ⟨hkind, hstate, hpin⟩⟩
    · have hsafe := (withdraw_ok hmove).1
      rw [hstate] at hsafe
      cases hsafe
  · by_cases hload : inspectForm f s = .ok .load
    · rw [decideFrame_load hload]
      rcases loadJob_row f hb with h | ⟨b', i, hmove, h, hi, hmem⟩
      · exact .inl ⟨(loadJob_moves (A := anyPassage) trivial f s).keeps Move.sealsDistinct hd, b, h, .inl ⟨hkind, hstate, hpin⟩⟩
      · obtain ⟨-, rfl⟩ := load_ok hmove
        exact .inr ⟨⟨_, h, hkind, rfl, hpin⟩, i, hi, hmem⟩
    · exact .inl (afootBag_stays (by simp [restful]) (by simp [restful]) (by simp [restful]) (by simp [restful]) (decideFrame_restful hwithdraw hload)
        ⟨hd, b, hb, .inl ⟨hkind, hstate, hpin⟩⟩)

theorem takeFrame_afoot (hs : Stands n (AfootBag π) s) : Stands n (fun b => AfootBag π b ∨ PinnedBag π b) (takeFrame f s) ∨ LoadedIn π n (takeFrame f s) := by
  rcases decideFrame_afoot (f := f) hs with hd | hd
  · exact .inl (takeFrame_stands (fun _ => .inl) hs hd)
  · obtain ⟨ex, hleaves, hex⟩ := takeFrame_decided f s
    split at hleaves
    · exact .inl ((hs.mono fun _ => .inl).of_leaves hleaves (hex _ (by decide)))
    · exact .inr (loadedIn_congr hd hleaves hex)

/-- The two frames that RESTART takes, from a pinned consignment IN_SAFE (R166, R195). -/
theorem takeMarkedWindows_pinned (hπ : π.isSome = true) (hs : Stands n (fun b => InSafeBag b ∧ b.pin = π) s) :
    Stands n (MovedBag π True) (takeMarkedWindows s) ∨ LoadedIn π n (takeMarkedWindows s) := by
  obtain ⟨p, q, u, -, hu, heq⟩ := takeMarkedWindows_eq s
  have hwindow {r : Port} {v : State} {P Q : Bag → Prop} (hv : Stands n P v) (hPQ : ∀ b, P b → Q b)
      (htake : ∀ f v', Stands n P v' → Stands n Q (takeFrame f v') ∨ LoadedIn π n (takeFrame f v')) :
      Stands n Q (takeMarkedWindow r v) ∨ LoadedIn π n (takeMarkedWindow r v) := by
    unfold takeMarkedWindow
    split
    · exact htake _ _ (hv.of_leaves (setRx_leaves r .waitIdle v) (by cases r <;> decide))
    · exact .inl (hv.mono hPQ)
  have hexact {b : Bag} (hb : InSafeBag b ∧ b.pin = π) : PinnedBag π b ∧ (b.pin = none → False) :=
    ⟨⟨hb.1, .inl hb.2⟩, fun hnone => by rw [← hb.2, hnone] at hπ; cases hπ⟩
  have hfirst : Stands n (MovedBag π False) (takeMarkedWindow p u) := by
    unfold takeMarkedWindow
    split
    · exact takeFrame_pinned (((hs.of_leaves hu).of_leaves (setRx_leaves p .waitIdle u) (by cases p <;> decide)).mono fun _ => hexact)
    · exact (hs.of_leaves hu).mono fun _ hb => .inl (hexact hb).1
  rw [heq]
  obtain ⟨hd, b, hb, hmoved⟩ := hfirst
  rcases hmoved with hpinned | hafoot | ⟨hno, -⟩
  · exact hwindow (P := PinnedBag π) ⟨hd, b, hb, hpinned⟩ (fun _ => .inl)
      fun f v' hv => .inl (takeFrame_pinned (hv.mono fun _ h => ⟨h, fun _ => trivial⟩))
  · exact hwindow (P := AfootBag π) ⟨hd, b, hb, hafoot⟩ (fun _ h => .inr (.inl h)) fun f v' hv => (takeFrame_afoot hv).imp
      (fun h => h.mono fun b hb => hb.elim (fun h => .inr (.inl h)) .inl) id
  · exact hno.elim

/-- What RESTART leaves of a pinned consignment (R134). -/
def RestartedBag (π : Option (Fin 16)) (b : Bag) : Prop :=
  b.state = .inSafe ∨ b.state = .inHandling ∧ b.pin = π ∨ b.state = .hatchHeld ∧ b.pin = π ∨ b.state = .madeUp ∧ b.pin = none

theorem restarted_unpinned {seals : List Nat} (h : RestartedBag π b) (hu : Unpinned (flaggedRow seals b) b') : RestartedBag π b' := by
  obtain ⟨-, hstate, hpin⟩ := flaggedRow_keeps seals b
  rcases hu with rfl | ⟨hs, rfl⟩
  · unfold RestartedBag
    rw [hstate, hpin]
    exact h
  · rw [hstate] at hs
    rcases h with h | ⟨h, -⟩ | ⟨h, -⟩ | ⟨h, -⟩ <;> rcases hs with hs | hs <;> rw [h] at hs <;> first | (cases hs; done) | exact .inl (hstate.trans h)

theorem abortHandover_restarted (hs : (∃ b, findBag s n = some b ∧ MovedBag π True b) ∨ LoadedIn π n s) :
    ∃ b, findBag (abortHandover .aborted s) n = some b ∧ RestartedBag π b := by
  have hmoved {b : Bag} (h : MovedBag π True b) : RestartedBag π b := by
    rcases h with h | h | ⟨-, h⟩
    · exact .inl h.1.2
    · exact .inr (.inl h.2)
    · exact .inr (.inr (.inr h.2))
  rcases abortHandover_cases .aborted s with ⟨heq, hnone⟩ | ⟨i, hi, heq⟩ <;> rw [heq]
  · rcases hs with ⟨b, hb, h⟩ | ⟨-, j, hj, -⟩
    · exact ⟨b, hb, hmoved h⟩
    · rw [hnone] at hj
      cases hj
  · have hrow {b : Bag} (hb : findBag s n = some b) (h : RestartedBag π (abortedRow s.ring[i].outbound s.seconds b)) :
        ∃ b, findBag (abortCall i .aborted s) n = some b ∧ RestartedBag π b := by
      obtain ⟨b', hb', hu⟩ := findBag_abortCall (i := i) (r := .aborted) hb
      exact ⟨b', hb', restarted_unpinned h hu⟩
    rcases hs with ⟨b, hb, h⟩ | ⟨⟨b, hb, -, hstate, hpin⟩, j, hj, hmem⟩
    · refine hrow hb ?_
      unfold abortedRow
      split
      · next hl =>
        have hl := prop_of_and hl
        rcases h with h | h | ⟨-, h⟩ <;> [rw [h.1.2] at hl; rw [h.2.1] at hl; rw [h.2.1] at hl] <;> cases hl
      · split
        · exact .inr (.inr (.inr ⟨rfl, rfl⟩))
        · exact hmoved h
    · rw [hi] at hj
      cases hj
      refine hrow hb ?_
      have hseal := (findBag_some hb).2
      unfold abortedRow
      rw [if_pos (Bool.and_eq_true_iff.mpr ⟨List.contains_iff_mem.mpr (hseal ▸ hmem), decide_eq_true hstate⟩)]
      exact .inr (.inr (.inl ⟨rfl, hpin⟩))

theorem restart_pinned (hπ : π.isSome = true) (h : exec .restart s = .next t) (hs : Stands n (fun b => InSafeBag b ∧ b.pin = π) s) :
    ∃ b, findBag t n = some b ∧ RestartedBag π b := by
  rcases restart_takes s with hstay | ⟨tag, fields, rest, -, -, -, htaken⟩
  · rw [hstay] at h
    cases h
    exact hs.2.imp fun _ hb => ⟨hb.1, .inl hb.2.1.2⟩
  · rw [htaken] at h
    obtain rfl := Host.Outcome.next.inj h
    have hwindows := takeMarkedWindows_pinned hπ (hs.of_leaves (popRequest_leaves s))
    generalize hv : takeMarkedWindows (popRequest s) = v at hwindows
    have hports : unchangedBut [.floor, .room] v (restartPort .room (restartPort .floor v)) :=
      unchangedBut_trans (setPort_leaves .floor _ v) (setPort_leaves .room _ _)
    have hsessions := abortSessions_leaves (restartPort .room (restartPort .floor v))
    have hcalls := unchangedBut_trans hports hsessions
    have hbefore : (∃ b, findBag (abortSessions (restartPort .room (restartPort .floor v))) n = some b ∧ MovedBag π True b) ∨
        LoadedIn π n (abortSessions (restartPort .room (restartPort .floor v))) := by
      rcases hwindows with ⟨-, b, hb, hmoved⟩ | ⟨⟨b, hb, hkind, hstate, hpin⟩, i, hi, hmem⟩
      · refine .inl ⟨b, findBag_abortSessions ((findBag_of_leaves hports).trans hb) ?_, hmoved⟩
        rcases hmoved with h | h | ⟨-, h⟩ <;> [rw [h.1.2]; rw [h.2.1]; rw [h.2.1]] <;> decide
      · refine .inr ⟨⟨b, findBag_abortSessions ((findBag_of_leaves hports).trans hb) (by rw [hstate]; decide), hkind, hstate, hpin⟩, i, ?_, ?_⟩
        · rw [State.activeSlot, hcalls .call (by decide)]
          exact hi
        · rw [hcalls .ring (by decide)]
          exact hmem
    obtain ⟨b, hb, hrestarted⟩ := abortHandover_restarted hbefore
    have hterminal : b.state.terminal = false := by
      rcases hrestarted with h | ⟨h, -⟩ | ⟨h, -⟩ | ⟨h, -⟩ <;> rw [h] <;> rfl
    have hanswered : findBag (answered runRestart tag 0x5F fields s) n = some b := by
      unfold answered
      rw [findBag_of_leaves (answerRequest_leaves _ _ _ _ _ _), runRestart_eq, hv]
      exact (findBag_of_leaves (setUplink_leaves _ _)).trans ((findBag_of_leaves (restartLock_leaves _)).trans hb)
    refine ⟨b, ?_, hrestarted⟩
    unfold settleRestart
    rw [findBag_of_leaves (settleEvents_leaves _)]
    exact (findBag_of_leaves (unchangedBut_ite (unchangedBut_refl _ _) (placeWaiting_leaves _))).trans (testReports_find hanswered hterminal)

end

end

/-- Settles O24: the check walks the seals; a record that a pin keeps leaves IN_SAFE by a WITHDRAW alone, since no other change of a record starts there. -/
theorem pinRequestRule : Obligations.PinRequestRule := by
  unfold Obligations.PinRequestRule
  refine fun s seals => ⟨?_, fun c n h => ?_, fun tag i more h howner hwindow hout => ?_, fun c t n b hd hpins h hpower hb hstate hsome => ?_⟩
  · rw [pinCheck_none]
    exact ⟨fun ⟨⟨hn, _⟩, h⟩ => ⟨hn, h⟩, fun ⟨hn, h⟩ => ⟨⟨hn, by simp⟩, h⟩⟩
  · obtain ⟨before, after, hseals, hbefore, hfails⟩ := pinCheck_some h
    exact ⟨before, after, hseals, hbefore, by simpa [PinFails] using hfails⟩
  · subst hout
    exact ⟨consignHand_passes h howner hwindow, fun c n => consignHand_fails h howner hwindow⟩
  · have hkind : b.kind = .consignment := ((hpins b (findBag_some hb).1) hsome).1
    have hs : Stands n (fun c => InSafeBag c ∧ c.pin = b.pin) s := ⟨hd, b, hb, ⟨hkind, hstate⟩, rfl⟩
    by_cases hrestart : c = .restart
    · subst hrestart
      obtain ⟨b', hb', h | h | h⟩ := restart_pinned hsome h hs
      · exact ⟨b', hb', .inl h⟩
      · exact ⟨b', hb', .inr (.inl h)⟩
      · exact ⟨b', hb', .inr (.inr ⟨rfl, h⟩)⟩
    · obtain ⟨-, b', hb', h | h⟩ := exec_kept hpower hrestart hsome h hs
      · exact ⟨b', hb', .inl h.2⟩
      · exact ⟨b', hb', .inr (.inl h.2)⟩

end Sys2Proof.Machine.Effects

/-! PROOF. The witness pair (R174), the receipt mark (R172), and the events with the kept vector (R180, R181, R183). -/

namespace Sys2Proof.Machine.Effects

open Sys2Proof Sys2Proof.Machine Sys2Proof.Machine.Takings Sys2Proof.Machine.TallyCount

section
variable {s : State} {f : Taken} {p : Port}

/-! ## The candidates in ascending order (R174) -/

/-- In strictly ascending order of identity. -/
def Ascending (l : List Byte) : Prop := l.Pairwise fun a b => a.toNat < b.toNat

theorem mem_insertMark {b c : Byte} {l : List Byte} : c ∈ insertMark b l ↔ c = b ∨ c ∈ l := by
  induction l with
  | nil => simp [insertMark]
  | cons d l ih =>
    unfold insertMark
    split
    · next h => simp [h]
    · split
      · simp
      · simp only [List.mem_cons, ih]
        tauto

theorem insertMark_ascending {b : Byte} {l : List Byte} (h : Ascending l) : Ascending (insertMark b l) := by
  induction l with
  | nil => exact List.pairwise_singleton _ _
  | cons d l ih =>
    obtain ⟨hd, hl⟩ := List.pairwise_cons.mp h
    unfold insertMark
    split
    · exact h
    · next hne =>
      split
      · next hlt =>
        refine List.pairwise_cons.mpr ⟨fun c hc => ?_, h⟩
        rcases List.mem_cons.mp hc with rfl | hc
        · exact hlt
        · exact hlt.trans (hd c hc)
      · next hge =>
        refine List.pairwise_cons.mpr ⟨fun c hc => ?_, ih hl⟩
        rcases mem_insertMark.mp hc with rfl | hc
        · have : c.toNat ≠ d.toNat := fun h => hne (BitVec.eq_of_toNat_eq h)
          omega
        · exact hd c hc

theorem insertMarks_spec (marks l : List Byte) (h : Ascending l) :
    Ascending (marks.foldl (fun l b => insertMark b l) l) ∧ ∀ b, b ∈ marks.foldl (fun l b => insertMark b l) l ↔ b ∈ marks ∨ b ∈ l := by
  induction marks generalizing l with
  | nil => exact ⟨h, by simp⟩
  | cons m marks ih =>
    obtain ⟨hascending, hmem⟩ := ih _ (insertMark_ascending (b := m) h)
    refine ⟨hascending, fun b => ?_⟩
    rw [List.foldl_cons, hmem, mem_insertMark, List.mem_cons]
    tauto

theorem candidates_ascending (s : State) (f : Taken) : Ascending (candidates s f) :=
  (insertMarks_spec f.marks [] List.Pairwise.nil).1.sublist List.filter_sublist

theorem mem_candidates {b : Byte} : b ∈ candidates s f ↔ b ∈ f.marks ∧ b ≠ partNode ∧ b ≠ f.frame.src ∧ registeredOn s f.port b = true := by
  unfold candidates
  rw [List.mem_filter, (insertMarks_spec f.marks [] List.Pairwise.nil).2]
  simp [and_assoc]

/-! ## The choice (R174) -/

/-- A candidate that serves in role A with another that serves in role B. -/
def Pairs (s : State) (w : Witness) (f : Taken) (cs : List Byte) (a b : Byte) : Prop :=
  b ∈ cs ∧ a ≠ b ∧ serves s f w.sameTill w.roleA a = true ∧ serves s f w.sameTill w.roleB b = true

theorem choosePair_spec {w : Witness} {cs l : List Byte} (hcs : Ascending cs) (hl : Ascending l) :
    (∀ a b, choosePair s w f cs l = some (a, b) → a ∈ l ∧ Pairs s w f cs a b ∧ (∀ b', Pairs s w f cs a b' → b.toNat ≤ b'.toNat) ∧
      ∀ a' ∈ l, ∀ b', Pairs s w f cs a' b' → a.toNat ≤ a'.toNat) ∧
    (choosePair s w f cs l = none → ∀ a' ∈ l, ∀ b', ¬Pairs s w f cs a' b') := by
  induction l with
  | nil => exact ⟨nofun, nofun⟩
  | cons d l ih =>
    obtain ⟨hd, hl⟩ := List.pairwise_cons.mp hl
    obtain ⟨ihsome, ihnone⟩ := ih hl
    have hskip (hno : ∀ b', ¬Pairs s w f cs d b') :
        (∀ a b, choosePair s w f cs l = some (a, b) → a ∈ d :: l ∧ Pairs s w f cs a b ∧ (∀ b', Pairs s w f cs a b' → b.toNat ≤ b'.toNat) ∧
          ∀ a' ∈ d :: l, ∀ b', Pairs s w f cs a' b' → a.toNat ≤ a'.toNat) ∧
        (choosePair s w f cs l = none → ∀ a' ∈ d :: l, ∀ b', ¬Pairs s w f cs a' b') := by
      refine ⟨fun a b h => ?_, fun h a' ha' => ?_⟩
      · obtain ⟨hmem, hpair, hb, ha⟩ := ihsome a b h
        refine ⟨List.mem_cons_of_mem _ hmem, hpair, hb, fun a' ha' b' hb' => ?_⟩
        rcases List.mem_cons.mp ha' with rfl | ha'
        · exact absurd hb' (hno b')
        · exact ha a' ha' b' hb'
      · rcases List.mem_cons.mp ha' with rfl | ha'
        · exact hno
        · exact ihnone h a' ha'
    unfold choosePair
    split
    · next hserves =>
      split
      · next b hfind =>
        obtain ⟨hb, before, after, hcsEq, hbefore⟩ := List.find?_eq_some_iff_append.mp hfind
        obtain ⟨hne, hservesB⟩ : b ≠ d ∧ serves s f w.sameTill w.roleB b = true := by simpa using hb
        have hpair : Pairs s w f cs d b := ⟨by simp [hcsEq], hne.symm, hserves, hservesB⟩
        refine ⟨fun a c h => ?_, nofun⟩
        cases h
        refine ⟨List.mem_cons_self, hpair, fun b' ⟨hmem, hne', _, hserves'⟩ => ?_, fun a' ha' _ _ => ?_⟩
        · rw [hcsEq] at hmem hcs
          rcases List.mem_append.mp hmem with hmem | hmem
          · have := hbefore b' hmem
            simp [Ne.symm hne', hserves'] at this
          · rcases List.mem_cons.mp hmem with rfl | hmem
            · exact le_rfl
            · exact ((List.pairwise_cons.mp (List.pairwise_append.mp hcs).2.1).1 b' hmem).le
        · rcases List.mem_cons.mp ha' with rfl | ha'
          · exact le_rfl
          · exact (hd a' ha').le
      · next hfind =>
        refine hskip fun b' ⟨hmem, hne, _, hserves'⟩ => ?_
        have := List.find?_eq_none.mp hfind b' hmem
        simp [Ne.symm hne, hserves'] at this
    · next hserves => exact hskip fun b' ⟨_, _, h, _⟩ => hserves h

end

/-- Settles O20: the candidates stand in ascending order, and the walk takes the first of them that has a partner, with its first partner. -/
theorem witnessPairLowest : Obligations.WitnessPairLowest := by
  unfold Obligations.WitnessPairLowest
  intro s w f
  obtain ⟨hsome, hnone⟩ := choosePair_spec (s := s) (w := w) (f := f) (candidates_ascending s f) (candidates_ascending s f)
  refine ⟨fun a b h => ?_, fun h a' ha' b' hb' hne hservesA => ?_, fun b => mem_candidates⟩
  · obtain ⟨ha, ⟨hb, hne, hservesA, hservesB⟩, hlowestB, hlowestA⟩ := hsome a b h
    refine ⟨ha, hb, hne, hservesA, hservesB, fun a' ha' b' hb' hne' hservesA' hservesB' => ?_⟩
    have hpair : Pairs s w f (candidates s f) a' b' := ⟨hb', hne', hservesA', hservesB'⟩
    rcases (hlowestA a' ha' b' hpair).lt_or_eq with hlt | heq
    · exact .inl hlt
    · obtain rfl := BitVec.eq_of_toNat_eq heq
      exact .inr ⟨rfl, hlowestB b' hpair⟩
  · exact Bool.eq_false_iff.mpr fun hservesB => hnone h a' ha' b' ⟨hb', hne, hservesA, hservesB⟩

section
variable {s : State} {f : LineFrame} {p : Port}

/-! ## The receipt mark (R172, R177) -/

/-- A place reserved of the uplink queue, where one is FREE. -/
theorem reserveUplink_free (h : 0 < s.uplink.free) : (reserveUplink s).uplink.free + 1 = s.uplink.free := by
  unfold Uplink.free at h ⊢
  show Config.uplinkPlaces - (s.uplink.reserved + 1) - _ + 1 = _
  show Config.uplinkPlaces - (s.uplink.reserved + 1) - s.uplink.filled.length + 1 = Config.uplinkPlaces - s.uplink.reserved - s.uplink.filled.length
  omega

/-- A place reserved of a port's outgoing queue, where one is FREE. -/
theorem reserveOut_port (p : Port) (s : State) :
    (reserveOut p s).port p = { s.port p with out := { (s.port p).out with reserved := (s.port p).out.reserved + 1 } } := by
  cases p <;> rfl

theorem reserveOut_free (h : 0 < (s.port p).out.free) : ((reserveOut p s).port p).out.free + 1 = (s.port p).out.free := by
  rw [reserveOut_port]
  unfold OutQueue.free at h ⊢
  dsimp only
  omega

theorem raiseQueueFull_eq (p : Port) (outgoing : Bool) (s : State) :
    raiseQueueFull p outgoing s = raise .queueFull (BitVec.ofNat 32 (portCode p * 256 + if outgoing then 1 else 0)) s := rfl

end

/-- Settles O21: the cases of `offer`, one by one. -/
theorem receiptMarkRule : Obligations.ReceiptMarkRule := by
  unfold Obligations.ReceiptMarkRule
  refine fun p f s => ⟨fun ha => ?_, fun ha ho hr => ?_, fun ha ho hfree => ?_, fun ha ho hfree hout => ?_, fun ha ho hr hfree => ?_,
    fun ha ho hfree hout => ?_⟩
  · simp [offer, ha]
  · simp [offer, ha, ho, hr]
  · have hknown : (opaqueKind f.kind && !registeredOn s p f.src) = false := by
      cases hk : opaqueKind f.kind
      · rfl
      · rw [ho hk]
        rfl
    simp [offer, ha, hknown, hfree, raiseQueueFull_eq]
  · simp [offer, ha, ho, Nat.ne_of_gt hfree, hout, raiseQueueFull_eq]
  · have hoffer : offer p f s = (reserveUplink s, .sending) := by simp [offer, ha, ho, hr, Nat.ne_of_gt hfree]
    rw [hoffer]
    exact ⟨rfl, setUplink_leaves _ s, reserveUplink_free hfree, rfl⟩
  · have hoffer : offer p f s = (reserveOut p (reserveUplink s), .sending) := by
      simp [offer, ha, ho, Nat.ne_of_gt hfree, Nat.ne_of_gt hout]
    have hport : (reserveUplink s).port p = s.port p := by cases p <;> rfl
    have huplink : (reserveOut p (reserveUplink s)).uplink = (reserveUplink s).uplink := setOut_leaves p _ _ .uplink (by cases p <;> decide)
    rw [hoffer]
    dsimp only
    rw [huplink, reserveOut_free (by rwa [hport]), reserveOut_port, hport]
    exact ⟨rfl, unchangedBut_trans (setUplink_leaves _ s) (setOut_leaves p _ _), reserveUplink_free hfree, rfl, rfl, rfl, rfl, rfl⟩

/-- Settles O22: a raising by its record, the end of a taking by its three steps, the vector by its walk over the events. -/
theorem eventFlags : Obligations.EventFlags := by
  unfold Obligations.EventFlags
  refine ⟨fun e d s => ⟨?_, fun e' hne => ?_, raise_leaves e d s⟩, fun s => ⟨settleEvents_event s, settleEvents_vector s, ?_, settleEvents_leaves s,
    (topEvent_spec s).1, (topEvent_spec s).2.imp id fun ⟨e, ha, he⟩ => ⟨e, ha, he.symm⟩⟩⟩
  · rw [raise_event, if_pos rfl]
  · rw [raise_event, if_neg hne.symm]
  · have hattention : (settleEvents s).attention = (s.attention || decide (s.vector < (settleEvents s).vector)) := rfl
    rw [hattention]
    simp

end Sys2Proof.Machine.Effects

/-! PROOF. Checks and re-evaluations: the missed-window check (R137), the closing test and the close that completes (R145 to R147), and the comparison of
a drawer with its limits (R49 to R51). -/

namespace Sys2Proof.Machine.Effects

open Sys2Proof Sys2Proof.Machine Sys2Proof.Machine.Takings Sys2Proof.Machine.TallyCount

section
variable {s t u : State}

/-! ## The missed-window check (R123, R137) -/

/-- The slot `j` places behind the next pointer. -/
def slotAfter (s : State) (j : Nat) : Fin 16 := Fin.ofNat 16 (s.call.next.val + j)

/-- A record whose pin to one of the first `k` slots behind the next pointer is cleared where it is IN_SAFE or HANDED_OVER (R34). -/
def clearedRow (s : State) (k : Nat) (b : Bag) : Bag :=
  if (b.state = .inSafe ∨ b.state = .handedOver) ∧ ((List.range k).any fun j => b.pin == some (slotAfter s j)) = true then { b with pin := none } else b

/-- A missed slot, returned to OFFICE with the present second. -/
def ReturnedAt (s u : State) (i : Fin 16) : Prop :=
  s.ring[i].owner = .part ∧ (s.ring[i].windowEnd < s.day.clock ∨ s.ring[i].dayPassed = true) ∧
    u.ring[i] = { s.ring[i] with owner := .office, result := .missed, second := some s.seconds }

/-- The first `k` heads behind the next pointer returned as MISSED, one after the other. -/
structure MissedReturned (s u : State) (k : Nat) : Prop where
  idle : k ≠ 0 → s.call.phase = .idle
  returned : ∀ j : Nat, j < k → ReturnedAt s u (slotAfter s j)
  kept : ∀ i : Fin 16, (∀ j : Nat, j < k → i ≠ slotAfter s j) → u.ring[i] = s.ring[i]
  call : u.call = if k = 0 then s.call else { s.call with next := slotAfter s k, refused := 0 }
  event : u.event .windowMissed = if k = 0 then s.event .windowMissed else
    { s.event .windowMissed with
      pending := true, detail := BitVec.ofNat 32 (slotAfter s (k - 1)).val, count := min 255 ((s.event .windowMissed).count + k) }
  events : ∀ e : Event, e ≠ .windowMissed → u.event e = s.event e
  bags : u.bags = s.bags.map (clearedRow s k)

theorem MissedReturned.none (s : State) : MissedReturned s s 0 where
  idle := fun h => absurd rfl h
  returned := fun _ h => absurd h (Nat.not_lt_zero _)
  kept := fun _ _ => rfl
  call := rfl
  event := rfl
  events := fun _ _ => rfl
  bags := by
    refine (List.map_congr_left fun b _ => ?_).trans (List.map_id _) |>.symm
    simp [clearedRow]

/-- The head returned as MISSED, with its event. -/
def returnHead (s : State) : State := raiseNum .windowMissed s.call.next.val (returnSlot s.call.next .missed s)

theorem slotAfter_zero (s : State) : slotAfter s 0 = s.call.next := by
  unfold slotAfter
  ext
  simp

theorem slotAfter_returnHead (s : State) (j : Nat) : slotAfter (returnHead s) j = slotAfter s (j + 1) := by
  show Fin.ofNat 16 ((s.call.next + 1).val + j) = Fin.ofNat 16 (s.call.next.val + (j + 1))
  ext
  simp [Fin.val_add]
  omega

theorem returnHead_ring (s : State) (i : Fin 16) : (returnHead s).ring[i] =
    if s.call.next = i then { s.ring[s.call.next] with owner := .office, result := .missed, second := some s.seconds } else s.ring[i] :=
  put_get _ _ _ _

theorem returnHead_event (s : State) (e : Event) : (returnHead s).event e = if Event.windowMissed = e then
    { s.event .windowMissed with
      pending := true, detail := BitVec.ofNat 32 s.call.next.val, count := min 255 ((s.event .windowMissed).count + 1) } else s.event e :=
  raise_event _ _ _ _

theorem clearedRow_succ (k : Nat) (b : Bag) : clearedRow (returnHead s) k (returnedRow s.call.next b) = clearedRow s (k + 1) b := by
  unfold clearedRow
  simp only [slotAfter_returnHead, List.range_succ_eq_map, List.any_cons, List.any_map, slotAfter_zero, Function.comp_def, Nat.succ_eq_add_one]
  unfold returnedRow
  by_cases hpin : b.pin = some s.call.next <;> by_cases hstate : b.state = .inSafe ∨ b.state = .handedOver <;> simp [hpin, hstate]

/-- One more head returned before those that the rest of the check returns. -/
theorem MissedReturned.succ {k : Nat} (hmissed : headMissed s = true) (h : MissedReturned (returnHead s) u k) : MissedReturned s u (k + 1) := by
  obtain ⟨hphase, howner, hdue⟩ : s.call.phase = .idle ∧ s.ring[s.call.next].owner = .part ∧
      (s.ring[s.call.next].windowEnd < s.day.clock ∨ s.ring[s.call.next].dayPassed = true) := by
    unfold headMissed State.head at hmissed
    simp only [Bool.and_eq_true, Bool.or_eq_true, decide_eq_true_eq] at hmissed
    exact ⟨hmissed.1.1, hmissed.1.2, hmissed.2⟩
  have hhead (j : Nat) (hj : j < k) : s.call.next ≠ slotAfter s (j + 1) := fun heq => by
    have hreturned := h.returned j hj
    rw [slotAfter_returnHead, ← heq] at hreturned
    have howner' := hreturned.1
    rw [returnHead_ring, if_pos rfl] at howner'
    exact nomatch howner'
  have hzero : u.ring[s.call.next] = { s.ring[s.call.next] with owner := .office, result := .missed, second := some s.seconds } := by
    rw [h.kept s.call.next fun j hj => by rw [slotAfter_returnHead]; exact hhead j hj, returnHead_ring, if_pos rfl]
  exact
  { idle := fun _ => hphase
    returned := fun j hj => by
      cases j with
      | zero =>
        rw [slotAfter_zero]
        exact ⟨howner, hdue, hzero⟩
      | succ j =>
        have hj : j < k := Nat.lt_of_succ_lt_succ hj
        have hreturned := h.returned j hj
        rw [slotAfter_returnHead] at hreturned
        unfold ReturnedAt at hreturned
        rw [returnHead_ring, if_neg (hhead j hj)] at hreturned
        exact hreturned
    kept := fun i hi => by
      have hne := hi 0 (Nat.succ_pos k)
      rw [slotAfter_zero] at hne
      rw [h.kept i fun j hj => by rw [slotAfter_returnHead]; exact hi (j + 1) (Nat.succ_lt_succ hj), returnHead_ring, if_neg hne.symm]
    call := by
      rw [h.call, if_neg (Nat.succ_ne_zero k)]
      split
      · next hk =>
        subst hk
        rw [← slotAfter_returnHead, slotAfter_zero]
        rfl
      · rw [slotAfter_returnHead]
        rfl
    event := by
      rw [h.event, returnHead_event, if_pos rfl, if_neg (Nat.succ_ne_zero k)]
      split
      · next hk =>
        subst hk
        rw [slotAfter_zero]
      · next hk =>
        rw [slotAfter_returnHead, show k - 1 + 1 = k + 1 - 1 by omega]
        have hcount : min 255 (min 255 ((s.event .windowMissed).count + 1) + k) = min 255 ((s.event .windowMissed).count + (k + 1)) := by omega
        dsimp only
        rw [hcount]
    events := fun e he => by rw [h.events e he, returnHead_event, if_neg he.symm]
    bags := by
      rw [h.bags]
      show List.map _ (s.bags.map (returnedRow s.call.next)) = _
      rw [List.map_map]
      exact List.map_congr_left fun b _ => clearedRow_succ k b }

/-- The check returns as many heads as its fuel lets it, one after the other. -/
theorem checkMissed_returned (n : Nat) (s : State) : ∃ k, k ≤ n ∧ MissedReturned s (checkMissed n s) k := by
  induction n generalizing s with
  | zero => exact ⟨0, le_rfl, .none s⟩
  | succ n ih =>
    unfold checkMissed
    split
    · next hmissed =>
      obtain ⟨k, hk, h⟩ := ih (returnHead s)
      exact ⟨k + 1, Nat.succ_le_succ hk, h.succ hmissed⟩
    · exact ⟨0, Nat.zero_le _, .none s⟩

theorem missedCheck_idle (h : headMissed s = false) : missedCheck s = s := by
  unfold missedCheck checkMissed
  rw [h]
  rfl

end

/-- Settles O23: the check's walk returns one head after the other, and its fuel is the ring's sixteen slots. -/
theorem missedHeadsReturned : Obligations.MissedHeadsReturned := by
  unfold Obligations.MissedHeadsReturned
  intro s
  obtain ⟨k, hk, h⟩ := checkMissed_returned 16 s
  exact ⟨missedCheck_done s, missedCheck_idle, k, hk, h.idle, h.returned, h.kept, h.call, h.event, h.events, h.bags,
    unchangedBut_mono (missedCheck_leaves s) (by decide)⟩

section
variable {s s' : State}

/-! ## The closing test and the close (R145 to R147) -/

theorem closingConditions_iff : closingConditions s = true ↔
    (∀ t : Fin 160, s.drawers[t].state = .closed ∨ s.drawers[t].state = .cashedUp ∨ s.drawers[t].state = .suspended) ∧
    (∀ x : Fin 4, s.sessions[x].state = .idle) ∧ s.call.phase = .idle ∧
    (∀ b ∈ s.bags, ¬(b.kind = .floatBag ∧ b.state = .madeUp) ∧ b.state ≠ .hatchHeld) ∧ s.safe.lock = .locked := by
  have hrest (d : DrawerState) : (!d.atRest) = false ↔ d = .closed ∨ d = .cashedUp ∨ d = .suspended := by cases d <;> decide
  unfold closingConditions
  simp only [Bool.and_eq_true, Bool.not_eq_true', anyRow_false_iff, hrest, decide_eq_true_eq, decide_eq_false_iff_not, not_not, and_assoc,
    List.any_eq_false, Bag.holdsClose]
  refine and_congr_right fun _ => and_congr_right fun _ => and_congr_right fun _ => and_congr_left fun _ => forall₂_congr fun b _ => ?_
  simp [imp_iff_not_or]

theorem testReports_open (h : s'.day.state ≠ .closing) : testReports s s' = s' := by
  unfold testReports testClosing
  simp [h]

theorem testReports_tested (h : s'.day.state = .closing) (hreports : s.day.state ≠ .closing ∨ closeInputs s ≠ closeInputs s') :
    testReports s s' = if closingConditions s' = true then completeClose s' else s' := by
  unfold testReports testClosing
  rw [if_neg (by tauto)]
  simp [h]

theorem completeClose_event (s : State) (e : Event) : (completeClose s).event e = if Event.dayChanged = e then
    { s.event .dayChanged with pending := true, detail := 0, count := min 255 ((s.event .dayChanged).count + 1) } else s.event e :=
  raise_event _ _ _ _

end

/-- Settles O25: the test by its two conditions, the close by its fields. -/
theorem closeRule : Obligations.CloseRule := by
  unfold Obligations.CloseRule
  refine ⟨fun s s' => ⟨testReports_open, fun hday hinputs => ?_, testReports_tested, closingConditions_iff⟩,
    fun s => ⟨rfl, rfl, rfl, rfl, rfl, rfl, rfl, ?_, fun e he => ?_, completeClose_leaves s⟩⟩
  · unfold testReports
    rw [if_pos ⟨hday, hinputs⟩]
  · rw [completeClose_event, if_pos rfl]
    rfl
  · rw [completeClose_event, if_neg he.symm]

section
variable {s u : State} {t : Fin 160}

/-! ## The drawer compared with its limits (R49 to R51) -/

theorem setDrawer_get (t k : Fin 160) (d : Drawer) (s : State) : (setDrawer t d s).drawers[k] = if t = k then d else s.drawers[k] := put_get _ _ _ _

/-- What the comparison with the hard limit leaves: the state alone of one drawer, and its event. -/
theorem compareHold_spec (t : Fin 160) (s : State) : ∃ st : DrawerState,
    st = (if s.drawers[t].state = .opened ∧ (s.tills[t].hardLimit : Int) ≤ s.drawers[t].expected then .hold
      else if s.drawers[t].state = .hold ∧ s.drawers[t].expected < s.tills[t].hardLimit then .opened else s.drawers[t].state) ∧
    (∀ k, (compareHold t s).drawers[k] = if t = k then { s.drawers[t] with state := st } else s.drawers[k]) ∧
    (∀ e, (compareHold t s).event e = if (s.drawers[t].state = .opened ∧ st = .hold) ∧ Event.drawerHold = e then
      { s.event .drawerHold with
        pending := true, detail := BitVec.ofNat 32 t.val, count := min 255 ((s.event .drawerHold).count + 1) } else s.event e) := by
  unfold compareHold
  dsimp only
  split
  · next h =>
    refine ⟨.hold, rfl, fun k => setDrawer_get t k _ s, fun e => ?_⟩
    simp only [h.1, true_and]
    exact raise_event _ _ _ _
  · next h =>
    split
    · next h' =>
      refine ⟨.opened, rfl, fun k => setDrawer_get t k _ s, fun e => ?_⟩
      rw [if_neg (by simp)]
      rfl
    · next h' =>
      refine ⟨s.drawers[t].state, rfl, fun k => ?_, fun e => ?_⟩
      · split
        · next heq =>
          subst heq
          rfl
        · rfl
      · rw [if_neg (by rintro ⟨⟨ho, hh⟩, -⟩; rw [ho] at hh; cases hh)]

theorem pickupDue_iff : pickupDue s t = true ↔ (s.drawers[t].state = .opened ∨ s.drawers[t].state = .hold) ∧
    (s.tills[t].skimLevel : Int) ≤ s.drawers[t].expected - s.tills[t].targetValue := by
  unfold pickupDue surplus
  simp

/-- What the comparison with the skim level leaves: the flag alone of one drawer, its events, and the CALL. -/
theorem comparePickup_spec (t : Fin 160) (s : State) :
    (∀ k, (comparePickup t s).drawers[k] = if t = k then { s.drawers[t] with due := pickupDue s t } else s.drawers[k]) ∧
    (∀ e, (comparePickup t s).event e =
      if (s.drawers[t].due = false ∧ pickupDue s t = true) ∧ (e = .pickupDue ∨ e = .queueFull ∧ s.floor.out.free = 0) then
        { s.event e with
          pending := true, detail := BitVec.ofNat 32 (if e = .pickupDue then t.val else 1), count := min 255 ((s.event e).count + 1) }
      else s.event e) ∧
    (comparePickup t s).floor = (if (s.drawers[t].due = false ∧ pickupDue s t = true) ∧ 0 < s.floor.out.free then
      { s.floor with out := { s.floor.out with filled := s.floor.out.filled ++ [callFrame t (surplus s t)] } } else s.floor) := by
  have hcases (e : Event) : e = .pickupDue ∨ e = .queueFull ∨ e ≠ .pickupDue ∧ e ≠ .queueFull := by tauto
  unfold comparePickup
  split
  · next hdue =>
    obtain ⟨hpickup, hflag⟩ : pickupDue s t = true ∧ s.drawers[t].due = false := by
      simpa only [Bool.and_eq_true, Bool.not_eq_true'] using hdue
    have hsurplus : surplus (raiseNum .pickupDue t.val (setDrawer t { s.drawers[t] with due := true } s)) t = surplus s t := by
      show (put s.drawers t _)[t].expected - _ = _
      rw [put_get, if_pos rfl]
      rfl
    have hraised (e : Event) : (raiseNum .pickupDue t.val (setDrawer t { s.drawers[t] with due := true } s)).event e = _ := raise_event _ _ _ _
    simp only [hpickup, hflag, and_self, true_and]
    unfold placeCall placeOut
    rw [hsurplus]
    rcases OutQueue.place_spec s.floor.out (callFrame t (surplus s t)) with ⟨hfull, hplace⟩ | ⟨hfree, hplace⟩
    · rw [show ((raiseNum .pickupDue t.val (setDrawer t { s.drawers[t] with due := true } s)).port .floor).out.place _ = _ from hplace]
      refine ⟨fun k => setDrawer_get t k _ s, fun e => ?_, ?_⟩
      · rw [show (raiseQueueFull .floor true _).event e = _ from raise_event _ _ _ _, hraised, hraised]
        rcases hcases e with rfl | rfl | ⟨hp, hq⟩
        · rfl
        · simp only [hfull, and_self, or_true, if_true]
          rfl
        · rw [if_neg hq.symm, if_neg hp.symm, if_neg (by tauto)]
          rfl
      · rw [if_neg (by omega)]
        rfl
    · rw [show ((raiseNum .pickupDue t.val (setDrawer t { s.drawers[t] with due := true } s)).port .floor).out.place _ = _ from hplace]
      refine ⟨fun k => setDrawer_get t k _ s, fun e => ?_, ?_⟩
      · show (raiseNum .pickupDue t.val (setDrawer t { s.drawers[t] with due := true } s)).event e = _
        rw [hraised]
        rcases hcases e with rfl | rfl | ⟨hp, hq⟩
        · rfl
        · rw [if_neg (by decide), if_neg (by simp; omega)]
          rfl
        · rw [if_neg hp.symm, if_neg (by tauto)]
          rfl
      · rw [if_pos hfree]
        rfl
  · next hdue =>
    have hnot : ¬(s.drawers[t].due = false ∧ pickupDue s t = true) := by
      rintro ⟨hflag, hpickup⟩
      exact hdue (by rw [hpickup, hflag]; rfl)
    refine ⟨fun k => setDrawer_get t k _ s, fun e => ?_, ?_⟩
    · rw [if_neg fun h => hnot h.1]
      rfl
    · rw [if_neg fun h => hnot h.1]
      rfl

end

/-- Settles O27: the two comparisons, one behind the other. -/
theorem holdAndPickupRule : Obligations.HoldAndPickupRule := by
  unfold Obligations.HoldAndPickupRule
  intro t s
  obtain ⟨st, hst, hdrawers, hevents⟩ := compareHold_spec t s
  obtain ⟨hdrawers', hevents', hfloor⟩ := comparePickup_spec t (compareHold t s)
  have hleft := compareHold_leaves t s
  have hheld : (compareHold t s).drawers[t] = { s.drawers[t] with state := st } := by rw [hdrawers, if_pos rfl]
  have hfloor' : (compareHold t s).floor = s.floor := hleft .floor (by decide)
  have htills : (compareHold t s).tills = s.tills := hleft .tills (by decide)
  have hsurplus : surplus (compareHold t s) t = s.drawers[t].expected - s.tills[t].targetValue := by
    unfold surplus
    rw [hheld, htills]
  have hdue := pickupDue_iff (s := compareHold t s) (t := t)
  rw [hheld, htills] at hdue
  have hdrawer : (reevaluate t s).drawers[t] = { s.drawers[t] with state := st, due := pickupDue (compareHold t s) t } := by
    refine (hdrawers' t).trans ?_
    rw [if_pos rfl, hheld]
  have hevent (e : Event) (hp : e ≠ .pickupDue) (hq : e ≠ .queueFull) : (reevaluate t s).event e = (compareHold t s).event e :=
    (hevents' e).trans (if_neg (by tauto))
  have hunheld (e : Event) (he : e ≠ .drawerHold) : (compareHold t s).event e = s.event e := (hevents e).trans (if_neg fun h => he h.2.symm)
  rw [hheld, hsurplus, hfloor'] at hfloor
  have hplaced (e : Event) := hevents' e
  simp only [hheld, hfloor'] at hplaced
  dsimp only
  rw [hdrawer]
  refine ⟨hst, hdue, rfl, fun k hk => ?_, fun h => ?_, fun h => ?_, fun h => ?_, fun h => ?_, fun h => ?_, fun h => ?_, fun e hh hp hq => ?_,
    fun h hfree => ?_, fun h => ?_, unchangedBut_mono (reevaluate_leaves t s) (by decide)⟩
  · refine (hdrawers' k).trans ?_
    rw [if_neg hk.symm, hdrawers, if_neg hk.symm]
  · rw [hevent _ (by decide) (by decide), hevents, if_pos ⟨h, rfl⟩]
  · rw [hevent _ (by decide) (by decide), hevents, if_neg fun h' => h h'.1]
  · refine (hplaced _).trans ?_
    rw [if_pos ⟨h, .inl rfl⟩, hunheld _ (by decide)]
    rfl
  · refine (hplaced _).trans ?_
    rw [if_neg fun h' => h h'.1, hunheld _ (by decide)]
  · refine (hplaced _).trans ?_
    rw [if_pos ⟨h.1, .inr ⟨rfl, h.2⟩⟩, hunheld _ (by decide)]
    rfl
  · refine (hplaced _).trans ?_
    rw [if_neg (by simpa using h), hunheld _ (by decide)]
  · rw [hevent e hp hq, hunheld e hh]
  · exact hfloor.trans (if_pos ⟨h, hfree⟩)
  · exact hfloor.trans (if_neg h)

end Sys2Proof.Machine.Effects

/-! PROOF. What is written is read back: the frames of the lines and of the trunk (R151, R152, R188, R189), the entries of the tables (R193) and the
bodies of the frames (R197). -/

namespace Sys2Proof.Machine.Effects

open Sys2Proof Sys2Proof.Machine Sys2Proof.Machine.Takings Sys2Proof.Machine.TallyCount

section

/-! ## Line frames (R151, R152, R155) -/

theorem unbe_crc (c : Word16) : unbe (be 2 c.toNat) = c.toNat := unbe_be c.isLt

/-- The data of a frame as written: its header, its body and the check of both. -/
theorem checkData_wire {f : LineFrame} (h : f.body.length ≤ 40) : checkData (lineBits f.wire) = .good f (crc16 (f.header ++ f.body)) := by
  have hlen : (BitVec.ofNat 8 f.body.length).toNat = f.body.length := Nat.mod_eq_of_lt (show f.body.length < 256 by omega)
  have hwire : f.wire = f.pb :: f.kind :: f.dest :: f.src :: BitVec.ofNat 8 f.body.length :: (f.body ++ be 2 (crc16 (f.header ++ f.body)).toNat) := by
    simp [LineFrame.wire, LineFrame.header]
  have hheader : f.header ++ f.body = f.pb :: f.kind :: f.dest :: f.src :: BitVec.ofNat 8 f.body.length :: f.body := rfl
  unfold checkData
  rw [splitBytes_lineBits, hwire]
  dsimp only
  rw [hlen, if_neg (by omega), if_neg (by simp), if_neg (by simp), List.take_left, List.drop_left, unbe_crc, ← hheader, if_neg (by simp)]
  simp

end

/-- Settles O10: the check of the nine bytes by evaluation, the round trip field by field. -/
theorem lineFrameRoundTrip : Obligations.LineFrameRoundTrip := by
  unfold Obligations.LineFrameRoundTrip
  exact ⟨by decide +kernel, fun f h => checkData_wire h⟩

section
variable {s : State} {type : Byte} {payload : List Byte}

/-! ## Trunk frames (R188, R189) -/

/-- The receiver with some of a frame's characters. -/
def collecting (chars : List Byte) (s : State) : State := s.setTrunk { s.trunk with rx := .collecting chars }

theorem trunkChar_collecting (chars : List Byte) (c : Byte) (s : State) :
    trunkChar (collecting chars s) c = collectTrunk (chars ++ [c]) (collecting chars s) := rfl

/-- A frame that lacks characters is kept so far. -/
theorem collectTrunk_part {check pre post : List Byte} (hlen : payload.length ≤ 512) (hcheck : check.length = 2)
    (heq : pre ++ post = trunkCore type payload ++ check) (hpost : post ≠ []) (chars : List Byte) :
    collectTrunk pre (collecting chars s) = collecting pre s := by
  have htotal := congrArg List.length heq
  have hmore := List.length_pos_of_ne_nil hpost
  unfold collectTrunk
  split
  · next a hi lo rest =>
    obtain ⟨hhi, hlo⟩ : hi = BitVec.ofNat 8 (payload.length / 256) ∧ lo = BitVec.ofNat 8 payload.length := by
      simp only [trunkCore, be, List.cons_append, List.cons.injEq, List.nil_append, pow_one, pow_zero, Nat.div_one] at heq
      exact ⟨heq.2.1, heq.2.2.1⟩
    have hunbe : unbe [hi, lo] = payload.length := by
      have hbe := unbe_be (k := 2) (n := payload.length) (by omega)
      rw [hhi, hlo]
      simpa only [be, pow_one, pow_zero, Nat.div_one] using hbe
    simp only [trunkCore, List.cons_append, List.length_cons, List.length_append, be_length, hcheck] at htotal
    rw [hunbe, if_neg (show ¬topPayload < payload.length from Nat.not_lt.mpr hlen), if_pos (by omega)]
    rfl
  · rfl

/-- A whole frame is checked, and the receiver hunts. -/
theorem collectTrunk_whole {check : List Byte} (hlen : payload.length ≤ 512) (hcheck : check.length = 2) (chars : List Byte) :
    collectTrunk (trunkCore type payload ++ check) (collecting chars s) = closeTrunkFrame type payload (unbe check) (huntTrunk s) := by
  have hhunt : huntTrunk (collecting chars s) = huntTrunk s := rfl
  have hunbe : unbe [BitVec.ofNat 8 (payload.length / 256), BitVec.ofNat 8 payload.length] = payload.length := by
    have hbe := unbe_be (k := 2) (n := payload.length) (by omega)
    simpa only [be, pow_one, pow_zero, Nat.div_one] using hbe
  have hcore : trunkCore type payload ++ check =
      type :: BitVec.ofNat 8 (payload.length / 256) :: BitVec.ofNat 8 payload.length :: (payload ++ check) := by
    simp [trunkCore, be]
  rw [hcore]
  unfold collectTrunk
  dsimp only
  rw [hunbe, if_neg (show ¬topPayload < payload.length from Nat.not_lt.mpr hlen), if_neg (by simp [hcheck]), List.take_left, List.drop_left, hhunt]

/-- The characters of a frame behind its start character. -/
theorem receiveTrunk_collecting {check : List Byte} (hlen : payload.length ≤ 512) (hcheck : check.length = 2) (rest pre : List Byte)
    (heq : pre ++ rest = trunkCore type payload ++ check) (hrest : rest ≠ []) :
    receiveTrunk rest (collecting pre s) = closeTrunkFrame type payload (unbe check) (huntTrunk s) := by
  induction rest generalizing pre with
  | nil => exact absurd rfl hrest
  | cons c rest ih =>
    show receiveTrunk rest (trunkChar (collecting pre s) c) = _
    rw [trunkChar_collecting]
    rcases List.eq_nil_or_concat rest with rfl | ⟨_, _, hne⟩
    · rw [heq]
      exact collectTrunk_whole hlen hcheck pre
    · have hne : rest ≠ [] := by simp [hne]
      have heq : (pre ++ [c]) ++ rest = trunkCore type payload ++ check := by simpa using heq
      rw [collectTrunk_part hlen hcheck heq hne]
      exact ih _ heq hne

/-- A whole frame, with some check, arrives at a receiver that hunts. -/
theorem receiveTrunk_frame {check : List Byte} (hrx : s.trunk.rx = .hunting) (hlen : payload.length ≤ 512) (hcheck : check.length = 2) :
    receiveTrunk (trunkStart :: (trunkCore type payload ++ check)) s = closeTrunkFrame type payload (unbe check) s := by
  have hhunt : huntTrunk s = s := by
    unfold huntTrunk
    rw [← hrx]
    rfl
  have hstart : trunkChar s trunkStart = collecting [] s := by
    unfold trunkChar
    rw [hrx]
    exact if_pos rfl
  show receiveTrunk _ (trunkChar s trunkStart) = _
  rw [hstart, receiveTrunk_collecting hlen hcheck _ [] (List.nil_append _) (by simp [trunkCore]), hhunt]

/-- A frame with its own check, by the entry that it holds. -/
theorem receiveTrunk_trunkChars (hrx : s.trunk.rx = .hunting) (hlen : payload.length ≤ 512) :
    receiveTrunk (trunkChars type payload) s =
      (trunkEntry type payload).elim (countTrunkFraming s) fun e => bufferEntry e s := by
  unfold trunkChars
  rw [receiveTrunk_frame hrx hlen (be_length _ _)]
  unfold closeTrunkFrame
  rw [if_neg (by rw [unbe_crc]; exact fun h => h rfl)]
  cases trunkEntry type payload <;> rfl

theorem bufferEntry_free {e : TrunkEntry} (h : s.trunk.buffer.length < 4) :
    bufferEntry e s = s.setTrunk { s.trunk with buffer := s.trunk.buffer ++ [e] } := if_neg (Nat.not_le.mpr h)

theorem be_tag (tag : Word16) : ∃ a b, be 2 tag.toNat = [a, b] ∧ BitVec.ofNat 16 (unbe [a, b]) = tag :=
  ⟨_, _, rfl, by
    show BitVec.ofNat 16 (unbe (be 2 tag.toNat)) = tag
    rw [unbe_crc, BitVec.ofNat_toNat, BitVec.setWidth_eq]⟩

theorem trunkEntry_request (tag : Word16) (code : Byte) (fields : List Byte) :
    trunkEntry typeRequest (be 2 tag.toNat ++ code :: fields) = some (.request tag code fields) := by
  obtain ⟨a, b, hbe, htag⟩ := be_tag tag
  rw [hbe]
  show some (TrunkEntry.request (BitVec.ofNat 16 (unbe [a, b])) code fields) = _
  rw [htag]

theorem trunkEntry_send (tag : Word16) (port pb kind dest : Byte) {body : List Byte} (h : body.length ≤ 255) :
    trunkEntry typeSend (be 2 tag.toNat ++ [port, pb, kind, dest, BitVec.ofNat 8 body.length] ++ body) = some (.send tag port pb kind dest body) := by
  obtain ⟨a, b, hbe, htag⟩ := be_tag tag
  have hlen : (BitVec.ofNat 8 body.length).toNat = body.length := Nat.mod_eq_of_lt (show body.length < 256 by omega)
  rw [hbe]
  show (if body.length < (BitVec.ofNat 8 body.length).toNat then none
    else some (TrunkEntry.send (BitVec.ofNat 16 (unbe [a, b])) port pb kind dest (body.take (BitVec.ofNat 8 body.length).toNat))) = _
  rw [hlen, if_neg (Nat.lt_irrefl _), List.take_length, htag]

end

/-- Settles O11: the frame is collected character by character, checked, and entered. -/
theorem trunkFrameRoundTrip : Obligations.TrunkFrameRoundTrip := by
  unfold Obligations.TrunkFrameRoundTrip
  refine ⟨fun s tag code fields hrx hfree hlen => ?_, fun s tag port pb kind dest body hrx hfree hlen => ?_⟩
  · rw [receiveTrunk_trunkChars hrx (by simp; omega), trunkEntry_request]
    exact bufferEntry_free hfree
  · rw [receiveTrunk_trunkChars hrx (by simp; omega), trunkEntry_send tag port pb kind dest hlen]
    exact bufferEntry_free hfree

section

/-! ## Table entries (R193, log entry 13) -/

theorem takeNamed_kind (k : DenomKind) (rest : List Byte) : takeNamed DenomKind.all DenomKind.code (named k.code ++ rest) = some (k, rest) := by
  cases k <;> rfl

theorem takeNamed_port (p : NodePort) (rest : List Byte) : takeNamed NodePort.all NodePort.code (named p.code ++ rest) = some (p, rest) := by
  cases p <;> rfl

theorem takeNamed_role (r : Role) (rest : List Byte) : takeNamed Role.all Role.code (named r.code ++ rest) = some (r, rest) := by
  cases r <;> rfl

theorem takeNamed_mode (m : TallyMode) (rest : List Byte) : takeNamed TallyMode.all TallyMode.code (named m.code ++ rest) = some (m, rest) := by
  cases m <;> rfl

theorem takeFlag_end (b : Bool) : takeFlag [flagByte b] = some (b, []) := takeFlag_flagByte b []

theorem clampFin_val {n : Nat} (i : Fin (n + 1)) : clampFin n i.val = i := Fin.ext (Nat.min_eq_right (Nat.le_of_lt_succ i.isLt))

theorem readDenom_denomBytes {d : Denom} (hface : d.face < 256 ^ 3) (hstrap : d.strap < 256 ^ 2) (hpacket : d.packet < 256 ^ 2) :
    readDenom (denomBytes d) = some d := by
  unfold readDenom denomBytes
  simp [List.append_assoc, takeNat_be hface, takeNamed_kind, leadFields_be hstrap, leadFields_be hpacket]

theorem readNode_nodeBytes (n : Node) : readNode (nodeBytes n) = some n := by
  have htill : n.till.val < 256 ^ 1 := by omega
  have hslot : n.slot.val < 256 ^ 1 := by omega
  unfold readNode nodeBytes
  simp [List.append_assoc, takeNamed_port, takeNamed_role, leadFields_be htill, leadFields_be hslot, clampFin_val (n := 159), clampFin_val (n := 3)]

theorem readWitness_witnessBytes (w : Witness) : readWitness (witnessBytes w) = some w := by
  unfold readWitness witnessBytes
  simp [List.append_assoc, takeNamed_role]

theorem readSetting_settingBytes (g : TallySetting) : readSetting (settingBytes g) = some g := by
  unfold readSetting settingBytes
  simp [takeNamed_mode]

/-- A run of numbers of one width is read as it was written. -/
theorem takeNats_flatMap {w : Nat} {xs : List Nat} (h : ∀ n ∈ xs, n < 256 ^ w) (rest : List Byte) :
    takeNats w xs.length (xs.flatMap (be w) ++ rest) = some (xs, rest) := by
  induction xs with
  | nil => rfl
  | cons x xs ih =>
    have hx := h x List.mem_cons_self
    have hxs := ih fun n hn => h n (List.mem_cons_of_mem _ hn)
    simp [takeNats, List.flatMap_cons, List.append_assoc, takeNat_be hx, hxs]

theorem vectorOf_toList (v : Vector Nat 12) : vectorOf v.toList = v := by
  unfold vectorOf
  refine row_ext fun c => ?_
  simp

theorem readTill_tillBytes {e : TillEntry} (htargets : ∀ c : Fin 12, e.targets[c] < 256 ^ 2) (hvalue : e.targetValue < 256 ^ 4)
    (hskim : e.skimLevel < 256 ^ 4) (hhard : e.hardLimit < 256 ^ 4) (hcap : e.topUpCap < 256 ^ 4) (hfloor : e.skimFloor < 256 ^ 3) :
    readTill (tillBytes e) = some { e with targetValue := 0 } := by
  have hmem : ∀ n ∈ e.targets.toList, n < 256 ^ 2 := fun n hn => by
    obtain ⟨i, hi, rfl⟩ := List.getElem_of_mem hn
    simpa using htargets ⟨i, by simpa using hi⟩
  have hrow := takeNats_flatMap hmem
  rw [Vector.length_toList] at hrow
  unfold readTill tillBytes rowBytes
  simp [List.append_assoc, hrow, leadFields_be hvalue, leadFields_be hskim, leadFields_be hhard, leadFields_be hcap, leadFields_be hfloor,
    vectorOf_toList]

theorem readBooking_descriptorBytes {d : Descriptor} (hnumber : d.number < 256 ^ 4) (hcourier : d.courier < 256 ^ 4) (hstart : d.windowStart < 256 ^ 2)
    (hend : d.windowEnd < 256 ^ 2) (hlen : d.outbound.length < 256) (hseals : ∀ n ∈ d.outbound, n < 256 ^ 4) (hcount : d.inboundCount < 256)
    (hvalue : d.inboundValue < 256 ^ 4) : readBooking ((descriptorBytes d).drop 1) =
      some { number := d.number, courier := d.courier, windowStart := d.windowStart, windowEnd := d.windowEnd
             outbound := d.outbound, inboundCount := d.inboundCount, inboundValue := d.inboundValue } := by
  have hlist : listBytes (be 4) d.outbound = be 1 d.outbound.length ++ d.outbound.flatMap (be 4) := by simp [listBytes, be]
  have hdrop (rest : List Byte) : (named d.owner.code ++ rest).drop 1 = rest := rfl
  have hlen : d.outbound.length < 256 ^ 1 := by omega
  have hcount : d.inboundCount < 256 ^ 1 := by omega
  unfold readBooking descriptorBytes
  simp only [List.append_assoc]
  rw [hdrop, hlist]
  simp [List.append_assoc, leadFields_be hnumber, leadFields_be hcourier, leadFields_be hstart, leadFields_be hend, leadFields_be hlen,
    takeNats_flatMap hseals, leadFields_be hcount, leadFields_be hvalue]

end

/-- Settles O12: each table's layout, field by field. -/
theorem tableEntryRoundTrip : Obligations.TableEntryRoundTrip := by
  unfold Obligations.TableEntryRoundTrip
  refine ⟨fun d => readDenom_denomBytes, readNode_nodeBytes, readWitness_witnessBytes, readSetting_settingBytes, fun t k h => ?_, by decide, fun t g => ?_,
    fun e => readTill_tillBytes, fun d hnumber hcourier hstart hend hlen hseals hcount hvalue =>
      ⟨by simp [descriptorBytes, named, be], readBooking_descriptorBytes hnumber hcourier hstart hend hlen hseals hcount hvalue⟩⟩
  · unfold timingBytes
    rw [inRange_val]
    exact takeNat_be_end h
  · unfold timingBytes
    rw [inRange_none.mpr (Nat.le_add_right 14 g.val), Nat.add_sub_cancel_left, inRange_val]

section

/-! ## Bodies of frames (R197) -/

theorem exactFields_of_lead {ws xs : List Nat} {body : List Byte} (h : leadFields ws body = some (xs, [])) : exactFields ws body = some xs := by
  unfold exactFields
  rw [h]

/-- Pairs of a code and a number of one width are read as they were written. -/
theorem exactPairs_flatMap {w : Nat} {ps : List (Nat × Nat)} (h : ∀ x ∈ ps, x.1 < 256 ∧ x.2 < 256 ^ w) :
    exactPairs w ps.length (ps.flatMap fun x => be 1 x.1 ++ be w x.2) = some ps := by
  induction ps with
  | nil => rfl
  | cons x ps ih =>
    obtain ⟨hcode, hnumber⟩ := h x List.mem_cons_self
    have hcode : x.1 < 256 ^ 1 := by omega
    have hps := ih fun y hy => h y (List.mem_cons_of_mem _ hy)
    simp only [List.flatMap_cons, List.length_cons, List.append_assoc, exactPairs, leadFields_be hcode, leadFields_be hnumber, leadFields_nil,
      Option.map_some, hps]

theorem codedPairs_map (ps : List (Fin 12 × Nat)) : codedPairs (ps.map fun x => (x.1.val, x.2)) = some ps := by
  unfold codedPairs
  induction ps with
  | nil => rfl
  | cons x ps ih => simp [ih]

end

/-- Settles O13: every layout, field by field. -/
theorem lineBodiesRead : Obligations.LineBodiesRead := by
  unfold Obligations.LineBodiesRead
  refine ⟨?_, ?_, ?_, ?_, ?_, ?_, ?_, ?_, ?_, ?_, ?_, ?_, ?_, ?_, ?_⟩
  · intro q r c hq hr hc
    have hfields : exactFields [2, 4, 4] (be 2 q ++ be 4 r ++ be 4 c) = some [q, r, c] := exactFields_of_lead (by
      simp [List.append_assoc, leadFields_be hq, leadFields_be (w := 4) (n := r) (by omega), leadFields_be_end (w := 4) (n := c) (by omega)])
    unfold parseTender
    rw [hfields]
    exact if_pos ⟨hr, hc⟩
  · intro q a hq ha
    have hfields : exactFields [2, 4] (be 2 q ++ be 4 a) = some [q, a] := exactFields_of_lead (by
      simp [leadFields_be hq, leadFields_be_end (w := 4) (n := a) (by omega)])
    unfold parseRefund
    rw [hfields]
    exact if_pos ha
  · intro q n v hq hn hv
    have hfields : exactFields [2, 4, 4] (be 2 q ++ be 4 n ++ be 4 v) = some [q, n, v] := exactFields_of_lead (by
      simp [List.append_assoc, leadFields_be hq, leadFields_be hn, leadFields_be_end hv])
    unfold parseSkim
    rw [hfields]
  · intro q n hq hn
    have hfields : exactFields [2, 4] (be 2 q ++ be 4 n) = some [q, n] := exactFields_of_lead (by
      simp [leadFields_be hq, leadFields_be_end hn])
    unfold parseReceipt
    rw [hfields]
  · intro n hn
    have hfields : exactFields [4] (be 4 n) = some [n] := exactFields_of_lead (by simp [leadFields_be_end hn])
    unfold parseSeal
    rw [hfields]
  · intro q ps hq hlen hcounts
    have hpairs : (ps.flatMap fun x => be 1 x.1.val ++ be 2 x.2) = (ps.map fun x => (x.1.val, x.2)).flatMap fun x => be 1 x.1 ++ be 2 x.2 := by
      simp [List.flatMap_map]
    have hread := exactPairs_flatMap (w := 2) (ps := ps.map fun x => (x.1.val, x.2)) (by
      simp only [List.mem_map, forall_exists_index, and_imp, forall_apply_eq_imp_iff₂]
      intro x hx
      have := hcounts x hx
      omega)
    rw [List.length_map] at hread
    have hlen : ps.length < 256 ^ 1 := by omega
    have hall : (ps.map fun x => ((x.1.val, x.2) : Nat × Nat)).all (fun p => p.2 ≤ 9999) = true := by
      simpa using fun a b hab => hcounts (a, b) hab
    unfold parseDeclare
    rw [hpairs]
    simp only [List.append_assoc, leadFields_be hq, leadFields_be hlen, leadFields_nil, Option.map_some, hread, hall, if_true, codedPairs_map]
  · intro i n hi hn
    have hfields : exactFields [1, 1, 4] (be 1 0 ++ be 1 i ++ be 4 n) = some [0, i, n] := exactFields_of_lead (by
      rw [List.append_assoc, leadFields_be (w := 1) (n := 0) (by omega), leadFields_be (w := 1) (n := i) (by omega), leadFields_be_end hn]
      rfl)
    unfold parseMakeUpFloat
    rw [hfields]
  · intro n ps hn hlen hps
    have hfields : leadFields [1, 4, 1] (be 1 1 ++ be 4 n ++ be 1 ps.length ++ ps.flatMap fun x => be 1 x.1 ++ be 4 x.2) =
        some ([1, n, ps.length], ps.flatMap fun x => be 1 x.1 ++ be 4 x.2) := by
      rw [List.append_assoc, List.append_assoc, leadFields_be (w := 1) (n := 1) (by omega), leadFields_be hn,
        leadFields_be (w := 1) (n := ps.length) (by omega)]
      rfl
    unfold parseMakeUpConsignment
    rw [hfields]
    dsimp only
    rw [if_pos hlen, exactPairs_flatMap hps]
    rfl
  · intro c a u r hc ha hu hr
    have hfields : exactFields [1, 2, 2, 2] (be 1 c ++ be 2 a ++ be 2 u ++ be 2 r) = some [c, a, u, r] := exactFields_of_lead (by
      simp [List.append_assoc, leadFields_be (w := 1) (n := c) (by omega), leadFields_be ha, leadFields_be hu, leadFields_be_end hr])
    unfold parseBatch
    rw [hfields]
  · intro x c n res sus hx hc hn
    have hflags : res.toNat + 2 * sus.toNat < 256 ^ 1 ∧ (res.toNat + 2 * sus.toNat).testBit 0 = res ∧
        (res.toNat + 2 * sus.toNat).testBit 1 = sus := by
      cases res <;> cases sus <;> decide
    obtain ⟨hlt, hres, hsus⟩ := hflags
    have hfields : exactFields [1, 1, 2, 1] (be 1 x ++ be 1 c ++ be 2 n ++ be 1 (res.toNat + 2 * sus.toNat)) =
        some [x, c, n, res.toNat + 2 * sus.toNat] := exactFields_of_lead (by
      rw [List.append_assoc, List.append_assoc, leadFields_be (w := 1) (n := x) (by omega), leadFields_be (w := 1) (n := c) (by omega), leadFields_be hn,
        leadFields_be_end hlt]
      rfl)
    unfold parseHandKey
    rw [hfields]
    dsimp only
    rw [hres, hsus]
  · intro n v hn hv
    have hfields : exactFields [4, 4] (be 4 n ++ be 4 v) = some [n, v] := exactFields_of_lead (by simp [leadFields_be hn, leadFields_be_end hv])
    unfold parseReceive
    rw [hfields]
  · intro n hn
    have hfields : exactFields [4] (be 4 n) = some [n] := exactFields_of_lead (by simp [leadFields_be_end hn])
    unfold parseAnnounce parseSeal
    rw [hfields]
  · intro x hx
    have hfields : exactFields [1] (be 1 x) = some [x] := exactFields_of_lead (by simp [leadFields_be_end (w := 1) (n := x) (by omega)])
    unfold parseSessionNumber
    rw [hfields]
  · exact fun _ => rfl
  · intro f s
    have hbodies : (be 1 0 : List Byte) = [0#8] ∧ (be 1 1 : List Byte) = [1#8] := ⟨rfl, rfl⟩
    rw [hbodies.1, hbodies.2]
    refine ⟨fun h => ?_, fun h => ?_, ?_⟩
    · unfold doorJob doorOpenJob
      rw [h, if_neg (by decide), if_pos rfl]
    · unfold doorJob doorClosedJob
      rw [if_pos h, if_pos h]
    · simp [isDoorClosed, isJob]

end Sys2Proof.Machine.Effects

/-! PROOF. The figures of the stock and of the rebalance: additions with carry and float draws (R12 to R14), face order (R8), what is wanted, granted,
issued and skimmed of a code (R64 to R66). -/

namespace Sys2Proof.Machine.Effects

open Sys2Proof Sys2Proof.Machine Sys2Proof.Machine.Takings Sys2Proof.Machine.TallyCount

section
variable {s : State} {d : Denom} {r : StockRec} {n : Nat}

/-! ## Additions (R12, R13) -/

theorem addPieces_pos (hn : 0 < n) : addPieces d r n = { r with loose := (r.loose + n) % d.strap, straps := r.straps + (r.loose + n) / d.strap } :=
  if_neg (Nat.ne_of_gt hn)

theorem additionRefused_iff (hn : 0 < n) :
    additionRefused d r n = true ↔ Config.top32 < r.loose + n ∨ Config.top32 < (addPieces d r n).straps := by
  rw [addPieces_pos hn]
  simp [additionRefused, Nat.ne_of_gt hn]

/-! ## Face order (R8) -/

theorem faceOrder_congr {t : State} (h : t.denoms = s.denoms) : faceOrder t = faceOrder s := by
  have hinsert (c : Fin 12) (l : List (Fin 12)) : insertFace t c l = insertFace s c l := by
    induction l with
    | nil => rfl
    | cons d rest ih => simp only [insertFace, h, ih]
  simp only [faceOrder, hinsert, h]

theorem stockOrder_congr {t : State} (h : t.denoms = s.denoms) : stockOrder t = stockOrder s := by
  unfold stockOrder
  rw [faceOrder_congr h, h]

/-- In the order of the STOCK lines what stands before an enabled code is enabled too, with a face as high. -/
def FaceBefore (s : State) (a b : Fin 12) : Prop := s.denoms[b].enabled = true → s.denoms[a].enabled = true ∧ s.denoms[b].face ≤ s.denoms[a].face

theorem insertFace_sorted (c : Fin 12) {l : List (Fin 12)} (h : l.Pairwise fun a b => s.denoms[b].face ≤ s.denoms[a].face) :
    (insertFace s c l).Pairwise fun a b => s.denoms[b].face ≤ s.denoms[a].face := by
  induction l with
  | nil => exact List.pairwise_singleton _ _
  | cons d rest ih =>
    obtain ⟨hd, hrest⟩ := List.pairwise_cons.mp h
    unfold insertFace
    split
    · next hle =>
      refine List.pairwise_cons.mpr ⟨fun b hb => ?_, ih hrest⟩
      rcases List.mem_cons.mp ((insertFace_perm s c rest).mem_iff.mp hb) with rfl | hb
      · exact hle
      · exact hd b hb
    · next hlt =>
      refine List.pairwise_cons.mpr ⟨fun b hb => ?_, h⟩
      rcases List.mem_cons.mp hb with rfl | hb
      · exact (Nat.lt_of_not_le hlt).le
      · exact (hd b hb).trans (Nat.lt_of_not_le hlt).le

theorem foldl_insertFace_sorted (cs : List (Fin 12)) {l : List (Fin 12)} (h : l.Pairwise fun a b => s.denoms[b].face ≤ s.denoms[a].face) :
    (cs.foldl (fun l c => insertFace s c l) l).Pairwise fun a b => s.denoms[b].face ≤ s.denoms[a].face := by
  induction cs generalizing l with
  | nil => exact h
  | cons c cs ih => exact ih (insertFace_sorted c h)

theorem faceOrder_sorted (s : State) : (faceOrder s).Pairwise fun a b => s.denoms[b].face ≤ s.denoms[a].face :=
  foldl_insertFace_sorted _ .nil

theorem stockOrder_sorted (s : State) : (stockOrder s).Pairwise (FaceBefore s) := by
  have hdisabled (b : Fin 12) (hb : b ∈ codes.filter fun c => !s.denoms[c].enabled) : s.denoms[b].enabled = false := by
    simpa using (List.mem_filter.mp hb).2
  refine List.pairwise_append.mpr ⟨?_, ?_, fun a _ b hb he => ?_⟩
  · exact (faceOrder_sorted s).imp_of_mem fun ha _ hle _ => ⟨CapLoop.mem_faceOrder.mp ha, hle⟩
  · exact List.pairwise_of_forall_mem_list fun a _ b hb he => absurd he (by rw [hdisabled b hb]; decide)
  · exact absurd he (by rw [hdisabled b hb]; decide)

/-- A refused close names the failing enabled code before which, in face order, none fails. -/
theorem closeRefused_first {accepted suspect : Vector Nat 12} {c c' : Fin 12} (h : closeRefused s accepted suspect = some c')
    (hc : additionRefused s.denoms[c] s.stock[c] accepted[c] = true) (henabled : s.denoms[c].enabled = true)
    (hfirst : ∀ k : Fin 12, k ≠ c → s.denoms[k].enabled = true → s.denoms[c].face ≤ s.denoms[k].face →
      additionRefused s.denoms[k] s.stock[k] accepted[k] = false ∧ s.stock[k].suspect + suspect[k] ≤ Config.top32) : c' = c := by
  obtain ⟨hfails, before, after, horder, hpass⟩ := closeRefused_some h
  by_contra hne
  have hafter : c ∈ after := by
    have hmem := mem_stockOrder s c
    rw [horder] at hmem
    rcases List.mem_append.mp hmem with hmem | hmem
    · rw [(hpass c hmem).1] at hc
      exact absurd hc (by decide)
    · exact (List.mem_cons.mp hmem).resolve_left fun heq => hne heq.symm
  have hsorted := stockOrder_sorted s
  rw [horder] at hsorted
  obtain ⟨henabled', hface⟩ := (List.pairwise_cons.mp (List.pairwise_append.mp hsorted).2.1).1 c hafter henabled
  obtain ⟨hadd, hsuspect⟩ := hfirst c' hne henabled' hface
  rcases hfails with hfails | hfails
  · rw [hadd] at hfails
    exact absurd hfails (by decide)
  · exact absurd hsuspect (Nat.not_le.mpr hfails)

/-! ## The two requests that add (R17, R106) -/

theorem restockJob_refused {f : Taken} {b : Bag} {counts : Vector Nat 12} {c : Fin 12} (hparse : parseSeal f.frame.body = some n)
    (hfind : findBag s n = some b) (hkind : b.kind = .floatBag ∨ b.kind = .consignment) (hstate : b.state = .madeUp) (hcounts : b.counts = some counts)
    (hrefused : additionRefused s.denoms[c] s.stock[c] counts[c] = true) : restockJob f s = (s, .verdict .countLimit none) := by
  have hmove : moveRestock s.seconds b = .ok (b.moved .restocked s.seconds) := by
    unfold moveRestock
    rcases hkind with hk | hk <;> rw [hk, hstate] <;> rfl
  have hcountOf : (Vector.ofFn fun k => b.countOf k) = counts := row_ext fun k => by
    rw [ofFn_row]
    unfold Bag.countOf
    rw [hcounts]
  unfold restockJob
  rw [hparse]
  dsimp only
  rw [hfind]
  dsimp only
  rw [hmove]
  dsimp only
  rw [hcountOf]
  cases hfirst : firstRefused s counts with
  | some _ => rfl
  | none =>
    have := firstRefused_none.mp hfirst c
    rw [hrefused] at this
    cases this

/-- The checks before the counts passed, a close goes by the register's range check (R106). -/
theorem bagCloseRule_counts {x : Fin 4} {node : Byte} {c : Fin 12} (hstate : s.sessions[x].state = .counting) (hnode : s.sessions[x].node = node)
    (hrejects : s.sessions[x].unresolved = 0) (hrefused : closeRefused s s.sessions[x].accepted s.sessions[x].suspect = some c) :
    bagCloseRule x node s = (s, .verdict .countLimit (num c.val)) := by
  unfold bagCloseRule
  dsimp only
  rw [if_neg fun h => h hstate, if_neg fun h => h hnode, if_neg (by rw [hrejects]; exact Nat.lt_irrefl 0), hrefused]

theorem restartIdle_row (x : Fin 4) (s : State) (hstate : s.sessions[x].state = .counting) :
    (restartIdle x s).sessions[x] = { s.sessions[x] with timer := idleDeadline s } := by
  unfold restartIdle
  rw [if_pos hstate]
  show (put s.sessions x _)[x] = _
  rw [put_get, if_pos rfl]

end

section
variable {s u : State} {p : Port} {w : Window}

theorem answered_weaken {code : Code} {d : Option Word32} (h : Answered s u p w code d) : Answered s u p w code none := by
  obtain ⟨⟨before, x, hfilled, -⟩, hrelayed⟩ := h
  exact ⟨⟨before, x, hfilled, nofun⟩, hrelayed⟩

/-- A RESTOCK with a count that would pass its range. -/
theorem restock_countLimit {n : Nat} {b : Bag} {counts : Vector Nat 12} {c : Fin 12} (h : TakenAs s p w .restock none)
    (hparse : parseSeal w.frame.body = some n) (hfind : findBag s n = some b) (hkind : b.kind = .floatBag ∨ b.kind = .consignment)
    (hstate : b.state = .madeUp) (hcounts : b.counts = some counts) (hrefused : additionRefused s.denoms[c] s.stock[c] counts[c] = true) :
    RefusedFrame .restock s p w .countLimit none := by
  refine refused_of_leaves (fun p s => rfl) h (isJob_of_takenAs h) fun s0 hs0 => ?_
  have hdenoms : s0.denoms = s.denoms := hs0 .denoms (by cases p <;> decide)
  have hstock : s0.stock = s.stock := hs0 .stock (by cases p <;> decide)
  exact restockJob_refused hparse ((findBag_of_leaves hs0 (by cases p <;> decide)).trans hfind) hkind hstate hcounts (by rw [hdenoms, hstock]; exact hrefused)

/-- A BAG_CLOSE with a count that would pass its range, by the code it names. -/
theorem bagClose_countLimit {x : Fin 4} {c : Fin 12} (h : TakenAs s p w .bagClose none) (hslot : slotOf s w.frame.src = x) (hbody : w.frame.body = [])
    (hstate : s.sessions[x].state = .counting) (hnode : s.sessions[x].node = w.frame.src) (hrejects : s.sessions[x].unresolved = 0)
    (hrefused : closeRefused s s.sessions[x].accepted s.sessions[x].suspect = some c) :
    CountsNothing .bagClose s p w x True .countLimit (num c.val) := by
  refine counts_nothing (isKind := isJob .bagClose) (fun p s => rfl) h (isJob_of_takenAs h) (fun _ => hstate) (fun _ => ?_) fun hf => absurd trivial hf
  have hslot' : slotOf (s.setRx p .idle) w.frame.src = x := (slotOf_congr (by simp) _).trans hslot
  have hacts : counterActs x w.frame.src (s.setRx p .idle) = restartIdle x (s.setRx p .idle) := by
    unfold counterActs
    rw [if_pos (by rw [State.setRx_sessions]; exact hnode)]
  have hleaves := restartIdle_leaves x (s.setRx p .idle)
  have hdenoms : (restartIdle x (s.setRx p .idle)).denoms = s.denoms := (hleaves .denoms (by decide)).trans (by simp)
  have hstock : (restartIdle x (s.setRx p .idle)).stock = s.stock := (hleaves .stock (by decide)).trans (by simp)
  have hrow := restartIdle_row x (s.setRx p .idle) (by rw [State.setRx_sessions]; exact hstate)
  have hsame : closeRefused (restartIdle x (s.setRx p .idle)) = closeRefused s := by
    funext accepted suspect
    unfold closeRefused
    rw [stockOrder_congr hdenoms, hdenoms, hstock]
  show bagCloseJob { w.taken p with pair := none } (s.setRx p .idle) = _
  unfold bagCloseJob
  dsimp only [Window.taken]
  rw [hslot', hbody]
  show bagCloseRule x w.frame.src (counterActs x w.frame.src (s.setRx p .idle)) = _
  rw [hacts]
  rw [State.setRx_sessions] at hrow
  exact bagCloseRule_counts (by rw [hrow]; exact hstate) (by rw [hrow]; exact hnode) (by rw [hrow]; exact hrejects) (by rw [hrow, hsame]; exact hrefused)

end

/-- Settles O14: an addition and a draw by their figures, the refused requests by the register's range check. -/
theorem stockFigures : Obligations.StockFigures := by
  unfold Obligations.StockFigures
  refine ⟨fun d r n hstrap hn => ⟨held_addPieces d r n, ?_, (addPieces_keeps d r n).1, (addPieces_keeps d r n).2, additionRefused_iff hn⟩,
    fun s counts c => ofFn_row _ c, fun p s w n b counts c h hparse hfind hkind hstate hcounts hrefused => ?_,
    fun p s w x c h hslot hbody hstate hnode hrejects hrefused => ?_, fun d r n hstrap hheld hreserved => ?_⟩
  · rw [addPieces_pos hn]
    exact Nat.mod_lt _ hstrap
  · obtain ⟨u, hu, hleaves, -, hanswered⟩ := restock_countLimit h hparse hfind hkind hstate hcounts hrefused
    exact ⟨u, hu, hleaves .stock (by decide), hleaves .acc (by decide), hanswered⟩
  · cases hclose : closeRefused s s.sessions[x].accepted s.sessions[x].suspect with
    | none =>
      have := (closeRefused_none.mp hclose c).1
      rw [hrefused] at this
      cases this
    | some c' =>
      obtain ⟨u, hu, hleaves, -, hsessions, hanswered⟩ := (bagClose_countLimit h hslot hbody hstate hnode hrejects hclose).1 trivial
      refine ⟨u, hu, hleaves .stock (by decide), hleaves .acc (by decide), ?_, answered_weaken hanswered, fun henabled hfirst => ?_⟩
      · rw [hsessions, put_get, if_pos rfl]
        exact hstate
      · rwa [← closeRefused_first hclose hrefused henabled hfirst]
  · obtain ⟨henough, hfewest⟩ := strapsBroken_spec hstrap r n
    have hdrawn := held_drawPieces hstrap hheld
    have hreserve : (drawPieces d r n).reserved = r.reserved - n := rfl
    exact ⟨hdrawn, by omega, by omega, hfewest r.straps hheld, henough, hfewest⟩

section
variable {s : State}

/-! ## The rebalance, code by code (R64 to R66) -/

theorem declaredCount_mem {ps : List (Fin 12 × Nat)} {c : Fin 12} {n : Nat} (h : (c, n) ∈ ps) (hn : (ps.map fun x => x.1).Nodup) :
    declaredCount ps c = n := by
  unfold declaredCount
  cases hfind : ps.find? fun p => p.1 = c with
  | none => exact absurd (List.find?_eq_none.mp hfind _ h) (by simp)
  | some x =>
    have hx : x.1 = c := by simpa using List.find?_some hfind
    have heq := List.inj_on_of_nodup_map hn (List.mem_of_find?_eq_some hfind) h hx
    rw [heq]

theorem declaredCount_absent {ps : List (Fin 12 × Nat)} {c : Fin 12} (h : ∀ x ∈ ps, x.1 ≠ c) : declaredCount ps c = 0 := by
  unfold declaredCount
  rw [List.find?_eq_none.mpr (by simpa using h)]

/-- The packets wanted are the fewest that fill the gap (R64). -/
theorem wantedPackets_eq {target count packet W : Nat} (hcount : count < target) (henough : target ≤ count + W * packet)
    (hfewest : count + W * packet < target + packet) : wantedPackets target count packet = W := by
  have hsucc : (W + 1) * packet = W * packet + packet := Nat.succ_mul W packet
  exact Nat.div_eq_of_lt_le (by omega) (by omega)

theorem grantedIssue_get (s : State) (t : Fin 160) (ps : List (Fin 12 × Nat)) (c : Fin 12) :
    (grantedIssue s t ps)[c] = grantedPackets s t ps c * s.denoms[c].packet := ofFn_row _ c

theorem shortStock_get (s : State) (t : Fin 160) (ps : List (Fin 12 × Nat)) (c : Fin 12) :
    (rebalance s t ps).shortStock[c] = shortOfStock s t ps c := ofFn_row _ c

theorem skim_get (s : State) (t : Fin 160) (ps : List (Fin 12 × Nat)) (c : Fin 12) : (rebalance s t ps).skim[c] = skimCount s t ps c := ofFn_row _ c

theorem rebalance_issue_le_granted (s : State) (t : Fin 160) (ps : List (Fin 12 × Nat)) (c : Fin 12) :
    (rebalance s t ps).issue[c] ≤ (grantedIssue s t ps)[c] := capReduce_le s _ _ _ _ c

/-- The reduction takes whole packets (R66). -/
theorem capReduce_packets (s : State) (cap : Nat) (l : List (Fin 12)) (issue : Vector Nat 12) (flags : Vector Bool 12) (c : Fin 12)
    (h : s.denoms[c].packet ∣ issue[c]) : s.denoms[c].packet ∣ (capReduce s cap l issue flags).1[c] := by
  induction l generalizing issue flags with
  | nil => exact h
  | cons k l ih =>
    unfold capReduce
    split
    · refine ih _ _ ?_
      rw [put_get]
      split
      · next hk =>
        subst hk
        exact Nat.dvd_sub h (Nat.dvd_mul_left _ _)
      · exact h
    · exact ih _ _ h

end

/-- Settles O15: the grant by the packets wanted and held, the issue by the reduction, flags and skim by their definitions. -/
theorem rebalanceWithinStock : Obligations.RebalanceWithinStock := by
  unfold Obligations.RebalanceWithinStock
  intro s t ps c hrange
  dsimp only
  have hle := rebalance_issue_le_granted s t ps c
  rw [grantedIssue_get, shortStock_get, skim_get] at *
  refine ⟨fun n hmem hnodup => declaredCount_mem hmem hnodup, declaredCount_absent, fun henabled hday hcount W henough hfewest => ?_, fun h => ?_, hle,
    rebalance_issue_le s t ps c, ?_, fun hcap => ?_, rfl, fun _ => rfl⟩
  · have hissues : issues s t ps c = true := by
      unfold issues
      rw [henabled]
      simpa [hday] using hcount
    have hwanted := wantedPackets_eq hcount henough hfewest
    unfold grantedPackets shortOfStock
    rw [if_pos hissues, hwanted, hissues]
    simp
  · have hissues : issues s t ps c = false := by
      unfold issues
      rcases h with h | h | h
      · rw [h, Bool.false_and, Bool.false_and]
      · rw [decide_eq_false (not_not.mpr h), Bool.and_false, Bool.false_and]
      · rw [decide_eq_false (Nat.not_lt.mpr h), Bool.and_false]
    have hgrant : grantedPackets s t ps c = 0 := by
      unfold grantedPackets
      rw [if_neg (by rw [hissues]; decide)]
    have hshort : shortOfStock s t ps c = false := by
      unfold shortOfStock
      rw [hissues]
      rfl
    rw [hgrant, Nat.zero_mul] at hle ⊢
    exact ⟨rfl, Nat.le_zero.mp hle, hshort⟩
  · refine Nat.mod_eq_zero_of_dvd (capReduce_packets s _ _ _ _ c ?_)
    rw [grantedIssue_get]
    exact Nat.dvd_mul_left _ _
  · unfold rebalance
    dsimp only
    rw [CapLoop.capReduce_of_within hcap]
    exact ⟨rfl, by simp⟩

end Sys2Proof.Machine.Effects

/-! PROOF. The till frames: the steps of R44 one by one, what a decided frame records of its sequence (R45), what each movement leaves of its drawer and
raises (R46 to R51). -/

namespace Sys2Proof.Machine.Effects

open Sys2Proof Sys2Proof.Machine Sys2Proof.Machine.Takings Sys2Proof.Machine.TallyCount

section
variable {α : Type} {s t u : State} {k : JobKind} {i : Fin 160} {parsed : Option α} {seq : α → Option Nat} {copy : Fin 160 → State → Answer}
  {job : Fin 160 → α → State → State × Answer} {f : Taken} {a : α} {q gap : Nat}

/-! ## The steps of R44 -/

/-- Steps 1 to 3 passed: the till is enabled at its own node, and no badge is missing (R44). -/
def Sourced (s : State) (f : Taken) (k : JobKind) (i : Fin 160) : Prop :=
  tillOf s f.frame.src = i ∧ (s.tills[i].enabled = true ∧ s.tills[i].node = f.frame.src) ∧ badgeMissing k s.tills[i] f.marks = false

theorem tillFrame_unparsed (hp : parsed = none) : tillFrame k parsed seq copy job f s = (s, .verdict .malformed (num 0)) := by
  subst hp
  rfl

theorem tillFrame_unknown (hp : parsed = some a) (ht : tillOf s f.frame.src = i) (h : s.tills[i].enabled = false ∨ s.tills[i].node ≠ f.frame.src) :
    tillFrame k parsed seq copy job f s = (unapplied k i s, .verdict .unknownNode (num i.val)) := by
  subst hp ht
  unfold tillFrame
  dsimp only
  rw [if_pos]
  rcases h with h | h
  · rw [h]
    rfl
  · rw [decide_eq_false h, Bool.and_false]
    rfl

theorem tillFrame_known (hp : parsed = some a) (ht : tillOf s f.frame.src = i) (henabled : s.tills[i].enabled = true)
    (hnode : s.tills[i].node = f.frame.src) : tillFrame k parsed seq copy job f s =
      if badgeMissing k s.tills[i] f.marks then (s, .verdict .witnessMissing (num s.tills[i].badge.toNat))
      else tillFrame k parsed seq copy job f s := by
  subst hp ht
  split
  · next hbadge =>
    unfold tillFrame
    dsimp only
    rw [if_neg (by rw [henabled, decide_eq_true hnode]; decide), if_pos hbadge]
  · rfl

/-- Step 5 and 6, for the frames without a number. -/
theorem tillFrame_unnumbered (hp : parsed = some a) (h : Sourced s f k i) (hq : seq a = none) :
    tillFrame k parsed seq copy job f s = tillSteps56 k i (job i a) s := by
  obtain ⟨ht, ⟨henabled, hnode⟩, hbadge⟩ := h
  subst hp ht
  unfold tillFrame
  dsimp only
  rw [if_neg (by rw [henabled, decide_eq_true hnode]; decide), if_neg (by rw [hbadge]; decide), hq]

/-- Step 4, for the frames with a number. -/
theorem tillFrame_duplicate (hp : parsed = some a) (h : Sourced s f k i) (hq : seq a = some q)
    (hs : sequenceCheck s.drawers[i] q f.crc = .duplicate) : tillFrame k parsed seq copy job f s = (s, copy i s) := by
  obtain ⟨ht, ⟨henabled, hnode⟩, hbadge⟩ := h
  subst hp ht
  unfold tillFrame
  dsimp only
  rw [if_neg (by rw [henabled, decide_eq_true hnode]; decide), if_neg (by rw [hbadge]; decide), hq]
  dsimp only
  rw [hs]

theorem tillFrame_conflict {last : Nat} (hp : parsed = some a) (h : Sourced s f k i) (hq : seq a = some q)
    (hs : sequenceCheck s.drawers[i] q f.crc = .conflict last) :
    tillFrame k parsed seq copy job f s = (s, .verdict .duplicateConflict (num last)) := by
  obtain ⟨ht, ⟨henabled, hnode⟩, hbadge⟩ := h
  subst hp ht
  unfold tillFrame
  dsimp only
  rw [if_neg (by rw [henabled, decide_eq_true hnode]; decide), if_neg (by rw [hbadge]; decide), hq]
  dsimp only
  rw [hs]

theorem tillFrame_passes (hp : parsed = some a) (h : Sourced s f k i) (hq : seq a = some q)
    (hs : sequenceCheck s.drawers[i] q f.crc = .passes gap) :
    tillFrame k parsed seq copy job f s = tillSteps56 k i (job i a) (recordSequence i q f.crc (raiseGap i gap s)) := by
  obtain ⟨ht, ⟨henabled, hnode⟩, hbadge⟩ := h
  subst hp ht
  unfold tillFrame
  dsimp only
  rw [if_neg (by rw [henabled, decide_eq_true hnode]; decide), if_neg (by rw [hbadge]; decide), hq]
  dsimp only
  rw [hs]

theorem sourced_setRx {p : Port} {w : Window} {pair : Option (Byte × Byte)} (h : TillSource s w k i) :
    Sourced (s.setRx p .idle) { w.taken p with pair := pair } k i := by
  obtain ⟨ht, henabled, hnode, hbadge⟩ := h
  refine ⟨(tillOf_congr (by simp) _).trans ht, by rw [State.setRx_tills]; exact ⟨henabled, hnode⟩, ?_⟩
  rw [State.setRx_tills]
  show badgeMissing k s.tills[i] w.marks = false
  unfold badgeMissing
  cases hn : needsBadge k
  · rfl
  · rcases hbadge hn with h | h
    · rw [h]
      rfl
    · rw [List.contains_iff_mem.mpr h, Bool.not_true, Bool.and_false]

end

section
variable {s t u v : State} {i : Fin 160} {q gap : Nat} {crc : Word16} {p : Port} {e : Event} {events : List Event}

/-! ## What a decided frame records (R45) -/

theorem event_kept (h : eventsBut events s t) (he : e ∉ events := by decide) (hi : e.indirect = false := by rfl) : t.event e = s.event e := by
  obtain ⟨hd, hc, hp⟩ := h.2 e he
  have hn := h.1 e
  have hp := hp hi
  cases ht : t.event e
  cases hs : s.event e
  rw [ht, hs] at hd hc hn hp
  simp_all

/-- The number and the check of the last frame, and SEQUENCE_GAP, stay. -/
def Recorded (i : Fin 160) (s t : State) : Prop :=
  t.drawers[i].lastSeq = s.drawers[i].lastSeq ∧ t.drawers[i].lastCrc = s.drawers[i].lastCrc ∧ t.event .sequenceGap = s.event .sequenceGap

theorem Recorded.of_leaves {ex : List Part} (h : unchangedBut ex s t) (hev : t.event .sequenceGap = s.event .sequenceGap)
    (hex : .drawers ∉ ex := by decide) : Recorded i s t := by
  have hd : t.drawers = s.drawers := h .drawers hex
  exact ⟨by rw [hd], by rw [hd], hev⟩

theorem Recorded.trans (h : Recorded i s t) (k : Recorded i t u) : Recorded i s u :=
  ⟨k.1.trans h.1, k.2.1.trans h.2.1, k.2.2.trans h.2.2⟩

theorem setDrawer_recorded (j : Fin 160) {d : Drawer} (hseq : d.lastSeq = s.drawers[j].lastSeq) (hcrc : d.lastCrc = s.drawers[j].lastCrc) :
    Recorded i s (setDrawer j d s) := by
  have hrow := setDrawer_get j i d s
  refine ⟨?_, ?_, rfl⟩ <;> rw [hrow] <;> split
  · next h => subst h; exact hseq
  · rfl
  · next h => subst h; exact hcrc
  · rfl

/-- A re-evaluation changes the state and the flag of its drawer (R49, R50). -/
theorem reevaluate_row (i : Fin 160) (s : State) : (reevaluate i s).drawers[i] =
    { s.drawers[i] with state := (reevaluate i s).drawers[i].state, due := (reevaluate i s).drawers[i].due } :=
  (holdAndPickupRule i s).2.2.1

theorem reevaluate_recorded (j : Fin 160) (s : State) : Recorded i s (reevaluate j s) := by
  have hevent : (reevaluate j s).event .sequenceGap = s.event .sequenceGap := event_kept (reevaluate_events j s)
  by_cases h : i = j
  · subst h
    have hrow := reevaluate_row i s
    refine ⟨?_, ?_, hevent⟩ <;> rw [hrow]
  · have hother := (holdAndPickupRule j s).2.2.2.1 i h
    exact ⟨by rw [hother], by rw [hother], hevent⟩

theorem applyMovement_drawers (i : Fin 160) (g : Drawer → Drawer) (s : State) : (applyMovement i g s).drawers = put s.drawers i (g s.drawers[i]) := by
  unfold applyMovement
  split <;> rfl

theorem raisedIf_pos {b : Bool} {n : Nat} (h : b = true) : raisedIf b e n s =
    { s.event e with pending := true, detail := BitVec.ofNat 32 n, count := min 255 ((s.event e).count + 1) } := if_pos h

theorem raisedIf_neg {b : Bool} {n : Nat} (h : b = false) : raisedIf b e n s = s.event e := if_neg (Bool.eq_false_iff.mp h)

theorem applyMovement_event (i : Fin 160) (g : Drawer → Drawer) (s : State) (e : Event) : (applyMovement i g s).event e =
    if Event.expectedSaturated = e then raisedIf (!s.drawers[i].saturated && (g s.drawers[i]).saturated) .expectedSaturated i.val s else s.event e := by
  unfold applyMovement
  split
  · next h =>
    rw [raisedIf_pos h]
    exact raise_event _ _ _ _
  · next h =>
    rw [raisedIf_neg (Bool.eq_false_iff.mpr h)]
    split
    · next he =>
      rw [← he]
      rfl
    · rfl

theorem moveDrawer_recorded (j : Fin 160) {g : Drawer → Drawer} (hseq : ∀ d, (g d).lastSeq = d.lastSeq) (hcrc : ∀ d, (g d).lastCrc = d.lastCrc)
    (s : State) : Recorded i s (moveDrawer j g s) := by
  have hmove : Recorded i s (applyMovement j g s) := by
    have hset := setDrawer_recorded (i := i) j (hseq s.drawers[j]) (hcrc s.drawers[j])
    unfold Recorded at hset ⊢
    rw [applyMovement_drawers, applyMovement_event, if_neg (by decide)]
    exact hset
  exact hmove.trans (reevaluate_recorded j _)

theorem raiseGap_event (i : Fin 160) (gap : Nat) (s : State) (e : Event) : (raiseGap i gap s).event e =
    if Event.sequenceGap = e then raisedIf (gap != 0) .sequenceGap (i.val * 65536 + gap) s else s.event e := by
  unfold raiseGap
  split
  · next hgap =>
    rw [raisedIf_neg (by simpa using hgap)]
    split
    · next he => rw [← he]
    · rfl
  · next hgap =>
    rw [raisedIf_pos (by simpa using hgap)]
    exact raise_event _ _ _ _

/-- The state of a till frame that reaches steps 5 and 6, event by event. -/
theorem tillDecided_event (s : State) (p : Port) (i : Fin 160) (q gap : Nat) (crc : Word16) (e : Event) : (tillDecided s p i q gap crc).event e =
    if Event.sequenceGap = e then raisedIf (gap != 0) .sequenceGap (i.val * 65536 + gap) s else s.event e := by
  rw [tillDecided_eq, State.setDrawers_event, raiseGap_event]
  unfold raisedIf
  rw [State.setRx_event, State.setRx_event]

theorem tillDecided_leaves (s : State) (p : Port) (i : Fin 160) (q gap : Nat) (crc : Word16) :
    unchangedBut [Part.ofPort p, .events, .drawers] s (tillDecided s p i q gap crc) :=
  unchangedBut_mono (unchangedBut_trans (setRx_leaves p .idle s) (unchangedBut_trans (raiseGap_leaves i gap _) (recordSequence_leaves i q crc _)))
    (by simp)

theorem tillDecided_out (s : State) (p : Port) (i : Fin 160) (q gap : Nat) (crc : Word16) : (tillDecided s p i q gap crc).floor.out = s.floor.out := by
  rw [tillDecided_eq]
  have hgap : (raiseGap i gap (s.setRx p .idle)).floor = (s.setRx p .idle).floor := raiseGap_leaves i gap _ .floor (by decide)
  show (raiseGap i gap (s.setRx p .idle)).floor.out = _
  rw [hgap]
  exact setRx_out s p .floor .idle

theorem tillDecided_drawers (s : State) (p : Port) (i : Fin 160) (q gap : Nat) (crc : Word16) :
    (tillDecided s p i q gap crc).drawers = put s.drawers i { s.drawers[i] with lastSeq := some q, lastCrc := some crc } := by
  rw [tillDecided_eq]
  rfl

theorem tillDecided_record (s : State) (p : Port) (i : Fin 160) (q gap : Nat) (crc : Word16) :
    (tillDecided s p i q gap crc).drawers[i].lastSeq = some q ∧ (tillDecided s p i q gap crc).drawers[i].lastCrc = some crc ∧
      (tillDecided s p i q gap crc).event .sequenceGap = raisedIf (gap != 0) .sequenceGap (i.val * 65536 + gap) s := by
  rw [tillDecided_drawer, tillDecided_event, if_pos rfl]
  exact ⟨rfl, rfl, rfl⟩

/-! ## Re-evaluations of one drawer are alike -/

/-- A re-evaluation reads the drawer, the limits of its till and the room in the Floor Port's queue. -/
theorem reevaluate_congr (hrow : t.drawers[i] = s.drawers[i]) (htills : t.tills = s.tills) (hout : t.floor.out = s.floor.out)
    (hevents : ∀ e ∈ [Event.drawerHold, .queueFull, .pickupDue], t.event e = s.event e) :
    (reevaluate i t).drawers[i] = (reevaluate i s).drawers[i] ∧
    (∀ e ∈ [Event.drawerHold, .queueFull, .pickupDue], (reevaluate i t).event e = (reevaluate i s).event e) ∧
    (reevaluate i t).floor.out = (reevaluate i s).floor.out := by
  obtain ⟨st, hst, hdrawers, hholds⟩ := compareHold_spec i s
  obtain ⟨st', hst', hdrawers', hholds'⟩ := compareHold_spec i t
  rw [hrow, htills, ← hst] at hst'
  subst hst'
  have hheld : (compareHold i t).drawers[i] = (compareHold i s).drawers[i] := by rw [hdrawers', hdrawers, if_pos rfl, if_pos rfl, hrow]
  have hfloor : (compareHold i t).floor.out = (compareHold i s).floor.out := by
    rw [show (compareHold i t).floor = t.floor from compareHold_leaves i t .floor (by decide),
      show (compareHold i s).floor = s.floor from compareHold_leaves i s .floor (by decide), hout]
  have htills' : (compareHold i t).tills = (compareHold i s).tills := by
    rw [show (compareHold i t).tills = t.tills from compareHold_leaves i t .tills (by decide),
      show (compareHold i s).tills = s.tills from compareHold_leaves i s .tills (by decide), htills]
  have hheldEvents (e : Event) (he : e ∈ [Event.drawerHold, .queueFull, .pickupDue]) : (compareHold i t).event e = (compareHold i s).event e := by
    rw [hholds', hholds, hrow, hevents e he, hevents .drawerHold (by decide)]
  have hdue : pickupDue (compareHold i t) i = pickupDue (compareHold i s) i := by
    unfold pickupDue surplus
    rw [hheld, htills']
  have hsurplus : surplus (compareHold i t) i = surplus (compareHold i s) i := by
    unfold surplus
    rw [hheld, htills']
  obtain ⟨hrows, hraised, hport⟩ := comparePickup_spec i (compareHold i s)
  obtain ⟨hrows', hraised', hport'⟩ := comparePickup_spec i (compareHold i t)
  refine ⟨?_, fun e he => ?_, ?_⟩
  · refine (hrows' i).trans (Eq.trans ?_ (hrows i).symm)
    rw [if_pos rfl, if_pos rfl, hheld, hdue]
  · refine (hraised' e).trans (Eq.trans ?_ (hraised e).symm)
    rw [hheld, hdue, hfloor, hheldEvents e he]
  · refine (congrArg LinePort.out hport').trans (Eq.trans ?_ (congrArg LinePort.out hport).symm)
    rw [hheld, hdue, hsurplus, hfloor]
    split
    · rfl
    · exact hfloor

end

section
variable {s v u : State} {p : Port} {w : Window} {i : Fin 160} {d : Drawer} {code : Code} {x : Option Word32}

/-! ## A drawer changed and re-evaluated behind a taking (R46 to R51) -/

theorem verdict_kind (a : Answer) (f : Taken) (y : Word32) (ha : a = .verdict code x) : (a.frameOf f y).kind = kindVerdict := by
  subst ha
  rfl

/-- What a frame whose rule ends in a re-evaluation leaves of its drawer and raises. -/
theorem FrameDone.reevaluated (h : FrameDone s p w (.verdict code x) (reevaluate i v) u) (hrow : v.drawers[i] = d) (htills : v.tills = s.tills)
    (hout : v.floor.out = s.floor.out) (hevents : ∀ e ∈ [Event.drawerHold, .queueFull, .pickupDue], v.event e = s.event e)
    (hsat : v.event .expectedSaturated = raisedIf (!s.drawers[i].saturated && d.saturated) .expectedSaturated i.val s) : Reevaluated s u i d := by
  have hput : (put s.drawers i d)[i] = d := by rw [put_get, if_pos rfl]
  obtain ⟨hdrawer, hraised, hfloor⟩ := reevaluate_congr (t := v) (s := s.setDrawers (put s.drawers i d)) (i := i) (hrow.trans hput.symm) htills hout hevents
  have hdrawers : u.drawers = (reevaluate i v).drawers := h.part .drawers
  refine ⟨by rw [hdrawers]; exact hdrawer, ?_, ?_, ?_, ?_, ?_⟩
  · rw [h.event .drawerHold]
    exact hraised _ (by decide)
  · rw [h.event .queueFull]
    exact hraised _ (by decide)
  · rw [h.pickupDue, hraised _ (by decide)]
  · rw [h.event .expectedSaturated, ← hsat]
    exact event_kept (reevaluate_events i v)
  · rw [← hfloor]
    obtain ⟨y, hfilled, -⟩ := h.answer
    cases p with
    | floor => exact ⟨_, hfilled, fun f hf => by rw [List.mem_singleton.mp hf]; rfl⟩
    | room => exact ⟨[], by rw [List.append_nil]; exact h.other .floor (by decide), fun f hf => absurd hf List.not_mem_nil⟩

/-- What a frame whose rule ends in a movement leaves of its drawer and raises. -/
theorem FrameDone.moved {g : Drawer → Drawer} (h : FrameDone s p w (.verdict code x) (moveDrawer i g v) u) (hrow : v.drawers[i] = d)
    (hsat : d.saturated = s.drawers[i].saturated) (htills : v.tills = s.tills) (hout : v.floor.out = s.floor.out)
    (hevents : ∀ e, e ≠ .sequenceGap → v.event e = s.event e) : Reevaluated s u i (g d) := by
  have hleaves := applyMovement_leaves i g v
  refine h.reevaluated (v := applyMovement i g v) ?_ ((hleaves .tills (by decide)).trans htills) ?_ (fun e he => ?_) ?_
  · rw [applyMovement_drawers, put_get, if_pos rfl, hrow]
  · rw [show (applyMovement i g v).floor = v.floor from hleaves .floor (by decide), hout]
  · rw [applyMovement_event, if_neg (by rintro rfl; exact absurd he (by decide))]
    exact hevents e (by rintro rfl; exact absurd he (by decide))
  · rw [applyMovement_event, if_pos rfl, hrow, hsat]
    unfold raisedIf
    rw [hevents _ (by decide)]

/-- A changed and re-evaluated drawer keeps what the change gave it, but for state and flag. -/
theorem reevaluated_row (h : Reevaluated s u i d) : u.drawers[i] = { d with state := u.drawers[i].state, due := u.drawers[i].due } := by
  have hrow := reevaluate_row i (s.setDrawers (put s.drawers i d))
  rw [← h.1] at hrow
  have hput : (s.setDrawers (put s.drawers i d)).drawers[i] = d := by
    show (put s.drawers i d)[i] = d
    rw [put_get, if_pos rfl]
  rwa [hput] at hrow

/-- The state of a changed and re-evaluated drawer (R49). -/
theorem reevaluated_state (h : Reevaluated s u i d) : u.drawers[i].state =
    if d.state = .opened ∧ (s.tills[i].hardLimit : Int) ≤ d.expected then .hold
    else if d.state = .hold ∧ d.expected < s.tills[i].hardLimit then .opened else d.state := by
  have hstate := (holdAndPickupRule i (s.setDrawers (put s.drawers i d))).1
  have hput : (s.setDrawers (put s.drawers i d)).drawers[i] = d := by
    show (put s.drawers i d)[i] = d
    rw [put_get, if_pos rfl]
  rw [hput, ← h.1] at hstate
  exact hstate

/-- The answer of a frame that changed its drawer: HOLD or ACCEPTED, with expected cash (R47). -/
theorem FrameDone.drawerAnswered {s' : State} (h : FrameDone s p w (drawerAnswer i s') s' u) :
    Answered s u p w (if u.drawers[i].state = .hold then .hold else .accepted) (signed u.drawers[i].expected) := by
  have hdrawers : u.drawers = s'.drawers := h.part .drawers
  rw [hdrawers]
  exact h.answered

end

end Sys2Proof.Machine.Effects

/-! PROOF. The till frames at their drawers: copies, conflicts and passes (R45), the movements and the openings applied (R46 to R51, R54), the refusals of
steps 1, 2, 3 and 5 (R44, R59). -/

namespace Sys2Proof.Machine.Effects

open Sys2Proof Sys2Proof.Machine Sys2Proof.Machine.Takings Sys2Proof.Machine.TallyCount

section
variable {s s' u : State} {p : Port} {w : Window} {i : Fin 160} {k : JobKind} {x : JobKind × (Port → Instr)} {pair : Option (Byte × Byte)}
  {q gap : Nat} {a : Answer}

/-! ## The sequence check (R45) -/

theorem sequenceCheck_first {d : Drawer} (q : Nat) (crc : Word16) (h : d.lastSeq = none) : sequenceCheck d q crc = .passes 0 := by
  unfold sequenceCheck
  rw [h]

theorem sequenceCheck_again {d : Drawer} {last : Nat} (crc : Word16) (h : d.lastSeq = some last) :
    sequenceCheck d last crc = if d.lastCrc = some crc then .duplicate else .conflict last := by
  unfold sequenceCheck
  rw [h]
  exact if_pos rfl

theorem sequenceCheck_other {d : Drawer} {last : Nat} (crc : Word16) (h : d.lastSeq = some last) (hne : q ≠ last) :
    sequenceCheck d q crc = .passes ((q + 65536 - last - 1) % 65536) := by
  unfold sequenceCheck
  rw [h]
  exact if_neg hne

/-! ## The seven till frames -/

theorem Recorded.quiet {ex : List Part} (h : unchangedBut ex s u) (hex : .drawers ∉ ex := by decide) (hev : .events ∉ ex := by decide) : Recorded i s u :=
  .of_leaves h (congrArg (fun e => (e[Event.sequenceGap.row] : EventRec)) (h .events hev)) hex

theorem setOpenOrder_recorded (t : Fin 160) (o : Option (Fin 24)) (s : State) : Recorded i s (setOpenOrder t o s) := setDrawer_recorded t rfl rfl

theorem actOnRebalance_recorded (t : Fin 160) (j : Fin 24) (q : Nat) (ps : List (Fin 12 × Nat)) (s : State) :
    Recorded i s (actOnRebalance t j q ps s).1 := by
  have hraised (r : Rebalance) (n : Nat) : Recorded i s (raiseShort t r (compareDeclared t n s)) :=
    (Recorded.of_leaves (compareDeclared_leaves t n s) (event_kept (compareDeclared_events t n s))).trans
      (.of_leaves (raiseShort_leaves t r _) (event_kept (raiseShort_events t r _)))
  have hreserved (o : Order) (v : Vector Nat 12) (u : State) : Recorded i u (reserve v (setOrder j o u)) :=
    .quiet (unchangedBut_trans (setOrder_leaves j o u) (reserve_leaves v _))
  unfold actOnRebalance
  dsimp only
  split
  · exact ((hraised _ _).trans (hreserved _ _ _)).trans (setOpenOrder_recorded t _ _)
  · exact hraised _ _

theorem declareRule_recorded (t : Fin 160) (b : Nat × List (Fin 12 × Nat)) (s : State) : Recorded i s (declareRule t b s).1 := by
  have hstay : Recorded i s s := ⟨rfl, rfl, rfl⟩
  unfold declareRule
  split; · exact hstay
  split; · exact hstay
  split; · exact hstay
  split; · exact hstay
  exact actOnRebalance_recorded t _ _ _ s

theorem freeOrder_recorded (j : Fin 24) (o : OrderOutcome) (s : State) : Recorded i s (freeOrder j o s) :=
  (Recorded.quiet (setOrder_leaves j _ s)).trans (setOpenOrder_recorded _ _ _)

theorem receiptRule_recorded (t : Fin 160) (b : Nat × Nat) (s : State) : Recorded i s (receiptRule t b s).1 := by
  have hstay : Recorded i s s := ⟨rfl, rfl, rfl⟩
  have hmoved (v : Nat) (u : State) : Recorded i u (moveDrawer t (fun d => d.receivedFloat v) (setOpenOrder t none u)) :=
    (setOpenOrder_recorded t none u).trans (moveDrawer_recorded (g := fun d => d.receivedFloat v) t (fun _ => rfl) (fun _ => rfl) (setOpenOrder t none u))
  unfold receiptRule
  split; · exact hstay
  split; · exact hstay
  split; · exact hstay
  dsimp only
  refine Recorded.trans ?_ (hmoved _ _)
  split
  · exact (Recorded.quiet (changeBag_leaves _ _ s)).trans (freeOrder_recorded _ _ _)
  · exact .quiet (changeBag_leaves _ _ s)

theorem createdJob_recorded (t : Fin 160) (g : Drawer → Drawer) (hseq : ∀ d, (g d).lastSeq = d.lastSeq) (hcrc : ∀ d, (g d).lastCrc = d.lastCrc)
    (b : Bag) (s : State) : Recorded i s (moveDrawer t g (addBag b s)) :=
  (Recorded.quiet (addBag_leaves b s)).trans (moveDrawer_recorded t hseq hcrc _)

/-- The rule of the two frames that move the drawer alone (R46). -/
def moveRule {α : Type} (g : α → Drawer → Drawer) (t : Fin 160) (a : α) (s : State) : State × Answer :=
  (moveDrawer t (g a) s, drawerAnswer t (moveDrawer t (g a) s))

theorem tenderJob_eq (f : Taken) : tenderJob f = tillFrame .tender (parseTender f.frame.body) (fun a => some a.1) duplicateVerdict
    (moveRule fun a d => d.tendered ((a.2.1 : Int) - a.2.2)) f := rfl

theorem refundJob_eq (f : Taken) : refundJob f = tillFrame .refund (parseRefund f.frame.body) (fun a => some a.1) duplicateVerdict
    (moveRule fun a d => d.refunded a.2) f := rfl

theorem moveRule_recorded {α : Type} {g : α → Drawer → Drawer} (hseq : ∀ a d, (g a d).lastSeq = d.lastSeq)
    (hcrc : ∀ a d, (g a d).lastCrc = d.lastCrc) (t : Fin 160) (a : α) (s : State) : Recorded i s (moveRule g t a s).1 :=
  moveDrawer_recorded (g := g a) t (hseq a) (hcrc a) s

/-- The rule of the two frames that create a bag and move the drawer by its value (R52, R53). -/
def createRule (kind : BagKind) (g : Nat → Drawer → Drawer) (t : Fin 160) (a : Nat × Nat × Nat) (s : State) : State × Answer :=
  (createCheck s a.2.1 a.2.2).elim
    (moveDrawer t (g a.2.2) (addBag (newBag s kind .sealed a.2.1 a.2.2 (some t) none none) s),
      drawerAnswer t (moveDrawer t (g a.2.2) (addBag (newBag s kind .sealed a.2.1 a.2.2 (some t) none none) s)))
    fun c => (s, createRefusal c a.2.1)

theorem pickupJob_eq (f : Taken) : pickupJob f =
    tillFrame .pickup (parseSkim f.frame.body) (fun a => some a.1) duplicateVerdict (createRule .pickup fun v d => d.pickedUp v) f := by
  unfold pickupJob
  funext s
  refine congrArg (fun job => tillFrame .pickup (parseSkim f.frame.body) (fun a => some a.1) duplicateVerdict job f s) ?_
  funext t a s
  unfold createRule
  cases createCheck s a.2.1 a.2.2 <;> rfl

theorem cashupJob_eq (f : Taken) : cashupJob f =
    tillFrame .cashup (parseSkim f.frame.body) (fun a => some a.1) duplicateVerdict (createRule .cashup fun v d => d.cashedUpWith v) f := by
  unfold cashupJob
  funext s
  refine congrArg (fun job => tillFrame .cashup (parseSkim f.frame.body) (fun a => some a.1) duplicateVerdict job f s) ?_
  funext t a s
  unfold createRule
  cases createCheck s a.2.1 a.2.2 <;> rfl

theorem createRule_recorded (kind : BagKind) {g : Nat → Drawer → Drawer} (hseq : ∀ v d, (g v d).lastSeq = d.lastSeq)
    (hcrc : ∀ v d, (g v d).lastCrc = d.lastCrc) (t : Fin 160) (a : Nat × Nat × Nat) (s : State) : Recorded i s (createRule kind g t a s).1 := by
  unfold createRule
  cases createCheck s a.2.1 a.2.2 with
  | none => exact createdJob_recorded t _ (hseq _) (hcrc _) _ s
  | some _ => exact ⟨rfl, rfl, rfl⟩

/-- The rule of a TILL_OPEN (R54). -/
def openRule (t : Fin 160) (_ : Unit) (s : State) : State × Answer :=
  if s.drawers[t].state = .floated then
    (reevaluate t (setDrawer t { s.drawers[t] with state := .opened } s),
      drawerAnswer t (reevaluate t (setDrawer t { s.drawers[t] with state := .opened } s)))
  else (s, drawerAnswer t s)

theorem openRule_recorded (t : Fin 160) (a : Unit) (s : State) : Recorded i s (openRule t a s).1 := by
  unfold openRule
  split
  · exact (setDrawer_recorded (d := { s.drawers[t] with state := .opened }) t rfl rfl).trans (reevaluate_recorded t _)
  · exact ⟨rfl, rfl, rfl⟩

/-- Every till frame goes by the steps of R44, and its own rule keeps what step 4 records. -/
theorem tillCommand_form (hx : x ∈ tillCommands) (body : List Byte) : ∃ (α : Type) (parsed : Option α) (seq : α → Option Nat)
    (job : Fin 160 → α → State → State × Answer),
    (∀ f : Taken, f.frame.body = body → x.1.job f = tillFrame x.1 parsed seq (if x.1 = .declare then declareCopy else duplicateVerdict) job f) ∧
    tillSequence x.1 body = parsed.map seq ∧ (∀ i t a s, Recorded i s (job t a s).1) ∧ ∀ p s, exec (x.2 p) s = deliver p (isJob x.1) s := by
  simp only [tillCommands, List.mem_cons, List.not_mem_nil, or_false] at hx
  rcases hx with rfl | rfl | rfl | rfl | rfl | rfl | rfl
  · exact ⟨_, parseTender body, fun a => some a.1, moveRule fun a d => d.tendered ((a.2.1 : Int) - a.2.2), fun f hf => by subst hf; exact tenderJob_eq f,
      rfl, fun _ => moveRule_recorded (fun _ _ => rfl) fun _ _ => rfl, fun _ _ => rfl⟩
  · exact ⟨_, parseRefund body, fun a => some a.1, moveRule fun a d => d.refunded a.2, fun f hf => by subst hf; exact refundJob_eq f,
      rfl, fun _ => moveRule_recorded (fun _ _ => rfl) fun _ _ => rfl, fun _ _ => rfl⟩
  · exact ⟨_, parseSkim body, fun a => some a.1, createRule .pickup fun v d => d.pickedUp v, fun f hf => by subst hf; exact pickupJob_eq f, rfl,
      fun _ => createRule_recorded _ (fun _ _ => rfl) (fun _ _ => rfl), fun _ _ => rfl⟩
  · exact ⟨_, parseSkim body, fun a => some a.1, createRule .cashup fun v d => d.cashedUpWith v, fun f hf => by subst hf; exact cashupJob_eq f, rfl,
      fun _ => createRule_recorded _ (fun _ _ => rfl) (fun _ _ => rfl), fun _ _ => rfl⟩
  · exact ⟨_, parseEmpty body, fun _ => none, openRule, fun f hf => by subst hf; rfl, rfl, fun _ => openRule_recorded, fun _ _ => rfl⟩
  · exact ⟨_, parseDeclare body, fun a => some a.1, declareRule, fun f hf => by subst hf; rfl, rfl, fun _ => declareRule_recorded, fun _ _ => rfl⟩
  · exact ⟨_, parseReceipt body, fun a => some a.1, receiptRule, fun f hf => by subst hf; rfl, rfl, fun _ => receiptRule_recorded, fun _ _ => rfl⟩

/-! ## Copies, conflicts and passes (R45, R59, R70) -/

theorem faceOrder_setRx (s : State) (p : Port) (rx : Receiver) : faceOrder (s.setRx p rx) = faceOrder s := faceOrder_congr (State.setRx_denoms s p rx)

theorem adviceBody_congr {t : State} (h : t.denoms = s.denoms) (status : Code) (order : Option (Fin 24)) (issueValue skimValue : Nat) (r : Rebalance) :
    adviceBody t status order issueValue skimValue r = adviceBody s status order issueValue skimValue r := by
  unfold adviceBody adviceCodes
  rw [faceOrder_congr h]

/-- A copy of the last decided frame (R59, R70). -/
theorem till_copy (hx : x ∈ tillCommands) (h : TakenAs s p w x.1 pair) (ht : TillSource s w x.1 i) (hq : tillSequence x.1 w.frame.body = some (some q))
    (hseq : s.drawers[i].lastSeq = some q) (hcrc : s.drawers[i].lastCrc = some w.crc) : Yields (x.2 p) s fun u =>
      unchangedBut Part.answerParts s u ∧ eventsBut [] s u ∧
      ((x.1 = .declare → ∀ j, s.drawers[i].openOrder = some j → s.orders[j].state = .free ∨ s.orders[j].seq ≠ q) →
        Answered s u p w .duplicate (signed s.drawers[i].expected)) ∧
      (∀ j, x.1 = .declare → s.drawers[i].openOrder = some j → s.orders[j].state ≠ .free → s.orders[j].seq = q →
        Advised s u p w .duplicate (adviceBody s .duplicate (some j) s.orders[j].issueValue s.orders[j].skimValue
          { issue := s.orders[j].issue, skim := s.orders[j].skim, shortStock := s.orders[j].shortStock
            shortCap := s.orders[j].shortCap })) := by
  obtain ⟨α, parsed, seq, job, hform, hsequence, -, hexec⟩ := tillCommand_form hx w.frame.body
  rw [hsequence] at hq
  obtain ⟨b, hb, hbq⟩ := Option.map_eq_some_iff.mp hq
  have hcheck : sequenceCheck (s.setRx p .idle).drawers[i] q w.crc = .duplicate := by
    rw [State.setRx_drawers, sequenceCheck_again _ hseq, if_pos hcrc]
  have hjob := (congrFun (hform { w.taken p with pair := pair } rfl) (s.setRx p .idle)).trans
    (tillFrame_duplicate hb (sourced_setRx (pair := pair) ht) hbq hcheck)
  refine job_yields hexec h (isJob_of_takenAs h) hjob fun u hu => ⟨hu.unmoved.1, hu.unmoved.2, fun hno => ?_, fun j hk hopen hstate hsame => ?_⟩
  · have hanswer : (if x.1 = .declare then declareCopy else duplicateVerdict) i (s.setRx p .idle) =
        .verdict .duplicate (signed s.drawers[i].expected) := by
      have hverdict : duplicateVerdict i (s.setRx p .idle) = .verdict .duplicate (signed s.drawers[i].expected) := by
        unfold duplicateVerdict
        rw [State.setRx_drawers]
      split
      · next hdeclare =>
        unfold declareCopy
        rw [State.setRx_drawers, State.setRx_orders]
        cases hopen : s.drawers[i].openOrder with
        | none => exact hverdict
        | some j =>
          dsimp only
          rw [if_neg, hverdict]
          rintro ⟨hstate, hsame⟩
          rw [hseq] at hsame
          rcases hno hdeclare j hopen with hfree | hne
          · exact hstate hfree
          · exact hne (Option.some.inj hsame)
      · exact hverdict
    rw [hanswer] at hu
    exact hu.answered
  · have hanswer : (if x.1 = .declare then declareCopy else duplicateVerdict) i (s.setRx p .idle) =
        .advice .duplicate (adviceBody s .duplicate (some j) s.orders[j].issueValue s.orders[j].skimValue s.orders[j].figures) := by
      rw [if_pos hk]
      unfold declareCopy
      rw [State.setRx_drawers, State.setRx_orders, hopen]
      dsimp only
      rw [if_pos ⟨hstate, by rw [hseq, hsame]⟩, adviceBody_congr (State.setRx_denoms s p .idle)]
    rw [hanswer] at hu
    exact hu.advised

/-- A frame with the last number and another check (R45). -/
theorem till_conflict (hx : x ∈ tillCommands) (h : TakenAs s p w x.1 pair) (ht : TillSource s w x.1 i)
    (hq : tillSequence x.1 w.frame.body = some (some q)) (hseq : s.drawers[i].lastSeq = some q) (hcrc : s.drawers[i].lastCrc ≠ some w.crc) :
    RefusedFrame x.2 s p w .duplicateConflict (num q) := by
  obtain ⟨α, parsed, seq, job, hform, hsequence, -, hexec⟩ := tillCommand_form hx w.frame.body
  rw [hsequence] at hq
  obtain ⟨b, hb, hbq⟩ := Option.map_eq_some_iff.mp hq
  have hcheck : sequenceCheck (s.setRx p .idle).drawers[i] q w.crc = .conflict q := by
    rw [State.setRx_drawers, sequenceCheck_again _ hseq, if_neg hcrc]
  exact refused_of_job hexec h (isJob_of_takenAs h) ((congrFun (hform { w.taken p with pair := pair } rfl) (s.setRx p .idle)).trans
    (tillFrame_conflict hb (sourced_setRx (pair := pair) ht) hbq hcheck))

theorem unapplied_recorded (j : Fin 160) (s : State) : Recorded i s (unapplied k j s) :=
  .of_leaves (unapplied_leaves k j s) (by
    unfold unapplied
    split
    · exact (raise_event _ _ _ _).trans (if_neg (by decide))
    · rfl)

/-- A frame that passes leaves its number, its check and its gap (R45). -/
theorem till_passes (hx : x ∈ tillCommands) (h : TakenAs s p w x.1 pair) (ht : TillSource s w x.1 i)
    (hq : tillSequence x.1 w.frame.body = some (some q)) (hs : sequenceCheck s.drawers[i] q w.crc = .passes gap) : Yields (x.2 p) s fun u =>
      u.drawers[i].lastSeq = some q ∧ u.drawers[i].lastCrc = some w.crc ∧
      u.event .sequenceGap = raisedIf (gap != 0) .sequenceGap (i.val * 65536 + gap) s := by
  obtain ⟨α, parsed, seq, job, hform, hsequence, hrecorded, hexec⟩ := tillCommand_form hx w.frame.body
  rw [hsequence] at hq
  obtain ⟨b, hb, hbq⟩ := Option.map_eq_some_iff.mp hq
  have hcheck : sequenceCheck (s.setRx p .idle).drawers[i] q w.crc = .passes gap := by rwa [State.setRx_drawers]
  have hjob := (congrFun (hform { w.taken p with pair := pair } rfl) (s.setRx p .idle)).trans
    (tillFrame_passes hb (sourced_setRx (pair := pair) ht) hbq hcheck)
  obtain ⟨hlast, hcrc, hgap⟩ := tillDecided_record s p i q gap w.crc
  have hsteps : Recorded i (tillDecided s p i q gap w.crc) (tillSteps56 x.1 i (job i b) (tillDecided s p i q gap w.crc)).1 := by
    unfold tillSteps56
    split
    · exact hrecorded i i b _
    · exact unapplied_recorded i _
  refine job_yields (s' := (tillSteps56 x.1 i (job i b) (tillDecided s p i q gap w.crc)).1)
    (a := (tillSteps56 x.1 i (job i b) (tillDecided s p i q gap w.crc)).2) hexec h (isJob_of_takenAs h) hjob fun u hu => ?_
  have hdrawers : u.drawers = _ := hu.part .drawers
  rw [hdrawers, hu.event .sequenceGap]
  exact ⟨hsteps.1.trans hlast, hsteps.2.1.trans hcrc, hsteps.2.2.trans hgap⟩

end

/-- Settles O28: the check by its cases, the frames by the steps of R44. -/
theorem sequenceRule : Obligations.SequenceRule := by
  unfold Obligations.SequenceRule
  refine ⟨fun d q last crc hq hlast => ⟨sequenceCheck_first q crc, fun h hsame hcrc => ?_, fun h hsame hcrc => ?_, fun h hne => ?_⟩,
    fun x hx p s w t q pair h ht hq => ⟨till_copy hx h ht hq, till_conflict hx h ht hq, fun gap => till_passes hx h ht hq⟩⟩
  · rw [hsame, sequenceCheck_again crc h, if_pos hcrc]
  · rw [hsame, sequenceCheck_again crc h, if_neg hcrc]
  · exact ⟨_, sequenceCheck_other crc h hne, by omega, by omega, by omega⟩

end Sys2Proof.Machine.Effects

/-! PROOF. The movements of the till frames applied (R46 to R56, R72) and what the till frames are refused for before their own rules (R44, R59). -/

namespace Sys2Proof.Machine.Effects

open Sys2Proof Sys2Proof.Machine Sys2Proof.Machine.Takings Sys2Proof.Machine.TallyCount

section
variable {s s' u : State} {p : Port} {w : Window} {i : Fin 160} {k : JobKind} {x : JobKind × (Port → Instr)} {pair : Option (Byte × Byte)}
  {q gap : Nat} {a : Answer} {events : List Event}

/-! ## The refusals of steps 1, 2, 3 and 5 (R44) -/

theorem unapplied_events (k : JobKind) (j : Fin 160) (s : State) : eventsBut [.tenderUnapplied] s (unapplied k j s) := by
  unfold unapplied
  exact eventsBut_ite (raiseNum_events _ _ _) (eventsBut_refl _ _)

theorem unapplied_event (k : JobKind) (j : Fin 160) (s : State) :
    (unapplied k j s).event .tenderUnapplied = raisedIf (k == .tender || k == .refund) .tenderUnapplied j.val s := by
  unfold unapplied
  split
  · next hk =>
    rw [raisedIf_pos (by simpa using hk)]
    exact (raise_event _ _ _ _).trans (if_pos rfl)
  · next hk => rw [raisedIf_neg (by simpa using hk)]

theorem raisedIf_congr {t : State} {b : Bool} {e : Event} {n : Nat} (h : t.event e = s.event e) : raisedIf b e n t = raisedIf b e n s := by
  unfold raisedIf
  rw [h]

/-- A frame that decides to change some events and drawers, but no drawer's state. -/
theorem FrameDone.recorded {parts : List Part} (h : FrameDone s p w a s' u) (hleaves : unchangedBut (parts ++ [Part.ofPort p, .events]) s s')
    (hparts : ∀ b ∈ parts, b = .drawers) (hstates : s'.drawers.toList.map (·.state) = s.drawers.toList.map (·.state)) (hevents : eventsBut events s s') :
    unchangedBut (parts ++ Part.answerParts) s u ∧ eventsBut events s u := by
  have haway (b : Part) (hb : b ∈ [Part.sessions, .call, .bags, .safe]) : b ∉ parts ++ [Part.ofPort p, .events] := fun hmem => by
    rcases List.mem_append.mp hmem with hmem | hmem
    · rw [hparts b hmem] at hb
      exact absurd hb (by decide)
    · revert hmem hb
      cases p <;> cases b <;> decide
  obtain ⟨hafter, hraised⟩ := h.unreported (by
    unfold closeInputs
    rw [hstates, hleaves .sessions (haway _ (by decide)), hleaves .call (haway _ (by decide)), hleaves .bags (haway _ (by decide)),
      hleaves .safe (haway _ (by decide))])
  refine ⟨unchangedBut_mono (unchangedBut_trans hleaves hafter) ?_, eventsBut_comp hevents (eventsBut_mono hraised nofun)⟩
  simp only [List.mem_append]
  rintro b ((hb | hb) | hb)
  · exact .inl hb
  · refine .inr ?_
    revert hb
    cases p <;> cases b <;> decide
  · exact .inr hb

theorem till_malformed (hx : x ∈ tillCommands) (h : TakenAs s p w x.1 pair) (hq : tillSequence x.1 w.frame.body = none) :
    RefusedFrame x.2 s p w .malformed (num 0) := by
  obtain ⟨α, parsed, seq, job, hform, hsequence, -, hexec⟩ := tillCommand_form hx w.frame.body
  rw [hsequence] at hq
  exact refused_of_job hexec h (isJob_of_takenAs h) ((congrFun (hform { w.taken p with pair := pair } rfl) (s.setRx p .idle)).trans
    (tillFrame_unparsed (Option.map_eq_none_iff.mp hq)))

theorem till_unknown {number : Option Nat} (hx : x ∈ tillCommands) (h : TakenAs s p w x.1 pair) (ht : tillOf s w.frame.src = i)
    (hq : tillSequence x.1 w.frame.body = some number) (hsource : s.tills[i].enabled = false ∨ s.tills[i].node ≠ w.frame.src) :
    Yields (x.2 p) s fun u => unchangedBut Part.answerParts s u ∧ eventsBut [.tenderUnapplied] s u ∧
      u.event .tenderUnapplied = raisedIf (x.1 == .tender || x.1 == .refund) .tenderUnapplied i.val s ∧ Answered s u p w .unknownNode (num i.val) := by
  obtain ⟨α, parsed, seq, job, hform, hsequence, -, hexec⟩ := tillCommand_form hx w.frame.body
  rw [hsequence] at hq
  obtain ⟨b, hb, -⟩ := Option.map_eq_some_iff.mp hq
  have hrx := setRx_leaves p .idle s
  refine job_yields hexec h (isJob_of_takenAs h) ((congrFun (hform { w.taken p with pair := pair } rfl) (s.setRx p .idle)).trans
    (tillFrame_unknown (f := { w.taken p with pair := pair }) hb ((tillOf_congr (by simp) _).trans ht) (by rwa [State.setRx_tills]))) fun u hu => ?_
  have hleaves := unchangedBut_trans hrx (unapplied_leaves x.1 i (s.setRx p .idle))
  have hevents : eventsBut [.tenderUnapplied] s (unapplied x.1 i (s.setRx p .idle)) :=
    eventsBut_comp (eventsBut_of_leaves _ hrx (by cases p <;> decide)) (unapplied_events x.1 i _)
  obtain ⟨hafter, hraised⟩ := hu.recorded (parts := []) (unchangedBut_mono hleaves (by simp)) nofun
    (by rw [show (unapplied x.1 i (s.setRx p .idle)).drawers = s.drawers from hleaves .drawers (by cases p <;> decide)]) hevents
  refine ⟨hafter, hraised, ?_, hu.answered⟩
  rw [hu.event .tenderUnapplied, unapplied_event, raisedIf_congr (State.setRx_event s p .idle _)]

theorem till_unmarked {number : Option Nat} (hx : x ∈ tillCommands) (h : TakenAs s p w x.1 pair) (ht : tillOf s w.frame.src = i)
    (hq : tillSequence x.1 w.frame.body = some number) (henabled : s.tills[i].enabled = true) (hnode : s.tills[i].node = w.frame.src)
    (hneeds : needsBadge x.1 = true) (hbadge : s.tills[i].badge ≠ 0) (hmarks : s.tills[i].badge ∉ w.marks) :
    RefusedFrame x.2 s p w .witnessMissing (num s.tills[i].badge.toNat) := by
  obtain ⟨α, parsed, seq, job, hform, hsequence, -, hexec⟩ := tillCommand_form hx w.frame.body
  rw [hsequence] at hq
  obtain ⟨b, hb, -⟩ := Option.map_eq_some_iff.mp hq
  have hmissing : badgeMissing x.1 s.tills[i] w.marks = true := by
    unfold badgeMissing
    rw [hneeds, decide_eq_true hbadge, Bool.eq_false_iff.mpr fun hc => hmarks (List.contains_iff_mem.mp hc)]
    rfl
  have hframe := tillFrame_known (k := x.1) (seq := seq) (copy := if x.1 = .declare then declareCopy else duplicateVerdict) (job := job)
    (s := s.setRx p .idle) (f := { w.taken p with pair := pair }) (i := i) hb ((tillOf_congr (by simp) _).trans ht)
    (by rwa [State.setRx_tills]) (by rwa [State.setRx_tills])
  rw [State.setRx_tills] at hframe
  exact refused_of_job hexec h (isJob_of_takenAs h) ((congrFun (hform { w.taken p with pair := pair } rfl) (s.setRx p .idle)).trans
    (hframe.trans (if_pos hmissing)))

theorem tillDecided_events (s : State) (p : Port) (i : Fin 160) (q gap : Nat) (crc : Word16) :
    eventsBut [.sequenceGap] s (tillDecided s p i q gap crc) := by
  rw [tillDecided_eq]
  refine eventsBut_comp (eventsBut_of_leaves _ (setRx_leaves p .idle s) (by cases p <;> decide)) (eventsBut_comp ?_ (eventsBut_of_same _ rfl))
  unfold raiseGap
  exact eventsBut_ite (eventsBut_refl _ _) (raiseNum_events _ _ _)

/-- A frame that its drawer's state does not allow is decided: its number and its check are recorded, and no more (R44). -/
theorem till_closed {number : Option Nat} (hx : x ∈ tillCommands) (h : TakenAs s p w x.1 pair) (ht : TillSource s w x.1 i)
    (hq : tillSequence x.1 w.frame.body = some number) (hs : ∀ q, number = some q → ∃ gap, sequenceCheck s.drawers[i] q w.crc = .passes gap)
    (hstate : appliedIn x.1 s.day.state s.drawers[i].state = false) : Yields (x.2 p) s fun u =>
      unchangedBut ([.drawers] ++ Part.answerParts) s u ∧ eventsBut [.tenderUnapplied, .sequenceGap] s u ∧
      (∀ j : Fin 160, j ≠ i → u.drawers[j] = s.drawers[j]) ∧ (number = none → u.drawers[i] = s.drawers[i]) ∧
      (∀ q, number = some q → u.drawers[i] = { s.drawers[i] with lastSeq := some q, lastCrc := some w.crc }) ∧
      u.event .tenderUnapplied = raisedIf (x.1 == .tender || x.1 == .refund) .tenderUnapplied i.val s ∧
      Answered s u p w .wrongTillState (num s.drawers[i].state.code) := by
  obtain ⟨α, parsed, seq, job, hform, hsequence, -, hexec⟩ := tillCommand_form hx w.frame.body
  rw [hsequence] at hq
  obtain ⟨b, hb, hbq⟩ := Option.map_eq_some_iff.mp hq
  have hform := congrFun (hform { w.taken p with pair := pair } rfl) (s.setRx p .idle)
  have hsteps (v : State) (hday : v.day = s.day) (hrow : v.drawers[i].state = s.drawers[i].state) :
      tillSteps56 x.1 i (job i b) v = (unapplied x.1 i v, .verdict .wrongTillState (num s.drawers[i].state.code)) := by
    unfold tillSteps56
    rw [hday, hrow, if_neg (by rw [hstate]; decide)]
  have hfinish (v u : State) (hleaves : unchangedBut ([.drawers] ++ [Part.ofPort p, .events]) s v) (hevents : eventsBut [.sequenceGap] s v)
      (hstates : v.drawers.toList.map (·.state) = s.drawers.toList.map (·.state)) (hevent : v.event .tenderUnapplied = s.event .tenderUnapplied)
      (hu : FrameDone s p w (.verdict .wrongTillState (num s.drawers[i].state.code)) (unapplied x.1 i v) u) :
      u.drawers = v.drawers ∧ unchangedBut ([.drawers] ++ Part.answerParts) s u ∧ eventsBut [.tenderUnapplied, .sequenceGap] s u ∧
      u.event .tenderUnapplied = raisedIf (x.1 == .tender || x.1 == .refund) .tenderUnapplied i.val s := by
    have hunapplied := unapplied_leaves x.1 i v
    have hdrawers : (unapplied x.1 i v).drawers = v.drawers := hunapplied .drawers (by decide)
    obtain ⟨hafter, hraised⟩ := hu.recorded (parts := [.drawers]) (events := [.tenderUnapplied, .sequenceGap])
      (unchangedBut_mono (unchangedBut_trans hleaves hunapplied) (by simp)) (by simp) (by rw [hdrawers, hstates])
      (eventsBut_comp (eventsBut_mono hevents (by simp)) (eventsBut_mono (unapplied_events x.1 i v) (by simp)))
    exact ⟨(hu.part .drawers).trans hdrawers, hafter, hraised, by rw [hu.event .tenderUnapplied, unapplied_event, raisedIf_congr hevent]⟩
  cases number with
  | none =>
    have hjob := hform.trans ((tillFrame_unnumbered hb (sourced_setRx (pair := pair) ht) hbq).trans
      (hsteps (s.setRx p .idle) (by simp) (by rw [State.setRx_drawers])))
    refine job_yields hexec h (isJob_of_takenAs h) hjob fun u hu => ?_
    obtain ⟨hdrawers, hafter, hraised, hevent⟩ := hfinish (s.setRx p .idle) u (unchangedBut_mono (setRx_leaves p .idle s) (by simp))
      (eventsBut_of_leaves _ (setRx_leaves p .idle s) (by cases p <;> decide)) (by rw [State.setRx_drawers]) (State.setRx_event _ _ _ _) hu
    rw [State.setRx_drawers] at hdrawers
    exact ⟨hafter, hraised, fun j _ => by rw [hdrawers], fun _ => by rw [hdrawers], nofun, hevent, hu.answered⟩
  | some q =>
    obtain ⟨gap, hcheck⟩ := hs q rfl
    have hday : (tillDecided s p i q gap w.crc).day = s.day := tillDecided_leaves s p i q gap w.crc .day (by cases p <;> decide)
    have hjob := hform.trans ((tillFrame_passes (gap := gap) hb (sourced_setRx (pair := pair) ht) hbq (by rwa [State.setRx_drawers])).trans
      (hsteps (tillDecided s p i q gap w.crc) hday (by rw [tillDecided_drawer])))
    refine job_yields hexec h (isJob_of_takenAs h) hjob fun u hu => ?_
    obtain ⟨hdrawers, hafter, hraised, hevent⟩ := hfinish (tillDecided s p i q gap w.crc) u
      (unchangedBut_mono (tillDecided_leaves s p i q gap w.crc) (by simp)) (tillDecided_events s p i q gap w.crc)
      (by rw [tillDecided_drawers]; exact put_map_same _ _ _ _ rfl) (by rw [tillDecided_event, if_neg (by decide)]) hu
    rw [tillDecided_drawers] at hdrawers
    refine ⟨hafter, hraised, fun j hj => by rw [hdrawers, put_get, if_neg hj.symm], nofun, fun q' hq' => ?_, hevent, hu.answered⟩
    cases hq'
    rw [hdrawers, put_get, if_pos rfl]

end

section
variable {s u : State} {p : Port} {w : Window} {i : Fin 160} {k : JobKind} {pair : Option (Byte × Byte)} {q gap : Nat}

/-! ## The movements applied (R46 to R54) -/

/-- A frame whose rule moves its drawer, in a state that differs from the decided one in no drawer, limit, place or event. -/
theorem moved_decided {g : Drawer → Drawer} {v : State} {ex : List Part}
    (h : FrameDone s p w (drawerAnswer i (moveDrawer i g v)) (moveDrawer i g v) u) (hleaves : unchangedBut ex (tillDecided s p i q gap w.crc) v)
    (hex : ∀ b ∈ [Part.tills, .floor, .events], b ∉ ex) {d : Drawer} (hrow : v.drawers[i] = d) (hsat : d.saturated = s.drawers[i].saturated) :
    Reevaluated s u i (g d) := by
  refine h.moved hrow hsat ?_ ?_ fun e he => ?_
  · exact (hleaves .tills (hex _ (by decide))).trans (tillDecided_leaves s p i q gap w.crc .tills (by cases p <;> decide))
  · rw [show v.floor = _ from hleaves .floor (hex _ (by decide)), tillDecided_out]
  · rw [State.event, show v.events = _ from hleaves .events (hex _ (by decide))]
    show (tillDecided s p i q gap w.crc).event e = s.event e
    rw [tillDecided_event, if_neg he.symm]

/-- A movement that is the whole rule of its frame. -/
theorem moveRule_yields {α : Type} {c : Port → Instr} {parsed : Option α} {seq : α → Option Nat} {copy : Fin 160 → State → Answer} {b : α}
    {g : α → Drawer → Drawer} {P : State → Prop} (hc : ∀ p s, exec (c p) s = deliver p (isJob k) s) (h : TakenAs s p w k pair)
    (hform : k.job { w.taken p with pair := pair } = tillFrame k parsed seq copy (moveRule g) { w.taken p with pair := pair })
    (ht : TillApplies s w k i) (hp : parsed = some b) (hq : seq b = some q) (hs : sequenceCheck s.drawers[i] q w.crc = .passes gap)
    (hP : ∀ u, Reevaluated s u i (g b { s.drawers[i] with lastSeq := some q, lastCrc := some w.crc }) →
      Answered s u p w (if u.drawers[i].state = .hold then .hold else .accepted) (signed u.drawers[i].expected) → P u) : Yields (c p) s P := by
  have hjob := (congrFun hform (s.setRx p .idle)).trans (tillFrame_decided ht hp hq hs)
  refine job_yields hc h (isJob_of_takenAs h) hjob fun u hu => hP u ?_ hu.drawerAnswered
  exact moved_decided (ex := []) (v := tillDecided s p i q gap w.crc) hu (unchangedBut_refl _ _) (by simp) (tillDecided_drawer s p i q gap w.crc) rfl

theorem tender_applied {r c : Nat} (h : TakenAs s p w .tender none) (ht : TillApplies s w .tender i) (hbody : parseTender w.frame.body = some (q, r, c))
    (hs : sequenceCheck s.drawers[i] q w.crc = .passes gap) : Yields (.tender p) s fun u =>
      u.drawers[i].netTendered = max Config.low31 (min Config.high31 (s.drawers[i].netTendered + ((r : Int) - c))) ∧
      u.drawers[i].expected = max Config.low31 (min Config.high31 (s.drawers[i].expected + ((r : Int) - c))) ∧
      u.drawers[i].lastSeq = some q ∧ u.drawers[i].lastCrc = some w.crc ∧
      Reevaluated s u i { s.drawers[i].tendered ((r : Int) - c) with lastSeq := some q, lastCrc := some w.crc } ∧
      Answered s u p w (if u.drawers[i].state = .hold then .hold else .accepted) (signed u.drawers[i].expected) := by
  refine moveRule_yields (c := .tender) (fun _ _ => rfl) h (tenderJob_eq { w.taken p with pair := none }) ht hbody rfl hs fun u hr hans =>
    ⟨?_, ?_, ?_, ?_, hr, hans⟩ <;> rw [reevaluated_row hr]
  · exact satInt_fst _
  · exact satInt_fst _
  · rfl
  · rfl

theorem refund_applied {n : Nat} (h : TakenAs s p w .refund none) (ht : TillApplies s w .refund i) (hbody : parseRefund w.frame.body = some (q, n))
    (hs : sequenceCheck s.drawers[i] q w.crc = .passes gap) : Yields (.refund p) s fun u =>
      u.drawers[i].refunds = min 4294967295 (s.drawers[i].refunds + n) ∧
      u.drawers[i].expected = max Config.low31 (min Config.high31 (s.drawers[i].expected - n)) ∧
      u.drawers[i].lastSeq = some q ∧ u.drawers[i].lastCrc = some w.crc ∧
      Reevaluated s u i { s.drawers[i].refunded n with lastSeq := some q, lastCrc := some w.crc } ∧
      Answered s u p w (if u.drawers[i].state = .hold then .hold else .accepted) (signed u.drawers[i].expected) := by
  refine moveRule_yields (c := .refund) (fun _ _ => rfl) h (refundJob_eq { w.taken p with pair := none }) ht hbody rfl hs fun u hr hans =>
    ⟨?_, ?_, ?_, ?_, hr, hans⟩ <;> rw [reevaluated_row hr]
  · exact (satNat_fst _).trans (Nat.min_comm _ _)
  · exact satInt_fst _
  · rfl
  · rfl

theorem setDrawer_same_opened (s : State) (i : Fin 160) : (setDrawer i { s.drawers[i] with state := .opened } s).drawers[i] =
    { s.drawers[i] with state := .opened } := by rw [setDrawer_get, if_pos rfl]

theorem tillOpen_applied (h : TakenAs s p w .tillOpen none) (ht : TillApplies s w .tillOpen i) (hbody : w.frame.body = []) :
    Yields (.tillOpen p) s fun u =>
      (s.drawers[i].state = .floated → u.drawers[i].state = if (s.tills[i].hardLimit : Int) ≤ s.drawers[i].expected then .hold else .opened) ∧
      (s.drawers[i].state = .floated → Reevaluated s u i { s.drawers[i] with state := .opened }) ∧
      (s.drawers[i].state ≠ .floated → unchangedBut Part.answerParts s u ∧ eventsBut [] s u) ∧ u.drawers[i].expected = s.drawers[i].expected ∧
      Answered s u p w (if u.drawers[i].state = .hold then .hold else .accepted) (signed s.drawers[i].expected) := by
  have hdrawers := State.setRx_drawers s p .idle
  have hsteps : JobKind.tillOpen.job { w.taken p with pair := none } (s.setRx p .idle) = openRule i () (s.setRx p .idle) := by
    refine (tillFrame_unnumbered (copy := duplicateVerdict) (job := openRule) (seq := fun _ => none) (parsed := parseEmpty w.frame.body) (a := ()) (by rw [hbody]; rfl) (sourced_setRx ht.1) rfl).trans ?_
    unfold tillSteps56
    rw [hdrawers, State.setRx_day, if_pos ht.2]
  unfold openRule at hsteps
  rw [hdrawers] at hsteps
  by_cases hstate : s.drawers[i].state = .floated
  · rw [if_pos hstate] at hsteps
    refine job_yields (c := .tillOpen) (fun _ _ => rfl) h (isJob_of_takenAs h) hsteps fun u hu => ?_
    have hr : Reevaluated s u i { s.drawers[i] with state := .opened } := by
      refine FrameDone.reevaluated hu ?_ (by simp [setDrawer]) (setRx_out s p .floor .idle) (fun e _ => State.setRx_event s p .idle e) ?_
      · rw [setDrawer_get, if_pos rfl]
      · rw [raisedIf_neg (by cases s.drawers[i].saturated <;> rfl)]
        exact State.setRx_event s p .idle _
    have hexpected : u.drawers[i].expected = s.drawers[i].expected := by rw [reevaluated_row hr]
    refine ⟨fun _ => ?_, fun _ => hr, fun hn => absurd hstate hn, hexpected, ?_⟩
    · rw [reevaluated_state hr]
      simp only [true_and, reduceCtorEq, false_and, if_false]
    · have hans := hu.drawerAnswered
      rwa [hexpected] at hans
  · rw [if_neg hstate] at hsteps
    refine job_yields (c := .tillOpen) (fun _ _ => rfl) h (isJob_of_takenAs h) hsteps fun u hu => ?_
    have hsame : u.drawers = s.drawers := (hu.part .drawers).trans hdrawers
    refine ⟨fun hn => absurd hn hstate, fun hn => absurd hn hstate, fun _ => hu.unmoved, by rw [hsame], ?_⟩
    have hans := hu.drawerAnswered
    rw [hsame] at hans ⊢
    exact hans

end

/-- Settles O34: the movements by their drawers, the refusals by the steps of R44. -/
theorem tillMovements : Obligations.TillMovements := by
  unfold Obligations.TillMovements
  refine ⟨fun p s w t => ⟨fun q r c gap => tender_applied, fun q a gap => refund_applied, tillOpen_applied⟩, fun x hx p s w t pair h ht =>
    ⟨till_malformed hx h, fun seq hq => ⟨till_unknown hx h ht hq, till_unmarked hx h ht hq, fun hsource hs => till_closed hx h hsource hq hs⟩⟩⟩

end Sys2Proof.Machine.Effects

/-! PROOF. The till frames that move bags: PICKUP and CASHUP create one (R52, R53), FLOAT_RECEIPT takes one in (R55, R72). -/

namespace Sys2Proof.Machine.Effects

open Sys2Proof Sys2Proof.Machine Sys2Proof.Machine.Takings Sys2Proof.Machine.TallyCount

section
variable {s u : State} {p : Port} {w : Window} {i : Fin 160} {k : JobKind} {pair : Option (Byte × Byte)} {q n v gap : Nat} {d : Drawer}
  {kind : BagKind} {g : Nat → Drawer → Drawer} {c : Port → Instr}

/-! ## Bags created (R26, R52, R53) -/

theorem createCheck_creatable (h : Creatable s n v) : createCheck s n v = none := createCheck_none.mpr h

theorem tillDecided_newBag (s : State) (p : Port) (i : Fin 160) (q gap : Nat) (crc : Word16) (kind : BagKind) (st : BagState) (n v : Nat)
    (till : Option (Fin 160)) (order : Option (Fin 24)) (counts : Option (Vector Nat 12)) :
    newBag (tillDecided s p i q gap crc) kind st n v till order counts = newBag s kind st n v till order counts := by
  have hleaves := tillDecided_leaves s p i q gap crc
  unfold newBag
  rw [hleaves .day (by cases p <;> decide), hleaves .seconds (by cases p <;> decide)]

/-- The flag of a changed and re-evaluated drawer (R50). -/
theorem reevaluated_due (h : Reevaluated s u i d) : u.drawers[i].due = true →
    u.drawers[i].state = .opened ∨ u.drawers[i].state = .hold := by
  have hdue := (holdAndPickupRule i (s.setDrawers (put s.drawers i d))).2.1
  rw [← h.1] at hdue
  exact fun h => (hdue.mp h).1

theorem createRule_yields {P : State → Prop} (hc : ∀ p s, exec (c p) s = deliver p (isJob k) s) (h : TakenAs s p w k pair)
    (hform : k.job { w.taken p with pair := pair } =
      tillFrame k (parseSkim w.frame.body) (fun a => some a.1) duplicateVerdict (createRule kind g) { w.taken p with pair := pair })
    (ht : TillApplies s w k i) (hbody : parseSkim w.frame.body = some (q, n, v)) (hs : sequenceCheck s.drawers[i] q w.crc = .passes gap)
    (hnew : Creatable s n v)
    (hP : ∀ u, findBag u n = some (newBag s kind .sealed n v (some i) none none) →
      Reevaluated s u i (g v { s.drawers[i] with lastSeq := some q, lastCrc := some w.crc }) →
      Answered s u p w (if u.drawers[i].state = .hold then .hold else .accepted) (signed u.drawers[i].expected) → P u) : Yields (c p) s P := by
  have hbags := tillDecided_bags s p i q gap w.crc
  have hrule : createRule kind g i (q, n, v) (tillDecided s p i q gap w.crc) =
      (moveDrawer i (g v) (addBag (newBag s kind .sealed n v (some i) none none) (tillDecided s p i q gap w.crc)),
        drawerAnswer i (moveDrawer i (g v) (addBag (newBag s kind .sealed n v (some i) none none) (tillDecided s p i q gap w.crc)))) := by
    unfold createRule
    rw [createCheck_congr hbags, createCheck_creatable hnew, tillDecided_newBag]
    rfl
  have hjob := ((congrFun hform (s.setRx p .idle)).trans (tillFrame_decided ht hbody rfl hs)).trans hrule
  refine job_yields hc h (isJob_of_takenAs h) hjob fun u hu => hP u ?_ ?_ hu.drawerAnswered
  · refine hu.bags n _ ?_ rfl
    have hfresh : findBag (tillDecided s p i q gap w.crc) n = none := (findBag_congr hbags n).trans hnew.2.2.2.1
    rw [findBag_of_leaves (moveDrawer_leaves i (g v) _)]
    exact (findBag_addBag (b := newBag s kind .sealed n v (some i) none none) hfresh n).trans (if_pos rfl)
  · exact moved_decided (g := g v) hu (addBag_leaves _ _) (by simp) (tillDecided_drawer s p i q gap w.crc) rfl

theorem createRule_refuses {code : Code} (hc : ∀ p s, exec (c p) s = deliver p (isJob k) s) (h : TakenAs s p w k pair)
    (hform : k.job { w.taken p with pair := pair } =
      tillFrame k (parseSkim w.frame.body) (fun a => some a.1) duplicateVerdict (createRule kind g) { w.taken p with pair := pair })
    (ht : TillApplies s w k i) (hbody : parseSkim w.frame.body = some (q, n, v)) (hs : sequenceCheck s.drawers[i] q w.crc = .passes gap)
    (hrefused : CreateRefused s n v code) : RefusedTillFrame c s p w i q gap code (num (if code = .malformed then 0 else n)) := by
  refine refused_till hc h (isJob_of_takenAs h) (((congrFun hform (s.setRx p .idle)).trans (tillFrame_decided ht hbody rfl hs)).trans ?_)
  unfold createRule
  rw [createCheck_congr (tillDecided_bags s p i q gap w.crc), createCheck_of_refused hrefused]
  rfl

theorem pickup_applied (h : TakenAs s p w .pickup pair) (ht : TillApplies s w .pickup i) (hbody : parseSkim w.frame.body = some (q, n, v))
    (hs : sequenceCheck s.drawers[i] q w.crc = .passes gap) (hnew : Creatable s n v) : Yields (.pickup p) s fun u =>
      findBag u n = some (newBag s .pickup .sealed n v (some i) none none) ∧
      u.drawers[i].pickups = min 4294967295 (s.drawers[i].pickups + v) ∧
      u.drawers[i].pickupCount = min 65535 (s.drawers[i].pickupCount + 1) ∧
      u.drawers[i].expected = max Config.low31 (min Config.high31 (s.drawers[i].expected - v)) ∧
      u.drawers[i].lastSeq = some q ∧
      Reevaluated s u i { s.drawers[i].pickedUp v with lastSeq := some q, lastCrc := some w.crc } ∧
      Answered s u p w (if u.drawers[i].state = .hold then .hold else .accepted) (signed u.drawers[i].expected) := by
  refine createRule_yields (c := .pickup) (fun _ _ => rfl) h (pickupJob_eq { w.taken p with pair := pair }) ht hbody hs hnew
    fun u hbag hr hans => ⟨hbag, ?_, ?_, ?_, ?_, hr, hans⟩ <;> rw [reevaluated_row hr]
  · exact (satNat_fst _).trans (Nat.min_comm _ _)
  · rfl
  · exact satInt_fst _
  · rfl

theorem cashup_applied (h : TakenAs s p w .cashup pair) (ht : TillApplies s w .cashup i) (hbody : parseSkim w.frame.body = some (q, n, v))
    (hs : sequenceCheck s.drawers[i] q w.crc = .passes gap) (hnew : Creatable s n v) : Yields (.cashup p) s fun u =>
      findBag u n = some (newBag s .cashup .sealed n v (some i) none none) ∧
      u.drawers[i].cashup = min 4294967295 (s.drawers[i].cashup + v) ∧ u.drawers[i].state = .cashedUp ∧ u.drawers[i].due = false ∧
      u.drawers[i].cashupDiff = some (max Config.low31 (min Config.high31 (s.drawers[i].expected - v))) ∧
      u.drawers[i].expected = max Config.low31 (min Config.high31 (s.drawers[i].expected - v)) ∧
      Reevaluated s u i { s.drawers[i].cashedUpWith v with lastSeq := some q, lastCrc := some w.crc } ∧
      Answered s u p w .accepted (signed u.drawers[i].expected) := by
  refine createRule_yields (c := .cashup) (fun _ _ => rfl) h (cashupJob_eq { w.taken p with pair := pair }) ht hbody hs hnew fun u hbag hr hans => ?_
  have hstate : u.drawers[i].state = .cashedUp := by
    have hst : (Drawer.cashedUpWith { s.drawers[i] with lastSeq := some q, lastCrc := some w.crc } v).state = .cashedUp := rfl
    rw [reevaluated_state hr, if_neg (by rw [hst]; exact nofun), if_neg (by rw [hst]; exact nofun), hst]
  rw [hstate, if_neg (by decide)] at hans
  have hdue : u.drawers[i].due = false := by
    by_contra hdue
    rcases reevaluated_due hr (Bool.eq_true_of_not_eq_false hdue) with h | h <;> rw [hstate] at h <;> cases h
  refine ⟨hbag, ?_, hstate, hdue, ?_, ?_, hr, hans⟩ <;> rw [reevaluated_row hr]
  · exact (satNat_fst _).trans (Nat.min_comm _ _)
  · exact congrArg some (satInt_fst _)
  · exact satInt_fst _

end

/-- Settles O35: both frames by the rule that creates. -/
theorem tillBags : Obligations.TillBags := by
  unfold Obligations.TillBags
  exact fun p s w t pair q n v gap hbody hs => ⟨fun hnew => ⟨fun h ht => pickup_applied h ht hbody hs hnew, fun h ht => cashup_applied h ht hbody hs hnew⟩,
    fun code hrefused => ⟨fun h ht => createRule_refuses (c := .pickup) (fun _ _ => rfl) h (pickupJob_eq { w.taken p with pair := some pair }) ht hbody hs hrefused,
      fun h ht => createRule_refuses (c := .cashup) (fun _ _ => rfl) h (cashupJob_eq { w.taken p with pair := some pair }) ht hbody hs hrefused⟩⟩

section
variable {s u : State} {p : Port} {w : Window} {i : Fin 160} {pair : Option (Byte × Byte)} {q n gap : Nat} {b : Bag}

/-! ## FLOAT_RECEIPT (R55, R72) -/

/-- The order of a delivered bag is freed as DONE, if it has one (R72). -/
def freeDone (o : Option (Fin 24)) (s : State) : State := o.elim s fun e => freeOrder e .done s

theorem freeDone_leaves (o : Option (Fin 24)) (s : State) : unchangedBut [.orders, .drawers] s (freeDone o s) := by
  cases o with
  | none => exact unchangedBut_refl _ s
  | some e => exact freeOrder_leaves e .done s

theorem freeOrder_drawer (e : Fin 24) (o : OrderOutcome) (s : State) (i : Fin 160) : (freeOrder e o s).drawers[i] =
    if s.orders[e].till = i then { s.drawers[i] with openOrder := none } else s.drawers[i] := by
  refine (put_get _ _ _ _).trans ?_
  split
  · next h =>
    subst h
    rfl
  · rfl

/-- The state of a float receipt before its movement: the bag DELIVERED, its order freed, the till's open order cleared (R72). -/
def receiptTaken (i : Fin 160) (n : Nat) (b : Bag) (now : Nat) (s : State) : State :=
  setOpenOrder i none (freeDone b.order (changeBag n (fun _ => b.moved .delivered now) s))

theorem receiptTaken_leaves (i : Fin 160) (n : Nat) (b : Bag) (now : Nat) (s : State) :
    unchangedBut [.bags, .orders, .drawers] s (receiptTaken i n b now s) :=
  unchangedBut_mono (unchangedBut_trans (changeBag_leaves n _ s) (unchangedBut_trans (freeDone_leaves b.order _) (setOpenOrder_leaves i none _)))
    (by decide)

theorem receiptTaken_row (i : Fin 160) (n : Nat) (b : Bag) (now : Nat) (s : State) :
    (receiptTaken i n b now s).drawers[i] = { s.drawers[i] with openOrder := none } := by
  refine (put_get _ _ _ _).trans ?_
  rw [if_pos rfl]
  unfold freeDone
  cases b.order with
  | none => rfl
  | some e =>
    show ({ (freeOrder e .done _).drawers[i] with openOrder := none } : Drawer) = _
    rw [freeOrder_drawer]
    split <;> rfl

theorem receiptTaken_orders (i : Fin 160) (n : Nat) {b : Bag} (now : Nat) (s : State) {e : Fin 24} (h : b.order = some e) :
    (receiptTaken i n b now s).orders[e] = { s.orders[e] with state := .free, outcome := .done } := by
  unfold receiptTaken freeDone
  rw [h]
  show (put s.orders e _)[e] = _
  rw [put_get, if_pos rfl]
  rfl

theorem receiptTaken_bag (i : Fin 160) (now : Nat) {s : State} (h : findBag s n = some b) :
    findBag (receiptTaken i n b now s) n = some (b.moved .delivered now) := by
  have hseal : (b.moved .delivered now).sealNo = n := (findBag_some h).2
  unfold receiptTaken
  rw [findBag_of_leaves (setOpenOrder_leaves i none _), findBag_of_leaves (freeDone_leaves b.order _), findBag_replaced hseal, if_pos rfl, h]
  rfl

theorem receiptRule_ok (h : findBag s n = some b) (hkind : b.kind = .floatBag) (hstate : b.state = .madeUp) (htill : b.till = some i) (q : Nat) :
    receiptRule i (q, n) s = (moveDrawer i (fun d => d.receivedFloat b.declared) (receiptTaken i n b s.seconds s),
      drawerAnswer i (moveDrawer i (fun d => d.receivedFloat b.declared) (receiptTaken i n b s.seconds s))) := by
  have hmove : moveReceipt s.seconds b = .ok (b.moved .delivered s.seconds) := by
    unfold moveReceipt
    rw [hkind, hstate]
    rfl
  unfold receiptRule receiptTaken freeDone
  rw [h]
  dsimp only
  rw [hmove]
  dsimp only
  rw [if_neg (not_not.mpr htill)]
  cases b.order <;> rfl

theorem receiptRule_unknown (h : findBag s n = none) (q : Nat) : receiptRule i (q, n) s = (s, .verdict .unknownBag (num n)) := by
  unfold receiptRule
  rw [h]

theorem receiptRule_wrong (h : findBag s n = some b) (hwrong : b.kind ≠ .floatBag ∨ b.state ≠ .madeUp) (q : Nat) :
    receiptRule i (q, n) s = (s, .verdict .wrongBagState (num n)) := by
  have hmove : moveReceipt s.seconds b = .error .wrongBagState := by
    unfold moveReceipt
    rw [if_neg]
    simpa using not_and_or.mpr hwrong
  unfold receiptRule
  rw [h]
  dsimp only
  rw [hmove]

theorem receiptRule_other {j : Fin 160} (h : findBag s n = some b) (hkind : b.kind = .floatBag) (hstate : b.state = .madeUp)
    (htill : b.till = some j) (hne : j ≠ i) (q : Nat) : receiptRule i (q, n) s = (s, .verdict .wrongBagState (num j.val)) := by
  have hmove : moveReceipt s.seconds b = .ok (b.moved .delivered s.seconds) := by
    unfold moveReceipt
    rw [hkind, hstate]
    rfl
  unfold receiptRule
  rw [h]
  dsimp only
  rw [hmove]
  dsimp only
  rw [if_pos (by rw [htill]; exact fun h => hne (Option.some.inj h)), htill]
  rfl

theorem receiptJob_decided (ht : TillApplies s w .floatReceipt i) (hbody : parseReceipt w.frame.body = some (q, n))
    (hs : sequenceCheck s.drawers[i] q w.crc = .passes gap) :
    JobKind.floatReceipt.job { w.taken p with pair := pair } (s.setRx p .idle) = receiptRule i (q, n) (tillDecided s p i q gap w.crc) :=
  tillFrame_decided (k := .floatReceipt) (parsed := parseReceipt w.frame.body) (seq := fun a : Nat × Nat => some a.1) (copy := duplicateVerdict)
    (job := receiptRule) (pair := pair) ht hbody rfl hs

theorem receipt_applied (h : TakenAs s p w .floatReceipt pair) (ht : TillApplies s w .floatReceipt i) (hbody : parseReceipt w.frame.body = some (q, n))
    (hs : sequenceCheck s.drawers[i] q w.crc = .passes gap) (hfind : findBag s n = some b) (hkind : b.kind = .floatBag) (hstate : b.state = .madeUp)
    (htill : b.till = some i) : Yields (.floatReceipt p) s fun u =>
      u.drawers[i].floatDelivered = min 4294967295 (s.drawers[i].floatDelivered + b.declared) ∧
      u.drawers[i].expected = max Config.low31 (min Config.high31 (s.drawers[i].expected + b.declared)) ∧
      u.drawers[i].openOrder = none ∧ (s.drawers[i].state = .closed → u.drawers[i].state = .floated) ∧
      Reevaluated s u i { s.drawers[i].receivedFloat b.declared with openOrder := none, lastSeq := some q, lastCrc := some w.crc } ∧
      (∀ e, b.order = some e → u.orders[e] = { s.orders[e] with state := .free, outcome := .done }) ∧
      (s.day.state ≠ .closing → findBag u n = some { b with state := .delivered, entered := s.seconds }) ∧
      Answered s u p w (if u.drawers[i].state = .hold then .hold else .accepted) (signed u.drawers[i].expected) := by
  have hfind' : findBag (tillDecided s p i q gap w.crc) n = some b := (findBag_congr (tillDecided_bags s p i q gap w.crc) n).trans hfind
  have hseconds : (tillDecided s p i q gap w.crc).seconds = s.seconds := tillDecided_leaves s p i q gap w.crc .seconds (by cases p <;> decide)
  have hjob := (receiptJob_decided (p := p) (pair := pair) ht hbody hs).trans (receiptRule_ok hfind' hkind hstate htill q)
  have htaken := receiptTaken_leaves i n b s.seconds (tillDecided s p i q gap w.crc)
  have hrow := receiptTaken_row i n b s.seconds (tillDecided s p i q gap w.crc)
  have horders (e : Fin 24) (he : b.order = some e) := receiptTaken_orders i n s.seconds (tillDecided s p i q gap w.crc) he
  have hbag := receiptTaken_bag i s.seconds hfind'
  rw [hseconds] at hjob
  rw [tillDecided_drawer] at hrow
  rw [tillDecided_orders] at horders
  generalize receiptTaken i n b s.seconds (tillDecided s p i q gap w.crc) = v at hjob htaken hrow horders hbag
  refine job_yields (c := .floatReceipt) (fun _ _ => rfl) h (isJob_of_takenAs h) hjob fun u hu => ?_
  have hr : Reevaluated s u i (Drawer.receivedFloat { s.drawers[i] with openOrder := none, lastSeq := some q, lastCrc := some w.crc } b.declared) :=
    moved_decided (g := fun d => d.receivedFloat b.declared) hu htaken (by decide) hrow rfl
  have hmoved := moveDrawer_leaves i (fun d => d.receivedFloat b.declared) v
  have hdrawer := reevaluated_row hr
  refine ⟨?_, ?_, ?_, fun hclosed => ?_, hr, fun e he => ?_, fun hday => ?_, hu.drawerAnswered⟩
  · rw [hdrawer]
    exact (satNat_fst _).trans (Nat.min_comm _ _)
  · rw [hdrawer]
    exact satInt_fst _
  · rw [hdrawer]
    rfl
  · have hst : (Drawer.receivedFloat { s.drawers[i] with openOrder := none, lastSeq := some q, lastCrc := some w.crc } b.declared).state = .floated :=
      if_pos hclosed
    rw [reevaluated_state hr, hst, if_neg nofun, if_neg nofun]
  · rw [show u.orders = _ from hu.part .orders, show (moveDrawer i (fun d => d.receivedFloat b.declared) v).orders = _ from hmoved .orders (by decide),
      horders e he]
  · rw [findBag_of_leaves (hu.open hday).1, findBag_of_leaves hmoved, hbag]
    rfl

end

/-- Settles O37: the receipt by what it takes and moves, its refusals in their order. -/
theorem floatReceiptResult : Obligations.FloatReceiptResult := by
  unfold Obligations.FloatReceiptResult
  intro p s w t pair q n gap h ht hbody hs
  have hbags := tillDecided_bags s p t q gap w.crc
  have hrefused {code : Code} {d : Option Word32} (hrule : receiptRule t (q, n) (tillDecided s p t q gap w.crc) =
      (tillDecided s p t q gap w.crc, .verdict code d)) : RefusedTillFrame .floatReceipt s p w t q gap code d :=
    refused_till (c := .floatReceipt) (fun _ _ => rfl) h (isJob_of_takenAs h) ((receiptJob_decided ht hbody hs).trans hrule)
  refine ⟨fun hfind => hrefused (receiptRule_unknown ((findBag_congr hbags n).trans hfind) q), fun b hfind =>
    ⟨fun hwrong => hrefused (receiptRule_wrong ((findBag_congr hbags n).trans hfind) hwrong q), fun k hkind hstate htill hne =>
      hrefused (receiptRule_other ((findBag_congr hbags n).trans hfind) hkind hstate htill hne q), receipt_applied h ht hbody hs hfind⟩⟩

end Sys2Proof.Machine.Effects

/-! PROOF. DECLARE: its order and reservation, its ADVICE, its events, and its refusals in the order of R62 (R61 to R70). -/

namespace Sys2Proof.Machine.Effects

open Sys2Proof Sys2Proof.Machine Sys2Proof.Machine.Takings Sys2Proof.Machine.TallyCount

section
variable {s t : State} {i : Fin 160}

/-! ## What the rebalance reads (R64 to R66) -/

theorem capReduce_congr (h : t.denoms = s.denoms) (cap : Nat) (l : List (Fin 12)) (issue : Vector Nat 12) (flags : Vector Bool 12) :
    capReduce t cap l issue flags = capReduce s cap l issue flags := by
  induction l generalizing issue flags with
  | nil => rfl
  | cons c l ih => simp only [capReduce, valueOf_congr h, h, ih]

theorem rebalance_congr (hdenoms : t.denoms = s.denoms) (hstock : t.stock = s.stock) (htills : t.tills = s.tills) (hday : t.day = s.day)
    (ps : List (Fin 12 × Nat)) : rebalance t i ps = rebalance s i ps := by
  have hissues (c : Fin 12) : issues t i ps c = issues s i ps c := by
    unfold issues
    rw [hdenoms, htills, hday]
  have hfree (c : Fin 12) : t.freeOf c = s.freeOf c := by
    unfold State.freeOf State.heldOf
    rw [hdenoms, hstock]
  have hgrant : grantedIssue t i ps = grantedIssue s i ps := by
    unfold grantedIssue grantedPackets
    simp only [hissues, hfree, hdenoms, htills]
  have hskim (c : Fin 12) : skimCount t i ps c = skimCount s i ps c := by
    unfold skimCount
    rw [hdenoms, htills]
  have hshort (c : Fin 12) : shortOfStock t i ps c = shortOfStock s i ps c := by
    unfold shortOfStock
    rw [hissues, hfree, hdenoms, htills]
  unfold rebalance
  rw [capReduce_congr hdenoms, faceOrder_congr hdenoms, hgrant, htills]
  simp only [hskim, hshort]

theorem declaredValue_congr (h : t.denoms = s.denoms) (ps : List (Fin 12 × Nat)) : declaredValue t ps = declaredValue s ps := by
  unfold declaredValue
  rw [h]

/-! ## The checks of R62 -/

theorem namedTwice_some {seen before after : List (Fin 12)} {c : Fin 12} (hseen : ∀ x ∈ before, x ∉ seen) (hnodup : before.Nodup)
    (hc : c ∈ before ∨ c ∈ seen) : namedTwice seen (before ++ c :: after) = some c := by
  induction before generalizing seen with
  | nil =>
    have hc := hc.resolve_left List.not_mem_nil
    exact if_pos (List.contains_iff_mem.mpr hc)
  | cons x before ih =>
    obtain ⟨hx, hnodup⟩ := List.nodup_cons.mp hnodup
    have hnot : ¬ seen.contains x = true := fun h => hseen x List.mem_cons_self (List.contains_iff_mem.mp h)
    refine (if_neg hnot).trans (ih (fun y hy => ?_) hnodup ?_)
    · rintro hmem
      rcases List.mem_cons.mp hmem with rfl | hmem
      · exact hx hy
      · exact hseen y (List.mem_cons_of_mem _ hy) hmem
    · rcases hc with hc | hc
      · rcases List.mem_cons.mp hc with rfl | hc
        · exact .inr List.mem_cons_self
        · exact .inl hc
      · exact .inr (List.mem_cons_of_mem _ hc)

theorem namedTwice_none {seen l : List (Fin 12)} (hseen : ∀ x ∈ l, x ∉ seen) (hnodup : l.Nodup) : namedTwice seen l = none := by
  induction l generalizing seen with
  | nil => rfl
  | cons x l ih =>
    obtain ⟨hx, hnodup⟩ := List.nodup_cons.mp hnodup
    have hnot : ¬ seen.contains x = true := fun h => hseen x List.mem_cons_self (List.contains_iff_mem.mp h)
    refine (if_neg hnot).trans (ih (fun y hy hmem => ?_) hnodup)
    rcases List.mem_cons.mp hmem with rfl | hmem
    · exact hx hy
    · exact hseen y (List.mem_cons_of_mem _ hy) hmem

theorem freeEntry_some {j : Fin 24} (hfree : s.orders[j].state = .free) (hfirst : ∀ k : Fin 24, k < j → s.orders[k].state ≠ .free) :
    freeEntry s = some j := firstIndex_some.mpr ⟨decide_eq_true hfree, fun k hk => decide_eq_false (hfirst k hk)⟩

theorem freeEntry_none (h : ∀ k : Fin 24, s.orders[k].state ≠ .free) : freeEntry s = none :=
  firstIndex_none.mpr fun k => decide_eq_false (h k)

variable {q : Nat} {ps : List (Fin 12 × Nat)} {j : Fin 24}

theorem declareRule_open (h : s.drawers[i].openOrder = some j) : declareRule i (q, ps) s = (s, .verdict .orderOpen (num j.val)) := by
  unfold declareRule
  rw [h]

theorem declareRule_full (hopen : s.drawers[i].openOrder = none) (hfull : freeEntry s = none) :
    declareRule i (q, ps) s = (s, .verdict .orderFull (num 0)) := by
  unfold declareRule
  rw [hopen]
  dsimp only
  rw [hfull]

theorem declareRule_disabled {x : Fin 12 × Nat} (hopen : s.drawers[i].openOrder = none) (hfree : freeEntry s = some j)
    (hfind : (ps.find? fun p => !s.denoms[p.1].enabled) = some x) : declareRule i (q, ps) s = (s, .verdict .malformed (num x.1.val)) := by
  unfold declareRule
  rw [hopen]
  dsimp only
  rw [hfree]
  dsimp only
  rw [hfind]

theorem declareRule_twice {c : Fin 12} (hopen : s.drawers[i].openOrder = none) (hfree : freeEntry s = some j)
    (hfind : (ps.find? fun p => !s.denoms[p.1].enabled) = none) (htwice : namedTwice [] (ps.map fun p => p.1) = some c) :
    declareRule i (q, ps) s = (s, .verdict .malformed (num c.val)) := by
  unfold declareRule
  rw [hopen]
  dsimp only
  rw [hfree]
  dsimp only
  rw [hfind]
  dsimp only
  rw [htwice]

theorem declareRule_acts (hopen : s.drawers[i].openOrder = none) (hfree : freeEntry s = some j)
    (hfind : (ps.find? fun p => !s.denoms[p.1].enabled) = none) (honce : namedTwice [] (ps.map fun p => p.1) = none) :
    declareRule i (q, ps) s = actOnRebalance i j q ps s := by
  unfold declareRule
  rw [hopen]
  dsimp only
  rw [hfree]
  dsimp only
  rw [hfind]
  dsimp only
  rw [honce]

/-! ## The events of a declaration (R63, R67) -/

theorem compareDeclared_event (i : Fin 160) (n : Nat) (s : State) : (compareDeclared i n s).event .declareVariance =
    if s.timing.declareTolerance < ((n : Int) - s.drawers[i].expected).natAbs then
      { s.event .declareVariance with
        pending := true, detail := BitVec.ofNat 32 i.val, count := min 255 ((s.event .declareVariance).count + 1) }
    else s.event .declareVariance := by
  unfold compareDeclared
  split
  · exact (raise_event _ _ _ _).trans (if_pos rfl)
  · rfl

theorem raiseShort_raised {r : Rebalance} (h : ∃ c : Fin 12, r.shortStock[c] = true ∨ r.shortCap[c] = true) (i : Fin 160) (s : State) :
    (raiseShort i r s).event .stockShort =
      { s.event .stockShort with pending := true, detail := BitVec.ofNat 32 i.val, count := min 255 ((s.event .stockShort).count + 1) } := by
  obtain ⟨c, hc⟩ := h
  have hany : (anyRow id r.shortStock || anyRow id r.shortCap) = true := by
    rcases hc with hc | hc
    · rw [(anyRow_iff id r.shortStock).mpr ⟨c, hc⟩, Bool.true_or]
    · rw [(anyRow_iff id r.shortCap).mpr ⟨c, hc⟩, Bool.or_true]
  unfold raiseShort
  rw [if_pos hany]
  exact (raise_event _ _ _ _).trans (if_pos rfl)

theorem raiseShort_quiet {r : Rebalance} (h : ∀ c : Fin 12, r.shortStock[c] = false ∧ r.shortCap[c] = false) (i : Fin 160) (s : State) :
    raiseShort i r s = s := by
  unfold raiseShort
  rw [(anyRow_false_iff id r.shortStock).mpr fun c => (h c).1, (anyRow_false_iff id r.shortCap).mpr fun c => (h c).2]
  rfl

/-! ## The ADVICE (R70) -/

theorem be_one (n : Nat) : be 1 n = [BitVec.ofNat 8 n] := by simp [be]

theorem adviceLine_eq (r : Rebalance) (c : Fin 12) : adviceLine r c =
    be 1 (c.val + 16 * r.shortStock[c].toNat + 32 * r.shortCap[c].toNat + 64 * (decide (0 < r.skim[c])).toNat) ++
      be 2 (if 0 < r.skim[c] then r.skim[c] else r.issue[c]) := by
  have hcount (b : Bool) (n : Nat) : n * b.toNat = if b then n else 0 := by cases b <;> simp
  unfold adviceLine
  rw [be_one, hcount, hcount, hcount]
  simp

theorem adviceBody_eq (s : State) (order : Option (Fin 24)) (issueValue skimValue : Nat) (r : Rebalance) :
    adviceBody s .accepted order issueValue skimValue r =
      (if 9 < (adviceCodes s r).length then Code.accepted.byte ||| 0x80#8 else Code.accepted.byte) ::
        (order.elim 0xFF#8 fun j => BitVec.ofNat 8 j.val) ::
        (be 4 issueValue ++ be 5 skimValue ++ be 1 (min 9 (adviceCodes s r).length) ++
          ((adviceCodes s r).take 9).flatMap fun c =>
            be 1 (c.val + 16 * r.shortStock[c].toNat + 32 * r.shortCap[c].toNat + 64 * (decide (0 < r.skim[c])).toNat) ++
            be 2 (if 0 < r.skim[c] then r.skim[c] else r.issue[c])) := by
  have hline : adviceLine r = _ := funext (adviceLine_eq r)
  have hstatus (b : Prop) [Decidable b] : Code.accepted.byte ||| (if b then 0x80#8 else 0#8) =
      if b then Code.accepted.byte ||| 0x80#8 else Code.accepted.byte := by
    split
    · rfl
    · rfl
  unfold adviceBody
  dsimp only
  rw [hline, hstatus, be_one (min 9 _), List.length_take]
  cases order <;> simp

end

section
variable {s u : State} {p : Port} {w : Window} {i : Fin 160} {j : Fin 24} {q gap : Nat} {ps : List (Fin 12 × Nat)}

/-! ## The rebalance acted on (R67, R68) -/

/-- The state of a declaration behind its events, before its order (R63, R67). -/
def declared (i : Fin 160) (ps : List (Fin 12 × Nat)) (s : State) : State :=
  raiseShort i (rebalance s i ps) (compareDeclared i (declaredValue s ps) s)

theorem declared_leaves (i : Fin 160) (ps : List (Fin 12 × Nat)) (s : State) : unchangedBut [.events] s (declared i ps s) :=
  unchangedBut_comp (compareDeclared_leaves _ _ s) (raiseShort_leaves _ _ _)

/-- The order placed and its issue reserved (R67, R68). -/
def ordered (i : Fin 160) (j : Fin 24) (q : Nat) (ps : List (Fin 12 × Nat)) (s : State) : State :=
  setOpenOrder i (some j) (reserve (rebalance s i ps).issue (setOrder j (newOrder s i q ps (rebalance s i ps)) (declared i ps s)))

theorem actOnRebalance_issue (h : 0 < s.valueOf (rebalance s i ps).issue) : actOnRebalance i j q ps s =
    (ordered i j q ps s, .advice .accepted (adviceBody s .accepted (some j) (s.valueOf (rebalance s i ps).issue) (s.valueOf (rebalance s i ps).skim)
      (rebalance s i ps))) := by
  unfold actOnRebalance ordered declared
  dsimp only
  rw [if_pos h]

theorem actOnRebalance_none (h : s.valueOf (rebalance s i ps).issue = 0) : actOnRebalance i j q ps s =
    (declared i ps s, .advice .accepted (adviceBody s .accepted none 0 (s.valueOf (rebalance s i ps).skim) (rebalance s i ps))) := by
  unfold actOnRebalance declared
  dsimp only
  rw [if_neg (Nat.not_lt.mpr (Nat.le_of_eq h))]

theorem placed_order_leaves (i : Fin 160) (j : Fin 24) (o : Order) (v : Vector Nat 12) (u : State) :
    unchangedBut [.orders, .stock, .drawers] u (setOpenOrder i (some j) (reserve v (setOrder j o u))) :=
  unchangedBut_mono (unchangedBut_trans (unchangedBut_trans (setOrder_leaves j o u) (reserve_leaves v _)) (setOpenOrder_leaves i (some j) _)) (by decide)

theorem ordered_leaves (i : Fin 160) (j : Fin 24) (q : Nat) (ps : List (Fin 12 × Nat)) (s : State) :
    unchangedBut [.orders, .stock, .drawers] (declared i ps s) (ordered i j q ps s) := placed_order_leaves i j _ _ _

theorem placed_order_orders (i : Fin 160) (j : Fin 24) (o : Order) (v : Vector Nat 12) (u : State) :
    (setOpenOrder i (some j) (reserve v (setOrder j o u))).orders = put u.orders j o := rfl

theorem reserve_stock (v : Vector Nat 12) (u : State) (c : Fin 12) :
    (reserve v u).stock[c] = { u.stock[c] with reserved := u.stock[c].reserved + v[c] } := by
  unfold reserve
  rw [State.setStock_stock]
  exact ofFn_row _ c

theorem placed_order_stock (i : Fin 160) (j : Fin 24) (o : Order) (v : Vector Nat 12) (u : State) (c : Fin 12) :
    (setOpenOrder i (some j) (reserve v (setOrder j o u))).stock[c] = { u.stock[c] with reserved := u.stock[c].reserved + v[c] } := by
  rw [show (setOpenOrder i (some j) (reserve v (setOrder j o u))).stock = (reserve v (setOrder j o u)).stock from rfl, reserve_stock,
    show (setOrder j o u).stock = u.stock from rfl]

theorem ordered_order (i : Fin 160) (j : Fin 24) (q : Nat) (ps : List (Fin 12 × Nat)) (s : State) (k : Fin 24) :
    (ordered i j q ps s).orders[k] = if j = k then newOrder s i q ps (rebalance s i ps) else s.orders[k] := by
  unfold ordered
  rw [placed_order_orders, put_get, show (declared i ps s).orders = s.orders from declared_leaves i ps s .orders (by decide)]

theorem ordered_stock (i : Fin 160) (j : Fin 24) (q : Nat) (ps : List (Fin 12 × Nat)) (s : State) (c : Fin 12) :
    (ordered i j q ps s).stock[c] = { s.stock[c] with reserved := s.stock[c].reserved + (rebalance s i ps).issue[c] } := by
  unfold ordered
  rw [placed_order_stock, show (declared i ps s).stock = s.stock from declared_leaves i ps s .stock (by decide)]

theorem ordered_open (i : Fin 160) (j : Fin 24) (q : Nat) (ps : List (Fin 12 × Nat)) (s : State) :
    (ordered i j q ps s).drawers[i].openOrder = some j := by
  unfold ordered setOpenOrder
  rw [setDrawer_get, if_pos rfl]

/-- Where the decided state is the state of a declaration, it reads as the state before. -/
theorem declare_reads (s : State) (p : Port) (i : Fin 160) (q gap : Nat) (crc : Word16) (ps : List (Fin 12 × Nat)) :
    rebalance (tillDecided s p i q gap crc) i ps = rebalance s i ps ∧ declaredValue (tillDecided s p i q gap crc) ps = declaredValue s ps ∧
    newOrder (tillDecided s p i q gap crc) i q ps (rebalance s i ps) = newOrder s i q ps (rebalance s i ps) := by
  have hleaves := tillDecided_leaves s p i q gap crc
  have hdenoms := tillDecided_denoms s p i q gap crc
  have hday : (tillDecided s p i q gap crc).day = s.day := hleaves .day (by cases p <;> decide)
  have hvalue := declaredValue_congr hdenoms ps
  refine ⟨rebalance_congr hdenoms (hleaves .stock (by cases p <;> decide)) (hleaves .tills (by cases p <;> decide)) hday ps, hvalue, ?_⟩
  unfold newOrder
  rw [hday, hvalue, valueOf_congr hdenoms, valueOf_congr hdenoms, tillDecided_drawer]

theorem declareJob_decided {pair : Option (Byte × Byte)} (ht : TillApplies s w .declare i) (hbody : parseDeclare w.frame.body = some (q, ps))
    (hs : sequenceCheck s.drawers[i] q w.crc = .passes gap) :
    JobKind.declare.job { w.taken p with pair := pair } (s.setRx p .idle) = declareRule i (q, ps) (tillDecided s p i q gap w.crc) :=
  tillFrame_decided (k := .declare) (parsed := parseDeclare w.frame.body) (seq := fun a : Nat × List (Fin 12 × Nat) => some a.1) (copy := declareCopy)
    (job := declareRule) (pair := pair) ht hbody rfl hs

/-- The events behind a declaration (R63, R67). -/
theorem declared_events {r : Rebalance} (hu : ∀ e ∈ [Event.declareVariance, .stockShort], u.event e = (declared i ps (tillDecided s p i q gap w.crc)).event e)
    (hr : r = rebalance s i ps) :
    u.event .declareVariance =
      (if s.timing.declareTolerance < ((declaredValue s ps : Int) - s.drawers[i].expected).natAbs then
        { s.event .declareVariance with
          pending := true, detail := BitVec.ofNat 32 i.val, count := min 255 ((s.event .declareVariance).count + 1) }
       else s.event .declareVariance) ∧
    ((∃ c : Fin 12, r.shortStock[c] = true ∨ r.shortCap[c] = true) → u.event .stockShort =
      { s.event .stockShort with pending := true, detail := BitVec.ofNat 32 i.val, count := min 255 ((s.event .stockShort).count + 1) }) ∧
    ((∀ c : Fin 12, r.shortStock[c] = false ∧ r.shortCap[c] = false) → u.event .stockShort = s.event .stockShort) := by
  subst hr
  obtain ⟨hrebalance, hvalue, -⟩ := declare_reads s p i q gap w.crc ps
  have hevent (e : Event) (he : e ≠ .sequenceGap) : (tillDecided s p i q gap w.crc).event e = s.event e := by rw [tillDecided_event, if_neg he.symm]
  have hshort : (compareDeclared i (declaredValue s ps) (tillDecided s p i q gap w.crc)).event .stockShort = s.event .stockShort :=
    (event_kept (compareDeclared_events _ _ _)).trans (hevent _ (by decide))
  rw [hu _ (by decide), hu _ (by decide)]
  unfold declared
  rw [hrebalance, hvalue]
  refine ⟨?_, fun h => ?_, fun h => ?_⟩
  · rw [event_kept (raiseShort_events _ _ _), compareDeclared_event, hevent _ (by decide), tillDecided_drawer,
      show (tillDecided s p i q gap w.crc).timing = s.timing from tillDecided_leaves s p i q gap w.crc .timing (by cases p <;> decide)]
  · rw [raiseShort_raised h, hshort]
  · rw [raiseShort_quiet h, hshort]

end

section
variable {s : State} {p : Port} {w : Window} {i : Fin 160} {j : Fin 24} {q gap : Nat} {ps : List (Fin 12 × Nat)}

/-- A declaration with an issue (R67, R68). -/
theorem declare_issues (h : TakenAs s p w .declare none) (hjob : JobKind.declare.job { w.taken p with pair := none } (s.setRx p .idle) =
    actOnRebalance i j q ps (tillDecided s p i q gap w.crc)) (hissue : 0 < s.valueOf (rebalance s i ps).issue) : Yields (.declare p) s fun u =>
      (u.orders[j] = newOrder s i q ps (rebalance s i ps) ∧ (∀ k : Fin 24, k ≠ j → u.orders[k] = s.orders[k]) ∧
        (∀ c : Fin 12, u.stock[c] = { s.stock[c] with reserved := s.stock[c].reserved + (rebalance s i ps).issue[c] }) ∧
        u.drawers[i].openOrder = some j ∧
        Advised s u p w .accepted (adviceBody s .accepted (some j) (s.valueOf (rebalance s i ps).issue) (s.valueOf (rebalance s i ps).skim)
          (rebalance s i ps))) ∧
      ∀ e ∈ [Event.declareVariance, .stockShort], u.event e = (declared i ps (tillDecided s p i q gap w.crc)).event e := by
  obtain ⟨hrebalance, -, hnew⟩ := declare_reads s p i q gap w.crc ps
  have hleaves := tillDecided_leaves s p i q gap w.crc
  have hdenoms := tillDecided_denoms s p i q gap w.crc
  have horders := tillDecided_orders s p i q gap w.crc
  have hstock : (tillDecided s p i q gap w.crc).stock = s.stock := hleaves .stock (by cases p <;> decide)
  have hvalue (v : Vector Nat 12) : (tillDecided s p i q gap w.crc).valueOf v = s.valueOf v := valueOf_congr hdenoms v
  have hact := actOnRebalance_issue (i := i) (j := j) (q := q) (ps := ps) (s := tillDecided s p i q gap w.crc) (by rw [hrebalance, hvalue]; exact hissue)
  rw [hrebalance, hvalue, hvalue, adviceBody_congr hdenoms] at hact
  have hrows := ordered_order i j q ps (tillDecided s p i q gap w.crc)
  have hcounts := ordered_stock i j q ps (tillDecided s p i q gap w.crc)
  have hopen := ordered_open i j q ps (tillDecided s p i q gap w.crc)
  have hevents := ordered_leaves i j q ps (tillDecided s p i q gap w.crc) .events (by decide)
  rw [hrebalance, hnew, horders] at hrows
  rw [hrebalance, hstock] at hcounts
  generalize ordered i j q ps (tillDecided s p i q gap w.crc) = v at hact hrows hcounts hopen hevents
  refine job_yields (c := .declare) (fun _ _ => rfl) h (isJob_of_takenAs h) (hjob.trans hact) fun u hu => ⟨⟨?_, fun k hk => ?_, fun c => ?_, ?_, hu.advised⟩, fun e he => ?_⟩
  · rw [show u.orders = v.orders from hu.part .orders, hrows, if_pos rfl]
  · rw [show u.orders = v.orders from hu.part .orders, hrows, if_neg hk.symm]
  · rw [show u.stock = v.stock from hu.part .stock, hcounts]
  · rw [show u.drawers = v.drawers from hu.part .drawers, hopen]
  · have hsame : v.event e = (declared i ps (tillDecided s p i q gap w.crc)).event e := congrArg (fun x => (x[e.row] : EventRec)) hevents
    rcases List.mem_cons.mp he with rfl | he
    · rw [hu.event .declareVariance, hsame]
    · obtain rfl := List.mem_singleton.mp he
      rw [hu.event .stockShort, hsame]

/-- A declaration without an issue creates no order (R67). -/
theorem declare_issues_none (h : TakenAs s p w .declare none) (hjob : JobKind.declare.job { w.taken p with pair := none } (s.setRx p .idle) =
    actOnRebalance i j q ps (tillDecided s p i q gap w.crc)) (hopen : s.drawers[i].openOrder = none)
    (hissue : s.valueOf (rebalance s i ps).issue = 0) : Yields (.declare p) s fun u =>
      (u.orders = s.orders ∧ u.stock = s.stock ∧ u.drawers[i].openOrder = none ∧
        Advised s u p w .accepted (adviceBody s .accepted none 0 (s.valueOf (rebalance s i ps).skim) (rebalance s i ps))) ∧
      ∀ e ∈ [Event.declareVariance, .stockShort], u.event e = (declared i ps (tillDecided s p i q gap w.crc)).event e := by
  obtain ⟨hrebalance, -, -⟩ := declare_reads s p i q gap w.crc ps
  have hdenoms := tillDecided_denoms s p i q gap w.crc
  have hvalue (v : Vector Nat 12) : (tillDecided s p i q gap w.crc).valueOf v = s.valueOf v := valueOf_congr hdenoms v
  have hact := actOnRebalance_none (i := i) (j := j) (q := q) (ps := ps) (s := tillDecided s p i q gap w.crc) (by rw [hrebalance, hvalue]; exact hissue)
  rw [hrebalance, hvalue, adviceBody_congr hdenoms] at hact
  have hleaves := unchangedBut_trans (tillDecided_leaves s p i q gap w.crc) (declared_leaves i ps (tillDecided s p i q gap w.crc))
  have hdrawers : (declared i ps (tillDecided s p i q gap w.crc)).drawers = (tillDecided s p i q gap w.crc).drawers :=
    declared_leaves i ps _ .drawers (by decide)
  generalize declared i ps (tillDecided s p i q gap w.crc) = v at hact hleaves hdrawers
  refine job_yields (c := .declare) (fun _ _ => rfl) h (isJob_of_takenAs h) (hjob.trans hact) fun u hu => ⟨⟨?_, ?_, ?_, hu.advised⟩, fun e he => ?_⟩
  · exact (hu.part .orders : u.orders = v.orders).trans (hleaves .orders (by cases p <;> decide))
  · exact (hu.part .stock : u.stock = v.stock).trans (hleaves .stock (by cases p <;> decide))
  · rw [show u.drawers = v.drawers from hu.part .drawers, hdrawers, tillDecided_drawer]
    exact hopen
  · rcases List.mem_cons.mp he with rfl | he
    · exact hu.event .declareVariance
    · obtain rfl := List.mem_singleton.mp he
      exact hu.event .stockShort

end

/-- Settles O36: the checks of R62 one by one, and the rebalance acted on with and without an issue. -/
theorem declareResult : Obligations.DeclareResult := by
  unfold Obligations.DeclareResult
  intro p s w t q gap ps h ht hbody hs
  have hdenoms := tillDecided_denoms s p t q gap w.crc
  have horders := tillDecided_orders s p t q gap w.crc
  have hdecided := declareJob_decided (p := p) (pair := none) ht hbody hs
  have hopenSame : (tillDecided s p t q gap w.crc).drawers[t].openOrder = s.drawers[t].openOrder := by rw [tillDecided_drawer]
  have hrefused {code : Code} {d : Option Word32} (hrule : declareRule t (q, ps) (tillDecided s p t q gap w.crc) =
      (tillDecided s p t q gap w.crc, .verdict code d)) : RefusedTillFrame .declare s p w t q gap code d :=
    refused_till (c := .declare) (fun _ _ => rfl) h (isJob_of_takenAs h) (hdecided.trans hrule)
  refine ⟨fun i hi => hrefused (declareRule_open (hopenSame.trans hi)), fun hopen hfull =>
    hrefused (declareRule_full (hopenSame.trans hopen) (freeEntry_none (by rwa [horders]))), fun i hopen hfree hfirst => ?_⟩
  have hopen' := hopenSame.trans hopen
  have hentry : freeEntry (tillDecided s p t q gap w.crc) = some i := freeEntry_some (by rwa [horders]) (by rwa [horders])
  have hfindNone (henabled : ∀ x ∈ ps, s.denoms[x.1].enabled = true) :
      (ps.find? fun x => !(tillDecided s p t q gap w.crc).denoms[x.1].enabled) = none :=
    List.find?_eq_none.mpr fun x hx => by rw [hdenoms, henabled x hx]; decide
  refine ⟨fun before x after hps hbefore hdisabled => hrefused (declareRule_disabled hopen' hentry ?_), fun henabled before c after hps hnodup hmem =>
    hrefused (declareRule_twice hopen' hentry (hfindNone henabled) ?_), fun henabled hnodup => ?_⟩
  · refine List.find?_eq_some_iff_append.mpr ⟨by rw [hdenoms, hdisabled]; rfl, before, after, hps, fun y hy => ?_⟩
    rw [hdenoms, hbefore y hy]
    rfl
  · rw [hps]
    exact namedTwice_some (by simp) hnodup (.inl hmem)
  · have hjob := hdecided.trans (declareRule_acts hopen' hentry (hfindNone henabled) (namedTwice_none (by simp) hnodup))
    rcases Nat.eq_zero_or_pos (s.valueOf (rebalance s t ps).issue) with hzero | hpos
    · obtain ⟨u, hu, ⟨hsame, hstock, hnone, hadvised⟩, hevents⟩ := declare_issues_none h hjob hopen hzero
      rw [adviceBody_eq] at hadvised
      exact ⟨u, hu, fun hpos => absurd hzero (Nat.ne_of_gt hpos), fun _ => ⟨hsame, hstock, hnone, hadvised⟩, declared_events hevents rfl⟩
    · obtain ⟨u, hu, ⟨hnew, hothers, hstock, hopened, hadvised⟩, hevents⟩ := declare_issues h hjob hpos
      rw [adviceBody_eq] at hadvised
      refine ⟨u, hu, fun _ => ⟨hnew.trans ?_, hothers, hstock, hopened, hadvised⟩, fun hzero => absurd hzero (Nat.ne_of_gt hpos), declared_events hevents rfl⟩
      unfold newOrder
      rw [satInt_fst]
      rfl

end Sys2Proof.Machine.Effects

/-! PROOF. The inspection of a marked frame: steps 1 to 6 with their refusals (R173, R174), and the frames that no job decides (R176, R177). -/

namespace Sys2Proof.Machine.Effects

open Sys2Proof Sys2Proof.Machine Sys2Proof.Machine.Takings Sys2Proof.Machine.TallyCount

section
variable {s u : State} {p : Port} {w : Window} {f : Taken} {k : JobKind} {code : Code} {d : Option Word32}

/-! ## Steps 1 to 5 (R173) -/

theorem ofByte_none {b : Byte} : JobKind.ofByte b = none ↔ ∀ k : JobKind, b ≠ k.byte := by
  refine ⟨fun h k hk => ?_, fun h => ?_⟩
  · rw [hk, ofByte_byte] at h
    cases h
  · exact List.find?_eq_none.mpr fun k _ hk => h k (of_decide_eq_true hk).symm

theorem anySender_iff : (k.senders.any fun r => roleOf s f.frame.src = some r) = true ↔ ∃ r ∈ k.senders, roleOf s f.frame.src = some r := by
  simp

theorem inspectForm_unregistered (h : registeredOn s f.port f.frame.src = false) :
    inspectForm f s = .error (.verdict .unknownNode (num f.frame.src.toNat)) := by
  unfold inspectForm
  rw [h]
  rfl

theorem inspectForm_unknown (h : registeredOn s f.port f.frame.src = true) (hk : ∀ k : JobKind, f.frame.kind ≠ k.byte) :
    inspectForm f s = .error (.verdict .unknownKind (num f.frame.kind.toNat)) := by
  unfold inspectForm
  rw [h, ofByte_none.mpr hk]
  rfl

/-- Steps 3 to 5, for a frame of a kind. -/
theorem inspectForm_kind (h : registeredOn s f.port f.frame.src = true) (hk : f.frame.kind = k.byte) : inspectForm f s =
    if ¬∃ r ∈ k.senders, roleOf s f.frame.src = some r then .error (.verdict .roleNotAllowed (roleDetail s f.frame.src))
    else if k.allowedIn s.day.state = false then .error (.verdict .wrongDayState (num s.day.state.code))
    else if formed k f.frame = false then .error (.verdict .malformed (num 0)) else .ok k := by
  unfold inspectForm
  rw [h, hk, ofByte_byte]
  by_cases hsender : ∃ r ∈ k.senders, roleOf s f.frame.src = some r
  · rw [if_neg (not_not.mpr hsender)]
    simp [anySender_iff.mpr hsender]
  · rw [if_pos hsender]
    simp [Bool.eq_false_of_not_eq_true fun h => hsender (anySender_iff.mp h)]

theorem inspectForm_ok_iff : inspectForm f s = .ok k ↔ registeredOn s f.port f.frame.src = true ∧ f.frame.kind = k.byte ∧
    (∃ r ∈ k.senders, roleOf s f.frame.src = some r) ∧ k.allowedIn s.day.state = true ∧ formed k f.frame = true := by
  constructor
  · intro h
    have hk := (inspectForm_ok h).1
    by_cases hr : registeredOn s f.port f.frame.src = true
    · rw [inspectForm_kind hr hk] at h
      split at h; · cases h
      next hsender =>
      split at h; · cases h
      next hallowed =>
      split at h; · cases h
      next hformed => exact ⟨hr, hk, not_not.mp hsender, Bool.eq_true_of_not_eq_false hallowed, Bool.eq_true_of_not_eq_false hformed⟩
    · rw [inspectForm_unregistered (Bool.eq_false_of_not_eq_true hr)] at h
      cases h
  · rintro ⟨hr, hk, hsender, hallowed, hformed⟩
    rw [inspectForm_kind hr hk, if_neg (not_not.mpr hsender), if_neg (by rw [hallowed]; decide), if_neg (by rw [hformed]; decide)]

theorem formed_iff {x : LineFrame} : formed k x = true ↔ x.dest = (if k.till then 0 else 1) ∧
    markMode x.pb = (if k.guardRow.isSome then .gather else .one) ∧ zeroBitsClear x.pb = true ∧
    (k = .makeUp → x.body.head? = some 0 ∨ x.body.head? = some 1) := by
  have hdest : k.dest = if k.till then 0 else 1 := rfl
  have hmode : k.mode = if k.guardRow.isSome then .gather else .one := rfl
  unfold formed
  rw [hdest, hmode]
  simp only [Bool.and_eq_true, Bool.or_eq_true, beq_iff_eq, bne_iff_ne, and_assoc]
  refine and_congr_right fun _ => and_congr_right fun _ => and_congr_right fun _ => ?_
  by_cases hk : k = .makeUp
  · simp [hk]
  · simp [hk]

/-! ## The verdicts of steps 1 to 6 -/

theorem decideFrame_error {a : Answer} (h : inspectForm f s = .error a) : decideFrame f s = (s, a) := by
  unfold decideFrame
  rw [h]

theorem roleNotAllowed_of (hr : registeredOn s f.port f.frame.src = true) (hk : f.frame.kind = k.byte)
    (hroles : ∀ r ∈ k.senders, roleOf s f.frame.src ≠ some r) :
    decideFrame f s = (s, .verdict .roleNotAllowed (roleDetail s f.frame.src)) :=
  decideFrame_error ((inspectForm_kind hr hk).trans (if_pos fun ⟨r, hmem, heq⟩ => hroles r hmem heq))

theorem wrongDayState_of (hr : registeredOn s f.port f.frame.src = true) (hk : f.frame.kind = k.byte)
    (hsender : ∃ r ∈ k.senders, roleOf s f.frame.src = some r) (hday : k.allowedIn s.day.state = false) :
    decideFrame f s = (s, .verdict .wrongDayState (num s.day.state.code)) :=
  decideFrame_error (((inspectForm_kind hr hk).trans (if_neg (not_not.mpr hsender))).trans (if_pos hday))

theorem malformed_of (hr : registeredOn s f.port f.frame.src = true) (hk : f.frame.kind = k.byte)
    (hsender : ∃ r ∈ k.senders, roleOf s f.frame.src = some r) (hday : k.allowedIn s.day.state = true) (hformed : formed k f.frame = false) :
    decideFrame f s = (s, .verdict .malformed (num 0)) :=
  decideFrame_error ((((inspectForm_kind hr hk).trans (if_neg (not_not.mpr hsender))).trans (if_neg (by rw [hday]; decide))).trans (if_pos hformed))

/-- Step 6 fails where no witness pair serves (R174). -/
theorem witnessMissing_of {i : Fin 7} (hform : inspectForm f s = .ok k) (hguard : k.guardRow = some i) (hpair : witnessPair s s.witness[i] f = none)
    (hk : k ≠ .openConfirm) : decideFrame f s = (s, .verdict .witnessMissing (num (qualified s s.witness[i] f))) := by
  unfold decideFrame
  rw [hform]
  show witnessAndRun k f s = _
  unfold witnessAndRun
  rw [hguard]
  dsimp only
  rw [hpair]
  exact if_neg hk

/-! ## The command of a frame -/

/-- The command of a frame that is not opaque delivers that frame. -/
theorem frameCommand_delivers {x : LineFrame} (h : opaqueKind x.kind = false) :
    ∃ isKind : LineFrame → Bool, (∀ p s, exec (frameCommand x p) s = deliver p isKind s) ∧ isKind x = true := by
  have hjob (k : JobKind) (hk : x.kind = k.byte) : isJob k x = true := beq_iff_eq.mpr hk
  unfold frameCommand
  rw [if_neg (by rw [h]; decide)]
  cases hkind : JobKind.ofByte x.kind with
  | none => exact ⟨isUnknown, fun _ _ => rfl, by simp [isUnknown, h, hkind]⟩
  | some k =>
    have hk : x.kind = k.byte := by
      unfold JobKind.ofByte at hkind
      simpa [eq_comm] using List.find?_some hkind
    have hx := hjob k hk
    cases k
    case door =>
      dsimp only
      by_cases hbody : x.body = [1]
      · rw [if_pos hbody]
        exact ⟨isDoorClosed, fun _ _ => rfl, by simp [isDoorClosed, hx, hbody]⟩
      · rw [if_neg hbody]
        exact ⟨fun f => isJob .door f && !isDoorClosed f, fun _ _ => rfl, by simpa [isDoorClosed, hx] using hbody⟩
    case makeUp =>
      dsimp only
      by_cases hbody : x.body.head? = some 1
      · rw [if_pos hbody]
        exact ⟨isConsignment, fun _ _ => rfl, by simpa [isConsignment, hx] using hbody⟩
      · rw [if_neg hbody]
        exact ⟨fun f => isJob .makeUp f && !isConsignment f, fun _ _ => rfl, by simpa [isConsignment, hx] using hbody⟩
    all_goals exact ⟨_, fun _ _ => rfl, hx⟩

/-- A marked frame that is decided without a change is refused by the command of its kind. -/
theorem refused_of_decide (hm : MarkedAt s p w) (ho : opaqueKind w.frame.kind = false)
    (hd : decideFrame (w.taken p) (s.setRx p .idle) = (s.setRx p .idle, .verdict code d)) : RefusedFrame (frameCommand w.frame) s p w code d := by
  obtain ⟨isKind, hc, hk⟩ := frameCommand_delivers ho
  obtain ⟨u, hu, hdone⟩ := frame_done hc hm hk ho hd
  exact ⟨u, hu, hdone.unmoved.1, hdone.unmoved.2, hdone.answered⟩

theorem registeredOn_setRx (s : State) (p q : Port) (rx : Receiver) (b : Byte) : registeredOn (s.setRx p rx) q b = registeredOn s q b := by
  cases p <;> rfl

theorem roleOf_setRx (s : State) (p : Port) (rx : Receiver) (b : Byte) : roleOf (s.setRx p rx) b = roleOf s b := by
  cases p <;> rfl

theorem qualified_setRx (s : State) (p : Port) (rx : Receiver) (v : Witness) (f : Taken) : qualified (s.setRx p rx) v f = qualified s v f := by
  cases p <;> rfl

end

/-- Settles O29: each step by the branch of the inspection that it is. -/
theorem inspectionSteps : Obligations.InspectionSteps := by
  unfold Obligations.InspectionSteps
  refine ⟨fun p s w hm ho => ⟨fun hr => ?_, fun hr hk => ?_, fun k hr hk => ⟨fun r hrole hnot => ?_, fun hsender => ⟨fun hday => ?_, fun hday hformed => ?_⟩⟩,
    fun k i hform hguard hk hpair => ?_⟩, fun f s => ⟨fun k => ?_, fun hr => decideFrame_error (inspectForm_unregistered hr),
      fun hr hk => decideFrame_error (inspectForm_unknown hr hk), fun k hr hk => ⟨roleNotAllowed_of hr hk, wrongDayState_of hr hk, malformed_of hr hk⟩⟩⟩
  · exact refused_of_decide hm ho (decideFrame_error (inspectForm_unregistered ((registeredOn_setRx s p p _ _).trans hr)))
  · exact refused_of_decide hm ho (decideFrame_error (inspectForm_unknown ((registeredOn_setRx s p p _ _).trans hr) hk))
  · have hdetail : roleDetail (s.setRx p .idle) w.frame.src = num r.code := by
      unfold roleDetail
      rw [roleOf_setRx, hrole]
      rfl
    rw [← hdetail]
    refine refused_of_decide hm ho (roleNotAllowed_of ((registeredOn_setRx s p p _ _).trans hr) hk fun r' hmem heq => ?_)
    obtain rfl : r = r' := Option.some.inj (hrole.symm.trans ((roleOf_setRx s p _ _).symm.trans heq))
    exact hnot hmem
  · have hrefused := refused_of_decide (code := .wrongDayState) (d := num (s.setRx p .idle).day.state.code) hm ho
      (wrongDayState_of ((registeredOn_setRx s p p _ _).trans hr) hk
        (by obtain ⟨r, hmem, heq⟩ := hsender; exact ⟨r, hmem, (roleOf_setRx s p _ _).trans heq⟩) (by rw [State.setRx_day]; exact hday))
    rwa [State.setRx_day] at hrefused
  · exact refused_of_decide hm ho (malformed_of ((registeredOn_setRx s p p _ _).trans hr) hk
      (by obtain ⟨r, hmem, heq⟩ := hsender; exact ⟨r, hmem, (roleOf_setRx s p _ _).trans heq⟩) (by rw [State.setRx_day]; exact hday) hformed)
  · have hpair' : witnessPair (s.setRx p .idle) (s.setRx p .idle).witness[i] (w.taken p) = none := by
      rw [witnessPair_setRx, State.setRx_witness]
      exact hpair
    have hrefused := refused_of_decide hm ho (witnessMissing_of ((inspectForm_setRx _ s p _).trans hform) hguard hpair' hk)
    rw [State.setRx_witness, qualified_setRx] at hrefused
    exact hrefused
  · rw [inspectForm_ok_iff, formed_iff]

section
variable {s : State} {p : Port} {w : Window}

/-! ## Frames that no job decides (R176, R177) -/

theorem opaque_relayed (hm : MarkedAt s p w) (ho : opaqueKind w.frame.kind = true) : Yields (.opaqueFrame p) s fun u =>
    Relayed s u p w .accepted ∧ (u.port p).out = (s.port p).out ∧ u.draws = s.draws := by
  obtain ⟨hrx, hans, hup, -⟩ := hm
  have htake : takeFrame (w.taken p) (s.setRx p .idle) = fillEnvelope (w.taken p) .accepted (s.setRx p .idle) := by
    unfold takeFrame
    exact if_pos ho
  have hsettle := settle_frame s p (w.taken p)
  rw [htake] at hsettle
  have hafter := unchangedBut_trans (testReports_leaves s (fillEnvelope (w.taken p) .accepted (s.setRx p .idle))) (settleEvents_leaves _)
  have hport : (fillEnvelope (w.taken p) .accepted (s.setRx p .idle)).port p = { s.port p with rx := .idle } := by cases p <;> rfl
  have huplink : (fillEnvelope (w.taken p) .accepted (s.setRx p .idle)).uplink.filled =
      s.uplink.filled ++ [{ port := p, second := s.seconds, stamp := .accepted, marks := w.marks, frame := w.frame }] := by
    unfold fillEnvelope Uplink.fill
    simp only [State.setUplink_uplink, State.setRx_uplink]
    rw [if_neg (by omega)]
    simp [Window.taken]
  have hdraws : (fillEnvelope (w.taken p) .accepted (s.setRx p .idle)).draws = s.draws := by cases p <;> rfl
  generalize fillEnvelope (w.taken p) .accepted (s.setRx p .idle) = v at htake hsettle hafter hport huplink hdraws
  have hportEnd : (settleEvents (testReports s v)).port p = v.port p := by
    cases p
    · exact hafter .floor (by decide)
    · exact hafter .room (by decide)
  refine ⟨settleEvents (testReports s v), (deliver_marked (isKind := fun f => opaqueKind f.kind) hrx hans ho).trans ?_, ⟨?_, ?_⟩, ?_, ?_⟩
  · rw [htake, hsettle]
  · rw [hportEnd, hport]
  · rw [show (settleEvents (testReports s v)).uplink = v.uplink from hafter .uplink (by decide), huplink]
  · rw [hportEnd, hport]
  · rw [show (settleEvents (testReports s v)).draws = v.draws from hafter .draws (by decide), hdraws]

end

/-- Settles O47: an opaque frame by its envelope, an unknown kind by step 2. -/
theorem relayedFrames : Obligations.RelayedFrames := by
  unfold Obligations.RelayedFrames
  refine fun p s w hm => ⟨opaque_relayed hm, fun ho hk hr => ?_⟩
  have hcommand : frameCommand w.frame = .unknownKindFrame := by
    unfold frameCommand
    rw [ho, ofByte_none.mpr hk]
    rfl
  obtain ⟨u, hu, -, -, hanswered⟩ := refused_of_decide hm ho (decideFrame_error (inspectForm_unknown ((registeredOn_setRx s p p _ _).trans hr) hk))
  rw [hcommand] at hu
  exact ⟨u, hu, hanswered⟩

end Sys2Proof.Machine.Effects

/-! PROOF. What a line port's receiver does with its own commands, and its errors (R153 to R158, R172). -/

namespace Sys2Proof.Machine.Effects

open Sys2Proof Sys2Proof.Machine Sys2Proof.Machine.Takings Sys2Proof.Machine.TallyCount

section
variable {s t u : State} {p : Port} {c : Instr} {w : Window} {f : State → State} {P : State → Prop}

/-! ## The end of a taking, as a port sees it -/

/-- Behind the work of a taking: frames placed behind those that wait, the events but the day's, and nothing else at the port. -/
structure PortDone (p : Port) (u t : State) : Prop where
  port : PortGrows (u.port p) (t.port p)
  uplink : t.uplink = u.uplink
  events : eventsBut [.dayChanged] u t

theorem portDone_settle (p : Port) (s u : State) : PortDone p u (settle s u) where
  port := settle_port_grows s u p
  uplink := settle_leaves s u .uplink (by decide)
  events := settle_events s u

theorem PortDone.rx (h : PortDone p u t) : (t.port p).rx = (u.port p).rx := by
  obtain ⟨more, down, hport⟩ := h.port
  rw [hport]

theorem PortDone.tx (h : PortDone p u t) : (t.port p).tx = (u.port p).tx := by
  obtain ⟨more, down, hport⟩ := h.port
  rw [hport]

theorem PortDone.lineIdle (h : PortDone p u t) : (t.port p).lineIdle = (u.port p).lineIdle := by
  obtain ⟨more, down, hport⟩ := h.port
  rw [hport]

theorem PortDone.errors (h : PortDone p u t) : (t.port p).errors = (u.port p).errors := by
  obtain ⟨more, down, hport⟩ := h.port
  rw [hport]

theorem PortDone.reserved (h : PortDone p u t) : (t.port p).out.reserved = (u.port p).out.reserved := by
  obtain ⟨more, down, hport⟩ := h.port
  rw [hport]

theorem PortDone.filled (h : PortDone p u t) : ∃ more, (t.port p).out.filled = (u.port p).out.filled ++ more := by
  obtain ⟨more, down, hport⟩ := h.port
  exact ⟨more, by rw [hport]⟩

theorem PortDone.linkError (h : PortDone p u t) : t.event .linkError = u.event .linkError := event_kept h.events

theorem yields_taking (hc : exec c s = taking f s) (p : Port) (h : ∀ t, PortDone p (f s) t → P t) : Yields c s P :=
  ⟨_, hc, h _ (portDone_settle p s _)⟩

/-- A taking that frees no place at its port places nothing there either. -/
theorem yields_unfreed (hc : exec c s = taking f s) (hl : unchangedBut [Part.ofPort p, .uplink, .events] s (f s))
    (hout : ((f s).port p).out.free ≤ (s.port p).out.free) (hdown : ((f s).port p).down = (s.port p).down)
    (h : ∀ t, t.port p = (f s).port p → t.uplink = (f s).uplink → eventsBut [] (f s) t → P t) : Yields c s P := by
  have hsettle := settle_port hl (hfree := hout) (hdown := hdown)
  refine ⟨_, hc, h _ ?_ ?_ ?_⟩ <;> rw [hsettle]
  · exact settleEvents_port p _
  · exact settleEvents_leaves _ .uplink (by decide)
  · exact settleEvents_events _

theorem txActive_idle (h : (s.port p).tx.phase = .idle) : txActive s p = false := by simp [txActive, h]

theorem txActive_busy (h : (s.port p).tx.phase ≠ .idle) : txActive s p = true := by simp [txActive, h]

/-! ## The receiver's own commands (R153, R156, R157, R158, R172) -/

theorem setRx_same (p : Port) (rx : Receiver) (s : State) : (s.setRx p rx).port p = { s.port p with rx := rx } := by cases p <;> rfl

theorem setLineIdle_same (p : Port) (b : Bool) (s : State) : (s.setLineIdle p b).port p = { s.port p with lineIdle := b } := by cases p <;> rfl

theorem frameStart_opens (hphase : (s.port p).tx.phase = .idle) (hrx : (s.port p).rx = .idle) : Yields (.frameStart p) s fun t =>
    (t.port p).rx = (if p = .floor ∧ s.day.state = .night then .ignoring else .receiving []) ∧ (t.port p).lineIdle = false := by
  have hexec : exec (.frameStart p) s =
      taking (fun s => (s.setRx p (if ignoresFloor s p then .ignoring else .receiving [])).setLineIdle p false) s := by
    show startArrives p s = _
    unfold startArrives
    rw [txActive_idle hphase, hrx]
    rfl
  refine yields_taking hexec p fun t h => ⟨?_, ?_⟩
  · rw [h.rx, setLineIdle_same, setRx_same]
    simp [ignoresFloor]
  · rw [h.lineIdle, setLineIdle_same]

theorem offer_port (p : Port) (x : LineFrame) (s : State) : ((offer p x s).1.port p).out.free ≤ (s.port p).out.free ∧
    ((offer p x s).1.port p).down = (s.port p).down := by
  unfold offer
  split; · exact ⟨le_refl _, rfl⟩
  split; · exact ⟨le_refl _, rfl⟩
  split; · cases p <;> exact ⟨le_refl _, rfl⟩
  split; · cases p <;> exact ⟨le_refl _, rfl⟩
  split
  · cases p <;> exact ⟨le_refl _, rfl⟩
  · have hport : (reserveOut p (reserveUplink s)).port p =
        { s.port p with out := { (s.port p).out with reserved := (s.port p).out.reserved + 1 } } := by cases p <;> rfl
    rw [hport]
    exact ⟨by simp only [OutQueue.free]; omega, rfl⟩

theorem endOfData_opens {had bits : List Bool} {x : LineFrame} (hphase : (s.port p).tx.phase = .idle) (hrx : (s.port p).rx = .receiving had)
    (hbits : had ++ bits = lineBits x.wire) (hlen : x.body.length ≤ 40) : Yields (.endOfData p bits) s fun t =>
      (t.port p).rx = .markWindow { frame := x, crc := crc16 (x.header ++ x.body), answer := (offer p x s).2, marks := [] } ∧
      t.uplink = (offer p x s).1.uplink ∧ (t.port p).out = ((offer p x s).1.port p).out ∧
      t.event .queueFull = (offer p x s).1.event .queueFull := by
  have hexec : exec (.endOfData p bits) s = taking (openWindow p x (crc16 (x.header ++ x.body))) s := by
    show endOfDataArrives p bits s = _
    have hclose : closeData p (had ++ bits) s = openWindow p x (crc16 (x.header ++ x.body)) s := by
      unfold closeData
      rw [hbits, checkData_wire hlen]
    unfold endOfDataArrives
    rw [txActive_idle hphase, hrx]
    exact congrArg (fun v => Host.Outcome.next (settle s v)) hclose
  have hport : (openWindow p x (crc16 (x.header ++ x.body)) s).port p = { (offer p x s).1.port p with
      rx := .markWindow { frame := x, crc := crc16 (x.header ++ x.body), answer := (offer p x s).2, marks := [] } } := setRx_same p _ _
  have hoffer : unchangedBut [Part.ofPort p] (offer p x s).1 (openWindow p x (crc16 (x.header ++ x.body)) s) := setRx_leaves p _ _
  have huplink : (openWindow p x (crc16 (x.header ++ x.body)) s).uplink = (offer p x s).1.uplink := hoffer .uplink (by cases p <;> decide)
  refine yields_unfreed (p := p) hexec (unchangedBut_comp (offer_leaves p x s) (unchangedBut_mono hoffer (by simp))) ?_ ?_
    fun t ht hup hev => ⟨?_, hup.trans huplink, ?_, ?_⟩
  · rw [hport]
    exact (offer_port p x s).1
  · rw [hport]
    exact (offer_port p x s).2
  · rw [ht, hport]
  · rw [ht, hport]
  · exact event_kept (eventsBut_comp (eventsBut_of_leaves [] hoffer (by cases p <;> decide)) hev)

/-- The places that a window's reservations hold back at its own port. -/
def answerPlaces (x : LineFrame) : Nat := if opaqueKind x.kind then 0 else 1

theorem release_effect (p : Port) (x : LineFrame) (s : State) :
    (releaseReservations p x s).port p = { s.port p with out := { (s.port p).out with reserved := (s.port p).out.reserved - answerPlaces x } } ∧
      (releaseReservations p x s).uplink = { s.uplink with reserved := s.uplink.reserved - 1 } := by
  unfold releaseReservations answerPlaces
  dsimp only
  split <;> cases p <;> exact ⟨rfl, rfl⟩

/-- What a window's release of its reservations leaves, and what the end of its taking then places. -/
theorem released_after {x : LineFrame} (ht : PortDone p (releaseReservations p x u) t) (hout : (u.port p).out = (s.port p).out)
    (hup : u.uplink = s.uplink) : t.uplink.filled = s.uplink.filled ∧ (∃ more, (t.port p).out.filled = (s.port p).out.filled ++ more) ∧
      t.uplink.reserved = s.uplink.reserved - 1 ∧ (t.port p).out.reserved = (s.port p).out.reserved - answerPlaces x := by
  obtain ⟨hport, huplink⟩ := release_effect p x u
  obtain ⟨more, hfilled⟩ := ht.filled
  refine ⟨?_, ⟨more, ?_⟩, ?_, ?_⟩
  · rw [ht.uplink, huplink, hup]
  · rw [hfilled, hport, hout]
  · rw [ht.uplink, huplink, hup]
  · rw [ht.reserved, hport, hout]

theorem mark_gathered {mark : Byte} (hphase : (s.port p).tx.phase = .idle) (hrx : (s.port p).rx = .markWindow w) (hlen : w.marks.length < 6) :
    Yields (.markByte p mark) s fun t =>
      (t.port p).rx = .markWindow { w with
        answer := if w.answer = .sending then (if mark = 1 then .marked else .none) else w.answer
        marks := w.marks ++ [mark] } ∧
      t.uplink.filled = s.uplink.filled ∧ (∃ more, (t.port p).out.filled = (s.port p).out.filled ++ more) ∧
      (if w.answer = .sending ∧ mark ≠ 1 then
        t.uplink.reserved = s.uplink.reserved - 1 ∧
        (t.port p).out.reserved = (s.port p).out.reserved - if opaqueKind w.frame.kind then 0 else 1
      else t.uplink = s.uplink ∧ (t.port p).out = (s.port p).out) := by
  have hexec : exec (.markByte p mark) s = taking (gatherMark p w mark) s := by
    show markArrives p mark s = _
    unfold markArrives
    rw [hphase, hrx]
    rfl
  by_cases hrelease : w.answer = .sending ∧ mark ≠ 1
  · have hgather : gatherMark p w mark s =
        releaseReservations p w.frame (s.setRx p (.markWindow { w with answer := .none, marks := w.marks ++ [mark] })) := by
      unfold gatherMark
      rw [if_neg (by omega)]
      exact if_pos hrelease
    refine yields_taking hexec p fun t ht => ?_
    rw [if_pos hrelease, if_pos hrelease.1, if_neg hrelease.2]
    rw [hgather] at ht
    obtain ⟨hfilled, hout, hup, hreserved⟩ := released_after (s := s) ht (by rw [setRx_same]) (State.setRx_uplink s p _)
    refine ⟨?_, hfilled, hout, hup, hreserved⟩
    rw [ht.rx, (release_effect p w.frame _).1, setRx_same]
  · have hgather : gatherMark p w mark s =
        s.setRx p (.markWindow { w with answer := if w.answer = .sending then .marked else w.answer, marks := w.marks ++ [mark] }) := by
      unfold gatherMark
      rw [if_neg (by omega)]
      exact if_neg hrelease
    have hanswer : (if w.answer = .sending then (if mark = 1 then MarkAnswer.marked else .none) else w.answer) =
        if w.answer = .sending then .marked else w.answer := by
      by_cases hsending : w.answer = .sending
      · rw [if_pos hsending, if_pos hsending, if_pos (Classical.byContradiction fun h => hrelease ⟨hsending, h⟩)]
      · rw [if_neg hsending, if_neg hsending]
    refine yields_unfreed (p := p) hexec ?_ ?_ ?_ fun t ht hup hev => ?_
    · rw [hgather]
      exact unchangedBut_mono (setRx_leaves p _ s) (by simp)
    · rw [hgather, setRx_same]
    · rw [hgather, setRx_same]
    · rw [hgather] at ht hup
      rw [if_neg hrelease, hanswer, ht, hup, setRx_same]
      exact ⟨rfl, congrArg Uplink.filled (State.setRx_uplink s p _), ⟨[], (List.append_nil _).symm⟩, State.setRx_uplink s p _, rfl⟩

theorem unmarked_dropped (hphase : (s.port p).tx.phase = .idle) (hrx : (s.port p).rx = .markWindow w) (hw : w.answer ≠ .marked) :
    Yields (.unmarkedFrameDropped p) s fun t =>
      (t.port p).rx = .idle ∧ t.uplink.filled = s.uplink.filled ∧
      (∃ more, (t.port p).out.filled = (s.port p).out.filled ++ more) ∧
      (if w.answer = .sending then
        t.uplink.reserved = s.uplink.reserved - 1 ∧
        (t.port p).out.reserved = (s.port p).out.reserved - if opaqueKind w.frame.kind then 0 else 1
      else t.uplink = s.uplink ∧ (t.port p).out = (s.port p).out) := by
  have hexec : exec (.unmarkedFrameDropped p) s = taking (fun s => endWindow p w (s.setRx p .idle)) s := by
    show endOfFrameArrives p s = _
    unfold endOfFrameArrives
    rw [txActive_idle hphase, hrx]
    exact if_neg hw
  by_cases hsending : w.answer = .sending
  · have hend (v : State) : endWindow p w v = releaseReservations p w.frame v := by
      unfold endWindow
      rw [hsending]
    refine yields_taking hexec p fun t ht => ?_
    rw [hend] at ht
    rw [if_pos hsending]
    obtain ⟨hfilled, hout, hup, hreserved⟩ := released_after (s := s) ht (by rw [setRx_same]) (State.setRx_uplink s p _)
    refine ⟨?_, hfilled, hout, hup, hreserved⟩
    rw [ht.rx, (release_effect p w.frame _).1, setRx_same]
  · have hend (v : State) : endWindow p w v = v := by
      unfold endWindow
      cases hanswer : w.answer with
      | marked => exact absurd hanswer hw
      | sending => exact absurd hanswer hsending
      | none => rfl
    refine yields_unfreed (p := p) hexec ?_ ?_ ?_ fun t ht hup hev => ?_
    · rw [hend]
      exact unchangedBut_mono (setRx_leaves p _ s) (by simp)
    · rw [hend, setRx_same]
    · rw [hend, setRx_same]
    · rw [hend] at ht hup
      rw [if_neg hsending, ht, hup, setRx_same]
      exact ⟨rfl, congrArg Uplink.filled (State.setRx_uplink s p _), ⟨[], (List.append_nil _).symm⟩, State.setRx_uplink s p _, rfl⟩

theorem ignored_dropped (hphase : (s.port p).tx.phase = .idle) (hrx : (s.port p).rx = .ignoring) :
    Yields (.unmarkedFrameDropped p) s fun t => (t.port p).rx = .idle := by
  have hexec : exec (.unmarkedFrameDropped p) s = taking (fun s => s.setRx p .idle) s := by
    show endOfFrameArrives p s = _
    unfold endOfFrameArrives
    rw [txActive_idle hphase, hrx]
    rfl
  exact yields_taking hexec p fun t ht => by rw [ht.rx, setRx_same]

theorem idle_line (hphase : (s.port p).tx.phase = .idle)
    (hrx : (s.port p).rx = .idle ∨ (s.port p).rx = .waitIdle ∨ (s.port p).rx = .ignoring) :
    Yields (.lineIdle p) s fun t => (t.port p).rx = .idle ∧ (t.port p).lineIdle = true := by
  have hexec : exec (.lineIdle p) s = taking (fun s => (s.setRx p .idle).setLineIdle p true) s := by
    show idleArrives p s = _
    unfold idleArrives
    rw [txActive_idle hphase]
    rcases hrx with hrx | hrx | hrx <;> rw [hrx] <;> rfl
  refine yields_taking hexec p fun t ht => ⟨?_, ?_⟩
  · rw [ht.rx, setLineIdle_same, setRx_same]
  · rw [ht.lineIdle, setLineIdle_same]

end

/-- Settles O30: each command by the branch of the receiver that takes it. -/
theorem receiverCommands : Obligations.ReceiverCommands := by
  unfold Obligations.ReceiverCommands
  exact fun p s hphase => ⟨frameStart_opens hphase, fun had bits x hrx hbits hlen => endOfData_opens hphase hrx hbits hlen,
    fun w mark hrx hlen => mark_gathered hphase hrx hlen, fun w hrx hw => unmarked_dropped hphase hrx hw, ignored_dropped hphase, idle_line hphase⟩

section
variable {s t u : State} {p : Port} {c : Instr} {w : Window}

/-! ## The receiver's errors (R154, R155, R156) -/

theorem countUp_eq {n : Nat} (h : n ≤ 4294967295) : countUp n = (n + 1) % 4294967296 := by
  unfold countUp
  rw [show Config.top32 = 4294967295 from rfl]
  split <;> omega

theorem countError_same (p : Port) (k : LineCounter) (s : State) : (countError p k s).port p = { s.port p with errors := (s.port p).errors.bump k } := by
  cases p <;> rfl

/-- What an error of the receiver leaves. -/
structure Erred (p : Port) (k : LineCounter) (s v : State) : Prop where
  rx : (v.port p).rx = .waitIdle
  errors : (v.port p).errors = (s.port p).errors.bump k
  pending : (v.event .linkError).pending = true
  detail : (v.event .linkError).detail = BitVec.ofNat 32 (portCode p * 256 + k.code)

theorem erred_counted (p : Port) (k : LineCounter) (s : State) : Erred p k s (countError p k (s.setRx p .waitIdle)) := by
  have hevent := (countError_spec p k (s.setRx p .waitIdle)).2 .linkError
  rw [if_pos rfl] at hevent
  refine ⟨?_, ?_, by rw [hevent], by rw [hevent]⟩ <;> rw [countError_same, setRx_same]

theorem Erred.kept {k : LineCounter} (h : Erred p k s u) (hport : (t.port p).rx = (u.port p).rx ∧ (t.port p).errors = (u.port p).errors)
    (hevent : t.event .linkError = u.event .linkError) : Erred p k s t :=
  ⟨hport.1.trans h.rx, hport.2.trans h.errors, by rw [hevent]; exact h.pending, by rw [hevent]; exact h.detail⟩

theorem takenEvents_linkError (x : LineFrame) : Event.linkError ∉ takenEvents x := by
  unfold takenEvents
  cases JobKind.ofByte x.kind with
  | none => exact List.not_mem_nil
  | some k => cases k <;> decide

theorem receiverError_erred (p : Port) (k : LineCounter) (s : State) : Erred p k s (receiverError p k s) := by
  have hcounted := erred_counted p k s
  by_cases hrx : ∃ w, (s.port p).rx = .markWindow w
  · obtain ⟨w, hrx⟩ := hrx
    rw [receiverError_window hrx]
    unfold endWindow
    split
    · refine hcounted.kept ?_ (event_kept (takeFrame_takes _ _).2 (takenEvents_linkError _))
      obtain ⟨r, more, hport, -⟩ := takeFrame_fills (w.taken p) (countError p k (s.setRx p .waitIdle)) p
      rw [hport]
      exact ⟨rfl, rfl⟩
    · refine hcounted.kept ?_ (by cases p <;> unfold releaseReservations <;> dsimp only <;> split <;> rfl)
      rw [(release_effect p w.frame _).1]
      exact ⟨rfl, rfl⟩
    · exact hcounted
  · rw [receiverError_plain fun w h => hrx ⟨w, h⟩]
    exact hcounted

/-- The marked frame whose window an error ends is relayed (R156). -/
theorem receiverError_relays {k : LineCounter} (hw : markedWindow s p = some w) (hplace : 0 < s.uplink.reserved) :
    ∃ stamp, (receiverError p k s).uplink.filled =
      s.uplink.filled ++ [{ port := p, second := s.seconds, stamp := stamp, marks := w.marks, frame := w.frame }] := by
  obtain ⟨hrx, hmarked⟩ := markedWindow_some.mp hw
  have hend (v : State) : endWindow p w v = takeFrame (w.taken p) v := by
    unfold endWindow
    rw [hmarked]
  have hleaves := (errorCounted p k s).leaves
  rw [receiverError_window hrx, hend]
  obtain ⟨stamp, hup⟩ := takeFrame_uplink (w.taken p) (countError p k (s.setRx p .waitIdle))
  refine ⟨stamp, ?_⟩
  rw [hup, hleaves .uplink (by cases p <;> decide), hleaves .seconds (by cases p <;> decide)]
  unfold Uplink.fill
  rw [if_neg (by omega)]
  rfl

/-- A taking that is an error of the receiver, behind what leaves the receiver alone. -/
theorem error_yields {k : LineCounter} (hc : exec c s = taking (fun s => receiverError p k (if txActive s p then abandonAttempt p s else s)) s) :
    Yields c s fun t =>
      (t.port p).rx = .waitIdle ∧ (t.port p).errors = (s.port p).errors.bump k ∧ (t.event .linkError).pending = true ∧
      (t.event .linkError).detail = BitVec.ofNat 32 (portCode p * 256 + k.code) ∧
      ∀ w, markedWindow s p = some w → 0 < s.uplink.reserved → ∃ stamp, t.uplink.filled = s.uplink.filled ++
        [{ port := p, second := s.seconds, stamp := stamp, marks := w.marks, frame := w.frame }] := by
  obtain ⟨v, hv, hrx, herrors, hup, hseconds⟩ : ∃ v, (if txActive s p then abandonAttempt p s else s) = v ∧ (v.port p).rx = (s.port p).rx ∧
      (v.port p).errors = (s.port p).errors ∧ v.uplink = s.uplink ∧ v.seconds = s.seconds := by
    refine ⟨_, rfl, ?_⟩
    split
    · cases p <;> exact ⟨rfl, rfl, rfl, rfl⟩
    · exact ⟨rfl, rfl, rfl, rfl⟩
  refine yields_taking hc p fun t ht => ?_
  rw [hv] at ht
  have herred := (receiverError_erred p k v).kept ⟨ht.rx, ht.errors⟩ ht.linkError
  refine ⟨herred.rx, by rw [herred.errors, herrors], herred.pending, herred.detail, fun w hw hplace => ?_⟩
  rw [ht.uplink, ← hup, ← hseconds]
  exact receiverError_relays ((markedWindow_congr hrx).trans hw) (by rw [hup]; exact hplace)

end

/-- Settles O31: each error by the branch of the receiver that counts it. -/
theorem receiverErrors : Obligations.ReceiverErrors := by
  unfold Obligations.ReceiverErrors
  refine ⟨fun n => countUp_eq, fun p s c x h => ?_⟩
  rcases h with ⟨rfl, rfl⟩ | ⟨hphase, h⟩
  · exact error_yields rfl
  have hidle := txActive_idle hphase
  have hcounts (hc : exec c s = taking (receiverError p x) s) :
      exec c s = taking (fun s => receiverError p x (if txActive s p then abandonAttempt p s else s)) s := by
    rw [hc]
    unfold taking
    dsimp only
    rw [hidle]
    rfl
  refine error_yields (hcounts ?_)
  rcases h with ⟨rfl, rfl, hlistens⟩ | ⟨sym, inc, rfl, rfl, hframing⟩ | ⟨rfl, rfl, hreceiving⟩ | ⟨had, bits, hrx, rfl, h⟩
  · show symbolErrorArrives p .invalid s = _
    unfold symbolErrorArrives
    rw [hidle]
    exact takingIf_true (by rw [hlistens]; rfl)
  · exact takingIf_true (by rw [hidle, hframing]; rfl)
  · exact takingIf_true (by rw [hidle, hreceiving]; rfl)
  · show endOfDataArrives p bits s = _
    have hclose : closeData p (had ++ bits) s = receiverError p x s := by
      unfold closeData
      rcases h with ⟨hdata, rfl⟩ | ⟨hdata, rfl⟩ | ⟨hdata, rfl⟩ <;> rw [hdata]
    unfold endOfDataArrives
    rw [hidle, hrx]
    exact congrArg (fun v => Host.Outcome.next (settle s v)) hclose

end Sys2Proof.Machine.Effects

/-! PROOF. An attempt of a line port's transmitter, and the end of its frame (R93, R157, R159, R160, R162 to R164). -/

namespace Sys2Proof.Machine.Effects

open Sys2Proof Sys2Proof.Machine Sys2Proof.Machine.Takings Sys2Proof.Machine.TallyCount

section
variable {s t u v : State} {p : Port} {c : Current} {x : Instr} {e : LineErrors} {again : Prop} {f : State → State} {P : State → Prop}

/-! ## A state whose attempt is about to end -/

/-- Work at a port that keeps its current frame, its queues and the safe, with the error counters that it leaves. -/
structure Holds (p : Port) (c : Current) (e : LineErrors) (s v : State) : Prop where
  works : LineWorks p s v
  current : (v.port p).tx.current = some c
  out : (v.port p).out = (s.port p).out
  down : (v.port p).down = (s.port p).down
  errors : (v.port p).errors = e
  safe : v.safe = s.safe

theorem setTx_same (p : Port) (tx : Transmitter) (s : State) : (s.setTx p tx).port p = { s.port p with tx := tx } := by cases p <;> rfl

theorem holds_self (hc : (s.port p).tx.current = some c) : Holds p c (s.port p).errors s s := ⟨.refl p _ s, hc, rfl, rfl, rfl, rfl⟩

theorem holds_setTx {tx : Transmitter} (hc : tx.current = some c) : Holds p c (s.port p).errors s (s.setTx p tx) :=
  ⟨setPort_quiet p _ s, by rw [setTx_same]; exact hc, by rw [setTx_same], by rw [setTx_same], by rw [setTx_same], setTx_leaves p tx s .safe (by cases p <;> decide)⟩

theorem holds_setRx (rx : Receiver) (hc : (s.port p).tx.current = some c) : Holds p c (s.port p).errors s (s.setRx p rx) :=
  ⟨setPort_quiet p _ s, by rw [setRx_same]; exact hc, by rw [setRx_same], by rw [setRx_same], by rw [setRx_same], setRx_leaves p rx s .safe (by cases p <;> decide)⟩

theorem holds_counted (k : LineCounter) (hc : (s.port p).tx.current = some c) :
    Holds p c ((s.port p).errors.bump k) s (countError p k (s.setRx p .waitIdle)) where
  works := (errorCounted p k s).works
  current := by rw [countError_same, setRx_same]; exact hc
  out := by rw [countError_same, setRx_same]
  down := by rw [countError_same, setRx_same]
  errors := by rw [countError_same, setRx_same]
  safe := (errorCounted p k s).leaves .safe (by cases p <;> decide)

/-! ## An attempt that has failed (R164) -/

theorem txIdle_same (p : Port) (d : Option Current) (s : State) : (txIdle p d s).port p =
    { s.port p with tx := { phase := .idle, current := d, marks := [], driven := (s.port p).tx.driven } } := by cases p <;> rfl

/-- A port without the frame that held a place. -/
def portFreed (q : LinePort) : TxSource → LinePort
  | .outgoing i => { q with out := { q.out with filled := q.out.filled.eraseIdx i } }
  | .downlink => { q with down := q.down.tail }

theorem freePlace_same (p : Port) (src : TxSource) (s : State) : (freePlace p src s).port p = portFreed (s.port p) src := by
  cases src <;> cases p <;> rfl

theorem portFreed_rest (q : LinePort) (src : TxSource) :
    (portFreed q src).tx = q.tx ∧ (portFreed q src).rx = q.rx ∧ (portFreed q src).errors = q.errors := by
  cases src <;> exact ⟨rfl, rfl, rfl⟩

theorem discardCurrent_same (p : Port) (c : Current) (s : State) : (discardCurrent p c s).port p =
    { portFreed ((txIdle p none s).port p) c.source with errors := (s.port p).errors.bump .undelivered } := by
  have herrors : ((txIdle p none s).port p).errors = (s.port p).errors := by rw [txIdle_same]
  unfold discardCurrent
  rw [tellOwner_port, countError_same, freePlace_same, (portFreed_rest _ _).2.2, herrors]

theorem discardCurrent_linkError (p : Port) (c : Current) (s : State) : ((discardCurrent p c s).event .linkError).pending = true ∧
    ((discardCurrent p c s).event .linkError).detail = BitVec.ofNat 32 (portCode p * 256 + 6) := by
  have htold (v : State) : (tellOwner c v).event .linkError = v.event .linkError := by
    unfold tellOwner
    split <;> rfl
  have hevent := (countError_spec p .undelivered (freePlace p c.source (txIdle p none s))).2 .linkError
  rw [if_pos rfl] at hevent
  unfold discardCurrent
  rw [htold, hevent]
  exact ⟨rfl, rfl⟩

/-- Behind a failed attempt: the transmitter IDLE and the receiver as it was; below the limit the frame still current (R164). -/
theorem failAttempt_effect (hc : (s.port p).tx.current = some c) :
    ((failAttempt p s).port p).rx = (s.port p).rx ∧ ((failAttempt p s).port p).tx.phase = .idle ∧
      (∃ b : Bool, ((failAttempt p s).port p).errors = if b then (s.port p).errors.bump .undelivered else (s.port p).errors) ∧
      ((s.event .linkError).pending = true → ((failAttempt p s).event .linkError).pending = true) ∧
      (c.attempts < 4 → failAttempt p s = txIdle p (some c) s) := by
  rcases failAttempt_spec hc with ⟨-, h⟩ | ⟨hlimit, h⟩ <;> rw [h]
  · refine ⟨?_, ?_, ⟨false, ?_⟩, fun hpending => ?_, fun _ => rfl⟩
    · rw [txIdle_same]
    · rw [txIdle_same]
    · rw [txIdle_same]
      rfl
    · rwa [show (txIdle p (some c) s).event .linkError = s.event .linkError by cases p <;> rfl]
  · have hrest := portFreed_rest ((txIdle p none s).port p) c.source
    refine ⟨?_, ?_, ⟨true, ?_⟩, fun _ => (discardCurrent_linkError p c s).1, fun h => absurd hlimit (not_le.mpr h)⟩
    · rw [discardCurrent_same]
      exact hrest.2.1.trans (by rw [txIdle_same])
    · rw [discardCurrent_same]
      exact congrArg Transmitter.phase (hrest.1.trans (by rw [txIdle_same]))
    · rw [discardCurrent_same]
      rfl

/-! ## The steps of an attempt (R159, R160, R162, R163) -/

theorem chosen_yields (hphase : (s.port p).tx.phase = .idle) (hnone : (s.port p).tx.current = none) (hchoice : chooseFrame (s.port p) = some c) :
    Yields (.currentFrameChoice p) s fun t => (t.port p).tx.current = some c ∧ (t.port p).tx.phase = .idle := by
  have hexec : exec (.currentFrameChoice p) s = taking (chooseCurrent p) s :=
    takingIf_true (by simp [mayChoose, hphase, hnone, hchoice])
  refine yields_taking hexec p fun t ht => ?_
  rw [ht.tx, chooseCurrent, setTx_same]
  exact ⟨hchoice, hphase⟩

theorem started_yields (hc : (s.port p).tx.current = some c) (hphase : (s.port p).tx.phase = .idle) (hrx : (s.port p).rx = .idle)
    (hidle : (s.port p).lineIdle = true) : Yields (.transmitStart p) s fun t => (t.port p).tx.phase = .arbitrating ∧
      (t.port p).tx.current = some { c with attempts := c.attempts + 1 } ∧ (t.port p).lineIdle = false := by
  have hexec : exec (.transmitStart p) s = taking (startSending p) s :=
    takingIf_true (by simp [mayStart, hphase, hc, hrx, hidle])
  refine yields_taking hexec p fun t ht => ?_
  rw [ht.tx, ht.lineIdle, startSending, setLineIdle_same, setTx_same, hc]
  exact ⟨rfl, rfl, rfl⟩

theorem headed_yields (hc : (s.port p).tx.current = some c) (hphase : (s.port p).tx.phase = .arbitrating) :
    Yields (.headerSent p) s fun t => (t.port p).tx.phase = .sending ∧ (t.port p).tx.current = some c ∧ (t.port p).tx.driven = c.frame.header := by
  have hexec : exec (.headerSent p) s = taking (sendBody p) s := takingIf_true (decide_eq_true hphase)
  refine yields_taking hexec p fun t ht => ?_
  rw [ht.tx, sendBody, setTx_same, hc]
  exact ⟨rfl, rfl, rfl⟩

theorem lost_exec {bit : Nat} (hc : (s.port p).tx.current = some c) (hphase : (s.port p).tx.phase = .arbitrating)
    (hbit : (lineBits c.frame.header).getD bit false = true) : exec (.arbitrationLost p bit) s = taking (loseArbitration p bit) s :=
  takingIf_true (by simp only [mayLose, ownHeader, hphase, hc, hbit]; rfl)

theorem lost_yields {bit : Nat} (hc : (s.port p).tx.current = some c) (hphase : (s.port p).tx.phase = .arbitrating)
    (hbit : (lineBits c.frame.header).getD bit false = true) : Yields (.arbitrationLost p bit) s fun t =>
      (t.port p).rx = (if p = .floor ∧ s.day.state = .night then .ignoring else .receiving ((lineBits c.frame.header).take bit ++ [false])) ∧
      (t.port p).tx.phase = .idle ∧ (c.attempts < 4 → (t.port p).tx.current = some c) := by
  have hheader : ownHeader (s.port p) = lineBits c.frame.header := by
    unfold ownHeader
    rw [hc]
  refine yields_taking (lost_exec hc hphase hbit) p fun t ht => ?_
  obtain ⟨hrx, hidle, -, -, hkept⟩ := failAttempt_effect
    (holds_setRx (if ignoresFloor s p then .ignoring else .receiving ((ownHeader (s.port p)).take bit ++ [false])) hc).current
  refine ⟨?_, ?_, fun hfew => ?_⟩
  · rw [ht.rx, loseArbitration, hrx, setRx_same, hheader]
    simp [ignoresFloor]
  · rw [ht.tx, loseArbitration, hidle]
  · rw [ht.tx, loseArbitration, hkept hfew, txIdle_same]

theorem clash_exec (hphase : (s.port p).tx.phase = .sending) : exec (.sendClash p) s = taking (clashed p) s :=
  takingIf_true (decide_eq_true hphase)

theorem clash_yields (hc : (s.port p).tx.current = some c) (hphase : (s.port p).tx.phase = .sending) :
    Yields (.sendClash p) s fun t => (t.port p).rx = .waitIdle ∧
      (t.port p).errors.clash = countUp (s.port p).errors.clash ∧ (t.event .linkError).pending = true ∧
      (t.port p).tx.phase = .idle ∧ (c.attempts < 4 → (t.port p).tx.current = some c) := by
  have hholds := holds_counted .clash hc
  have herred := erred_counted p .clash s
  obtain ⟨hrx, hidle, ⟨b, herrors⟩, hpending, hkept⟩ := failAttempt_effect hholds.current
  refine yields_taking (clash_exec hphase) p fun t ht => ⟨?_, ?_, ?_, ?_, fun hfew => ?_⟩
  · rw [ht.rx, clashed, hrx, herred.rx]
  · rw [ht.errors, clashed, herrors, hholds.errors]
    cases b <;> rfl
  · rw [ht.linkError]
    exact hpending herred.pending
  · rw [ht.tx, clashed, hidle]
  · rw [ht.tx, clashed, hkept hfew, txIdle_same]

theorem sent_yields (hc : (s.port p).tx.current = some c) (hphase : (s.port p).tx.phase = .sending) (hmode : markMode c.frame.pb ≠ .none) :
    Yields (.dataSent p) s fun t => (t.port p).tx.phase = .awaitMarks ∧ (t.port p).tx.current = some c ∧
      (t.port p).tx.marks = [] ∧ (t.port p).tx.driven = c.frame.wire := by
  have hexec : exec (.dataSent p) s = taking (dataGone p) s := takingIf_true (decide_eq_true hphase)
  refine yields_taking hexec p fun t ht => ?_
  rw [ht.tx, dataGone_eq hc, if_neg hmode, setTx_same]
  exact ⟨rfl, hc, rfl, rfl⟩

theorem mark_exec (mark : Byte) (hphase : (s.port p).tx.phase = .awaitMarks) : exec (.markByte p mark) s = taking (recordMark p mark) s :=
  if_pos hphase

theorem mark_recorded {mark : Byte} (hc : (s.port p).tx.current = some c) (hphase : (s.port p).tx.phase = .awaitMarks)
    (hmode : markMode c.frame.pb ≠ .one) (hlen : (s.port p).tx.marks.length < 5) :
    Yields (.markByte p mark) s fun t => (t.port p).tx.phase = .awaitMarks ∧ (t.port p).tx.current = some c ∧
      (t.port p).tx.marks = (s.port p).tx.marks ++ [mark] := by
  have hfull : fullWindow c.frame.pb = 6 := if_neg hmode
  refine yields_taking (mark_exec mark hphase) p fun t ht => ?_
  rw [ht.tx, recordMark_eq mark hc, if_neg (by omega), setTx_same]
  exact ⟨hphase, hc, rfl⟩

theorem close_exec (hphase : (s.port p).tx.phase = .awaitMarks) : exec (.windowClose p) s = taking (closeWindow p) s :=
  takingIf_true (decide_eq_true hphase)

theorem closeWindow_fails (hc : (s.port p).tx.current = some c) (h : c.frame.dest = 255 ∨ c.frame.dest ∉ (s.port p).tx.marks) :
    closeWindow p s = failAttempt p s := by
  rcases closeWindow_spec hc with ⟨⟨hdest, hmem⟩, -⟩ | ⟨-, he⟩
  · exact (h.elim hdest fun h => h hmem).elim
  · exact he

theorem close_yields (hc : (s.port p).tx.current = some c) (hphase : (s.port p).tx.phase = .awaitMarks)
    (hmark : c.frame.dest = 255 ∨ c.frame.dest ∉ (s.port p).tx.marks) (hfew : c.attempts < 4) :
    Yields (.windowClose p) s fun t => (t.port p).tx.phase = .idle ∧ (t.port p).tx.current = some c := by
  refine yields_taking (close_exec hphase) p fun t ht => ?_
  rw [ht.tx, closeWindow_fails hc hmark, (failAttempt_effect hc).2.2.2.2 hfew, txIdle_same]
  exact ⟨rfl, rfl⟩

theorem symbol_exec {sym : LineSymbol} (hphase : (s.port p).tx.phase ≠ .idle) (hsym : sym.isSymbolError = true) :
    exec (.symbolError p sym) s = taking (txSymbolError p) s := by
  show symbolErrorArrives p sym s = _
  unfold symbolErrorArrives
  rw [txActive_busy hphase, hsym]
  rfl

theorem symbol_yields {sym : LineSymbol} (hc : (s.port p).tx.current = some c) (hphase : (s.port p).tx.phase ≠ .idle)
    (hsym : sym.isSymbolError = true) (hfew : c.attempts < 4) :
    Yields (.symbolError p sym) s fun t => (t.port p).rx = .waitIdle ∧ (t.port p).tx.phase = .idle ∧
      (t.port p).tx.current = some c ∧ (t.port p).errors.symbol = countUp (s.port p).errors.symbol := by
  have hholds := holds_counted .symbol hc
  have hfails : txSymbolError p s = txIdle p (some c) (countError p .symbol (s.setRx p .waitIdle)) :=
    (failAttempt_effect hholds.current).2.2.2.2 hfew
  refine yields_taking (symbol_exec hphase hsym) p fun t ht => ?_
  rw [ht.rx, ht.tx, ht.errors, hfails, txIdle_same]
  exact ⟨(erred_counted p .symbol s).rx, rfl, rfl, congrArg LineErrors.symbol hholds.errors⟩

theorem break_yields (hc : (s.port p).tx.current = some c) (hphase : (s.port p).tx.phase ≠ .idle) :
    Yields (.breakPulse p) s fun t => (t.port p).tx.phase = .idle ∧
      (t.port p).tx.current = some { c with attempts := c.attempts - 1 } := by
  have hexec : exec (.breakPulse p) s = taking (breakEffect p) s := rfl
  refine yields_taking hexec p fun t ht => ?_
  rw [ht.tx, breakEffect, txActive_busy hphase, if_pos rfl, receiverError_tx, abandonAttempt, txIdle_same, hc]
  exact ⟨rfl, rfl⟩

end

/-- Settles O32: each command by the step of the attempt that it is. -/
theorem transmitterAttempt : Obligations.TransmitterAttempt := by
  unfold Obligations.TransmitterAttempt
  exact fun p s c => ⟨chosen_yields, fun hc => ⟨started_yields hc, headed_yields hc, fun bit => lost_yields hc, clash_yields hc,
    sent_yields hc, fun mark => mark_recorded hc, close_yields hc, fun sym => symbol_yields hc, break_yields hc⟩⟩

section
variable {s t u v : State} {p : Port} {c : Current} {x : Instr} {e : LineErrors} {again : Prop} {f : State → State} {P : State → Prop}

/-! ## Where a SAFE_COMMAND goes at the end of a taking (R93) -/

/-- The Room Port's queue without the current frame of a port. -/
def leftQueue (p : Port) (c : Current) (q : OutQueue) : OutQueue :=
  match p, c.source with
  | .room, .outgoing i => { q with filled := q.filled.eraseIdx i }
  | _, _ => q

/-- The command to the bolt after the end of a frame: placed where the taking freed a place for it, and left alone where none is owed. -/
def CommandedAfter (again : Prop) (q : OutQueue) (s t : State) : Prop :=
  (s.safe.owed = true ∨ again → (s.safe.owed = false ∨ s.room.out.free = 0 ∨ ∀ b, ¬LowestSafeNode s b) → CommandGoes s t q s.safe.commanded) ∧
  (s.safe.owed = false → ¬again → t.safe = s.safe ∧ t.room.out = q)

theorem placeWaiting_room (s : State) : (placeWaiting s).room.out = s.room.out := by
  obtain ⟨more, down, h⟩ := (placeWaiting_grows s).1 .room
  rcases placeWaiting_spec s with ⟨-, he⟩ | ⟨_, port, _, _, dest, _, _, -, -, -, he⟩ <;> rw [he]
  generalize sendQueue s port dest = q
  cases q <;> rfl

/-- The end of a line command that takes no frame, for the safe and the Room Port's queue. -/
theorem settle_commands (h : LineQuiet p [.linkError] s u) : (settle s u).safe = (placeIfFreed s u).safe ∧
    (settle s u).room.out = (placeIfFreed s u).room.out := by
  have hsettle : settle s u = settleEvents (sendIfFreed s (placeIfFreed s u)) := by
    rw [settle, testReports_same (h.leaves .day (by decide)) (closeInputs_works h)]
  have hsent : (sendIfFreed s (placeIfFreed s u)).safe = (placeIfFreed s u).safe ∧
      (sendIfFreed s (placeIfFreed s u)).room.out = (placeIfFreed s u).room.out := by
    unfold sendIfFreed
    split
    · exact ⟨rfl, rfl⟩
    · exact ⟨placeWaiting_leaves _ .safe (by decide), placeWaiting_room _⟩
  rw [hsettle, ← hsent.1, ← hsent.2]
  exact ⟨settleEvents_leaves _ .safe (by decide), congrArg LinePort.out (settleEvents_leaves _ .room (by decide))⟩

theorem placeSafeCommand_goes (h : s.safe.owed = true) :
    (placeSafeCommand s).safe.commanded = s.safe.commanded ∧
    (∀ b, 0 < s.room.out.free → LowestSafeNode s b → (placeSafeCommand s).safe.owed = false ∧
      (placeSafeCommand s).room.out.filled = s.room.out.filled ++ [safeCommandFrame b s.safe.commanded]) ∧
    (s.room.out.free = 0 ∨ (∀ b, ¬LowestSafeNode s b) →
      (placeSafeCommand s).safe.owed = true ∧ (placeSafeCommand s).room.out.filled = s.room.out.filled) := by
  have hsame : commandSafe s.safe.commanded s = placeSafeCommand s := by
    have hset : s.setSafe { s.safe with commanded := s.safe.commanded, owed := true } = s := by rw [← h]; rfl
    exact congrArg placeSafeCommand hset
  rw [← hsame]
  exact commandSafe_places _ s

theorem placeable_none (h : s.safe.owed = false ∨ s.room.out.free = 0 ∨ ∀ b, ¬LowestSafeNode s b) : commandPlaceable s = false := by
  unfold commandPlaceable
  rcases h with h | h | h
  · rw [h]
    rfl
  · rw [h]
    simp
  · have hnode : safeNode s = none := Option.eq_none_iff_forall_ne_some.mpr fun b hb => h b (safeNode_iff.mp hb)
    rw [hnode]
    simp

/-- The end of a frame at a port, with the command that it leaves owed (R93). -/
theorem commanded_after {q : OutQueue} (h : LineWorks p s u) (hq : u.room.out = q) (howed : u.safe.owed = true ↔ s.safe.owed = true ∨ again) :
    CommandedAfter again q s (settle s u) := by
  obtain ⟨hsafe, hout⟩ := settle_commands h
  have hnode (b : Byte) : LowestSafeNode u b ↔ LowestSafeNode s b := by
    unfold LowestSafeNode
    rw [h.leaves .nodes (by decide)]
  refine ⟨fun hany hnone => ?_, fun hno hnot => ?_⟩
  · have hplaced : placeIfFreed s u = placeSafeCommand u := by
      unfold placeIfFreed
      rw [placeable_none hnone]
      rfl
    obtain ⟨hcommanded, hplace, howe⟩ := placeSafeCommand_goes (howed.mpr hany)
    have hsame : u.safe.commanded = s.safe.commanded := by rw [h.safe]
    rw [hq, hsame] at hplace
    rw [hq] at howe
    rw [CommandGoes, hsafe, hout, hplaced]
    refine ⟨hcommanded.trans hsame, fun b hfree hb => ?_, fun hno => ?_⟩
    · obtain ⟨ho, hf⟩ := hplace b hfree ((hnode b).mpr hb)
      exact ⟨ho, [], hf, nofun⟩
    · obtain ⟨ho, hf⟩ := howe (hno.imp id fun h b hb => h b ((hnode b).mp hb))
      exact ⟨ho, [], hf.trans (List.append_nil _).symm, nofun⟩
  · have hnone : u.safe.owed = false := Bool.eq_false_iff.mpr fun h => (howed.mp h).elim (by rw [hno]; exact nofun) hnot
    have hplaced : placeIfFreed s u = u := by
      unfold placeIfFreed
      split
      · rfl
      · rcases placeSafeCommand_spec u with ⟨-, he⟩ | ⟨hyes, -⟩
        · exact he
        · rw [placeable_none (.inl hnone)] at hyes
          cases hyes
    rw [hsafe, hout, hplaced, h.safe, hnone, ← hno]
    exact ⟨rfl, hq⟩

/-! ## The end of a frame (R157, R163, R164) -/

/-- The frame has left the transmitter, and its place is free. -/
def FreedAt (p : Port) (c : Current) (s t : State) : Prop :=
  (t.port p).tx.phase = .idle ∧ (t.port p).tx.current = none ∧
  (∀ i, c.source = .outgoing i → ∃ more, (t.port p).out.filled = (s.port p).out.filled.eraseIdx i ++ more) ∧
  (c.source = .downlink → ∃ more, (t.port p).down = (s.port p).down.tail ++ more)

/-- Work that has ended a frame: delivered, or discarded with what its owner is told. -/
structure FrameEnds (p : Port) (c : Current) (again : Prop) (e : LineErrors) (s u : State) : Prop where
  works : LineWorks p s u
  phase : (u.port p).tx.phase = .idle
  current : (u.port p).tx.current = none
  out : (u.port p).out = (portFreed (s.port p) c.source).out
  down : (u.port p).down = (portFreed (s.port p) c.source).down
  errors : (u.port p).errors = e
  owed : u.safe.owed = true ↔ s.safe.owed = true ∨ again

theorem FrameEnds.freed (h : FrameEnds p c again e s u) (ht : PortDone p u t) : FreedAt p c s t := by
  obtain ⟨more, down, hport⟩ := ht.port
  rw [FreedAt, hport]
  refine ⟨h.phase, h.current, fun i hi => ⟨more, ?_⟩, fun hdown => ⟨down, ?_⟩⟩
  · show (u.port p).out.filled ++ more = _
    rw [h.out, hi]
    rfl
  · show (u.port p).down ++ down = _
    rw [h.down, hdown]
    rfl

theorem FrameEnds.room (h : FrameEnds p c again e s u) : u.room.out = leftQueue p c s.room.out := by
  have hout := h.out
  cases p with
  | floor =>
    have hother : u.room = s.room := h.works.other .room (by decide)
    rw [hother]
    rfl
  | room =>
    show (u.port .room).out = _
    rw [hout]
    unfold leftQueue
    cases c.source <;> rfl

/-- A taking that has ended its frame. -/
theorem ended_yields (hc : exec x s = taking f s) (h : FrameEnds p c again e s (f s)) : Yields x s fun t =>
    (FreedAt p c s t ∧ (t.port p).errors = e ∧ CommandedAfter again (leftQueue p c s.room.out) s t) ∧
      (t.port p).tx.driven = ((f s).port p).tx.driven ∧ t.event .linkError = (f s).event .linkError := by
  have hdone := portDone_settle p s (f s)
  exact ⟨_, hc, ⟨h.freed hdone, hdone.errors.trans h.errors, commanded_after h.works h.room h.owed⟩, by rw [hdone.tx], hdone.linkError⟩

theorem Holds.freed (h : Holds p c e s v) : (portFreed ((txIdle p none v).port p) c.source).out = (portFreed (s.port p) c.source).out ∧
    (portFreed ((txIdle p none v).port p) c.source).down = (portFreed (s.port p) c.source).down := by
  have hout := h.out
  have hdown := h.down
  rw [txIdle_same]
  cases c.source with
  | outgoing i => exact ⟨by simp only [portFreed, hout], hdown⟩
  | downlink => exact ⟨hout, by simp only [portFreed, hdown]⟩

theorem deliver_ends (h : Holds p c e s v) : FrameEnds p c False e s (deliverCurrent p v) ∧
    ((deliverCurrent p v).port p).tx.driven = (v.port p).tx.driven := by
  have hdelivered : deliverCurrent p v = freePlace p c.source (txIdle p none v) := by
    unfold deliverCurrent
    rw [h.current]
  have hport : (deliverCurrent p v).port p = portFreed ((txIdle p none v).port p) c.source := by rw [hdelivered, freePlace_same]
  obtain ⟨htx, -, herrors⟩ := portFreed_rest ((txIdle p none v).port p) c.source
  have hidle := txIdle_same p none v
  have hsafe : (deliverCurrent p v).safe = v.safe := by rw [hdelivered]; cases c.source <;> cases p <;> rfl
  refine ⟨⟨h.works.trans (deliverCurrent_quiet p v), ?_, ?_, ?_, ?_, ?_, ?_⟩, ?_⟩
  · rw [hport, htx, hidle]
  · rw [hport, htx, hidle]
  · rw [hport, h.freed.1]
  · rw [hport, h.freed.2]
  · rw [hport, herrors, hidle, ← h.errors]
  · rw [hsafe, h.safe]
    exact ⟨.inl, fun h => h.elim id nofun⟩
  · rw [hport, htx, hidle]

theorem discard_ends (h : Holds p c e s v) :
    FrameEnds p c (c.source ≠ .downlink ∧ c.frame.kind = kindSafeCommand) (e.bump .undelivered) s (discardCurrent p c v) := by
  have hport := discardCurrent_same p c v
  obtain ⟨htx, -, -⟩ := portFreed_rest ((txIdle p none v).port p) c.source
  have hidle := txIdle_same p none v
  have hquiet : LineWorks p v (discardCurrent p c v) :=
    (((txIdle_quiet none v).trans (freePlace_quiet c.source _)).trans (countError_quiet .undelivered _)).trans (tellOwner_quiet c _)
  have howed : (discardCurrent p c v).safe.owed = true ↔ v.safe.owed = true ∨ c.source ≠ .downlink ∧ c.frame.kind = kindSafeCommand := by
    have hbefore : (countError p .undelivered (freePlace p c.source (txIdle p none v))).safe = v.safe := by cases c.source <;> cases p <;> rfl
    unfold discardCurrent tellOwner
    split
    · next htell => exact ⟨fun _ => .inr htell, fun _ => rfl⟩
    · next htell =>
      rw [hbefore]
      exact ⟨.inl, fun h => h.elim id fun h => absurd h htell⟩
  refine ⟨h.works.trans hquiet, ?_, ?_, ?_, ?_, ?_, ?_⟩
  · rw [hport]
    exact congrArg Transmitter.phase (htx.trans (by rw [hidle]))
  · rw [hport]
    exact congrArg Transmitter.current (htx.trans (by rw [hidle]))
  · rw [hport, ← h.freed.1]
  · rw [hport, ← h.freed.2]
  · rw [hport, ← h.errors]
  · rw [howed, h.safe]

/-- What a discarded frame leaves (R93, R164). -/
def DiscardedAt (p : Port) (c : Current) (before : LineErrors) (s t : State) : Prop :=
  FreedAt p c s t ∧ (t.port p).errors = before.bump .undelivered ∧
  (t.event .linkError).pending = true ∧ (t.event .linkError).detail = BitVec.ofNat 32 (portCode p * 256 + 6) ∧
  CommandedAfter (c.source ≠ .downlink ∧ c.frame.kind = kindSafeCommand) (leftQueue p c s.room.out) s t

theorem discarded_yields (hc : exec x s = taking f s) (h : Holds p c e s v) (hfails : f s = failAttempt p v) (hlimit : 4 ≤ c.attempts) :
    Yields x s (DiscardedAt p c e s) := by
  have hf : f s = discardCurrent p c v := by
    rcases failAttempt_spec h.current with ⟨hfew, -⟩ | ⟨-, he⟩
    · exact absurd hlimit (not_le.mpr hfew)
    · exact hfails.trans he
  obtain ⟨u, hu, ⟨hfreed, herrors, hcommand⟩, -, hevent⟩ := ended_yields (p := p) hc (hf ▸ discard_ends h)
  obtain ⟨hpending, hdetail⟩ := discardCurrent_linkError p c v
  rw [hf] at hevent
  exact ⟨u, hu, hfreed, herrors, by rw [hevent, hpending], by rw [hevent, hdetail], hcommand⟩

/-- A failed attempt below the limit keeps the frame and the queues. -/
theorem kept_yields (hc : exec x s = taking f s) (h : Holds p c (s.port p).errors s v) (hl : unchangedBut [Part.ofPort p] s v)
    (hfails : f s = failAttempt p v) (hfew : c.attempts < 4) : Yields x s fun t => (t.port p).tx.phase = .idle ∧ (t.port p).tx.current = some c ∧
      (t.port p).errors = (s.port p).errors ∧ (t.port p).out = (s.port p).out ∧ (t.port p).down = (s.port p).down := by
  have hf : f s = txIdle p (some c) v := hfails.trans ((failAttempt_effect h.current).2.2.2.2 hfew)
  have hport := txIdle_same p (some c) v
  refine yields_unfreed (p := p) hc ?_ ?_ ?_ fun t ht hup hev => ?_ <;> rw [hf] at *
  · exact unchangedBut_mono (unchangedBut_trans hl (setTx_leaves p _ v)) (by simp)
  · rw [hport, ← h.out]
  · rw [hport, ← h.down]
  · rw [ht, hport]
    exact ⟨rfl, rfl, h.errors, h.out, h.down⟩

/-- A command that closes the window of the current frame with these marks recorded. -/
theorem window_closes {marks : List Byte} (hc : (s.port p).tx.current = some c) (hphase : (s.port p).tx.phase = .awaitMarks)
    (h : x = .windowClose p ∧ marks = (s.port p).tx.marks ∨
      ∃ mark, x = .markByte p mark ∧ marks = (s.port p).tx.marks ++ [mark] ∧
        (markMode c.frame.pb = .one ∧ (s.port p).tx.marks = [] ∨ markMode c.frame.pb ≠ .one ∧ (s.port p).tx.marks.length = 5)) :
    ∃ f v, exec x s = taking f s ∧ f s = closeWindow p v ∧ Holds p c (s.port p).errors s v ∧ unchangedBut [Part.ofPort p] s v ∧
      (v.port p).tx.marks = marks := by
  rcases h with ⟨rfl, rfl⟩ | ⟨mark, rfl, rfl, hfull⟩
  · exact ⟨_, s, close_exec hphase, rfl, holds_self hc, unchangedBut_refl _ s, rfl⟩
  · have hlen : fullWindow c.frame.pb ≤ (s.port p).tx.marks.length + 1 := by
      unfold fullWindow
      rcases hfull with ⟨hmode, hmarks⟩ | ⟨hmode, hlen⟩
      · rw [if_pos hmode]
        omega
      · rw [if_neg hmode, hlen]
    refine ⟨_, s.setTx p { (s.port p).tx with marks := (s.port p).tx.marks ++ [mark] }, mark_exec mark hphase, ?_, holds_setTx hc, setTx_leaves p _ s, ?_⟩
    · rw [recordMark_eq mark hc, if_pos hlen]
    · rw [setTx_same]

theorem delivered_yields (hc : exec x s = taking f s) (h : Holds p c (s.port p).errors s v) (hf : f s = deliverCurrent p v) : Yields x s fun t =>
    (FreedAt p c s t ∧ (t.port p).errors = (s.port p).errors ∧ CommandedAfter False (leftQueue p c s.room.out) s t) ∧
      (t.port p).tx.driven = (v.port p).tx.driven := by
  obtain ⟨hends, hdriven⟩ := deliver_ends h
  obtain ⟨u, hu, hall, hd, -⟩ := ended_yields (p := p) hc (hf ▸ hends)
  exact ⟨u, hu, hall, hd.trans (by rw [hf, hdriven])⟩

theorem closeWindow_delivers (hc : (s.port p).tx.current = some c) (hdest : c.frame.dest ≠ 255) (hmark : c.frame.dest ∈ (s.port p).tx.marks) :
    closeWindow p s = deliverCurrent p s := by
  rcases closeWindow_spec hc with ⟨-, he⟩ | ⟨hnot, -⟩
  · rw [he, deliverCurrent, hc]
  · exact absurd ⟨hdest, hmark⟩ hnot

theorem data_delivered (hc : (s.port p).tx.current = some c) (hphase : (s.port p).tx.phase = .sending) (hmode : markMode c.frame.pb = .none) :
    Yields (.dataSent p) s fun t =>
      (FreedAt p c s t ∧ (t.port p).errors = (s.port p).errors ∧ CommandedAfter False (leftQueue p c s.room.out) s t) ∧
        (t.port p).tx.driven = c.frame.wire := by
  have hexec : exec (.dataSent p) s = taking (dataGone p) s := takingIf_true (decide_eq_true hphase)
  have hgone : dataGone p s = deliverCurrent p (s.setTx p { (s.port p).tx with phase := .awaitMarks, marks := [], driven := c.frame.wire }) := by
    rw [dataGone_eq hc, if_pos hmode]
  obtain ⟨u, hu, hall, hdriven⟩ := delivered_yields (p := p) hexec
    (holds_setTx (tx := { (s.port p).tx with phase := .awaitMarks, marks := [], driven := c.frame.wire }) hc) hgone
  exact ⟨u, hu, hall, hdriven.trans (by rw [setTx_same])⟩

end

/-- Settles O33: the frame's end by the work that ends it, and the bolt's command by the end of the taking. -/
theorem transmitterEnd : Obligations.TransmitterEnd := by
  unfold Obligations.TransmitterEnd
  intro p s c hc freed left commanded delivered discarded kept
  have hleft : left = leftQueue p c := by
    funext q
    clear hc
    rcases c with ⟨x, src, n⟩
    cases p <;> cases src <;> rfl
  have hdelivered : delivered = fun t => FreedAt p c s t ∧ (t.port p).errors = (s.port p).errors ∧ CommandedAfter False (leftQueue p c s.room.out) s t := by
    rw [← hleft]
    rfl
  have hdiscarded (e : LineErrors) : discarded e = DiscardedAt p c e s := by
    funext t
    unfold DiscardedAt
    rw [← hleft]
    rfl
  refine ⟨fun hphase hmode => ?_, fun x marks hphase hx => ?_, fun hlimit => ⟨fun bit hphase hbit => ?_, fun hphase => ?_, fun sym hphase hsym => ?_⟩⟩
  · rw [hdelivered]
    exact data_delivered hc hphase hmode
  · obtain ⟨f, v, hexec, hclose, hholds, hleaves, rfl⟩ := window_closes hc hphase hx
    refine ⟨fun hdest hmark => ?_, fun hmark hfew => ?_, fun hmark hlimit => ?_⟩
    · rw [hdelivered]
      obtain ⟨u, hu, hall, -⟩ := delivered_yields hexec hholds (hclose.trans (closeWindow_delivers hholds.current hdest hmark))
      exact ⟨u, hu, hall⟩
    · exact kept_yields hexec hholds hleaves (hclose.trans (closeWindow_fails hholds.current hmark)) hfew
    · rw [hdiscarded]
      exact discarded_yields hexec hholds (hclose.trans (closeWindow_fails hholds.current hmark)) hlimit
  · rw [hdiscarded]
    exact discarded_yields (lost_exec hc hphase hbit) (holds_setRx _ hc) rfl hlimit
  · rw [hdiscarded]
    exact discarded_yields (clash_exec hphase) (holds_counted .clash hc) rfl hlimit
  · rw [hdiscarded]
    exact discarded_yields (symbol_exec hphase hsym) (holds_counted .symbol hc) rfl hlimit

end Sys2Proof.Machine.Effects

/-! PROOF. DROP, DEPOSIT and WITHDRAW: applied, repeated, turned away, and refused by the register (R28, R29, R31, R79, R81 to R84). -/

namespace Sys2Proof.Machine.Effects

open Sys2Proof Sys2Proof.Machine Sys2Proof.Machine.Takings Sys2Proof.Machine.TallyCount

section
variable {s s' t u : State} {p : Port} {w : Window} {n : Nat} {node : Byte} {b b' : Bag} {k : JobKind} {code : Code} {d : Option Word32}
  {op : SafeOp} {way : EntryWay} {rule : Nat → Byte → State → State × Answer} {c : Port → Instr} {P : State → Prop} {a : Answer}

/-! ## The three rules, branch by branch -/

theorem dropRule_held (h : s.safe.lock.chuteWorks = false) : dropRule n node s = (raiseNum .chuteHeld n s, .verdict .held none) := by
  unfold dropRule
  rw [h]
  rfl

theorem dropRule_repeated {x : Word32} (h : s.safe.lock.chuteWorks = true) (hr : repeatOf .drop n node s = some x) :
    dropRule n node s = (s, .verdict .duplicate (some x)) := by
  unfold dropRule
  rw [h, hr]
  rfl

theorem dropRule_unknown (h : s.safe.lock.chuteWorks = true) (hr : repeatOf .drop n node s = none) (hfind : findBag s n = none) :
    dropRule n node s = (raiseNum .chuteHeld n s, .verdict .unknownBag none) := by
  unfold dropRule
  rw [h, hr, hfind]
  rfl

/-- A DROP of a bag on the register, by what the register says of the movement. -/
theorem dropRule_known (h : s.safe.lock.chuteWorks = true) (hr : repeatOf .drop n node s = none) (hfind : findBag s n = some b) :
    (∀ e, moveDrop s.seconds b = .error e → dropRule n node s = (s, .verdict e none)) ∧
    (moveDrop s.seconds b = .ok b' →
      (120 ≤ s.safe.inventory.length → dropRule n node s = (raiseNum .safeFull n s, .verdict .safeFull none)) ∧
      (s.safe.inventory.length < 120 →
        dropRule n node s = (acceptEntry .drop .chute b' node s, .verdict .accepted (num (s.safe.inventory.length + 1))))) := by
  unfold dropRule
  rw [h, hr, hfind]
  refine ⟨fun e he => ?_, fun he => ⟨fun hfull => ?_, fun hroom => ?_⟩⟩ <;> dsimp only <;> rw [he]
  · rfl
  · exact if_pos hfull
  · exact if_neg (not_le.mpr hroom)

theorem depositRule_shut (h : s.safe.lock.doorStands = false) : depositRule n node s = (s, .verdict .doorShut (num s.safe.lock.code)) := by
  unfold depositRule
  rw [h]
  rfl

theorem depositRule_repeated {x : Word32} (h : s.safe.lock.doorStands = true) (hr : repeatOf .deposit n node s = some x) :
    depositRule n node s = (s, .verdict .duplicate (some x)) := by
  unfold depositRule
  rw [h, hr]
  rfl

theorem depositRule_unknown (h : s.safe.lock.doorStands = true) (hr : repeatOf .deposit n node s = none) (hfind : findBag s n = none) :
    depositRule n node s = (s, .verdict .unknownBag none) := by
  unfold depositRule
  rw [h, hr, hfind]
  rfl

theorem depositRule_known (h : s.safe.lock.doorStands = true) (hr : repeatOf .deposit n node s = none) (hfind : findBag s n = some b) :
    (∀ e, moveDeposit s.seconds b = .error e → depositRule n node s = (s, .verdict e none)) ∧
    (moveDeposit s.seconds b = .ok b' →
      (120 ≤ s.safe.inventory.length → depositRule n node s = (raiseNum .safeFull n s, .verdict .safeFull none)) ∧
      (s.safe.inventory.length < 120 →
        depositRule n node s = (acceptEntry .deposit .door b' node s, .verdict .accepted (num (s.safe.inventory.length + 1))))) := by
  unfold depositRule
  rw [h, hr, hfind]
  refine ⟨fun e he => ?_, fun he => ⟨fun hfull => ?_, fun hroom => ?_⟩⟩ <;> dsimp only <;> rw [he]
  · rfl
  · exact if_pos hfull
  · exact if_neg (not_le.mpr hroom)

theorem withdrawRule_shut (h : s.safe.lock.doorStands = false) : withdrawRule n node s = (s, .verdict .doorShut (num s.safe.lock.code)) := by
  unfold withdrawRule
  rw [h]
  rfl

theorem withdrawRule_repeated {x : Word32} (h : s.safe.lock.doorStands = true) (hr : repeatOf .withdraw n node s = some x) :
    withdrawRule n node s = (s, .verdict .duplicate (some x)) := by
  unfold withdrawRule
  rw [h, hr]
  rfl

theorem withdrawRule_unknown (h : s.safe.lock.doorStands = true) (hr : repeatOf .withdraw n node s = none) (hfind : findBag s n = none) :
    withdrawRule n node s = (s, .verdict .unknownBag (num n)) := by
  unfold withdrawRule
  rw [h, hr, hfind]
  rfl

/-- The safe without a bag that a WITHDRAW takes out. -/
def withdrawn (n : Nat) (node : Byte) (b' : Bag) (s : State) : State :=
  recordOp .withdraw n node b'.state b'.state.code (leaveSafe n (changeBag n (fun _ => b') s))

theorem withdrawRule_known (h : s.safe.lock.doorStands = true) (hr : repeatOf .withdraw n node s = none) (hfind : findBag s n = some b) :
    (∀ e, moveWithdraw s.call s.seconds b = .error e → withdrawRule n node s = (s, .verdict e (num n))) ∧
    (moveWithdraw s.call s.seconds b = .ok b' → withdrawRule n node s = (withdrawn n node b' s, .verdict .accepted (num b'.state.code))) := by
  unfold withdrawRule
  rw [h, hr, hfind]
  refine ⟨fun e he => ?_, fun he => ?_⟩ <;> dsimp only <;> rw [he] <;> rfl

/-! ## What the register says of a movement (R28, R29, R31) -/

theorem moveDrop_ok (now : Nat) (hkind : b.kind.counted = true) (hstate : b.state = .sealed ∨ b.state = .received) :
    moveDrop now b = .ok (b.moved .inSafe now) := by
  unfold moveDrop
  rw [hkind]
  exact if_pos (by simpa using hstate)

theorem moveDrop_wrong (now : Nat) (h : b.kind.counted = false ∨ b.state ≠ .sealed ∧ b.state ≠ .received) : moveDrop now b = .error .wrongBagState := by
  unfold moveDrop
  refine if_neg fun hc => ?_
  simp only [Bool.and_eq_true, Bool.or_eq_true, decide_eq_true_eq] at hc
  obtain ⟨hkind, hstate⟩ := hc
  rcases h with h | ⟨hsealed, hreceived⟩
  · rw [h] at hkind
    cases hkind
  · exact hstate.elim hsealed hreceived

theorem moveDeposit_ok (now : Nat) (h : b.state = .hatchHeld ∨ b.kind.counted = true ∧ (b.state = .sealed ∨ b.state = .received ∨ b.state = .outForCount) ∨
      b.kind.counted = false ∧ b.state = .madeUp ∨ b.kind = .consignment ∧ b.state = .inHandling) :
    moveDeposit now b = .ok { b with state := .inSafe, entered := now, pin := if b.state = .hatchHeld then none else b.pin } := by
  have hmoved (hheld : b.state ≠ .hatchHeld) :
      b.moved .inSafe now = { b with state := .inSafe, entered := now, pin := if b.state = .hatchHeld then none else b.pin } := by
    rw [if_neg hheld]
    rfl
  unfold moveDeposit
  rcases h with h | ⟨hkind, hstate⟩ | ⟨hkind, hstate⟩ | ⟨hkind, hstate⟩
  · rw [if_pos h, if_pos h]
    rfl
  · have hheld : b.state ≠ .hatchHeld := by rcases hstate with h | h | h <;> rw [h] <;> decide
    rw [if_neg hheld, if_pos (by simpa [hkind, or_assoc] using hstate), hmoved hheld]
  · have hheld : b.state ≠ .hatchHeld := by rw [hstate]; decide
    rw [if_neg hheld, if_neg (by simp [hkind]), if_pos (by simp [hkind, hstate]), hmoved hheld]
  · have hheld : b.state ≠ .hatchHeld := by rw [hstate]; decide
    rw [if_neg hheld, if_neg (by simp [hkind, BagKind.counted]), if_neg (by simp [hstate]), if_pos (by simp [hkind, hstate]), hmoved hheld]

theorem moveDeposit_wrong (now : Nat) (hheld : b.state ≠ .hatchHeld)
    (hcounted : b.kind.counted = true → b.state ≠ .sealed ∧ b.state ≠ .received ∧ b.state ≠ .outForCount)
    (hmade : b.kind.counted = false → b.state ≠ .madeUp) (hhandling : b.kind = .consignment → b.state ≠ .inHandling) :
    moveDeposit now b = .error .wrongBagState := by
  unfold moveDeposit
  rw [if_neg hheld, if_neg, if_neg, if_neg]
  · simpa using hhandling
  · simpa using hmade
  · simpa [and_assoc] using hcounted

theorem moveWithdraw_wrong (x : Handover) (now : Nat) (h : b.state ≠ .inSafe) : moveWithdraw x now b = .error .wrongBagState := if_pos h

theorem moveWithdraw_pinned {x : Handover} {i : Fin 16} (now : Nat) (h : b.state = .inSafe) (hkind : b.kind = .consignment) (hpin : b.pin = some i)
    (hcall : x.phase = .idle ∨ x.slot ≠ some i) : moveWithdraw x now b = .error .pinned := by
  have hactive : x.activeOn i = false := by
    unfold Handover.activeOn
    rcases hcall with hcall | hcall <;> simp [hcall]
  unfold moveWithdraw
  rw [if_neg (not_not.mpr h), hkind]
  dsimp only
  rw [hpin]
  dsimp only
  rw [hactive]
  rfl

theorem moveWithdraw_ok {x : Handover} {st : BagState} (now : Nat) (h : b.state = .inSafe)
    (hst : b.kind.counted = true ∧ st = .outForCount ∨ b.kind = .floatBag ∧ st = .madeUp ∨ b.kind = .consignment ∧ b.pin = none ∧ st = .madeUp ∨
      b.kind = .consignment ∧ st = .inHandling ∧ x.phase ≠ .idle ∧ ∃ i, b.pin = some i ∧ x.slot = some i) :
    moveWithdraw x now b = .ok (b.moved st now) := by
  unfold moveWithdraw
  rw [if_neg (not_not.mpr h)]
  rcases hst with ⟨hkind, rfl⟩ | ⟨hkind, rfl⟩ | ⟨hkind, hpin, rfl⟩ | ⟨hkind, rfl, hphase, i, hpin, hslot⟩
  · cases hk : b.kind <;> rw [hk] at hkind <;> first | rfl | exact absurd hkind (by decide)
  · rw [hkind]
  · rw [hkind]
    dsimp only
    rw [hpin]
  · have hactive : x.activeOn i = true := by simp [Handover.activeOn, hphase, hslot]
    rw [hkind]
    dsimp only
    rw [hpin]
    dsimp only
    rw [hactive]
    rfl

theorem withdrawn_stands {x : Handover} {st : BagState}
    (hst : b.kind.counted = true ∧ st = .outForCount ∨ b.kind = .floatBag ∧ st = .madeUp ∨ b.kind = .consignment ∧ b.pin = none ∧ st = .madeUp ∨
      b.kind = .consignment ∧ st = .inHandling ∧ x.phase ≠ .idle ∧ ∃ i, b.pin = some i ∧ x.slot = some i) : st.terminal = false := by
  rcases hst with ⟨-, rfl⟩ | ⟨-, rfl⟩ | ⟨-, -, rfl⟩ | ⟨-, rfl, -⟩ <;> rfl

/-! ## A frame that names a bag -/

theorem findBag_setRx (s : State) (p : Port) (rx : Receiver) (n : Nat) : findBag (s.setRx p rx) n = findBag s n :=
  findBag_of_leaves (setRx_leaves p rx s) (by cases p <;> decide)

theorem repeatOf_congr (hsafe : t.safe.last = s.safe.last) (hfind : findBag t n = findBag s n) : repeatOf op n node t = repeatOf op n node s := by
  unfold repeatOf bagIn
  rw [hsafe, hfind]

theorem repeatOf_setRx (s : State) (p : Port) (rx : Receiver) (op : SafeOp) (n : Nat) (node : Byte) :
    repeatOf op n node (s.setRx p rx) = repeatOf op n node s :=
  repeatOf_congr (by rw [State.setRx_safe]) (findBag_setRx s p rx n)

/-- A frame whose job is the rule of a seal. -/
structure SealFrame (c : Port → Instr) (k : JobKind) (rule : Nat → Byte → State → State × Answer) (s : State) (p : Port) (w : Window) (n : Nat) : Prop where
  exec : ∀ p s, exec (c p) s = deliver p (isJob k) s
  job : k.job = sealJob rule
  taken : TakenAs s p w k none
  body : parseSeal w.frame.body = some n

theorem SealFrame.yields (h : SealFrame c k rule s p w n) (hrule : rule n w.frame.src (s.setRx p .idle) = (s', a))
    (hP : ∀ u, FrameDone s p w a s' u → P u) : Yields (c p) s P := by
  refine job_yields h.exec h.taken (isJob_of_takenAs h.taken) ?_ hP
  rw [h.job]
  unfold sealJob
  rw [show (({ w.taken p with pair := none } : Taken)).frame.body = w.frame.body from rfl, h.body]
  exact hrule

theorem SealFrame.refused (h : SealFrame c k rule s p w n) (hrule : rule n w.frame.src (s.setRx p .idle) = (s.setRx p .idle, .verdict code d)) :
    RefusedFrame c s p w code d :=
  h.yields hrule fun _ hu => ⟨hu.unmoved.1, hu.unmoved.2, hu.answered⟩

theorem refused_keeps (h : RefusedFrame c s p w code d) : Yields (c p) s fun u => u.safe = s.safe ∧ u.bags = s.bags ∧ Answered s u p w code d := by
  obtain ⟨u, hu, hleaves, -, hanswered⟩ := h
  exact ⟨u, hu, hleaves .safe (by decide), hleaves .bags (by decide), hanswered⟩

/-- A frame turned away with an event raised, and nothing else. -/
theorem FrameDone.raisedOnly {e : Event} (h : FrameDone s p w a (raiseNum e n (s.setRx p .idle)) u) (hi : e.indirect = false := by rfl)
    (he : e ≠ .dayChanged := by decide) : unchangedBut Part.answerParts s u ∧ eventsBut [e] s u ∧ u.event e = raisedIf true e n s := by
  have hrx := setRx_leaves p .idle s
  have hraise : unchangedBut [.events] (s.setRx p .idle) (raiseNum e n (s.setRx p .idle)) := raise_leaves _ _ _
  have hbefore := unchangedBut_trans hrx hraise
  obtain ⟨hleaves, hevents⟩ := h.unreported (closeInputs_congr (hbefore .drawers (by cases p <;> decide)) (hbefore .sessions (by cases p <;> decide))
    (hbefore .call (by cases p <;> decide)) (hbefore .bags (by cases p <;> decide)) (hbefore .safe (by cases p <;> decide)))
  refine ⟨unchangedBut_comp (unchangedBut_mono hbefore (by cases p <;> simp [Part.ofPort, Part.answerParts, Part.eventParts])) hleaves,
    eventsBut_mono (eventsBut_trans (eventsBut_trans (eventsBut_of_leaves [] hrx (by cases p <;> decide)) (raise_events e _ _)) hevents) (by simp), ?_⟩
  rw [h.event e hi he, raisedIf, if_pos rfl]
  show (raise e _ _).event e = _
  rw [raise_event, if_pos rfl, State.event_setRx]

/-! ## The frames that move nothing -/

theorem SealFrame.held {e : Event} (h : SealFrame c k rule s p w n) (hrule : rule n w.frame.src (s.setRx p .idle) = (raiseNum e n (s.setRx p .idle), .verdict code d))
    (hi : e.indirect = false := by rfl) (he : e ≠ .dayChanged := by decide) : Yields (c p) s fun u =>
      unchangedBut Part.answerParts s u ∧ eventsBut [e] s u ∧ u.event e = raisedIf true e n s ∧ Answered s u p w code d :=
  h.yields hrule fun _ hu => ⟨(hu.raisedOnly hi he).1, (hu.raisedOnly hi he).2.1, (hu.raisedOnly hi he).2.2, hu.answered⟩

/-- Turned away: the safe and the register as they were, the event with the seal. -/
theorem SealFrame.turnedAway {e : Event} (h : SealFrame c k rule s p w n)
    (hrule : rule n w.frame.src (s.setRx p .idle) = (raiseNum e n (s.setRx p .idle), .verdict code d))
    (hi : e.indirect = false := by rfl) (he : e ≠ .dayChanged := by decide) : Yields (c p) s fun u =>
      u.safe = s.safe ∧ u.bags = s.bags ∧ (u.event e).pending = true ∧ (u.event e).detail = BitVec.ofNat 32 n ∧ Answered s u p w code d := by
  obtain ⟨u, hu, hleaves, -, hevent, hanswered⟩ := h.held hrule hi he
  exact ⟨u, hu, hleaves .safe (by decide), hleaves .bags (by decide), by rw [hevent]; rfl, by rw [hevent]; rfl, hanswered⟩

theorem repeatOf_last {l : LastOp} (hlast : s.safe.last = some l) (hop : l.op = op) (hseal : l.sealNo = n) (hnode : l.node = node)
    (hbag : bagIn s n l.state = true) : repeatOf op n node s = some l.detail := by
  unfold repeatOf
  rw [hlast]
  exact if_pos ⟨hop, hseal, hnode, hbag⟩

theorem repeatOf_unknown {x : Word32} (hfind : findBag s n = none) : repeatOf op n node s ≠ some x := by
  unfold repeatOf bagIn
  rw [hfind]
  split <;> simp

theorem sealJob_unparsed {f : Taken} (rule : Nat → Byte → State → State × Answer) (h : parseSeal f.frame.body = none) :
    sealJob rule f s = (s, .verdict .malformed none) := by
  unfold sealJob
  rw [h]

theorem drop_frame (h : TakenAs s p w .drop none) (hbody : parseSeal w.frame.body = some n) : SealFrame .drop .drop dropRule s p w n :=
  ⟨fun _ _ => rfl, rfl, h, hbody⟩

theorem deposit_frame (h : TakenAs s p w .deposit none) (hbody : parseSeal w.frame.body = some n) : SealFrame .deposit .deposit depositRule s p w n :=
  ⟨fun _ _ => rfl, rfl, h, hbody⟩

theorem withdraw_frame (h : TakenAs s p w .withdraw none) (hbody : parseSeal w.frame.body = some n) : SealFrame .withdraw .withdraw withdrawRule s p w n :=
  ⟨fun _ _ => rfl, rfl, h, hbody⟩

theorem chute_setRx (hchute : s.safe.lock.chuteWorks = true) : (s.setRx p .idle).safe.lock.chuteWorks = true := by rwa [State.setRx_safe]

theorem door_setRx (hdoor : s.safe.lock.doorStands = true) : (s.setRx p .idle).safe.lock.doorStands = true := by rwa [State.setRx_safe]

theorem repeat_setRx {x : Option Word32} (hr : repeatOf op n node s = x) : repeatOf op n node (s.setRx p .idle) = x := (repeatOf_setRx s p _ op n node).trans hr

theorem find_setRx {x : Option Bag} (hfind : findBag s n = x) : findBag (s.setRx p .idle) n = x := (findBag_setRx s p _ n).trans hfind

/-! ## The frames that move a bag -/

theorem acceptEntry_safe (op : SafeOp) (way : EntryWay) (b' : Bag) (node : Byte) (s : State) : (acceptEntry op way b' node s).safe =
    { s.safe with
      inventory := s.safe.inventory ++ [{ sealNo := b'.sealNo, way := way, second := s.seconds }]
      last := some { op := op, sealNo := b'.sealNo, node := node, state := b'.state, detail := BitVec.ofNat 32 (s.safe.inventory.length + 1) } } := rfl

theorem acceptEntry_find (op : SafeOp) (way : EntryWay) (node : Byte) (hfind : findBag s n = some b) (hseal : b'.sealNo = b.sealNo) :
    findBag (acceptEntry op way b' node s) n = some b' := by
  have hn : b'.sealNo = n := hseal.trans (findBag_some hfind).2
  have hbags : (acceptEntry op way b' node s).bags = (changeBag b'.sealNo (fun _ => b') s).bags := rfl
  rw [findBag_congr hbags, hn, findBag_moved hfind hseal, if_pos rfl]

/-- A bag that enters the safe (R79, R81, R83, R84). -/
theorem SealFrame.enters (h : SealFrame c k rule s p w n) (hfind : findBag s n = some b) (hseal : b'.sealNo = b.sealNo) (hstate : b'.state = .inSafe)
    (hrule : rule n w.frame.src (s.setRx p .idle) =
      (acceptEntry op way b' w.frame.src (s.setRx p .idle), .verdict .accepted (num ((s.setRx p .idle).safe.inventory.length + 1)))) :
    Yields (c p) s fun u =>
      findBag u n = some b' ∧ u.safe.inventory = s.safe.inventory ++ [{ sealNo := n, way := way, second := s.seconds }] ∧
      repeatOf op n w.frame.src u = num (s.safe.inventory.length + 1) ∧ Answered s u p w .accepted (num (s.safe.inventory.length + 1)) := by
  refine h.yields hrule fun u hu => ?_
  have hn : b'.sealNo = n := hseal.trans (findBag_some hfind).2
  have hbag : findBag u n = some b' := hu.bags n b' (acceptEntry_find op way w.frame.src (find_setRx hfind) hseal) (by rw [hstate]; rfl)
  have hsafe : u.safe = _ := (hu.part .safe).trans (acceptEntry_safe op way b' w.frame.src (s.setRx p .idle))
  rw [State.setRx_safe, hn, State.setRx_seconds] at hsafe
  have hanswered := hu.answered
  rw [State.setRx_safe] at hanswered
  refine ⟨hbag, by rw [hsafe], ?_, hanswered⟩
  refine repeatOf_last (by rw [hsafe]) rfl rfl rfl ?_
  unfold bagIn
  rw [hbag]
  exact decide_eq_true rfl

theorem withdrawn_safe (n : Nat) (node : Byte) (b' : Bag) (s : State) : (withdrawn n node b' s).safe =
    { s.safe with
      inventory := s.safe.inventory.filter fun e => !decide (e.sealNo = n)
      last := some { op := .withdraw, sealNo := n, node := node, state := b'.state, detail := BitVec.ofNat 32 b'.state.code } } := rfl

theorem withdrawn_find (node : Byte) (hfind : findBag s n = some b) (hseal : b'.sealNo = b.sealNo) : findBag (withdrawn n node b' s) n = some b' := by
  have hbags : (withdrawn n node b' s).bags = (changeBag n (fun _ => b') s).bags := rfl
  rw [findBag_congr hbags, findBag_moved hfind hseal, if_pos rfl]

/-- A bag that leaves the safe (R79, R82, R84). -/
theorem withdraw_moves {st : BagState} (h : TakenAs s p w .withdraw none) (hbody : parseSeal w.frame.body = some n)
    (hdoor : s.safe.lock.doorStands = true) (hr : repeatOf .withdraw n w.frame.src s = none) (hfind : findBag s n = some b) (hin : b.state = .inSafe)
    (hst : b.kind.counted = true ∧ st = .outForCount ∨ b.kind = .floatBag ∧ st = .madeUp ∨ b.kind = .consignment ∧ b.pin = none ∧ st = .madeUp ∨
      b.kind = .consignment ∧ st = .inHandling ∧ s.call.phase ≠ .idle ∧ ∃ i, b.pin = some i ∧ s.call.slot = some i) :
    Yields (.withdraw p) s fun u =>
      findBag u n = some { b with state := st, entered := s.seconds } ∧
      u.safe.inventory = s.safe.inventory.filter (fun e => !decide (e.sealNo = n)) ∧
      repeatOf .withdraw n w.frame.src u = num st.code ∧ Answered s u p w .accepted (num st.code) := by
  have hmove := moveWithdraw_ok (x := (s.setRx p .idle).call) (s.setRx p .idle).seconds hin (by rw [State.setRx_call]; exact hst)
  have hrule := (withdrawRule_known (node := w.frame.src) (door_setRx hdoor) (repeat_setRx hr) (find_setRx hfind)).2 hmove
  refine (withdraw_frame h hbody).yields hrule fun u hu => ?_
  have hbag : findBag u n = some (b.moved st (s.setRx p .idle).seconds) :=
    hu.bags n _ (withdrawn_find w.frame.src (find_setRx hfind) rfl) (withdrawn_stands hst)
  have hsafe : u.safe = _ := (hu.part .safe).trans (withdrawn_safe n w.frame.src (b.moved st (s.setRx p .idle).seconds) (s.setRx p .idle))
  have hstate : (b.moved st (s.setRx p .idle).seconds).state = st := rfl
  have hanswered := hu.answered
  rw [State.setRx_safe, hstate] at hsafe
  rw [State.setRx_seconds] at hbag
  refine ⟨hbag, by rw [hsafe], ?_, hanswered⟩
  refine repeatOf_last (by rw [hsafe]) rfl rfl rfl ?_
  unfold bagIn
  rw [hbag]
  exact decide_eq_true rfl

end

/-- Settles O40: each frame by the branch of its rule that it takes. -/
theorem safeMovements : Obligations.SafeMovements := by
  unfold Obligations.SafeMovements
  refine ⟨fun p s w n hbody => ⟨fun h hchute => ?_, fun c k hck h hdoor => ?_, fun c k op l hck h hlast hop hseal hnode hbag => ?_,
    fun c k op b hck h hr hfind hfull => ?_, fun h hchute => ⟨fun hfind => ?_, fun b hfind hr hwrong => ?_⟩,
    fun h hdoor => ⟨fun hfind => ?_, fun b hfind hr hheld hcounted hmade hhandling => ?_⟩,
    fun h hdoor => ⟨fun hfind => ?_, fun b hfind hr => ⟨fun hout => ?_, fun i hin hkind hpin hcall => ?_⟩⟩⟩,
    fun x hx p s w h hlen => ?_, fun p s w n b hbody hfind => ⟨fun h hchute hr hkind hstate hroom => ?_, fun h hdoor hr hmay hroom => ?_,
      fun st h hdoor hr hin hst => withdraw_moves h hbody hdoor hr hfind hin hst⟩⟩
  · exact (drop_frame h hbody).turnedAway (dropRule_held (by rwa [State.setRx_safe]))
  · rcases hck with ⟨rfl, rfl⟩ | ⟨rfl, rfl⟩
    · have hrefused := (deposit_frame h hbody).refused (depositRule_shut (by rwa [State.setRx_safe]))
      rw [State.setRx_safe] at hrefused
      exact refused_keeps hrefused
    · have hrefused := (withdraw_frame h hbody).refused (withdrawRule_shut (by rwa [State.setRx_safe]))
      rw [State.setRx_safe] at hrefused
      exact refused_keeps hrefused
  · have hr := repeat_setRx (p := p) (repeatOf_last hlast hop hseal hnode hbag)
    rcases hck with ⟨rfl, rfl, rfl, hworks⟩ | ⟨rfl, rfl, rfl, hstands⟩ | ⟨rfl, rfl, rfl, hstands⟩
    · exact refused_keeps ((drop_frame h hbody).refused (dropRule_repeated (chute_setRx hworks) hr))
    · exact refused_keeps ((deposit_frame h hbody).refused (depositRule_repeated (door_setRx hstands) hr))
    · exact refused_keeps ((withdraw_frame h hbody).refused (withdrawRule_repeated (door_setRx hstands) hr))
  · have hfull' : 120 ≤ (s.setRx p .idle).safe.inventory.length := by rwa [State.setRx_safe]
    rcases hck with ⟨rfl, rfl, rfl, hworks, hkind, hstate⟩ | ⟨rfl, rfl, rfl, hstands, hmay⟩
    · exact (drop_frame h hbody).turnedAway
        (((dropRule_known (chute_setRx hworks) (repeat_setRx hr) (find_setRx hfind)).2 (moveDrop_ok _ hkind hstate)).1 hfull')
    · exact (deposit_frame h hbody).turnedAway
        (((depositRule_known (door_setRx hstands) (repeat_setRx hr) (find_setRx hfind)).2 (moveDeposit_ok _ hmay)).1 hfull')
  · cases hr : repeatOf .drop n w.frame.src s with
    | none => exact (drop_frame h hbody).held (dropRule_unknown (chute_setRx hchute) (repeat_setRx hr) (find_setRx hfind))
    | some x => exact absurd hr (repeatOf_unknown hfind)
  · exact (drop_frame h hbody).refused ((dropRule_known (b' := b) (chute_setRx hchute) (repeat_setRx hr) (find_setRx hfind)).1 _ (moveDrop_wrong _ hwrong))
  · cases hr : repeatOf .deposit n w.frame.src s with
    | none => exact (deposit_frame h hbody).refused (depositRule_unknown (door_setRx hdoor) (repeat_setRx hr) (find_setRx hfind))
    | some x => exact absurd hr (repeatOf_unknown hfind)
  · exact (deposit_frame h hbody).refused ((depositRule_known (b' := b) (door_setRx hdoor) (repeat_setRx hr) (find_setRx hfind)).1 _
      (moveDeposit_wrong _ hheld hcounted hmade hhandling))
  · cases hr : repeatOf .withdraw n w.frame.src s with
    | none => exact (withdraw_frame h hbody).refused (withdrawRule_unknown (door_setRx hdoor) (repeat_setRx hr) (find_setRx hfind))
    | some x => exact absurd hr (repeatOf_unknown hfind)
  · exact (withdraw_frame h hbody).refused ((withdrawRule_known (b' := b) (door_setRx hdoor) (repeat_setRx hr) (find_setRx hfind)).1 _
      (moveWithdraw_wrong _ _ hout))
  · exact (withdraw_frame h hbody).refused ((withdrawRule_known (b' := b) (door_setRx hdoor) (repeat_setRx hr) (find_setRx hfind)).1 _
      (moveWithdraw_pinned _ hin hkind hpin (by rwa [State.setRx_call])))
  · have hnone := parseSeal_length hlen
    simp only [List.mem_cons, List.not_mem_nil, or_false] at hx
    rcases hx with rfl | rfl | rfl
    · exact refused_of_job (fun _ _ => rfl) h (isJob_of_takenAs h) (sealJob_unparsed dropRule hnone)
    · exact refused_of_job (fun _ _ => rfl) h (isJob_of_takenAs h) (sealJob_unparsed depositRule hnone)
    · exact refused_of_job (fun _ _ => rfl) h (isJob_of_takenAs h) (sealJob_unparsed withdrawRule hnone)
  · have hentry := (drop_frame h hbody).enters (op := .drop) (way := .chute) hfind (b' := b.moved .inSafe (s.setRx p .idle).seconds) rfl rfl
      (((dropRule_known (chute_setRx hchute) (repeat_setRx hr) (find_setRx hfind)).2 (moveDrop_ok _ hkind hstate)).2 (by rwa [State.setRx_safe]))
    rw [State.setRx_seconds] at hentry
    exact hentry
  · have hentry := (deposit_frame h hbody).enters (op := .deposit) (way := .door) hfind
      (b' := { b with state := .inSafe, entered := (s.setRx p .idle).seconds, pin := if b.state = .hatchHeld then none else b.pin }) rfl rfl
      (((depositRule_known (door_setRx hdoor) (repeat_setRx hr) (find_setRx hfind)).2 (moveDeposit_ok _ hmay)).2 (by rwa [State.setRx_safe]))
    rw [State.setRx_seconds] at hentry
    exact hentry

end Sys2Proof.Machine.Effects

/-! PROOF. RESTOCK and MAKE_UP: applied, and refused check by check (R14 to R17, R20, R69, R71, R76). -/

namespace Sys2Proof.Machine.Effects

open Sys2Proof Sys2Proof.Machine Sys2Proof.Machine.Takings Sys2Proof.Machine.TallyCount

section
variable {s s' t u : State} {p : Port} {w : Window} {n : Nat} {b b' : Bag} {counts : Vector Nat 12} {f : Taken}

/-! ## RESTOCK (R12, R17, R20, R69, R76) -/

theorem restockJob_unknown (hparse : parseSeal f.frame.body = some n) (hfind : findBag s n = none) :
    restockJob f s = (s, .verdict .unknownBag none) := by
  unfold restockJob
  rw [hparse]
  dsimp only
  rw [hfind]

theorem restockJob_wrong (hparse : parseSeal f.frame.body = some n) (hfind : findBag s n = some b) (hwrong : b.state ≠ .madeUp ∨ b.kind.counted = true) :
    restockJob f s = (s, .verdict .wrongBagState none) := by
  have hmove : moveRestock s.seconds b = .error .wrongBagState := by
    unfold moveRestock
    rw [if_neg]
    simp only [Bool.and_eq_true, Bool.not_eq_true', decide_eq_true_eq]
    rintro ⟨hkind, hstate⟩
    rcases hwrong with h | h
    · exact h hstate
    · rw [h] at hkind
      cases hkind
  unfold restockJob
  rw [hparse]
  dsimp only
  rw [hfind]
  dsimp only
  rw [hmove]

theorem countOf_counts (h : b.counts = some counts) : (Vector.ofFn fun c => b.countOf c) = counts := row_ext fun c => by
  rw [ofFn_row]
  unfold Bag.countOf
  rw [h]

theorem restockJob_ok (hparse : parseSeal f.frame.body = some n) (hfind : findBag s n = some b) (hkind : b.kind = .floatBag ∨ b.kind = .consignment)
    (hstate : b.state = .madeUp) (hcounts : b.counts = some counts)
    (hroom : ∀ c : Fin 12, additionRefused s.denoms[c] s.stock[c] counts[c] = false) :
    restockJob f s = (restockBag b (b.moved .restocked s.seconds) s, .verdict .accepted none) := by
  have hmove : moveRestock s.seconds b = .ok (b.moved .restocked s.seconds) := by
    unfold moveRestock
    rcases hkind with hk | hk <;> rw [hk, hstate] <;> rfl
  unfold restockJob
  rw [hparse]
  dsimp only
  rw [hfind]
  dsimp only
  rw [hmove]
  dsimp only
  rw [countOf_counts hcounts, firstRefused_none.mpr hroom]

/-- A restocked bag's order freed, if it has one. -/
def freeRestocked (o : Option (Fin 24)) (s : State) : State := o.elim s fun i => freeOrder i .restocked s

theorem restockBag_eq (hcounts : b.counts = some counts) (b' : Bag) (s : State) : restockBag b b' s =
    freeRestocked b.order (changeBag b.sealNo (fun _ => b') (addRestocked b.declared (addAll s counts))) := by
  unfold restockBag freeRestocked
  rw [countOf_counts hcounts]
  cases b.order <;> rfl

theorem freeRestocked_leaves (o : Option (Fin 24)) (s : State) : unchangedBut [.orders, .drawers] s (freeRestocked o s) := by
  cases o with
  | none => exact unchangedBut_refl _ s
  | some i => exact freeOrder_leaves i .restocked s

/-- What RESTOCK leaves (R17, R20, R69). -/
structure Restocked (b : Bag) (counts : Vector Nat 12) (s t : State) : Prop where
  stock : ∀ c : Fin 12, t.stock[c] = addPieces s.denoms[c] s.stock[c] counts[c]
  acc : t.acc = { s.acc with
    restocked := min 4294967295 (s.acc.restocked + b.declared)
    saturated := s.acc.saturated || decide (4294967295 < s.acc.restocked + b.declared) }
  freed : ∀ i, b.order = some i → (∀ j : Fin 24, t.orders[j] = if i = j then { s.orders[i] with state := .free, outcome := .restocked } else s.orders[j]) ∧
    ∀ k : Fin 160, t.drawers[k] = if s.orders[i].till = k then { s.drawers[k] with openOrder := none } else s.drawers[k]
  kept : b.order = none → t.orders = s.orders ∧ t.drawers = s.drawers
  bag : findBag t b.sealNo = some (b.moved .restocked s.seconds)

theorem restocked_of (hfind : findBag s n = some b) (hcounts : b.counts = some counts) :
    Restocked b counts s (restockBag b (b.moved .restocked s.seconds) s) := by
  have hseal := (findBag_some hfind).2
  have hbefore : unchangedBut [.stock, .acc, .bags] s
      (changeBag b.sealNo (fun _ => b.moved .restocked s.seconds) (addRestocked b.declared (addAll s counts))) :=
    unchangedBut_mono (unchangedBut_trans (restocked_leaves b.declared counts s) (changeBag_leaves _ _ _)) (by decide)
  have hadded : findBag (addRestocked b.declared (addAll s counts)) b.sealNo = some b := by
    rw [findBag_of_leaves (restocked_leaves b.declared counts s), hseal, hfind]
  have hbag := findBag_moved (n := b.sealNo) (b' := b.moved .restocked s.seconds) hadded rfl
  rw [if_pos rfl] at hbag
  have hstock : (changeBag b.sealNo (fun _ => b.moved .restocked s.seconds) (addRestocked b.declared (addAll s counts))).stock = (addAll s counts).stock := rfl
  have hacc : (changeBag b.sealNo (fun _ => b.moved .restocked s.seconds) (addRestocked b.declared (addAll s counts))).acc =
      { s.acc with
        restocked := min 4294967295 (s.acc.restocked + b.declared)
        saturated := s.acc.saturated || decide (4294967295 < s.acc.restocked + b.declared) } := by
    rw [Nat.min_comm]
    rfl
  rw [restockBag_eq hcounts]
  generalize changeBag b.sealNo (fun _ => b.moved .restocked s.seconds) (addRestocked b.declared (addAll s counts)) = v at hbefore hbag hstock hacc ⊢
  have hfreed := freeRestocked_leaves b.order v
  have horders : v.orders = s.orders := hbefore .orders (by decide)
  have hdrawers : v.drawers = s.drawers := hbefore .drawers (by decide)
  refine ⟨fun c => ?_, ?_, fun i hi => ⟨fun j => ?_, fun k => ?_⟩, fun hnone => ?_, ?_⟩
  · rw [show (freeRestocked b.order v).stock = v.stock from hfreed .stock (by decide), hstock]
    exact addAll_row counts s c
  · rw [show (freeRestocked b.order v).acc = v.acc from hfreed .acc (by decide), hacc]
  · rw [hi, ← horders]
    exact freeOrder_row i j .restocked v
  · rw [hi, ← horders, ← hdrawers]
    exact freeOrder_drawer i .restocked v k
  · rw [hnone]
    exact ⟨horders, hdrawers⟩
  · rw [findBag_of_leaves hfreed, hbag]

theorem restocked_setRx (h : Restocked b counts (s.setRx p .idle) t) : Restocked b counts s t := by
  obtain ⟨hstock, hacc, hfreed, hkept, hbag⟩ := h
  simp only [State.setRx_denoms, State.setRx_stock, State.setRx_acc, State.setRx_orders, State.setRx_drawers, State.setRx_seconds] at hstock hacc hfreed hkept hbag
  exact ⟨hstock, hacc, hfreed, hkept, hbag⟩

theorem addition_fits {d : Denom} {r : StockRec} {m : Nat} (h : m ≠ 0 → r.loose + m ≤ 4294967295 ∧ r.straps + (r.loose + m) / d.strap ≤ 4294967295) :
    additionRefused d r m = false := by
  unfold additionRefused
  rw [show Config.top32 = 4294967295 from rfl]
  by_cases hm : m = 0
  · simp [hm]
  · obtain ⟨hloose, hstraps⟩ := h hm
    simp [not_lt.mpr hloose, not_lt.mpr hstraps]

theorem restock_applied (h : TakenAs s p w .restock none) (hparse : parseSeal w.frame.body = some n) (hfind : findBag s n = some b)
    (hkind : b.kind = .floatBag ∨ b.kind = .consignment) (hstate : b.state = .madeUp) (hcounts : b.counts = some counts)
    (hroom : ∀ c : Fin 12, counts[c] ≠ 0 → s.stock[c].loose + counts[c] ≤ 4294967295 ∧
      s.stock[c].straps + (s.stock[c].loose + counts[c]) / s.denoms[c].strap ≤ 4294967295) :
    Yields (.restock p) s fun u =>
      (∀ c : Fin 12, u.stock[c] = if counts[c] = 0 then s.stock[c] else
        { s.stock[c] with
          loose := (s.stock[c].loose + counts[c]) % s.denoms[c].strap
          straps := s.stock[c].straps + (s.stock[c].loose + counts[c]) / s.denoms[c].strap }) ∧
      u.acc = { s.acc with
        restocked := min 4294967295 (s.acc.restocked + b.declared)
        saturated := s.acc.saturated || decide (4294967295 < s.acc.restocked + b.declared) } ∧
      (∀ i, b.order = some i →
        u.orders[i] = { s.orders[i] with state := .free, outcome := .restocked } ∧
        (∀ j : Fin 24, j ≠ i → u.orders[j] = s.orders[j]) ∧
        u.drawers[s.orders[i].till] = { s.drawers[s.orders[i].till] with openOrder := none } ∧
        ∀ t : Fin 160, t ≠ s.orders[i].till → u.drawers[t] = s.drawers[t]) ∧
      (b.order = none → u.orders = s.orders ∧ u.drawers = s.drawers) ∧
      (s.day.state ≠ .closing → findBag u n = some { b with state := .restocked, entered := s.seconds }) ∧
      Answered s u p w .accepted none := by
  have hseal := (findBag_some hfind).2
  have hjob := restockJob_ok (s := s.setRx p .idle) (f := { w.taken p with pair := none }) hparse (find_setRx hfind) hkind hstate hcounts fun c =>
    addition_fits (by rw [State.setRx_denoms, State.setRx_stock]; exact hroom c)
  have hdone := restocked_setRx (restocked_of (find_setRx (p := p) hfind) hcounts)
  generalize restockBag b (b.moved .restocked (s.setRx p .idle).seconds) (s.setRx p .idle) = v at hjob hdone
  refine job_yields (c := .restock) (fun _ _ => rfl) h (isJob_of_takenAs h) hjob fun u hu => ⟨fun c => ?_, ?_, fun i hi => ?_, fun hnone => ?_, fun hday => ?_, hu.answered⟩
  · rw [show u.stock = v.stock from hu.part .stock, hdone.stock]
    rfl
  · rw [show u.acc = v.acc from hu.part .acc, hdone.acc]
  · obtain ⟨horders, hdrawers⟩ := hdone.freed i hi
    rw [show u.orders = v.orders from hu.part .orders, show u.drawers = v.drawers from hu.part .drawers]
    exact ⟨(horders i).trans (if_pos rfl), fun j hj => (horders j).trans (if_neg (Ne.symm hj)), (hdrawers _).trans (if_pos rfl),
      fun t ht => (hdrawers t).trans (if_neg (Ne.symm ht))⟩
  · rw [show u.orders = v.orders from hu.part .orders, show u.drawers = v.drawers from hu.part .drawers]
    exact hdone.kept hnone
  · rw [findBag_of_leaves (hu.open hday).1, ← hseal]
    exact hdone.bag

end

/-- Settles O39: a RESTOCK by the branch of its job. -/
theorem restockResult : Obligations.RestockResult := by
  unfold Obligations.RestockResult
  intro p s w h
  have hrefused {code : Code} (hjob : restockJob { w.taken p with pair := none } (s.setRx p .idle) = (s.setRx p .idle, .verdict code none)) :
      RefusedFrame .restock s p w code none := refused_of_job (fun _ _ => rfl) h (isJob_of_takenAs h) hjob
  refine ⟨fun hlen => hrefused ?_, fun n hparse => ⟨fun hfind => hrefused (restockJob_unknown hparse (find_setRx hfind)), fun b hfind =>
    ⟨fun hwrong => hrefused (restockJob_wrong hparse (find_setRx hfind) hwrong), fun counts hkind hstate hcounts hroom =>
      restock_applied h hparse hfind hkind hstate hcounts hroom⟩⟩⟩
  unfold restockJob
  rw [show (({ w.taken p with pair := none } : Taken)).frame.body = w.frame.body from rfl, parseSeal_length hlen]

end Sys2Proof.Machine.Effects

/-! PROOF. MAKE_UP of a float and of a consignment: applied, and refused check by check (R14, R15, R16, R20, R25, R71). -/

namespace Sys2Proof.Machine.Effects

open Sys2Proof Sys2Proof.Machine Sys2Proof.Machine.Takings Sys2Proof.Machine.TallyCount

section
variable {s s' t u : State} {p : Port} {w : Window} {n k v : Nat} {f : Taken} {i : Fin 24} {pair : Option (Byte × Byte)} {code : Code}
  {d : Option Word32} {counts : Vector Nat 12} {seen : List (Fin 12)} {good ps : List (Fin 12 × Nat)} {rest raw : List (Nat × Nat)}

/-! ## Which rule a MAKE_UP goes to -/

theorem makeUp_float_taken (h : TakenAs s p w .makeUp pair) (hhead : w.frame.body.head? = some 0) :
    (isJob .makeUp w.frame && !isConsignment w.frame) = true ∧ JobKind.makeUp.job { w.taken p with pair := pair } = makeUpFloatJob { w.taken p with pair := pair } := by
  refine ⟨by simp [isJob_of_takenAs h, isConsignment, hhead], ?_⟩
  funext s0
  exact if_neg (by rw [show (({ w.taken p with pair := pair } : Taken)).frame.body = w.frame.body from rfl, hhead]; decide)

theorem makeUp_consignment_taken (h : TakenAs s p w .makeUp pair) (hhead : w.frame.body.head? = some 1) :
    isConsignment w.frame = true ∧ JobKind.makeUp.job { w.taken p with pair := pair } = makeUpConsignmentJob { w.taken p with pair := pair } := by
  refine ⟨by simp [isJob_of_takenAs h, isConsignment, hhead], ?_⟩
  funext s0
  exact if_pos hhead

theorem makeUpFloat_refused (h : TakenAs s p w .makeUp pair) (hhead : w.frame.body.head? = some 0)
    (hjob : makeUpFloatJob { w.taken p with pair := pair } (s.setRx p .idle) = (s.setRx p .idle, .verdict code d)) :
    RefusedFrame .makeUpFloat s p w code d :=
  refused_of_job (isKind := fun f => isJob .makeUp f && !isConsignment f) (fun _ _ => rfl) h (makeUp_float_taken h hhead).1
    ((congrFun (makeUp_float_taken h hhead).2 _).trans hjob)

theorem makeUpConsignment_refused (h : TakenAs s p w .makeUp pair) (hhead : w.frame.body.head? = some 1)
    (hjob : makeUpConsignmentJob { w.taken p with pair := pair } (s.setRx p .idle) = (s.setRx p .idle, .verdict code d)) :
    RefusedFrame .makeUpConsignment s p w code d :=
  refused_of_job (isKind := isConsignment) (fun _ _ => rfl) h (makeUp_consignment_taken h hhead).1
    ((congrFun (makeUp_consignment_taken h hhead).2 _).trans hjob)

/-! ## A float (R14, R71) -/

theorem makeUpFloatJob_unparsed (h : parseMakeUpFloat f.frame.body = none) : makeUpFloatJob f s = (s, .verdict .malformed none) := by
  unfold makeUpFloatJob
  rw [h]

theorem makeUpFloatJob_noOrder (h : parseMakeUpFloat f.frame.body = some (k, n)) (hk : 24 ≤ k) : makeUpFloatJob f s = (s, .verdict .malformed (num k)) := by
  unfold makeUpFloatJob
  rw [h]
  dsimp only
  rw [inRange_none.mpr hk]

/-- A float's order, by its state. -/
theorem makeUpFloatJob_order (h : parseMakeUpFloat f.frame.body = some (i.val, n)) :
    (s.orders[i].state = .free → makeUpFloatJob f s = (s, .verdict .malformed (num i.val))) ∧
    (s.orders[i].state = .madeUp → makeUpFloatJob f s = (s, .verdict .orderOpen (s.orders[i].sealNo.elim none num))) ∧
    (s.orders[i].state = .pending →
      (∀ code, createCheck s n s.orders[i].issueValue = some code → makeUpFloatJob f s = (s, .verdict code (num n))) ∧
      (createCheck s n s.orders[i].issueValue = none →
        makeUpFloatJob f s = (makeUpOrder i n s, .verdict .accepted (num s.orders[i].issueValue)))) := by
  unfold makeUpFloatJob
  rw [h]
  dsimp only
  rw [inRange_val]
  dsimp only
  refine ⟨fun hs => ?_, fun hs => ?_, fun hs => ⟨fun code hc => ?_, fun hc => ?_⟩⟩ <;> rw [hs]
  · dsimp only
    rw [hc]
  · dsimp only
    rw [hc]

/-- The record of a bag made up for an order (R26, R71). -/
theorem makeUpOrder_find (hnew : findBag s n = none) : findBag (makeUpOrder i n s) n =
    some (newBag s .floatBag .madeUp n s.orders[i].issueValue (some s.orders[i].till) (some i) (some s.orders[i].issue)) := by
  have hbags : (makeUpOrder i n s).bags = (addBag (newBag s .floatBag .madeUp n s.orders[i].issueValue (some s.orders[i].till) (some i)
      (some s.orders[i].issue)) s).bags := rfl
  rw [findBag_congr hbags]
  exact (findBag_addBag (b := newBag s .floatBag .madeUp n s.orders[i].issueValue (some s.orders[i].till) (some i) (some s.orders[i].issue)) hnew n).trans
    (if_pos rfl)

theorem newBag_setRx (s : State) (p : Port) (rx : Receiver) : newBag (s.setRx p rx) = newBag s := by cases p <;> rfl

theorem creatable_setRx (h : Creatable s n v) : createCheck (s.setRx p .idle) n v = none :=
  (createCheck_congr (State.setRx_bags s p _) n v).trans (createCheck_creatable h)

theorem createRefused_setRx (h : CreateRefused s n v code) : createCheck (s.setRx p .idle) n v = some code :=
  (createCheck_congr (State.setRx_bags s p _) n v).trans (createCheck_of_refused h)

theorem satNat_pair (m : Nat) : satNat m = (min 4294967295 m, decide (4294967295 < m)) := by
  rw [Nat.min_comm]
  rfl

theorem float_head {xs : List Byte} : (be 1 0 ++ xs).head? = some 0 := rfl

theorem float_madeUp (h : TakenAs s p w .makeUp pair) (hbody : w.frame.body = be 1 0 ++ be 1 i.val ++ be 4 n) (hn : n < 256 ^ 4)
    (hpending : s.orders[i].state = .pending) (hnew : Creatable s n s.orders[i].issueValue) : Yields (.makeUpFloat p) s fun u =>
      u.orders[i] = { s.orders[i] with state := .madeUp, sealNo := some n } ∧
      (∀ j : Fin 24, j ≠ i → u.orders[j] = s.orders[j]) ∧ u.drawers = s.drawers ∧
      findBag u n = some (newBag s .floatBag .madeUp n s.orders[i].issueValue (some s.orders[i].till) (some i) (some s.orders[i].issue)) ∧
      (∀ c : Fin 12, u.stock[c] = drawPieces s.denoms[c] s.stock[c] s.orders[i].issue[c]) ∧
      u.acc = { s.acc with
        madeUp := min 4294967295 (s.acc.madeUp + s.orders[i].issueValue)
        saturated := s.acc.saturated || decide (4294967295 < s.acc.madeUp + s.orders[i].issueValue) } ∧
      Answered s u p w .accepted (num s.orders[i].issueValue) := by
  have hhead : w.frame.body.head? = some 0 := by rw [hbody, List.append_assoc]; exact float_head
  obtain ⟨-, -, -, -, -, -, hread, -⟩ := lineBodiesRead
  have hparse : parseMakeUpFloat w.frame.body = some (i.val, n) := by
    rw [hbody]
    exact hread i.val n (by omega) hn
  have hjob := ((makeUpFloatJob_order (s := s.setRx p .idle) (f := { w.taken p with pair := pair }) hparse).2.2
    (by rw [State.setRx_orders]; exact hpending)).2 (by rw [State.setRx_orders]; exact creatable_setRx hnew)
  have hleaves := makeUpOrder_leaves i n (s.setRx p .idle)
  have hrow (j : Fin 24) := makeUpOrder_row i j n (s.setRx p .idle)
  have hdraw := makeUpOrder_draw i n (s.setRx p .idle)
  have hbag := makeUpOrder_find (i := i) (find_setRx (p := p) hnew.2.2.2.1)
  have hstock (c : Fin 12) := drawFloat_row (s.setRx p .idle).orders[i].issue (s.setRx p .idle).orders[i].issueValue (s.setRx p .idle) c
  have hacc := drawFloat_acc (s.setRx p .idle).orders[i].issue (s.setRx p .idle).orders[i].issueValue (s.setRx p .idle)
  rw [← hdraw.1] at hstock
  rw [← hdraw.2] at hacc
  generalize makeUpOrder i n (s.setRx p .idle) = v at hjob hleaves hrow hbag hstock hacc
  rw [newBag_setRx] at hbag
  simp only [State.setRx_orders, State.setRx_denoms, State.setRx_stock, State.setRx_acc] at hrow hbag hstock hacc hjob
  refine job_yields (c := .makeUpFloat) (isKind := fun f => isJob .makeUp f && !isConsignment f) (fun _ _ => rfl) h (makeUp_float_taken h hhead).1
    ((congrFun (makeUp_float_taken h hhead).2 _).trans hjob) fun u hu => ⟨?_, fun j hj => ?_, ?_, ?_, fun c => ?_, ?_, hu.answered⟩
  · rw [show u.orders = v.orders from hu.part .orders]
    exact (hrow i).trans (if_pos rfl)
  · rw [show u.orders = v.orders from hu.part .orders]
    exact (hrow j).trans (if_neg (Ne.symm hj))
  · rw [show u.drawers = v.drawers from hu.part .drawers, show v.drawers = _ from hleaves .drawers (by decide), State.setRx_drawers]
  · exact hu.bags n _ hbag rfl
  · rw [show u.stock = v.stock from hu.part .stock]
    exact hstock c
  · rw [show u.acc = v.acc from hu.part .acc, hacc, satNat_pair]

/-! ## A consignment (R15, R16) -/

theorem makeUpConsignmentJob_unparsed (h : parseMakeUpConsignment f.frame.body = none) : makeUpConsignmentJob f s = (s, .verdict .malformed none) := by
  unfold makeUpConsignmentJob
  rw [h]

theorem makeUpConsignmentJob_fails (h : parseMakeUpConsignment f.frame.body = some (n, raw)) (hpairs : consignmentPairs s [] raw = .error code) :
    makeUpConsignmentJob f s = (s, .verdict code none) := by
  unfold makeUpConsignmentJob
  rw [h]
  dsimp only
  rw [hpairs]

/-- A consignment whose pairs pass, by its value and what the register says (R15, R25). -/
theorem makeUpConsignmentJob_pairs (h : parseMakeUpConsignment f.frame.body = some (n, raw)) (hpairs : consignmentPairs s [] raw = .ok ps)
    (hv : s.valueOf (pairCounts ps) = v) :
    (v = 0 → makeUpConsignmentJob f s = (s, .verdict .malformed none)) ∧
    (999999999 < v → makeUpConsignmentJob f s = (s, .verdict .valueRange none)) ∧
    (v ≠ 0 → v ≤ 999999999 →
      (∀ code, createCheck s n v = some code → makeUpConsignmentJob f s = (s, .verdict code none)) ∧
      (createCheck s n v = none → makeUpConsignmentJob f s =
        (addBag (newBag s .consignment .madeUp n v none none (some (pairCounts ps))) (drawStraps (pairCounts ps) v s), .verdict .accepted none))) := by
  unfold makeUpConsignmentJob
  rw [h]
  dsimp only
  rw [hpairs]
  dsimp only
  rw [hv]
  have hlimit : Config.topBagValue = 999999999 := rfl
  refine ⟨fun h0 => if_pos h0, fun htop => ?_, fun h0 htop => ⟨fun code hc => ?_, fun hc => ?_⟩⟩
  · rw [if_neg (by omega), if_pos (hlimit ▸ htop)]
  · rw [if_neg h0, if_neg (hlimit ▸ not_lt.mpr htop), hc]
  · rw [if_neg h0, if_neg (hlimit ▸ not_lt.mpr htop), hc]

/-- A pair that the stock serves: an enabled code, whole straps, free and strapped (R15). -/
def PairPasses (s : State) (x : Fin 12 × Nat) : Prop :=
  s.denoms[x.1].enabled = true ∧ x.2 % s.denoms[x.1].strap = 0 ∧ x.2 ≤ s.freeOf x.1 ∧ x.2 / s.denoms[x.1].strap ≤ s.stock[x.1].straps

theorem consignmentPairs_pass {x : Fin 12 × Nat} (hx : PairPasses s x) (hseen : x.1 ∉ seen) :
    consignmentPairs s seen ((x.1.val, x.2) :: rest) = (consignmentPairs s (x.1 :: seen) rest).map (x :: ·) := by
  obtain ⟨henabled, hstrap, hfree, hstraps⟩ := hx
  have hnew : (!s.denoms[x.1].enabled || seen.contains x.1) = false := by
    rw [henabled]
    simpa using hseen
  rw [consignmentPairs, inRange_val]
  dsimp only
  rw [hnew, if_neg nofun, if_neg (not_not.mpr hstrap), if_neg (not_lt.mpr hfree), if_neg (not_lt.mpr hstraps)]
  cases consignmentPairs s (x.1 :: seen) rest <;> rfl

/-- Pairs that pass are read over, and their codes remembered. -/
theorem consignmentPairs_good (hall : ∀ x ∈ good, PairPasses s x) (hnodup : (good.map fun x => x.1).Nodup)
    (hseen : ∀ x ∈ good, x.1 ∉ seen) : consignmentPairs s seen (good.map (fun x => (x.1.val, x.2)) ++ rest) =
      (consignmentPairs s ((good.map fun x => x.1).reverse ++ seen) rest).map (good ++ ·) := by
  induction good generalizing seen with
  | nil =>
    show consignmentPairs s seen rest = (consignmentPairs s seen rest).map fun x => x
    cases consignmentPairs s seen rest <;> rfl
  | cons x good ih =>
    rw [List.map_cons, List.nodup_cons] at hnodup
    have hrest := ih (seen := x.1 :: seen) (fun y hy => hall y (List.mem_cons_of_mem _ hy)) hnodup.2 fun y hy hmem => by
      rcases List.mem_cons.mp hmem with heq | hmem
      · exact hnodup.1 (heq ▸ List.mem_map_of_mem hy)
      · exact hseen y (List.mem_cons_of_mem _ hy) hmem
    rw [List.map_cons, List.cons_append, consignmentPairs_pass (hall x List.mem_cons_self) (hseen x List.mem_cons_self), hrest, List.map_cons,
      List.reverse_cons, List.append_assoc, List.singleton_append]
    cases consignmentPairs s ((good.map fun x => x.1).reverse ++ x.1 :: seen) rest <;> rfl

theorem consignmentPairs_all (hall : ∀ x ∈ ps, PairPasses s x) (hnodup : (ps.map fun x => x.1).Nodup) :
    consignmentPairs s [] (ps.map fun x => (x.1.val, x.2)) = .ok ps := by
  have h := consignmentPairs_good (seen := []) (rest := []) hall hnodup fun _ _ => List.not_mem_nil
  rw [List.append_nil] at h
  rw [h]
  exact congrArg Except.ok (List.append_nil ps)

/-- The first pair that fails decides (R15). -/
theorem consignmentPairs_bad {m : Nat} {seen : List (Fin 12)} :
    ((∀ c : Fin 12, c.val = k → s.denoms[c].enabled = false ∨ c ∈ seen) → consignmentPairs s seen ((k, m) :: rest) = .error .malformed) ∧
    ∀ c : Fin 12, c.val = k → s.denoms[c].enabled = true → c ∉ seen →
      (m % s.denoms[c].strap ≠ 0 → consignmentPairs s seen ((k, m) :: rest) = .error .notStrapped) ∧
      (m % s.denoms[c].strap = 0 → s.freeOf c < m ∨ s.stock[c].straps < m / s.denoms[c].strap →
        consignmentPairs s seen ((k, m) :: rest) = .error .stockShort) := by
  refine ⟨fun hnone => ?_, fun c hc henabled hseen => ?_⟩
  · unfold consignmentPairs
    cases hrange : inRange 12 k with
    | none => rfl
    | some c =>
      have hbad : (!s.denoms[c].enabled || seen.contains c) = true := by
        rcases hnone c (inRange_some.mp hrange).symm with h | h
        · rw [h]
          rfl
        · simp [h]
      exact if_pos hbad
  · have hnew : (!s.denoms[c].enabled || seen.contains c) = false := by
      rw [henabled]
      simpa using hseen
    have hrange : inRange 12 k = some c := inRange_some.mpr hc.symm
    unfold consignmentPairs
    rw [hrange]
    dsimp only
    rw [hnew, if_neg nofun]
    refine ⟨fun hstrap => if_pos hstrap, fun hstrap hshort => ?_⟩
    rw [if_neg (not_not.mpr hstrap)]
    by_cases hfree : s.freeOf c < m
    · exact if_pos hfree
    · rw [if_neg hfree]
      exact if_pos (hshort.resolve_left hfree)

theorem leadFields_take {k : Nat} {ws : List Nat} (xs : List Byte) {rest : List Byte} (h : xs.length = k) :
    leadFields (k :: ws) (xs ++ rest) = (leadFields ws rest).map fun y => (unbe xs :: y.1, y.2) := by
  have htake : takeNat k (xs ++ rest) = some (unbe xs, rest) := by
    unfold takeNat
    rw [if_neg (by simp [h]), List.take_left' h, List.drop_left' h]
  rw [leadFields, htake]
  dsimp only
  cases leadFields ws rest <;> rfl

theorem leadFields_length {ws xs : List Nat} {bs rest : List Byte} (h : leadFields ws bs = some (xs, rest)) : bs.length = ws.sum + rest.length := by
  induction ws generalizing bs xs with
  | nil =>
    cases h
    simp
  | cons k ws ih =>
    simp only [leadFields] at h
    split at h
    · cases h
    · next x tail htake =>
      split at h
      · cases h
      · next ys tail' hlead =>
        cases h
        have hlen := ih hlead
        unfold takeNat at htake
        split at htake
        · cases htake
        · cases htake
          simp at hlen ⊢
          omega

theorem exactPairs_length {w m : Nat} {bs : List Byte} {qs : List (Nat × Nat)} (h : exactPairs w m bs = some qs) : bs.length = m * (1 + w) := by
  induction m generalizing bs qs with
  | zero =>
    cases bs with
    | nil => simp
    | cons _ _ => cases h
  | succ m ih =>
    unfold exactPairs at h
    split at h
    · next c x rest hlead =>
      obtain ⟨qs', hqs, -⟩ := Option.map_eq_some_iff.mp h
      have hlen := leadFields_length hlead
      have := ih hqs
      simp only [List.sum_cons, List.sum_nil, Nat.add_zero] at hlen
      rw [hlen, this]
      ring
    · cases h

/-- A consignment's body that is read has six bytes before its pairs, the sixth their number, and five bytes for each (R197). -/
theorem parseMakeUpConsignment_form {body : List Byte} {x : Nat × List (Nat × Nat)} (h : parseMakeUpConsignment body = some x) :
    6 ≤ body.length ∧ ∀ m, body[5]? = some m → m.toNat ≤ 6 ∧ body.length = 6 + 5 * m.toNat := by
  unfold parseMakeUpConsignment at h
  split at h
  · next a n' k' rest hlead =>
    have hlen := leadFields_length hlead
    simp only [List.sum_cons, List.sum_nil, Nat.add_zero] at hlen
    split at h
    · next hk =>
      obtain ⟨qs, hqs, -⟩ := Option.map_eq_some_iff.mp h
      have hpairs := exactPairs_length hqs
      refine ⟨by omega, fun m hm => ?_⟩
      have hm' : m.toNat = k' := by
        rcases body with _ | ⟨b0, _ | ⟨b1, _ | ⟨b2, _ | ⟨b3, _ | ⟨b4, _ | ⟨b5, tail⟩⟩⟩⟩⟩⟩
        case cons.cons.cons.cons.cons.cons =>
          have hread : leadFields [1, 4, 1] ([b0] ++ ([b1, b2, b3, b4] ++ ([b5] ++ tail))) = some ([unbe [b0], unbe [b1, b2, b3, b4], unbe [b5]], tail) := by
            rw [leadFields_take (k := 1) [b0] rfl, leadFields_take (k := 4) [b1, b2, b3, b4] rfl, leadFields_take (k := 1) [b5] rfl]
            rfl
          have hsame : b5 = m := Option.some.inj hm
          cases hread.symm.trans hlead
          rw [← hsame]
          simp [unbe]
        all_goals
          simp only [List.length_cons, List.length_nil] at hlen
          omega
      omega
    · cases h
  · cases h

/-- A consignment's body, read as its seal and its pairs (R197). -/
theorem consignment_read {qs : List (Nat × Nat)} (hbody : w.frame.body = be 1 1 ++ be 4 n ++ be 1 qs.length ++ qs.flatMap (fun x => be 1 x.1 ++ be 4 x.2))
    (hn : n < 256 ^ 4) (hlen : qs.length ≤ 6) (hqs : ∀ x ∈ qs, x.1 < 256 ∧ x.2 < 256 ^ 4) :
    w.frame.body.head? = some 1 ∧ parseMakeUpConsignment w.frame.body = some (n, qs) := by
  obtain ⟨-, -, -, -, -, -, -, hread, -⟩ := lineBodiesRead
  rw [hbody]
  exact ⟨by rw [List.append_assoc, List.append_assoc]; rfl, hread n qs hn hlen hqs⟩

theorem freeOf_setRx (s : State) (p : Port) (rx : Receiver) (c : Fin 12) : (s.setRx p rx).freeOf c = s.freeOf c := by
  unfold State.freeOf State.heldOf
  rw [State.setRx_denoms, State.setRx_stock]

theorem pairPasses_setRx {x : Fin 12 × Nat} (h : PairPasses s x) : PairPasses (s.setRx p .idle) x := by
  unfold PairPasses at h ⊢
  rwa [State.setRx_denoms, State.setRx_stock, freeOf_setRx]

theorem valueOf_setRx (s : State) (p : Port) (rx : Receiver) (v : Vector Nat 12) : (s.setRx p rx).valueOf v = s.valueOf v :=
  valueOf_congr (State.setRx_denoms s p rx) v

theorem consignment_madeUp (h : TakenAs s p w .makeUp pair)
    (hbody : w.frame.body = be 1 1 ++ be 4 n ++ be 1 ps.length ++ ps.flatMap (fun x => be 1 x.1.val ++ be 4 x.2)) (hn : n < 256 ^ 4)
    (hlen : ps.length ≤ 6) (hnodup : (ps.map fun x => x.1).Nodup)
    (hall : ∀ x ∈ ps, x.2 < 256 ^ 4 ∧ s.denoms[x.1].enabled = true ∧ x.2 % s.denoms[x.1].strap = 0 ∧ x.2 ≤ s.freeOf x.1 ∧
      x.2 / s.denoms[x.1].strap ≤ s.stock[x.1].straps)
    (hnew : Creatable s n (s.valueOf (pairCounts ps))) : Yields (.makeUpConsignment p) s fun u =>
      findBag u n = some (newBag s .consignment .madeUp n (s.valueOf (pairCounts ps)) none none (some (pairCounts ps))) ∧
      (∀ c : Fin 12, u.stock[c] = { s.stock[c] with straps := s.stock[c].straps - (pairCounts ps)[c] / s.denoms[c].strap }) ∧
      u.acc = { s.acc with
        madeUp := min 4294967295 (s.acc.madeUp + s.valueOf (pairCounts ps))
        saturated := s.acc.saturated || decide (4294967295 < s.acc.madeUp + s.valueOf (pairCounts ps)) } ∧
      u.orders = s.orders ∧ u.drawers = s.drawers ∧ Answered s u p w .accepted none := by
  obtain ⟨hhead, hparse⟩ := consignment_read (w := w) (n := n) (qs := ps.map fun x => (x.1.val, x.2))
    (by rw [hbody, List.length_map, List.flatMap_map]) hn (by rwa [List.length_map]) (by
      simp only [List.mem_map, forall_exists_index, and_imp, forall_apply_eq_imp_iff₂]
      exact fun x hx => ⟨by omega, (hall x hx).1⟩)
  have hpairs : consignmentPairs (s.setRx p .idle) [] (ps.map fun x => (x.1.val, x.2)) = .ok ps :=
    consignmentPairs_all (fun x hx => pairPasses_setRx (hall x hx).2) hnodup
  have hjob := ((makeUpConsignmentJob_pairs (f := { w.taken p with pair := pair }) hparse hpairs (valueOf_setRx s p _ _)).2.2 hnew.2.1 hnew.2.2.1).2
    (creatable_setRx hnew)
  rw [newBag_setRx] at hjob
  have hrow (c : Fin 12) := drawStraps_row (pairCounts ps) (s.valueOf (pairCounts ps)) (s.setRx p .idle) c
  have hacc := drawStraps_acc (pairCounts ps) (s.valueOf (pairCounts ps)) (s.setRx p .idle)
  have hleaves := drawStraps_leaves (pairCounts ps) (s.valueOf (pairCounts ps)) (s.setRx p .idle)
  generalize drawStraps (pairCounts ps) (s.valueOf (pairCounts ps)) (s.setRx p .idle) = v at hjob hrow hacc hleaves
  have hfresh : findBag v n = none := (findBag_of_leaves hleaves).trans (find_setRx hnew.2.2.2.1)
  have hbag := (findBag_addBag (b := newBag s .consignment .madeUp n (s.valueOf (pairCounts ps)) none none (some (pairCounts ps))) hfresh n).trans
    (if_pos rfl)
  have hadded := addBag_leaves (newBag s .consignment .madeUp n (s.valueOf (pairCounts ps)) none none (some (pairCounts ps))) v
  generalize addBag (newBag s .consignment .madeUp n (s.valueOf (pairCounts ps)) none none (some (pairCounts ps))) v = t at hjob hbag hadded
  simp only [State.setRx_denoms, State.setRx_stock, State.setRx_acc] at hrow hacc
  refine job_yields (c := .makeUpConsignment) (isKind := isConsignment) (fun _ _ => rfl) h (makeUp_consignment_taken h hhead).1
    ((congrFun (makeUp_consignment_taken h hhead).2 _).trans hjob) fun u hu => ⟨hu.bags n _ hbag rfl, fun c => ?_, ?_, ?_, ?_, hu.answered⟩
  · rw [show u.stock = t.stock from hu.part .stock, show t.stock = v.stock from hadded .stock (by decide)]
    exact hrow c
  · rw [show u.acc = t.acc from hu.part .acc, show t.acc = v.acc from hadded .acc (by decide), hacc, satNat_pair]
  · rw [show u.orders = t.orders from hu.part .orders, show t.orders = v.orders from hadded .orders (by decide),
      show v.orders = _ from hleaves .orders (by decide), State.setRx_orders]
  · rw [show u.drawers = t.drawers from hu.part .drawers, show t.drawers = v.drawers from hadded .drawers (by decide),
      show v.drawers = _ from hleaves .drawers (by decide), State.setRx_drawers]

/-- What a MAKE_UP of a float is refused for, in the order of R71. -/
theorem float_refused (h : TakenAs s p w .makeUp pair) :
    (w.frame.body.head? = some 0 → w.frame.body.length ≠ 6 → RefusedFrame .makeUpFloat s p w .malformed none) ∧
    ∀ k n : Nat, w.frame.body = be 1 0 ++ be 1 k ++ be 4 n → k < 256 → n < 256 ^ 4 →
      (24 ≤ k → RefusedFrame .makeUpFloat s p w .malformed (num k)) ∧
      ∀ i : Fin 24, i.val = k →
        (s.orders[i].state = .free → RefusedFrame .makeUpFloat s p w .malformed (num k)) ∧
        (∀ m, s.orders[i].state = .madeUp → s.orders[i].sealNo = some m → RefusedFrame .makeUpFloat s p w .orderOpen (num m)) ∧
        (∀ code, s.orders[i].state = .pending → CreateRefused s n s.orders[i].issueValue code → RefusedFrame .makeUpFloat s p w code (num n)) := by
  refine ⟨fun hhead hlen => makeUpFloat_refused h hhead (makeUpFloatJob_unparsed ?_), fun k n hbody hk hn => ?_⟩
  · show parseMakeUpFloat w.frame.body = none
    unfold parseMakeUpFloat
    rw [exactFields_length (by simpa using hlen)]
  obtain ⟨-, -, -, -, -, -, hread, -⟩ := lineBodiesRead
  have hhead : w.frame.body.head? = some 0 := by rw [hbody, List.append_assoc]; exact float_head
  have hparse : parseMakeUpFloat w.frame.body = some (k, n) := by rw [hbody]; exact hread k n hk hn
  refine ⟨fun h24 => makeUpFloat_refused h hhead (makeUpFloatJob_noOrder hparse h24), ?_⟩
  rintro i rfl
  obtain ⟨hfree, hmade, hpending⟩ := makeUpFloatJob_order (s := s.setRx p .idle) (f := { w.taken p with pair := pair }) hparse
  rw [State.setRx_orders] at hfree hmade hpending
  refine ⟨fun hs => makeUpFloat_refused h hhead (hfree hs), fun m hs hseal => ?_, fun code hs hrefused =>
    makeUpFloat_refused h hhead ((hpending hs).1 code (createRefused_setRx hrefused))⟩
  rw [hseal] at hmade
  exact makeUpFloat_refused h hhead (hmade hs)

end

/-- Settles O38: both types by the checks of their jobs. -/
theorem makeUpResults : Obligations.MakeUpResults := by
  unfold Obligations.MakeUpResults
  intro p s w pair h
  refine ⟨fun i n hbody hn hpending hnew => float_madeUp h hbody hn hpending hnew,
    fun n ps hbody hn hlen hnodup hall hnew => consignment_madeUp h hbody hn hlen hnodup hall hnew, float_refused h, ?_⟩
  intro refused pass raw names
  have hpass {x : Fin 12 × Nat} (hx : pass x) : PairPasses (s.setRx p .idle) x := pairPasses_setRx hx
  refine ⟨fun hhead hlen => ?_, fun k hhead hk hbad => ?_, fun n good k m rest hnames hnodup hgood => ?_, fun n ps hnames hnodup hall => ?_⟩
  · refine makeUpConsignment_refused h hhead (makeUpConsignmentJob_unparsed (Option.eq_none_iff_forall_ne_some.mpr fun x hx => ?_))
    exact absurd (parseMakeUpConsignment_form hx).1 (not_le.mpr hlen)
  · refine makeUpConsignment_refused h hhead (makeUpConsignmentJob_unparsed (Option.eq_none_iff_forall_ne_some.mpr fun x hx => ?_))
    obtain ⟨hsix, hlength⟩ := (parseMakeUpConsignment_form hx).2 k hk
    exact hbad.elim (fun h => absurd hsix (not_le.mpr h)) fun h => h hlength
  · obtain ⟨hbody, hn, hlen, hrange⟩ := hnames
    obtain ⟨hhead, hparse⟩ := consignment_read hbody hn hlen hrange
    have hover := consignmentPairs_good (s := s.setRx p .idle) (seen := []) (rest := (k, m) :: rest) (fun x hx => hpass (hgood x hx)) hnodup
      fun _ _ => List.not_mem_nil
    rw [List.append_nil] at hover
    have hfails {code : Code} (hbad : consignmentPairs (s.setRx p .idle) (good.map fun x => x.1).reverse ((k, m) :: rest) = .error code) :
        refused code := by
      rw [hbad] at hover
      exact makeUpConsignment_refused h hhead (makeUpConsignmentJob_fails hparse hover)
    obtain ⟨hmalformed, hcode⟩ := consignmentPairs_bad (s := s.setRx p .idle) (k := k) (m := m) (rest := rest) (seen := (good.map fun x => x.1).reverse)
    simp only [State.setRx_denoms, State.setRx_stock, freeOf_setRx, List.mem_reverse] at hmalformed hcode
    refine ⟨fun hnone => hfails (hmalformed hnone), fun c hc henabled hnew => ?_⟩
    obtain ⟨hnot, hshort⟩ := hcode c hc henabled hnew
    exact ⟨fun hstrap => hfails (hnot hstrap), fun hstrap hstock => hfails (hshort hstrap hstock)⟩
  · obtain ⟨hbody, hn, hlen, hrange⟩ := hnames
    obtain ⟨hhead, hparse⟩ := consignment_read hbody hn hlen hrange
    have hpairs : consignmentPairs (s.setRx p .idle) [] (ps.map fun x => (x.1.val, x.2)) = .ok ps :=
      consignmentPairs_all (fun x hx => hpass (hall x hx)) hnodup
    obtain ⟨hzero, hrangeOf, hrest⟩ := makeUpConsignmentJob_pairs (f := { w.taken p with pair := some pair }) hparse hpairs (valueOf_setRx s p _ _)
    exact ⟨fun h0 => makeUpConsignment_refused h hhead (hzero h0), fun htop => makeUpConsignment_refused h hhead (hrangeOf htop),
      fun code h0 htop hcreate => makeUpConsignment_refused h hhead ((hrest h0 htop).1 code (createRefused_setRx hcreate))⟩

end Sys2Proof.Machine.Effects

/-! PROOF. A confirm without its witnesses (R90, R93). -/

namespace Sys2Proof.Machine.Effects

open Sys2Proof Sys2Proof.Machine Sys2Proof.Machine.Takings Sys2Proof.Machine.TallyCount

section
variable {s u : State} {p : Port} {w : Window} {n k : Nat} {f : Taken} {a : Answer} {s' : State} {P : State → Prop}

/-! ## A failed confirm, by the lock's state (R90) -/

theorem confirmFailed_shut (h : s.safe.lock ≠ .window) : confirmFailed n s = (s, .verdict .witnessMissing (num n)) := if_pos h

theorem confirmFailed_counted (h : s.safe.lock = .window) (hk : min 9 (s.safe.failed + 1) = k) (hlimit : k < s.timing.confirmLimit) :
    confirmFailed n s = (setFailed k s, .verdict .witnessMissing (num k)) := by
  unfold confirmFailed
  rw [if_neg (not_not.mpr h)]
  dsimp only
  rw [hk, if_pos hlimit]

/-- The lock in LOCKOUT, with the event that says so (R90). -/
def lockedOut (k : Nat) (s : State) : State := raiseNum .safeLockout k (setLock .lockout none (setFailed k s))

theorem confirmFailed_lockout (h : s.safe.lock = .window) (hk : min 9 (s.safe.failed + 1) = k) (hlimit : s.timing.confirmLimit ≤ k) :
    confirmFailed n s = (commandSafe .lock (lockedOut k s), .verdict .lockout (num k)) := by
  unfold confirmFailed
  rw [if_neg (not_not.mpr h)]
  dsimp only
  rw [hk, if_neg (not_lt.mpr hlimit)]
  rfl

theorem lockedOut_facts (k : Nat) (s : State) : (lockedOut k s).safe = { s.safe with failed := k, lock := .lockout, timer := none } ∧
    (lockedOut k s).room = s.room ∧ (lockedOut k s).nodes = s.nodes ∧
    ((lockedOut k s).event .safeLockout).pending = true ∧ ((lockedOut k s).event .safeLockout).detail = BitVec.ofNat 32 k := by
  refine ⟨rfl, rfl, rfl, ?_⟩
  have hevent : (lockedOut k s).event .safeLockout = _ := (raise_event .safeLockout .safeLockout _ (setLock .lockout none (setFailed k s))).trans (if_pos rfl)
  rw [hevent]
  exact ⟨rfl, rfl⟩

/-- A confirm for whose marks no pair serves is decided by its own rule (R90, R174). -/
theorem confirm_yields (hm : MarkedAt s p w) (hform : inspectForm (w.taken p) s = .ok .openConfirm)
    (hpair : witnessPair s s.witness[(4 : Fin 7)] (w.taken p) = none)
    (hrule : confirmFailed (qualified s s.witness[(4 : Fin 7)] (w.taken p)) (s.setRx p .idle) = (s', a)) (hP : ∀ u, FrameDone s p w a s' u → P u) :
    Yields (.openConfirm p) s P := by
  obtain ⟨hkind, hopaque⟩ := inspectForm_ok hform
  have hnone : witnessPair (s.setRx p .idle) (s.setRx p .idle).witness[(4 : Fin 7)] (w.taken p) = none := by
    rw [witnessPair_setRx, State.setRx_witness]
    exact hpair
  have hdecide : decideFrame (w.taken p) (s.setRx p .idle) = (s', a) := by
    unfold decideFrame
    rw [(inspectForm_setRx _ s p _).trans hform]
    show witnessAndRun .openConfirm (w.taken p) (s.setRx p .idle) = _
    unfold witnessAndRun
    rw [show JobKind.openConfirm.guardRow = some (4 : Fin 7) from rfl]
    dsimp only
    rw [hnone]
    dsimp only
    rw [if_pos rfl, State.setRx_witness, qualified_setRx]
    exact hrule
  obtain ⟨u, hu, hdone⟩ := frame_done (c := .openConfirm) (isKind := isJob .openConfirm) (fun _ _ => rfl) hm (beq_iff_eq.mpr hkind) hopaque hdecide
  exact ⟨u, hu, hP u hdone⟩

end

/-- Settles O42: a failed confirm by its three branches. -/
theorem confirmFailures : Obligations.ConfirmFailures := by
  unfold Obligations.ConfirmFailures
  intro p s w hm hform hpair failed
  have hsafe : (s.setRx p .idle).safe = s.safe := State.setRx_safe s p _
  have htiming : (s.setRx p .idle).timing = s.timing := State.setRx_timing s p _
  have hfailed : min 9 ((s.setRx p .idle).safe.failed + 1) = failed := by rw [hsafe]
  refine ⟨fun hlock hlimit => ?_, fun hlock hlimit => ?_, fun hlock => ?_⟩
  · refine confirm_yields hm hform hpair (confirmFailed_counted (by rwa [hsafe]) hfailed (by rwa [htiming])) fun u hu => ⟨?_, hu.answered⟩
    rw [show u.safe = _ from hu.part .safe]
    show { (s.setRx p .idle).safe with failed := failed } = _
    rw [hsafe]
  · obtain ⟨hout, hroom, hnodes, hpending, hdetail⟩ := lockedOut_facts failed (s.setRx p .idle)
    refine confirm_yields hm hform hpair (confirmFailed_lockout (by rwa [hsafe]) hfailed (by rwa [htiming])) fun u hu => ?_
    have hu' : u.safe = (commandSafe .lock (lockedOut failed (s.setRx p .idle))).safe := hu.part .safe
    rw [(commandSafe_spec _ _).1, hout] at hu'
    have hevent : u.event .safeLockout = (lockedOut failed (s.setRx p .idle)).event .safeLockout :=
      (hu.event .safeLockout).trans (event_kept (eventsBut_of_leaves [] (commandSafe_leaves _ _) (by decide)))
    refine ⟨by rw [hu'], by rw [hu'], by rw [hu'], hu.goes ?_ ?_, by rw [hevent, hpending], by rw [hevent, hdetail], hu.answered⟩
    · rw [hroom]
      exact setRx_out s p .room _
    · rw [hnodes, State.setRx_nodes]
  · refine confirm_yields hm hform hpair (confirmFailed_shut (by rwa [hsafe])) fun u hu => ⟨?_, hu.answered⟩
    rw [show u.safe = _ from hu.part .safe, hsafe]

end Sys2Proof.Machine.Effects

/-! PROOF. BAG_OPEN, BATCH, HAND_KEY and COUNT_ABORT: applied and refused (R100 to R105, R109). -/

namespace Sys2Proof.Machine.Effects

open Sys2Proof Sys2Proof.Machine Sys2Proof.Machine.Takings Sys2Proof.Machine.TallyCount

section
variable {s s' t u : State} {p : Port} {w : Window} {x : Fin 4} {node : Byte} {k n a m r : Nat} {b b' : Bag} {code : Code} {d : Option Word32}
  {resolves outSuspect : Bool} {acts : Prop}

/-! ## The idle timer, beside the counts (R103) -/

/-- A state that differs in the idle timer of a session at most, for what the count rules read. -/
structure SameCount (x : Fin 4) (s t : State) : Prop where
  row : ∃ timer, t.sessions[x] = { s.sessions[x] with timer := timer }
  denoms : t.denoms = s.denoms

theorem sameCount_setRx (x : Fin 4) (s : State) (p : Port) (rx : Receiver) : SameCount x s (s.setRx p rx) :=
  ⟨⟨s.sessions[x].timer, by rw [State.setRx_sessions]⟩, State.setRx_denoms s p rx⟩

theorem sameCount_restart (x : Fin 4) (s : State) (p : Port) (rx : Receiver) : SameCount x s (restartIdle x (s.setRx p rx)) := by
  obtain ⟨timer, hrow⟩ := restart_session x (s.setRx p rx)
  refine ⟨⟨timer, by rw [hrow, State.setRx_sessions]⟩, ?_⟩
  exact (restartIdle_leaves x (s.setRx p rx) .denoms (by decide)).trans (State.setRx_denoms s p rx)

theorem restartIdle_idle (h : s.sessions[x].state ≠ .counting) : restartIdle x s = s := if_neg h

theorem restarted_row (h : s.sessions[x].state = .counting) : (restartIdle x (s.setRx p .idle)).sessions[x] =
    { s.sessions[x] with timer := some (s.seconds + s.timing.idleTimeout) } := by
  rw [restartIdle_row x (s.setRx p .idle) (by rw [State.setRx_sessions]; exact h), State.setRx_sessions]
  unfold idleDeadline
  rw [State.setRx_seconds, State.setRx_timing]

/-- What a BATCH or a BAG_CLOSE does to its session's idle timer: a restart where the counter of a COUNTING session sent it. -/
theorem counterActs_cases (x : Fin 4) (node : Byte) (s : State) :
    (s.sessions[x].state = .counting ∧ s.sessions[x].node = node → counterActs x node s = restartIdle x s) ∧
    (¬(s.sessions[x].state = .counting ∧ s.sessions[x].node = node) → counterActs x node s = s) := by
  unfold counterActs
  refine ⟨fun h => if_pos h.2, fun h => ?_⟩
  split
  · next hnode => exact restartIdle_idle fun hstate => h ⟨hstate, hnode⟩
  · rfl

/-! ## BATCH (R104) -/

/-- The counts that a BATCH would carry past their range. -/
def BatchPasses (v : Session) (c : Fin 12) (a m r : Nat) : Prop :=
  65535 < v.accepted[c] + a ∨ 65535 < v.suspect[c] + m ∨ 65535 < v.rejected[c] + r ∨ 65535 < v.unresolved + r

theorem batchOverflows_iff {v : Session} {c : Fin 12} : batchOverflows v c a m r = true ↔ BatchPasses v c a m r := by
  unfold batchOverflows BatchPasses
  rw [show topPieces = 65535 from rfl]
  simp only [Bool.or_eq_true, decide_eq_true_eq, or_assoc]

/-- The checks of R104 in their order, on the session's counts. -/
theorem batchRule_spec (h : SameCount x s t) :
    (500 < a ∨ 500 < m ∨ 500 < r → batchRule x node k a m r t = (t, .verdict .malformed (num 0))) ∧
    (a ≤ 500 → m ≤ 500 → r ≤ 500 →
      (s.sessions[x].state ≠ .counting → batchRule x node k a m r t = (t, .verdict .wrongBagState (num s.sessions[x].state.code))) ∧
      (s.sessions[x].state = .counting → s.sessions[x].node ≠ node →
        batchRule x node k a m r t = (t, .verdict .sessionBusy (num s.sessions[x].bag))) ∧
      (s.sessions[x].state = .counting → s.sessions[x].node = node →
        ((∀ c : Fin 12, c.val = k → s.denoms[c].enabled = false ∨ s.denoms[c].kind ≠ .note) →
          batchRule x node k a m r t = (t, .verdict .malformed (num k))) ∧
        ∀ c : Fin 12, c.val = k → s.denoms[c].enabled = true → s.denoms[c].kind = .note →
          (BatchPasses s.sessions[x] c a m r → batchRule x node k a m r t = (t, .verdict .countLimit (num k))) ∧
          (¬BatchPasses s.sessions[x] c a m r →
            (999999999 < s.sessions[x].total + (a + m) * s.denoms[c].face →
              batchRule x node k a m r t = (t, .verdict .valueRange (num s.sessions[x].total))) ∧
            (s.sessions[x].total + (a + m) * s.denoms[c].face ≤ 999999999 →
              batchRule x node k a m r t = (setSession x (t.sessions[x].batched c a m r ((a + m) * s.denoms[c].face)) t,
                .verdict .accepted (num (s.sessions[x].total + (a + m) * s.denoms[c].face))))))) := by
  obtain ⟨⟨timer, hrow⟩, hdenoms⟩ := h
  have hover {c : Fin 12} : batchOverflows { s.sessions[x] with timer := timer } c a m r = batchOverflows s.sessions[x] c a m r := rfl
  unfold batchRule
  rw [hrow, hdenoms]
  dsimp only
  refine ⟨fun h => if_pos h, fun ha hm hr => ?_⟩
  have hsize : ¬(500 < a ∨ 500 < m ∨ 500 < r) := by omega
  rw [if_neg hsize]
  refine ⟨fun hstate => if_pos hstate, fun hstate hnode => ?_, fun hstate hnode => ?_⟩ <;> rw [if_neg (not_not.mpr hstate)]
  · exact if_pos hnode
  rw [if_neg (not_not.mpr hnode)]
  refine ⟨fun hnone => ?_, ?_⟩
  · cases hrange : inRange 12 k with
    | none => rfl
    | some c =>
      refine if_pos fun hboth => ?_
      rcases hnone c (inRange_some.mp hrange).symm with h | h
      · rw [h] at hboth
        cases hboth.1
      · exact h hboth.2
  · rintro c rfl henabled hkind
    rw [inRange_val]
    dsimp only
    rw [if_neg (not_not.mpr ⟨henabled, hkind⟩), hover]
    refine ⟨fun hpasses => if_pos (batchOverflows_iff.mpr hpasses), fun hfits => ?_⟩
    rw [if_neg fun h => hfits (batchOverflows_iff.mp h)]
    exact ⟨fun hvalue => if_pos hvalue, fun hvalue => if_neg (not_lt.mpr hvalue)⟩

/-- A BATCH decided by its rule with nothing counted. -/
theorem batch_nothing (h : TakenAs s p w .batch none) (hslot : slotOf s w.frame.src = x)
    (hjob : ∀ t, SameCount x s t → batchJob { w.taken p with pair := none } (s.setRx p .idle) = (counterActs x w.frame.src (s.setRx p .idle), .verdict code d)) :
    CountsNothing .batch s p w x (s.sessions[x].state = .counting ∧ s.sessions[x].node = w.frame.src) code d := by
  have hacts := counterActs_cases x w.frame.src (s.setRx p .idle)
  rw [State.setRx_sessions] at hacts
  have hdecide := hjob _ (sameCount_setRx x s p .idle)
  exact counts_nothing (isKind := isJob .batch) (fun _ _ => rfl) h (isJob_of_takenAs h) And.left (fun ha => hdecide.trans (by rw [hacts.1 ha]))
    fun ha => hdecide.trans (by rw [hacts.2 ha])

theorem batchJob_parsed {f : Taken} (hparse : parseBatch f.frame.body = some (k, a, m, r)) (hslot : slotOf s f.frame.src = x) :
    batchJob f s = batchRule x f.frame.src k a m r (counterActs x f.frame.src s) := by
  unfold batchJob
  dsimp only
  rw [hparse, hslot]

theorem batchJob_unparsed {f : Taken} (hparse : parseBatch f.frame.body = none) (hslot : slotOf s f.frame.src = x) :
    batchJob f s = (counterActs x f.frame.src s, .verdict .malformed none) := by
  unfold batchJob
  dsimp only
  rw [hparse, hslot]

theorem slot_setRx {y : Fin 4} {node : Byte} (h : slotOf s node = y) : slotOf (s.setRx p .idle) node = y :=
  (slotOf_congr (State.setRx_nodes s p _) node).trans h

theorem sameCount_acts (x : Fin 4) (node : Byte) (s : State) (p : Port) : SameCount x s (counterActs x node (s.setRx p .idle)) := by
  unfold counterActs
  split
  · exact sameCount_restart x s p .idle
  · exact sameCount_setRx x s p .idle

/-- A BATCH that its rule decides with nothing counted. -/
theorem batch_refused (h : TakenAs s p w .batch none) (hslot : slotOf s w.frame.src = x) (hparse : parseBatch w.frame.body = some (k, a, m, r))
    (hrule : ∀ t, SameCount x s t → batchRule x w.frame.src k a m r t = (t, .verdict code d)) :
    CountsNothing .batch s p w x (s.sessions[x].state = .counting ∧ s.sessions[x].node = w.frame.src) code d :=
  batch_nothing h hslot fun _ _ => (batchJob_parsed hparse (slot_setRx hslot)).trans (hrule _ (sameCount_acts x w.frame.src s p))

theorem batch_counted {c : Fin 12} (h : TakenAs s p w .batch none) (hslot : slotOf s w.frame.src = x)
    (hparse : parseBatch w.frame.body = some (c.val, a, m, r)) (ha : a ≤ 500) (hm : m ≤ 500) (hr : r ≤ 500) (hstate : s.sessions[x].state = .counting)
    (hnode : s.sessions[x].node = w.frame.src) (henabled : s.denoms[c].enabled = true) (hkind : s.denoms[c].kind = .note)
    (hfits : ¬BatchPasses s.sessions[x] c a m r) (hvalue : s.sessions[x].total + (a + m) * s.denoms[c].face ≤ 999999999) :
    Yields (.batch p) s fun u =>
      u.sessions[x] = { s.sessions[x] with
        accepted := put s.sessions[x].accepted c (s.sessions[x].accepted[c] + a)
        suspect := put s.sessions[x].suspect c (s.sessions[x].suspect[c] + m)
        rejected := put s.sessions[x].rejected c (s.sessions[x].rejected[c] + r)
        unresolved := s.sessions[x].unresolved + r
        total := s.sessions[x].total + (a + m) * s.denoms[c].face
        timer := some (s.seconds + s.timing.idleTimeout) } ∧
      Answered s u p w .accepted (num (s.sessions[x].total + (a + m) * s.denoms[c].face)) := by
  have hjob := (batchJob_parsed (f := { w.taken p with pair := none }) hparse (slot_setRx (p := p) hslot)).trans
    ((((((batchRule_spec (node := w.frame.src) (sameCount_acts x w.frame.src s p)).2 ha hm hr).2.2 hstate hnode).2 c rfl henabled hkind).2 hfits).2 hvalue)
  have hrow : (counterActs x w.frame.src (s.setRx p .idle)).sessions[x] = { s.sessions[x] with timer := some (s.seconds + s.timing.idleTimeout) } := by
    rw [(counterActs_cases x w.frame.src (s.setRx p .idle)).1 (by rw [State.setRx_sessions]; exact ⟨hstate, hnode⟩), restarted_row hstate]
  generalize counterActs x w.frame.src (s.setRx p .idle) = v at hjob hrow
  refine job_yields (c := .batch) (isKind := isJob .batch) (fun _ _ => rfl) h (isJob_of_takenAs h) hjob fun u hu => ⟨?_, hu.answered⟩
  rw [show u.sessions = _ from hu.part .sessions]
  show (put v.sessions x _)[x] = _
  rw [put_get, if_pos rfl, hrow]
  rfl

/-- What BATCH is refused for, in the order of R104. -/
theorem batch_refusals (h : TakenAs s p w .batch none) (hslot : slotOf s w.frame.src = x) :
    let acts := s.sessions[x].state = .counting ∧ s.sessions[x].node = w.frame.src
    let refused := CountsNothing .batch s p w x acts
    (w.frame.body.length ≠ 7 → refused .malformed none) ∧
    ∀ k a m r : Nat, parseBatch w.frame.body = some (k, a, m, r) →
      (500 < a ∨ 500 < m ∨ 500 < r → refused .malformed (num 0)) ∧
      (a ≤ 500 → m ≤ 500 → r ≤ 500 →
        (s.sessions[x].state ≠ .counting → refused .wrongBagState (num s.sessions[x].state.code)) ∧
        (s.sessions[x].state = .counting → s.sessions[x].node ≠ w.frame.src → refused .sessionBusy (num s.sessions[x].bag)) ∧
        (acts → (∀ c : Fin 12, c.val = k → s.denoms[c].enabled = false ∨ s.denoms[c].kind ≠ .note) →
          refused .malformed (num k)) ∧
        ∀ c : Fin 12, c.val = k → acts → s.denoms[c].enabled = true → s.denoms[c].kind = .note →
          let passed := 65535 < s.sessions[x].accepted[c] + a ∨ 65535 < s.sessions[x].suspect[c] + m ∨
            65535 < s.sessions[x].rejected[c] + r ∨ 65535 < s.sessions[x].unresolved + r
          (passed → refused .countLimit (num k)) ∧
          (¬passed → 999999999 < s.sessions[x].total + (a + m) * s.denoms[c].face →
            refused .valueRange (num s.sessions[x].total))) := by
  intro acts refused
  refine ⟨fun hlen => batch_nothing h hslot fun _ _ => batchJob_unparsed (parseBatch_length hlen) (slot_setRx hslot), fun k a m r hparse =>
    ⟨fun hsize => batch_refused h hslot hparse fun t ht => (batchRule_spec ht).1 hsize, fun ha hm hr => ⟨fun hstate => ?_, fun hstate hnode => ?_,
      fun hacts hnone => ?_, fun c hc hacts henabled hkind => ⟨fun hpasses => ?_, fun hfits hvalue => ?_⟩⟩⟩⟩
  · exact batch_refused h hslot hparse fun t ht => ((batchRule_spec ht).2 ha hm hr).1 hstate
  · exact batch_refused h hslot hparse fun t ht => ((batchRule_spec ht).2 ha hm hr).2.1 hstate hnode
  · exact batch_refused h hslot hparse fun t ht => (((batchRule_spec ht).2 ha hm hr).2.2 hacts.1 hacts.2).1 hnone
  · exact batch_refused h hslot hparse fun t ht => ((((batchRule_spec ht).2 ha hm hr).2.2 hacts.1 hacts.2).2 c hc henabled hkind).1 hpasses
  · exact batch_refused h hslot hparse fun t ht => (((((batchRule_spec ht).2 ha hm hr).2.2 hacts.1 hacts.2).2 c hc henabled hkind).2 hfits).1 hvalue

/-! ## HAND_KEY (R105) -/

/-- The count that a HAND_KEY adds to. -/
def keyedCount (v : Session) (c : Fin 12) (outSuspect : Bool) : Nat := if outSuspect then v.suspect[c] else v.accepted[c]

/-- The checks of R105 in their order, on the session's counts. -/
theorem handKeyRule_spec (h : SameCount x s t) :
    (outSuspect = true → resolves = false → handKeyRule x k n resolves outSuspect t = (t, .verdict .malformed (num 0))) ∧
    ((outSuspect = true → resolves = true) →
      ((∀ c : Fin 12, c.val = k → s.denoms[c].enabled = false) → handKeyRule x k n resolves outSuspect t = (t, .verdict .malformed (num k))) ∧
      ∀ c : Fin 12, c.val = k → s.denoms[c].enabled = true →
        (resolves = true → s.denoms[c].kind ≠ .note → handKeyRule x k n resolves outSuspect t = (t, .verdict .malformed (num k))) ∧
        ((resolves = true → s.denoms[c].kind = .note) →
          (s.sessions[x].state ≠ .counting →
            handKeyRule x k n resolves outSuspect t = (t, .verdict .wrongBagState (num s.sessions[x].state.code))) ∧
          (s.sessions[x].state = .counting →
            (resolves = true → s.sessions[x].unresolved < n →
              handKeyRule x k n resolves outSuspect t = (t, .verdict .rejectsExceeded (num s.sessions[x].unresolved))) ∧
            ((resolves = true → n ≤ s.sessions[x].unresolved) →
              (65535 < keyedCount s.sessions[x] c outSuspect + n →
                handKeyRule x k n resolves outSuspect t = (t, .verdict .countLimit (num k))) ∧
              (keyedCount s.sessions[x] c outSuspect + n ≤ 65535 →
                (999999999 < s.sessions[x].total + n * s.denoms[c].face →
                  handKeyRule x k n resolves outSuspect t = (t, .verdict .valueRange (num s.sessions[x].total))) ∧
                (s.sessions[x].total + n * s.denoms[c].face ≤ 999999999 → handKeyRule x k n resolves outSuspect t =
                  (setSession x (t.sessions[x].keyed c n (n * s.denoms[c].face) resolves outSuspect) t,
                    .verdict .accepted (num (if resolves then s.sessions[x].unresolved - n else s.sessions[x].unresolved))))))))) := by
  obtain ⟨⟨timer, hrow⟩, hdenoms⟩ := h
  unfold handKeyRule keyedCount
  rw [hrow, hdenoms, show topPieces = 65535 from rfl]
  dsimp only
  refine ⟨fun hout hres => if_pos (by rw [hout, hres]; rfl), fun hform => ?_⟩
  have hflags : ¬((outSuspect && !resolves) = true) := by
    simpa using hform
  rw [if_neg hflags]
  refine ⟨fun hnone => ?_, ?_⟩
  · cases hrange : inRange 12 k with
    | none => rfl
    | some c => exact if_pos (by rw [hnone c (inRange_some.mp hrange).symm]; rfl)
  rintro c rfl henabled
  rw [inRange_val]
  dsimp only
  rw [if_neg (by rw [henabled]; decide)]
  refine ⟨fun hres hkind => if_pos ⟨hres, hkind⟩, fun hkind => ?_⟩
  have hnote : ¬(resolves = true ∧ s.denoms[c].kind ≠ .note) := fun h => h.2 (hkind h.1)
  rw [if_neg hnote]
  refine ⟨fun hstate => if_pos hstate, fun hstate => ?_⟩
  rw [if_neg (not_not.mpr hstate)]
  refine ⟨fun hres hmany => if_pos ⟨hres, hmany⟩, fun hfew => ?_⟩
  have henough : ¬(resolves = true ∧ s.sessions[x].unresolved < n) := fun h => absurd (hfew h.1) (not_le.mpr h.2)
  rw [if_neg henough]
  refine ⟨fun hcount => if_pos hcount, fun hcount => ?_⟩
  rw [if_neg (not_lt.mpr hcount)]
  exact ⟨fun hvalue => if_pos hvalue, fun hvalue => if_neg (not_lt.mpr hvalue)⟩

theorem handKeyJob_parsed {f : Taken} (hparse : parseHandKey f.frame.body = some (x.val, k, n, resolves, outSuspect)) :
    handKeyJob f s = handKeyRule x k n resolves outSuspect (restartIdle x s) := by
  unfold handKeyJob
  rw [hparse]
  dsimp only
  rw [inRange_val]

/-- A HAND_KEY that its rule decides with nothing counted. -/
theorem handKey_refused (h : TakenAs s p w .handKey none) (hparse : parseHandKey w.frame.body = some (x.val, k, n, resolves, outSuspect))
    (hrule : ∀ t, SameCount x s t → handKeyRule x k n resolves outSuspect t = (t, .verdict code d)) :
    CountsNothing .handKey s p w x (s.sessions[x].state = .counting) code d := by
  have hjob := (handKeyJob_parsed (f := { w.taken p with pair := none }) (s := s.setRx p .idle) hparse).trans (hrule _ (sameCount_restart x s p .idle))
  exact counts_nothing (isKind := isJob .handKey) (fun _ _ => rfl) h (isJob_of_takenAs h) id (fun _ => hjob)
    fun hstate => hjob.trans (by rw [restartIdle_idle (by rw [State.setRx_sessions]; exact hstate)])

theorem handKey_counted {c : Fin 12} (h : TakenAs s p w .handKey none)
    (hparse : parseHandKey w.frame.body = some (x.val, c.val, n, resolves, outSuspect)) (hform : outSuspect = true → resolves = true)
    (henabled : s.denoms[c].enabled = true) (hres : resolves = true → s.denoms[c].kind = .note ∧ n ≤ s.sessions[x].unresolved)
    (hstate : s.sessions[x].state = .counting) (hcount : keyedCount s.sessions[x] c outSuspect + n ≤ 65535)
    (hvalue : s.sessions[x].total + n * s.denoms[c].face ≤ 999999999) : Yields (.handKey p) s fun u =>
      u.sessions[x] = { s.sessions[x] with
        accepted := if outSuspect then s.sessions[x].accepted else put s.sessions[x].accepted c (s.sessions[x].accepted[c] + n)
        suspect := if outSuspect then put s.sessions[x].suspect c (s.sessions[x].suspect[c] + n) else s.sessions[x].suspect
        unresolved := if resolves then s.sessions[x].unresolved - n else s.sessions[x].unresolved
        total := s.sessions[x].total + n * s.denoms[c].face
        timer := some (s.seconds + s.timing.idleTimeout) } ∧
      Answered s u p w .accepted (num u.sessions[x].unresolved) := by
  have hjob := (handKeyJob_parsed (f := { w.taken p with pair := none }) (s := s.setRx p .idle) hparse).trans
    (((((((handKeyRule_spec (sameCount_restart x s p .idle)).2 hform).2 c rfl henabled).2 fun h => (hres h).1).2 hstate).2 fun h => (hres h).2).2 hcount |>.2 hvalue)
  have hrow := restarted_row (p := p) hstate
  generalize restartIdle x (s.setRx p .idle) = v at hjob hrow
  refine job_yields (c := .handKey) (isKind := isJob .handKey) (fun _ _ => rfl) h (isJob_of_takenAs h) hjob fun u hu => ?_
  have hkeyed : u.sessions[x] = v.sessions[x].keyed c n (n * s.denoms[c].face) resolves outSuspect := by
    rw [show u.sessions = _ from hu.part .sessions]
    show (put v.sessions x _)[x] = _
    rw [put_get, if_pos rfl]
  rw [hkeyed, hrow]
  exact ⟨rfl, hu.answered⟩

/-- What HAND_KEY is refused for, in the order of R105. -/
theorem handKey_refusals (x : Fin 4) (h : TakenAs s p w .handKey none) :
    let refused := CountsNothing .handKey s p w x (s.sessions[x].state = .counting)
    (w.frame.body.length ≠ 5 → RefusedFrame .handKey s p w .malformed none) ∧
    ∀ (i k n : Nat) (resolves outSuspect : Bool), parseHandKey w.frame.body = some (i, k, n, resolves, outSuspect) →
      (4 ≤ i → RefusedFrame .handKey s p w .malformed (num i)) ∧
      (i = x.val → outSuspect = true → resolves = false → refused .malformed (num 0)) ∧
      (i = x.val → (outSuspect = true → resolves = true) →
        ((∀ c : Fin 12, c.val = k → s.denoms[c].enabled = false) → refused .malformed (num k)) ∧
        ∀ c : Fin 12, c.val = k → s.denoms[c].enabled = true →
          (resolves = true → s.denoms[c].kind ≠ .note → refused .malformed (num k)) ∧
          ((resolves = true → s.denoms[c].kind = .note) →
            (s.sessions[x].state ≠ .counting → refused .wrongBagState (num s.sessions[x].state.code)) ∧
            (s.sessions[x].state = .counting → resolves = true → s.sessions[x].unresolved < n →
              refused .rejectsExceeded (num s.sessions[x].unresolved)) ∧
            (s.sessions[x].state = .counting → (resolves = true → n ≤ s.sessions[x].unresolved) →
              (65535 < keyedCount s.sessions[x] c outSuspect + n → refused .countLimit (num k)) ∧
              (keyedCount s.sessions[x] c outSuspect + n ≤ 65535 → 999999999 < s.sessions[x].total + n * s.denoms[c].face →
                refused .valueRange (num s.sessions[x].total))))) := by
  intro refused
  refine ⟨fun hlen => refused_of_job (isKind := isJob .handKey) (fun _ _ => rfl) h (isJob_of_takenAs h) ?_, fun i k n resolves outSuspect hparse =>
    ⟨fun hi => refused_of_job (isKind := isJob .handKey) (fun _ _ => rfl) h (isJob_of_takenAs h) ?_, ?_, ?_⟩⟩
  · show handKeyJob _ _ = _
    unfold handKeyJob
    rw [show (({ w.taken p with pair := none } : Taken)).frame.body = w.frame.body from rfl, parseHandKey_length hlen]
  · show handKeyJob _ _ = _
    unfold handKeyJob
    rw [show (({ w.taken p with pair := none } : Taken)).frame.body = w.frame.body from rfl, hparse]
    dsimp only
    rw [inRange_none.mpr hi]
  · rintro rfl hout hres
    exact handKey_refused h hparse fun t ht => (handKeyRule_spec ht).1 hout hres
  · rintro rfl hform
    refine ⟨fun hnone => handKey_refused h hparse fun t ht => ((handKeyRule_spec ht).2 hform).1 hnone, fun c hc henabled =>
      ⟨fun hres hkind => handKey_refused h hparse fun t ht => (((handKeyRule_spec ht).2 hform).2 c hc henabled).1 hres hkind, fun hkind =>
        ⟨fun hstate => ?_, fun hstate hres hmany => ?_, fun hstate hfew => ⟨fun hcount => ?_, fun hcount hvalue => ?_⟩⟩⟩⟩
    · exact handKey_refused h hparse fun t ht => ((((handKeyRule_spec ht).2 hform).2 c hc henabled).2 hkind).1 hstate
    · exact handKey_refused h hparse fun t ht => (((((handKeyRule_spec ht).2 hform).2 c hc henabled).2 hkind).2 hstate).1 hres hmany
    · exact handKey_refused h hparse fun t ht => ((((((handKeyRule_spec ht).2 hform).2 c hc henabled).2 hkind).2 hstate).2 hfew).1 hcount
    · exact handKey_refused h hparse fun t ht => (((((((handKeyRule_spec ht).2 hform).2 c hc henabled).2 hkind).2 hstate).2 hfew).2 hcount).1 hvalue

end

end Sys2Proof.Machine.Effects

/-! PROOF. BAG_OPEN and COUNT_ABORT, and the frames at a count session put together (R100 to R105, R109). -/

namespace Sys2Proof.Machine.Effects

open Sys2Proof Sys2Proof.Machine Sys2Proof.Machine.Takings Sys2Proof.Machine.TallyCount

section
variable {s s' t u : State} {p : Port} {w : Window} {x : Fin 4} {node : Byte} {n : Nat} {b b' : Bag} {code : Code} {d : Option Word32}

/-! ## BAG_OPEN (R100, R101) -/

theorem unpinned (hpin : b.pin = none) : ¬b.pin.isSome = true := by
  rw [hpin]
  exact nofun

theorem moveOpen_first (now : Nat) (hpin : b.pin = none) (hstate : b.state = .outForCount) :
    moveOpen x now b = .ok { b with state := .counting, entered := now, session := some x } := by
  unfold moveOpen
  rw [if_neg (unpinned hpin), if_pos hstate]
  rfl

theorem moveOpen_again (now : Nat) (hpin : b.pin = none) (hstate : b.state = .countSuspended) (hsession : b.session = some x) :
    moveOpen x now b = .ok { b with state := .counting, entered := now } := by
  unfold moveOpen
  rw [if_neg (unpinned hpin), if_neg (by rw [hstate]; decide), if_pos (by simp [hstate, hsession])]
  rfl

theorem moveOpen_pinned (now : Nat) (hpin : b.pin ≠ none) : moveOpen x now b = .error .pinned := if_pos (Option.isSome_iff_ne_none.mpr hpin)

theorem moveOpen_wrong (now : Nat) (hpin : b.pin = none) (hstate : b.state ≠ .outForCount) (hother : b.state = .countSuspended → b.session ≠ some x) :
    moveOpen x now b = .error .wrongBagState := by
  unfold moveOpen
  rw [if_neg (unpinned hpin), if_neg hstate, if_neg (by simpa using hother)]

/-- BAG_OPEN at an IDLE session, by what the register says. -/
theorem bagOpenRule_idle (hidle : s.sessions[x].state = .idle) :
    (findBag s n = none → bagOpenRule x node n s = (s, .verdict .unknownBag (num n))) ∧
    ∀ b, findBag s n = some b →
      (∀ e, moveOpen x s.seconds b = .error e → bagOpenRule x node n s = (s, .verdict e (num n))) ∧
      ∀ b', moveOpen x s.seconds b = .ok b' → bagOpenRule x node n s =
        (setSession x { Session.reset with state := .counting, bag := n, kind := b.kind, declared := b.declared, node := node, timer := idleDeadline s }
          (changeBag n (fun _ => b') s), .verdict .accepted (num b.unsigned.toNat)) := by
  unfold bagOpenRule
  rw [hidle]
  dsimp only
  unfold beginCount
  refine ⟨fun hfind => by rw [hfind], fun b hfind => ⟨fun e he => ?_, fun b' he => ?_⟩⟩ <;> rw [hfind] <;> dsimp only <;> rw [he]

/-- BAG_OPEN at a session that counts. -/
theorem bagOpenRule_counting (hstate : s.sessions[x].state = .counting) :
    (∀ b, s.sessions[x].bag = n → s.sessions[x].node = node → findBag s n = some b →
      bagOpenRule x node n s = (restartIdle x s, .verdict .accepted (num b.unsigned.toNat))) ∧
    (s.sessions[x].bag ≠ n ∨ s.sessions[x].node ≠ node → bagOpenRule x node n s = (s, .verdict .sessionBusy (num s.sessions[x].bag))) := by
  unfold bagOpenRule
  rw [hstate]
  dsimp only
  refine ⟨fun b hbag hnode hfind => ?_, fun hother => if_neg fun h => hother.elim (fun hne => hne h.1.symm) fun hne => hne h.2.symm⟩
  rw [if_pos ⟨hbag.symm, hnode.symm⟩]
  unfold unsignedDetail
  rw [hfind]

/-- BAG_OPEN at a suspended session. -/
theorem bagOpenRule_suspended (hstate : s.sessions[x].state = .suspended) :
    (s.sessions[x].bag = n → bagOpenRule x node n s = resumeCount x node n s) ∧
    (s.sessions[x].bag ≠ n → bagOpenRule x node n s = (s, .verdict .sessionBusy (num s.sessions[x].bag))) := by
  unfold bagOpenRule
  rw [hstate]
  exact ⟨fun h => if_pos h.symm, fun h => if_neg (Ne.symm h)⟩

theorem bagOpenJob_parsed {f : Taken} (hparse : parseSeal f.frame.body = some n) (hslot : slotOf s f.frame.src = x) :
    bagOpenJob f s = bagOpenRule x f.frame.src n s := by
  unfold bagOpenJob
  rw [hparse, hslot]

theorem bagOpen_refused (h : TakenAs s p w .bagOpen none) (hslot : slotOf s w.frame.src = x) (hparse : parseSeal w.frame.body = some n)
    (hrule : bagOpenRule x w.frame.src n (s.setRx p .idle) = (s.setRx p .idle, .verdict code d)) : RefusedFrame .bagOpen s p w code d :=
  refused_of_job (isKind := isJob .bagOpen) (fun _ _ => rfl) h (isJob_of_takenAs h) ((bagOpenJob_parsed hparse (slot_setRx hslot)).trans hrule)

/-- What a session and its bag's record are behind a BAG_OPEN that opens or resumes. -/
theorem bagOpen_yields {v : Session} {t : State} (h : TakenAs s p w .bagOpen none) (hslot : slotOf s w.frame.src = x)
    (hparse : parseSeal w.frame.body = some n) (hfind : findBag s n = some b) (hseal : b'.sealNo = b.sealNo) (hstate : b'.state = .counting)
    (ht : t.bags = (changeBag n (fun _ => b') (s.setRx p .idle)).bags)
    (hrule : bagOpenRule x w.frame.src n (s.setRx p .idle) = (setSession x v t, .verdict .accepted d)) : Yields (.bagOpen p) s fun u =>
      u.sessions[x] = v ∧ findBag u n = some b' ∧ Answered s u p w .accepted d := by
  refine job_yields (c := .bagOpen) (isKind := isJob .bagOpen) (fun _ _ => rfl) h (isJob_of_takenAs h)
    ((bagOpenJob_parsed hparse (slot_setRx hslot)).trans hrule) fun u hu => ⟨?_, ?_, hu.answered⟩
  · rw [show u.sessions = _ from hu.part .sessions]
    show (put t.sessions x v)[x] = _
    rw [put_get, if_pos rfl]
  · refine hu.bags n b' ?_ (by rw [hstate]; rfl)
    rw [findBag_of_leaves (setSession_leaves x v t), findBag_congr ht, findBag_moved (find_setRx hfind) hseal, if_pos rfl]

theorem deadline_setRx (s : State) (p : Port) (rx : Receiver) : idleDeadline (s.setRx p rx) = some (s.seconds + s.timing.idleTimeout) := by
  unfold idleDeadline
  rw [State.setRx_seconds, State.setRx_timing]

theorem bag_opened (h : TakenAs s p w .bagOpen none) (hslot : slotOf s w.frame.src = x) (hparse : parseSeal w.frame.body = some n)
    (hfind : findBag s n = some b) (hidle : s.sessions[x].state = .idle) (hpin : b.pin = none) (hstate : b.state = .outForCount) :
    Yields (.bagOpen p) s fun u =>
      u.sessions[x] = { Session.reset with
        state := .counting, bag := n, kind := b.kind, declared := b.declared, node := w.frame.src
        timer := some (s.seconds + s.timing.idleTimeout) } ∧
      findBag u n = some { b with state := .counting, entered := s.seconds, session := some x } ∧
      Answered s u p w .accepted (num b.unsigned.toNat) := by
  have hrule := ((bagOpenRule_idle (node := w.frame.src) (n := n) (s := s.setRx p .idle) (by rw [State.setRx_sessions]; exact hidle)).2 b (find_setRx hfind)).2 _
    (moveOpen_first _ hpin hstate)
  rw [deadline_setRx, State.setRx_seconds] at hrule
  exact bagOpen_yields h hslot hparse hfind rfl rfl rfl hrule

theorem bag_resumed (h : TakenAs s p w .bagOpen none) (hslot : slotOf s w.frame.src = x) (hparse : parseSeal w.frame.body = some n)
    (hfind : findBag s n = some b) (hsuspended : s.sessions[x].state = .suspended) (hbag : s.sessions[x].bag = n) (hpin : b.pin = none)
    (hstate : b.state = .countSuspended) (hsession : b.session = some x) : Yields (.bagOpen p) s fun u =>
      u.sessions[x] = { s.sessions[x] with state := .counting, node := w.frame.src, timer := some (s.seconds + s.timing.idleTimeout) } ∧
      findBag u n = some { b with state := .counting, entered := s.seconds } ∧ Answered s u p w .accepted (num b.unsigned.toNat) := by
  have hrule := (bagOpenRule_suspended (node := w.frame.src) (n := n) (s := s.setRx p .idle) (by rw [State.setRx_sessions]; exact hsuspended)).1
    (by rw [State.setRx_sessions]; exact hbag)
  have hmove := moveOpen_again (x := x) s.seconds hpin hstate hsession
  have hdetail : unsignedDetail (s.setRx p .idle) n = num b.unsigned.toNat := by
    unfold unsignedDetail
    rw [find_setRx hfind]
  have hask : askRegister n (moveOpen x s.seconds) (s.setRx p .idle) = changeBag n (fun _ => { b with state := .counting, entered := s.seconds }) (s.setRx p .idle) :=
    askRegister_ok (find_setRx hfind) hmove
  unfold resumeCount at hrule
  rw [deadline_setRx, State.setRx_seconds, State.setRx_sessions, hdetail, hask] at hrule
  exact bagOpen_yields h hslot hparse hfind rfl rfl rfl hrule

/-- What BAG_OPEN is refused for or answered without a change, by the session's state. -/
theorem bagOpen_refusals (h : TakenAs s p w .bagOpen none) (hslot : slotOf s w.frame.src = x) :
    let refused := RefusedFrame .bagOpen s p w
    (w.frame.body.length ≠ 4 → refused .malformed none) ∧
    ∀ n : Nat, parseSeal w.frame.body = some n →
      (s.sessions[x].state = .idle →
        (findBag s n = none → refused .unknownBag (num n)) ∧
        ∀ b, findBag s n = some b →
          (b.pin ≠ none → refused .pinned (num n)) ∧
          (b.pin = none → b.state ≠ .outForCount → (b.state = .countSuspended → b.session ≠ some x) → refused .wrongBagState (num n))) ∧
      (∀ b, s.sessions[x].state = .counting → s.sessions[x].bag = n → s.sessions[x].node = w.frame.src → findBag s n = some b →
        CountsNothing .bagOpen s p w x True .accepted (num b.unsigned.toNat)) ∧
      (s.sessions[x].state = .counting → (s.sessions[x].bag ≠ n ∨ s.sessions[x].node ≠ w.frame.src) →
        refused .sessionBusy (num s.sessions[x].bag)) ∧
      (s.sessions[x].state = .suspended → s.sessions[x].bag ≠ n → refused .sessionBusy (num s.sessions[x].bag)) := by
  intro refused
  have hsessions : (s.setRx p .idle).sessions = s.sessions := State.setRx_sessions s p _
  refine ⟨fun hlen => refused_of_job (isKind := isJob .bagOpen) (fun _ _ => rfl) h (isJob_of_takenAs h) ?_, fun n hparse =>
    ⟨fun hidle => ?_, fun b hcounting hbag hnode hfind => ?_, fun hcounting hother => ?_, fun hsuspended hother => ?_⟩⟩
  · show bagOpenJob _ _ = _
    unfold bagOpenJob
    rw [show (({ w.taken p with pair := none } : Taken)).frame.body = w.frame.body from rfl, parseSeal_length hlen]
  · obtain ⟨hunknown, hknown⟩ := bagOpenRule_idle (node := w.frame.src) (n := n) (s := s.setRx p .idle) (x := x) (by rw [hsessions]; exact hidle)
    exact ⟨fun hfind => bagOpen_refused h hslot hparse (hunknown (find_setRx hfind)), fun b hfind =>
      ⟨fun hpin => bagOpen_refused h hslot hparse ((hknown b (find_setRx hfind)).1 _ (moveOpen_pinned _ hpin)), fun hpin hstate hother =>
        bagOpen_refused h hslot hparse ((hknown b (find_setRx hfind)).1 _ (moveOpen_wrong _ hpin hstate hother))⟩⟩
  · have hrule := (bagOpenRule_counting (node := w.frame.src) (n := n) (s := s.setRx p .idle) (x := x) (by rw [hsessions]; exact hcounting)).1 b
      (by rw [hsessions]; exact hbag) (by rw [hsessions]; exact hnode) (find_setRx hfind)
    exact counts_nothing (isKind := isJob .bagOpen) (fun _ _ => rfl) h (isJob_of_takenAs h) (fun _ => hcounting)
      (fun _ => (bagOpenJob_parsed hparse (slot_setRx hslot)).trans hrule) fun hno => absurd trivial hno
  · have hrule := (bagOpenRule_counting (node := w.frame.src) (n := n) (s := s.setRx p .idle) (x := x) (by rw [hsessions]; exact hcounting)).2
      (by rw [hsessions]; exact hother)
    rw [hsessions] at hrule
    exact bagOpen_refused h hslot hparse hrule
  · have hrule := (bagOpenRule_suspended (node := w.frame.src) (n := n) (s := s.setRx p .idle) (x := x) (by rw [hsessions]; exact hsuspended)).2
      (by rw [hsessions]; exact hother)
    rw [hsessions] at hrule
    exact bagOpen_refused h hslot hparse hrule

/-! ## COUNT_ABORT (R109) -/

/-- COUNT_ABORT at a session, from its counter or from the console, by the session's state. -/
theorem countAbortRule_spec {console : Bool} :
    (s.sessions[x].state = .idle → countAbortRule x node console s = (s, .verdict .accepted (num 0))) ∧
    (s.sessions[x].state ≠ .idle → (s.sessions[x].state = .counting → console = true ∨ s.sessions[x].node = node) →
      countAbortRule x node console s = (abortSession x s, .verdict .accepted (num s.sessions[x].bag))) ∧
    (s.sessions[x].state = .counting → console = false → s.sessions[x].node ≠ node →
      countAbortRule x node console s = (s, .verdict .sessionBusy (num s.sessions[x].bag))) := by
  unfold countAbortRule
  dsimp only
  refine ⟨fun hidle => by rw [hidle], fun hbusy hmay => ?_, fun hstate hconsole hnode => ?_⟩
  · cases hstate : s.sessions[x].state with
    | idle => exact absurd hstate hbusy
    | counting => exact if_pos (hmay hstate)
    | suspended => rfl
  · rw [hstate]
    exact if_neg fun h => h.elim (by rw [hconsole]; exact nofun) hnode

/-- A COUNT_ABORT that names a session: from the console by its number, from a counter by its slot. -/
def AbortNames (s : State) (w : Window) (x : Fin 4) : Prop :=
  roleOf s w.frame.src = some .console ∧ parseSessionNumber w.frame.body = some x.val ∨
    roleOf s w.frame.src = some .counter ∧ w.frame.body = [] ∧ slotOf s w.frame.src = x

theorem countAbortJob_names {f : Taken} (h : AbortNames s w x) (hf : f.frame = w.frame) :
    countAbortJob f (s.setRx p .idle) = countAbortRule x w.frame.src (decide (roleOf s w.frame.src = some .console)) (s.setRx p .idle) := by
  unfold countAbortJob
  rw [hf, roleOf_setRx]
  rcases h with ⟨hrole, hparse⟩ | ⟨hrole, hbody, hslot⟩
  · rw [hrole, if_pos rfl, hparse]
    dsimp only
    rw [inRange_val]
    rfl
  · rw [hrole, if_neg (by decide), hbody, slot_setRx hslot]
    rfl

theorem moveAbort_ok (now : Nat) (hstate : b.state = .counting ∨ b.state = .countSuspended) (hsession : b.session = some x) :
    moveAbort x now b = .ok { b with state := .outForCount, entered := now, session := none } := by
  unfold moveAbort
  rw [if_pos (by simpa [hsession] using hstate)]
  rfl

theorem count_aborted (h : TakenAs s p w .countAbort none)
    (hby : roleOf s w.frame.src = some .console ∧ parseSessionNumber w.frame.body = some x.val ∨
      roleOf s w.frame.src = some .counter ∧ w.frame.body = [] ∧ slotOf s w.frame.src = x ∧
        (s.sessions[x].state = .counting → s.sessions[x].node = w.frame.src))
    (hbusy : s.sessions[x].state ≠ .idle) (hfind : findBag s s.sessions[x].bag = some b) (hstate : b.state = .counting ∨ b.state = .countSuspended)
    (hsession : b.session = some x) : Yields (.countAbort p) s fun u =>
      u.sessions[x] = Session.reset ∧
      findBag u s.sessions[x].bag = some { b with state := .outForCount, entered := s.seconds, session := none } ∧
      u.stock = s.stock ∧ u.tallies = s.tallies ∧ Answered s u p w .accepted (num s.sessions[x].bag) := by
  have hsessions : (s.setRx p .idle).sessions = s.sessions := State.setRx_sessions s p _
  have hnames : AbortNames s w x := hby.imp id fun ⟨hrole, hbody, hslot, _⟩ => ⟨hrole, hbody, hslot⟩
  have hmay : s.sessions[x].state = .counting → decide (roleOf s w.frame.src = some .console) = true ∨ s.sessions[x].node = w.frame.src := fun hcounting =>
    hby.imp (fun h => decide_eq_true h.1) fun h => h.2.2.2 hcounting
  have hrule := (countAbortRule_spec (x := x) (node := w.frame.src) (s := s.setRx p .idle) (console := decide (roleOf s w.frame.src = some .console))).2.1
    (by rw [hsessions]; exact hbusy) (by rw [hsessions]; exact hmay)
  rw [hsessions] at hrule
  have hjob := (countAbortJob_names (p := p) (f := { w.taken p with pair := none }) hnames rfl).trans hrule
  have hleaves := abortSession_leaves x (s.setRx p .idle)
  have hrow := abort_sessions x x (s.setRx p .idle)
  rw [if_pos rfl] at hrow
  have hbag : findBag (abortSession x (s.setRx p .idle)) s.sessions[x].bag = some { b with state := .outForCount, entered := s.seconds, session := none } := by
    unfold abortSession
    rw [findBag_of_leaves (setSession_leaves x _ _), State.setRx_seconds, hsessions, askRegister_ok (find_setRx hfind) (moveAbort_ok _ hstate hsession)]
    exact (findBag_moved (b' := { b with state := .outForCount, entered := s.seconds, session := none }) (find_setRx hfind) rfl).trans (if_pos rfl)
  generalize abortSession x (s.setRx p .idle) = v at hjob hleaves hrow hbag
  refine job_yields (c := .countAbort) (isKind := isJob .countAbort) (fun _ _ => rfl) h (isJob_of_takenAs h) hjob fun u hu =>
    ⟨?_, hu.bags _ _ hbag rfl, ?_, ?_, hu.answered⟩
  · rw [show u.sessions = v.sessions from hu.part .sessions, hrow]
  · rw [show u.stock = v.stock from hu.part .stock, show v.stock = _ from hleaves .stock (by decide), State.setRx_stock]
  · rw [show u.tallies = v.tallies from hu.part .tallies, show v.tallies = _ from hleaves .tallies (by decide), State.setRx_tallies]

/-- What COUNT_ABORT is refused for, and where it finds nothing to abort. -/
theorem countAbort_refusals (x : Fin 4) (h : TakenAs s p w .countAbort none) :
    let refused := RefusedFrame .countAbort s p w
    (roleOf s w.frame.src = some .counter → w.frame.body ≠ [] → refused .malformed none) ∧
    (roleOf s w.frame.src = some .console → w.frame.body.length ≠ 1 → refused .malformed none) ∧
    (∀ i, roleOf s w.frame.src = some .console → parseSessionNumber w.frame.body = some i → 4 ≤ i → refused .malformed (num i)) ∧
    (AbortNames s w x → s.sessions[x].state = .idle → refused .accepted (num 0)) ∧
    (roleOf s w.frame.src = some .counter → w.frame.body = [] → slotOf s w.frame.src = x → s.sessions[x].state = .counting →
      s.sessions[x].node ≠ w.frame.src → refused .sessionBusy (num s.sessions[x].bag)) := by
  intro refused
  have hsessions : (s.setRx p .idle).sessions = s.sessions := State.setRx_sessions s p _
  have hrefused {code : Code} {d : Option Word32} (hjob : countAbortJob { w.taken p with pair := none } (s.setRx p .idle) = (s.setRx p .idle, .verdict code d)) :
      refused code d := refused_of_job (isKind := isJob .countAbort) (fun _ _ => rfl) h (isJob_of_takenAs h) hjob
  have hbody : (({ w.taken p with pair := none } : Taken)).frame = w.frame := rfl
  refine ⟨fun hrole hne => hrefused ?_, fun hrole hlen => hrefused ?_, fun i hrole hparse hi => hrefused ?_, fun hnames hidle => hrefused ?_,
    fun hrole hempty hslot hcounting hnode => hrefused ?_⟩
  · unfold countAbortJob
    rw [hbody, roleOf_setRx, hrole, if_neg (by decide)]
    unfold parseEmpty
    rw [if_neg hne]
  · unfold countAbortJob
    rw [hbody, roleOf_setRx, hrole, if_pos rfl, parseSession_length hlen]
  · unfold countAbortJob
    rw [hbody, roleOf_setRx, hrole, if_pos rfl, hparse]
    dsimp only
    rw [inRange_none.mpr hi]
  · exact (countAbortJob_names hnames hbody).trans (countAbortRule_spec.1 (by rw [hsessions]; exact hidle))
  · have hrule := (countAbortRule_spec (x := x) (node := w.frame.src) (s := s.setRx p .idle) (console := decide (roleOf s w.frame.src = some .console))).2.2
      (by rw [hsessions]; exact hcounting) (by rw [hrole]; decide) (by rw [hsessions]; exact hnode)
    rw [hsessions] at hrule
    exact (countAbortJob_names (.inr ⟨hrole, hempty, hslot⟩) hbody).trans hrule

end

/-- Settles O43: each frame by the checks of its rule. -/
theorem countFrames : Obligations.CountFrames := by
  unfold Obligations.CountFrames
  refine fun p s w x => ⟨fun n b h hslot hparse hfind => ⟨bag_opened h hslot hparse hfind, bag_resumed h hslot hparse hfind⟩, bagOpen_refusals,
    fun c a m r h hslot hparse ha hm hr hstate hnode henabled hkind haccepted hsuspect hrejected hunresolved hvalue => ?_, batch_refusals,
    fun c n resolves outSuspect h hparse hform henabled hres hstate hcount hvalue => handKey_counted h hparse hform henabled hres hstate hcount hvalue,
    handKey_refusals x, fun b h hby hbusy hfind hstate hsession => count_aborted h hby hbusy hfind hstate hsession, countAbort_refusals x⟩
  refine batch_counted h hslot hparse ha hm hr hstate hnode henabled hkind ?_ hvalue
  unfold BatchPasses
  omega

end Sys2Proof.Machine.Effects

/-! PROOF. BAG_CLOSE: the close at stock, register, drawer, tallies and events, and its refusals (R13, R36, R56, R106 to R108, R111). -/

namespace Sys2Proof.Machine.Effects

open Sys2Proof Sys2Proof.Machine Sys2Proof.Machine.Takings Sys2Proof.Machine.TallyCount

section
variable {s t u z : State} {p : Port} {w : Window} {x : Fin 4} {node : Byte} {b b' : Bag} {code : Code} {d : Option Word32} {variance : Int} {cls : BagClass}

/-! ## The checks of R106 -/

/-- The checks before the counts, on the session. -/
theorem bagCloseRule_checks (h : SameCount x s t) :
    (s.sessions[x].state ≠ .counting → bagCloseRule x node t = (t, .verdict .wrongBagState (num s.sessions[x].state.code))) ∧
    (s.sessions[x].state = .counting → s.sessions[x].node ≠ node → bagCloseRule x node t = (t, .verdict .sessionBusy (num s.sessions[x].bag))) ∧
    (s.sessions[x].state = .counting → s.sessions[x].node = node → 0 < s.sessions[x].unresolved →
      bagCloseRule x node t = (t, .verdict .rejectsOpen (num s.sessions[x].unresolved))) := by
  obtain ⟨⟨timer, hrow⟩, -⟩ := h
  unfold bagCloseRule
  rw [hrow]
  dsimp only
  refine ⟨fun hstate => if_pos hstate, fun hstate hnode => ?_, fun hstate hnode hrejects => ?_⟩ <;> rw [if_neg (not_not.mpr hstate)]
  · exact if_pos hnode
  · rw [if_neg (not_not.mpr hnode)]
    exact if_pos hrejects

/-- A BAG_CLOSE decided with nothing counted. -/
theorem bagClose_nothing (h : TakenAs s p w .bagClose none)
    (hjob : bagCloseJob { w.taken p with pair := none } (s.setRx p .idle) = (counterActs x w.frame.src (s.setRx p .idle), .verdict code d)) :
    CountsNothing .bagClose s p w x (s.sessions[x].state = .counting ∧ s.sessions[x].node = w.frame.src) code d := by
  have hacts := counterActs_cases x w.frame.src (s.setRx p .idle)
  rw [State.setRx_sessions] at hacts
  exact counts_nothing (isKind := isJob .bagClose) (fun _ _ => rfl) h (isJob_of_takenAs h) And.left (fun ha => hjob.trans (by rw [hacts.1 ha]))
    fun ha => hjob.trans (by rw [hacts.2 ha])

theorem bagCloseJob_empty {f : Taken} (hbody : f.frame.body = []) (hslot : slotOf s f.frame.src = x) :
    bagCloseJob f s = bagCloseRule x f.frame.src (counterActs x f.frame.src s) := by
  unfold bagCloseJob
  rw [hbody, hslot]
  rfl

theorem bagCloseJob_malformed {f : Taken} (hbody : f.frame.body ≠ []) (hslot : slotOf s f.frame.src = x) :
    bagCloseJob f s = (counterActs x f.frame.src s, .verdict .malformed none) := by
  unfold bagCloseJob parseEmpty
  rw [if_neg hbody, hslot]

theorem bagClose_refused (h : TakenAs s p w .bagClose none) (hslot : slotOf s w.frame.src = x) (hbody : w.frame.body = [])
    (hrule : ∀ t, SameCount x s t → bagCloseRule x w.frame.src t = (t, .verdict code d)) :
    CountsNothing .bagClose s p w x (s.sessions[x].state = .counting ∧ s.sessions[x].node = w.frame.src) code d :=
  bagClose_nothing h ((bagCloseJob_empty hbody (slot_setRx hslot)).trans (hrule _ (sameCount_acts x w.frame.src s p)))

theorem closeRefused_of_split {accepted suspect : Vector Nat 12} {before after : List (Fin 12)} {c : Fin 12} (hsplit : stockOrder s = before ++ c :: after)
    (hbefore : ∀ k ∈ before, additionRefused s.denoms[k] s.stock[k] accepted[k] = false ∧ s.stock[k].suspect + suspect[k] ≤ 4294967295)
    (hc : ¬(additionRefused s.denoms[c] s.stock[c] accepted[c] = false ∧ s.stock[c].suspect + suspect[c] ≤ 4294967295)) :
    closeRefused s accepted suspect = some c := by
  refine List.find?_eq_some_iff_append.mpr ⟨?_, before, after, hsplit, fun k hk => ?_⟩ <;> rw [show Config.top32 = 4294967295 from rfl]
  · rw [not_and_or, Bool.not_eq_false, not_le] at hc
    simpa using hc
  · obtain ⟨hadd, hsuspect⟩ := hbefore k hk
    rw [hadd]
    simpa using hsuspect

/-! ## The close (R13, R36, R56, R107, R108, R111) -/

/-- What a close that passes its checks leaves. -/
structure CountClosed (x : Fin 4) (b b' : Bag) (variance : Int) (cls : BagClass) (s z : State) : Prop where
  session : z.sessions[x] = Session.reset
  stock : ∀ c : Fin 12, z.stock[c] =
    { addPieces s.denoms[c] s.stock[c] s.sessions[x].accepted[c] with suspect := s.stock[c].suspect + s.sessions[x].suspect[c] }
  countedIn : z.acc.countedIn = min 4294967295 (s.acc.countedIn + s.valueOf s.sessions[x].accepted)
  bag : findBag z s.sessions[x].bag = some b'
  drawers : ∀ k : Fin 160, z.drawers[k].countVariance =
    if b.till = some k ∧ (b.kind = .pickup ∨ b.kind = .cashup) ∧ b.day = s.day.number then
      max Config.low31 (min Config.high31 (s.drawers[k].countVariance + variance))
    else s.drawers[k].countVariance
  tallies : ∀ (g : TallyGroup) (c : Fin 12), z.tally g c = (s.tally g c).add s.timing.groups[g.row].mode (s.sessions[x].groupCounts g)[c]
  bagVariance : cls ≠ .balanced → (z.event .bagVariance).pending = true ∧ (z.event .bagVariance).detail = BitVec.ofNat 32 s.sessions[x].bag
  suspectFound : 0 < s.valueOf s.sessions[x].suspect → (z.event .suspectFound).pending = true

theorem closeAtDrawer_row (b : Bag) (variance : Int) (s : State) (k : Fin 160) : (closeAtDrawer b variance s).drawers[k].countVariance =
    if b.till = some k ∧ (b.kind = .pickup ∨ b.kind = .cashup) ∧ b.day = s.day.number then
      max Config.low31 (min Config.high31 (s.drawers[k].countVariance + variance))
    else s.drawers[k].countVariance := by
  unfold closeAtDrawer
  cases htill : b.till with
  | none => exact (if_neg fun h => nomatch h.1).symm
  | some j =>
    by_cases hday : (b.kind = .pickup ∨ b.kind = .cashup) ∧ b.day = s.day.number
    · dsimp only
      rw [if_pos hday]
      show (put s.drawers j _)[k].countVariance = _
      rw [put_get]
      by_cases hjk : j = k
      · subst hjk
        rw [if_pos rfl, if_pos ⟨rfl, hday⟩]
        exact satInt_fst _
      · rw [if_neg hjk, if_neg fun h => hjk (Option.some.inj h.1)]
    · dsimp only
      rw [if_neg hday, if_neg fun h => hday h.2]

theorem closeEvents_variance (n v : Nat) (s : State) (h : cls ≠ .balanced) : ((closeEvents n v cls s).event .bagVariance).pending = true ∧
    ((closeEvents n v cls s).event .bagVariance).detail = BitVec.ofNat 32 n := by
  have hraised := raise_event .bagVariance .bagVariance (BitVec.ofNat 32 n) s
  rw [if_pos rfl] at hraised
  unfold closeEvents
  rw [if_neg h]
  dsimp only
  split
  · have hother : (raiseNum .suspectFound n (raiseNum .bagVariance n s)).event .bagVariance = (raiseNum .bagVariance n s).event .bagVariance :=
      (raise_event .suspectFound .bagVariance _ _).trans (if_neg (by decide))
    rw [hother, show (raiseNum .bagVariance n s).event .bagVariance = _ from hraised]
    exact ⟨rfl, rfl⟩
  · rw [show (raiseNum .bagVariance n s).event .bagVariance = _ from hraised]
    exact ⟨rfl, rfl⟩

theorem closeEvents_suspect (n : Nat) {v : Nat} (s : State) (h : 0 < v) : ((closeEvents n v cls s).event .suspectFound).pending = true := by
  unfold closeEvents
  dsimp only
  rw [if_pos h]
  have hraised := raise_event .suspectFound .suspectFound (BitVec.ofNat 32 n) (if cls = .balanced then s else raiseNum .bagVariance n s)
  rw [if_pos rfl] at hraised
  rw [show (raiseNum .suspectFound n _).event .suspectFound = _ from hraised]

theorem countClosed_of (hfind : findBag s s.sessions[x].bag = some b) (hseal : b'.sealNo = b.sealNo) :
    CountClosed x b b' variance cls s (applyCount x b b' variance cls s) := by
  have hstock (c : Fin 12) := applyClose_row s.sessions[x].accepted s.sessions[x].suspect (s.valueOf s.sessions[x].accepted) s c
  have hacc := applyClose_acc s.sessions[x].accepted s.sessions[x].suspect (s.valueOf s.sessions[x].accepted) s
  have hclosed := applyClose_leaves s.sessions[x].accepted s.sessions[x].suspect (s.valueOf s.sessions[x].accepted) s
  unfold applyCount
  dsimp only
  generalize applyClose s.sessions[x].accepted s.sessions[x].suspect (s.valueOf s.sessions[x].accepted) s = v1 at hstock hacc hclosed ⊢
  have hbag := findBag_moved (n := s.sessions[x].bag) (b' := b') ((findBag_of_leaves hclosed).trans hfind) hseal
  rw [if_pos rfl] at hbag
  have hchanged := changeBag_leaves s.sessions[x].bag (fun _ => b') v1
  generalize changeBag s.sessions[x].bag (fun _ => b') v1 = v2 at hbag hchanged ⊢
  have hdrawers (k : Fin 160) := closeAtDrawer_row b variance v2 k
  have hdrawn := closeAtDrawer_leaves b variance v2
  generalize closeAtDrawer b variance v2 = v3 at hdrawers hdrawn ⊢
  have htallies (g : TallyGroup) (c : Fin 12) := addTallies_tally s.sessions[x] v3 g c
  have htallied := addTallies_leaves s.sessions[x] v3
  generalize addTallies s.sessions[x] v3 = v4 at htallies htallied ⊢
  have hvariance := closeEvents_variance (cls := cls) s.sessions[x].bag (s.valueOf s.sessions[x].suspect) v4
  have hsuspect := closeEvents_suspect (cls := cls) s.sessions[x].bag (v := s.valueOf s.sessions[x].suspect) v4
  have hevents := closeEvents_leaves s.sessions[x].bag (s.valueOf s.sessions[x].suspect) cls v4
  generalize closeEvents s.sessions[x].bag (s.valueOf s.sessions[x].suspect) cls v4 = v5 at hvariance hsuspect hevents ⊢
  have hset := setSession_leaves x Session.reset v5
  have hrow : (setSession x Session.reset v5).sessions[x] = Session.reset := (put_get _ _ _ _).trans (if_pos rfl)
  generalize setSession x Session.reset v5 = v6 at hset hrow ⊢
  have hbefore : unchangedBut [.stock, .acc, .bags] s v2 := unchangedBut_mono (unchangedBut_trans hclosed hchanged) (by decide)
  have hmiddle : unchangedBut [.stock, .acc, .bags, .drawers] s v3 := unchangedBut_mono (unchangedBut_trans hbefore hdrawn) (by decide)
  have hafter : unchangedBut [.tallies, .events, .sessions] v3 v6 :=
    unchangedBut_mono (unchangedBut_trans (unchangedBut_trans htallied hevents) hset) (by decide)
  have hlate : unchangedBut [.drawers, .tallies, .events, .sessions] v2 v6 := unchangedBut_mono (unchangedBut_trans hdrawn hafter) (by decide)
  have hend (e : Event) : v6.event e = v5.event e := by
    unfold State.event
    rw [show v6.events = v5.events from hset .events (by decide)]
  refine ⟨hrow, fun c => ?_, ?_, ?_, fun k => ?_, fun g c => ?_, fun hcls => ?_, fun hfound => ?_⟩
  · rw [show v6.stock = v2.stock from hlate .stock (by decide), show v2.stock = v1.stock from hchanged .stock (by decide), hstock]
  · rw [show v6.acc = v2.acc from hlate .acc (by decide), show v2.acc = v1.acc from hchanged .acc (by decide), hacc, satNat_pair]
  · rw [findBag_of_leaves hlate, hbag]
  · rw [show v6.drawers = v3.drawers from hafter .drawers (by decide), hdrawers, show v2.day = s.day from hbefore .day (by decide),
      show v2.drawers = s.drawers from hbefore .drawers (by decide)]
  · have hsame (v v' : State) (h : v'.tallies = v.tallies) : v'.tally g c = v.tally g c := by
      unfold State.tally
      rw [h]
    rw [hsame v5 v6 (hset .tallies (by decide)), hsame v4 v5 (hevents .tallies (by decide)), htallies, hsame s v3 (hmiddle .tallies (by decide)),
      show v3.timing = s.timing from hmiddle .timing (by decide)]
  · rw [hend]
    exact hvariance hcls
  · rw [hend]
    exact hsuspect hfound

/-- A close reads of its session all but the idle timer. -/
theorem countClosed_restarted (h : CountClosed x b b' variance cls t z) (hsame : SameCount x s t)
    (hleaves : unchangedBut [.sessions, Part.ofPort p] s t) : CountClosed x b b' variance cls s z := by
  obtain ⟨⟨timer, hrow⟩, hdenoms⟩ := hsame
  have hout (b : Part) (hb : b ∉ [Part.sessions, .floor, .room]) : b ∉ [Part.sessions, Part.ofPort p] := by
    cases p <;> exact fun hmem => hb (by revert hmem; cases b <;> decide)
  have hstock : t.stock = s.stock := hleaves .stock (hout _ (by decide))
  have hacc : t.acc = s.acc := hleaves .acc (hout _ (by decide))
  have hday : t.day = s.day := hleaves .day (hout _ (by decide))
  have hdrawers : t.drawers = s.drawers := hleaves .drawers (hout _ (by decide))
  have htallies (g : TallyGroup) (c : Fin 12) : t.tally g c = s.tally g c := by
    unfold State.tally
    rw [show t.tallies = s.tallies from hleaves .tallies (hout _ (by decide))]
  have htiming : t.timing = s.timing := hleaves .timing (hout _ (by decide))
  have hvalue (v : Vector Nat 12) : t.valueOf v = s.valueOf v := valueOf_congr hdenoms v
  have hgroups (g : TallyGroup) : t.sessions[x].groupCounts g = s.sessions[x].groupCounts g := by
    rw [hrow]
    cases g <;> rfl
  obtain ⟨hsession, hstocks, hcounted, hbag, hdrawn, htallied, hvariance, hsuspect⟩ := h
  rw [hrow] at hstocks hcounted hbag hvariance hsuspect
  rw [hdenoms, hstock] at hstocks
  rw [hvalue] at hsuspect
  rw [hacc, hvalue] at hcounted
  rw [hday, hdrawers] at hdrawn
  exact ⟨hsession, hstocks, hcounted, hbag, hdrawn, fun g c => by rw [htallied, htallies, htiming, hgroups], hvariance, hsuspect⟩

/-! ## The rule on a session that passes its checks -/

/-- A close without a refused code takes each addition and each suspect hold. -/
theorem bagCloseRule_closes (hstate : s.sessions[x].state = .counting) (hnode : s.sessions[x].node = node) (hrejects : s.sessions[x].unresolved = 0)
    (hpasses : closeRefused s s.sessions[x].accepted s.sessions[x].suspect = none) (hfind : findBag s s.sessions[x].bag = some b)
    (hbag : b.state = .counting) (hsession : b.session = some x) (hvariance : sessionVariance s s.sessions[x] = variance)
    (hcls : classOf variance (s.timing.tolerance s.sessions[x].kind) = cls)
    (hb' : { b with
      state := .counted, entered := s.seconds, session := none, counted := some (s.valueOf s.sessions[x].accepted)
      suspect := some (s.valueOf s.sessions[x].suspect), variance := some variance, cls := some cls } = b') :
    bagCloseRule x node s = (applyCount x b b' variance cls s, .verdict .accepted (signed variance)) := by
  have hmove : moveClose x (s.valueOf s.sessions[x].accepted) (s.valueOf s.sessions[x].suspect) variance cls s.seconds b = .ok b' := by
    unfold moveClose
    rw [if_pos (by simp [hbag, hsession]), ← hb']
    rfl
  unfold bagCloseRule
  dsimp only
  rw [if_neg (not_not.mpr hstate), if_neg (not_not.mpr hnode), if_neg (by rw [hrejects]; exact Nat.lt_irrefl 0), hpasses, hfind, hvariance, hcls]
  dsimp only
  rw [hmove]

theorem bag_closed (h : TakenAs s p w .bagClose none) (hslot : slotOf s w.frame.src = x) (hbody : w.frame.body = [])
    (hacts : s.sessions[x].state = .counting ∧ s.sessions[x].node = w.frame.src) (hrejects : s.sessions[x].unresolved = 0)
    (hfind : findBag s s.sessions[x].bag = some b) (hbag : b.state = .counting) (hsession : b.session = some x)
    (hpasses : closeRefused s s.sessions[x].accepted s.sessions[x].suspect = none) (hvariance : sessionVariance s s.sessions[x] = variance)
    (hcls : classOf variance (s.timing.tolerance s.sessions[x].kind) = cls)
    (hb' : { b with
      state := .counted, entered := s.seconds, session := none, counted := some (s.valueOf s.sessions[x].accepted)
      suspect := some (s.valueOf s.sessions[x].suspect), variance := some variance, cls := some cls } = b') :
    ∃ v, CountClosed x b b' variance cls s v ∧
      bagCloseJob { w.taken p with pair := none } (s.setRx p .idle) = (v, .verdict .accepted (signed variance)) := by
  have hsame := sameCount_acts x w.frame.src s p
  have hleaves : unchangedBut [.sessions, Part.ofPort p] s (counterActs x w.frame.src (s.setRx p .idle)) :=
    unchangedBut_mono (unchangedBut_trans (setRx_leaves p .idle s) (counterActs_leaves x w.frame.src (s.setRx p .idle))) (by cases p <;> decide)
  have hjob := bagCloseJob_empty (f := { w.taken p with pair := none }) (s := s.setRx p .idle) hbody (slot_setRx hslot)
  rw [show ({ w.taken p with pair := none } : Taken).frame = w.frame from rfl] at hjob
  generalize counterActs x w.frame.src (s.setRx p .idle) = t at hsame hleaves hjob
  obtain ⟨⟨timer, hrow⟩, hdenoms⟩ := id hsame
  have hout (b : Part) (hb : b ∉ [Part.sessions, .floor, .room]) : b ∉ [Part.sessions, Part.ofPort p] := by
    cases p <;> exact fun hmem => hb (by revert hmem; cases b <;> decide)
  have hvalue (v : Vector Nat 12) : t.valueOf v = s.valueOf v := valueOf_congr hdenoms v
  have hstock : t.stock = s.stock := hleaves .stock (hout _ (by decide))
  have hfind' : findBag t s.sessions[x].bag = some b := (findBag_congr (hleaves .bags (hout _ (by decide))) _).trans hfind
  have hclose : closeRefused t s.sessions[x].accepted s.sessions[x].suspect = none := by
    unfold closeRefused
    rw [stockOrder_congr hdenoms, hdenoms, hstock]
    exact hpasses
  have hrule := bagCloseRule_closes (s := t) (x := x) (node := w.frame.src) (variance := variance) (cls := cls) (b := b) (b' := b')
    (by rw [hrow]; exact hacts.1) (by rw [hrow]; exact hacts.2) (by rw [hrow]; exact hrejects) (by rw [hrow]; exact hclose) (by rw [hrow]; exact hfind')
    hbag hsession (by rw [hrow, ← hvariance]; unfold sessionVariance; rw [hvalue, hvalue])
    (by rw [hrow, show t.timing = s.timing from hleaves .timing (hout _ (by decide))]; exact hcls)
    (by rw [hrow, hvalue, hvalue, show t.seconds = s.seconds from hleaves .seconds (hout _ (by decide))]; exact hb')
  refine ⟨_, ?_, hjob.trans hrule⟩
  exact countClosed_restarted (countClosed_of (by rw [hrow]; exact hfind') (by rw [← hb'])) hsame hleaves

end

/-- Settles O44: the checks of the rule, and the close piece by piece. -/
theorem bagCloseResult : Obligations.BagCloseResult := by
  unfold Obligations.BagCloseResult
  intro p s w x h hslot acts refused passes
  refine ⟨fun hbody => ?_, fun hbody hstate => bagClose_refused h hslot hbody fun t ht => (bagCloseRule_checks ht).1 hstate,
    fun hbody hstate hnode => bagClose_refused h hslot hbody fun t ht => (bagCloseRule_checks ht).2.1 hstate hnode,
    fun hbody hacts hrejects => bagClose_refused h hslot hbody fun t ht => (bagCloseRule_checks ht).2.2 hacts.1 hacts.2 hrejects,
    fun before c after hbody hacts hrejects hsplit hbefore hc => ?_, fun b hbody hacts hrejects hfind hstate hsession hpasses => ?_⟩
  · exact bagClose_nothing h (bagCloseJob_malformed (f := { w.taken p with pair := none }) hbody (slot_setRx hslot))
  · have hclosed := bagClose_countLimit h hslot hbody hacts.1 hacts.2 hrejects (closeRefused_of_split hsplit hbefore hc)
    exact ⟨fun _ => hclosed.1 trivial, fun hn => absurd hacts hn⟩
  · obtain ⟨v, hv, hjob⟩ := bag_closed h hslot hbody hacts hrejects hfind hstate hsession (closeRefused_none.mpr hpasses) rfl rfl rfl
    refine job_yields (c := .bagClose) (isKind := isJob .bagClose) (fun _ _ => rfl) h (isJob_of_takenAs h) hjob fun u hu => ?_
    have hevent (e : Event) (hi : e.indirect = false) (he : e ≠ .dayChanged) := hu.event e hi he
    refine ⟨by rw [show u.sessions = v.sessions from hu.part .sessions]; exact hv.session, fun c => by rw [show u.stock = v.stock from hu.part .stock]; exact hv.stock c,
      by rw [show u.acc = v.acc from hu.part .acc]; exact hv.countedIn, fun hday => (findBag_of_leaves (hu.open hday).1).trans hv.bag,
      fun k => by rw [show u.drawers = v.drawers from hu.part .drawers]; exact hv.drawers k, fun g c => ?_, fun hcls => ?_, fun hfound => ?_, hu.answered⟩
    · unfold State.tally
      rw [show u.tallies = v.tallies from hu.part .tallies]
      exact hv.tallies g c
    · rw [hevent .bagVariance rfl (by decide)]
      exact hv.bagVariance hcls
    · rw [hevent .suspectFound rfl (by decide)]
      exact hv.suspectFound hfound

end Sys2Proof.Machine.Effects

/-! PROOF. The missed-window check reads ring, call, clock, second and its own event alone, and ANNOUNCE (R123, R125 to R127, R137). -/

namespace Sys2Proof.Machine.Effects

open Sys2Proof Sys2Proof.Machine Sys2Proof.Machine.Takings Sys2Proof.Machine.TallyCount

section
variable {s t u v : State} {p : Port} {w : Window} {id n : Nat} {i : Fin 16} {r : CallResult} {b : Bag} {code : Code} {d : Option Word32}

/-! ## What the missed-window check reads -/

/-- Two states that agree on what the check reads and, but for pins, writes. -/
structure MissedAlike (s t : State) : Prop where
  ring : s.ring = t.ring
  call : s.call = t.call
  clock : s.day.clock = t.day.clock
  seconds : s.seconds = t.seconds
  event : s.event .windowMissed = t.event .windowMissed

theorem headMissed_alike (h : MissedAlike s t) : headMissed s = headMissed t := by
  unfold headMissed State.head
  simp only [h.call, h.ring, h.clock]

theorem returnHead_alike (h : MissedAlike s t) : MissedAlike (returnHead s) (returnHead t) where
  ring := by
    show put s.ring s.call.next _ = put t.ring t.call.next _
    rw [h.ring, h.call, h.seconds]
  call := by
    show { s.call with next := s.call.next + 1, refused := 0 } = { t.call with next := t.call.next + 1, refused := 0 }
    rw [h.call]
  clock := h.clock
  seconds := h.seconds
  event := by rw [returnHead_event, returnHead_event, if_pos rfl, if_pos rfl, h.event, h.call]

theorem checkMissed_alike (k : Nat) (h : MissedAlike s t) : MissedAlike (checkMissed k s) (checkMissed k t) := by
  induction k generalizing s t with
  | zero => exact h
  | succ k ih =>
    unfold checkMissed
    rw [headMissed_alike h]
    split
    · exact ih (returnHead_alike h)
    · exact h

theorem missedCheck_alike (h : MissedAlike s t) : MissedAlike (missedCheck s) (missedCheck t) := checkMissed_alike 16 h

/-- A descriptor that is OFFICE's is not missed. -/
theorem missedCheck_office (s : State) (h : s.ring[i].owner = .office) : (missedCheck s).ring[i] = s.ring[i] := by
  obtain ⟨k, -, hk⟩ := checkMissed_returned 16 s
  refine hk.kept i fun j hj hi => ?_
  have howner := (hk.returned j hj).1
  rw [← hi, h] at howner
  cases howner

theorem missedCheck_call (s : State) : ∃ next, (missedCheck s).call = { s.call with next := next } ∨
    (missedCheck s).call = { s.call with next := next, refused := 0 } := by
  obtain ⟨k, -, hk⟩ := checkMissed_returned 16 s
  have hcall : (missedCheck s).call = _ := hk.call
  rw [hcall]
  split
  · exact ⟨s.call.next, .inl rfl⟩
  · exact ⟨_, .inr rfl⟩

theorem missedCheck_refused (h : s.call.refused = 0) : (missedCheck s).call.refused = 0 := by
  obtain ⟨next, hcall | hcall⟩ := missedCheck_call s <;> rw [hcall]
  exact h

theorem missedCheck_session (s : State) : (missedCheck s).call.phase = s.call.phase ∧ (missedCheck s).call.slot = s.call.slot ∧
    (missedCheck s).call.timer = s.call.timer := by
  obtain ⟨next, hcall | hcall⟩ := missedCheck_call s <;> rw [hcall] <;> exact ⟨rfl, rfl, rfl⟩

theorem missedCheck_event (s : State) (e : Event) (he : e ≠ .windowMissed := by decide) : (missedCheck s).event e = s.event e := by
  obtain ⟨k, -, hk⟩ := checkMissed_returned 16 s
  exact hk.events e he

theorem returnSlot_ring (i : Fin 16) (r : CallResult) (s : State) :
    (returnSlot i r s).ring = put s.ring i { s.ring[i] with owner := .office, result := r, second := some s.seconds } := rfl

theorem returnSlot_call (i : Fin 16) (r : CallResult) (s : State) : (returnSlot i r s).call = { s.call with next := s.call.next + 1, refused := 0 } := rfl

/-! ## ANNOUNCE by its branches (R125) -/

theorem head_setRx (s : State) (p : Port) (rx : Receiver) : (s.setRx p rx).head = s.head := by cases p <;> rfl

theorem announceRule_active (hphase : s.call.phase ≠ .idle) (hslot : s.call.slot = some i) :
    announceRule id s = (s, .verdict (if id = s.ring[i].courier then .duplicate else .sessionBusy) (num i.val)) := by
  unfold announceRule
  cases hp : s.call.phase <;> rw [hslot]
  exact absurd hp hphase

theorem announceRule_held (hphase : s.call.phase = .idle) (hheld : oldestHeld s = some b) :
    announceRule id s = (s, .verdict .hatchNotClear (num b.sealNo)) := by
  unfold announceRule
  rw [hphase, hheld]

/-- With no session and a clear hatch, the head decides. -/
theorem announceRule_clear (hphase : s.call.phase = .idle) (hheld : oldestHeld s = none) :
    (s.head.owner = .office → announceRule id s = (s, .verdict .noSession (nextDetail s))) ∧
    (s.head.owner ≠ .office → ¬(s.head.windowStart ≤ s.day.clock ∧ s.day.clock ≤ s.head.windowEnd) →
      announceRule id s = (s, .verdict .outOfWindow (num s.day.clock))) ∧
    (s.head.owner ≠ .office → s.head.windowStart ≤ s.day.clock ∧ s.day.clock ≤ s.head.windowEnd →
      (id ≠ s.head.courier → announceRule id s = refuseCourier s) ∧
      (id = s.head.courier → announceRule id s = (acceptCourier s, .verdict .accepted (num s.head.number)))) := by
  unfold announceRule
  rw [hphase, hheld]
  dsimp only
  refine ⟨fun howner => if_pos howner, fun howner hwindow => ?_, fun howner hwindow => ⟨fun hid => ?_, fun hid => ?_⟩⟩ <;> rw [if_neg howner]
  · exact if_pos hwindow
  · rw [if_neg (not_not.mpr hwindow)]
    exact if_pos hid
  · rw [if_neg (not_not.mpr hwindow)]
    exact if_neg (not_not.mpr hid)

theorem oldestHeld_none (h : ∀ b ∈ s.bags, b.state ≠ .hatchHeld) : oldestHeld s = none :=
  List.find?_eq_none.mpr fun b hb => by simpa using h b hb

theorem oldestHeld_split {before after : List Bag} (hsplit : s.bags = before ++ b :: after) (hb : b.state = .hatchHeld)
    (hbefore : ∀ x ∈ before, x.state ≠ .hatchHeld) : oldestHeld s = some b :=
  List.find?_eq_some_iff_append.mpr ⟨by simpa using hb, before, after, hsplit, fun x hx => by simpa using hbefore x hx⟩

theorem oldestHeld_setRx (s : State) (p : Port) (rx : Receiver) : oldestHeld (s.setRx p rx) = oldestHeld s := by
  unfold oldestHeld
  rw [State.setRx_bags]

theorem refuseCourier_cases (s : State) (h : s.call.refused < 9) :
    (s.call.refused + 1 < s.timing.courierLimit →
      refuseCourier s = (s.setCall { s.call with refused := s.call.refused + 1 }, .verdict .refusedCourier (num (s.call.refused + 1)))) ∧
    (s.timing.courierLimit ≤ s.call.refused + 1 →
      refuseCourier s = (missedCheck (raiseNum .handoverAborted s.call.next.val (returnSlot s.call.next .refusedCourier s)),
        .verdict .refusedCourier (num (s.call.refused + 1)))) := by
  have hcount : min 9 (s.call.refused + 1) = s.call.refused + 1 := by omega
  unfold refuseCourier
  dsimp only
  rw [hcount]
  exact ⟨fun hbelow => if_pos hbelow, fun hlimit => if_neg (not_lt.mpr hlimit)⟩

/-! ## The frame of an ANNOUNCE -/

theorem announceJob_parsed {f : Taken} (h : parseAnnounce f.frame.body = some id) : announceJob f s = announceRule id s := by
  unfold announceJob
  rw [h]

theorem announceJob_unparsed {f : Taken} (h : parseAnnounce f.frame.body = none) : announceJob f s = (s, .verdict .malformed none) := by
  unfold announceJob
  rw [h]

theorem announce_refused (h : TakenAs s p w .announce none) (hparse : parseAnnounce w.frame.body = some id)
    (hrule : announceRule id (s.setRx p .idle) = (s.setRx p .idle, .verdict code d)) : RefusedFrame .announce s p w code d :=
  refused_of_job (isKind := isJob .announce) (fun _ _ => rfl) h (isJob_of_takenAs h)
    ((announceJob_parsed (f := { w.taken p with pair := none }) hparse).trans hrule)

theorem announce_yields {P : State → Prop} {a : Answer} (h : TakenAs s p w .announce none) (hparse : parseAnnounce w.frame.body = some id)
    (hrule : announceRule id (s.setRx p .idle) = (v, a)) (hP : ∀ u, FrameDone s p w a v u → P u) : Yields (.announce p) s P :=
  job_yields (c := .announce) (isKind := isJob .announce) (fun _ _ => rfl) h (isJob_of_takenAs h)
    ((announceJob_parsed (f := { w.taken p with pair := none }) hparse).trans hrule) hP

/-- Every refusal of R125 but that of a wrong courier. -/
theorem announce_refusals (h : TakenAs s p w .announce none) :
    let refused := RefusedFrame .announce s p w
    (parseAnnounce w.frame.body = none → refused .malformed none) ∧
    ∀ id : Nat, parseAnnounce w.frame.body = some id →
      (∀ i, s.call.phase ≠ .idle → s.call.slot = some i →
        refused (if id = s.ring[i].courier then .duplicate else .sessionBusy) (num i.val)) ∧
      (s.call.phase = .idle →
        (∀ before b after, s.bags = before ++ b :: after → b.state = .hatchHeld → (∀ x ∈ before, x.state ≠ .hatchHeld) →
          refused .hatchNotClear (num b.sealNo)) ∧
        ((∀ b ∈ s.bags, b.state ≠ .hatchHeld) →
          (s.head.owner = .office → refused .noSession (num s.call.next.val)) ∧
          (s.head.owner = .part → s.day.clock < s.head.windowStart ∨ s.head.windowEnd < s.day.clock →
            refused .outOfWindow (num s.day.clock)))) := by
  intro refused
  have hcall : (s.setRx p .idle).call = s.call := State.setRx_call s p _
  have hday : (s.setRx p .idle).day = s.day := State.setRx_day s p _
  refine ⟨fun hparse => refused_of_job (isKind := isJob .announce) (fun _ _ => rfl) h (isJob_of_takenAs h)
    (announceJob_unparsed (f := { w.taken p with pair := none }) hparse), fun id hparse => ⟨fun i hphase hslot => ?_, fun hphase =>
      ⟨fun before b after hsplit hb hbefore => ?_, fun hclear => ⟨fun howner => ?_, fun howner hout => ?_⟩⟩⟩⟩
  · refine announce_refused h hparse ?_
    rw [announceRule_active (i := i) (by rw [hcall]; exact hphase) (by rw [hcall]; exact hslot), State.setRx_ring]
  · exact announce_refused h hparse (announceRule_held (by rw [hcall]; exact hphase) ((oldestHeld_setRx s p _).trans (oldestHeld_split hsplit hb hbefore)))
  · refine announce_refused h hparse ((announceRule_clear (by rw [hcall]; exact hphase) ((oldestHeld_setRx s p _).trans (oldestHeld_none hclear))).1
      (by rw [head_setRx]; exact howner) |>.trans ?_)
    unfold nextDetail
    rw [hcall]
  · have hwindow : ¬((s.setRx p .idle).head.windowStart ≤ (s.setRx p .idle).day.clock ∧ (s.setRx p .idle).day.clock ≤ (s.setRx p .idle).head.windowEnd) := by
      rw [head_setRx, hday]
      omega
    refine announce_refused h hparse ((announceRule_clear (by rw [hcall]; exact hphase) ((oldestHeld_setRx s p _).trans (oldestHeld_none hclear))).2.1
      (by rw [head_setRx, howner]; nofun) hwindow |>.trans ?_)
    rw [hday]

/-- An ANNOUNCE that finds the head PART's within its window, the hatch clear and no session. -/
theorem announce_window (hphase : s.call.phase = .idle) (hclear : ∀ b ∈ s.bags, b.state ≠ .hatchHeld) (howner : s.head.owner = .part)
    (hstart : s.head.windowStart ≤ s.day.clock) (hend : s.day.clock ≤ s.head.windowEnd) :
    (id ≠ s.head.courier → announceRule id (s.setRx p .idle) = refuseCourier (s.setRx p .idle)) ∧
    (id = s.head.courier → announceRule id (s.setRx p .idle) = (acceptCourier (s.setRx p .idle), .verdict .accepted (num s.head.number))) := by
  have hrule := (announceRule_clear (id := id) (s := s.setRx p .idle) (by rw [State.setRx_call]; exact hphase)
    ((oldestHeld_setRx s p _).trans (oldestHeld_none hclear))).2.2
  rw [head_setRx, State.setRx_day] at hrule
  exact hrule (by rw [howner]; nofun) ⟨hstart, hend⟩

theorem acceptCourier_session (s : State) : (acceptCourier s).call =
    { next := s.call.next, refused := 0, slot := some s.call.next
      phase := if s.head.outbound = [] then .signing else .exchange
      timer := some (s.seconds + if s.head.outbound = [] then s.timing.signTimeout else s.timing.exchangeTimeout) } := by
  unfold acceptCourier
  by_cases h : s.head.outbound = [] <;> simp only [h, if_true, if_false] <;> rfl

theorem courier_accepted (h : TakenAs s p w .announce none) (hphase : s.call.phase = .idle) (hclear : ∀ b ∈ s.bags, b.state ≠ .hatchHeld)
    (howner : s.head.owner = .part) (hstart : s.head.windowStart ≤ s.day.clock) (hend : s.day.clock ≤ s.head.windowEnd)
    (hparse : parseAnnounce w.frame.body = some s.head.courier) : Yields (.announce p) s fun u =>
      u.call = { next := s.call.next, refused := 0, slot := some s.call.next
                 phase := if s.head.outbound = [] then .signing else .exchange
                 timer := some (s.seconds + if s.head.outbound = [] then s.timing.signTimeout else s.timing.exchangeTimeout) } ∧ u.ring = s.ring ∧
      Answered s u p w .accepted (num s.head.number) := by
  have hrule := (announce_window (p := p) hphase hclear howner hstart hend).2 rfl
  have hcall := acceptCourier_session (s.setRx p .idle)
  have hring : (acceptCourier (s.setRx p .idle)).ring = s.ring := (acceptCourier_leaves (s.setRx p .idle) .ring (by decide)).trans (State.setRx_ring s p _)
  rw [head_setRx, State.setRx_call, State.setRx_seconds, State.setRx_timing] at hcall
  generalize acceptCourier (s.setRx p .idle) = v at hrule hcall hring
  refine announce_yields h hparse hrule fun u hu => ⟨?_, ?_, hu.answered⟩
  · rw [show u.call = v.call from hu.part .call, hcall]
  · rw [show u.ring = v.ring from hu.part .ring, hring]

/-- The head given back with a result, and the pointer moved on. -/
def givenBack (r : CallResult) (s : State) : State :=
  (s.setRing (put s.ring s.call.next { s.head with owner := .office, result := r, second := some s.seconds })).setCall
    { s.call with next := s.call.next + 1, refused := 0 }

/-- A wrong courier at the limit: the head goes back, its abort is raised, and the heads behind it are checked (R126, R137). -/
theorem wrongCourier_limit (hv : missedCheck (raiseNum .handoverAborted s.call.next.val (returnSlot s.call.next .refusedCourier (s.setRx p .idle))) = v) :
    (v.ring[s.call.next].owner = .office ∧ v.ring[s.call.next].result = .refusedCourier ∧ v.call.refused = 0) ∧
    v.event .handoverAborted = raisedIf true .handoverAborted s.call.next.val s ∧
    v.ring = (missedCheck (givenBack .refusedCourier s)).ring ∧ v.call = (missedCheck (givenBack .refusedCourier s)).call ∧
    v.event .windowMissed = (missedCheck (givenBack .refusedCourier s)).event .windowMissed := by
  have hraised (e : Event) := raise_event .handoverAborted e (BitVec.ofNat 32 s.call.next.val) (returnSlot s.call.next .refusedCourier (s.setRx p .idle))
  have hevent (e : Event) : (returnSlot s.call.next .refusedCourier (s.setRx p .idle)).event e = s.event e := State.event_setRx s p .idle e
  have halike : MissedAlike (raiseNum .handoverAborted s.call.next.val (returnSlot s.call.next .refusedCourier (s.setRx p .idle))) (givenBack .refusedCourier s) :=
    ⟨by cases p <;> rfl, by cases p <;> rfl, by cases p <;> rfl, by cases p <;> rfl, (hraised .windowMissed).trans ((if_neg (by decide)).trans (hevent _))⟩
  have hmissed := missedCheck_alike halike
  have habort : v.event .handoverAborted = raisedIf true .handoverAborted s.call.next.val s := by
    rw [← hv, missedCheck_event _ .handoverAborted]
    refine (hraised .handoverAborted).trans ((if_pos rfl).trans ?_)
    rw [hevent]
    rfl
  rw [hv] at hmissed
  have hhead : (givenBack .refusedCourier s).ring[s.call.next] = { s.head with owner := .office, result := .refusedCourier, second := some s.seconds } :=
    (put_get _ _ _ _).trans (if_pos rfl)
  have hrow : v.ring[s.call.next] = { s.head with owner := .office, result := .refusedCourier, second := some s.seconds } := by
    rw [hmissed.ring, missedCheck_office _ (by rw [hhead]), hhead]
  refine ⟨⟨by rw [hrow], by rw [hrow], ?_⟩, habort, hmissed.ring, hmissed.call, hmissed.event⟩
  rw [hmissed.call]
  exact missedCheck_refused rfl

theorem courier_refused (h : TakenAs s p w .announce none) (hphase : s.call.phase = .idle) (hclear : ∀ b ∈ s.bags, b.state ≠ .hatchHeld)
    (howner : s.head.owner = .part) (hstart : s.head.windowStart ≤ s.day.clock) (hend : s.day.clock ≤ s.head.windowEnd)
    (hparse : parseAnnounce w.frame.body = some id) (hid : id ≠ s.head.courier) (hcount : s.call.refused < 9) : Yields (.announce p) s fun u =>
      (s.call.refused + 1 < s.timing.courierLimit → u.call = { s.call with refused := s.call.refused + 1 } ∧ u.ring = s.ring) ∧
      (s.timing.courierLimit ≤ s.call.refused + 1 →
        (u.ring[s.call.next].owner = .office ∧ u.ring[s.call.next].result = .refusedCourier ∧ u.call.refused = 0) ∧
        u.event .handoverAborted = raisedIf true .handoverAborted s.call.next.val s ∧
        u.ring = (missedCheck (givenBack .refusedCourier s)).ring ∧ u.call = (missedCheck (givenBack .refusedCourier s)).call ∧
        u.event .windowMissed = (missedCheck (givenBack .refusedCourier s)).event .windowMissed) ∧
      Answered s u p w .refusedCourier (num (s.call.refused + 1)) := by
  have hrule := (announce_window (id := id) (p := p) hphase hclear howner hstart hend).1 hid
  have hcases := refuseCourier_cases (s.setRx p .idle) (by rw [State.setRx_call]; exact hcount)
  rw [State.setRx_call, State.setRx_timing] at hcases
  by_cases hlimit : s.call.refused + 1 < s.timing.courierLimit
  · refine announce_yields h hparse (hrule.trans (hcases.1 hlimit)) fun u hu =>
      ⟨fun _ => ⟨hu.part .call, ?_⟩, fun h => absurd hlimit (not_lt.mpr h), hu.answered⟩
    rw [show u.ring = _ from hu.part .ring]
    exact State.setRx_ring s p _
  · have hrule := hrule.trans (hcases.2 (not_lt.mp hlimit))
    obtain ⟨v, hv⟩ : ∃ v, missedCheck (raiseNum .handoverAborted s.call.next.val (returnSlot s.call.next .refusedCourier (s.setRx p .idle))) = v := ⟨_, rfl⟩
    have hback := wrongCourier_limit hv
    rw [hv] at hrule
    refine announce_yields h hparse hrule fun u hu => ⟨fun h => absurd h hlimit, fun _ => ?_, hu.answered⟩
    rw [show u.ring = v.ring from hu.part .ring, show u.call = v.call from hu.part .call, hu.event .handoverAborted, hu.event .windowMissed]
    exact hback

end

end Sys2Proof.Machine.Effects

/-! PROOF. LOAD and RECEIVE of a call (R129, R130). -/

namespace Sys2Proof.Machine.Effects

open Sys2Proof Sys2Proof.Machine Sys2Proof.Machine.Takings Sys2Proof.Machine.TallyCount

section
variable {s t u v : State} {p : Port} {w : Window} {n value : Nat} {i : Fin 16} {b b' : Bag} {code : Code} {d : Option Word32}

/-! ## The session's slot and its bags -/

theorem activeSlot_of (hphase : s.call.phase ≠ .idle) (hslot : s.call.slot = some i) : s.activeSlot = some i := (if_neg hphase).trans hslot

theorem activeSlot_idle (hphase : s.call.phase = .idle) : s.activeSlot = none := if_pos hphase

theorem activeSlot_setRx (s : State) (p : Port) (rx : Receiver) : (s.setRx p rx).activeSlot = s.activeSlot := by cases p <;> rfl

theorem nextDetail_setRx (s : State) (p : Port) (rx : Receiver) : nextDetail (s.setRx p rx) = num s.call.next.val := by cases p <;> rfl

theorem bagIn_congr (h : t.bags = s.bags) (st : BagState) : bagIn t n st = bagIn s n st := by
  unfold bagIn
  rw [findBag_congr h]

theorem unloaded_congr (h : t.bags = s.bags) (x : Descriptor) : unloaded t x = unloaded s x := by
  have hbag (m : Nat) : bagIn t m .loaded = bagIn s m .loaded := bagIn_congr h _
  unfold unloaded
  simp only [hbag]

theorem unloaded_zero {x : Descriptor} : unloaded s x = 0 ↔ ∀ m ∈ x.outbound, bagIn s m .loaded = true := by
  unfold unloaded
  rw [List.length_eq_zero_iff, List.filter_eq_nil_iff]
  simp

/-! ## LOAD (R129) -/

theorem loadRule_idle (h : s.activeSlot = none) : loadRule n s = (s, .verdict .noSession (nextDetail s)) := by
  unfold loadRule
  rw [h]

/-- A LOAD in a session, by the slot's list and the register. -/
theorem loadRule_active (h : s.activeSlot = some i) :
    (n ∉ s.ring[i].outbound → loadRule n s = (s, .verdict .notInConsignment (num n))) ∧
    (n ∈ s.ring[i].outbound →
      (bagIn s n .loaded = true → loadRule n s = (s, .verdict .duplicate (num (unloaded s s.ring[i])))) ∧
      (bagIn s n .loaded ≠ true →
        (∀ c, transition n (moveLoad s.seconds) s = .error c → loadRule n s = (s, .verdict c (num n))) ∧
        (∀ t, transition n (moveLoad s.seconds) s = .ok t → loadRule n s = (afterLoad i t, .verdict .accepted (num (unloaded t t.ring[i])))))) := by
  unfold loadRule
  rw [h]
  dsimp only
  refine ⟨fun hn => if_pos (by simpa using hn), fun hn => ⟨fun hloaded => ?_, fun hloaded => ⟨fun c hc => ?_, fun t ht => ?_⟩⟩⟩ <;>
    rw [if_neg (by simpa using hn)]
  · exact if_pos hloaded
  · rw [if_neg hloaded, hc]
  · rw [if_neg hloaded, ht]

theorem transition_unknown {move : Bag → Except Code Bag} (h : findBag s n = none) : transition n move s = .error .unknownBag := by
  unfold transition
  rw [h]

theorem transition_error {move : Bag → Except Code Bag} (h : findBag s n = some b) (hmove : move b = .error code) : transition n move s = .error code := by
  unfold transition
  rw [h]
  dsimp only
  rw [hmove]

theorem transition_moved {move : Bag → Except Code Bag} (h : findBag s n = some b) (hmove : move b = .ok b') :
    transition n move s = .ok (changeBag n (fun _ => b') s) := by
  unfold transition
  rw [h]
  dsimp only
  rw [hmove]

theorem loadJob_parsed {f : Taken} (h : parseSeal f.frame.body = some n) : loadJob f s = loadRule n s := by
  unfold loadJob
  rw [h]

theorem loadJob_unparsed {f : Taken} (h : parseSeal f.frame.body = none) : loadJob f s = (s, .verdict .malformed none) := by
  unfold loadJob
  rw [h]

theorem load_refused (h : TakenAs s p w .load none) (hparse : parseSeal w.frame.body = some n)
    (hrule : loadRule n (s.setRx p .idle) = (s.setRx p .idle, .verdict code d)) : RefusedFrame .load s p w code d :=
  refused_of_job (isKind := isJob .load) (fun _ _ => rfl) h (isJob_of_takenAs h) ((loadJob_parsed (f := { w.taken p with pair := none }) hparse).trans hrule)

theorem bagIn_of {st : BagState} (h : findBag s n = some b) : bagIn s n st = decide (b.state = st) := by
  unfold bagIn
  rw [h]

theorem bagIn_missing {st : BagState} (h : findBag s n = none) : bagIn s n st = false := by
  unfold bagIn
  rw [h]

/-- What LOAD is refused for. -/
theorem load_refusals (h : TakenAs s p w .load none) :
    let refused := RefusedFrame .load s p w
    (parseSeal w.frame.body = none → refused .malformed none) ∧
    ∀ n : Nat, parseSeal w.frame.body = some n →
      (s.call.phase = .idle → refused .noSession (num s.call.next.val)) ∧
      ∀ i, s.call.phase ≠ .idle → s.call.slot = some i →
        (n ∉ s.ring[i].outbound → refused .notInConsignment (num n)) ∧
        (n ∈ s.ring[i].outbound →
          (bagIn s n .loaded = true →
            refused .duplicate (num (s.ring[i].outbound.filter fun m => !bagIn s m .loaded).length)) ∧
          (findBag s n = none → refused .unknownBag (num n)) ∧
          (∀ b, findBag s n = some b → b.state ≠ .loaded → b.state ≠ .inHandling → refused .wrongBagState (num n))) := by
  intro refused
  refine ⟨fun hparse => refused_of_job (isKind := isJob .load) (fun _ _ => rfl) h (isJob_of_takenAs h)
    (loadJob_unparsed (f := { w.taken p with pair := none }) hparse), fun n hparse => ⟨fun hidle => ?_, fun i hphase hslot => ?_⟩⟩
  · refine load_refused h hparse ((loadRule_idle ((activeSlot_setRx s p _).trans (activeSlot_idle hidle))).trans ?_)
    rw [nextDetail_setRx]
  have hactive := loadRule_active (n := n) ((activeSlot_setRx s p .idle).trans (activeSlot_of hphase hslot))
  have hbags : (s.setRx p .idle).bags = s.bags := State.setRx_bags s p _
  rw [State.setRx_ring, bagIn_congr hbags, unloaded_congr hbags] at hactive
  refine ⟨fun hn => load_refused h hparse (hactive.1 hn), fun hn => ⟨fun hloaded => load_refused h hparse ((hactive.2 hn).1 hloaded), fun hfind => ?_,
    fun b hfind hloaded hhandling => ?_⟩⟩
  · exact load_refused h hparse (((hactive.2 hn).2 (by rw [bagIn_missing hfind]; nofun)).1 _ (transition_unknown (find_setRx hfind)))
  · refine load_refused h hparse (((hactive.2 hn).2 (by rw [bagIn_of hfind]; simpa using hloaded)).1 _ (transition_error (find_setRx hfind) ?_))
    exact if_neg hhandling

theorem loaded_row (h : TakenAs s p w .load none) (hphase : s.call.phase ≠ .idle) (hslot : s.call.slot = some i)
    (hparse : parseSeal w.frame.body = some n) (hn : n ∈ s.ring[i].outbound) (hfind : findBag s n = some b) (hhandling : b.state = .inHandling) :
    Yields (.load p) s fun u =>
      findBag u n = some { b with state := .loaded, entered := s.seconds } ∧ u.ring = s.ring ∧
      ((∀ m ∈ s.ring[i].outbound, bagIn u m .loaded = true) → u.call.phase = .signing ∧
        u.call.timer = some (s.seconds + s.timing.signTimeout)) ∧
      (¬(∀ m ∈ s.ring[i].outbound, bagIn u m .loaded = true) → u.call = s.call) ∧
      Answered s u p w .accepted (num (s.ring[i].outbound.filter fun m => !bagIn u m .loaded).length) := by
  have hactive := loadRule_active (n := n) ((activeSlot_setRx s p .idle).trans (activeSlot_of hphase hslot))
  have hbags : (s.setRx p .idle).bags = s.bags := State.setRx_bags s p _
  rw [State.setRx_ring, bagIn_congr hbags] at hactive
  have hmove : moveLoad (s.setRx p .idle).seconds b = .ok { b with state := .loaded, entered := s.seconds } := by
    rw [State.setRx_seconds]
    exact if_pos hhandling
  have hrule := ((hactive.2 hn).2 (by rw [bagIn_of hfind, hhandling]; decide)).2 _ (transition_moved (find_setRx hfind) hmove)
  have hmoved := findBag_moved (n := n) (b' := { b with state := .loaded, entered := s.seconds }) (find_setRx (p := p) hfind) rfl
  rw [if_pos rfl] at hmoved
  have hleaves : unchangedBut [.bags, Part.ofPort p] s (changeBag n (fun _ => { b with state := .loaded, entered := s.seconds }) (s.setRx p .idle)) :=
    unchangedBut_mono (unchangedBut_trans (setRx_leaves p .idle s) (changeBag_leaves _ _ _)) (by cases p <;> decide)
  generalize changeBag n (fun _ => { b with state := .loaded, entered := s.seconds }) (s.setRx p .idle) = t at hrule hmoved hleaves
  have hring : t.ring = s.ring := hleaves .ring (by cases p <;> decide)
  have hcall : t.call = s.call := hleaves .call (by cases p <;> decide)
  have hafter := afterLoad_leaves i t
  have hsigning : (unloaded t s.ring[i] = 0 → (afterLoad i t).call.phase = .signing ∧ (afterLoad i t).call.timer = some (s.seconds + s.timing.signTimeout)) ∧
      (unloaded t s.ring[i] ≠ 0 → (afterLoad i t).call = s.call) := by
    unfold afterLoad
    rw [hring]
    refine ⟨fun hzero => ?_, fun hsome => ?_⟩
    · rw [if_pos hzero]
      refine ⟨rfl, ?_⟩
      show some (t.seconds + t.timing.signTimeout) = _
      rw [show t.seconds = s.seconds from hleaves .seconds (by cases p <;> decide), show t.timing = s.timing from hleaves .timing (by cases p <;> decide)]
    · rw [if_neg hsome, hcall]
  rw [hring] at hrule
  generalize afterLoad i t = v at hrule hafter hsigning
  have hbusy : v.call.phase ≠ .idle := by
    by_cases hzero : unloaded t s.ring[i] = 0
    · rw [(hsigning.1 hzero).1]
      nofun
    · rw [hsigning.2 hzero]
      exact hphase
  refine job_yields (c := .load) (isKind := isJob .load) (fun _ _ => rfl) h (isJob_of_takenAs h)
    ((loadJob_parsed (f := { w.taken p with pair := none }) hparse).trans hrule) fun u hu => ?_
  have hend : u.bags = t.bags := ((hu.calling hbusy).1 .bags (by decide)).trans (hafter .bags (by decide))
  have hall : (∀ m ∈ s.ring[i].outbound, bagIn u m .loaded = true) ↔ unloaded t s.ring[i] = 0 := by
    rw [← unloaded_congr hend, unloaded_zero]
  rw [show u.call = v.call from hu.part .call, show u.ring = v.ring from hu.part .ring, show v.ring = t.ring from hafter .ring (by decide), hall]
  refine ⟨(findBag_congr hend n).trans hmoved, hring, hsigning.1, hsigning.2, ?_⟩
  have hanswered := hu.answered
  rw [← unloaded_congr hend] at hanswered
  exact hanswered

/-! ## RECEIVE (R130) -/

/-- The seal stands among those received, with an INBOUND record of that value. -/
def ReceivedAgain (s : State) (i : Fin 16) (n value : Nat) : Prop :=
  n ∈ s.ring[i].received ∧ ∃ b, findBag s n = some b ∧ b.kind = .inbound ∧ b.declared = value

theorem receivedAlready_iff : receivedAlready s s.ring[i] n value = true ↔ ReceivedAgain s i n value := by
  unfold receivedAlready ReceivedAgain
  cases hfind : findBag s n <;> simp

theorem receiveRule_idle (h : s.activeSlot = none) : receiveRule n value s = (s, .verdict .noSession (nextDetail s)) := by
  unfold receiveRule
  rw [h]

/-- A RECEIVE in a session, by the slot's list and the register. -/
theorem receiveRule_active (h : s.activeSlot = some i) :
    (ReceivedAgain s i n value → receiveRule n value s = (s, .verdict .duplicate (num s.ring[i].received.length))) ∧
    (¬ReceivedAgain s i n value → 12 ≤ s.ring[i].received.length → receiveRule n value s = (s, .verdict .inboundFull (num 12))) ∧
    (¬ReceivedAgain s i n value → s.ring[i].received.length < 12 →
      (∀ c, createCheck s n value = some c → receiveRule n value s = (s, .verdict c (num n))) ∧
      (createCheck s n value = none → receiveRule n value s =
        (setSlot i { s.ring[i] with received := s.ring[i].received ++ [n] } (addBag (newBag s .inbound .received n value none none none) s),
          .verdict .accepted (num (s.ring[i].received.length + 1))))) := by
  unfold receiveRule
  rw [h]
  dsimp only
  refine ⟨fun hagain => if_pos (receivedAlready_iff.mpr hagain), fun hnew hfull => ?_, fun hnew hroom => ⟨fun c hc => ?_, fun hc => ?_⟩⟩ <;>
    rw [if_neg fun hagain => hnew (receivedAlready_iff.mp hagain)]
  · exact if_pos hfull
  · rw [if_neg (show ¬Config.consignmentSeals ≤ _ from not_le.mpr hroom), hc]
  · rw [if_neg (show ¬Config.consignmentSeals ≤ _ from not_le.mpr hroom), hc]

theorem receivedAgain_setRx (s : State) (p : Port) (rx : Receiver) : ReceivedAgain (s.setRx p rx) i n value ↔ ReceivedAgain s i n value := by
  unfold ReceivedAgain
  rw [findBag_setRx, State.setRx_ring]

theorem receiveJob_parsed {f : Taken} (h : parseReceive f.frame.body = some (n, value)) : receiveJob f s = receiveRule n value s := by
  unfold receiveJob
  rw [h]

theorem receiveJob_unparsed {f : Taken} (h : parseReceive f.frame.body = none) : receiveJob f s = (s, .verdict .malformed none) := by
  unfold receiveJob
  rw [h]

theorem receive_refused (h : TakenAs s p w .receive none) (hparse : parseReceive w.frame.body = some (n, value))
    (hrule : receiveRule n value (s.setRx p .idle) = (s.setRx p .idle, .verdict code d)) : RefusedFrame .receive s p w code d :=
  refused_of_job (isKind := isJob .receive) (fun _ _ => rfl) h (isJob_of_takenAs h)
    ((receiveJob_parsed (f := { w.taken p with pair := none }) hparse).trans hrule)

/-- What RECEIVE is refused for. -/
theorem receive_refusals (h : TakenAs s p w .receive none) :
    let refused := RefusedFrame .receive s p w
    (parseReceive w.frame.body = none → refused .malformed none) ∧
    ∀ n v : Nat, parseReceive w.frame.body = some (n, v) →
      (s.call.phase = .idle → refused .noSession (num s.call.next.val)) ∧
      ∀ i, s.call.phase ≠ .idle → s.call.slot = some i →
        (ReceivedAgain s i n v → refused .duplicate (num s.ring[i].received.length)) ∧
        (¬ReceivedAgain s i n v → 12 ≤ s.ring[i].received.length → refused .inboundFull (num 12)) ∧
        (¬ReceivedAgain s i n v → s.ring[i].received.length < 12 → ∀ code, CreateRefused s n v code → refused code (num n)) := by
  intro refused
  refine ⟨fun hparse => refused_of_job (isKind := isJob .receive) (fun _ _ => rfl) h (isJob_of_takenAs h)
    (receiveJob_unparsed (f := { w.taken p with pair := none }) hparse), fun n v hparse => ⟨fun hidle => ?_, fun i hphase hslot => ?_⟩⟩
  · refine receive_refused h hparse ((receiveRule_idle ((activeSlot_setRx s p _).trans (activeSlot_idle hidle))).trans ?_)
    rw [nextDetail_setRx]
  obtain ⟨hagain, hfull, hcheck⟩ := receiveRule_active (n := n) (value := v) ((activeSlot_setRx s p .idle).trans (activeSlot_of hphase hslot))
  rw [receivedAgain_setRx, State.setRx_ring] at hagain hfull hcheck
  exact ⟨fun ha => receive_refused h hparse (hagain ha), fun hnew hlen => receive_refused h hparse (hfull hnew hlen),
    fun hnew hlen code hrefused => receive_refused h hparse ((hcheck hnew hlen).1 code (createRefused_setRx hrefused))⟩

theorem received_row (h : TakenAs s p w .receive none) (hphase : s.call.phase ≠ .idle) (hslot : s.call.slot = some i)
    (hparse : parseReceive w.frame.body = some (n, value)) (hroom : s.ring[i].received.length < 12) (hnew : Creatable s n value) :
    Yields (.receive p) s fun u =>
      findBag u n = some (newBag s .inbound .received n value none none none) ∧
      u.ring = put s.ring i { s.ring[i] with received := s.ring[i].received ++ [n] } ∧ u.call = s.call ∧
      Answered s u p w .accepted (num (s.ring[i].received.length + 1)) := by
  have hfresh : findBag s n = none := hnew.2.2.2.1
  have hcheck := (receiveRule_active (n := n) (value := value) ((activeSlot_setRx s p .idle).trans (activeSlot_of hphase hslot))).2.2
  rw [receivedAgain_setRx, State.setRx_ring] at hcheck
  have hrule := (hcheck (fun hagain => by
    obtain ⟨-, b, hb, -⟩ := hagain
    rw [hfresh] at hb
    cases hb) hroom).2 (creatable_setRx hnew)
  rw [newBag_setRx] at hrule
  have hbag := (findBag_addBag (b := newBag s .inbound .received n value none none none) (s := s.setRx p .idle) (find_setRx hfresh) n).trans (if_pos rfl)
  have hleaves : unchangedBut [.bags, Part.ofPort p] s (addBag (newBag s .inbound .received n value none none none) (s.setRx p .idle)) :=
    unchangedBut_mono (unchangedBut_trans (setRx_leaves p .idle s) (addBag_leaves _ _)) (by cases p <;> decide)
  generalize addBag (newBag s .inbound .received n value none none none) (s.setRx p .idle) = t at hrule hbag hleaves
  have hset := setSlot_leaves i { s.ring[i] with received := s.ring[i].received ++ [n] } t
  have hring : (setSlot i { s.ring[i] with received := s.ring[i].received ++ [n] } t).ring = put s.ring i { s.ring[i] with received := s.ring[i].received ++ [n] } := by
    show put t.ring i _ = _
    rw [show t.ring = s.ring from hleaves .ring (by cases p <;> decide)]
  generalize setSlot i { s.ring[i] with received := s.ring[i].received ++ [n] } t = v at hrule hset hring
  have hcall : v.call = s.call := (hset .call (by decide)).trans (hleaves .call (by cases p <;> decide))
  refine job_yields (c := .receive) (isKind := isJob .receive) (fun _ _ => rfl) h (isJob_of_takenAs h)
    ((receiveJob_parsed (f := { w.taken p with pair := none }) hparse).trans hrule) fun u hu => ⟨?_, ?_, ?_, hu.answered⟩
  · rw [findBag_of_leaves (hu.calling (by rw [hcall]; exact hphase)).1, findBag_of_leaves hset, hbag]
  · rw [show u.ring = v.ring from hu.part .ring, hring]
  · rw [show u.call = v.call from hu.part .call, hcall]

end

/-- Settles O45: each frame by the branches of its rule. -/
theorem callFrames : Obligations.CallFrames := by
  unfold Obligations.CallFrames
  refine fun p s w => ⟨courier_accepted, fun id h hphase hclear howner hstart hend hparse hid hcount => ?_, announce_refusals, load_refusals, fun h => ?_,
    fun i n b => loaded_row, fun i n v => received_row⟩
  · obtain ⟨u, hu, hbelow, hlimit, hanswered⟩ := courier_refused h hphase hclear howner hstart hend hparse hid hcount
    refine ⟨u, hu, hbelow, fun hreached => ?_, hanswered⟩
    obtain ⟨⟨how, hresult, hrefused⟩, habort, hring, hcall, hevent⟩ := hlimit hreached
    exact ⟨how, hresult, hrefused, habort, hring, hcall, hevent⟩
  · obtain ⟨hmalformed, hparsed⟩ := receive_refusals h
    refine ⟨hmalformed, fun n v hparse => ⟨(hparsed n v hparse).1, fun i hphase hslot => ?_⟩⟩
    obtain ⟨hagain, hfull, hcreate⟩ := (hparsed n v hparse).2 i hphase hslot
    refine ⟨hagain, hfull, fun hnew hroom => ⟨fun hz => ?_, fun hn hv => ?_, fun hn h0 htop hfind => ?_, fun hn h0 htop hfind hlen => ?_⟩⟩
    all_goals refine hcreate hnew hroom _ ?_
    · exact .inl ⟨rfl, hz⟩
    · exact .inr (.inl ⟨rfl, hn, hv⟩)
    · exact .inr (.inr ⟨hn, h0, htop, .inl ⟨rfl, hfind⟩⟩)
    · exact .inr (.inr ⟨hn, h0, htop, .inr ⟨rfl, hfind, hlen⟩⟩)

end Sys2Proof.Machine.Effects

/-! PROOF. The end of a taking that frees no place, and the expiries of the lock and the count sessions (R87, R93, R94, R103). -/

namespace Sys2Proof.Machine.Effects

open Sys2Proof Sys2Proof.Machine Sys2Proof.Machine.Takings Sys2Proof.Machine.TallyCount

section
variable {s t u v s' : State} {n : Nat} {b b' : Bag} {x : Fin 4}

/-! ## The end of a taking that frees no place -/

/-- What the end of a taking leaves of the state `s'` that its work made: the indirect events, the vector and a close that completes apart, all of it. -/
structure WorkDone (s' u : State) : Prop where
  parts : unchangedBut ([.bags, .day, .events] ++ Part.eventParts) s' u
  raises : eventsBut [.dayChanged] s' u
  bags : ∀ n b, findBag s' n = some b → b.state.terminal = false → findBag u n = some b
  unclosed : s'.day.state ≠ .closing ∨ closingConditions s' = false → u.bags = s'.bags ∧ u.day = s'.day ∧ eventsBut [] s' u
  settled : Settled u

theorem WorkDone.part (h : WorkDone s' u) (p : Part) (hp : p ∉ [.bags, .day, .events] ++ Part.eventParts := by decide) : p.same s' u := h.parts p hp

theorem eventsBut_event {ex : List Event} {e : Event} (h : eventsBut ex s u) (he : e ∉ ex) (hi : e.indirect = false) : u.event e = s.event e := by
  obtain ⟨hdetail, hcount, hpending⟩ := h.2 e he
  have henable := h.1 e
  have hpending := hpending hi
  cases hu : u.event e
  cases hs : s.event e
  rw [hu, hs] at hdetail hcount henable hpending
  simp_all

theorem WorkDone.event {e : Event} (h : WorkDone s' u) (hi : e.indirect = false := by rfl) (he : e ≠ .dayChanged := by decide) : u.event e = s'.event e :=
  eventsBut_event h.raises (by simpa using he) hi

/-- A taking that frees no place a command or a SEND waits for ends with the closing test and the events alone (R145, R181, R183). -/
theorem workDone_settle (hcommand : commandPlaceable s' = true → commandPlaceable s = true)
    (hwaiting : waitingPlaceable s' = true → waitingPlaceable s = true) : WorkDone s' (settle s s') := by
  rw [settle_tested hcommand hwaiting]
  have hend := settleEvents_leaves (testReports s s')
  exact
  { parts := unchangedBut_trans (testReports_leaves s s') hend
    raises := eventsBut_mono (eventsBut_trans (testReports_events s s') (settleEvents_events _)) (by simp)
    bags := fun n b hb ht => by
      rw [findBag_congr (hend .bags (by decide))]
      exact testReports_find hb ht
    unclosed := fun hopen => by
      have hsame : testReports s s' = s' := by
        rcases testReports_spec s s' with he | ⟨hday, hconditions, -⟩
        · exact he
        · rcases hopen with h | h
          · exact absurd hday h
          · rw [hconditions] at h
            cases h
      rw [hsame] at hend ⊢
      exact ⟨hend .bags (by decide), hend .day (by decide), settleEvents_events _⟩
    settled := settleEvents_settled _ }

/-- A taking whose work leaves trunk, port places and nodes frees no place. -/
theorem workDone_quiet {ex : List Part} (h : unchangedBut ex s s') (howed : s'.safe.owed = true → s.safe.owed = true)
    (hex : ∀ b ∈ [Part.floor, .room, .trunk, .nodes], b ∉ ex := by decide) : WorkDone s' (settle s s') := by
  have hroom : s'.room = s.room := h .room (hex _ (by decide))
  have hnodes : s'.nodes = s.nodes := h .nodes (hex _ (by decide))
  have htrunk : s'.trunk = s.trunk := h .trunk (hex _ (by decide))
  refine workDone_settle (fun hc => ?_) fun hw => ?_
  · unfold commandPlaceable safeNode at hc ⊢
    rw [hroom, hnodes] at hc
    simp only [Bool.and_eq_true] at hc ⊢
    exact ⟨⟨howed hc.1.1, hc.1.2⟩, hc.2⟩
  · rwa [waitingPlaceable_congr (by rw [htrunk]) (by rw [htrunk]) (by rw [h .floor (hex _ (by decide))]) (by rw [hroom]) hnodes] at hw

theorem takingIf_yields {c : Instr} {applies : Bool} {f : State → State} {P : State → Prop} (hc : exec c s = takingIf applies f s) (happlies : applies = true)
    (hP : P (settle s (f s))) : Yields c s P :=
  ⟨_, hc.trans (takingIf_true happlies), hP⟩

theorem expired_of {d : Nat} {timer : Option Nat} (hd : d ≤ s.seconds) (h : timer = some d) : expired s timer = true := by
  rw [h]
  exact decide_eq_true hd

/-! ## The lock (R87, R94) -/

theorem commandSafe_done (c : BoltCommand) (s : State) : commandPlaceable (commandSafe c s) = false := placeSafeCommand_done _

/-- Where a command goes that a taking's work commands the bolt with (R93). -/
theorem commandGoes_of {x : BoltCommand} (hsafe : u.safe = (commandSafe x v).safe) (hroom : u.room = (commandSafe x v).room)
    (hout : v.room.out = s.room.out) (hnodes : v.nodes = s.nodes) : CommandGoes s u s.room.out x := by
  obtain ⟨hcommanded, hplaced, howed⟩ := commandSafe_places x v
  have hnode (b : Byte) : LowestSafeNode v b ↔ LowestSafeNode s b := by
    unfold LowestSafeNode
    rw [hnodes]
  rw [hout] at hplaced howed
  rw [CommandGoes, hsafe, hroom]
  refine ⟨hcommanded, fun b hfree hb => ?_, fun hnot => ?_⟩
  · obtain ⟨ho, hf⟩ := hplaced b hfree ((hnode b).mpr hb)
    exact ⟨ho, [], hf, nofun⟩
  · obtain ⟨ho, hf⟩ := howed (hnot.imp id fun h b hb => h b ((hnode b).mp hb))
    exact ⟨ho, [], hf.trans (List.append_nil _).symm, nofun⟩

theorem delay_expires {d : Nat} (hd : d ≤ s.seconds) (htimer : s.safe.timer = some d) (hlock : s.safe.lock = .delay) : Yields .delayExpiry s fun u =>
    u.safe.lock = .window ∧ u.safe.timer = some (s.seconds + s.timing.openWindow) ∧ u.safe.failed = s.safe.failed := by
  refine takingIf_yields rfl (by rw [hlock, expired_of hd htimer]; rfl) ?_
  have hdone : WorkDone (delayExpired s) (settle s (delayExpired s)) := workDone_quiet (setSafe_leaves _ s) id
  rw [show (settle s (delayExpired s)).safe = (delayExpired s).safe from hdone.part .safe]
  exact ⟨rfl, rfl, rfl⟩

theorem window_expires {d : Nat} (hd : d ≤ s.seconds) (htimer : s.safe.timer = some d) (hlock : s.safe.lock = .window) : Yields .windowExpiry s fun u =>
    u.safe.lock = .locked ∧ u.safe.timer = none ∧ u.safe.failed = s.safe.failed ∧
    (u.event .windowExpired).pending = true ∧ (u.event .windowExpired).detail = BitVec.ofNat 32 s.safe.failed := by
  refine takingIf_yields rfl (by rw [hlock, expired_of hd htimer]; rfl) ?_
  have hdone : WorkDone (windowExpired s) (settle s (windowExpired s)) := workDone_quiet (windowExpired_leaves s) id
  have hraised : (windowExpired s).event .windowExpired = _ := raise_event .windowExpired .windowExpired (BitVec.ofNat 32 s.safe.failed) (setLock .locked none s)
  rw [show (settle s (windowExpired s)).safe = (windowExpired s).safe from hdone.part .safe, hdone.event, hraised, if_pos rfl]
  exact ⟨rfl, rfl, rfl, rfl, rfl⟩

theorem relock_expires {d : Nat} (hd : d ≤ s.seconds) (htimer : s.safe.timer = some d) (hlock : s.safe.lock = .unlocked) : Yields .relockExpiry s fun u =>
    u.safe.lock = .locked ∧ u.safe.timer = none ∧ CommandGoes s u s.room.out .lock := by
  refine takingIf_yields rfl (by rw [hlock, expired_of hd htimer]; rfl) ?_
  have hleaves : unchangedBut [.safe, .room] s (relockExpired s) := unchangedBut_mono (unchangedBut_trans (setSafe_leaves _ s) (placeSafeCommand_leaves _)) (by decide)
  have hdown : (relockExpired s).room.down = s.room.down := by
    unfold relockExpired commandSafe
    rcases placeSafeCommand_spec ((setLock .locked none s).setSafe { (setLock .locked none s).safe with commanded := .lock, owed := true }) with
      ⟨-, he⟩ | ⟨-, _, -, he⟩ <;> rw [he] <;> rfl
  have hdone : WorkDone (relockExpired s) (settle s (relockExpired s)) := by
    refine workDone_settle (fun h => ?_) fun h => ?_
    · rw [show commandPlaceable (relockExpired s) = false from commandSafe_done _ _] at h
      cases h
    · rwa [waitingPlaceable_congr (by rw [hleaves .trunk (by decide)]) (by rw [hleaves .trunk (by decide)]) (by rw [hleaves .floor (by decide)]) hdown
        (hleaves .nodes (by decide))] at h
  have howes : (relockExpired s).safe = { (setLock .locked none s).safe with commanded := .lock, owed := (relockExpired s).safe.owed } :=
    placeSafeCommand_owed _
  have hroom : (settle s (relockExpired s)).room = (relockExpired s).room := hdone.part .room
  have hsafe : (settle s (relockExpired s)).safe = (relockExpired s).safe := hdone.part .safe
  refine ⟨by rw [hsafe, howes]; rfl, by rw [hsafe, howes]; rfl, ?_⟩
  exact commandGoes_of (v := setLock .locked none s) (by rw [hsafe]; rfl) (by rw [hroom]; rfl) rfl rfl

/-! ## The count sessions (R103) -/

theorem countIdle_expires {d : Nat} (hd : d ≤ s.seconds) (hstate : s.sessions[x].state = .counting) (htimer : s.sessions[x].timer = some d)
    (hfind : findBag s s.sessions[x].bag = some b) (hbag : b.state = .counting) : Yields (.countIdleExpiry x.val) s fun u =>
      u.sessions[x] = { s.sessions[x] with state := .suspended, timer := none } ∧
      findBag u s.sessions[x].bag = some { b with state := .countSuspended, entered := s.seconds } ∧
      (u.event .countSuspended).pending = true ∧
      (u.event .countSuspended).detail = BitVec.ofNat 32 s.sessions[x].bag := by
  have hexec : exec (.countIdleExpiry x.val) s = takingIf (idleExpired s x) (suspendSession x) s := by
    show execCountIdleExpiry x.val s = _
    unfold execCountIdleExpiry
    rw [inRange_val]
  have hdue : idleExpired s x = true := by
    unfold idleExpired
    rw [expired_of hd htimer, hstate]
    rfl
  refine takingIf_yields hexec hdue ?_
  have hdone : WorkDone (suspendSession x s) (settle s (suspendSession x s)) :=
    workDone_quiet (suspendSession_leaves x s) fun h => by rwa [suspendSession_leaves x s .safe (by decide)] at h
  have hmoved : askRegister s.sessions[x].bag (moveSuspend s.seconds) s =
      changeBag s.sessions[x].bag (fun _ => { b with state := .countSuspended, entered := s.seconds }) s := askRegister_ok hfind (if_pos hbag)
  have hrow : findBag (suspendSession x s) s.sessions[x].bag = some { b with state := .countSuspended, entered := s.seconds } := by
    unfold suspendSession
    rw [findBag_of_leaves (raiseNum_leaves _ _ _), findBag_of_leaves (setSession_leaves x _ _), hmoved, findBag_moved (b' := { b with state := .countSuspended, entered := s.seconds }) hfind rfl, if_pos rfl]
  have hraised : (suspendSession x s).event .countSuspended = _ := raise_event .countSuspended .countSuspended (BitVec.ofNat 32 s.sessions[x].bag) _
  rw [show (settle s (suspendSession x s)).sessions = (suspendSession x s).sessions from hdone.part .sessions, hdone.event, hraised, if_pos rfl]
  refine ⟨?_, hdone.bags _ _ hrow rfl, rfl, rfl⟩
  show (put (askRegister _ _ s).sessions x _)[x] = _
  rw [put_get, if_pos rfl]

/-! ## An owed command (R93) -/

theorem owed_placed {i : Fin 252} (howed : s.safe.owed = true) (hfree : 0 < s.room.out.free) (henabled : s.nodes[i].enabled = true)
    (hrole : s.nodes[i].role = .safe) (hlow : ∀ j : Fin 252, j < i → s.nodes[j].enabled = false ∨ s.nodes[j].role ≠ .safe) :
    Yields .safeCommandPlaced s fun u => u.safe = { s.safe with owed := false } ∧
      u.room.out.filled = s.room.out.filled ++ [safeCommandFrame (BitVec.ofNat 8 (i.val + 2)) s.safe.commanded] := by
  have hlowest : LowestSafeNode s (BitVec.ofNat 8 (i.val + 2)) := ⟨i, rfl, henabled, hrole, hlow⟩
  have hmay : commandPlaceable s = true := by
    unfold commandPlaceable
    rw [howed, safeNode_iff.mpr hlowest]
    exact Bool.and_eq_true_iff.mpr ⟨Bool.and_eq_true_iff.mpr ⟨rfl, decide_eq_true hfree⟩, rfl⟩
  refine takingIf_yields rfl hmay ?_
  have hleaves := placeSafeCommand_leaves s
  have hdown : (placeSafeCommand s).room.down = s.room.down := by
    rcases placeSafeCommand_spec s with ⟨-, he⟩ | ⟨-, _, -, he⟩
    · rw [he]
    · rw [he]
      rfl
  have hdone : WorkDone (placeSafeCommand s) (settle s (placeSafeCommand s)) := by
    refine workDone_settle (fun _ => hmay) fun h => ?_
    rwa [waitingPlaceable_congr (by rw [hleaves .trunk (by decide)]) (by rw [hleaves .trunk (by decide)]) (by rw [hleaves .floor (by decide)]) hdown
      (hleaves .nodes (by decide))] at h
  obtain ⟨-, hplaces, -⟩ := placeSafeCommand_goes howed
  obtain ⟨ho, hf⟩ := hplaces _ hfree hlowest
  have hsafe := placeSafeCommand_owed s
  rw [ho] at hsafe
  have hroom : (settle s (placeSafeCommand s)).room = (placeSafeCommand s).room := hdone.part .room
  exact ⟨(hdone.part .safe).trans hsafe, by rw [hroom, hf]⟩

end

/-- Settles O48: each expiry in its own state, and the placing of an owed command. -/
theorem timerExpiries : Obligations.TimerExpiries := by
  unfold Obligations.TimerExpiries
  refine fun s => ⟨fun d hd htimer => ⟨delay_expires hd htimer, window_expires hd htimer, relock_expires hd htimer⟩,
    fun d x b hd hstate htimer hfind hbag => countIdle_expires hd hstate htimer hfind hbag, fun i howed hfree henabled hrole hlow =>
      owed_placed howed hfree henabled hrole hlow, fun hnone => ?_⟩
  show takingIf (commandPlaceable s) placeSafeCommand s = _
  rw [placeable_none hnone]
  rfl

end Sys2Proof.Machine.Effects

/-! PROOF. The end of a call, and SIGN (R123, R131, R132, R137). -/

namespace Sys2Proof.Machine.Effects

open Sys2Proof Sys2Proof.Machine Sys2Proof.Machine.Takings Sys2Proof.Machine.TallyCount

section
variable {s t u v : State} {p : Port} {w : Window} {n : Nat} {i : Fin 16} {r : CallResult} {b b' : Bag} {code : Code} {d : Option Word32}
  {x : Descriptor} {pair : Byte × Byte}

/-! ## A descriptor given back at the end of a call -/

/-- The state a call's end leaves of ring and session: the descriptor given back, the pointer on, the session IDLE. -/
def endedAt (i : Fin 16) (x : Descriptor) (s : State) : State :=
  (s.setRing (put s.ring i x)).setCall { next := s.call.next + 1, refused := 0, phase := .idle, slot := none, timer := none }

/-- A state at the end of a call, before the missed-window check. -/
structure EndedCall (i : Fin 16) (x : Descriptor) (s t : State) : Prop where
  ring : t.ring = put s.ring i x
  call : t.call = { next := s.call.next + 1, refused := 0, phase := .idle, slot := none, timer := none }
  clock : t.day.clock = s.day.clock
  seconds : t.seconds = s.seconds
  event : t.event .windowMissed = s.event .windowMissed

/-- What the check behind the end of a call leaves. -/
structure CheckedCall (i : Fin 16) (x : Descriptor) (s v : State) : Prop where
  slot : v.ring[i] = x
  phase : v.call.phase = .idle ∧ v.call.slot = none ∧ v.call.timer = none ∧ v.call.refused = 0
  ring : v.ring = (missedCheck (endedAt i x s)).ring
  call : v.call = (missedCheck (endedAt i x s)).call
  event : v.event .windowMissed = (missedCheck (endedAt i x s)).event .windowMissed

theorem EndedCall.checked (h : EndedCall i x s t) (howner : x.owner = .office) : CheckedCall i x s (missedCheck t) := by
  have hslot : t.ring[i] = x := by rw [h.ring, put_get, if_pos rfl]
  have hsession := missedCheck_session t
  rw [h.call] at hsession
  have hmissed := missedCheck_alike (s := t) (t := endedAt i x s) ⟨h.ring, h.call, h.clock, h.seconds, h.event⟩
  exact ⟨by rw [missedCheck_office t (by rw [hslot]; exact howner), hslot],
    ⟨hsession.1, hsession.2.1, hsession.2.2, missedCheck_refused (by rw [h.call])⟩, hmissed.ring, hmissed.call, hmissed.event⟩

/-- A call's end carries over to a state with that ring, session and event. -/
theorem CheckedCall.congr (h : CheckedCall i x s v) (hring : u.ring = v.ring) (hcall : u.call = v.call) (hevent : u.event .windowMissed = v.event .windowMissed) :
    CheckedCall i x s u where
  slot := by rw [hring, h.slot]
  phase := by rw [hcall]; exact h.phase
  ring := hring.trans h.ring
  call := hcall.trans h.call
  event := hevent.trans h.event

theorem Unpinned.state (h : Unpinned b b') : b'.state = b.state := by
  rcases h with rfl | ⟨-, rfl⟩ <;> rfl

/-! ## The branches of SIGN (R131) -/

theorem signRule_cases (q : Option (Byte × Byte)) (s : State) (i : Fin 16) :
    (s.call.phase = .idle → signRule q s = (s, .verdict .noSession (nextDetail s))) ∧
    (s.call.slot = some i →
      (s.call.phase = .exchange → signRule q s = (s, .verdict .notLoaded (num (unloaded s s.ring[i])))) ∧
      (s.call.phase = .signing → signRule q s = (completeCall i q s, .verdict .accepted (num (signResult s s.ring[i]).code)))) := by
  unfold signRule
  refine ⟨fun hp => ?_, fun hslot => ⟨fun hp => ?_, fun hp => ?_⟩⟩
  · rw [hp]
  · rw [hp, hslot]
  · rw [hp, hslot]

theorem signJob_empty {f : Taken} (h : f.frame.body = []) : signJob f s = signRule f.pair s := by
  unfold signJob parseEmpty
  rw [if_pos h]

theorem signJob_malformed {f : Taken} (h : f.frame.body ≠ []) : signJob f s = (s, .verdict .malformed none) := by
  unfold signJob parseEmpty
  rw [if_neg h]

theorem sign_refused (h : TakenAs s p w .sign (some pair)) (hbody : w.frame.body = [])
    (hrule : signRule (some pair) (s.setRx p .idle) = (s.setRx p .idle, .verdict code d)) : RefusedFrame .sign s p w code d :=
  refused_of_job (isKind := isJob .sign) (fun _ _ => rfl) h (isJob_of_takenAs h) ((signJob_empty (f := { w.taken p with pair := some pair }) hbody).trans hrule)

/-! ## A signed call (R132) -/

/-- The result of a call by count and value of what was received. -/
def resultOf (s : State) (i : Fin 16) : CallResult :=
  if s.ring[i].received.length = s.ring[i].inboundCount ∧ (s.ring[i].received.map (declaredOf s)).sum = s.ring[i].inboundValue then .done else .doneVariance

theorem signResult_resultOf (s : State) (i : Fin 16) : signResult s s.ring[i] = resultOf s i := by
  unfold signResult inboundAgrees resultOf
  simp only [Bool.and_eq_true, decide_eq_true_eq]

theorem resultOf_setRx (s : State) (p : Port) (rx : Receiver) (i : Fin 16) : resultOf (s.setRx p rx) i = resultOf s i := by
  have hdeclared : declaredOf (s.setRx p rx) = declaredOf s := by
    funext n
    unfold declaredOf
    rw [findBag_setRx]
  unfold resultOf
  rw [hdeclared, State.setRx_ring]

/-- The descriptor of a signed call. -/
def signedSlot (pair : Byte × Byte) (s : State) (i : Fin 16) : Descriptor :=
  { s.ring[i] with
    owner := .office, result := resultOf s i, second := some s.seconds, supervisor := some pair.1
    courierMark := some pair.2 }

/-- A signed call, on a state that is the frame's own but for the receiver. -/
structure SignedCall (pair : Byte × Byte) (i : Fin 16) (s v : State) : Prop where
  checked : CheckedCall i (signedSlot pair s i) s v
  done : (v.event .handoverDone).pending = true ∧ (v.event .handoverDone).detail = BitVec.ofNat 32 i.val
  variance : resultOf s i = .doneVariance → (v.event .inboundVariance).pending = true
  bags : ∀ n ∈ s.ring[i].outbound, bagIn s n .loaded = true → bagIn v n .handedOver = true

theorem signedRow_loaded {seals : List Nat} {now : Nat} (hmem : b.sealNo ∈ seals) (hstate : b.state = .loaded) : (signedRow seals now b).state = .handedOver := by
  rcases signedRow_cases seals now b with ⟨-, -, h⟩ | ⟨h, -⟩
  · rw [h]
    rfl
  · exact absurd ⟨hmem, hstate⟩ h

theorem completeCall_signed (pair : Byte × Byte) (i : Fin 16) (s : State) : SignedCall pair i s (completeCall i (some pair) s) := by
  have hsigned : unchangedBut [.bags] s (signBags s.ring[i].outbound s) := setBags_leaves _ s
  have hbags (n : Nat) : findBag (signBags s.ring[i].outbound s) n = (findBag s n).map (signedRow s.ring[i].outbound s.seconds) := findBag_signBags _
  have hresult := signResult_resultOf s i
  unfold completeCall
  dsimp only
  rw [hresult]
  generalize signBags s.ring[i].outbound s = v1 at hsigned hbags ⊢
  have hagrees : inboundAgrees s s.ring[i] = true ↔ resultOf s i = .done := by
    rw [← hresult, signResult]
    split <;> simp_all
  have hvaried : unchangedBut [.events] v1 (if inboundAgrees s s.ring[i] = true then v1 else raiseNum .inboundVariance i.val v1) :=
    unchangedBut_ite (unchangedBut_refl _ _) (raise_leaves _ _ _)
  have hvariance : resultOf s i = .doneVariance →
      ((if inboundAgrees s s.ring[i] = true then v1 else raiseNum .inboundVariance i.val v1).event .inboundVariance).pending = true := fun h => by
    rw [if_neg fun ha => by rw [hagrees.mp ha] at h; cases h]
    show ((raise .inboundVariance _ v1).event .inboundVariance).pending = true
    rw [raise_event, if_pos rfl]
  have hevents (e : Event) (he : e ≠ .inboundVariance) :
      (if inboundAgrees s s.ring[i] = true then v1 else raiseNum .inboundVariance i.val v1).event e = v1.event e := by
    split
    · rfl
    · exact (raise_event .inboundVariance e _ v1).trans (if_neg he.symm)
  generalize (if inboundAgrees s s.ring[i] = true then v1 else raiseNum .inboundVariance i.val v1) = v2 at hvaried hvariance hevents ⊢
  have hbefore : unchangedBut [.bags, .events] s v2 := unchangedBut_trans hsigned hvaried
  have hring : v2.ring = s.ring := hbefore .ring (by decide)
  have hwindow : v2.event .windowMissed = s.event .windowMissed := by
    rw [hevents _ (by decide)]
    unfold State.event
    rw [show v1.events = s.events from hsigned .events (by decide)]
  obtain ⟨v3, hv3⟩ : ∃ v3, endSession (returnSlot i (resultOf s i) (setSlot i { s.ring[i] with supervisor := some pair.1, courierMark := some pair.2 } v2)) = v3 :=
    ⟨_, rfl⟩
  have hreturned : v3.ring = put s.ring i (signedSlot pair s i) ∧
      v3.call = { next := s.call.next + 1, refused := 0, phase := .idle, slot := none, timer := none } ∧ v3.events = v2.events ∧
      v3.day = s.day ∧ v3.seconds = s.seconds := by
    rw [← hv3]
    refine ⟨?_, ?_, rfl, hbefore .day (by decide), hbefore .seconds (by decide)⟩
    · show put (put v2.ring i _) i { (put v2.ring i _)[i] with owner := .office, result := resultOf s i, second := some v2.seconds } = _
      rw [CapLoop.put_put, put_get, if_pos rfl, hring, show v2.seconds = s.seconds from hbefore .seconds (by decide)]
      rfl
    · show ({ v2.call with next := v2.call.next + 1, refused := 0, phase := .idle, slot := none, timer := none } : Handover) = _
      rw [show v2.call = s.call from hbefore .call (by decide)]
  have hrows (n : Nat) : findBag v3 n = (findBag s n).map (returnedRow i ∘ signedRow s.ring[i].outbound s.seconds) := by
    rw [← hv3, findBag_of_leaves (endSession_leaves _), findBag_returnSlot, findBag_of_leaves (setSlot_leaves i _ _), findBag_of_leaves hvaried, hbags, Option.map_map]
  obtain ⟨hring3, hcall3, hevents3, hday3, hseconds3⟩ := hreturned
  have hsame (e : Event) : v3.event e = v2.event e := by
    unfold State.event
    rw [hevents3]
  have hraised (e : Event) := raise_event .handoverDone e (BitVec.ofNat 32 i.val) v3
  show SignedCall pair i s (missedCheck (raiseNum .handoverDone i.val (endSession (returnSlot i (resultOf s i)
    (setSlot i { s.ring[i] with supervisor := some pair.1, courierMark := some pair.2 } v2)))))
  rw [hv3]
  have hended : EndedCall i (signedSlot pair s i) s (raiseNum .handoverDone i.val v3) :=
    ⟨hring3, hcall3, congrArg Day.clock hday3, hseconds3, (hraised .windowMissed).trans ((if_neg (by decide)).trans ((hsame _).trans hwindow))⟩
  refine ⟨hended.checked rfl, ?_, fun hres => ?_, fun n hn hloaded => ?_⟩
  · rw [missedCheck_event _ .handoverDone, show (raiseNum .handoverDone i.val v3).event .handoverDone = _ from hraised .handoverDone, if_pos rfl]
    exact ⟨rfl, rfl⟩
  · rw [missedCheck_event _ .inboundVariance, show (raiseNum .handoverDone i.val v3).event .inboundVariance = _ from hraised .inboundVariance,
      if_neg (by decide), hsame]
    exact hvariance hres
  · unfold bagIn at hloaded
    cases hfind : findBag s n with
    | none => rw [hfind] at hloaded; cases hloaded
    | some c =>
      rw [hfind] at hloaded
      have hrow : findBag (raiseNum .handoverDone i.val v3) n = some (returnedRow i (signedRow s.ring[i].outbound s.seconds c)) := by
        rw [findBag_of_leaves (raiseNum_leaves _ _ _), hrows, hfind]
        rfl
      obtain ⟨c', hc', hunpinned⟩ := findBag_missedCheck hrow
      rw [bagIn_of hc', hunpinned.state, (returnedRow_keeps i _).2, signedRow_loaded (by rwa [(findBag_some hfind).2]) (of_decide_eq_true hloaded)]
      rfl

/-- A SIGN in SIGNING completes the call. -/
theorem call_signed (h : TakenAs s p w .sign (some pair)) (hbody : w.frame.body = []) (hphase : s.call.phase = .signing) (hslot : s.call.slot = some i) :
    Yields (.sign p) s fun u =>
      CheckedCall i (signedSlot pair s i) s u ∧
      ((u.event .handoverDone).pending = true ∧ (u.event .handoverDone).detail = BitVec.ofNat 32 i.val) ∧
      (resultOf s i = .doneVariance → (u.event .inboundVariance).pending = true) ∧
      (s.day.state ≠ .closing → ∀ n ∈ s.ring[i].outbound, bagIn s n .loaded = true → bagIn u n .handedOver = true) ∧
      Answered s u p w .accepted (num (resultOf s i).code) := by
  have hrule := ((signRule_cases (some pair) (s.setRx p .idle) i).2 (by rw [State.setRx_call]; exact hslot)).2 (by rw [State.setRx_call]; exact hphase)
  rw [signResult_resultOf, resultOf_setRx] at hrule
  have hsigned := completeCall_signed pair i (s.setRx p .idle)
  generalize completeCall i (some pair) (s.setRx p .idle) = v at hrule hsigned
  have hslot : signedSlot pair (s.setRx p .idle) i = signedSlot pair s i := by
    unfold signedSlot
    rw [resultOf_setRx, State.setRx_ring, State.setRx_seconds]
  have halike : MissedAlike (endedAt i (signedSlot pair s i) (s.setRx p .idle)) (endedAt i (signedSlot pair s i) s) :=
    ⟨by cases p <;> rfl, by cases p <;> rfl, by cases p <;> rfl, by cases p <;> rfl, State.event_setRx s p .idle _⟩
  have hmissed := missedCheck_alike halike
  obtain ⟨hchecked, hdone, hvariance, hbags⟩ := hsigned
  rw [hslot] at hchecked
  have hsame : CheckedCall i (signedSlot pair s i) s v :=
    ⟨hchecked.slot, hchecked.phase, hchecked.ring.trans hmissed.ring, hchecked.call.trans hmissed.call, hchecked.event.trans hmissed.event⟩
  refine job_yields (c := .sign) (isKind := isJob .sign) (fun _ _ => rfl) h (isJob_of_takenAs h)
    ((signJob_empty (f := { w.taken p with pair := some pair }) hbody).trans hrule) fun u hu =>
      ⟨hsame.congr (hu.part .ring) (hu.part .call) (hu.event .windowMissed), ?_, fun hres => ?_, fun hday n hn hloaded => ?_, hu.answered⟩
  · rw [hu.event .handoverDone]
    exact hdone
  · rw [hu.event .inboundVariance]
    exact hvariance (by rw [resultOf_setRx]; exact hres)
  · rw [bagIn_congr ((hu.open hday).1 .bags (by decide))]
    refine hbags n (by rw [State.setRx_ring]; exact hn) ?_
    rw [bagIn_congr (State.setRx_bags s p _)]
    exact hloaded

end

/-- Settles O46: SIGN by the phase of the session. -/
theorem signResult : Obligations.SignResult := by
  unfold Obligations.SignResult
  refine fun p s w pair i h => ⟨fun hbody => refused_of_job (isKind := isJob .sign) (fun _ _ => rfl) h (isJob_of_takenAs h)
    (signJob_malformed (f := { w.taken p with pair := some pair }) hbody), fun hbody hidle => ?_, fun hbody hphase hslot => ?_, fun hbody hphase hslot => ?_⟩
  · refine sign_refused h hbody (((signRule_cases (some pair) (s.setRx p .idle) i).1 (by rw [State.setRx_call]; exact hidle)).trans ?_)
    rw [nextDetail_setRx]
  · have hrule := ((signRule_cases (some pair) (s.setRx p .idle) i).2 (by rw [State.setRx_call]; exact hslot)).1 (by rw [State.setRx_call]; exact hphase)
    rw [unloaded_congr (State.setRx_bags s p _), State.setRx_ring] at hrule
    exact sign_refused h hbody hrule
  · obtain ⟨u, hu, hchecked, hdone, hvariance, hbags, hanswered⟩ := call_signed h hbody hphase hslot
    obtain ⟨hidle, hnone, htimer, -⟩ := hchecked.phase
    exact ⟨u, hu, hchecked.slot, hidle, hnone, htimer, ⟨hchecked.ring, hchecked.call, hchecked.event⟩, hdone.1, hdone.2, hvariance, hbags, hanswered⟩

end Sys2Proof.Machine.Effects

/-! PROOF. The timeouts of a call and the advance of the day clock, with the missed-window check behind both (R31, R35, R133, R134, R137, R148). -/

namespace Sys2Proof.Machine.Effects

open Sys2Proof Sys2Proof.Machine Sys2Proof.Machine.Takings Sys2Proof.Machine.TallyCount

section
variable {s t u v : State} {n : Nat} {i : Fin 16} {r : CallResult} {b b' : Bag} {c : Instr} {d : Nat}

/-! ## An aborted call (R134) -/

/-- The descriptor of an aborted call. -/
def abortedSlot (r : CallResult) (s : State) (i : Fin 16) : Descriptor := { s.ring[i] with owner := .office, result := r, second := some s.seconds }

/-- A record behind the abort of a call, but for the pin of a record IN_SAFE or HANDED_OVER (R31, R35). -/
def AbortedBag (s : State) (i : Fin 16) (b b' : Bag) : Prop :=
  (b.sealNo ∈ s.ring[i].outbound → b.state = .loaded → b'.state = .hatchHeld ∧ b'.pin = b.pin) ∧
  (b.sealNo ∈ s.ring[i].outbound → b.state = .inHandling → b'.state = .madeUp ∧ b'.pin = none) ∧
  (b.sealNo ∈ s.ring[i].received → b'.unsigned = true)

theorem abortedBag_of {seals received : List Nat} {now : Nat} (h : Unpinned (flaggedRow received (abortedRow seals now b)) b') :
    (b.sealNo ∈ seals → b.state = .loaded → b'.state = .hatchHeld ∧ b'.pin = b.pin) ∧
    (b.sealNo ∈ seals → b.state = .inHandling → b'.state = .madeUp ∧ b'.pin = none) ∧
    (b.sealNo ∈ received → b'.unsigned = true) := by
  obtain ⟨hseal, hstate, hpin⟩ := flaggedRow_keeps received (abortedRow seals now b)
  have hsame : (abortedRow seals now b).sealNo = b.sealNo := by
    unfold abortedRow
    split
    · rfl
    · split <;> rfl
  refine ⟨fun hmem hloaded => ?_, fun hmem hhandling => ?_, fun hmem => ?_⟩
  · have hrow : abortedRow seals now b = b.moved .hatchHeld now := if_pos (by simp [hmem, hloaded])
    rw [hrow] at hstate hpin
    rcases h with rfl | ⟨hsafe, -⟩
    · rw [hrow]
      exact ⟨hstate, hpin⟩
    · rw [hrow, hstate] at hsafe
      exact hsafe.elim nofun nofun
  · have hrow : abortedRow seals now b = { b.moved .madeUp now with pin := none } :=
      (if_neg (by simp [hhandling])).trans (if_pos (by simp [hmem, hhandling]))
    rw [hrow] at hstate hpin
    rcases h with rfl | ⟨hsafe, -⟩
    · rw [hrow]
      exact ⟨hstate, hpin⟩
    · rw [hrow, hstate] at hsafe
      exact hsafe.elim nofun nofun
  · have hflag : (flaggedRow received (abortedRow seals now b)).unsigned = true := by
      unfold flaggedRow
      rw [if_pos (by rw [hsame]; simpa using hmem)]
    rcases h with rfl | ⟨-, rfl⟩ <;> exact hflag

/-- What an abort of the call on slot `i` leaves. -/
structure AbortedCall (r : CallResult) (i : Fin 16) (s v : State) : Prop where
  checked : CheckedCall i (abortedSlot r s i) s v
  event : (v.event .handoverAborted).pending = true ∧ (v.event .handoverAborted).detail = BitVec.ofNat 32 i.val
  bags : ∀ n b, findBag s n = some b → ∃ b', findBag v n = some b' ∧ AbortedBag s i b b'

theorem abortCall_aborted (r : CallResult) (i : Fin 16) (s : State) : AbortedCall r i s (abortCall i r s) := by
  have hbags (n : Nat) (b : Bag) (hfind : findBag s n = some b) : ∃ b', findBag (abortCall i r s) n = some b' ∧ AbortedBag s i b b' := by
    obtain ⟨b', hb', hrow⟩ := findBag_abortCall (i := i) (r := r) hfind
    exact ⟨b', hb', abortedBag_of hrow⟩
  unfold abortCall at hbags ⊢
  dsimp only at hbags ⊢
  have hbefore : unchangedBut [.bags] s (flagUnsigned s.ring[i].received (abortBags s.ring[i].outbound s)) :=
    unchangedBut_mono (unchangedBut_trans (setBags_leaves _ s) (setBags_leaves _ _)) (by decide)
  generalize flagUnsigned s.ring[i].received (abortBags s.ring[i].outbound s) = v1 at hbags hbefore ⊢
  obtain ⟨v2, hv2⟩ : ∃ v2, endSession (returnSlot i r v1) = v2 := ⟨_, rfl⟩
  have hreturned : v2.ring = put s.ring i (abortedSlot r s i) ∧
      v2.call = { next := s.call.next + 1, refused := 0, phase := .idle, slot := none, timer := none } ∧ v2.events = s.events ∧
      v2.day = s.day ∧ v2.seconds = s.seconds := by
    rw [← hv2]
    refine ⟨?_, ?_, hbefore .events (by decide), hbefore .day (by decide), hbefore .seconds (by decide)⟩
    · show put v1.ring i { v1.ring[i] with owner := .office, result := r, second := some v1.seconds } = _
      rw [show v1.ring = s.ring from hbefore .ring (by decide), show v1.seconds = s.seconds from hbefore .seconds (by decide)]
      rfl
    · show ({ v1.call with next := v1.call.next + 1, refused := 0, phase := .idle, slot := none, timer := none } : Handover) = _
      rw [show v1.call = s.call from hbefore .call (by decide)]
  obtain ⟨hring, hcall, hevents, hday, hseconds⟩ := hreturned
  have hsame (e : Event) : v2.event e = s.event e := by
    unfold State.event
    rw [hevents]
  have hraised (e : Event) := raise_event .handoverAborted e (BitVec.ofNat 32 i.val) v2
  rw [hv2] at hbags ⊢
  have hended : EndedCall i (abortedSlot r s i) s (raiseNum .handoverAborted i.val v2) :=
    ⟨hring, hcall, congrArg Day.clock hday, hseconds, (hraised .windowMissed).trans ((if_neg (by decide)).trans (hsame _))⟩
  refine ⟨hended.checked rfl, ?_, hbags⟩
  rw [missedCheck_event _ .handoverAborted, show (raiseNum .handoverAborted i.val v2).event .handoverAborted = _ from hraised .handoverAborted, if_pos rfl]
  exact ⟨rfl, rfl⟩

theorem abortHandover_active (r : CallResult) (hphase : s.call.phase ≠ .idle) (hslot : s.call.slot = some i) : abortHandover r s = abortCall i r s := by
  unfold abortHandover
  cases hp : s.call.phase <;> rw [hslot]
  exact absurd hp hphase

/-! ## The timeouts (R133) -/

theorem timeout_exec (hd : d ≤ s.seconds) (htimer : s.call.timer = some d)
    (hc : c = .exchangeTimeout ∧ s.call.phase = .exchange ∨ c = .signTimeout ∧ s.call.phase = .signing) :
    ∃ applies, exec c s = takingIf applies (abortHandover .timedOut) s ∧ applies = true ∧ s.call.phase ≠ .idle := by
  have hdue := expired_of hd htimer
  rcases hc with ⟨rfl, hp⟩ | ⟨rfl, hp⟩
  · exact ⟨_, rfl, by rw [hp, hdue]; rfl, by rw [hp]; nofun⟩
  · exact ⟨_, rfl, by rw [hp, hdue]; rfl, by rw [hp]; nofun⟩

theorem call_timedOut (hd : d ≤ s.seconds) (htimer : s.call.timer = some d) (hslot : s.call.slot = some i)
    (hc : c = .exchangeTimeout ∧ s.call.phase = .exchange ∨ c = .signTimeout ∧ s.call.phase = .signing) : Yields c s fun u =>
      CheckedCall i (abortedSlot .timedOut s i) s u ∧
      ((u.event .handoverAborted).pending = true ∧ (u.event .handoverAborted).detail = BitVec.ofNat 32 i.val) ∧
      (∀ n b, n ∈ s.ring[i].outbound → findBag s n = some b → b.state = .loaded →
        ∃ b', findBag u n = some b' ∧ b'.state = .hatchHeld ∧ b'.pin = b.pin) ∧
      (∀ n b, n ∈ s.ring[i].outbound → findBag s n = some b → b.state = .inHandling →
        ∃ b', findBag u n = some b' ∧ b'.state = .madeUp ∧ b'.pin = none) ∧
      (∀ n b, n ∈ s.ring[i].received → findBag s n = some b → s.day.state ≠ .closing →
        ∃ b', findBag u n = some b' ∧ b'.unsigned = true) := by
  obtain ⟨applies, hexec, happlies, hphase⟩ := timeout_exec hd htimer hc
  refine takingIf_yields hexec happlies ?_
  have hleaves := abortCall_leaves i .timedOut s
  have haborted := abortCall_aborted .timedOut i s
  rw [abortHandover_active .timedOut hphase hslot]
  generalize abortCall i .timedOut s = v at hleaves haborted
  have hdone : WorkDone v (settle s v) := workDone_quiet hleaves fun h => by rwa [hleaves .safe (by decide)] at h
  obtain ⟨hchecked, hevent, hbags⟩ := haborted
  refine ⟨hchecked.congr (hdone.part .ring) (hdone.part .call) hdone.event, by rw [hdone.event]; exact hevent, fun n b hn hfind hstate => ?_,
    fun n b hn hfind hstate => ?_, fun n b hn hfind hday => ?_⟩ <;> obtain ⟨b', hb', hloaded, hhandling, hflag⟩ := hbags n b hfind <;>
    rw [← (findBag_some hfind).2] at hn
  · obtain ⟨hst, hpin⟩ := hloaded hn hstate
    exact ⟨b', hdone.bags n b' hb' (by rw [hst]; rfl), hst, hpin⟩
  · obtain ⟨hst, hpin⟩ := hhandling hn hstate
    exact ⟨b', hdone.bags n b' hb' (by rw [hst]; rfl), hst, hpin⟩
  · have hopen := hdone.unclosed (.inl (by rw [hleaves .day (by decide)]; exact hday))
    exact ⟨b', (findBag_congr hopen.1 n).trans hb', hflag hn⟩

/-! ## The day clock (R148) -/

theorem missedCheck_row (s : State) (i : Fin 16) : (missedCheck s).ring[i] = s.ring[i] ∨
    (missedCheck s).ring[i] = { s.ring[i] with owner := .office, result := .missed, second := some s.seconds } := by
  obtain ⟨k, -, hk⟩ := checkMissed_returned 16 s
  by_cases h : ∃ j, j < k ∧ i = slotAfter s j
  · obtain ⟨j, hj, rfl⟩ := h
    exact .inr (hk.returned j hj).2.2
  · exact .inl (hk.kept i fun j hj he => h ⟨j, hj, he⟩)

theorem closeInputs_mapped {f : Bag → Bag} (hbags : t.bags = s.bags.map f) (hf : ∀ b, (f b).holdsClose = b.holdsClose ∧ (f b).sealNo = b.sealNo)
    (hdrawers : t.drawers = s.drawers) (hsessions : t.sessions = s.sessions) (hphase : t.call.phase = s.call.phase) (hsafe : t.safe = s.safe) :
    closeInputs t = closeInputs s := by
  have hseals : (t.bags.filter Bag.holdsClose).map (fun b => b.sealNo) = (s.bags.filter Bag.holdsClose).map fun b => b.sealNo := by
    rw [hbags, List.filter_map, List.map_map]
    have hholds : Bag.holdsClose ∘ f = Bag.holdsClose := funext fun b => (hf b).1
    rw [hholds]
    exact List.map_congr_left fun b _ => (hf b).2
  unfold closeInputs
  rw [hseals, hdrawers, hsessions, hphase, hsafe]

theorem clearedRow_keeps (s : State) (k : Nat) (b : Bag) : (clearedRow s k b).holdsClose = b.holdsClose ∧ (clearedRow s k b).sealNo = b.sealNo := by
  unfold clearedRow
  split <;> exact ⟨rfl, rfl⟩

/-- The missed-window check changes nothing that a close waits for. -/
theorem closeInputs_missedCheck (s : State) : closeInputs (missedCheck s) = closeInputs s := by
  obtain ⟨k, -, hk⟩ := checkMissed_returned 16 s
  have hleaves := missedCheck_leaves s
  exact closeInputs_mapped hk.bags (clearedRow_keeps s k) (hleaves .drawers (by decide)) (hleaves .sessions (by decide)) (missedCheck_session s).1
    (hleaves .safe (by decide))

/-- The state whose heads are checked at an advance of the clock. -/
def clockMoved (s : State) : State := if s.day.clock < 1439 then setClockTo (s.day.clock + 1) s else passDay (setClockTo 0 s)

theorem advanceClock_checks (s : State) : advanceClock s = missedCheck (clockMoved s) := by
  unfold advanceClock clockMoved
  split <;> rfl

theorem clockMoved_leaves (s : State) : unchangedBut [.day, .ring] s (clockMoved s) := by
  unfold clockMoved
  split
  · exact unchangedBut_mono (setDay_leaves _ s) (by decide)
  · exact unchangedBut_trans (setDay_leaves _ s) (setRing_leaves _ _)

theorem clockMoved_day (s : State) : (clockMoved s).day =
    { s.day with clock := if s.day.clock < 1439 then s.day.clock + 1 else 0, clockSecond := s.seconds } := by
  unfold clockMoved
  split <;> rfl

/-- The advance frees no place and changes nothing that a close waits for: it ends with the events alone. -/
theorem settle_advanceClock (s : State) : settle s (advanceClock s) = settleEvents (advanceClock s) := by
  have hleaves := advanceClock_leaves s
  have hmoved := clockMoved_leaves s
  refine settle_quiet (fun h => ?_) (fun h => ?_) fun h => ?_
  · rwa [commandPlaceable_of_leaves hleaves] at h
  · rwa [waitingPlaceable_congr (by rw [hleaves .trunk (by decide)]) (by rw [hleaves .trunk (by decide)]) (by rw [hleaves .floor (by decide)])
      (by rw [hleaves .room (by decide)]) (hleaves .nodes (by decide))] at h
  · rw [advanceClock_checks] at h ⊢
    have hday : (missedCheck (clockMoved s)).day = _ := (missedCheck_leaves (clockMoved s) .day (by decide)).trans (clockMoved_day s)
    rw [hday] at h
    refine ⟨h, ?_⟩
    rw [closeInputs_missedCheck]
    exact (closeInputs_congr (hmoved .drawers (by decide)) (hmoved .sessions (by decide)) (hmoved .call (by decide)) (hmoved .bags (by decide))
      (hmoved .safe (by decide))).symm

theorem clock_advances (hdue : s.day.clockSecond + 60 ≤ s.seconds) : Yields .dayClockAdvance s fun u =>
    u.day.clock = (if s.day.clock < 1439 then s.day.clock + 1 else 0) ∧ u.day.clockSecond = s.seconds ∧
    (¬s.day.clock < 1439 → ∀ i : Fin 16, s.ring[i].owner = .part → u.ring[i].dayPassed = true) ∧
    u.ring = (missedCheck (clockMoved s)).ring ∧ u.call = (missedCheck (clockMoved s)).call ∧ u.bags = (missedCheck (clockMoved s)).bags ∧
    u.event .windowMissed = (missedCheck (clockMoved s)).event .windowMissed ∧ headMissed u = false := by
  refine takingIf_yields (f := advanceClock) rfl (decide_eq_true hdue) ?_
  rw [settle_advanceClock, advanceClock_checks]
  have hend := settleEvents_leaves (missedCheck (clockMoved s))
  have hevent : (settleEvents (missedCheck (clockMoved s))).event .windowMissed = (missedCheck (clockMoved s)).event .windowMissed :=
    eventsBut_event (settleEvents_events _) (by simp) rfl
  have hday : (missedCheck (clockMoved s)).day = _ := (missedCheck_leaves (clockMoved s) .day (by decide)).trans (clockMoved_day s)
  have hdone := missedCheck_done (clockMoved s)
  have hpassed (hwrap : ¬s.day.clock < 1439) (i : Fin 16) (howner : s.ring[i].owner = .part) : (missedCheck (clockMoved s)).ring[i].dayPassed = true := by
    have hrow : (clockMoved s).ring[i] = { s.ring[i] with dayPassed := true } := by
      unfold clockMoved
      rw [if_neg hwrap]
      exact (ofFn_row _ i).trans (if_pos howner)
    rcases missedCheck_row (clockMoved s) i with h | h <;> rw [h, hrow]
  generalize missedCheck (clockMoved s) = v at hend hevent hday hdone hpassed
  have hring : (settleEvents v).ring = v.ring := hend .ring (by decide)
  have hcall : (settleEvents v).call = v.call := hend .call (by decide)
  have hdayEnd : (settleEvents v).day = v.day := hend .day (by decide)
  refine ⟨by rw [hdayEnd, hday], by rw [hdayEnd, hday], fun hwrap i howner => by rw [hring]; exact hpassed hwrap i howner, hring, hcall,
    hend .bags (by decide), hevent, ?_⟩
  unfold headMissed State.head at hdone ⊢
  simp only [hring, hcall, hdayEnd]
  exact hdone

end

/-- Settles O49: the abort of a call, the advance of the clock, and the check behind each. -/
theorem callExpiries : Obligations.CallExpiries := by
  unfold Obligations.CallExpiries
  refine fun s d hd => ⟨fun i c htimer hslot hc => ?_, fun hclock hdue => ?_⟩
  · obtain ⟨u, hu, hchecked, hevent, hloaded, hhandling, hflag⟩ := call_timedOut hd htimer hslot hc
    obtain ⟨hidle, hnone, hstopped, hrefused⟩ := hchecked.phase
    exact ⟨u, hu, hchecked.slot, hidle, hnone, hstopped, hrefused, ⟨hchecked.ring, hchecked.call, hchecked.event⟩, hevent.1, hevent.2, hloaded, hhandling,
      hflag⟩
  · obtain ⟨u, hu, hminute, hsecond, hpassed, hring, hcall, hbags, hevent, hhead⟩ := clock_advances (s := s) (by rw [hclock]; exact hdue)
    refine ⟨u, hu, hminute, hsecond, hpassed, ?_⟩
    have hsame : clockMoved s = (if s.day.clock < 1439 then
        s.setDay { s.day with clock := if s.day.clock < 1439 then s.day.clock + 1 else 0, clockSecond := s.seconds }
      else (s.setDay { s.day with clock := if s.day.clock < 1439 then s.day.clock + 1 else 0, clockSecond := s.seconds }).setRing
        (Vector.ofFn fun i => if s.ring[i].owner = .part then { s.ring[i] with dayPassed := true } else s.ring[i])) := by
      unfold clockMoved
      by_cases h : s.day.clock < 1439
      · rw [if_pos h, if_pos h, if_pos h]
        rfl
      · rw [if_neg h, if_neg h, if_neg h]
        rfl
    rw [hsame] at hring hcall hbags hevent
    exact ⟨hring, hcall, hbags, hevent, hhead⟩

end Sys2Proof.Machine.Effects

/-! PROOF. A request served, field by field, and the event and tally requests (R114, R182 to R186, R190). -/

namespace Sys2Proof.Machine.Effects

open Sys2Proof Sys2Proof.Machine Sys2Proof.Machine.Takings Sys2Proof.Machine.TallyCount

section
variable {s s' t u : State} {tag : Word16} {code : Byte} {fields more : List Byte} {r : Result} {c : Instr} {variant : State → List Byte → Bool}
  {run : List Byte → State → State × Result} {ex : List Part} {P : State → Prop} {sel g : Nat} {gs : List TallyGroup}

/-! ## A request served -/

/-- The end of a request whose rule left the state `s'` and the result `r`. -/
structure RequestDone (s s' : State) (tag : Word16) (code : Byte) (r : Result) (u : State) : Prop where
  leaves : unchangedBut Part.replyParts s' u
  event : ∀ e : Event, u.event e = { s'.event e with pending := pendingCondition s' e }
  attention : u.attention = (s'.attention || decide (s'.vector < topEvent u))
  reply : ∃ d, (∀ w, r.detail = some w → d = w) ∧ u.trunk = { s.trunk with
    buffer := s.trunk.buffer.tail, reply := some { tag := tag, code := code, result := r.code, detail := d, data := r.data } }

theorem request_yields (hc : ∀ s, exec c s = takeRequest settle code variant run s) (h : RequestAtHead s tag code fields) (hv : variant s fields = true)
    (hr : run fields (popRequest s) = (s', r)) (hl : unchangedBut ex (popRequest s) s') (hx : ∀ b ∈ [Part.floor, .room, .trunk, .nodes, .safe], b ∉ ex)
    (ht : s'.day.state = .closing → closingConditions s' = true → s.day.state = .closing ∧ closeInputs s = closeInputs s')
    (hP : ∀ u, RequestDone s s' tag code r u → P u) : Yields c s P := by
  obtain ⟨u, d, hu, hleaves, hevent, -, hattention, hd, htrunk⟩ := request_answered h hv hr hl hx ht
  exact ⟨u, (hc s).trans hu, hP u ⟨hleaves, hevent, hattention, d, hd, htrunk⟩⟩

/-- A request whose rule moves nothing that a report is a change of. -/
theorem request_quiet (hc : ∀ s, exec c s = takeRequest settle code variant run s) (h : RequestAtHead s tag code fields) (hv : variant s fields = true)
    (hr : run fields (popRequest s) = (s', r)) (hl : unchangedBut ex (popRequest s) s')
    (hx : ∀ b ∈ [Part.floor, .room, .trunk, .nodes, .safe, .drawers, .sessions, .call, .bags, .day], b ∉ ex)
    (hP : ∀ u, RequestDone s s' tag code r u → P u) : Yields c s P := by
  refine request_yields hc h hv hr hl (fun b hb => hx b (by simp only [List.mem_cons, List.not_mem_nil, or_false] at hb ⊢; tauto)) ?_ hP
  refine quiet_of_unchanged (unchangedBut_trans (popRequest_leaves s) hl) fun b hb hmem => ?_
  rcases List.mem_append.mp hmem with htrunk | hex
  · simp only [List.mem_cons, List.not_mem_nil, or_false] at htrunk
    subst htrunk
    exact absurd hb (by decide)
  · exact hx b (by simp only [List.mem_cons, List.not_mem_nil, or_false] at hb ⊢; tauto) hex

theorem RequestDone.replied {result : Code} {detail : Option Word32} {data : List Byte}
    (h : RequestDone s s' tag code { code := result, detail := detail, data := data } u) : Replied s u tag code result data := by
  obtain ⟨d, -, htrunk⟩ := h.reply
  exact ⟨by rw [htrunk], d, by rw [htrunk]⟩

theorem RequestDone.repliedDetail {result : Code} {n : Nat} {data : List Byte}
    (h : RequestDone s s' tag code { code := result, detail := num n, data := data } u) : RepliedDetail s u tag code result n data := by
  obtain ⟨d, hd, htrunk⟩ := h.reply
  exact ⟨by rw [htrunk], by rw [htrunk, hd _ rfl]⟩

theorem RequestDone.part (h : RequestDone s s' tag code r u) (b : Part) (hb : b ∉ Part.replyParts := by decide) : b.same s' u := h.leaves b hb

theorem RequestDone.direct (h : RequestDone s s' tag code r u) (e : Event) (hi : e.indirect = false := by rfl) : u.event e = s'.event e := direct_event h.event hi

theorem popRequest_event (s : State) (e : Event) : (popRequest s).event e = s.event e := rfl

theorem pendingCondition_popRequest (s : State) (e : Event) : pendingCondition (popRequest s) e = pendingCondition s e := by cases e <;> rfl

/-- In a settled state each record stands as the end of a taking would write it. -/
theorem settled_event (h : Settled s) (e : Event) : { s.event e with pending := pendingCondition s e } = s.event e := by
  cases hi : e.indirect
  · rw [pendingCondition_direct hi]
  · rw [← h.2 e hi]

/-! ## The reads as lists of fields -/

theorem toList_finRange {α : Type} {n : Nat} (v : Vector α n) : v.toList = (List.finRange n).map fun i => v[i] := by
  apply List.ext_getElem
  · simp
  · intro i h1 h2
    simp

theorem rowBytes_finRange {α : Type} {n : Nat} (f : α → List Byte) (v : Vector α n) : rowBytes f v = (List.finRange n).flatMap fun i => f v[i] := by
  unfold rowBytes
  rw [toList_finRange, List.flatMap_map]

/-! ## EVENTS_READ (R184) -/

theorem events_read (h : RequestAtHead s tag 0x20 fields) : Yields .eventsRead s fun u =>
    (Settled s → u.events = s.events ∧ u.attention = s.attention) ∧ Replied s u tag 0x20 .accepted (eventsData s) := by
  refine request_quiet (c := .eventsRead) (variant := anyForm) (run := runEventsRead) (fun _ => rfl) h rfl rfl (unchangedBut_refl [] _) nofun fun u hu =>
    ⟨fun hs => ?_, hu.replied⟩
  have hevent (e : Event) : u.event e = s.event e := by
    rw [hu.event, pendingCondition_popRequest, popRequest_event, settled_event hs]
  refine ⟨events_ext hevent, attention_kept hs (s' := popRequest s) rfl rfl hu.attention fun e he => ?_⟩
  unfold State.active at he ⊢
  rwa [hevent] at he

/-! ## CLEAR_EVENTS (R185) -/

theorem pendingCondition_cleared (sel : Nat) (s : State) (e : Event) : pendingCondition (clearSelected sel s) e =
    if e.indirect then pendingCondition s e else (s.event e).pending && !selects sel e := by
  have hleaves := clearSelected_leaves sel s
  cases hi : e.indirect
  · rw [pendingCondition_direct hi, clearSelected_event]
    cases selects sel e <;> simp [hi]
  · exact pendingCondition_congr (hleaves .drawers (by decide)) (hleaves .tallies (by decide)) (hleaves .timing (by decide)) hi

theorem selectionOf_congr {p q : Event → Bool} (h : ∀ e, p e = q e) : selectionOf p = selectionOf q := by rw [funext h]

theorem events_cleared (h : RequestAtHead s tag 0x21 fields) (hfields : fields = be 4 sel ++ more) (hsel : sel < 256 ^ 4) : Yields .clearEvents s fun u =>
    (∀ e : Event, u.event e = { s.event e with
      pending := if e.indirect then pendingCondition s e else (s.event e).pending && !selects sel e
      count := if selects sel e then 0 else (s.event e).count }) ∧
    (Settled s → u.attention = s.attention) ∧
    RepliedDetail s u tag 0x21 .accepted (selectionOf fun e => (u.event e).pending) [] := by
  have hrun : runClearEvents fields (popRequest s) =
      (clearSelected sel (popRequest s), Result.of .accepted (num (selectionOf (pendingCondition (clearSelected sel (popRequest s)))))) := by
    unfold runClearEvents
    rw [hfields, takeNat_be hsel]
  refine request_quiet (c := .clearEvents) (variant := anyForm) (run := runClearEvents) (fun _ => rfl) h rfl hrun (clearSelected_leaves sel (popRequest s)) (by decide) fun u hu => ?_
  have hpending (e : Event) : (u.event e).pending = if e.indirect then pendingCondition s e else (s.event e).pending && !selects sel e := by
    rw [hu.event]
    dsimp only
    rw [pendingCondition_cleared, pendingCondition_popRequest, popRequest_event]
  have henable (e : Event) : (u.event e).enable = (s.event e).enable := by
    rw [hu.event]
    dsimp only
    rw [clearSelected_event, popRequest_event]
    split <;> rfl
  refine ⟨fun e => ?_, fun hs => ?_, ?_⟩
  · rw [hu.event]
    dsimp only
    rw [pendingCondition_cleared, pendingCondition_popRequest, clearSelected_event, popRequest_event]
    cases selects sel e <;> rfl
  · refine attention_kept hs (clearSelected_leaves sel (popRequest s) .vector (by decide)) (clearSelected_leaves sel (popRequest s) .attention (by decide)) hu.attention
      fun e he => ?_
    unfold State.active at he ⊢
    rw [henable, hpending] at he
    cases hi : e.indirect
    · rw [hi] at he
      simp only [Bool.false_eq_true, if_false, Bool.and_eq_true] at he ⊢
      exact ⟨he.1.1, he.2⟩
    · rw [hi, if_pos rfl, ← hs.2 e hi] at he
      exact he
  · have hselection : selectionOf (pendingCondition (clearSelected sel (popRequest s))) = selectionOf fun e => (u.event e).pending :=
      selectionOf_congr fun e => by rw [hu.event]
    rw [hselection] at hu
    exact hu.repliedDetail

/-! ## EVENT_ENABLE (R186) -/

theorem pendingCondition_enabled (sel : Nat) (v : Bool) (s : State) (e : Event) : pendingCondition (enableSelected sel v s) e = pendingCondition s e := by
  have hleaves := enableSelected_leaves sel v s
  cases hi : e.indirect
  · rw [pendingCondition_direct hi, pendingCondition_direct hi, enableSelected_event]
    split <;> rfl
  · exact pendingCondition_congr (hleaves .drawers (by decide)) (hleaves .tallies (by decide)) (hleaves .timing (by decide)) hi

theorem events_enabled {value : Bool} (h : RequestAtHead s tag 0x22 fields) (hfields : fields = be 4 sel ++ flagByte value :: more) (hsel : sel < 256 ^ 4) :
    Yields .eventEnable s fun u =>
      (∀ e : Event, u.event e = { s.event e with
        pending := pendingCondition s e, enable := if selects sel e then value else (s.event e).enable }) ∧
      Replied s u tag 0x22 .accepted [] := by
  have hrun : runEventEnable fields (popRequest s) = (enableSelected sel value (popRequest s), Result.of .accepted none) := by
    unfold runEventEnable
    rw [hfields, takeNat_be hsel]
    dsimp only
    rw [takeFlag_flagByte]
  refine request_quiet (c := .eventEnable) (variant := anyForm) (run := runEventEnable) (fun _ => rfl) h rfl hrun (enableSelected_leaves sel value (popRequest s)) (by decide)
    fun u hu => ⟨fun e => ?_, hu.replied⟩
  rw [hu.event]
  dsimp only
  rw [pendingCondition_enabled, pendingCondition_popRequest, enableSelected_event, popRequest_event]
  cases selects sel e <;> rfl

/-! ## The tally reads (R114) -/

theorem runTallyRead_named {clear : Bool} (hfields : fields = be 1 g ++ flagByte clear :: more) (hg : g < 256) (hgs : namedGroups g = some gs) :
    runTallyRead fields s = (if clear then clearTallies gs s else s, { code := .accepted, detail := none, data := talliesData gs s }) := by
  unfold runTallyRead
  rw [hfields, takeNat_be (by omega)]
  dsimp only
  rw [hgs, takeFlag_flagByte]

theorem namedGroups_none (h : 3 < g) : namedGroups g = none := by
  have hall : TallyGroup.all.find? (fun x => decide (x.code = g)) = none := List.find?_eq_none.mpr fun x _ => by
    have hcode : x.code ≤ 2 := by cases x <;> decide
    simp only [decide_eq_true_eq]
    omega
  unfold namedGroups
  rw [if_neg (by omega), hall]
  rfl

theorem namedGroups_lt (h : namedGroups g = some gs) : g < 256 := by
  by_contra hg
  rw [namedGroups_none (by omega)] at h
  cases h

theorem talliesData_popRequest (gs : List TallyGroup) (s : State) : talliesData gs (popRequest s) = talliesData gs s := rfl

theorem tallies_read (h : RequestAtHead s tag 0x28 fields) (hgs : namedGroups g = some gs) (hfields : fields = be 1 g ++ 0 :: more) : Yields .tallyRead s fun u =>
    u.tallies = s.tallies ∧ Replied s u tag 0x28 .accepted (talliesData gs s) := by
  have hvariant : (!asksClear s fields) = true := by
    rw [hfields]
    rfl
  refine request_quiet (c := .tallyRead) (variant := fun s x => !asksClear s x) (run := runTallyRead) (fun _ => rfl) h hvariant
    (runTallyRead_named (clear := false) hfields (namedGroups_lt hgs) hgs) (unchangedBut_refl [] _) nofun fun u hu => ⟨hu.part .tallies, hu.replied⟩

theorem tallies_cleared (h : RequestAtHead s tag 0x28 fields) (hgs : namedGroups g = some gs) (hfields : fields = be 1 g ++ 1 :: more) :
    Yields .tallyReadClear s fun u =>
      (∀ (k : TallyGroup) (c : Fin 12), u.tally k c = if k ∈ gs then { count := 0, half := false, full := false } else s.tally k c) ∧
      Replied s u tag 0x28 .accepted (talliesData gs s) := by
  have hvariant : asksClear s fields = true := by
    rw [hfields]
    rfl
  refine request_quiet (c := .tallyReadClear) (variant := asksClear) (run := runTallyRead) (fun _ => rfl) h hvariant
    (runTallyRead_named (clear := true) hfields (namedGroups_lt hgs) hgs) (clearTallies_leaves gs (popRequest s)) (by decide) fun u hu => ⟨fun k c => ?_, hu.replied⟩
  have hsame : u.tally k c = (clearTallies gs (popRequest s)).tally k c := by
    unfold State.tally
    rw [show u.tallies = (clearTallies gs (popRequest s)).tallies from hu.part .tallies]
  rw [hsame, clearTallies_tally]
  rfl

/-! ## The refusals (R190) -/

theorem clearEvents_short (h : RequestAtHead s tag 0x21 fields) (hlen : fields.length < 4) : RefusedRequest .clearEvents s tag 0x21 .malformed none :=
  refused_of_run (c := .clearEvents) (variant := anyForm) (run := runClearEvents) (fun _ => rfl) h rfl (by unfold runClearEvents; rw [takeNat_short hlen]; rfl)

theorem takeNat_split {k : Nat} {bs : List Byte} (h : k ≤ bs.length) : takeNat k bs = some (unbe (bs.take k), bs.drop k) := by
  unfold takeNat
  rw [if_neg (by omega)]

theorem eventEnable_short (h : RequestAtHead s tag 0x22 fields) (hlen : fields.length < 5) : RefusedRequest .eventEnable s tag 0x22 .malformed none := by
  refine refused_of_run (c := .eventEnable) (variant := anyForm) (run := runEventEnable) (fun _ => rfl) h rfl ?_
  unfold runEventEnable
  by_cases hfour : fields.length < 4
  · rw [takeNat_short hfour]
    rfl
  · rw [takeNat_split (by omega), List.drop_eq_nil_of_le (by omega)]
    rfl

theorem tallyRead_short (h : RequestAtHead s tag 0x28 fields) (hlen : fields.length < 2) : RefusedRequest .tallyRead s tag 0x28 .malformed none := by
  have hdrop : fields.drop 1 = [] := List.drop_eq_nil_of_le (by omega)
  refine refused_of_run (c := .tallyRead) (variant := fun s x => !asksClear s x) (run := runTallyRead) (fun _ => rfl) h (by unfold asksClear; rw [hdrop]; rfl) ?_
  unfold runTallyRead
  by_cases hone : fields.length < 1
  · rw [takeNat_short hone]
    rfl
  · rw [takeNat_split (by omega), hdrop]
    dsimp only
    cases namedGroups (unbe (fields.take 1)) <;> rfl

theorem eventEnable_flag {x : Byte} (h : RequestAtHead s tag 0x22 fields) (hfields : fields = be 4 sel ++ x :: more) (h0 : x ≠ 0) (h1 : x ≠ 1) :
    RefusedRequest .eventEnable s tag 0x22 .malformed none := by
  have hlen : (be 4 sel).length = 4 := be_length 4 sel
  refine refused_of_run (c := .eventEnable) (variant := anyForm) (run := runEventEnable) (fun _ => rfl) h rfl ?_
  unfold runEventEnable
  rw [hfields, takeNat_split (by rw [List.length_append, hlen]; omega), List.drop_left' hlen]
  dsimp only
  rw [takeFlag_bad h0 h1]
  rfl

theorem runTallyRead_unnamed {x : Byte} (hfields : fields = be 1 g ++ x :: more) (hg : g < 256) (hbad : 3 < g ∨ x ≠ 0 ∧ x ≠ 1) :
    runTallyRead fields s = malformed s := by
  unfold runTallyRead
  rw [hfields, takeNat_be (by omega)]
  dsimp only
  rcases hbad with hg3 | ⟨h0, h1⟩
  · rw [namedGroups_none hg3]
  · rw [takeFlag_bad h0 h1]
    cases namedGroups g <;> rfl

theorem tallyRead_unnamed {x : Byte} (h : RequestAtHead s tag 0x28 fields) (hfields : fields = be 1 g ++ x :: more) (hg : g < 256)
    (hbad : 3 < g ∨ x ≠ 0 ∧ x ≠ 1) : RefusedRequest (if x = 1 then .tallyReadClear else .tallyRead) s tag 0x28 .malformed none := by
  have hasks : asksClear s fields = (x == 1#8) := by
    rw [hfields]
    show (((be 1 g ++ x :: more).drop 1).head? == some 1#8) = _
    rw [List.drop_left' (be_length 1 g)]
    rfl
  by_cases hx : x = 1
  · rw [if_pos hx]
    exact refused_of_run (c := .tallyReadClear) (variant := asksClear) (run := runTallyRead) (fun _ => rfl) h (by rw [hasks, hx]; rfl)
      (runTallyRead_unnamed hfields hg hbad)
  · rw [if_neg hx]
    exact refused_of_run (c := .tallyRead) (variant := fun s x => !asksClear s x) (run := runTallyRead) (fun _ => rfl) h
      (by rw [hasks, show (x == 1#8) = false from beq_eq_false_iff_ne.mpr hx]; rfl) (runTallyRead_unnamed hfields hg hbad)

end

/-- Settles O53: each request by what it reads, changes and answers. -/
theorem eventAndTallyRequests : Obligations.EventAndTallyRequests := by
  unfold Obligations.EventAndTallyRequests
  intro s tag fields flag tallies
  have htallies (gs : List TallyGroup) : tallies gs = talliesData gs s := by
    show List.flatMap _ gs = List.flatMap _ gs
    congr 1
    funext g
    rw [rowBytes_finRange]
    show _ ++ be 1 s.timing.groups[g.row].mode.code ++ [_] = _ ++ (be 1 s.timing.groups[g.row].mode.code ++ [_])
    rw [List.append_assoc]
    rfl
  have hevents : (Event.all.flatMap fun e => [flag (s.event e).pending, flag (s.event e).enable] ++ be 4 (s.event e).detail.toNat ++ be 1 (s.event e).count) ++
      ([EventClass.day, .link, .till, .stock, .count, .safe, .handover].map fun c =>
        flag (Event.all.any fun e => e.cls == c && (s.event e).pending && (s.event e).enable)) ++ be 1 s.vector = eventsData s := by
    have hsummary (c : EventClass) : (Event.all.any fun e => e.cls == c && (s.event e).pending && (s.event e).enable) = summary s c := by
      unfold summary State.active
      simp only [Bool.and_assoc]
    simp only [hsummary]
    rfl
  refine ⟨by decide, rfl, rfl, rfl, rfl, fun h => ?_, clearEvents_short, eventEnable_short, tallyRead_short,
    fun sel x more h hfields h0 h1 => eventEnable_flag h hfields h0 h1, fun g x more h hfields hg hbad => tallyRead_unnamed h hfields hg hbad,
    fun sel more h hfields hsel => events_cleared h hfields hsel, fun sel value more h hfields hsel => events_enabled h hfields hsel,
    fun g gs more h hgs => ?_⟩
  · rw [hevents]
    exact events_read h
  · rw [htallies]
    exact ⟨tallies_read h hgs, tallies_cleared h hgs⟩

end Sys2Proof.Machine.Effects

/-! PROOF. The day requests: DAY_OPEN, DAY_TRADE, DAY_CLOSE with and without force, and SET_CLOCK (R69, R74, R109, R110, R137, R142 to R145, R149). -/

namespace Sys2Proof.Machine.Effects

open Sys2Proof Sys2Proof.Machine Sys2Proof.Machine.Takings Sys2Proof.Machine.TallyCount

section
variable {s s' t u v : State} {tag : Word16} {fields more : List Byte} {m : Nat} {force : Bool} {c : Instr} {i : Fin 24}

/-! ## DAY_OPEN and DAY_TRADE (R142, R143) -/

theorem dayOpen_refused (h : RequestAtHead s tag 0x30 fields) (hday : s.day.state ≠ .night) :
    RefusedRequest .dayOpen s tag 0x30 .wrongDayState (some s.day.state.code) :=
  refused_of_run (c := .dayOpen) (variant := anyForm) (run := runDayOpen) (fun _ => rfl) h rfl (if_neg hday)

theorem dayTrade_refused (h : RequestAtHead s tag 0x31 fields) (hday : s.day.state ≠ .opening) :
    RefusedRequest .dayTrade s tag 0x31 .wrongDayState (some s.day.state.code) :=
  refused_of_run (c := .dayTrade) (variant := anyForm) (run := runDayTrade) (fun _ => rfl) h rfl (if_neg hday)

theorem day_opened (h : RequestAtHead s tag 0x30 fields) (hday : s.day.state = .night) : Yields .dayOpen s fun u =>
    u.day = { s.day with state := .opening, number := (s.day.number + 1) % 65536, armed := false } ∧
    (∀ t : Fin 160, u.drawers[t] = { Drawer.reset with openOrder := s.drawers[t].openOrder }) ∧
    u.acc = { opening := min 4294967295 (holdingValue s), countedIn := 0, restocked := 0, madeUp := 0, adjustment := 0
              saturated := decide (4294967295 < holdingValue s) } ∧
    (u.event .dayChanged).pending = true ∧ (u.event .dayChanged).detail = 1 ∧
    RepliedDetail s u tag 0x30 .accepted ((s.day.number + 1) % 65536) [] := by
  have hrun : runDayOpen fields (popRequest s) = (openDay (popRequest s), Result.of .accepted (num (openDay (popRequest s)).day.number)) := if_pos hday
  have hleaves := openDay_leaves (popRequest s)
  have hopened := openDay_day (popRequest s)
  have hdrawers := openDay_drawers (popRequest s)
  have hacc := openDay_acc (popRequest s) s (holding_congr rfl rfl)
  have hevent := openDay_event (popRequest s)
  generalize openDay (popRequest s) = v at hrun hleaves hopened hdrawers hacc hevent
  refine request_yields (c := .dayOpen) (variant := anyForm) (run := runDayOpen) (fun _ => rfl) h rfl hrun hleaves (by decide)
    (fun hclosing => by rw [hopened] at hclosing; cases hclosing) fun u hu => ?_
  have hdirect := hu.direct .dayChanged
  refine ⟨(hu.part .day).trans hopened, fun t => ?_, (hu.part .acc).trans hacc, by rw [hdirect]; exact hevent.1, by rw [hdirect]; exact hevent.2, ?_⟩
  · rw [show u.drawers = v.drawers from hu.part .drawers, hdrawers]
    exact ofFn_row _ t
  · have hreplied := hu.repliedDetail
    rw [hopened] at hreplied
    exact hreplied

theorem day_traded (h : RequestAtHead s tag 0x31 fields) (hday : s.day.state = .opening) : Yields .dayTrade s fun u =>
    u.day = { s.day with state := .trading } ∧ (u.event .dayChanged).pending = true ∧ (u.event .dayChanged).detail = 2 ∧
    Replied s u tag 0x31 .accepted [] := by
  have hrun : runDayTrade fields (popRequest s) = (changeDay .trading (popRequest s), Result.of .accepted none) := if_pos hday
  have hevent := changeDay_event .trading (popRequest s)
  have hleaves := changeDay_leaves .trading (popRequest s)
  have hmoved : (changeDay .trading (popRequest s)).day = { s.day with state := .trading } := rfl
  generalize changeDay .trading (popRequest s) = v at hrun hevent hleaves hmoved
  refine request_yields (c := .dayTrade) (variant := anyForm) (run := runDayTrade) (fun _ => rfl) h rfl hrun hleaves (by decide)
    (fun hclosing => by rw [hmoved] at hclosing; cases hclosing) fun u hu => ?_
  rw [hu.direct .dayChanged, hevent]
  exact ⟨(hu.part .day).trans hmoved, rfl, rfl, hu.replied⟩

/-! ## SET_CLOCK (R149) -/

theorem runSetClock_read (hfields : fields = be 2 m ++ more) (hm : m < 256 ^ 2) :
    (1439 < m → runSetClock fields s = (s, Result.of .malformed (num m))) ∧
    (m ≤ 1439 → s.day.state ≠ .night → runSetClock fields s = (s, Result.of .wrongDayState (dayDetail s))) ∧
    (m ≤ 1439 → s.day.state = .night → s.day.armed = false → runSetClock fields s = (s, Result.of .clockSet (num s.day.clock))) ∧
    (m ≤ 1439 → s.day.state = .night → s.day.armed = true → runSetClock fields s = (setDayClock m s, Result.of .accepted (num s.day.clock))) := by
  unfold runSetClock
  rw [hfields, takeNat_be hm]
  dsimp only
  refine ⟨fun hlate => if_pos hlate, fun hle hday => ?_, fun hle hday harmed => ?_, fun hle hday harmed => ?_⟩ <;> rw [if_neg (by omega)]
  · exact if_pos hday
  · rw [if_neg (not_not.mpr hday), harmed]
    rfl
  · rw [if_neg (not_not.mpr hday), harmed]
    rfl

theorem setClock_refusals (h : RequestAtHead s tag 0x33 fields) :
    (fields.length < 2 → RefusedRequest .setClock s tag 0x33 .malformed none) ∧
    ∀ (m : Nat) (more : List Byte), fields = be 2 m ++ more → m < 256 ^ 2 →
      (1439 < m → RefusedRequest .setClock s tag 0x33 .malformed (some m)) ∧
      (m ≤ 1439 → s.day.state ≠ .night → RefusedRequest .setClock s tag 0x33 .wrongDayState (some s.day.state.code)) ∧
      (m ≤ 1439 → s.day.state = .night → s.day.armed = false → RefusedRequest .setClock s tag 0x33 .clockSet (some s.day.clock)) := by
  have hrefused {code : Code} {d : Option Nat} (hr : runSetClock fields (popRequest s) = (popRequest s, Result.of code (d.map (BitVec.ofNat 32)))) :
      RefusedRequest .setClock s tag 0x33 code d :=
    refused_of_run (c := .setClock) (variant := anyForm) (run := runSetClock) (fun _ => rfl) h rfl hr
  refine ⟨fun hlen => hrefused ?_, fun m more hfields hm => ?_⟩
  · unfold runSetClock
    rw [takeNat_short hlen]
    rfl
  · obtain ⟨hlate, hday, hset, -⟩ := runSetClock_read (s := popRequest s) hfields hm
    exact ⟨fun h => hrefused (hlate h), fun hle h => hrefused (hday hle h), fun hle h harmed => hrefused (hset hle h harmed)⟩

theorem clock_set (h : RequestAtHead s tag 0x33 fields) (hfields : fields = be 2 m ++ more) (hm : m ≤ 1439) (hday : s.day.state = .night)
    (harmed : s.day.armed = true) : Yields .setClock s fun u =>
      u.day = { s.day with clock := m, clockSecond := s.seconds, armed := false } ∧ headMissed u = false ∧
      (u.ring = (missedCheck (s.setDay { s.day with clock := m, clockSecond := s.seconds, armed := false })).ring ∧
        u.call = (missedCheck (s.setDay { s.day with clock := m, clockSecond := s.seconds, armed := false })).call ∧
        u.bags = (missedCheck (s.setDay { s.day with clock := m, clockSecond := s.seconds, armed := false })).bags ∧
        u.event .windowMissed = (missedCheck (s.setDay { s.day with clock := m, clockSecond := s.seconds, armed := false })).event .windowMissed) ∧
      RepliedDetail s u tag 0x33 .accepted s.day.clock [] := by
  have hrun := (runSetClock_read (s := popRequest s) hfields (by omega)).2.2.2 hm hday harmed
  have hchecks : setDayClock m (popRequest s) =
      (missedCheck (s.setDay { s.day with clock := m, clockSecond := s.seconds, armed := false })).setTrunk (popRequest s).trunk :=
    checkMissed_setTrunk 16 (popRequest s).trunk (s.setDay { s.day with clock := m, clockSecond := s.seconds, armed := false })
  have hmissed := missedCheck_leaves (s.setDay { s.day with clock := m, clockSecond := s.seconds, armed := false })
  have hdone := missedCheck_done (s.setDay { s.day with clock := m, clockSecond := s.seconds, armed := false })
  have hleaves : unchangedBut [.day, .bags, .ring, .call, .events] (popRequest s) (setDayClock m (popRequest s)) := setDayClock_leaves m _
  have hclock : (setDayClock m (popRequest s)).day = { s.day with clock := m, clockSecond := s.seconds, armed := false } := by
    rw [hchecks]
    exact hmissed .day (by decide)
  refine request_yields (c := .setClock) (variant := anyForm) (run := runSetClock) (fun _ => rfl) h rfl hrun hleaves (by decide)
    (fun hclosing => by rw [hclock, show _ = DayState.night from hday] at hclosing; cases hclosing) fun u hu => ?_
  have hringEnd : u.ring = (setDayClock m (popRequest s)).ring := hu.part .ring
  have hcallEnd : u.call = (setDayClock m (popRequest s)).call := hu.part .call
  have hdayEnd : u.day = (setDayClock m (popRequest s)).day := hu.part .day
  have hbagsEnd : u.bags = (setDayClock m (popRequest s)).bags := hu.part .bags
  have heventEnd := hu.direct .windowMissed
  have hreplied := hu.repliedDetail
  have hdaySame : (missedCheck (s.setDay { s.day with clock := m, clockSecond := s.seconds, armed := false })).day =
      { s.day with clock := m, clockSecond := s.seconds, armed := false } := hmissed .day (by decide)
  rw [hchecks] at hringEnd hcallEnd hbagsEnd heventEnd
  generalize missedCheck (s.setDay { s.day with clock := m, clockSecond := s.seconds, armed := false }) = w at *
  refine ⟨hdayEnd.trans hclock, ?_, ⟨hringEnd, hcallEnd, hbagsEnd, heventEnd⟩, hreplied⟩
  unfold headMissed State.head at hdone ⊢
  rw [hdaySame] at hdone
  simp only [hringEnd, hcallEnd, hdayEnd, hclock]
  exact hdone

end

end Sys2Proof.Machine.Effects

/-! PROOF. DAY_CLOSE, with the orders it cancels and the counts it aborts (R69, R74, R109, R110, R144, R145). -/

namespace Sys2Proof.Machine.Effects

open Sys2Proof Sys2Proof.Machine Sys2Proof.Machine.Takings Sys2Proof.Machine.TallyCount

section
variable {s s' t u v : State} {tag : Word16} {fields more : List Byte} {force : Bool} {c : Instr} {i : Fin 24} {n : Nat} {b : Bag}

/-! ## The state in CLOSING, before the test -/

/-- The day in CLOSING with its PENDING orders cancelled and, with force, its drawers suspended and its sessions aborted. -/
def closingBegun (force : Bool) (s : State) : State :=
  if force then abortSessions ((cancelPending (changeDay .closing s)).setDrawers (mapRows forceDrawer (cancelPending (changeDay .closing s)).drawers))
  else cancelPending (changeDay .closing s)

theorem closeDay_begun (force : Bool) (s : State) : closeDay force s = testClosing (closingBegun force s) := by
  unfold closeDay closingBegun
  cases force <;> rfl

/-- A drawer with its open order cleared where that order is cancelled (R69). -/
def orderCleared (s : State) (t : Fin 160) : Drawer :=
  if ∃ i : Fin 24, s.orders[i].state = .pending ∧ s.orders[i].till = t then { s.drawers[t] with openOrder := none } else s.drawers[t]

/-- What DAY_CLOSE leaves before the closing test. -/
structure ClosingBegun (force : Bool) (s v : State) : Prop where
  leaves : unchangedBut [.trunk, .day, .orders, .stock, .drawers, .events, .sessions, .bags] s v
  day : v.day = { s.day with state := .closing }
  orders : ∀ i : Fin 24, v.orders[i] = if s.orders[i].state = .pending then { s.orders[i] with state := .free, outcome := .cancelled } else s.orders[i]
  stock : ∀ k : Fin 12, v.stock[k] = { s.stock[k] with reserved := s.stock[k].reserved - pendingIssue s k }
  drawers : ∀ t : Fin 160, v.drawers[t] = if force then forceDrawer (orderCleared s t) else orderCleared s t
  cancelled : (∀ i : Fin 24, s.orders[i].state = .pending → (∀ j : Fin 24, i < j → s.orders[j].state ≠ .pending) →
    v.event .orderCancelled = { s.event .orderCancelled with
      pending := true, detail := BitVec.ofNat 32 s.orders[i].till.val
      count := min 255 ((s.event .orderCancelled).count + ((List.finRange 24).filter fun j => s.orders[j].state = .pending).length) })
  kept : (∀ i : Fin 24, s.orders[i].state ≠ .pending) → v.event .orderCancelled = s.event .orderCancelled
  sessions : if force then ∀ x : Fin 4, v.sessions[x].state = .idle else v.sessions = s.sessions
  aborted : force = true → ∀ (n : Nat) (b : Bag), findBag s n = some b → ∀ x : Fin 4, s.sessions[x].state ≠ .idle → s.sessions[x].bag = n → b.session = some x →
    b.state = .counting ∨ b.state = .countSuspended → findBag v n = some { b with state := .outForCount, session := none, entered := s.seconds }
  bags : ∀ (n : Nat) (b : Bag), findBag s n = some b →
    force = false ∨ (∀ x : Fin 4, s.sessions[x].state ≠ .idle → s.sessions[x].bag = n → b.session ≠ some x) → findBag v n = some b
  holds : SealsDistinct s → v.bags.any Bag.holdsClose = s.bags.any Bag.holdsClose

theorem cancelled_event (s : State) :
    (∀ i : Fin 24, s.orders[i].state = .pending → (∀ j : Fin 24, i < j → s.orders[j].state ≠ .pending) →
      (cancelPending s).event .orderCancelled = { s.event .orderCancelled with
        pending := true, detail := BitVec.ofNat 32 s.orders[i].till.val
        count := min 255 ((s.event .orderCancelled).count + ((List.finRange 24).filter fun j => s.orders[j].state = .pending).length) }) ∧
    ((∀ i : Fin 24, s.orders[i].state ≠ .pending) → (cancelPending s).event .orderCancelled = s.event .orderCancelled) := by
  have hevent := cancel_event (List.finRange 24) (List.nodup_finRange 24) s
  rw [cancelPending_fold]
  refine ⟨fun i hi hlast => ?_, fun hnone => ?_⟩
  · rw [hevent, last_of (fun j => s.orders[j].state = .pending) i hi hlast]
  · have hempty : ((List.finRange 24).filter fun j => decide (s.orders[j].state = .pending)) = [] :=
      List.filter_eq_nil_iff.mpr fun j _ => by simpa using hnone j
    rw [hevent, hempty]
    rfl

theorem cancelPending_begun (s : State) : ClosingBegun false s (cancelPending (changeDay .closing s)) := by
  have hleaves := cancelPending_leaves (changeDay .closing s)
  have hchanged := changeDay_leaves .closing s
  have hboth := unchangedBut_trans hchanged hleaves
  have hraised : (changeDay .closing s).event .orderCancelled = s.event .orderCancelled :=
    (raise_event .dayChanged .orderCancelled _ _).trans (if_neg (by decide))
  have horders (i : Fin 24) := cancel_orders (List.finRange 24) (List.nodup_finRange 24) (changeDay .closing s) i
  have hstock (k : Fin 12) := cancel_stock (List.finRange 24) (List.nodup_finRange 24) (changeDay .closing s) k
  have hdrawers (t : Fin 160) := cancel_drawers (List.finRange 24) (List.nodup_finRange 24) (changeDay .closing s) t
  obtain ⟨hcancelled, hkept⟩ := cancelled_event (changeDay .closing s)
  rw [hraised] at hcancelled hkept
  simp only [List.mem_finRange, true_and] at horders hdrawers
  rw [← cancelPending_fold] at horders hstock hdrawers
  have hbags : (cancelPending (changeDay .closing s)).bags = s.bags := hboth .bags (by decide)
  exact
  { leaves := unchangedBut_mono hboth (by decide)
    day := hleaves .day (by decide)
    orders := horders
    stock := hstock
    drawers := hdrawers
    cancelled := hcancelled
    kept := hkept
    sessions := hboth .sessions (by decide)
    aborted := nofun
    bags := fun n b hb _ => (findBag_congr hbags n).trans hb
    holds := fun _ => by rw [hbags] }

/-- With force, drawers and sessions follow. -/
theorem ClosingBegun.forced (h : ClosingBegun false s v) (hbags : v.bags = s.bags) (hset : unchangedBut [.drawers] v t)
    (hdrawers : ∀ k : Fin 160, t.drawers[k] = forceDrawer v.drawers[k]) : ClosingBegun true s (abortSessions t) := by
  have haborts := abortSessions_leaves t
  have hboth := unchangedBut_trans hset haborts
  have hsessions : t.sessions = s.sessions := (hset .sessions (by decide)).trans h.sessions
  have hseconds : t.seconds = s.seconds := (hset .seconds (by decide)).trans (h.leaves .seconds (by decide))
  have hsame : t.bags = s.bags := (hset .bags (by decide)).trans hbags
  have hfind (n : Nat) (b : Bag) (hb : findBag s n = some b) : findBag t n = some b := (findBag_congr hsame n).trans hb
  have hevent (e : Event) : (abortSessions t).event e = v.event e := by
    unfold State.event
    rw [show (abortSessions t).events = v.events from hboth .events (by decide)]
  exact
  { leaves := unchangedBut_mono (unchangedBut_trans h.leaves hboth) (by decide)
    day := (hboth .day (by decide)).trans h.day
    orders := fun i => by
      rw [show (abortSessions t).orders = v.orders from hboth .orders (by decide)]
      exact h.orders i
    stock := fun k => by
      rw [show (abortSessions t).stock = v.stock from hboth .stock (by decide)]
      exact h.stock k
    drawers := fun k => by
      rw [show (abortSessions t).drawers = t.drawers from haborts .drawers (by decide), if_pos rfl, hdrawers, h.drawers]
      rfl
    cancelled := fun i hi hlast => (hevent _).trans (h.cancelled i hi hlast)
    kept := fun hnone => (hevent _).trans (h.kept hnone)
    sessions := by
      show ∀ x : Fin 4, (abortSessions t).sessions[x].state = .idle
      intro x
      rw [abortSessions_fold]
      exact aborts_idle _ (List.nodup_finRange 4) _ x (.inl (List.mem_finRange x))
    aborted := fun _ n b hb x hbusy hbag hsession hstate => by
      rw [abortSessions_fold, ← hseconds]
      exact aborts_move (List.finRange 4) (List.nodup_finRange 4) t n b (hfind n b hb) x (List.mem_finRange x) (by rw [hsessions]; exact hbusy)
        (by rw [hsessions]; exact hbag) hsession hstate
    bags := fun n b hb hapart => by
      rw [abortSessions_fold]
      refine aborts_keep (List.finRange 4) (List.nodup_finRange 4) t n b (hfind n b hb) fun x _ => ?_
      rw [hsessions]
      exact hapart.resolve_left nofun x
    holds := fun hd => by
      rw [abortSessions_fold, aborts_hold (List.finRange 4) t (by rw [hsame]; exact hd.1), hsame] }

theorem closingBegun_spec (force : Bool) (s : State) : ClosingBegun force s (closingBegun force s) := by
  cases force with
  | false => exact cancelPending_begun s
  | true =>
    have hbags : (cancelPending (changeDay .closing s)).bags = s.bags :=
      unchangedBut_trans (changeDay_leaves .closing s) (cancelPending_leaves _) .bags (by decide)
    exact (cancelPending_begun s).forced (t := (cancelPending (changeDay .closing s)).setDrawers (mapRows forceDrawer (cancelPending (changeDay .closing s)).drawers))
      hbags (setDrawers_leaves _ _) fun k => ofFn_row _ k

/-! ## The closing test (R145) -/

/-- The six conditions of a close, of the state that a DAY_CLOSE finds: with force, drawers and sessions are no obstacle. -/
def MayClose (force : Bool) (s : State) : Prop :=
  (force = true ∨
    (∀ t : Fin 160, s.drawers[t].state = .closed ∨ s.drawers[t].state = .cashedUp ∨ s.drawers[t].state = .suspended) ∧
    ∀ x : Fin 4, s.sessions[x].state = .idle) ∧
  s.call.phase = .idle ∧ (∀ b ∈ s.bags, ¬(b.kind = .floatBag ∧ b.state = .madeUp) ∧ b.state ≠ .hatchHeld) ∧
  s.safe.lock = .locked

theorem orderCleared_state (s : State) (t : Fin 160) : (orderCleared s t).state = s.drawers[t].state ∧ (orderCleared s t).expected = s.drawers[t].expected ∧
    (orderCleared s t).due = s.drawers[t].due := by
  unfold orderCleared
  split <;> exact ⟨rfl, rfl, rfl⟩

theorem forceDrawer_state (d : Drawer) :
    (d.state = .floated ∨ d.state = .opened ∨ d.state = .hold → (forceDrawer d).state = .suspended ∧ (forceDrawer d).due = false) ∧
    ((forceDrawer d).state = .closed ∨ (forceDrawer d).state = .cashedUp ∨ (forceDrawer d).state = .suspended) ∧
    (forceDrawer d).expected = d.expected ∧ (forceDrawer d).openOrder = d.openOrder := by
  unfold forceDrawer
  refine ⟨fun h => ?_, ?_, ?_, ?_⟩
  · rcases h with h | h | h <;> rw [h] <;> exact ⟨rfl, rfl⟩
  · split
    · exact .inr (.inr rfl)
    · next h => cases hd : d.state <;> simp_all
  · split <;> rfl
  · split <;> rfl

theorem holdsClose_none (l : List Bag) : (∀ b ∈ l, ¬(b.kind = .floatBag ∧ b.state = .madeUp) ∧ b.state ≠ .hatchHeld) ↔ l.any Bag.holdsClose = false := by
  rw [List.any_eq_false]
  refine forall₂_congr fun b _ => ?_
  unfold Bag.holdsClose
  simp only [Bool.or_eq_true, Bool.and_eq_true, decide_eq_true_eq, not_or]

theorem ClosingBegun.mayClose (h : ClosingBegun force s v) (hd : SealsDistinct s) : closingConditions v = true ↔ MayClose force s := by
  have hbags : (∀ b ∈ v.bags, ¬(b.kind = .floatBag ∧ b.state = .madeUp) ∧ b.state ≠ .hatchHeld) ↔
      ∀ b ∈ s.bags, ¬(b.kind = .floatBag ∧ b.state = .madeUp) ∧ b.state ≠ .hatchHeld := by
    rw [holdsClose_none, holdsClose_none, h.holds hd]
  have hpart : ((∀ t : Fin 160, v.drawers[t].state = .closed ∨ v.drawers[t].state = .cashedUp ∨ v.drawers[t].state = .suspended) ∧
      ∀ x : Fin 4, v.sessions[x].state = .idle) ↔ (force = true ∨
        (∀ t : Fin 160, s.drawers[t].state = .closed ∨ s.drawers[t].state = .cashedUp ∨ s.drawers[t].state = .suspended) ∧
        ∀ x : Fin 4, s.sessions[x].state = .idle) := by
    have hdrawers := h.drawers
    have hsessions := h.sessions
    cases force with
    | true =>
      refine iff_of_true ⟨fun t => ?_, hsessions⟩ (.inl rfl)
      rw [hdrawers t]
      exact (forceDrawer_state _).2.1
    | false =>
      have hstate (t : Fin 160) : v.drawers[t].state = s.drawers[t].state := by
        rw [hdrawers t]
        exact (orderCleared_state s t).1
      rw [show v.sessions = s.sessions from hsessions]
      simp only [hstate, Bool.false_eq_true, false_or]
  rw [closingConditions_iff, hbags, show v.call = s.call from h.leaves .call (by decide), show v.safe = s.safe from h.leaves .safe (by decide), MayClose,
    ← hpart, and_assoc]

theorem testClosing_cases (h : v.day.state = .closing) : closingConditions v = true ∧ testClosing v = completeClose v ∨ closingConditions v = false ∧ testClosing v = v := by
  unfold testClosing
  cases hc : closingConditions v
  · exact .inr ⟨rfl, if_neg (by simp)⟩
  · exact .inl ⟨rfl, if_pos ⟨h, rfl⟩⟩

/-- What the closing test does to the state in CLOSING. -/
structure ClosingTested (v t : State) : Prop where
  leaves : unchangedBut [.bags, .day, .events] v t
  day : t.day.state = .night ∧ closingConditions v = true ∨ t.day.state = .closing ∧ closingConditions v = false ∧ t = v
  event : ∀ e, e ≠ .dayChanged → t.event e = v.event e
  bags : ∀ n b, findBag v n = some b → b.state.terminal = false ∨ t.day.state = .closing → findBag t n = some b

theorem testClosing_tested (h : v.day.state = .closing) : ClosingTested v (testClosing v) := by
  rcases testClosing_cases h with ⟨hc, he⟩ | ⟨hc, he⟩ <;> rw [he]
  · have hday : (completeClose v).day.state = .night := rfl
    refine ⟨completeClose_leaves v, .inl ⟨hday, hc⟩, fun e hne => (completeClose_event v e).trans (if_neg hne.symm), fun n b hb hor => ?_⟩
    have hopen : b.state.terminal = false := hor.resolve_right (by rw [hday]; nofun)
    exact (findBag_congr (changeDay_leaves _ _ .bags (by decide)) n).trans (purge_find v n b hb hopen)
  · exact ⟨unchangedBut_refl _ v, .inr ⟨h, hc, rfl⟩, fun _ _ => rfl, fun _ _ hb _ => hb⟩

/-! ## The request (R144) -/

theorem takeFlag_none (h : ∀ (force : Bool) (more : List Byte), fields ≠ flagByte force :: more) : takeFlag fields = none := by
  cases fields with
  | nil => rfl
  | cons x more => exact takeFlag_bad (fun h0 => h false more (by rw [h0]; rfl)) fun h1 => h true more (by rw [h1]; rfl)

theorem dayClose_malformed (h : RequestAtHead s tag 0x32 fields) (hbad : ∀ (force : Bool) (more : List Byte), fields ≠ flagByte force :: more) :
    RefusedRequest .dayClose s tag 0x32 .malformed none := by
  have hvariant : (!asksForce s fields) = true := by
    cases fields with
    | nil => rfl
    | cons x more =>
      have hne : (some x == some 1#8) = false := beq_eq_false_iff_ne.mpr fun hx => hbad true more (by rw [Option.some.inj hx]; rfl)
      show (!(some x == some 1#8)) = true
      rw [hne]
      rfl
  refine refused_of_run (c := .dayClose) (variant := fun s x => !asksForce s x) (run := runDayClose) (fun _ => rfl) h hvariant ?_
  unfold runDayClose
  rw [takeFlag_none hbad]
  rfl

/-- The two forms of a DAY_CLOSE, by its option. -/
theorem dayClose_variant (hfields : fields = flagByte force :: more) (hc : c = .dayClose ∧ force = false ∨ c = .dayCloseForce ∧ force = true) :
    ∃ variant, (∀ s, exec c s = takeRequest settle 0x32 variant runDayClose s) ∧ variant s fields = true := by
  rcases hc with ⟨rfl, hf⟩ | ⟨rfl, hf⟩
  · exact ⟨fun s x => !asksForce s x, fun _ => rfl, by rw [hfields, hf]; rfl⟩
  · exact ⟨asksForce, fun _ => rfl, by rw [hfields, hf]; rfl⟩

theorem runDayClose_read (hfields : fields = flagByte force :: more) :
    (s.day.state = .opening ∨ s.day.state = .trading → runDayClose fields s = (closeDay force s, Result.of .accepted (dayDetail (closeDay force s)))) ∧
    (¬(s.day.state = .opening ∨ s.day.state = .trading) → runDayClose fields s = (s, Result.of .wrongDayState (dayDetail s))) := by
  unfold runDayClose
  rw [hfields, takeFlag_flagByte]
  exact ⟨fun h => if_pos h, fun h => if_neg h⟩

theorem dayClose_refused (h : RequestAtHead s tag 0x32 fields) (hfields : fields = flagByte force :: more) (hday : s.day.state = .night ∨ s.day.state = .closing) :
    RefusedRequest (if force then .dayCloseForce else .dayClose) s tag 0x32 .wrongDayState (some s.day.state.code) := by
  obtain ⟨variant, hexec, hvariant⟩ := dayClose_variant (s := s) (c := if force then .dayCloseForce else .dayClose) hfields (by cases force <;> simp)
  exact refused_of_run hexec h hvariant ((runDayClose_read hfields).2 (by
    show ¬(s.day.state = .opening ∨ s.day.state = .trading)
    rcases hday with hd | hd <;> rw [hd] <;> decide))

/-- A DAY_CLOSE taken: the state in CLOSING, the test on it, and the answer. -/
structure DayClosed (force : Bool) (s v u : State) (tag : Word16) : Prop where
  begun : ClosingBegun force s v
  leaves : unchangedBut ([.bags, .day, .events] ++ Part.replyParts) v u
  day : u.day.state = .night ∧ closingConditions v = true ∨ u.day.state = .closing ∧ closingConditions v = false
  event : u.event .orderCancelled = v.event .orderCancelled
  bags : ∀ n b, findBag v n = some b → b.state.terminal = false ∨ u.day.state = .closing → findBag u n = some b
  answer : RepliedDetail s u tag 0x32 .accepted u.day.state.code []

theorem ClosingBegun.of_popRequest (h : ClosingBegun force (popRequest s) v) : ClosingBegun force s v where
  leaves := unchangedBut_mono (unchangedBut_trans (popRequest_leaves s) h.leaves) (by decide)
  day := h.day
  orders := h.orders
  stock := h.stock
  drawers := h.drawers
  cancelled := h.cancelled
  kept := h.kept
  sessions := h.sessions
  aborted := h.aborted
  bags := h.bags
  holds := h.holds

theorem day_closed (h : RequestAtHead s tag 0x32 fields) (hfields : fields = flagByte force :: more)
    (hc : c = .dayClose ∧ force = false ∨ c = .dayCloseForce ∧ force = true) (hday : s.day.state = .opening ∨ s.day.state = .trading) :
    Yields c s fun u => ∃ v, DayClosed force s v u tag := by
  obtain ⟨variant, hexec, hvariant⟩ := dayClose_variant (s := s) hfields hc
  have hrun := (runDayClose_read (s := popRequest s) hfields).1 hday
  have hleaves : unchangedBut ([.day, .bags, .orders, .stock, .drawers, .events] ++ if force then [.sessions] else []) (popRequest s) (closeDay force (popRequest s)) :=
    closeDay_leaves force (popRequest s)
  have hbegun := closingBegun_spec force (popRequest s)
  have htested := testClosing_tested (v := closingBegun force (popRequest s)) (by rw [hbegun.day])
  rw [closeDay_begun] at hrun hleaves
  generalize closingBegun force (popRequest s) = v at hrun hleaves hbegun htested
  refine request_yields hexec h hvariant hrun hleaves (by cases force <;> decide) (fun hclosing hconditions => ?_) fun u hu => ⟨v, ?_⟩
  · rcases htested.day with ⟨hnight, -⟩ | ⟨-, hfalse, hsame⟩
    · rw [hclosing] at hnight
      cases hnight
    · rw [hsame, hfalse] at hconditions
      cases hconditions
  · have hdayEnd : u.day = (testClosing v).day := hu.part .day
    have hbagsEnd : u.bags = (testClosing v).bags := hu.part .bags
    refine ⟨hbegun.of_popRequest, ?_, ?_, ?_, fun n b hb hor => ?_, ?_⟩
    · exact unchangedBut_trans htested.leaves hu.leaves
    · rw [hdayEnd]
      rcases htested.day with hnight | ⟨hclosing, hfalse, -⟩
      · exact .inl hnight
      · exact .inr ⟨hclosing, hfalse⟩
    · exact (hu.direct .orderCancelled).trans (htested.event _ (by decide))
    · rw [hdayEnd] at hor
      exact (findBag_congr hbagsEnd n).trans (htested.bags n b hb hor)
    · have hreplied := hu.repliedDetail
      rw [← hdayEnd] at hreplied
      exact hreplied

/-- What a DAY_CLOSE leaves at the drawers, by its option. -/
theorem ClosingBegun.drawer (h : ClosingBegun force s v) (k : Fin 160) :
    ((∃ i : Fin 24, s.orders[i].state = .pending ∧ s.orders[i].till = k) → v.drawers[k].openOrder = none) ∧
    ((∀ i : Fin 24, s.orders[i].state = .pending → s.orders[i].till ≠ k) → v.drawers[k].openOrder = s.drawers[k].openOrder) ∧
    (force = true → s.drawers[k].state = .floated ∨ s.drawers[k].state = .opened ∨ s.drawers[k].state = .hold →
      v.drawers[k].state = .suspended ∧ v.drawers[k].due = false ∧ v.drawers[k].expected = s.drawers[k].expected) ∧
    (force = false → v.drawers[k].state = s.drawers[k].state) := by
  obtain ⟨hstate, hexpected, -⟩ := orderCleared_state s k
  obtain ⟨hforced, -, hkept, hopen⟩ := forceDrawer_state (orderCleared s k)
  have hrow := h.drawers k
  have horder : v.drawers[k].openOrder = (orderCleared s k).openOrder := by
    rw [hrow]
    split
    · exact hopen
    · rfl
  refine ⟨fun hpending => ?_, fun hnone => ?_, fun hf htrading => ?_, fun hf => ?_⟩
  · rw [horder, orderCleared, if_pos hpending]
  · rw [horder, orderCleared, if_neg fun ⟨i, hi, ht⟩ => hnone i hi ht]
  · rw [hrow, if_pos hf, hkept, hexpected]
    rw [← hstate] at htrading
    exact ⟨(hforced htrading).1, (hforced htrading).2, rfl⟩
  · rw [hrow, hf, if_neg (by decide)]
    exact hstate

end

/-- Settles O54: the day requests one by one; a DAY_CLOSE by the state in CLOSING and the test on it. -/
theorem dayRequests : Obligations.DayRequests := by
  unfold Obligations.DayRequests
  refine fun s tag fields => ⟨dayOpen_refused, dayTrade_refused, dayClose_malformed, fun force more h hfields hday => dayClose_refused h hfields hday,
    setClock_refusals, day_opened, day_traded, fun c force more hc h hfields hday => ?_, fun m more h hfields hm hday harmed => clock_set h hfields hm hday harmed⟩
  obtain ⟨u, hu, v, hclosed⟩ := day_closed h hfields hc hday
  have hbegun := hclosed.begun
  have hpart (b : Part) (hb : b ∉ [.bags, .day, .events] ++ Part.replyParts := by decide) : b.same v u := hclosed.leaves b hb
  have hdrawers : u.drawers = v.drawers := hpart .drawers
  have hsessions : u.sessions = v.sessions := hpart .sessions
  have hcases := hbegun.sessions
  refine ⟨u, hu, hclosed.day.imp And.left And.left, fun hd => ?_, fun i hi => ?_, fun i hi => ?_, fun k => ?_, fun t ht => ?_, fun t ht => ?_,
    fun i hi hlast => ?_, fun hnone => ?_, fun hf => ?_, fun hf => ?_, fun n b hb hor => ⟨fun hf x hbusy hbag hsession hstate => ?_, fun hapart => ?_⟩, hclosed.answer⟩
  · show _ ↔ MayClose force s
    rw [← hbegun.mayClose hd]
    rcases hclosed.day with ⟨hnight, hmay⟩ | ⟨hclosing, hmay⟩
    · exact iff_of_true hnight hmay
    · exact iff_of_false (by rw [hclosing]; nofun) (by rw [hmay]; nofun)
  · rw [show u.orders = v.orders from hpart .orders, hbegun.orders, if_pos hi]
  · rw [show u.orders = v.orders from hpart .orders, hbegun.orders, if_neg hi]
  · rw [show u.stock = v.stock from hpart .stock, hbegun.stock]
  · rw [hdrawers]
    exact (hbegun.drawer t).1 ht
  · rw [hdrawers]
    exact (hbegun.drawer t).2.1 ht
  · rw [hclosed.event]
    exact hbegun.cancelled i hi hlast
  · rw [hclosed.event]
    exact hbegun.kept hnone
  · rw [hf] at hcases
    rw [hsessions, hdrawers]
    exact ⟨hcases, fun t => (hbegun.drawer t).2.2.1 hf⟩
  · rw [hf] at hcases
    rw [hsessions, hdrawers]
    exact ⟨hcases, fun t => (hbegun.drawer t).2.2.2 hf⟩
  · exact hclosed.bags n _ (hbegun.aborted hf n b hb x hbusy hbag hsession hstate) (.inl rfl)
  · exact hclosed.bags n b (hbegun.bags n b hb hapart) hor

end Sys2Proof.Machine.Effects

/-! PROOF. A request served that may complete a close, and the requests at the ring and the hatch (R121, R122, R136, R190). -/

namespace Sys2Proof.Machine.Effects

open Sys2Proof Sys2Proof.Machine Sys2Proof.Machine.Takings Sys2Proof.Machine.TallyCount

section
variable {s s' t u v : State} {tag : Word16} {code : Byte} {fields more : List Byte} {r : Result} {c : Instr} {variant : State → List Byte → Bool}
  {run : List Byte → State → State × Result} {P : State → Prop} {n k : Nat} {b b' : Bag} {i : Fin 16}

/-! ## A request served -/

/-- The end of a request whose rule left the state `s'` and the result `r`; the end of the taking may complete a close. -/
structure RequestEnd (s s' : State) (tag : Word16) (code : Byte) (r : Result) (u : State) : Prop where
  parts : unchangedBut ([.bags, .day] ++ Part.replyParts) s' u
  event : ∀ e : Event, e.indirect = false → e ≠ .dayChanged → u.event e = s'.event e
  bags : ∀ n b, findBag s' n = some b → b.state.terminal = false → findBag u n = some b
  unclosed : s'.day.state ≠ .closing → u.bags = s'.bags ∧ u.day = s'.day
  reply : ∃ d, (∀ w, r.detail = some w → d = w) ∧ u.trunk = { s.trunk with
    buffer := s.trunk.buffer.tail, reply := some { tag := tag, code := code, result := r.code, detail := d, data := r.data } }

theorem RequestEnd.part (h : RequestEnd s s' tag code r u) (p : Part) (hp : p ∉ [.bags, .day] ++ Part.replyParts := by decide) : p.same s' u := h.parts p hp

theorem RequestEnd.replied {result : Code} {detail : Option Word32} {data : List Byte}
    (h : RequestEnd s s' tag code { code := result, detail := detail, data := data } u) : Replied s u tag code result data := by
  obtain ⟨d, -, htrunk⟩ := h.reply
  exact ⟨by rw [htrunk], d, by rw [htrunk]⟩

theorem RequestEnd.repliedDetail {result : Code} {n : Nat} {data : List Byte}
    (h : RequestEnd s s' tag code { code := result, detail := num n, data := data } u) : RepliedDetail s u tag code result n data := by
  obtain ⟨d, hd, htrunk⟩ := h.reply
  exact ⟨by rw [htrunk], by rw [htrunk, hd _ rfl]⟩

/-- A request whose rule leaves the trunk and frees no place for an owed command. -/
theorem request_ends (hc : ∀ s, exec c s = takeRequest settle code variant run s) (h : RequestAtHead s tag code fields) (hv : variant s fields = true)
    (hr : run fields (popRequest s) = (s', r)) (htrunk : s'.trunk = (popRequest s).trunk)
    (hcommand : commandPlaceable s' = true → commandPlaceable s = true) (hP : ∀ u, RequestEnd s s' tag code r u → P u) : Yields c s P := by
  obtain ⟨h1, h2, h3⟩ := h
  obtain ⟨rest, h3⟩ : ∃ rest, s.trunk.buffer = .request tag code fields :: rest := by
    cases hb : s.trunk.buffer with
    | nil => rw [hb] at h3; cases h3
    | cons a rest => rw [hb] at h3; cases h3; exact ⟨rest, rfl⟩
  obtain ⟨d, n, hd, ha⟩ := answerRequest_spec tag code r.code r.detail r.data s'
  have htaken : exec c s = .next (settle s (answerRequest tag code r.code r.detail r.data s')) := by
    rw [hc, takeRequest_taken h1 h2 h3 hv, hr]
  have hanswer : (answerRequest tag code r.code r.detail r.data s').trunk = { s.trunk with
      buffer := s.trunk.buffer.tail, reply := some { tag := tag, code := code, result := r.code, detail := d, data := r.data } } := by
    rw [ha, htrunk]
    show ({ popRequest s |>.trunk with reply := _ } : Trunk) = _
    unfold popRequest
    rw [State.setTrunk_trunk, ← h2]
  have hleaves := answerRequest_leaves tag code r.code r.detail r.data s'
  generalize answerRequest tag code r.code r.detail r.data s' = a at htaken hanswer hleaves
  have hdone : WorkDone a (settle s a) := by
    refine workDone_settle (fun hp => hcommand ?_) fun hw => ?_
    · rwa [commandPlaceable_of_leaves hleaves] at hp
    · unfold waitingPlaceable at hw
      rw [hanswer] at hw
      simp [h2] at hw
  have hbags : a.bags = s'.bags := hleaves .bags (by decide)
  have hday : a.day = s'.day := hleaves .day (by decide)
  refine ⟨_, htaken, hP _ ⟨?_, fun e hi he => ?_, fun n b hb ht => hdone.bags n b ((findBag_congr hbags n).trans hb) ht, fun hopen => ?_, d, hd,
    (hdone.part .trunk).trans hanswer⟩⟩
  · exact unchangedBut_mono (unchangedBut_trans hleaves hdone.parts) (by decide)
  · rw [hdone.event hi he]
    unfold State.event
    rw [show a.events = s'.events from hleaves .events (by decide)]
  · obtain ⟨hb, hd, -⟩ := hdone.unclosed (.inl (by rw [hday]; exact hopen))
    exact ⟨hb.trans hbags, hd.trans hday⟩

/-- A rule that leaves trunk, queues, safe and nodes. -/
theorem request_ends_quiet {ex : List Part} (hc : ∀ s, exec c s = takeRequest settle code variant run s) (h : RequestAtHead s tag code fields)
    (hv : variant s fields = true) (hr : run fields (popRequest s) = (s', r)) (hl : unchangedBut ex (popRequest s) s')
    (hex : ∀ b ∈ [Part.trunk, .room, .safe, .nodes], b ∉ ex) (hP : ∀ u, RequestEnd s s' tag code r u → P u) : Yields c s P :=
  request_ends hc h hv hr (hl .trunk (hex _ (by decide))) (fun hp => by
    rwa [commandPlaceable_of_leaves hl (hex _ (by decide)) (hex _ (by decide)) (hex _ (by decide)),
      commandPlaceable_of_leaves (popRequest_leaves s)] at hp) hP

/-! ## CONSIGN_HAND (R121) -/

theorem runConsignHand_read (hfields : fields = be 1 k ++ more) (hk : k < 256) :
    (15 < k → runConsignHand fields s = (s, Result.of .malformed (num k))) ∧
    ∀ i : Fin 16, i.val = k →
      (s.ring[i].owner = .part → runConsignHand fields s = (s, Result.of .protectedEntry (num k))) ∧
      (s.ring[i].owner ≠ .part → s.ring[i].windowEnd < s.day.clock → runConsignHand fields s = (s, Result.of .outOfWindow (num s.day.clock))) := by
  unfold runConsignHand
  rw [hfields, takeNat_be (by omega)]
  dsimp only
  refine ⟨fun hout => ?_, fun i hi => ?_⟩
  · rw [inRange_none.mpr (by omega)]
  · subst hi
    rw [inRange_val]
    dsimp only
    exact ⟨fun howner => if_pos howner, fun howner hlate => by rw [if_neg howner]; exact if_pos hlate⟩

theorem consignHand_refusals (h : RequestAtHead s tag 0x38 fields) (hfields : fields = be 1 k ++ more) (hk : k < 256) :
    (15 < k → RefusedRequest .consignHand s tag 0x38 .malformed (some k)) ∧
    ∀ i : Fin 16, i.val = k →
      (s.ring[i].owner = .part → RefusedRequest .consignHand s tag 0x38 .protectedEntry (some k)) ∧
      (s.ring[i].owner = .office → s.ring[i].windowEnd < s.day.clock → RefusedRequest .consignHand s tag 0x38 .outOfWindow (some s.day.clock)) := by
  have hrefused {x : Code} {d : Option Nat} (hr : runConsignHand fields (popRequest s) = (popRequest s, Result.of x (d.map (BitVec.ofNat 32)))) :
      RefusedRequest .consignHand s tag 0x38 x d := refused_of_run (variant := anyForm) (run := runConsignHand) (fun _ => rfl) h rfl hr
  obtain ⟨hout, hslot⟩ := runConsignHand_read (s := popRequest s) hfields hk
  exact ⟨fun hk => hrefused (hout hk), fun i hi => ⟨fun howner => hrefused ((hslot i hi).1 howner), fun howner hlate =>
    hrefused ((hslot i hi).2 (by show s.ring[i].owner ≠ .part; rw [howner]; nofun) hlate)⟩⟩

theorem slot_handed (h : RequestAtHead s tag 0x38 fields) (hfields : fields = be 1 i.val ++ more) (howner : s.ring[i].owner = .office)
    (hwindow : s.day.clock ≤ s.ring[i].windowEnd) (hpins : pinCheck s [] s.ring[i].outbound = none) : Yields .consignHand s fun u =>
      u.ring = put s.ring i { s.ring[i] with owner := .part, dayPassed := false } ∧
      (∀ n b, findBag s n = some b → findBag u n = some { b with pin := if n ∈ s.ring[i].outbound then some i else b.pin }) ∧
      Replied s u tag 0x38 .accepted [] := by
  subst hfields
  have hpinsPop : pinCheck (popRequest s) [] (popRequest s).ring[i].outbound = none := (pinCheck_congr (s := s) (t := popRequest s) rfl _ _).trans hpins
  have hrun := (runConsignHand_eq (s := popRequest s) (more := more) howner hwindow).trans (congrArg (Option.elim · _ _) hpinsPop)
  have hinputs : closeInputs (handSlot i (popRequest s)) = closeInputs s := closeInputs_pinBags i _ s
  have hleaves := handSlot_leaves i (popRequest s)
  refine request_yields (c := .consignHand) (variant := anyForm) (run := runConsignHand) (fun _ => rfl) h rfl hrun hleaves (by decide)
    (fun hclosing _ => ⟨by rwa [hleaves .day (by decide)] at hclosing, hinputs.symm⟩) fun u hu => ⟨(hu.part .ring).trans rfl, fun n b hb => ?_, hu.replied⟩
  obtain rfl : b.sealNo = n := (findBag_some hb).2
  rw [findBag_congr (hu.part .bags), findBag_handSlot, show findBag (popRequest s) b.sealNo = _ from hb]
  show some (if s.ring[i].outbound.contains b.sealNo then _ else _) = _
  by_cases hn : b.sealNo ∈ s.ring[i].outbound
  · rw [if_pos hn, if_pos (List.contains_iff_mem.mpr hn)]
  · rw [if_neg hn, if_neg (fun h => hn (List.contains_iff_mem.mp h))]

/-! ## CONSIGN_RECALL (R122) -/

theorem runConsignRecall_read (hfields : fields = be 1 k ++ more) (hk : k < 256) :
    (15 < k → runConsignRecall fields s = malformed s) ∧
    ∀ i : Fin 16, i.val = k →
      (s.ring[i].owner = .office → runConsignRecall fields s = malformed s) ∧
      (s.ring[i].owner ≠ .office →
        (s.call.activeOn i = true → runConsignRecall fields s = (s, Result.of .protectedEntry none)) ∧
        (s.call.activeOn i ≠ true → runConsignRecall fields s = (recallSlot i s, Result.of .accepted none))) := by
  unfold runConsignRecall
  rw [hfields, takeNat_be (by omega)]
  dsimp only
  refine ⟨fun hout => ?_, fun i hi => ?_⟩
  · rw [inRange_none.mpr (by omega)]
  · subst hi
    rw [inRange_val]
    dsimp only
    refine ⟨fun howner => if_pos howner, fun howner => ⟨fun hactive => ?_, fun hactive => ?_⟩⟩ <;> rw [if_neg howner]
    · exact if_pos hactive
    · exact if_neg hactive

theorem consignRecall_refusals (h : RequestAtHead s tag 0x39 fields) (hfields : fields = be 1 k ++ more) (hk : k < 256) :
    (15 < k → RefusedRequest .consignRecall s tag 0x39 .malformed none) ∧
    ∀ i : Fin 16, i.val = k →
      (s.ring[i].owner = .office → RefusedRequest .consignRecall s tag 0x39 .malformed none) ∧
      (s.ring[i].owner = .part → s.call.phase ≠ .idle → s.call.slot = some i → RefusedRequest .consignRecall s tag 0x39 .protectedEntry none) := by
  have hrefused {x : Code} (hr : runConsignRecall fields (popRequest s) = (popRequest s, Result.of x none)) :
      RefusedRequest .consignRecall s tag 0x39 x none := refused_of_run (variant := anyForm) (run := runConsignRecall) (fun _ => rfl) h rfl hr
  obtain ⟨hout, hslot⟩ := runConsignRecall_read (s := popRequest s) hfields hk
  refine ⟨fun hk => hrefused (hout hk), fun i hi => ⟨fun howner => hrefused ((hslot i hi).1 howner), fun howner hphase hactive =>
    hrefused (((hslot i hi).2 (by show s.ring[i].owner ≠ .office; rw [howner]; nofun)).1 ?_)⟩⟩
  show s.call.activeOn i = true
  simp [Handover.activeOn, hphase, hactive]

theorem closeInputs_recallSlot (i : Fin 16) (s : State) : closeInputs (recallSlot i s) = closeInputs s :=
  closeInputs_mapped (t := recallSlot i s) rfl (fun b => by split <;> exact ⟨rfl, rfl⟩) rfl rfl rfl rfl

theorem findBag_recallSlot (i : Fin 16) (s : State) (n : Nat) :
    findBag (recallSlot i s) n = (findBag s n).map fun b => if b.pin = some i && b.state = .inSafe then { b with pin := none } else b :=
  findBag_map (fun b => by split <;> rfl) n

theorem slot_recalled (h : RequestAtHead s tag 0x39 fields) (hfields : fields = be 1 i.val ++ more) (howner : s.ring[i].owner = .part)
    (hcall : s.call.phase = .idle ∨ s.call.slot ≠ some i) : Yields .consignRecall s fun u =>
      u.ring = put s.ring i { s.ring[i] with owner := .office, result := .recalled, second := some s.seconds } ∧ u.call = s.call ∧
      (∀ n b, findBag s n = some b → findBag u n = some { b with pin := if b.pin = some i ∧ b.state = .inSafe then none else b.pin }) ∧
      Replied s u tag 0x39 .accepted [] := by
  have hactive : s.call.activeOn i ≠ true := by
    unfold Handover.activeOn
    rcases hcall with hidle | hother
    · simp [hidle]
    · simp [hother]
  have hrun := (((runConsignRecall_read (s := popRequest s) hfields (by omega)).2 i rfl).2 (by show s.ring[i].owner ≠ .office; rw [howner]; nofun)).2 hactive
  have hleaves := recallSlot_leaves i (popRequest s)
  have hinputs := closeInputs_recallSlot i (popRequest s)
  refine request_yields (c := .consignRecall) (variant := anyForm) (run := runConsignRecall) (fun _ => rfl) h rfl hrun hleaves (by decide)
    (fun hclosing _ => ⟨by rwa [hleaves .day (by decide)] at hclosing, hinputs.symm⟩) fun u hu =>
      ⟨(hu.part .ring).trans rfl, hu.part .call, fun n b hb => ?_, hu.replied⟩
  rw [findBag_congr (hu.part .bags), findBag_recallSlot, show findBag (popRequest s) n = _ from hb, Option.map_some]
  by_cases hp : b.pin = some i ∧ b.state = .inSafe
  · rw [if_pos hp, if_pos (by simpa using hp)]
  · rw [if_neg hp, if_neg (by simpa using hp)]

/-! ## HATCH_RELEASE (R136) -/

theorem runHatchRelease_read (hfields : fields = be 4 n ++ more) (hn : n < 256 ^ 4) :
    (∀ x, transition n (moveHatchRelease s.seconds) s = .error x → runHatchRelease fields s = (s, Result.of x none)) ∧
    (∀ t, transition n (moveHatchRelease s.seconds) s = .ok t → runHatchRelease fields s = (t, Result.of .accepted (num n))) := by
  unfold runHatchRelease
  rw [hfields, takeNat_be hn]
  exact ⟨fun x hx => by dsimp only; rw [hx], fun t ht => by dsimp only; rw [ht]⟩

theorem hatchRelease_refusals (h : RequestAtHead s tag 0x3A fields) (hfields : fields = be 4 n ++ more) (hn : n < 256 ^ 4) :
    (findBag s n = none → RefusedRequest .hatchRelease s tag 0x3A .unknownBag none) ∧
    (∀ b, findBag s n = some b → b.state ≠ .hatchHeld → RefusedRequest .hatchRelease s tag 0x3A .wrongBagState none) := by
  have hrefused {x : Code} (hr : runHatchRelease fields (popRequest s) = (popRequest s, Result.of x none)) :
      RefusedRequest .hatchRelease s tag 0x3A x none := refused_of_run (variant := anyForm) (run := runHatchRelease) (fun _ => rfl) h rfl hr
  have hread := (runHatchRelease_read (s := popRequest s) hfields hn).1
  exact ⟨fun hnone => hrefused (hread _ (transition_unknown (s := popRequest s) hnone)),
    fun b hb hstate => hrefused (hread _ (transition_error (s := popRequest s) hb (if_neg hstate)))⟩

theorem hatch_released (h : RequestAtHead s tag 0x3A fields) (hfields : fields = be 4 n ++ more) (hn : n < 256 ^ 4) (hfind : findBag s n = some b)
    (hstate : b.state = .hatchHeld) : Yields .hatchRelease s fun u =>
      (s.day.state ≠ .closing →
        findBag u n = some { b with state := .handedOver, entered := s.seconds, pin := none } ∧ ∀ m, m ≠ n → findBag u m = findBag s m) ∧
      RepliedDetail s u tag 0x3A .accepted n [] := by
  have hrun := (runHatchRelease_read (s := popRequest s) hfields hn).2 _
    (transition_moved (s := popRequest s) (b' := { b with state := .handedOver, entered := s.seconds, pin := none }) hfind (if_pos hstate))
  have hmoved (m : Nat) := findBag_moved (n := m) (s := popRequest s) (b' := { b with state := .handedOver, entered := s.seconds, pin := none }) hfind rfl
  have hleaves := changeBag_leaves n (fun _ => { b with state := .handedOver, entered := s.seconds, pin := none }) (popRequest s)
  generalize changeBag n (fun _ => { b with state := .handedOver, entered := s.seconds, pin := none }) (popRequest s) = v at hrun hmoved hleaves
  refine request_ends_quiet (c := .hatchRelease) (variant := anyForm) (run := runHatchRelease) (fun _ => rfl) h rfl hrun hleaves (by decide) fun u hu =>
    ⟨fun hday => ?_, hu.repliedDetail⟩
  have hbags := (hu.unclosed (by rw [show v.day = s.day from hleaves .day (by decide)]; exact hday)).1
  refine ⟨(findBag_congr hbags n).trans ((hmoved n).trans (if_pos rfl)), fun m hm => (findBag_congr hbags m).trans ((hmoved m).trans (if_neg hm))⟩

end

end Sys2Proof.Machine.Effects

/-! PROOF. The requests at the orders, the safe, the stock and the tills (R10, R18 to R20, R57, R69, R74, R75, R92, R93, R190). -/

namespace Sys2Proof.Machine.Effects

open Sys2Proof Sys2Proof.Machine Sys2Proof.Machine.Takings Sys2Proof.Machine.TallyCount

section
variable {s t u v : State} {tag : Word16} {fields more : List Byte} {n k loose straps : Nat} {i : Fin 24} {c : Fin 12}

/-! ## ORDER_CANCEL (R75) -/

theorem runOrderCancel_read (hfields : fields = be 1 k ++ more) (hk : k < 256) :
    (23 < k → runOrderCancel fields s = malformed s) ∧
    ∀ i : Fin 24, i.val = k →
      (s.orders[i].state = .free → runOrderCancel fields s = malformed s) ∧
      (s.orders[i].state = .madeUp → runOrderCancel fields s = (s, Result.of .orderOpen (s.orders[i].sealNo.map (BitVec.ofNat 32)))) ∧
      (s.orders[i].state = .pending → runOrderCancel fields s = (cancelOrder i s, Result.of .accepted none)) := by
  unfold runOrderCancel
  rw [hfields, takeNat_be (by omega)]
  dsimp only
  refine ⟨fun hout => ?_, fun i hi => ?_⟩
  · rw [inRange_none.mpr (by omega)]
  · subst hi
    rw [inRange_val]
    dsimp only
    refine ⟨fun hstate => ?_, fun hstate => ?_, fun hstate => ?_⟩ <;> rw [hstate]
    cases s.orders[i].sealNo <;> rfl

theorem orderCancel_refusals (h : RequestAtHead s tag 0x40 fields) (hfields : fields = be 1 k ++ more) (hk : k < 256) :
    (23 < k → RefusedRequest .orderCancel s tag 0x40 .malformed none) ∧
    ∀ i : Fin 24, i.val = k →
      (s.orders[i].state = .free → RefusedRequest .orderCancel s tag 0x40 .malformed none) ∧
      (s.orders[i].state = .madeUp → RefusedRequest .orderCancel s tag 0x40 .orderOpen s.orders[i].sealNo) := by
  have hrefused {x : Code} {d : Option Nat} (hr : runOrderCancel fields (popRequest s) = (popRequest s, Result.of x (d.map (BitVec.ofNat 32)))) :
      RefusedRequest .orderCancel s tag 0x40 x d := refused_of_run (variant := anyForm) (run := runOrderCancel) (fun _ => rfl) h rfl hr
  obtain ⟨hout, horder⟩ := runOrderCancel_read (s := popRequest s) hfields hk
  exact ⟨fun hk => hrefused (hout hk), fun i hi => ⟨fun hstate => hrefused ((horder i hi).1 hstate), fun hstate => hrefused ((horder i hi).2.1 hstate)⟩⟩

theorem order_cancelled (h : RequestAtHead s tag 0x40 fields) (hfields : fields = be 1 i.val ++ more) (hstate : s.orders[i].state = .pending) :
    Yields .orderCancel s fun u =>
      u.orders = put s.orders i { s.orders[i] with state := .free, outcome := .cancelled } ∧
      u.drawers = put s.drawers s.orders[i].till { s.drawers[s.orders[i].till] with openOrder := none } ∧
      (∀ c : Fin 12, u.stock[c] = { s.stock[c] with reserved := s.stock[c].reserved - s.orders[i].issue[c] }) ∧
      u.event .orderCancelled = raisedIf true .orderCancelled s.orders[i].till.val s ∧ Replied s u tag 0x40 .accepted [] := by
  have hrun := ((runOrderCancel_read (s := popRequest s) hfields (by omega)).2 i rfl).2.2 hstate
  have horders := cancelOrder_orders i (popRequest s)
  have hdrawers := cancelOrder_drawers i (popRequest s)
  have hstock (k : Fin 12) := cancelOrder_stock i (popRequest s) k
  have hevent : (cancelOrder i (popRequest s)).event .orderCancelled = _ := cancelOrder_event i (popRequest s)
  have hleaves := cancelOrder_leaves i (popRequest s)
  generalize cancelOrder i (popRequest s) = v at hrun horders hdrawers hstock hevent hleaves
  refine request_ends_quiet (c := .orderCancel) (variant := anyForm) (run := runOrderCancel) (fun _ => rfl) h rfl hrun hleaves (by decide) fun u hu =>
    ⟨(hu.part .orders).trans horders, (hu.part .drawers).trans hdrawers, fun c => ?_, ?_, hu.replied⟩
  · rw [show u.stock = v.stock from hu.part .stock]
    exact hstock c
  · rw [hu.event _ rfl (by decide), hevent]
    rfl

/-! ## SAFE_RELEASE (R92) -/

theorem safeRelease_refused (h : RequestAtHead s tag 0x41 fields) (hlock : s.safe.lock ≠ .lockout) :
    RefusedRequest .safeRelease s tag 0x41 .wrongLockState none :=
  refused_of_run (variant := anyForm) (run := runSafeRelease) (fun _ => rfl) h rfl (if_neg hlock)

theorem safe_released (h : RequestAtHead s tag 0x41 fields) (hlock : s.safe.lock = .lockout) : Yields .safeRelease s fun u =>
    u.safe.lock = .locked ∧ u.safe.failed = 0 ∧ u.safe.timer = none ∧ CommandGoes s u s.room.out .lock ∧ Replied s u tag 0x41 .accepted [] := by
  have hrun : runSafeRelease fields (popRequest s) = (releaseLockout (popRequest s), Result.of .accepted none) := if_pos hlock
  have hdone : commandPlaceable (releaseLockout (popRequest s)) = false := commandSafe_done _ _
  have howes : (releaseLockout (popRequest s)).safe = { (setFailed 0 (setLock .locked none (popRequest s))).safe with
      commanded := .lock, owed := (releaseLockout (popRequest s)).safe.owed } := placeSafeCommand_owed _
  refine request_ends (c := .safeRelease) (variant := anyForm) (run := runSafeRelease) (fun _ => rfl) h rfl hrun
    (releaseLockout_leaves (popRequest s) .trunk (by decide)) (fun hp => by rw [hdone] at hp; cases hp) fun u hu => ?_
  have hsafe : u.safe = (releaseLockout (popRequest s)).safe := hu.part .safe
  refine ⟨by rw [hsafe, howes]; rfl, by rw [hsafe, howes]; rfl, by rw [hsafe, howes]; rfl, ?_, hu.replied⟩
  exact commandGoes_of (v := setFailed 0 (setLock .locked none (popRequest s))) hsafe (hu.part .room) rfl rfl

/-! ## STOCK_SET (R18) and SUSPECT_RELEASE (R19) -/

theorem runStockSet_read (hfields : fields = be 1 k ++ be 4 loose ++ be 4 straps ++ more) (hk : k < 256) (hloose : loose < 256 ^ 4) (hstraps : straps < 256 ^ 4) :
    (s.day.state ≠ .night → runStockSet fields s = (s, Result.of .wrongDayState none)) ∧
    (s.day.state = .night → (11 < k → runStockSet fields s = malformed s) ∧
      ∀ c : Fin 12, c.val = k →
        (s.denoms[c].enabled = false → runStockSet fields s = malformed s) ∧
        (s.denoms[c].enabled = true →
          (loose + straps * s.denoms[c].strap < s.stock[c].reserved → runStockSet fields s = (s, Result.of .stockShort none)) ∧
          (s.stock[c].reserved ≤ loose + straps * s.denoms[c].strap → runStockSet fields s = (setStockCounts c loose straps s, Result.of .accepted none)))) := by
  have hread : leadFields [1, 4, 4] fields = some ([k, loose, straps], more) := by
    rw [hfields, List.append_assoc, List.append_assoc, leadFields_be (by omega), leadFields_be hloose, leadFields_be hstraps]
    rfl
  unfold runStockSet
  rw [hread]
  dsimp only
  refine ⟨fun hday => if_pos hday, fun hday => ⟨fun hout => ?_, fun c hc => ?_⟩⟩
  · rw [if_neg (not_not.mpr hday), inRange_none.mpr (by omega)]
  · subst hc
    rw [if_neg (not_not.mpr hday), inRange_val]
    dsimp only
    refine ⟨fun hoff => by rw [hoff]; rfl, fun hon => ⟨fun hshort => ?_, fun henough => ?_⟩⟩ <;> rw [hon]
    · exact if_pos hshort
    · exact if_neg (not_lt.mpr henough)

theorem stockSet_refusals (h : RequestAtHead s tag 0x48 fields) (hfields : fields = be 1 k ++ be 4 loose ++ be 4 straps ++ more) (hk : k < 256)
    (hloose : loose < 256 ^ 4) (hstraps : straps < 256 ^ 4) :
    (s.day.state ≠ .night → RefusedRequest .stockSet s tag 0x48 .wrongDayState none) ∧
    (s.day.state = .night → 11 < k → RefusedRequest .stockSet s tag 0x48 .malformed none) ∧
    ∀ c : Fin 12, c.val = k → s.day.state = .night →
      (s.denoms[c].enabled = false → RefusedRequest .stockSet s tag 0x48 .malformed none) ∧
      (s.denoms[c].enabled = true → loose + straps * s.denoms[c].strap < s.stock[c].reserved → RefusedRequest .stockSet s tag 0x48 .stockShort none) := by
  have hrefused {x : Code} (hr : runStockSet fields (popRequest s) = (popRequest s, Result.of x none)) :
      RefusedRequest .stockSet s tag 0x48 x none := refused_of_run (variant := anyForm) (run := runStockSet) (fun _ => rfl) h rfl hr
  obtain ⟨hday, hnight⟩ := runStockSet_read (s := popRequest s) hfields hk hloose hstraps
  exact ⟨fun hd => hrefused (hday hd), fun hd hout => hrefused ((hnight hd).1 hout), fun c hc hd => ⟨fun hoff => hrefused (((hnight hd).2 c hc).1 hoff),
    fun hon hshort => hrefused ((((hnight hd).2 c hc).2 hon).1 hshort)⟩⟩

theorem setStockCounts_acc (c : Fin 12) (loose straps : Nat) (s : State) : (setStockCounts c loose straps s).acc =
    { s.acc with
      adjustment := max Config.low31 (min Config.high31 (s.acc.adjustment + ((loose + straps * s.denoms[c].strap : Nat) - (s.heldOf c : Int)) * s.denoms[c].face))
      saturated := s.acc.saturated ||
        decide (s.acc.adjustment + ((loose + straps * s.denoms[c].strap : Nat) - (s.heldOf c : Int)) * s.denoms[c].face < Config.low31) ||
        decide (Config.high31 < s.acc.adjustment + ((loose + straps * s.denoms[c].strap : Nat) - (s.heldOf c : Int)) * s.denoms[c].face) } := by
  rw [Bool.or_assoc]
  rfl

theorem stock_set (h : RequestAtHead s tag 0x48 fields) (hfields : fields = be 1 c.val ++ be 4 loose ++ be 4 straps ++ more) (hloose : loose < 256 ^ 4)
    (hstraps : straps < 256 ^ 4) (hday : s.day.state = .night) (hon : s.denoms[c].enabled = true) (henough : s.stock[c].reserved ≤ loose + straps * s.denoms[c].strap) :
    Yields .stockSet s fun u =>
      u.stock = put s.stock c { s.stock[c] with loose := loose, straps := straps } ∧
      u.acc = { s.acc with
        adjustment := max Config.low31 (min Config.high31 (s.acc.adjustment + ((loose + straps * s.denoms[c].strap : Nat) - (s.heldOf c : Int)) * s.denoms[c].face))
        saturated := s.acc.saturated ||
          decide (s.acc.adjustment + ((loose + straps * s.denoms[c].strap : Nat) - (s.heldOf c : Int)) * s.denoms[c].face < Config.low31) ||
          decide (Config.high31 < s.acc.adjustment + ((loose + straps * s.denoms[c].strap : Nat) - (s.heldOf c : Int)) * s.denoms[c].face) } ∧
      Replied s u tag 0x48 .accepted [] := by
  have hrun := ((((runStockSet_read (s := popRequest s) hfields (by omega) hloose hstraps).2 hday).2 c rfl).2 hon).2 henough
  have hstock : (setStockCounts c loose straps (popRequest s)).stock = put s.stock c { s.stock[c] with loose := loose, straps := straps } := rfl
  have hacc := setStockCounts_acc c loose straps (popRequest s)
  have hleaves := setStockCounts_leaves c loose straps (popRequest s)
  generalize setStockCounts c loose straps (popRequest s) = v at hrun hstock hacc hleaves
  exact request_ends_quiet (c := .stockSet) (variant := anyForm) (run := runStockSet) (fun _ => rfl) h rfl hrun hleaves (by decide) fun u hu =>
    ⟨(hu.part .stock).trans hstock, (hu.part .acc).trans hacc, hu.replied⟩

theorem runSuspectRelease_read (hfields : fields = be 1 k ++ be 2 n ++ more) (hk : k < 256) (hn : n < 256 ^ 2) :
    (11 < k → runSuspectRelease fields s = malformed s) ∧
    ∀ c : Fin 12, c.val = k →
      (s.stock[c].suspect < n → runSuspectRelease fields s = (s, Result.of .stockShort none)) ∧
      (n ≤ s.stock[c].suspect → runSuspectRelease fields s =
        (s.setStock (put s.stock c { s.stock[c] with suspect := s.stock[c].suspect - n }), Result.of .accepted none)) := by
  have hread : leadFields [1, 2] fields = some ([k, n], more) := by
    rw [hfields, List.append_assoc, leadFields_be (by omega), leadFields_be hn]
    rfl
  unfold runSuspectRelease
  rw [hread]
  dsimp only
  refine ⟨fun hout => ?_, fun c hc => ?_⟩
  · rw [inRange_none.mpr (by omega)]
  · subst hc
    rw [inRange_val]
    exact ⟨fun hshort => if_pos hshort, fun henough => if_neg (not_lt.mpr henough)⟩

theorem suspectRelease_refusals (h : RequestAtHead s tag 0x49 fields) (hfields : fields = be 1 k ++ be 2 n ++ more) (hk : k < 256) (hn : n < 256 ^ 2) :
    (11 < k → RefusedRequest .suspectRelease s tag 0x49 .malformed none) ∧
    (∀ c : Fin 12, c.val = k → s.stock[c].suspect < n → RefusedRequest .suspectRelease s tag 0x49 .stockShort none) := by
  have hrefused {x : Code} (hr : runSuspectRelease fields (popRequest s) = (popRequest s, Result.of x none)) :
      RefusedRequest .suspectRelease s tag 0x49 x none := refused_of_run (variant := anyForm) (run := runSuspectRelease) (fun _ => rfl) h rfl hr
  obtain ⟨hout, hcode⟩ := runSuspectRelease_read (s := popRequest s) hfields hk hn
  exact ⟨fun hk => hrefused (hout hk), fun c hc hshort => hrefused ((hcode c hc).1 hshort)⟩

theorem suspect_released (h : RequestAtHead s tag 0x49 fields) (hfields : fields = be 1 c.val ++ be 2 n ++ more) (hn : n < 256 ^ 2)
    (henough : n ≤ s.stock[c].suspect) : Yields .suspectRelease s fun u =>
      u.stock = put s.stock c { s.stock[c] with suspect := s.stock[c].suspect - n } ∧ u.acc = s.acc ∧ Replied s u tag 0x49 .accepted [] := by
  have hrun := ((runSuspectRelease_read (s := popRequest s) hfields (by omega) hn).2 c rfl).2 henough
  exact request_ends_quiet (c := .suspectRelease) (variant := anyForm) (run := runSuspectRelease) (fun _ => rfl) h rfl hrun (setStock_leaves _ (popRequest s)) (by decide)
    fun u hu => ⟨hu.part .stock, hu.part .acc, hu.replied⟩

/-! ## TILL_SUSPEND (R57) -/

theorem runTillSuspend_read (hfields : fields = be 1 k ++ more) (hk : k < 256) :
    (s.day.state = .night → runTillSuspend fields s = (s, Result.of .wrongDayState none)) ∧
    (s.day.state ≠ .night → (159 < k → runTillSuspend fields s = malformed s) ∧
      ∀ t : Fin 160, t.val = k →
        (s.drawers[t].state = .cashedUp → runTillSuspend fields s = (s, Result.of .wrongTillState none)) ∧
        (s.drawers[t].state = .suspended → runTillSuspend fields s = (s, Result.of .accepted none)) ∧
        (s.drawers[t].state ≠ .cashedUp → s.drawers[t].state ≠ .suspended →
          runTillSuspend fields s = (setDrawer t (suspendDrawer s.drawers[t]) s, Result.of .accepted none))) := by
  unfold runTillSuspend
  rw [hfields, takeNat_be (by omega)]
  dsimp only
  refine ⟨fun hday => if_pos hday, fun hday => ⟨fun hout => ?_, fun t ht => ?_⟩⟩ <;> rw [if_neg hday]
  · rw [inRange_none.mpr (by omega)]
  · subst ht
    rw [inRange_val]
    dsimp only
    refine ⟨fun hstate => by rw [hstate], fun hstate => by rw [hstate], fun hcashed hsuspended => ?_⟩
    cases hstate : s.drawers[t].state
    case cashedUp => exact absurd hstate hcashed
    case suspended => exact absurd hstate hsuspended
    all_goals rfl

theorem tillSuspend_refusals (h : RequestAtHead s tag 0x50 fields) (hfields : fields = be 1 k ++ more) (hk : k < 256) :
    (s.day.state = .night → RefusedRequest .tillSuspend s tag 0x50 .wrongDayState none) ∧
    (s.day.state ≠ .night → 159 < k → RefusedRequest .tillSuspend s tag 0x50 .malformed none) ∧
    (∀ t : Fin 160, t.val = k → s.day.state ≠ .night → s.drawers[t].state = .cashedUp → RefusedRequest .tillSuspend s tag 0x50 .wrongTillState none) := by
  have hrefused {x : Code} (hr : runTillSuspend fields (popRequest s) = (popRequest s, Result.of x none)) :
      RefusedRequest .tillSuspend s tag 0x50 x none := refused_of_run (variant := anyForm) (run := runTillSuspend) (fun _ => rfl) h rfl hr
  obtain ⟨hnight, hday⟩ := runTillSuspend_read (s := popRequest s) hfields hk
  exact ⟨fun hd => hrefused (hnight hd), fun hd hout => hrefused ((hday hd).1 hout), fun t ht hd hstate => hrefused (((hday hd).2 t ht).1 hstate)⟩

theorem till_suspended {t : Fin 160} (h : RequestAtHead s tag 0x50 fields) (hfields : fields = be 1 t.val ++ more) (hday : s.day.state ≠ .night)
    (hcashed : s.drawers[t].state ≠ .cashedUp) : Yields .tillSuspend s fun u =>
      (s.drawers[t].state ≠ .suspended → u.drawers = put s.drawers t { s.drawers[t] with state := .suspended, due := false }) ∧
      (s.drawers[t].state = .suspended → u.drawers = s.drawers) ∧ Replied s u tag 0x50 .accepted [] := by
  obtain ⟨-, hsuspended, hrest⟩ := ((runTillSuspend_read (s := popRequest s) hfields (by omega)).2 hday).2 t rfl
  by_cases hstate : s.drawers[t].state = .suspended
  · exact request_ends_quiet (c := .tillSuspend) (variant := anyForm) (run := runTillSuspend) (fun _ => rfl) h rfl (hsuspended hstate) (unchangedBut_refl [] _) nofun
      fun u hu => ⟨fun hn => absurd hstate hn, fun _ => hu.part .drawers, hu.replied⟩
  · exact request_ends_quiet (c := .tillSuspend) (variant := anyForm) (run := runTillSuspend) (fun _ => rfl) h rfl (hrest hcashed hstate)
      (setDrawers_leaves _ (popRequest s)) (by decide) fun u hu => ⟨fun _ => hu.part .drawers, fun hs => absurd hs hstate, hu.replied⟩

/-! ## Fields too short (R190) -/

theorem leadFields_short {ws : List Nat} (h : fields.length < ws.sum) : leadFields ws fields = none := by
  cases hread : leadFields ws fields with
  | none => rfl
  | some x =>
    have hlen := leadFields_length (xs := x.1) (rest := x.2) hread
    omega

/-- The rules whose fields are a number of `w` bytes. -/
theorem office_short (h : x ∈ [(Instr.consignHand, 0x38#8, 1), (.consignRecall, 0x39, 1), (.hatchRelease, 0x3A, 4), (.orderCancel, 0x40, 1),
      (.stockSet, 0x48, 9), (.suspectRelease, 0x49, 3), (.tillSuspend, 0x50, 1)]) (hhead : RequestAtHead s tag x.2.1 fields) (hlen : fields.length < x.2.2) :
    RefusedRequest x.1 s tag x.2.1 .malformed none := by
  simp only [List.mem_cons, List.not_mem_nil, or_false] at h
  rcases h with rfl | rfl | rfl | rfl | rfl | rfl | rfl
  · exact refused_of_run (variant := anyForm) (run := runConsignHand) (fun _ => rfl) hhead rfl (by unfold runConsignHand; rw [takeNat_short hlen]; rfl)
  · exact refused_of_run (variant := anyForm) (run := runConsignRecall) (fun _ => rfl) hhead rfl (by unfold runConsignRecall; rw [takeNat_short hlen]; rfl)
  · exact refused_of_run (variant := anyForm) (run := runHatchRelease) (fun _ => rfl) hhead rfl (by unfold runHatchRelease; rw [takeNat_short hlen]; rfl)
  · exact refused_of_run (variant := anyForm) (run := runOrderCancel) (fun _ => rfl) hhead rfl (by unfold runOrderCancel; rw [takeNat_short hlen]; rfl)
  · exact refused_of_run (variant := anyForm) (run := runStockSet) (fun _ => rfl) hhead rfl
      (by unfold runStockSet; rw [leadFields_short (ws := [1, 4, 4]) hlen]; rfl)
  · exact refused_of_run (variant := anyForm) (run := runSuspectRelease) (fun _ => rfl) hhead rfl
      (by unfold runSuspectRelease; rw [leadFields_short (ws := [1, 2]) hlen]; rfl)
  · exact refused_of_run (variant := anyForm) (run := runTillSuspend) (fun _ => rfl) hhead rfl (by unfold runTillSuspend; rw [takeNat_short hlen]; rfl)

end

/-- Settles O55: each request by the branches of its rule. -/
theorem officeRequests : Obligations.OfficeRequests := by
  unfold Obligations.OfficeRequests
  refine fun s tag fields more => ⟨fun x hx hhead hlen => office_short hx hhead hlen, fun k h hfields hk => consignHand_refusals h hfields hk,
    fun k h hfields hk => consignRecall_refusals h hfields hk, fun n h hfields hn => hatchRelease_refusals h hfields hn,
    fun k h hfields hk => orderCancel_refusals h hfields hk, safeRelease_refused,
    fun k loose straps h hfields hk hloose hstraps => stockSet_refusals h hfields hk hloose hstraps,
    fun k n h hfields hk hn => suspectRelease_refusals h hfields hk hn, fun k h hfields hk => tillSuspend_refusals h hfields hk,
    fun i h hfields howner hwindow hpins => slot_handed h hfields howner hwindow hpins, fun i h hfields howner hcall => slot_recalled h hfields howner hcall,
    fun n b h hfields hn hfind hstate => hatch_released h hfields hn hfind hstate, fun i h hfields hstate => order_cancelled h hfields hstate, safe_released,
    fun c loose straps h hfields hloose hstraps hday hon henough => stock_set h hfields hloose hstraps hday hon henough,
    fun c n h hfields hn henough => suspect_released h hfields hn henough, fun t h hfields hday hcashed => till_suspended h hfields hday hcashed⟩

end Sys2Proof.Machine.Effects

/-! PROOF. The writes of TABLE_PUT, taken and refused (R4 to R7, R42, R120, R169, R170, R192, R193). -/

namespace Sys2Proof.Machine.Effects

open Sys2Proof Sys2Proof.Machine Sys2Proof.Machine.Takings Sys2Proof.Machine.TallyCount

section
variable {s s' t u v : State} {tag : Word16} {code : Byte} {fields : List Byte} {r : Result} {x : Instr} {variant : State → List Byte → Bool}
  {run : List Byte → State → State × Result} {P : State → Prop} {T : TableId} {i : Nat} {e : Code}

/-! ## A write, whatever it makes room for -/

theorem settle_trunk_unwaiting (h : t.trunk.sendWaits = false) : (settle s t).trunk = t.trunk := by
  have hplaced : (placeIfFreed s (testReports s t)).trunk = t.trunk := by
    have htested : (testReports s t).trunk = t.trunk := testReports_leaves s t .trunk (by decide)
    unfold placeIfFreed
    split
    · exact htested
    · exact (placeSafeCommand_leaves _ .trunk (by decide)).trans htested
  unfold settle
  rw [settleEvents_trunk]
  unfold sendIfFreed
  split
  · exact hplaced
  · rw [placeWaiting_of_not (by unfold waitingPlaceable; rw [hplaced, h])]
    exact hplaced

/-- A request whose rule leaves the trunk: the end of the taking may complete a close and place an owed command. -/
theorem request_settled (hc : ∀ s, exec x s = takeRequest settle code variant run s) (h : RequestAtHead s tag code fields) (hv : variant s fields = true)
    (hr : run fields (popRequest s) = (s', r)) (htrunk : s'.trunk = (popRequest s).trunk) :
    Yields x s fun u => unchangedBut ([.bags, .day, .safe, .floor, .room, .trunk, .draws] ++ Part.eventParts) s' u ∧
      Replied s u tag code r.code r.data := by
  obtain ⟨h1, h2, h3⟩ := h
  obtain ⟨rest, h3⟩ : ∃ rest, s.trunk.buffer = .request tag code fields :: rest := by
    cases hb : s.trunk.buffer with
    | nil => rw [hb] at h3; cases h3
    | cons a rest => rw [hb] at h3; cases h3; exact ⟨rest, rfl⟩
  obtain ⟨d, n, hd, ha⟩ := answerRequest_spec tag code r.code r.detail r.data s'
  have htaken : exec x s = .next (settle s (answerRequest tag code r.code r.detail r.data s')) := by
    rw [hc, takeRequest_taken h1 h2 h3 hv, hr]
  have hanswer : (answerRequest tag code r.code r.detail r.data s').trunk = { s.trunk with
      buffer := s.trunk.buffer.tail, reply := some { tag := tag, code := code, result := r.code, detail := d, data := r.data } } := by
    rw [ha, htrunk]
    show ({ popRequest s |>.trunk with reply := _ } : Trunk) = _
    unfold popRequest
    rw [State.setTrunk_trunk, ← h2]
  have hleaves := answerRequest_leaves tag code r.code r.detail r.data s'
  generalize answerRequest tag code r.code r.detail r.data s' = a at htaken hanswer hleaves
  have hsettled : (settle s a).trunk = a.trunk := settle_trunk_unwaiting (by rw [hanswer]; exact h2)
  exact ⟨_, htaken, unchangedBut_mono (unchangedBut_trans hleaves (settle_leaves s a)) (by decide),
    by rw [hsettled, hanswer], d, by rw [hsettled, hanswer]⟩

/-- The tables that a write changes. -/
def writtenParts : List Part := [.denoms, .nodes, .witness, .tills, .timing, .ring]

/-- A TABLE_PUT taken: the index advances by 1 and the reply is ACCEPTED (R192). -/
def Written (s : State) (tag : Word16) (u : State) : Prop :=
  u.pointer = { table := s.pointer.table, index := s.pointer.index + 1 } ∧ Replied s u tag 0x11 .accepted []

theorem writesTable_at (hp : s.pointer = { table := T, index := i }) (hlast : i ≤ T.last) (hwritable : T.readOnly = false) (hsession : T = .ring → i ≠ 16) :
    writesTable T s fields = true := by
  have hring : (T == .ring && i == 16) = false := by
    by_cases hT : T = .ring
    · simp [hsession hT]
    · simp [hT]
  unfold writesTable notWritable pastEnd
  rw [hp]
  simp [hwritable, hring, hlast]

theorem entry_written (hc : ∀ s, exec x s = takeRequest settle 0x11 (writesTable T) run s) (h : RequestAtHead s tag 0x11 fields)
    (hv : writesTable T s fields = true) (hr : run fields (popRequest s) = putResult (popRequest s) (.ok v))
    (hl : unchangedBut writtenParts (popRequest s) v) (hP : ∀ u, (∀ b ∈ writtenParts, b.same v u) → Written s tag u → P u) : Yields x s P := by
  obtain ⟨u, hu, hleaves, hreply⟩ := request_settled hc h hv hr (hl .trunk (by decide))
  have hpointer : v.pointer = s.pointer := hl .pointer (by decide)
  refine ⟨u, hu, hP u (fun b hb => Part.same_trans (setPointer_leaves _ v b (by revert b; decide)) (hleaves b (by revert b; decide))) ⟨?_, hreply⟩⟩
  rw [show u.pointer = (advancePointer v).pointer from hleaves .pointer (by decide), ← hpointer]
  rfl

theorem entry_refused (hc : ∀ s, exec x s = takeRequest settle 0x11 (writesTable T) run s) (h : RequestAtHead s tag 0x11 fields)
    (hv : writesTable T s fields = true) (hr : run fields (popRequest s) = putResult (popRequest s) (.error e)) :
    RefusedRequest x s tag 0x11 e none := refused_of_run hc h hv hr

/-! ## DENOM (R5 to R7) -/

section
variable {c : Fin 12} {d : Denom}

theorem runPutDenom_read (hi : s.pointer.index = c.val) (hd : readDenom fields = some d) : runPutDenom fields s = putResult s (putDenom c d s) := by
  unfold runPutDenom
  rw [hi, inRange_val, hd]

theorem runPutDenom_unread (hd : readDenom fields = none) : runPutDenom fields s = putResult s (.error .malformed) := by
  unfold runPutDenom
  rw [hd]
  cases inRange 12 s.pointer.index <;> rfl

theorem faceTaken_iff {face : Nat} : faceTaken s c face = true ↔ ∃ k : Fin 12, k ≠ c ∧ s.denoms[k].enabled = true ∧ s.denoms[k].face = face := by
  unfold faceTaken
  simp only [List.any_eq_true, Bool.and_eq_true, bne_iff_ne, beq_iff_eq]
  exact ⟨fun ⟨k, _, ⟨hk, he⟩, hf⟩ => ⟨k, hk, he, hf⟩, fun ⟨k, hk, he, hf⟩ => ⟨k, List.mem_finRange k, ⟨hk, he⟩, hf⟩⟩

theorem changesHeld_iff {a b : Denom} : changesHeld a b = true ↔
    a.enabled = true ∧ (a.face ≠ b.face ∨ a.kind ≠ b.kind ∨ a.strap ≠ b.strap ∨ b.enabled = false) := by
  unfold changesHeld
  simp [or_assoc]

theorem inUse_iff : inUse s c = true ↔
    0 < s.stock[c].loose + s.stock[c].straps * s.denoms[c].strap ∨ 0 < s.stock[c].reserved ∨ 0 < s.stock[c].suspect ∨
    (∃ b ∈ s.bags, b.state.terminal = false ∧ ∃ v, b.counts = some v ∧ 0 < v[c]) ∨
    ∃ x : Fin 4, s.sessions[x].state ≠ .idle ∧ (0 < s.sessions[x].accepted[c] ∨ 0 < s.sessions[x].suspect[c]) := by
  have hcount (b : Bag) : 0 < b.countOf c ↔ ∃ v, b.counts = some v ∧ 0 < v[c] := by
    unfold Bag.countOf
    cases b.counts with
    | none => simp
    | some v => simp
  unfold inUse State.heldOf held
  simp only [Bool.or_eq_true, decide_eq_true_eq, List.any_eq_true, Bool.and_eq_true, Bool.not_eq_true', anyRow_iff, hcount, or_assoc]

theorem putDenom_day (hday : s.day.state ≠ .night) : putDenom c d s = .error .wrongDayState := if_pos hday

theorem putDenom_taken (hday : s.day.state = .night) (he : d.enabled = true) (htaken : faceTaken s c d.clamped.face = true) :
    putDenom c d s = .error .duplicateFace := by
  unfold putDenom
  rw [if_neg (not_not.mpr hday), if_pos (by rw [he, htaken]; rfl)]

theorem putDenom_held (hday : s.day.state = .night) (hface : ¬(d.enabled = true ∧ faceTaken s c d.clamped.face = true))
    (hheld : changesHeld s.denoms[c] d.clamped = true) (huse : inUse s c = true) : putDenom c d s = .error .stockHeld := by
  unfold putDenom
  rw [if_neg (not_not.mpr hday), if_neg (by rwa [Bool.and_eq_true]), if_pos (by rw [hheld, huse]; rfl)]

theorem putDenom_written (hday : s.day.state = .night) (hface : ¬(d.enabled = true ∧ faceTaken s c d.clamped.face = true))
    (hheld : ¬(changesHeld s.denoms[c] d.clamped = true ∧ inUse s c = true)) : putDenom c d s = .ok (s.setDenoms (put s.denoms c d.clamped)) := by
  unfold putDenom
  rw [if_neg (not_not.mpr hday), if_neg (by rwa [Bool.and_eq_true]), if_neg (by rwa [Bool.and_eq_true])]

theorem writesTable_denom (hp : s.pointer = { table := .denom, index := c.val }) : writesTable .denom s fields = true :=
  writesTable_at hp (by show c.val ≤ 11; omega) rfl nofun

theorem denom_refused (h : RequestAtHead s tag 0x11 fields) (hp : s.pointer = { table := .denom, index := c.val }) (hd : readDenom fields = some d)
    (hput : putDenom c d (popRequest s) = .error e) : RefusedRequest .tablePutDenom s tag 0x11 e none :=
  entry_refused (run := runPutDenom) (fun _ => rfl) h (writesTable_denom hp)
    ((runPutDenom_read (s := popRequest s) (congrArg Pointer.index hp) hd).trans (congrArg _ hput))

theorem denom_refusals (h : RequestAtHead s tag 0x11 fields) (hp : s.pointer = { table := .denom, index := c.val }) :
    (readDenom fields = none → RefusedRequest .tablePutDenom s tag 0x11 .malformed none) ∧
    ∀ d : Denom, readDenom fields = some d →
      (s.day.state ≠ .night → RefusedRequest .tablePutDenom s tag 0x11 .wrongDayState none) ∧
      (s.day.state = .night → d.enabled = true → (∃ k : Fin 12, k ≠ c ∧ s.denoms[k].enabled = true ∧ s.denoms[k].face = d.clamped.face) →
        RefusedRequest .tablePutDenom s tag 0x11 .duplicateFace none) ∧
      (s.day.state = .night → ¬(d.enabled = true ∧ ∃ k : Fin 12, k ≠ c ∧ s.denoms[k].enabled = true ∧ s.denoms[k].face = d.clamped.face) →
        s.denoms[c].enabled = true → inUse s c = true →
        (s.denoms[c].face ≠ d.clamped.face ∨ s.denoms[c].kind ≠ d.kind ∨ s.denoms[c].strap ≠ d.clamped.strap ∨ d.enabled = false) →
        RefusedRequest .tablePutDenom s tag 0x11 .stockHeld none) := by
  refine ⟨fun hd => entry_refused (run := runPutDenom) (fun _ => rfl) h (writesTable_denom hp) (runPutDenom_unread hd), fun d hd => ⟨fun hday => ?_,
    fun hday he htaken => ?_, fun hday hface he huse hchange => ?_⟩⟩
  · exact denom_refused h hp hd (putDenom_day (s := popRequest s) hday)
  · exact denom_refused h hp hd (putDenom_taken (s := popRequest s) hday he (faceTaken_iff.mpr htaken))
  · exact denom_refused h hp hd (putDenom_held (s := popRequest s) hday (fun hf => hface ⟨hf.1, faceTaken_iff.mp hf.2⟩)
      (changesHeld_iff.mpr ⟨he, hchange⟩) huse)

theorem denom_written (h : RequestAtHead s tag 0x11 fields) (hp : s.pointer = { table := .denom, index := c.val }) (hd : readDenom fields = some d)
    (hday : s.day.state = .night)
    (hface : d.enabled = true → ∀ k : Fin 12, k ≠ c → s.denoms[k].enabled = true → s.denoms[k].face ≠ d.clamped.face)
    (hheld : s.denoms[c].enabled = true → inUse s c = true →
      s.denoms[c].face = d.clamped.face ∧ s.denoms[c].kind = d.kind ∧ s.denoms[c].strap = d.clamped.strap ∧ d.enabled = true) :
    Yields .tablePutDenom s fun u => u.denoms = put s.denoms c d.clamped ∧ Written s tag u := by
  have hfree : ¬(d.enabled = true ∧ faceTaken (popRequest s) c d.clamped.face = true) := fun ⟨he, ht⟩ => by
    obtain ⟨k, hk, hke, hkf⟩ := faceTaken_iff.mp ht
    exact hface he k hk hke hkf
  have hkept : ¬(changesHeld (popRequest s).denoms[c] d.clamped = true ∧ inUse (popRequest s) c = true) := fun ⟨hc, hu⟩ => by
    obtain ⟨he, hchange⟩ := changesHeld_iff.mp hc
    obtain ⟨h1, h2, h3, h4⟩ := hheld he hu
    rcases hchange with hn | hn | hn | hn
    · exact hn h1
    · exact hn h2
    · exact hn h3
    · rw [show d.clamped.enabled = d.enabled from rfl, h4] at hn
      cases hn
  refine entry_written (run := runPutDenom) (fun _ => rfl) h (writesTable_denom hp)
    ((runPutDenom_read (s := popRequest s) (congrArg Pointer.index hp) hd).trans (congrArg _ (putDenom_written (s := popRequest s) hday hfree hkept)))
    (unchangedBut_mono (setDenoms_leaves _ _) (by decide)) fun u hu hw => ⟨hu .denoms (by decide), hw⟩

end

/-! ## NODE (R169) -/

section
variable {j : Fin 252} {n : Node}

theorem runPutNode_read (hi : s.pointer.index = j.val + 2) (hn : readNode fields = some n) : runPutNode fields s = putResult s (putNode j n s) := by
  unfold runPutNode
  rw [hi, Nat.add_sub_cancel, inRange_val, hn]

theorem runPutNode_unread (hn : readNode fields = none) : runPutNode fields s = putResult s (.error .malformed) := by
  unfold runPutNode
  rw [hn]
  cases inRange 252 (s.pointer.index - 2) <;> rfl

theorem onFloor_iff {a : Role} : a.onFloor = true ↔ a = .till ∨ a = .tillBadge ∨ a = .carrier := by cases a <;> decide

theorem onFloor_false_iff {a : Role} : a.onFloor = false ↔ a ≠ .till ∧ a ≠ .tillBadge ∧ a ≠ .carrier := by cases a <;> decide

theorem putNode_refused (hbad : n.port = .floor ∧ n.role ≠ .till ∧ n.role ≠ .tillBadge ∧ n.role ≠ .carrier ∨
    n.port = .room ∧ (n.role = .till ∨ n.role = .tillBadge ∨ n.role = .carrier) ∨ n.port = .none ∧ n.enabled = true) :
    putNode j n s = .error .malformed := by
  rw [← onFloor_false_iff, ← onFloor_iff, ← or_assoc] at hbad
  unfold putNode
  by_cases hport : (n.port = .floor ∧ n.role.onFloor = false) ∨ (n.port = .room ∧ n.role.onFloor = true)
  · exact if_pos hport
  · rw [if_neg hport, if_pos (hbad.resolve_left hport)]

theorem putNode_written (hgood : n.port = .floor ∧ (n.role = .till ∨ n.role = .tillBadge ∨ n.role = .carrier) ∨
    n.port = .room ∧ n.role ≠ .till ∧ n.role ≠ .tillBadge ∧ n.role ≠ .carrier ∨ n.port = .none ∧ n.enabled = false) :
    putNode j n s = .ok (s.setNodes (put s.nodes j n)) := by
  rw [← onFloor_false_iff, ← onFloor_iff] at hgood
  unfold putNode
  rcases hgood with ⟨hp, hr⟩ | ⟨hp, hr⟩ | ⟨hp, hr⟩ <;> simp [hp, hr]

theorem writesTable_node (hp : s.pointer = { table := .node, index := j.val + 2 }) : writesTable .node s fields = true :=
  writesTable_at hp (by show j.val + 2 ≤ 0xFD; omega) rfl nofun

theorem node_refusals (h : RequestAtHead s tag 0x11 fields) (hp : s.pointer = { table := .node, index := j.val + 2 }) :
    (readNode fields = none → RefusedRequest .tablePutNode s tag 0x11 .malformed none) ∧
    ∀ n : Node, readNode fields = some n →
      (n.port = .floor ∧ n.role ≠ .till ∧ n.role ≠ .tillBadge ∧ n.role ≠ .carrier ∨
        n.port = .room ∧ (n.role = .till ∨ n.role = .tillBadge ∨ n.role = .carrier) ∨ n.port = .none ∧ n.enabled = true) →
      RefusedRequest .tablePutNode s tag 0x11 .malformed none :=
  ⟨fun hn => entry_refused (run := runPutNode) (fun _ => rfl) h (writesTable_node hp) (runPutNode_unread hn), fun _ hn hbad =>
    entry_refused (run := runPutNode) (fun _ => rfl) h (writesTable_node hp)
      ((runPutNode_read (s := popRequest s) (congrArg Pointer.index hp) hn).trans (congrArg _ (putNode_refused hbad)))⟩

theorem node_written (h : RequestAtHead s tag 0x11 fields) (hp : s.pointer = { table := .node, index := j.val + 2 }) (hn : readNode fields = some n)
    (hgood : n.port = .floor ∧ (n.role = .till ∨ n.role = .tillBadge ∨ n.role = .carrier) ∨
      n.port = .room ∧ n.role ≠ .till ∧ n.role ≠ .tillBadge ∧ n.role ≠ .carrier ∨ n.port = .none ∧ n.enabled = false) :
    Yields .tablePutNode s fun u => u.nodes = put s.nodes j n ∧ Written s tag u :=
  entry_written (run := runPutNode) (fun _ => rfl) h (writesTable_node hp)
    ((runPutNode_read (s := popRequest s) (congrArg Pointer.index hp) hn).trans (congrArg _ (putNode_written hgood)))
    (unchangedBut_mono (setNodes_leaves _ _) (by decide)) fun _ hu hw => ⟨hu .nodes (by decide), hw⟩

end

/-! ## WITNESS (R170) -/

section
variable {j : Fin 7} {w : Witness}

theorem runPutWitness_read (hi : s.pointer.index = j.val) (hw : readWitness fields = some w) :
    runPutWitness fields s = putResult s (putWitness j w s) := by
  unfold runPutWitness
  rw [hi, inRange_val, hw]

theorem runPutWitness_unread (hw : readWitness fields = none) : runPutWitness fields s = putResult s (.error .malformed) := by
  unfold runPutWitness
  rw [hw]
  cases inRange 7 s.pointer.index <;> rfl

theorem writesTable_witness (hp : s.pointer = { table := .witness, index := j.val }) : writesTable .witness s fields = true :=
  writesTable_at hp (by show j.val ≤ 6; omega) rfl nofun

theorem witness_refusals (h : RequestAtHead s tag 0x11 fields) (hp : s.pointer = { table := .witness, index := j.val }) :
    (readWitness fields = none → RefusedRequest .tablePutWitness s tag 0x11 .malformed none) ∧
    (readWitness fields ≠ none → s.day.state ≠ .night → RefusedRequest .tablePutWitness s tag 0x11 .wrongDayState none) := by
  refine ⟨fun hw => entry_refused (run := runPutWitness) (fun _ => rfl) h (writesTable_witness hp) (runPutWitness_unread hw), fun hw hday => ?_⟩
  obtain ⟨w, hw⟩ := Option.ne_none_iff_exists'.mp hw
  exact entry_refused (run := runPutWitness) (fun _ => rfl) h (writesTable_witness hp)
    ((runPutWitness_read (s := popRequest s) (congrArg Pointer.index hp) hw).trans (congrArg _ (if_pos hday)))

theorem witness_written (h : RequestAtHead s tag 0x11 fields) (hp : s.pointer = { table := .witness, index := j.val }) (hw : readWitness fields = some w)
    (hday : s.day.state = .night) : Yields .tablePutWitness s fun u => u.witness = put s.witness j w ∧ Written s tag u :=
  entry_written (run := runPutWitness) (fun _ => rfl) h (writesTable_witness hp)
    ((runPutWitness_read (s := popRequest s) (congrArg Pointer.index hp) hw).trans (congrArg _ (if_neg (not_not.mpr hday))))
    (unchangedBut_mono (setWitness_leaves _ _) (by decide)) fun _ hu hw => ⟨hu .witness (by decide), hw⟩

end

/-! ## TILL (R42) -/

section
variable {k : Fin 160} {a : TillEntry}

theorem runPutTill_read (hi : s.pointer.index = k.val) (ha : readTill fields = some a) : runPutTill fields s = putResult s (putTill k a s) := by
  unfold runPutTill
  rw [hi, inRange_val, ha]

theorem runPutTill_unread (ha : readTill fields = none) : runPutTill fields s = putResult s (.error .malformed) := by
  unfold runPutTill
  rw [ha]
  cases inRange 160 s.pointer.index <;> rfl

theorem atRest_iff {d : DrawerState} : d.atRest = true ↔ d = .closed ∨ d = .cashedUp ∨ d = .suspended := by cases d <;> decide

theorem atRest_false_iff {d : DrawerState} : ¬d.atRest = true ↔ d = .floated ∨ d = .opened ∨ d = .hold := by cases d <;> decide

theorem writesTable_till (hp : s.pointer = { table := .till, index := k.val }) : writesTable .till s fields = true :=
  writesTable_at hp (by show k.val ≤ 159; omega) rfl nofun

theorem till_refusals (h : RequestAtHead s tag 0x11 fields) (hp : s.pointer = { table := .till, index := k.val }) :
    (readTill fields = none → RefusedRequest .tablePutTill s tag 0x11 .malformed none) ∧
    (readTill fields ≠ none → s.drawers[k].state = .floated ∨ s.drawers[k].state = .opened ∨ s.drawers[k].state = .hold →
      RefusedRequest .tablePutTill s tag 0x11 .wrongTillState none) := by
  refine ⟨fun ha => entry_refused (run := runPutTill) (fun _ => rfl) h (writesTable_till hp) (runPutTill_unread ha), fun ha hstate => ?_⟩
  obtain ⟨a, ha⟩ := Option.ne_none_iff_exists'.mp ha
  exact entry_refused (run := runPutTill) (fun _ => rfl) h (writesTable_till hp)
    ((runPutTill_read (s := popRequest s) (congrArg Pointer.index hp) ha).trans (congrArg _ (if_neg (atRest_false_iff.mpr hstate))))

theorem clampNode_toNat (b : Byte) : (clampNode b).toNat = max 2 (min 253 b.toNat) := by
  unfold clampNode clamp
  rw [BitVec.toNat_ofNat]
  omega

theorem till_written (h : RequestAtHead s tag 0x11 fields) (hp : s.pointer = { table := .till, index := k.val }) (ha : readTill fields = some a)
    (hstate : s.drawers[k].state = .closed ∨ s.drawers[k].state = .cashedUp ∨ s.drawers[k].state = .suspended) :
    Yields .tablePutTill s fun u => u.tills = put s.tills k (clampTill s a) ∧ Written s tag u :=
  entry_written (run := runPutTill) (fun _ => rfl) h (writesTable_till hp)
    ((runPutTill_read (s := popRequest s) (congrArg Pointer.index hp) ha).trans (congrArg _ (if_pos (atRest_iff.mpr hstate))))
    (unchangedBut_mono (setTills_leaves _ _) (by decide)) fun _ hu hw => ⟨hu .tills (by decide), hw⟩

/-- R42's clamping, field by field. -/
structure ClampedTill (s : State) (e x : TillEntry) : Prop where
  node : x.node.toNat = max 2 (min 253 e.node.toNat)
  badge : x.badge.toNat = if e.badge = 0 then 0 else max 2 (min 253 e.badge.toNat)
  targets : ∀ c : Fin 12, x.targets[c] = min 9999 e.targets[c]
  targetValue : x.targetValue = min 2147483647 (sumCodes fun c => if s.denoms[c].enabled then min 9999 e.targets[c] * s.denoms[c].face else 0)
  skimLevel : x.skimLevel = min 99999999 e.skimLevel
  hardLimit : x.hardLimit = max (min 99999999 e.skimLevel) (min 99999999 e.hardLimit)
  topUpCap : x.topUpCap = min 99999999 e.topUpCap
  skimFloor : x.skimFloor = max 1 (min 1000000 e.skimFloor)
  enabled : x.enabled = e.enabled

theorem clampTill_clamped (s : State) (e : TillEntry) : ClampedTill s e (clampTill s e) := by
  have hclamp (hi n : Nat) : clamp 0 hi n = min hi n := Nat.zero_max _
  have htarget (c : Fin 12) : (mapRows (clamp 0 9999) e.targets)[c] = min 9999 e.targets[c] := (mapRows_row _ _ c).trans (hclamp _ _)
  exact
  { node := clampNode_toNat _
    badge := by
      show (if e.badge = 0 then 0 else clampNode e.badge : Byte).toNat = _
      split
      · rfl
      · exact clampNode_toNat _
    targets := htarget
    targetValue := by
      show targetValueOf s (mapRows (clamp 0 9999) e.targets) = _
      unfold targetValueOf
      simp only [htarget]
    skimLevel := hclamp _ _
    hardLimit := by
      show max (clamp 0 99999999 e.skimLevel) _ = _
      rw [hclamp]
    topUpCap := hclamp _ _
    skimFloor := rfl
    enabled := rfl }

end

end

end Sys2Proof.Machine.Effects

/-! PROOF. The writes of TIMING and RING, and the table writes as a whole (R5 to R7, R42, R120, R169, R170, R193). -/

namespace Sys2Proof.Machine.Effects

open Sys2Proof Sys2Proof.Machine Sys2Proof.Machine.Takings Sys2Proof.Machine.TallyCount

section
variable {s : State} {tag : Word16} {fields rest : List Byte}

/-! ## TIMING (R193) -/

section
variable {k : Fin 14} {g : Fin 3} {n : Nat} {y : TallySetting}

theorem runPutTiming_value (hi : s.pointer.index = k.val) (hn : takeNat timingWidth[k] fields = some (n, rest)) :
    runPutTiming fields s = putResult s (.ok (putTimingValue k n s)) := by
  unfold runPutTiming
  rw [hi, inRange_val]
  dsimp only
  rw [hn]

theorem runPutTiming_short (hi : s.pointer.index = k.val) (hlen : fields.length < timingWidth[k]) :
    runPutTiming fields s = putResult s (.error .malformed) := by
  unfold runPutTiming
  rw [hi, inRange_val]
  dsimp only
  rw [takeNat_short hlen]
  rfl

theorem runPutTiming_group (hi : s.pointer.index = 14 + g.val) (hy : readSetting fields = some y) :
    runPutTiming fields s = putResult s (.ok (putTimingGroup g y s)) := by
  unfold runPutTiming
  rw [hi, inRange_none.mpr (by omega), Nat.add_sub_cancel_left, inRange_val, hy]

theorem runPutTiming_unread (hi : s.pointer.index = 14 + g.val) (hy : readSetting fields = none) :
    runPutTiming fields s = putResult s (.error .malformed) := by
  unfold runPutTiming
  rw [hi, inRange_none.mpr (by omega), Nat.add_sub_cancel_left, inRange_val, hy]
  rfl

theorem writesTable_timing {i : Nat} (hp : s.pointer = { table := .timing, index := i }) (hi : i ≤ 16) : writesTable .timing s fields = true :=
  writesTable_at hp hi rfl nofun

theorem timing_short (h : RequestAtHead s tag 0x11 fields) (hp : s.pointer = { table := .timing, index := k.val }) (hlen : fields.length < timingWidth[k]) :
    RefusedRequest .tablePutTiming s tag 0x11 .malformed none :=
  entry_refused (run := runPutTiming) (fun _ => rfl) h (writesTable_timing hp (by omega))
    (runPutTiming_short (s := popRequest s) (congrArg Pointer.index hp) hlen)

theorem timing_unread (h : RequestAtHead s tag 0x11 fields) (hp : s.pointer = { table := .timing, index := 14 + g.val }) (hy : readSetting fields = none) :
    RefusedRequest .tablePutTiming s tag 0x11 .malformed none :=
  entry_refused (run := runPutTiming) (fun _ => rfl) h (writesTable_timing hp (by omega))
    (runPutTiming_unread (s := popRequest s) (congrArg Pointer.index hp) hy)

theorem timing_written (h : RequestAtHead s tag 0x11 fields) (hp : s.pointer = { table := .timing, index := k.val })
    (hn : takeNat timingWidth[k] fields = some (n, rest)) :
    Yields .tablePutTiming s fun u => u.timing = { values := put s.timing.values k (max timingRange[k].1 (min timingRange[k].2 n))
                                                   groups := s.timing.groups } ∧ Written s tag u :=
  entry_written (run := runPutTiming) (fun _ => rfl) h (writesTable_timing hp (by omega))
    (runPutTiming_value (s := popRequest s) (congrArg Pointer.index hp) hn)
    (unchangedBut_mono (setTiming_leaves _ _) (by decide)) fun _ hu hw => ⟨hu .timing (by decide), hw⟩

theorem group_written (h : RequestAtHead s tag 0x11 fields) (hp : s.pointer = { table := .timing, index := 14 + g.val })
    (hy : readSetting fields = some y) :
    Yields .tablePutTiming s fun u => u.timing = { values := s.timing.values, groups := put s.timing.groups g y } ∧ Written s tag u :=
  entry_written (run := runPutTiming) (fun _ => rfl) h (writesTable_timing hp (by omega))
    (runPutTiming_group (s := popRequest s) (congrArg Pointer.index hp) hy)
    (unchangedBut_mono (setTiming_leaves _ _) (by decide)) fun _ hu hw => ⟨hu .timing (by decide), hw⟩

end

/-! ## RING (R120) -/

section
variable {i : Fin 16} {b : Booking}

theorem runPutRing_read (hi : s.pointer.index = i.val) (hb : readBooking fields = some b) : runPutRing fields s = putResult s (putBooking i b s) := by
  unfold runPutRing
  rw [hi, inRange_val, hb]

theorem runPutRing_unread (hb : readBooking fields = none) : runPutRing fields s = putResult s (.error .malformed) := by
  unfold runPutRing
  rw [hb]
  cases inRange 16 s.pointer.index <;> rfl

theorem putBooking_protected (howner : s.ring[i].owner = .part) : putBooking i b s = .error .protectedEntry := if_pos howner

theorem putBooking_bad (howner : s.ring[i].owner = .office) (hbad : 12 < b.outbound.length ∨ 0 ∈ b.outbound) : putBooking i b s = .error .malformed := by
  unfold putBooking
  rw [if_neg (by rw [howner]; nofun)]
  exact if_pos (hbad.imp id List.contains_iff_mem.mpr)

theorem putBooking_written (howner : s.ring[i].owner = .office) (hlen : b.outbound.length ≤ 12) (hzero : 0 ∉ b.outbound) :
    putBooking i b s = .ok (setSlot i (bookedSlot s.ring[i] b) s) := by
  have hgood : ¬(Config.consignmentSeals < b.outbound.length ∨ b.outbound.contains 0 = true) := fun hbad =>
    hbad.elim (fun h => absurd (show 12 < b.outbound.length from h) (by omega)) fun h => hzero (List.contains_iff_mem.mp h)
  unfold putBooking
  rw [if_neg (by rw [howner]; nofun), if_neg hgood]

theorem writesTable_ring (hp : s.pointer = { table := .ring, index := i.val }) : writesTable .ring s fields = true :=
  writesTable_at hp (by show i.val ≤ 16; omega) rfl fun _ => by omega

theorem ring_refused {e : Code} (h : RequestAtHead s tag 0x11 fields) (hp : s.pointer = { table := .ring, index := i.val })
    (hb : readBooking fields = some b) (hput : putBooking i b (popRequest s) = .error e) : RefusedRequest .tablePutRing s tag 0x11 e none :=
  entry_refused (run := runPutRing) (fun _ => rfl) h (writesTable_ring hp)
    ((runPutRing_read (s := popRequest s) (congrArg Pointer.index hp) hb).trans (congrArg _ hput))

theorem ring_refusals (h : RequestAtHead s tag 0x11 fields) (hp : s.pointer = { table := .ring, index := i.val }) :
    (readBooking fields = none → RefusedRequest .tablePutRing s tag 0x11 .malformed none) ∧
    ∀ b : Booking, readBooking fields = some b →
      (s.ring[i].owner = .part → RefusedRequest .tablePutRing s tag 0x11 .protectedEntry none) ∧
      (s.ring[i].owner = .office → 12 < b.outbound.length ∨ 0 ∈ b.outbound → RefusedRequest .tablePutRing s tag 0x11 .malformed none) :=
  ⟨fun hb => entry_refused (run := runPutRing) (fun _ => rfl) h (writesTable_ring hp) (runPutRing_unread hb), fun _ hb =>
    ⟨fun howner => ring_refused h hp hb (putBooking_protected (s := popRequest s) howner),
      fun howner hbad => ring_refused h hp hb (putBooking_bad (s := popRequest s) howner hbad)⟩⟩

theorem bookedSlot_eq {d : Descriptor} (howner : d.owner = .office) : bookedSlot d b =
    { owner := .office, number := b.number, courier := b.courier, windowStart := min 1439 b.windowStart
      windowEnd := max (min 1439 b.windowStart) (min 1439 b.windowEnd), outbound := b.outbound
      inboundCount := min 12 b.inboundCount, inboundValue := b.inboundValue, result := .none, received := []
      second := none, supervisor := none, courierMark := none, dayPassed := d.dayPassed } := by
  unfold bookedSlot clamp
  simp [howner]

theorem ring_written (h : RequestAtHead s tag 0x11 fields) (hp : s.pointer = { table := .ring, index := i.val }) (hb : readBooking fields = some b)
    (howner : s.ring[i].owner = .office) (hlen : b.outbound.length ≤ 12) (hzero : 0 ∉ b.outbound) :
    Yields .tablePutRing s fun u => u.ring = put s.ring i (bookedSlot s.ring[i] b) ∧ Written s tag u :=
  entry_written (run := runPutRing) (fun _ => rfl) h (writesTable_ring hp)
    ((runPutRing_read (s := popRequest s) (congrArg Pointer.index hp) hb).trans (congrArg _ (putBooking_written (s := popRequest s) howner hlen hzero)))
    (unchangedBut_mono (setRing_leaves _ _) (by decide)) fun _ hu hw => ⟨hu .ring (by decide), hw⟩

end

end

/-- Settles O52: each table by the equations of its write, refused and taken. -/
theorem tableWrites : Obligations.TableWrites := by
  unfold Obligations.TableWrites
  refine fun s tag fields h => ⟨fun c hp => denom_refusals h hp, fun c => inUse_iff, fun i hp => node_refusals h hp, fun i hp => witness_refusals h hp,
    fun t hp => till_refusals h hp, fun k hp => timing_short h hp, fun g hp => timing_unread h hp, fun i hp => ring_refusals h hp,
    fun c d hp hd hday => denom_written h hp hd hday, fun i n hp => node_written h hp, fun i w hp => witness_written h hp, fun t e hp he hstate => ?_,
    fun k n rest hp => timing_written h hp, fun g x hp => group_written h hp, fun i b hp hb howner hlen hzero => ?_⟩
  · obtain ⟨u, hu, htills, hwritten⟩ := till_written h hp he hstate
    have hrow (k : Fin 160) : u.tills[k] = if t = k then clampTill s e else s.tills[k] := by
      rw [htills]
      exact put_get _ _ _ _
    obtain ⟨h1, h2, h3, h4, h5, h6, h7, h8, h9⟩ := clampTill_clamped s e
    rw [← show u.tills[t] = clampTill s e from (hrow t).trans (if_pos rfl)] at h1 h2 h3 h4 h5 h6 h7 h8 h9
    exact ⟨u, hu, ⟨h1, h2, h3, h4, h5, h6, h7, h8, h9⟩, fun k hk => (hrow k).trans (if_neg (Ne.symm hk)), hwritten⟩
  · rw [← bookedSlot_eq howner]
    exact ring_written h hp hb howner hlen hzero

end Sys2Proof.Machine.Effects

/-! PROOF. The entries of the read-only tables, field by field (R9, R20, R23, R38, R43, R68, R79, R80, R119, R147). -/

namespace Sys2Proof.Machine.Effects

open Sys2Proof Sys2Proof.Machine Sys2Proof.Machine.Takings Sys2Proof.Machine.TallyCount

section
variable {s : State} {c : Fin 12}

/-! ## The order of the STOCK lines (R8, R9) -/

/-- Higher face first; of equal faces the lower code. -/
def FaceFirst (s : State) (a b : Fin 12) : Prop := s.denoms[b].face < s.denoms[a].face ∨ s.denoms[b].face = s.denoms[a].face ∧ a < b

/-- The line of code `k` stands above that of code `c`. -/
def lineBefore (s : State) (c k : Fin 12) : Bool :=
  if s.denoms[c].enabled then
    s.denoms[k].enabled && (decide (s.denoms[c].face < s.denoms[k].face) || (decide (s.denoms[c].face = s.denoms[k].face) && decide (k < c)))
  else s.denoms[k].enabled || decide (k < c)

theorem insertFace_first {l : List (Fin 12)} (h : l.Pairwise (FaceFirst s)) (hc : ∀ d ∈ l, d < c) : (insertFace s c l).Pairwise (FaceFirst s) := by
  induction l with
  | nil => exact List.pairwise_singleton _ _
  | cons d rest ih =>
    obtain ⟨hd, hrest⟩ := List.pairwise_cons.mp h
    have hdc : d < c := hc d List.mem_cons_self
    unfold insertFace
    split
    · next hle =>
      refine List.pairwise_cons.mpr ⟨fun b hb => ?_, ih hrest fun b hb => hc b (List.mem_cons_of_mem _ hb)⟩
      rcases List.mem_cons.mp ((insertFace_perm s c rest).mem_iff.mp hb) with rfl | hb
      · exact (Nat.lt_or_eq_of_le hle).imp_right fun he => ⟨he, hdc⟩
      · exact hd b hb
    · next hlt =>
      refine List.pairwise_cons.mpr ⟨fun b hb => .inl ?_, h⟩
      rcases List.mem_cons.mp hb with rfl | hb
      · exact Nat.lt_of_not_le hlt
      · have hbd : s.denoms[b].face ≤ s.denoms[d].face := (hd b hb).elim le_of_lt fun he => he.1.le
        exact hbd.trans_lt (Nat.lt_of_not_le hlt)

theorem foldl_insertFace_first {cs l : List (Fin 12)} (hcs : cs.Pairwise (· < ·)) (h : l.Pairwise (FaceFirst s)) (hl : ∀ d ∈ l, ∀ c ∈ cs, d < c) :
    (cs.foldl (fun l c => insertFace s c l) l).Pairwise (FaceFirst s) := by
  induction cs generalizing l with
  | nil => exact h
  | cons c cs ih =>
    obtain ⟨hc, hrest⟩ := List.pairwise_cons.mp hcs
    refine ih hrest (insertFace_first h fun d hd => hl d hd c List.mem_cons_self) fun d hd b hb => ?_
    rcases List.mem_cons.mp ((insertFace_perm s c l).mem_iff.mp hd) with rfl | hd
    · exact hc b hb
    · exact hl d hd b (List.mem_cons_of_mem _ hb)

theorem codes_increasing : codes.Pairwise (· < ·) := by decide

theorem faceOrder_first (s : State) : (faceOrder s).Pairwise (FaceFirst s) :=
  foldl_insertFace_first (codes_increasing.sublist List.filter_sublist) .nil nofun

theorem lineBefore_of_first {a b : Fin 12} (ha : s.denoms[a].enabled = true) (hb : s.denoms[b].enabled = true) (h : FaceFirst s a b) :
    lineBefore s b a = true ∧ lineBefore s a b = false := by
  unfold lineBefore
  rw [if_pos hb, if_pos ha]
  simp only [ha, hb, Bool.true_and, Bool.or_eq_true, Bool.and_eq_true, decide_eq_true_eq, Bool.or_eq_false_iff, Bool.and_eq_false_iff, decide_eq_false_iff_not]
  rcases h with h | ⟨h, hlt⟩
  · exact ⟨.inl h, by omega, .inl (by omega)⟩
  · exact ⟨.inr ⟨h, hlt⟩, by omega, .inr (by omega)⟩

/-- The STOCK lines stand in the order of `lineBefore`. -/
theorem stockOrder_lines (s : State) : (stockOrder s).Pairwise fun a b => lineBefore s b a = true ∧ lineBefore s a b = false := by
  have hdisabled (b : Fin 12) (hb : b ∈ codes.filter fun c => !s.denoms[c].enabled) : s.denoms[b].enabled = false := by
    simpa using (List.mem_filter.mp hb).2
  refine List.pairwise_append.mpr ⟨?_, ?_, fun a ha b hb => ?_⟩
  · exact (faceOrder_first s).imp_of_mem fun ha hb => lineBefore_of_first (CapLoop.mem_faceOrder.mp ha) (CapLoop.mem_faceOrder.mp hb)
  · refine (codes_increasing.sublist List.filter_sublist).imp_of_mem fun {a b} ha hb hlt => ?_
    unfold lineBefore
    rw [hdisabled a ha, hdisabled b hb]
    simp [hlt, hlt.le]
  · unfold lineBefore
    rw [CapLoop.mem_faceOrder.mp ha, hdisabled b hb]
    simp

/-- In a list that a relation orders strictly, an element stands behind as many as are before it. -/
theorem getElem?_ordered {l : List (Fin 12)} {p : Fin 12 → Fin 12 → Bool} (h : l.Pairwise fun a b => p b a = true ∧ p a b = false)
    (hself : p c c = false) (hc : c ∈ l) : l[(l.filter (p c)).length]? = some c := by
  obtain ⟨before, after, rfl⟩ := List.append_of_mem hc
  obtain ⟨-, hafter, hbefore⟩ := List.pairwise_append.mp h
  have hkept : before.filter (p c) = before := List.filter_eq_self.mpr fun a ha => (hbefore a ha c List.mem_cons_self).1
  have hdropped : after.filter (p c) = [] := List.filter_eq_nil_iff.mpr fun a ha => by
    rw [((List.pairwise_cons.mp hafter).1 a ha).2]
    decide
  rw [List.filter_append, List.filter_cons_of_neg (by rw [hself]; decide), hkept, hdropped, List.append_nil]
  simp

theorem lineBefore_self (s : State) (c : Fin 12) : lineBefore s c c = false := by
  unfold lineBefore
  cases s.denoms[c].enabled <;> simp

theorem stockOrder_line (s : State) (c : Fin 12) : (stockOrder s)[((List.finRange 12).filter (lineBefore s c)).length]? = some c := by
  have hperm : (stockOrder s).Perm (List.finRange 12) := stockOrder_perm s
  rw [← (hperm.filter (lineBefore s c)).length_eq]
  exact getElem?_ordered (stockOrder_lines s) (lineBefore_self s c) (mem_stockOrder s c)

theorem lines_lt (s : State) (c : Fin 12) : ((List.finRange 12).filter (lineBefore s c)).length ≠ 12 := by
  intro h
  have hline := stockOrder_line s c
  rw [h, List.getElem?_eq_none (by rw [(stockOrder_perm s).length_eq]; decide)] at hline
  cases hline

theorem stock_line (s : State) (c : Fin 12) : tableEntry s .stock ((List.finRange 12).filter (lineBefore s c)).length = stockBytes s c := by
  unfold tableEntry
  dsimp only
  rw [if_neg (lines_lt s c), stockOrder_line]
  rfl

/-! ## The other entries -/

theorem entryOf_val {α : Type} {n : Nat} (f : α → List Byte) (v : Vector α n) (i : Fin n) : entryOf f v i.val = f v[i] := by
  unfold entryOf
  rw [inRange_val]

theorem optBytes_map {α : Type} (f : α → List Byte) (o : Option α) : optBytes f o = (o.map f).elim [0] fun bs => 1 :: bs := by cases o <;> rfl

theorem secondsLeft_elim (s : State) (o : Option Nat) : secondsLeft s o = o.elim 0 fun deadline => deadline - s.seconds := by cases o <;> rfl

theorem flagRow_finRange (v : Vector Bool 12) : rowBytes (fun b => [flagByte b]) v = (List.finRange 12).map fun c => flagByte v[c] := by
  rw [rowBytes_finRange]
  exact List.flatMap_pure_eq_map _ _

theorem drawer_entry (s : State) (t : Fin 160) : tableEntry s .drawer t.val = drawerBytes s.drawers[t] := entryOf_val _ _ _

theorem order_entry (s : State) (i : Fin 24) : tableEntry s .order i.val = orderBytes s.orders[i] := entryOf_val _ _ _

theorem bag_entry {i : Nat} {b : Bag} (h : s.bags[i]? = some b) : tableEntry s .bag i = bagBytes b := by
  show bagBytes (s.bags.getD i noBag) = _
  rw [List.getD_eq_getElem?_getD, h]
  rfl

theorem bag_absent {i : Nat} (h : s.bags.length ≤ i) : tableEntry s .bag i = List.replicate 26 0 := by
  show bagBytes (s.bags.getD i noBag) = _
  rw [List.getD_eq_getElem?_getD, List.getElem?_eq_none h]
  decide

theorem safe_entry {i : Nat} (hi : i < 120) : tableEntry s .safeList i = safeEntryBytes (s.safe.inventory.getD i noSafeEntry) := if_neg (by omega)

theorem safe_present {i : Nat} {e : SafeEntry} (hi : i < 120) (h : s.safe.inventory[i]? = some e) : tableEntry s .safeList i = safeEntryBytes e := by
  rw [safe_entry hi, List.getD_eq_getElem?_getD, h]
  rfl

theorem safe_absent {i : Nat} (hi : i < 120) (h : s.safe.inventory.length ≤ i) : tableEntry s .safeList i = List.replicate 9 0 := by
  rw [safe_entry hi, List.getD_eq_getElem?_getD, List.getElem?_eq_none h]
  decide

end

end Sys2Proof.Machine.Effects

/-! PROOF. The table window and STATUS (R119, R192, R194). -/

namespace Sys2Proof.Machine.Effects

open Sys2Proof Sys2Proof.Machine Sys2Proof.Machine.Takings Sys2Proof.Machine.TallyCount

section
variable {s u : State} {tag : Word16} {code : Byte} {fields more : List Byte} {x : Instr} {e : Code} {d : Option Nat} {t : TableId} {k i : Nat}

/-! ## TABLE_SELECT -/

theorem table_mem (t : TableId) : t ∈ TableId.all := by cases t <;> decide

theorem find_table (t : TableId) : (TableId.all.find? fun x => x.code = t.code) = some t := by cases t <;> rfl

theorem find_table_none (h : ∀ t : TableId, t.code ≠ k) : (TableId.all.find? fun x => x.code = k) = none :=
  List.find?_eq_none.mpr fun x _ => by simpa using h x

theorem any_table_iff : (TableId.all.any fun t => t.code == k) = true ↔ ∃ t : TableId, t.code = k := by
  simp only [List.any_eq_true, beq_iff_eq]
  exact ⟨fun ⟨t, _, h⟩ => ⟨t, h⟩, fun ⟨t, h⟩ => ⟨t, table_mem t, h⟩⟩

theorem select_fields (hfields : fields = be 1 k ++ be 2 i ++ more) (hk : k < 256) (hi : i < 256 ^ 2) : leadFields [1, 2] fields = some ([k, i], more) := by
  rw [hfields, List.append_assoc, leadFields_be (by omega), leadFields_be hi]
  rfl

theorem code_lt (t : TableId) : t.code < 256 := by cases t <;> decide

theorem last_lt (t : TableId) : t.last < 256 ^ 2 := by cases t <;> decide

theorem runTableSelect_named (hfields : fields = be 1 t.code ++ be 2 i ++ more) (hi : i < 256 ^ 2) : runTableSelect fields s =
    if i < t.first ∨ t.last < i then (s, Result.of .malformed none) else (s.setPointer { table := t, index := i }, Result.of .accepted none) := by
  unfold runTableSelect
  rw [select_fields hfields (code_lt t) hi]
  dsimp only
  rw [find_table]

theorem runTableSelect_unnamed (hfields : fields = be 1 k ++ be 2 i ++ more) (hk : k < 256) (hi : i < 256 ^ 2) (h : ∀ t : TableId, t.code ≠ k) :
    runTableSelect fields s = (s, Result.of .unknownTable none) := by
  unfold runTableSelect
  rw [select_fields hfields hk hi]
  dsimp only
  rw [find_table_none h]

theorem table_selected (h : RequestAtHead s tag 0x10 fields) (hfields : fields = be 1 t.code ++ be 2 i ++ more) (hfirst : t.first ≤ i) (hlast : i ≤ t.last) :
    Yields .tableSelect s fun u => u.pointer = { table := t, index := i } ∧ Replied s u tag 0x10 .accepted [] := by
  have hrun := (runTableSelect_named (s := popRequest s) hfields (lt_of_le_of_lt hlast (last_lt t))).trans (if_neg (by omega))
  exact request_quiet (c := .tableSelect) (variant := anyForm) (run := runTableSelect) (fun _ => rfl) h rfl hrun (setPointer_leaves _ _) (by decide)
    fun u hu => ⟨hu.part .pointer, hu.replied⟩

/-- What the window's claims say of a refusal. -/
theorem refused_pointer (h : RefusedRequest x s tag code e d) : Yields x s fun u => u.pointer = s.pointer ∧ Replied s u tag code e [] := by
  obtain ⟨u, hu, hleaves, -, w, -, htrunk⟩ := h
  exact ⟨u, hu, hleaves .pointer (by decide), by rw [htrunk], w, by rw [htrunk]⟩

theorem select_refused (h : RequestAtHead s tag 0x10 fields) (hfields : fields = be 1 k ++ be 2 i ++ more) (hk : k < 256) (hi : i < 256 ^ 2)
    (hbad : (∀ t : TableId, t.code ≠ k) ∨ ∃ t : TableId, t.code = k ∧ (i < t.first ∨ t.last < i)) :
    RefusedRequest .tableSelect s tag 0x10 (if TableId.all.any fun t => t.code == k then .malformed else .unknownTable) none := by
  refine refused_of_run (variant := anyForm) (run := runTableSelect) (fun _ => rfl) h rfl ?_
  rcases hbad with hnone | ⟨t, rfl, hrange⟩
  · rw [if_neg fun hany => (any_table_iff.mp hany).elim hnone]
    exact runTableSelect_unnamed hfields hk hi hnone
  · rw [if_pos (any_table_iff.mpr ⟨t, rfl⟩)]
    exact (runTableSelect_named hfields hi).trans (if_pos hrange)

/-! ## TABLE_GET, and the TABLE_PUT that reaches no entry -/

theorem get_past (h : RequestAtHead s tag 0x12 fields) (hpast : s.pointer.table.last < s.pointer.index) :
    RefusedRequest .tableGet s tag 0x12 .malformed none :=
  refused_of_run (variant := anyForm) (run := runTableGet) (fun _ => rfl) h rfl (if_pos (decide_eq_true hpast))

theorem tableEntry_popRequest (s : State) (t : TableId) (i : Nat) : tableEntry (popRequest s) t i = tableEntry s t i := by
  cases t
  case stock =>
    unfold tableEntry
    dsimp only
    rw [stockOrder_congr (t := popRequest s) (s := s) rfl]
    rfl
  all_goals rfl

theorem entry_got (h : RequestAtHead s tag 0x12 fields) (hin : s.pointer.index ≤ s.pointer.table.last) : Yields .tableGet s fun u =>
    u.pointer = { table := s.pointer.table, index := s.pointer.index + 1 } ∧
    Replied s u tag 0x12 .accepted (tableEntry s s.pointer.table s.pointer.index) := by
  have hrun : runTableGet fields (popRequest s) = (advancePointer (popRequest s),
      { code := .accepted, detail := none, data := tableEntry (popRequest s) s.pointer.table s.pointer.index }) :=
    if_neg (by show ¬decide (s.pointer.table.last < s.pointer.index) = true; simpa using hin)
  refine request_quiet (c := .tableGet) (variant := anyForm) (run := runTableGet) (fun _ => rfl) h rfl hrun (setPointer_leaves _ _) (by decide)
    fun u hu => ⟨hu.part .pointer, ?_⟩
  rw [tableEntry_popRequest] at hu
  exact hu.replied

theorem put_past (h : RequestAtHead s tag 0x11 fields) (hpast : s.pointer.table.last < s.pointer.index) :
    RefusedRequest .tablePut s tag 0x11 .malformed none := by
  have hend : pastEnd s = true := decide_eq_true hpast
  exact refused_of_run (variant := fun s _ => notWritable s) (run := runTablePut) (fun _ => rfl) h
    (by unfold notWritable; rw [hend]; rfl) (if_pos hend)

theorem put_protected (h : RequestAtHead s tag 0x11 fields) (hin : s.pointer.index ≤ s.pointer.table.last)
    (hread : s.pointer.table.readOnly = true ∨ s.pointer = { table := .ring, index := 16 }) : RefusedRequest .tablePut s tag 0x11 .protectedEntry none := by
  have hend : ¬pastEnd s = true := by
    unfold pastEnd
    simpa using hin
  have hvariant : notWritable s = true := by
    unfold notWritable
    rcases hread with hread | hread
    · rw [hread]
      simp
    · rw [hread]
      simp
  exact refused_of_run (variant := fun s _ => notWritable s) (run := runTablePut) (fun _ => rfl) h hvariant (if_neg hend)

/-! ## STATUS (R194) -/

/-- The sessions' part of STATUS. -/
theorem sessions_status (s : State) : s.sessions.toList.flatMap sessionStatus = (List.finRange 4).flatMap fun x =>
    be 1 s.sessions[x].state.code ++ be 4 s.sessions[x].bag ++ [s.sessions[x].node] ++ be 4 s.sessions[x].total ++ be 2 s.sessions[x].unresolved :=
  rowBytes_finRange sessionStatus s.sessions

theorem status_read (h : RequestAtHead s tag 0x18 fields) : Yields .status s fun u => unchangedBut Part.replyParts s u ∧
    Replied s u tag 0x18 .accepted (statusData (popRequest s)) :=
  request_quiet (c := .status) (variant := anyForm) (run := runStatus) (fun _ => rfl) h rfl rfl (unchangedBut_refl [] _) nofun fun _ hu =>
    ⟨unchangedBut_mono (unchangedBut_trans (popRequest_leaves s) hu.leaves) (by decide), hu.replied⟩

theorem closed_flag (b : Bool) : [flagByte (!b)] = be 1 (if b then 0 else 1) := by cases b <;> rfl

end

/-- Settles O51: the window's requests by their cases, the read-only entries by the equations of their bytes. -/
theorem tableWindow : Obligations.TableWindow := by
  unfold Obligations.TableWindow
  refine fun s tag fields => ⟨fun t i more h hfields => table_selected h hfields, fun k i more h hfields hk hi hbad => refused_pointer (select_refused h hfields hk hi hbad),
    fun h hpast => refused_pointer (get_past h hpast), entry_got, fun h hpast => refused_pointer (put_past h hpast),
    fun h hin hread => refused_pointer (put_protected h hin hread), fun h => ?_, fun t => ?_, fun i b hb => ?_, fun i => bag_absent,
    fun i e => safe_present, fun i => safe_absent, ?_, fun i => ?_, stock_line s, rfl, rfl, ?_⟩
  · have hdata := status_read h
    unfold statusData at hdata
    rw [show (popRequest s).sessions = s.sessions from rfl, sessions_status, optBytes_map, closed_flag,
      show (popRequest s).trunk.buffer.length = s.trunk.buffer.length - 1 from List.length_tail] at hdata
    exact hdata
  · rw [drawer_entry]
    unfold drawerBytes
    simp only [optBytes_map]
    rfl
  · rw [bag_entry hb]
    unfold bagBytes
    simp only [optBytes_map, funext (rowBytes_finRange (be 4))]
    rfl
  · show lockBytes s = _
    unfold lockBytes
    rw [secondsLeft_elim]
    rfl
  · rw [order_entry]
    unfold orderBytes
    simp only [optBytes_map, rowBytes_finRange (be 2), flagRow_finRange]
    rfl
  · show sessionRecordBytes s = _
    unfold sessionRecordBytes
    rw [secondsLeft_elim, optBytes_map]
    rfl

end Sys2Proof.Machine.Effects

/-! PROOF. The trunk's receiver and transmitter (R183, R188, R189, R191). -/

namespace Sys2Proof.Machine.Effects

open Sys2Proof Sys2Proof.Machine Sys2Proof.Machine.Takings Sys2Proof.Machine.TallyCount

section
variable {s t u : State} {tag : Word16} {code type : Byte} {fields payload chars : List Byte} {n check : Nat} {e : TrunkEntry} {b held : Bool} {c : Instr}

/-! ## The receiver (R188, R189) -/

theorem received_yields (hw : waitingPlaceable (receiveTrunk chars s) = true → waitingPlaceable s = true) :
    Yields (.trunkFrameReceived chars) s fun u => u.trunk = (receiveTrunk chars s).trunk ∧ u.event .linkError = (receiveTrunk chars s).event .linkError := by
  have hsettle := settle_trunk (receiveTrunk_leaves chars s) (hwaiting := hw)
  exact ⟨_, rfl, by rw [hsettle, settleEvents_trunk], by rw [hsettle, settleEvents_event, pendingCondition_direct rfl]⟩

/-- A frame discarded with a counter and its LINK_ERROR. -/
theorem discarded_received {x : Trunk} (hx : receiveTrunk chars s = raisePair .linkError 2 n (s.setTrunk x)) (hwaits : x.sendWaits = s.trunk.sendWaits)
    (hbuffer : x.buffer = s.trunk.buffer) : Yields (.trunkFrameReceived chars) s fun u =>
      u.trunk = x ∧ (u.event .linkError).pending = true ∧ (u.event .linkError).detail = BitVec.ofNat 32 (512 + n) := by
  have hleaves : unchangedBut [.trunk, .events] s (raisePair .linkError 2 n (s.setTrunk x)) :=
    unchangedBut_trans (setTrunk_leaves x s) (raisePair_leaves _ _ _ _)
  have htrunk : (raisePair .linkError 2 n (s.setTrunk x)).trunk = x := raisePair_leaves .linkError 2 n (s.setTrunk x) .trunk (by decide)
  have hraised : (raisePair .linkError 2 n (s.setTrunk x)).event .linkError = { s.event .linkError with
      pending := true, detail := BitVec.ofNat 32 (512 + n), count := min 255 ((s.event .linkError).count + 1) } :=
    (raise_event _ _ _ _).trans (if_pos rfl)
  rw [← hx] at hleaves htrunk hraised
  obtain ⟨u, hu, h1, h2⟩ := received_yields (s := s) (chars := chars) fun hw => by
    rwa [waitingPlaceable_congr (by rw [htrunk, hwaits]) (by rw [htrunk, hbuffer]) (by rw [hleaves .floor (by decide)]) (by rw [hleaves .room (by decide)])
      (hleaves .nodes (by decide))] at hw
  exact ⟨u, hu, h1.trans htrunk, by rw [h2, hraised], by rw [h2, hraised]⟩

theorem request_frame (hrx : s.trunk.rx = .hunting) (hlen : fields.length ≤ 509) :
    receiveTrunk (trunkChars typeRequest (be 2 tag.toNat ++ code :: fields)) s = bufferEntry (.request tag code fields) s := by
  rw [receiveTrunk_trunkChars hrx (by simp; omega), trunkEntry_request]
  rfl

theorem request_buffered (hs : WaitingSound s) (hrx : s.trunk.rx = .hunting) (hplace : s.trunk.buffer.length < 4) (hlen : fields.length ≤ 509) :
    Yields (.trunkFrameReceived (trunkChars typeRequest (be 2 tag.toNat ++ code :: fields))) s fun u =>
      u.trunk = { s.trunk with buffer := s.trunk.buffer ++ [.request tag code fields] } := by
  obtain ⟨u, hu, htrunk, -⟩ := received_yields (waitingPlaceable_received hs (chars := trunkChars typeRequest (be 2 tag.toNat ++ code :: fields)))
  refine ⟨u, hu, htrunk.trans ?_⟩
  rw [request_frame hrx hlen, bufferEntry_free hplace]
  rfl

theorem request_overruns (hrx : s.trunk.rx = .hunting) (hfull : s.trunk.buffer.length = 4) (hlen : fields.length ≤ 509) :
    Yields (.trunkFrameReceived (trunkChars typeRequest (be 2 tag.toNat ++ code :: fields))) s fun u =>
      u.trunk = { s.trunk with overrun := countUp s.trunk.overrun } ∧ (u.event .linkError).pending = true ∧ (u.event .linkError).detail = 519 := by
  refine discarded_received (n := 7) ?_ rfl rfl
  rw [request_frame hrx hlen]
  exact if_pos (by rw [hfull]; decide)

theorem check_fails (hrx : s.trunk.rx = .hunting) (hlen : payload.length ≤ 512) (hcheck : check < 256 ^ 2)
    (hbad : check ≠ (crc16 (type :: (be 2 payload.length ++ payload))).toNat) :
    Yields (.trunkFrameReceived (0xA5#8 :: type :: (be 2 payload.length ++ payload ++ be 2 check))) s fun u =>
      u.trunk = { s.trunk with check := countUp s.trunk.check } ∧ (u.event .linkError).pending = true ∧ (u.event .linkError).detail = 512 := by
  refine discarded_received (n := 0) ?_ rfl rfl
  show receiveTrunk (trunkStart :: (trunkCore type payload ++ be 2 check)) s = _
  rw [receiveTrunk_frame hrx hlen (be_length 2 check), unbe_be hcheck]
  exact if_pos hbad

theorem trunkEntry_none (h : type ≠ typeRequest ∧ type ≠ typeSend ∨ type = typeRequest ∧ payload.length < 3 ∨ type = typeSend ∧ payload.length < 7 ∨
    type = typeSend ∧ 7 ≤ payload.length ∧ payload.length < 7 + (payload.getD 6 0).toNat) : trunkEntry type payload = none := by
  unfold trunkEntry
  rcases h with ⟨h1, h2⟩ | ⟨rfl, hlen⟩ | ⟨rfl, hlen⟩ | ⟨rfl, -, hlen⟩
  · rw [if_neg h1, if_neg h2]
  · rw [if_pos rfl]
    split
    · simp only [List.length_cons] at hlen
      omega
    · rfl
  · rw [if_neg (by decide), if_pos rfl]
    split
    · simp only [List.length_cons] at hlen
      omega
    · rfl
  · rw [if_neg (by decide), if_pos rfl]
    split
    · simp only [List.length_cons, List.getD_cons_succ, List.getD_cons_zero] at hlen
      exact if_pos (by omega)
    · rfl

theorem frame_unread (hrx : s.trunk.rx = .hunting) (hlen : payload.length ≤ 512) (h : trunkEntry type payload = none) :
    Yields (.trunkFrameReceived (trunkChars type payload)) s fun u =>
      u.trunk = { s.trunk with framing := countUp s.trunk.framing } ∧ (u.event .linkError).pending = true ∧ (u.event .linkError).detail = 514 := by
  refine discarded_received (n := 2) ?_ rfl rfl
  rw [receiveTrunk_trunkChars hrx hlen, h]
  rfl

theorem length_excessive (hrx : s.trunk.rx = .hunting) (hn : 512 < n) (hlt : n < 256 ^ 2) :
    Yields (.trunkFrameReceived (0xA5#8 :: type :: be 2 n)) s fun u =>
      u.trunk = { s.trunk with framing := countUp s.trunk.framing } ∧ (u.event .linkError).pending = true ∧ (u.event .linkError).detail = 514 := by
  refine discarded_received (n := 2) ?_ rfl rfl
  obtain ⟨hi, lo, hbe⟩ : ∃ hi lo, be 2 n = [hi, lo] := ⟨_, _, rfl⟩
  have hunbe : unbe [hi, lo] = n := by rw [← hbe, unbe_be hlt]
  have hstart : trunkChar s 0xA5#8 = collecting [] s := by
    unfold trunkChar
    rw [hrx]
    exact if_pos rfl
  have hhunt : huntTrunk (collecting [type, hi] s) = s := by
    show s.setTrunk { s.trunk with rx := .hunting } = s
    rw [← hrx]
    rfl
  rw [hbe]
  show trunkChar (trunkChar (trunkChar (trunkChar s 0xA5#8) type) hi) lo = _
  rw [hstart]
  show collectTrunk [type, hi, lo] (collecting [type, hi] s) = _
  unfold collectTrunk
  dsimp only
  rw [hunbe, if_pos (show topPayload < n from hn), hhunt]
  rfl

/-! ## The transmitter and the HOLD input (R189, R191) -/

/-- A command at the transmitter, which leaves buffer and waiting SEND. -/
theorem settle_sending (hleaves : unchangedBut [.trunk, .uplink, .attention] s u) (hwaits : u.trunk.sendWaits = s.trunk.sendWaits)
    (hbuffer : u.trunk.buffer = s.trunk.buffer) : settle s u = settleEvents u := by
  have hwaiting : waitingPlaceable u = waitingPlaceable s :=
    waitingPlaceable_congr hwaits hbuffer (by rw [hleaves .floor (by decide)]) (by rw [hleaves .room (by decide)]) (hleaves .nodes (by decide))
  exact settle_trunk hleaves (hwaiting := fun h => by rwa [hwaiting] at h)

/-- The HOLD input with a value. -/
def withHold (b : Bool) (s : State) : State := s.setTrunk { s.trunk with holdIn := b }

theorem withHold_same (h : s.trunk.holdIn = b) : withHold b s = s := by
  unfold withHold
  rw [← h]
  rfl

theorem withHold_leaves (b : Bool) (s : State) : unchangedBut [.trunk, .uplink, .attention] s (withHold b s) :=
  unchangedBut_mono (setTrunk_leaves _ s) (by decide)

theorem settle_withHold (b : Bool) (s : State) : settle s (withHold b s) = settleEvents (withHold b s) := settle_sending (withHold_leaves b s) rfl rfl

theorem holdInput_eq (b : Bool) (s : State) :
    holdInput b s = if s.trunk.holdIn && trunkReady (withHold b s) then startTrunk (withHold b s) else withHold b s := rfl

theorem trunkReady_iff : trunkReady s = true ↔
    s.trunk.sending = none ∧ s.trunk.holdIn = false ∧ (s.trunk.reply.isSome || s.attention || !s.uplink.filled.isEmpty) = true := by
  unfold trunkReady
  cases s.trunk.sending <;> simp

theorem hold_taken (h : s.trunk.holdIn = false ∨ s.trunk.sending.isSome = true ∨ b = true) : Yields (.trunkHoldInput b) s fun u =>
    u.trunk = { s.trunk with holdIn := b } := by
  have hquiet : ¬(s.trunk.holdIn && trunkReady (withHold b s)) = true := fun hboth => by
    obtain ⟨hheld, hready⟩ := Bool.and_eq_true_iff.mp hboth
    obtain ⟨hsending, hfree, -⟩ := trunkReady_iff.mp hready
    rcases h with h | h | rfl
    · rw [h] at hheld
      cases hheld
    · rw [show s.trunk.sending = none from hsending] at h
      cases h
    · cases hfree
  refine ⟨settle s (holdInput b s), rfl, ?_⟩
  rw [holdInput_eq, if_neg hquiet, settle_withHold]
  exact settleEvents_trunk _

/-- The two commands at which the free transmitter starts a frame that waits. -/
theorem start_yields {P : State → Prop} (hsending : s.trunk.sending = none) (hheld : s.trunk.holdIn = held)
    (hc : c = .trunkFrameStart ∧ held = false ∨ c = .trunkHoldInput false ∧ held = true)
    (hwaits : (s.trunk.reply.isSome || s.attention || !s.uplink.filled.isEmpty) = true)
    (hP : P (settleEvents (startTrunk (withHold false s)))) : Yields c s P := by
  have hready : trunkReady (withHold false s) = true := trunkReady_iff.mpr ⟨hsending, rfl, hwaits⟩
  have hsettle : settle s (startTrunk (withHold false s)) = settleEvents (startTrunk (withHold false s)) := by
    obtain ⟨hw, hb, -⟩ := startTrunk_trunk (withHold false s)
    exact settle_sending (unchangedBut_mono (unchangedBut_trans (withHold_leaves false s) (startTrunk_leaves _)) (by decide)) hw hb
  rcases hc with ⟨rfl, rfl⟩ | ⟨rfl, rfl⟩
  · rw [withHold_same hheld] at hready hsettle hP
    exact takingIf_yields rfl hready (by rwa [hsettle])
  · refine ⟨settle s (holdInput false s), rfl, ?_⟩
    rwa [holdInput_eq, if_pos (by rw [hheld, hready]; rfl), hsettle]

/-- The two commands where no frame waits. -/
theorem start_idle (hheld : s.trunk.holdIn = held) (hc : c = .trunkFrameStart ∧ held = false ∨ c = .trunkHoldInput false ∧ held = true)
    (hnone : (s.trunk.reply.isSome || s.attention || !s.uplink.filled.isEmpty) = false) : Yields c s fun u =>
      u.trunk = { s.trunk with holdIn := false } := by
  have hready : ¬trunkReady (withHold false s) = true := fun h => by
    obtain ⟨-, -, hwaits⟩ := trunkReady_iff.mp h
    rw [show (s.trunk.reply.isSome || s.attention || !s.uplink.filled.isEmpty) = true from hwaits] at hnone
    cases hnone
  rcases hc with ⟨rfl, rfl⟩ | ⟨rfl, rfl⟩
  · rw [withHold_same hheld] at hready
    refine ⟨s, ?_, ?_⟩
    · show takingIf (trunkReady s) startTrunk s = _
      rw [Bool.eq_false_iff.mpr hready]
      rfl
    · rw [← hheld]
  · refine ⟨settle s (holdInput false s), rfl, ?_⟩
    rw [holdInput_eq, if_neg (by rwa [hheld, Bool.true_and]), settle_withHold]
    exact settleEvents_trunk _

theorem startTrunk_reply {r : Reply} (h : s.trunk.reply = some r) : startTrunk s =
    s.setTrunk { s.trunk with reply := none, sending := some { source := .reply, chars := trunkChars typeReply r.payload } } := by
  unfold startTrunk
  rw [h]

theorem startTrunk_attention (h : s.trunk.reply = none) (ha : s.attention = true) : startTrunk s =
    (s.setTrunk { s.trunk with sending := some { source := .attention, chars := trunkChars typeAttention (attentionPayload s) } }).setAttention false := by
  unfold startTrunk
  rw [h]
  exact if_pos ha

theorem startTrunk_relay {x : Envelope} {rest : List Envelope} (h : s.trunk.reply = none) (ha : s.attention = false) (hx : s.uplink.filled = x :: rest) :
    startTrunk s = s.setTrunk { s.trunk with sending := some { source := .relay, chars := trunkChars typeRelay x.payload } } := by
  unfold startTrunk
  rw [h, hx]
  exact if_neg (by rw [ha]; decide)

theorem starts (hsending : s.trunk.sending = none) (hheld : s.trunk.holdIn = held)
    (hc : c = .trunkFrameStart ∧ held = false ∨ c = .trunkHoldInput false ∧ held = true) :
    (∀ r, s.trunk.reply = some r → Yields c s fun u =>
      u.trunk = { s.trunk with
        reply := none, holdIn := false, sending := some { source := .reply, chars := trunkChars typeReply r.payload } }) ∧
    (s.trunk.reply = none → s.attention = true → Yields c s fun u =>
      u.trunk = { s.trunk with
        holdIn := false
        sending := some { source := .attention, chars := trunkChars typeAttention [BitVec.ofNat 8 s.vector, summariesByte s] } } ∧
      (Settled s → u.attention = false)) ∧
    (∀ e rest, s.trunk.reply = none → s.attention = false → s.uplink.filled = e :: rest → Yields c s fun u =>
      u.trunk = { s.trunk with
        holdIn := false, sending := some { source := .relay, chars := trunkChars typeRelay e.payload } } ∧
      u.uplink = s.uplink) ∧
    (s.trunk.reply = none → s.attention = false → s.uplink.filled = [] → Yields c s fun u =>
      u.trunk = { s.trunk with holdIn := false }) := by
  refine ⟨fun r hr => ?_, fun hnone ha => ?_, fun x rest hnone ha hx => ?_, fun hnone ha hx => start_idle hheld hc (by rw [hnone, ha, hx]; rfl)⟩
  · refine start_yields hsending hheld hc (by rw [hr]; rfl) ?_
    rw [settleEvents_trunk, startTrunk_reply (s := withHold false s) hr]
    rfl
  · refine start_yields hsending hheld hc (by rw [ha]; simp) ?_
    rw [startTrunk_attention (s := withHold false s) hnone ha]
    refine ⟨settleEvents_trunk _, fun hs => ?_⟩
    refine (congrArg State.attention (settleEvents_same ?_)).trans rfl
    exact hs
  · refine start_yields hsending hheld hc (by rw [hx]; simp) ?_
    rw [startTrunk_relay (s := withHold false s) hnone ha hx]
    exact ⟨settleEvents_trunk _, settleEvents_leaves _ .uplink (by decide)⟩

theorem sent_ends {x : Sending} (h : s.trunk.sending = some x) : Yields .trunkFrameSent s fun u =>
    u.trunk = { s.trunk with sending := none } ∧ u.uplink.reserved = s.uplink.reserved ∧
    u.uplink.filled = if x.source = .relay then s.uplink.filled.tail else s.uplink.filled := by
  have hexec : exec .trunkFrameSent s = .next (settle s (endTrunk x s)) := by
    show execTrunkFrameSent s = _
    unfold execTrunkFrameSent
    rw [h]
    rfl
  have hsettle : settle s (endTrunk x s) = settleEvents (endTrunk x s) :=
    settle_sending (unchangedBut_mono (endTrunk_leaves x s) (by decide)) (by rw [endTrunk_trunk]) (by rw [endTrunk_trunk])
  refine ⟨_, hexec, ?_⟩
  rw [hsettle]
  have hend := settleEvents_leaves (endTrunk x s)
  have huplink : (settleEvents (endTrunk x s)).uplink = (endTrunk x s).uplink := hend .uplink (by decide)
  have hplace : (endTrunk x s).uplink.reserved = s.uplink.reserved ∧
      (endTrunk x s).uplink.filled = if x.source = .relay then s.uplink.filled.tail else s.uplink.filled := by
    unfold endTrunk
    dsimp only
    split <;> exact ⟨rfl, rfl⟩
  rw [← huplink] at hplace
  exact ⟨(settleEvents_trunk _).trans (endTrunk_trunk x s), hplace⟩

end

end Sys2Proof.Machine.Effects

/-! PROOF. SEND and the unknown request, and the trunk's commands as a whole (R178, R188 to R191). -/

namespace Sys2Proof.Machine.Effects

open Sys2Proof Sys2Proof.Machine Sys2Proof.Machine.Takings Sys2Proof.Machine.TallyCount

section
variable {s t u : State} {tag : Word16} {code port pb kind dest : Byte} {fields body : List Byte} {rest : List TrunkEntry} {c : Instr} {r : Code} {p q : Port}

/-! ## An answer that changes nothing else -/

theorem answered_refuses (hwaits : s.trunk.sendWaits = false) (hc : exec c s = .next (settle s (answerRequest tag code r none [] (popRequest s)))) :
    RefusedRequest c s tag code r none := by
  have hleaves := popAnswered_leaves tag code r s
  obtain ⟨d, n, -, ha⟩ := answerRequest_spec tag code r none [] (popRequest s)
  have htrunk : (answerRequest tag code r none [] (popRequest s)).trunk = { s.trunk with
      buffer := s.trunk.buffer.tail, reply := some { tag := tag, code := code, result := r, detail := d, data := [] } } := by
    rw [ha]
    show ({ popRequest s |>.trunk with reply := _ } : Trunk) = _
    unfold popRequest
    rw [State.setTrunk_trunk, ← hwaits]
  generalize answerRequest tag code r none [] (popRequest s) = a at hc hleaves htrunk
  have hsettle : settle s a = settleEvents a := by
    refine settle_quiet (fun h => by rwa [commandPlaceable_of_leaves hleaves] at h) (fun hw => ?_) fun hd => ⟨by rwa [hleaves .day (by decide)] at hd, ?_⟩
    · unfold waitingPlaceable at hw
      rw [htrunk] at hw
      simp [hwaits] at hw
    · exact (closeInputs_congr (hleaves .drawers (by decide)) (hleaves .sessions (by decide)) (hleaves .call (by decide)) (hleaves .bags (by decide))
        (hleaves .safe (by decide))).symm
  rw [hsettle] at hc
  exact ⟨_, hc, unchangedBut_mono (unchangedBut_trans hleaves (settleEvents_leaves a)) (by decide),
    eventsBut_comp (eventsBut_of_leaves _ hleaves (by decide)) (settleEvents_events a), d, nofun, (settleEvents_trunk a).trans htrunk⟩

theorem unknown_refused (h : RequestAtHead s tag code fields) (hcode : code ∉ knownRequests) : RefusedRequest .requestUnknown s tag code .unknownKind none := by
  obtain ⟨hreply, hwaits, hhead⟩ := h
  obtain ⟨rest, hbuffer⟩ := List.head?_eq_some_iff.mp hhead
  refine answered_refuses hwaits ?_
  show takeUnknown s = _
  unfold takeUnknown
  rw [hreply, hwaits, hbuffer]
  exact if_neg fun h => hcode (List.contains_iff_mem.mp h)

/-! ## SEND (R178) -/

theorem send_exec (hreply : s.trunk.reply = none) (hwaits : s.trunk.sendWaits = false) (hbuffer : s.trunk.buffer = .send tag port pb kind dest body :: rest) :
    exec .send s = .next (settle s (sendRule tag port pb kind dest body s)) := by
  show takeSend s = _
  unfold takeSend
  rw [hreply, hwaits, hbuffer]
  rfl

theorem sendMalformed_iff : sendMalformed port pb body = true ↔
    port ≠ 0 ∧ port ≠ 1 ∨ 40 < body.length ∨ markMode pb = .reply ∨ zeroBitsClear pb = false := by
  have hport : (portOfByte port).isNone = true ↔ port ≠ 0 ∧ port ≠ 1 := by
    unfold portOfByte
    by_cases h0 : port = 0
    · rw [if_pos h0]
      exact ⟨nofun, fun h => absurd h0 h.1⟩
    · rw [if_neg h0]
      by_cases h1 : port = 1
      · rw [if_pos h1]
        exact ⟨nofun, fun h => absurd h1 h.2⟩
      · rw [if_neg h1]
        exact ⟨fun _ => ⟨h0, h1⟩, fun _ => rfl⟩
  unfold sendMalformed
  simp only [Bool.or_eq_true, hport, decide_eq_true_eq, beq_iff_eq, Bool.not_eq_true', or_assoc]

theorem sendDestination_iff : sendDestination s dest = true ↔ dest = 255 ∨ registeredOn s .floor dest = true ∨ registeredOn s .room dest = true := by
  have hregistered : registered s dest = true ↔ registeredOn s .floor dest = true ∨ registeredOn s .room dest = true := by
    unfold registered registeredOn lineOf
    cases s.node dest with
    | none => simp
    | some n => cases hp : n.port <;> simp [hp]
  unfold sendDestination
  rw [Bool.or_eq_true, hregistered, beq_iff_eq, or_comm]
  rfl

theorem registeredOn_broadcast (s : State) (p : Port) : registeredOn s p 255 = false := rfl

theorem sendQueue_of (h : dest ≠ 255 ∧ registeredOn s q dest = true ∨ dest = 255 ∧ q = if port = 0 then .floor else .room) : sendQueue s port dest = q := by
  unfold sendQueue
  rcases h with ⟨hdest, hq⟩ | ⟨rfl, rfl⟩
  · have hother : (dest == 0xFF#8) = false := by simpa using hdest
    rw [hother, Bool.false_and, Bool.or_false]
    cases q with
    | floor => exact if_pos hq
    | room =>
      refine if_neg fun hfloor => ?_
      unfold registeredOn at hq hfloor
      cases hn : s.node dest with
      | none => rw [hn] at hq; cases hq
      | some n =>
        rw [hn] at hq hfloor
        have hroom : n.port = .room := of_decide_eq_true (Bool.and_eq_true_iff.mp hq).2
        have hline : n.port = .floor := of_decide_eq_true (Bool.and_eq_true_iff.mp hfloor).2
        rw [hroom] at hline
        cases hline
  · rw [registeredOn_broadcast]
    by_cases hport : port = 0
    · rw [if_pos hport, hport]
      rfl
    · rw [if_neg hport]
      exact if_neg (by simpa using hport)

theorem send_refused (hreply : s.trunk.reply = none) (hwaits : s.trunk.sendWaits = false) (hbuffer : s.trunk.buffer = .send tag port pb kind dest body :: rest) :
    (sendMalformed port pb body = true → RefusedRequest .send s tag 0 .malformed none) ∧
    (¬sendMalformed port pb body = true → dest ≠ 255 → registeredOn s .floor dest = false → registeredOn s .room dest = false →
      RefusedRequest .send s tag 0 .unknownNode none) := by
  have hexec := send_exec hreply hwaits hbuffer
  refine ⟨fun hbad => answered_refuses hwaits (hexec.trans ?_), fun hgood hdest hfloor hroom => answered_refuses hwaits (hexec.trans ?_)⟩
  · rw [sendRule, if_pos hbad]
  · have hnowhere : ¬sendDestination s dest = true := fun h => by
      rcases sendDestination_iff.mp h with h | h | h
      · exact hdest h
      · rw [hfloor] at h
        cases h
      · rw [hroom] at h
        cases h
    rw [sendRule, if_neg hgood, if_pos (by simpa using hnowhere)]

/-- A placed SEND: its frame at its queue's tail, its answer on the trunk. -/
structure SentOn (s : State) (tag : Word16) (q : Port) (f : LineFrame) (u : State) : Prop where
  down : (u.port q).down = (s.port q).down ++ [f]
  replied : Replied s u tag 0 .accepted []
  waits : u.trunk.sendWaits = false

theorem placeSend_sent (s : State) (tag : Word16) (q : Port) (f : LineFrame) : SentOn s tag q f (placeSend tag q f s) := by
  obtain ⟨hdown, hbuffer, hwaits, d, hreply⟩ := placeSend_spec tag q f s
  exact ⟨hdown, ⟨hbuffer, d, hreply⟩, hwaits⟩

theorem SentOn.congr {f : LineFrame} (h : SentOn s tag q f t) (hport : (u.port q).down = (t.port q).down) (htrunk : u.trunk = t.trunk) : SentOn s tag q f u := by
  obtain ⟨hdown, ⟨hbuffer, d, hreply⟩, hwaits⟩ := h
  exact ⟨hport.trans hdown, ⟨by rw [htrunk, hbuffer], d, by rw [htrunk, hreply]⟩, by rw [htrunk, hwaits]⟩

theorem settle_send (hbuffer : s.trunk.buffer = .send tag port pb kind dest body :: rest) :
    settle s (sendRule tag port pb kind dest body s) = settleEvents (sendRule tag port pb kind dest body s) := by
  have hleaves := sendRule_leaves tag port pb kind dest body s
  refine settle_quiet (fun h => by rwa [sendRule_placeable] at h) (fun hw => ?_) fun hd => ⟨by rwa [hleaves .day (by decide)] at hd, ?_⟩
  · rw [sendRule_waiting hbuffer] at hw
    cases hw
  · exact (closeInputs_congr (hleaves .drawers (by decide)) (hleaves .sessions (by decide)) (hleaves .call (by decide)) (hleaves .bags (by decide))
      (hleaves .safe (by decide))).symm

theorem send_taken (hreply : s.trunk.reply = none) (hwaits : s.trunk.sendWaits = false) (hbuffer : s.trunk.buffer = .send tag port pb kind dest body :: rest)
    (hgood : ¬sendMalformed port pb body = true) (hdest : dest ≠ 255 ∧ registeredOn s q dest = true ∨ dest = 255 ∧ q = if port = 0 then .floor else .room) :
    ((s.port q).down.length < downlinkPlaces q → Yields .send s (SentOn s tag q (sendFrame pb kind dest body))) ∧
    (downlinkPlaces q ≤ (s.port q).down.length → Yields .send s fun u =>
      u.trunk = { s.trunk with sendWaits := true } ∧ u.floor = s.floor ∧ holdOutput u = true) := by
  have hexec := send_exec hreply hwaits hbuffer
  rw [settle_send hbuffer] at hexec
  have hknown : sendDestination s dest = true := sendDestination_iff.mpr <| by
    rcases hdest with ⟨-, hq⟩ | ⟨hd, -⟩
    · cases q
      · exact .inr (.inl hq)
      · exact .inr (.inr hq)
    · exact .inl hd
  have hrule : sendRule tag port pb kind dest body s =
      if downlinkFree s q then placeSend tag q (sendFrame pb kind dest body) s else s.setTrunk { s.trunk with sendWaits := true } := by
    rw [sendRule, if_neg hgood, if_neg (by rw [hknown]; decide), sendQueue_of hdest]
  refine ⟨fun hfree => ⟨_, hexec, ?_⟩, fun hfull => ⟨_, hexec, ?_⟩⟩
  · rw [hrule, if_pos (show downlinkFree s q = true from decide_eq_true hfree)]
    exact (placeSend_sent s tag q _).congr (by rw [settleEvents_port]) (settleEvents_trunk _)
  · rw [hrule, if_neg (by unfold downlinkFree; simpa using hfull)]
    refine ⟨settleEvents_trunk _, settleEvents_leaves _ .floor (by decide), ?_⟩
    unfold holdOutput
    rw [settleEvents_trunk]
    simp

/-! ## The SEND that waits (R178) -/

theorem placeSafeCommand_down (p : Port) (s : State) : ((placeSafeCommand s).port p).down = (s.port p).down := by
  rcases placeSafeCommand_spec s with ⟨-, he⟩ | ⟨-, b, -, he⟩ <;> rw [he]
  cases p <;> rfl

theorem placeIfFreed_down (p : Port) (s t : State) : ((placeIfFreed s t).port p).down = (t.port p).down := by
  unfold placeIfFreed
  split
  · rfl
  · exact placeSafeCommand_down p t

theorem placeIfFreed_leaves (s t : State) : unchangedBut [.safe, .room] t (placeIfFreed s t) := by
  unfold placeIfFreed
  split
  · exact unchangedBut_refl _ t
  · exact placeSafeCommand_leaves t

/-- Work at a line port that frees a place for the SEND that waits. -/
theorem waiting_sent (h : LineQuiet p [.linkError] s u) (hwaits : s.trunk.sendWaits = true) (hbuffer : s.trunk.buffer = .send tag port pb kind dest body :: rest)
    (hqueue : sendQueue s port dest = p) (hfull : (s.port p).down.length = downlinkPlaces p) (hfree : (u.port p).down.length < downlinkPlaces p) :
    ((settle s u).port p).down = (u.port p).down ++ [sendFrame pb kind dest body] ∧ Replied s (settle s u) tag 0 .accepted [] ∧
      (settle s u).trunk.sendWaits = false := by
  have hsettle : settle s u = settleEvents (sendIfFreed s (placeIfFreed s u)) := by
    rw [settle, testReports_same (h.leaves .day (by decide)) (closeInputs_works h)]
  have hdown := placeIfFreed_down p s u
  have hleaves : unchangedBut [.floor, .room, .uplink, .safe, .events, .draws] s (placeIfFreed s u) :=
    unchangedBut_mono (unchangedBut_trans h.leaves (placeIfFreed_leaves s u)) (by decide)
  have htrunk : (placeIfFreed s u).trunk = s.trunk := hleaves .trunk (by decide)
  have hnodes : (placeIfFreed s u).nodes = s.nodes := hleaves .nodes (by decide)
  rw [hsettle]
  generalize placeIfFreed s u = w at hdown htrunk hnodes
  have hsame : sendQueue w port dest = p := by
    rw [← hqueue]
    unfold sendQueue registeredOn State.node
    rw [hnodes]
  have hbefore : waitingPlaceable s = false := by
    unfold waitingPlaceable
    rw [hwaits, hbuffer]
    dsimp only
    rw [hqueue]
    unfold downlinkFree
    rw [hfull]
    simp
  have hsent : sendIfFreed s w = placeSend tag p (sendFrame pb kind dest body) w := by
    unfold sendIfFreed
    rw [hbefore]
    unfold placeWaiting
    rw [htrunk, hwaits, hbuffer]
    dsimp only
    rw [hsame, if_pos (show downlinkFree w p = true from decide_eq_true (by rw [hdown]; exact hfree))]
    rfl
  rw [hsent]
  obtain ⟨hend, ⟨hb, d, hr⟩, hw⟩ := (placeSend_sent w tag p (sendFrame pb kind dest body)).congr (by rw [settleEvents_port]) (settleEvents_trunk _)
  exact ⟨by rw [hend, hdown], ⟨by rw [hb, htrunk], d, hr⟩, hw⟩

theorem send_after_delivery {x : Current} (hx : (s.port p).tx.current = some x) (hsource : x.source = .downlink) (hphase : (s.port p).tx.phase = .awaitMarks)
    (hdest : x.frame.dest ≠ 255) (hmark : x.frame.dest ∈ (s.port p).tx.marks) (hwaits : s.trunk.sendWaits = true)
    (hbuffer : s.trunk.buffer = .send tag port pb kind dest body :: rest) (hqueue : sendQueue s port dest = p)
    (hfull : (s.port p).down.length = downlinkPlaces p) : Yields (.windowClose p) s fun u =>
      (u.port p).down = (s.port p).down.tail ++ [sendFrame pb kind dest body] ∧ Replied s u tag 0 .accepted [] ∧ u.trunk.sendWaits = false := by
  obtain ⟨hends, -⟩ := deliver_ends (holds_self hx)
  have hdown : ((deliverCurrent p s).port p).down = (s.port p).down.tail := by
    rw [hends.down, hsource]
    rfl
  have hplaces : 0 < downlinkPlaces p := by cases p <;> decide
  refine ⟨settle s (deliverCurrent p s), ?_, ?_⟩
  · rw [close_exec hphase, ← closeWindow_delivers hx hdest hmark]
    rfl
  · rw [← hdown]
    refine waiting_sent hends.works hwaits hbuffer hqueue hfull ?_
    rw [hdown, List.length_tail, hfull]
    omega

end

/-- Settles O50: the receiver's frames, the transmitter's starts, and SEND by its rule. -/
theorem trunkCommands : Obligations.TrunkCommands := by
  unfold Obligations.TrunkCommands
  refine fun s => ⟨fun hs hrx hplace tag code fields => request_buffered hs hrx hplace, fun _ hrx hfull tag code fields => request_overruns hrx hfull,
    fun hrx type payload check hlen hcheck => ⟨check_fails hrx hlen hcheck, fun h => frame_unread hrx hlen (trunkEntry_none h)⟩,
    fun hrx type n => length_excessive hrx, fun b => hold_taken, fun c held hsending hheld hc => starts hsending hheld hc, fun x => sent_ends,
    fun tag code fields h hcode => ?_, fun tag port pb kind dest body rest hreply hwaits hbuffer => ?_,
    fun tag port pb kind dest body rest q hreply hwaits hbuffer hport hlen hmode hzero hdest => ?_,
    fun p c tag port pb kind dest body rest hc hsource hphase hdest hmark hwaits hreply hbuffer hqueue hfull =>
      send_after_delivery hc hsource hphase hdest hmark hwaits hbuffer hqueue hfull⟩
  · obtain ⟨u, hu, hleaves, -, d, -, htrunk⟩ := unknown_refused h hcode
    exact ⟨u, hu, ⟨by rw [htrunk], d, by rw [htrunk]⟩, hleaves⟩
  · obtain ⟨hbad, hunknown⟩ := send_refused hreply hwaits hbuffer
    exact ⟨fun h => hbad (sendMalformed_iff.mpr h), fun h => hunknown fun hm => h (sendMalformed_iff.mp hm)⟩
  · have hgood : ¬sendMalformed port pb body = true := fun h => by
      rcases sendMalformed_iff.mp h with ⟨h0, h1⟩ | hlong | hreplyMode | hbits
      · exact hport.elim h0 h1
      · omega
      · exact hmode hreplyMode
      · rw [hzero] at hbits
        cases hbits
    obtain ⟨hplaced, hwaiting⟩ := send_taken hreply hwaits hbuffer hgood hdest
    refine ⟨fun hfree => ?_, hwaiting⟩
    obtain ⟨u, hu, hsent⟩ := hplaced hfree
    exact ⟨u, hu, hsent.down, hsent.replied⟩

end Sys2Proof.Machine.Effects

/-! PROOF. RESTART: the sessions, the call and the bags of what it aborts (R31, R35, R109, R110, R134, R135, R195). -/

namespace Sys2Proof.Machine.Effects

open Sys2Proof Sys2Proof.Machine Sys2Proof.Machine.Takings Sys2Proof.Machine.TallyCount

section
variable {s t u v m : State} {n now : Nat} {i : Fin 16} {x : Fin 4} {b b1 b' : Bag} {r : CallResult} {seals received : List Nat}

/-! ## The count sessions (R109, R110) -/

/-- A session that RESTART aborts where it is at work. -/
def abortedSession (v : Session) : Session := if v.state = .idle then v else Session.reset

theorem abortedSession_idem (v : Session) : abortedSession (abortedSession v) = abortedSession v := by
  by_cases h : v.state = .idle
  · have hsame : abortedSession v = v := if_pos h
    rw [hsame, hsame]
  · have hreset : abortedSession v = Session.reset := if_neg h
    rw [hreset]
    rfl

theorem abortStep_session (s : State) (x y : Fin 4) :
    (abortStep s x).sessions[y] = if x = y then abortedSession s.sessions[y] else s.sessions[y] := by
  by_cases hxy : x = y
  · subst hxy
    rw [if_pos rfl]
    unfold abortStep abortedSession
    by_cases hidle : s.sessions[x].state = .idle
    · rw [if_pos hidle, if_pos hidle]
    · rw [if_neg hidle, if_neg hidle, abort_sessions, if_pos rfl]
  · rw [abortStep_other s x y hxy, if_neg hxy]

theorem aborts_session (l : List (Fin 4)) (s : State) (y : Fin 4) :
    (l.foldl abortStep s).sessions[y] = if y ∈ l then abortedSession s.sessions[y] else s.sessions[y] := by
  induction l generalizing s with
  | nil => exact (if_neg List.not_mem_nil).symm
  | cons x l ih =>
    rw [List.foldl_cons, ih, abortStep_session]
    by_cases hxy : x = y
    · rw [if_pos hxy, abortedSession_idem, ite_self, if_pos (by rw [hxy]; exact List.mem_cons_self)]
    · rw [if_neg hxy]
      simp only [List.mem_cons, Ne.symm hxy, false_or]

theorem abortSessions_session (s : State) (y : Fin 4) : (abortSessions s).sessions[y] = abortedSession s.sessions[y] := by
  rw [abortSessions_fold, aborts_session, if_pos (List.mem_finRange y)]

/-- A session at work counts the record. -/
def CountedBy (s : State) (n : Nat) (b : Bag) (x : Fin 4) : Prop := s.sessions[x].state ≠ .idle ∧ s.sessions[x].bag = n ∧ b.session = some x

/-- A record behind the abort of the count sessions. -/
def CountAborted (s : State) (n : Nat) (b b1 : Bag) : Prop :=
  (b.state = .counting ∨ b.state = .countSuspended) ∧ (∃ x, CountedBy s n b x) ∧
      b1 = { b with state := .outForCount, session := none, entered := s.seconds } ∨
    b1 = b ∧ ((b.state = .counting ∨ b.state = .countSuspended) → ∀ x, ¬CountedBy s n b x)

theorem abortSessions_bag (h : findBag s n = some b) : ∃ b1, findBag (abortSessions s) n = some b1 ∧ CountAborted s n b b1 := by
  by_cases hstate : b.state = .counting ∨ b.state = .countSuspended
  · by_cases hcounted : ∃ x, CountedBy s n b x
    · obtain ⟨x, hactive, hbag, hsession⟩ := hcounted
      exact ⟨_, aborts_move _ (List.nodup_finRange 4) s n b h x (List.mem_finRange x) hactive hbag hsession hstate,
        .inl ⟨hstate, ⟨x, hactive, hbag, hsession⟩, rfl⟩⟩
    · exact ⟨b, aborts_keep _ (List.nodup_finRange 4) s n b h fun x _ ha hb hs => hcounted ⟨x, ha, hb, hs⟩, .inr ⟨rfl, fun _ x hx => hcounted ⟨x, hx⟩⟩⟩
  · exact ⟨b, findBag_abortSessions h (not_or.mp hstate), .inr ⟨rfl, fun h => absurd h hstate⟩⟩

/-! ## A record behind the abort of a call (R31, R34, R35) -/

/-- One record, when a call with these lists is aborted. -/
structure CallAborted (seals received : List Nat) (now : Nat) (b b' : Bag) : Prop where
  unsigned : b'.unsigned = (b.unsigned || received.contains b.sealNo)
  loaded : b.sealNo ∈ seals → b.state = .loaded → b' = { b with state := .hatchHeld, entered := now, unsigned := b'.unsigned }
  handling : b.sealNo ∈ seals → b.state = .inHandling → b' = { b with state := .madeUp, entered := now, pin := none, unsigned := b'.unsigned }
  other : (b.state = .loaded ∨ b.state = .inHandling → b.sealNo ∉ seals) →
    b' = { b with pin := b'.pin, unsigned := b'.unsigned } ∧ (b.state ≠ .inSafe → b.state ≠ .handedOver → b'.pin = b.pin)

theorem flaggedRow_eq (received : List Nat) (b : Bag) : flaggedRow received b = { b with unsigned := b.unsigned || received.contains b.sealNo } := by
  unfold flaggedRow
  split
  · next h => rw [h, Bool.or_true]
  · next h => rw [Bool.eq_false_iff.mpr h, Bool.or_false]

theorem abortedRow_other (h : b.state = .loaded ∨ b.state = .inHandling → b.sealNo ∉ seals) : abortedRow seals now b = b := by
  unfold abortedRow
  rw [if_neg, if_neg]
  · simp only [Bool.and_eq_true, List.contains_iff_mem, decide_eq_true_eq]
    exact fun hb => h (.inr hb.2) hb.1
  · simp only [Bool.and_eq_true, List.contains_iff_mem, decide_eq_true_eq]
    exact fun hb => h (.inl hb.2) hb.1

theorem callAborted_of (h : Unpinned (flaggedRow received (abortedRow seals now b)) b') : CallAborted seals received now b b' := by
  rw [flaggedRow_eq] at h
  by_cases hmem : b.sealNo ∈ seals
  · by_cases hloaded : b.state = .loaded
    · have hrow : abortedRow seals now b = b.moved .hatchHeld now := if_pos (by simp [hmem, hloaded])
      rw [hrow] at h
      obtain rfl : b' = { b.moved .hatchHeld now with unsigned := b.unsigned || received.contains b.sealNo } :=
        h.resolve_right fun ⟨hs, _⟩ => hs.elim nofun nofun
      exact ⟨rfl, fun _ _ => rfl, fun _ hs => absurd (hloaded.symm.trans hs) nofun, fun ho => absurd hmem (ho (.inl hloaded))⟩
    · by_cases hhandling : b.state = .inHandling
      · have hrow : abortedRow seals now b = { b.moved .madeUp now with pin := none } :=
          (if_neg (by simp [hhandling])).trans (if_pos (by simp [hmem, hhandling]))
        rw [hrow] at h
        obtain rfl : b' = { b.moved .madeUp now with pin := none, unsigned := b.unsigned || received.contains b.sealNo } :=
          h.resolve_right fun ⟨hs, _⟩ => hs.elim nofun nofun
        exact ⟨rfl, fun _ hs => absurd hs hloaded, fun _ _ => rfl, fun ho => absurd hmem (ho (.inr hhandling))⟩
      · rw [abortedRow_other fun hs => absurd hs (not_or.mpr ⟨hloaded, hhandling⟩)] at h
        refine ⟨?_, fun _ hs => absurd hs hloaded, fun _ hs => absurd hs hhandling, fun _ => ?_⟩
        · rcases h with rfl | ⟨-, rfl⟩ <;> rfl
        · rcases h with rfl | ⟨hs, rfl⟩
          · exact ⟨rfl, fun _ _ => rfl⟩
          · exact ⟨rfl, fun h1 h2 => absurd hs (not_or.mpr ⟨h1, h2⟩)⟩
  · rw [abortedRow_other fun _ => hmem] at h
    refine ⟨?_, fun hs => absurd hs hmem, fun hs => absurd hs hmem, fun _ => ?_⟩
    · rcases h with rfl | ⟨-, rfl⟩ <;> rfl
    · rcases h with rfl | ⟨hs, rfl⟩
      · exact ⟨rfl, fun _ _ => rfl⟩
      · exact ⟨rfl, fun h1 h2 => absurd hs (not_or.mpr ⟨h1, h2⟩)⟩

/-- The lists of the call that is aborted; none without a call. -/
def calledOut (s : State) : List Nat := (s.activeSlot.map fun i => s.ring[i].outbound).getD []

def calledIn (s : State) : List Nat := (s.activeSlot.map fun i => s.ring[i].received).getD []

theorem abortHandover_bag (h : findBag s n = some b) : ∃ b', findBag (abortHandover r s) n = some b' ∧
    CallAborted (calledOut s) (calledIn s) s.seconds b b' := by
  unfold calledOut calledIn
  rcases abortHandover_cases r s with ⟨he, hslot⟩ | ⟨i, hslot, he⟩ <;> rw [he, hslot]
  · have hnone : ∀ k : Nat, k ∉ ([] : List Nat) := fun _ => List.not_mem_nil
    refine ⟨b, h, ?_, fun h => absurd h (hnone _), fun h => absurd h (hnone _), fun _ => ⟨rfl, fun _ _ => rfl⟩⟩
    simp
  · obtain ⟨b', hb', hrow⟩ := findBag_abortCall (i := i) (r := r) h
    exact ⟨b', hb', callAborted_of hrow⟩

/-! ## A record behind both (R195) -/

/-- What RESTART makes of one record, before a close that completes. -/
structure BagRestarted (m : State) (n : Nat) (b b' : Bag) : Prop where
  unsigned : b'.unsigned = (b.unsigned || (calledIn m).contains n)
  loaded : b.state = .loaded → n ∈ calledOut m → b' = { b with state := .hatchHeld, entered := m.seconds, unsigned := b'.unsigned }
  handling : b.state = .inHandling → n ∈ calledOut m → b' = { b with state := .madeUp, entered := m.seconds, pin := none, unsigned := b'.unsigned }
  counted : ∀ x, CountedBy m n b x → b.state = .counting ∨ b.state = .countSuspended →
    b' = { b with state := .outForCount, session := none, entered := m.seconds, unsigned := b'.unsigned }
  other : (b.state = .loaded ∨ b.state = .inHandling → n ∉ calledOut m) → (∀ x, ¬CountedBy m n b x) →
    b' = { b with pin := b'.pin, unsigned := b'.unsigned } ∧ (b.state ≠ .inSafe → b.state ≠ .handedOver → b'.pin = b.pin)
  terminal : b.state.terminal = false → b'.state.terminal = false

theorem bagRestarted_of (hb : b.sealNo = n) (h1 : CountAborted m n b b1) (h : CallAborted (calledOut m) (calledIn m) m.seconds b1 b') :
    BagRestarted m n b b' := by
  subst hb
  rcases h1 with ⟨hstate, ⟨x, hx⟩, rfl⟩ | ⟨rfl, hnone⟩
  · obtain ⟨hunsigned, -, -, hother⟩ := h
    obtain ⟨hrow, hpin⟩ := hother fun hs => hs.elim nofun nofun
    rw [hpin nofun nofun] at hrow
    have hnot (st : BagState) (h1 : st ≠ .counting) (h2 : st ≠ .countSuspended) : b.state ≠ st := fun he => by
      rw [he] at hstate
      exact hstate.elim h1 h2
    exact ⟨hunsigned, fun hs => absurd hs (hnot _ nofun nofun), fun hs => absurd hs (hnot _ nofun nofun), fun _ _ _ => hrow, fun _ hno => absurd hx (hno x),
      fun _ => by rw [hrow]; rfl⟩
  · obtain ⟨hunsigned, hloaded, hhandling, hother⟩ := h
    refine ⟨hunsigned, fun hs hmem => hloaded hmem hs, fun hs hmem => hhandling hmem hs, fun x hx hs => absurd hx (hnone hs x), fun hs _ => hother hs, fun ht => ?_⟩
    by_cases hmem : b1.sealNo ∈ calledOut m
    · by_cases hl : b1.state = .loaded
      · rw [hloaded hmem hl]
        rfl
      · by_cases hh : b1.state = .inHandling
        · rw [hhandling hmem hh]
          rfl
        · rw [(hother fun hs => absurd hs (not_or.mpr ⟨hl, hh⟩)).1]
          exact ht
    · rw [(hother fun _ => hmem).1]
      exact ht

end

end Sys2Proof.Machine.Effects

/-! PROOF. RESTART: its work behind the marked frames as a whole (R96, R166, R195). -/

namespace Sys2Proof.Machine.Effects

open Sys2Proof Sys2Proof.Machine Sys2Proof.Machine.Takings Sys2Proof.Machine.TallyCount

section
variable {s t u v m : State} {n : Nat} {i : Fin 16} {x : Descriptor} {b : Bag} {r : CallResult} {p : Port}

/-! ## The blocks one by one -/

/-- A port behind RESTART (R166). -/
def restartedPort (q : LinePort) : LinePort :=
  { rx := q.rx.restarted, tx := Transmitter.reset, lineIdle := q.lineIdle, out := { reserved := 0, filled := [] }, down := [], errors := q.errors }

/-- Ports and count sessions, the first of RESTART's work. -/
def portsRestarted (m : State) : State := abortSessions (restartPort .room (restartPort .floor m))

theorem portsRestarted_leaves (m : State) : unchangedBut [.floor, .room, .sessions, .bags] m (portsRestarted m) :=
  unchangedBut_trans (unchangedBut_trans (setPort_leaves .floor _ m) (setPort_leaves .room _ _)) (abortSessions_leaves _)

theorem portsRestarted_port (m : State) (p : Port) : (portsRestarted m).port p = restartedPort (m.port p) := by
  have hleaves := abortSessions_leaves (restartPort .room (restartPort .floor m))
  have hsame : (portsRestarted m).port p = (restartPort .room (restartPort .floor m)).port p := by
    cases p
    · exact hleaves .floor (by decide)
    · exact hleaves .room (by decide)
  rw [hsame]
  cases p <;> rfl

theorem portsRestarted_session (m : State) (y : Fin 4) : (portsRestarted m).sessions[y] = abortedSession m.sessions[y] :=
  abortSessions_session (restartPort .room (restartPort .floor m)) y

theorem portsRestarted_bag (h : findBag m n = some b) : ∃ b1, findBag (portsRestarted m) n = some b1 ∧ CountAborted m n b b1 :=
  abortSessions_bag (s := restartPort .room (restartPort .floor m)) h

theorem restartLock_safe (s : State) : (restartLock s).safe = { s.safe with
    owed := true
    lock := if s.safe.lock = .delay ∨ s.safe.lock = .window then .locked else s.safe.lock
    timer := if s.safe.lock = .delay ∨ s.safe.lock = .window then none else s.safe.timer } := by
  unfold restartLock
  dsimp only
  split <;> rfl

theorem abortCall_event (i : Fin 16) (r : CallResult) (s : State) : (abortCall i r s).event .handoverAborted = raisedIf true .handoverAborted i.val s := by
  have hbefore : unchangedBut [.bags, .ring, .call] s (endSession (returnSlot i r (flagUnsigned s.ring[i].received (abortBags s.ring[i].outbound s)))) :=
    unchangedBut_mono (unchangedBut_trans (unchangedBut_trans (unchangedBut_trans (setBags_leaves _ s) (setBags_leaves _ _)) (returnSlot_leaves i r _))
      (endSession_leaves _)) (by decide)
  unfold abortCall
  dsimp only
  rw [missedCheck_event _ .handoverAborted]
  generalize endSession (returnSlot i r (flagUnsigned s.ring[i].received (abortBags s.ring[i].outbound s))) = w at hbefore
  have hsame : w.event .handoverAborted = s.event .handoverAborted := by
    unfold State.event
    rw [show w.events = s.events from hbefore .events (by decide)]
  refine (raise_event .handoverAborted .handoverAborted _ w).trans ((if_pos rfl).trans ?_)
  rw [hsame]
  rfl

theorem abortHandover_event (r : CallResult) (s : State) : (abortHandover r s).event .handoverAborted =
    raisedIf s.activeSlot.isSome .handoverAborted (s.activeSlot.elim 0 Fin.val) s := by
  rcases abortHandover_cases r s with ⟨he, hslot⟩ | ⟨i, hslot, he⟩ <;> rw [he, hslot]
  · rfl
  · exact abortCall_event i r s

/-- The end of a call read off a state that agrees on ring, session, clock and second. -/
theorem CheckedCall.alike (h : CheckedCall i x s v) (hring : s.ring = t.ring) (hcall : s.call = t.call) (hclock : s.day.clock = t.day.clock)
    (hseconds : s.seconds = t.seconds) (hevent : s.event .windowMissed = t.event .windowMissed) : CheckedCall i x t v := by
  have halike : MissedAlike (missedCheck (endedAt i x s)) (missedCheck (endedAt i x t)) := missedCheck_alike
    { ring := by
        show put s.ring i x = put t.ring i x
        rw [hring]
      call := by
        show ({ next := s.call.next + 1, refused := 0, phase := .idle, slot := none, timer := none } : Handover) = _
        rw [hcall]
        rfl
      clock := hclock
      seconds := hseconds
      event := hevent }
  exact ⟨h.slot, h.phase, h.ring.trans halike.ring, h.call.trans halike.call, h.event.trans halike.event⟩

/-! ## The work as a whole -/

/-- What RESTART makes of the state `m` behind the marked frames, before the end of its taking. -/
structure Restarted (m e : State) : Prop where
  leaves : unchangedBut [.bags, .safe, .sessions, .ring, .call, .floor, .room, .uplink, .events] m e
  raises : eventsBut [.handoverAborted, .windowMissed] m e
  port : ∀ p, e.port p = restartedPort (m.port p)
  uplink : e.uplink = { reserved := 0, filled := keptEnvelopes m }
  session : ∀ y : Fin 4, e.sessions[y] = abortedSession m.sessions[y]
  checked : ∀ i, m.activeSlot = some i → CheckedCall i (abortedSlot .aborted m i) m e
  idle : m.activeSlot = none → e.call = m.call ∧ e.ring = m.ring
  safe : e.safe = { m.safe with
    owed := true
    lock := if m.safe.lock = .delay ∨ m.safe.lock = .window then .locked else m.safe.lock
    timer := if m.safe.lock = .delay ∨ m.safe.lock = .window then none else m.safe.timer }
  event : e.event .handoverAborted = raisedIf m.activeSlot.isSome .handoverAborted (m.activeSlot.elim 0 Fin.val) m
  bag : ∀ n b, findBag m n = some b → ∃ b', findBag e n = some b' ∧ BagRestarted m n b b'

theorem restartRest_restarted (m : State) : Restarted m (restartRest m) := by
  have hfirst := portsRestarted_leaves m
  have hport := portsRestarted_port m
  have hsession := portsRestarted_session m
  have hcounts (n : Nat) (b : Bag) (hb : findBag m n = some b) := portsRestarted_bag hb
  have hrest : restartRest m = emptyUplink (restartLock (abortHandover .aborted (portsRestarted m))) := rfl
  rw [hrest]
  generalize portsRestarted m = c at hfirst hport hsession hcounts
  have hcall : c.call = m.call := hfirst .call (by decide)
  have hring : c.ring = m.ring := hfirst .ring (by decide)
  have hseconds : c.seconds = m.seconds := hfirst .seconds (by decide)
  have hslot : c.activeSlot = m.activeSlot := by
    unfold State.activeSlot
    rw [hcall]
  have hout : calledOut c = calledOut m := by
    unfold calledOut
    rw [hslot, hring]
  have hin : calledIn c = calledIn m := by
    unfold calledIn
    rw [hslot, hring]
  have hsame (e : Event) : c.event e = m.event e := by
    unfold State.event
    rw [show c.events = m.events from hfirst .events (by decide)]
  have habort := abortHandover_leaves .aborted c
  have hraises := abortHandover_events .aborted c
  have hevent := abortHandover_event .aborted c
  have hbag (n : Nat) (b : Bag) (hb : findBag c n = some b) := abortHandover_bag (r := .aborted) hb
  have hcases := abortHandover_cases .aborted c
  have hchecked (i : Fin 16) (hi : c.activeSlot = some i) : CheckedCall i (abortedSlot .aborted c i) c (abortHandover .aborted c) := by
    rcases hcases with ⟨-, hno⟩ | ⟨j, hj, he⟩
    · rw [hno] at hi
      cases hi
    · obtain rfl : j = i := Option.some.inj (hj.symm.trans hi)
      rw [he]
      exact (abortCall_aborted .aborted j c).checked
  have hidle (hno : c.activeSlot = none) : abortHandover .aborted c = c := by
    rcases hcases with ⟨he, -⟩ | ⟨j, hj, -⟩
    · exact he
    · rw [hno] at hj
      cases hj
  generalize abortHandover .aborted c = d at habort hraises hevent hbag hchecked hidle
  have hlast : unchangedBut [.safe, .uplink] d (emptyUplink (restartLock d)) :=
    unchangedBut_trans (restartLock_leaves d) (setUplink_leaves _ _)
  have hsafe : (emptyUplink (restartLock d)).safe = (restartLock d).safe := rfl
  have huplink : (emptyUplink (restartLock d)).uplink = { reserved := 0, filled := keptEnvelopes (restartLock d) } := rfl
  have hkept : keptEnvelopes (restartLock d) = keptEnvelopes m := by
    have hlock := restartLock_leaves d
    unfold keptEnvelopes
    rw [hlock .trunk (by decide), hlock .uplink (by decide), habort .trunk (by decide), habort .uplink (by decide), hfirst .trunk (by decide),
      hfirst .uplink (by decide)]
  rw [restartLock_safe, show d.safe = m.safe from (habort .safe (by decide)).trans (hfirst .safe (by decide))] at hsafe
  rw [hkept] at huplink
  generalize emptyUplink (restartLock d) = e at hlast hsafe huplink
  have hlastEvent (y : Event) : e.event y = d.event y := by
    unfold State.event
    rw [show e.events = d.events from hlast .events (by decide)]
  exact
  { leaves := unchangedBut_mono (unchangedBut_trans (unchangedBut_trans hfirst habort) hlast) (by decide)
    raises := eventsBut_comp (eventsBut_comp (eventsBut_of_leaves _ hfirst (by decide)) hraises) (eventsBut_of_leaves _ hlast (by decide))
    port := fun p => by
      rw [← hport]
      cases p
      · exact Part.same_trans (habort .floor (by decide)) (hlast .floor (by decide))
      · exact Part.same_trans (habort .room (by decide)) (hlast .room (by decide))
    uplink := huplink
    session := fun y => by
      rw [← hsession, show e.sessions = c.sessions from (hlast .sessions (by decide)).trans (habort .sessions (by decide))]
    checked := fun i hi => by
      have h := (hchecked i (hslot.trans hi)).congr (hlast .ring (by decide)) (hlast .call (by decide)) (hlastEvent .windowMissed)
      have hx : abortedSlot .aborted c i = abortedSlot .aborted m i := by
        unfold abortedSlot
        simp only [hring, hseconds]
      rw [hx] at h
      exact h.alike hring hcall (congrArg Day.clock (hfirst .day (by decide))) hseconds (hsame _)
    idle := fun hno => by
      have he := hidle (hslot.trans hno)
      exact ⟨(hlast .call (by decide)).trans ((congrArg State.call he).trans hcall), (hlast .ring (by decide)).trans ((congrArg State.ring he).trans hring)⟩
    safe := hsafe
    event := by
      rw [hlastEvent, hevent, hslot]
      unfold raisedIf
      rw [hsame]
    bag := fun n b hb => by
      obtain ⟨b1, hb1, hcount⟩ := hcounts n b hb
      obtain ⟨b', hb', hcalled⟩ := hbag n b1 hb1
      rw [hout, hin, hseconds] at hcalled
      exact ⟨b', (findBag_congr (hlast .bags (by decide)) n).trans hb', bagRestarted_of (findBag_some hb).2 hcount hcalled⟩ }

end

end Sys2Proof.Machine.Effects

/-! PROOF. RESTART: the marked frames, the end of its taking, and its result (R166, R195). -/

namespace Sys2Proof.Machine.Effects

open Sys2Proof Sys2Proof.Machine Sys2Proof.Machine.Takings Sys2Proof.Machine.TallyCount

section
variable {s t u m e : State} {p q : Port} {v w : Window} {tag : Word16} {fields : List Byte} {a b c : LinePort}

/-! ## The marked frames (R166, log entry 6) -/

theorem takeMarkedWindow_some (h : markedWindow s p = some w) : takeMarkedWindow p s = takeFrame (w.taken p) (s.setRx p .waitIdle) := by
  unfold takeMarkedWindow
  rw [h]

theorem takeMarkedWindow_none (h : markedWindow s p = none) : takeMarkedWindow p s = s := by
  unfold takeMarkedWindow
  rw [h]

theorem takeMarkedWindows_none (hfloor : markedWindow s .floor = none) (hroom : markedWindow s .room = none) : takeMarkedWindows s = s := by
  unfold takeMarkedWindows
  rw [hfloor, takeMarkedWindow_none hfloor, takeMarkedWindow_none hroom]
  rfl

theorem takeMarkedWindows_one (hpq : p ≠ q) (hp : markedWindow s p = some w) (hq : markedWindow s q = none) :
    takeMarkedWindows s = takeFrame (w.taken p) (s.setRx p .waitIdle) := by
  have hsplit : takeMarkedWindows s = takeMarkedWindow .room (takeMarkedWindow .floor s) := by
    refine if_neg ?_
    cases p <;> cases q
    · exact absurd rfl hpq
    · rw [hp, hq]
      exact nofun
    · rw [hp, hq]
      exact nofun
    · exact absurd rfl hpq
  rw [hsplit, ← takeMarkedWindow_some hp]
  cases p <;> cases q
  · exact absurd rfl hpq
  · exact takeMarkedWindow_none ((takeMarkedWindow_other hpq s).trans hq)
  · rw [takeMarkedWindow_none hq]
  · exact absurd rfl hpq

theorem takeMarkedWindows_both (hfloor : markedWindow s .floor = some v) (hroom : markedWindow s .room = some w) :
    takeMarkedWindows s = takeMarkedWindow .room (takeMarkedWindow .floor (s.setDraws (s.draws + 1))) ∨
    takeMarkedWindows s = takeMarkedWindow .floor (takeMarkedWindow .room (s.setDraws (s.draws + 1))) := by
  unfold takeMarkedWindows
  rw [hfloor, hroom]
  cases hfirst : Config.restartFloorFirst s.draws
  · exact .inr rfl
  · exact .inl rfl

theorem both_taken (hpq : p ≠ q) (hp : markedWindow s p = some v) (hq : markedWindow s q = some w) :
    takeMarkedWindow q (takeMarkedWindow p s) = takeFrame (w.taken q) ((takeFrame (v.taken p) (s.setRx p .waitIdle)).setRx q .waitIdle) := by
  rw [takeMarkedWindow_some (w := w) ((takeMarkedWindow_other hpq s).trans hq), takeMarkedWindow_some hp]

/-- A port through the taking of marked frames: its counters stay, its receiver waits where its own frame was taken. -/
structure PortKept (a b : LinePort) : Prop where
  errors : b.errors = a.errors
  rx : b.rx = a.rx ∨ (∃ w, a.rx = .markWindow w) ∧ b.rx = .waitIdle

theorem PortKept.trans (h : PortKept a b) (k : PortKept b c) : PortKept a c where
  errors := k.errors.trans h.errors
  rx := by
    rcases h.rx with h | ⟨hw, h⟩
    · rw [← h]
      exact k.rx
    · refine .inr ⟨hw, ?_⟩
      rcases k.rx with k | ⟨⟨w, hw⟩, -⟩
      · exact k.trans h
      · rw [h] at hw
        cases hw

theorem takeMarkedWindow_kept (p q : Port) (s : State) : PortKept (s.port q) ((takeMarkedWindow p s).port q) := by
  cases hp : markedWindow s p with
  | none =>
    rw [takeMarkedWindow_none hp]
    exact ⟨rfl, .inl rfl⟩
  | some w =>
    obtain ⟨r, more, hport, -⟩ := takeFrame_fills (w.taken p) (s.setRx p .waitIdle) q
    rw [takeMarkedWindow_some hp, hport]
    by_cases hpq : p = q
    · subst hpq
      rw [setRx_same]
      exact ⟨rfl, .inr ⟨⟨w, (markedWindow_some.mp hp).1⟩, rfl⟩⟩
    · have hother : (s.setRx p .waitIdle).port q = s.port q := by
        cases p <;> cases q
        · exact absurd rfl hpq
        · rfl
        · rfl
        · exact absurd rfl hpq
      rw [hother]
      exact ⟨rfl, .inl rfl⟩

theorem takeMarkedWindows_kept (s : State) (r : Port) : PortKept (s.port r) ((takeMarkedWindows s).port r) := by
  obtain ⟨p, q, u, -, hu, heq⟩ := takeMarkedWindows_eq s
  have hsame : u.port r = s.port r := by
    cases r
    · exact hu .floor (by decide)
    · exact hu .room (by decide)
  rw [heq, ← hsame]
  exact (takeMarkedWindow_kept p r u).trans (takeMarkedWindow_kept q r _)

theorem takeMarkedWindows_leaves (s : State) : unchangedBut (Part.jobParts ++ [.uplink, .draws]) s (takeMarkedWindows s) := by
  obtain ⟨p, q, u, -, hu, heq⟩ := takeMarkedWindows_eq s
  rw [heq]
  exact unchangedBut_comp (unchangedBut_comp (unchangedBut_mono hu (by decide)) (takeMarkedWindow_leaves p u)) (takeMarkedWindow_leaves q _)

theorem restarted_rx (h : PortKept a b) : (a.rx = .idle → b.rx.restarted = .idle) ∧ (∀ bits, a.rx = .receiving bits → b.rx.restarted = .waitIdle) ∧
    (∀ w, a.rx = .markWindow w → b.rx.restarted = .waitIdle) := by
  rcases h.rx with hrx | ⟨⟨w, hw⟩, hrx⟩ <;> rw [hrx]
  · refine ⟨fun ha => ?_, fun bits ha => ?_, fun w ha => ?_⟩ <;> rw [ha] <;> rfl
  · refine ⟨fun ha => ?_, fun bits ha => ?_, fun w ha => rfl⟩ <;> rw [ha] at hw <;> cases hw

/-! ## The end of the taking (R195) -/

theorem workDone_restart (h : t.trunk.sendWaits = false) : WorkDone t (settleRestart s t) := by
  have hend := settleEvents_leaves (testReports s t)
  have hwaits : waitingPlaceable (testReports s t) = false := by
    unfold waitingPlaceable
    rw [show (testReports s t).trunk = t.trunk from testReports_leaves s t .trunk (by decide), h]
  have hsettle : settleRestart s t = settleEvents (testReports s t) := by
    unfold settleRestart sendIfFreed
    rw [placeWaiting_of_not hwaits, ite_self]
  rw [hsettle]
  exact
  { parts := unchangedBut_trans (testReports_leaves s t) hend
    raises := eventsBut_mono (eventsBut_trans (testReports_events s t) (settleEvents_events _)) (by simp)
    bags := fun n b hb ht => by
      rw [findBag_congr (hend .bags (by decide))]
      exact testReports_find hb ht
    unclosed := fun hopen => by
      have hsame : testReports s t = t := by
        rcases testReports_spec s t with he | ⟨hday, hconditions, -⟩
        · exact he
        · rcases hopen with h | h
          · exact absurd hday h
          · rw [hconditions] at h
            cases h
      rw [hsame] at hend ⊢
      exact ⟨hend .bags (by decide), hend .day (by decide), settleEvents_events _⟩
    settled := settleEvents_settled _ }

/-- RESTART's answer: the number of envelopes that it discards. -/
theorem runRestart_answer (fields : List Byte) (s : State) : runRestart fields s = (restartRest (takeMarkedWindows s), Result.of .accepted
    (num ((takeMarkedWindows s).uplink.filled.length - (keptEnvelopes (takeMarkedWindows s)).length))) := by
  have hblocks : unchangedBut [.bags, .safe, .sessions, .ring, .call, .floor, .room, .events] (takeMarkedWindows s) (restartBlocks s) :=
    unchangedBut_mono (unchangedBut_trans (unchangedBut_trans (portsRestarted_leaves _) (abortHandover_leaves .aborted _)) (restartLock_leaves _)) (by decide)
  have huplink : (restartBlocks s).uplink = (takeMarkedWindows s).uplink := hblocks .uplink (by decide)
  have hkept : keptEnvelopes (restartBlocks s) = keptEnvelopes (takeMarkedWindows s) := by
    unfold keptEnvelopes
    rw [huplink, hblocks .trunk (by decide)]
  show (restartRest (takeMarkedWindows s), Result.of .accepted (num ((restartBlocks s).uplink.filled.length - (keptEnvelopes (restartBlocks s)).length))) = _
  rw [huplink, hkept]

/-- The end of a RESTART that `s` asked for and whose work left the state `e`, the marked frames taken before it the state `m`. -/
structure RestartDone (s m e : State) (tag : Word16) (u : State) : Prop where
  parts : unchangedBut ([.bags, .day, .trunk, .draws] ++ Part.eventParts) e u
  raises : eventsBut [.dayChanged] e u
  bags : ∀ n b, findBag e n = some b → b.state.terminal = false ∨ s.day.state ≠ .closing → findBag u n = some b
  unclosed : s.day.state ≠ .closing → u.bags = e.bags ∧ u.day = e.day ∧ eventsBut [] e u
  replied : RepliedDetail s u tag 0x5F .accepted (m.uplink.filled.length - (keptEnvelopes m).length) []

theorem RestartDone.part (h : RestartDone s m e tag u) (b : Part) (hb : b ∉ [.bags, .day, .trunk, .draws] ++ Part.eventParts := by decide) : b.same e u :=
  h.parts b hb

theorem RestartDone.event {y : Event} (h : RestartDone s m e tag u) (hi : y.indirect = false := by rfl) (hy : y ≠ .dayChanged := by decide) :
    u.event y = e.event y := eventsBut_event h.raises (by simpa using hy) hi

/-- The second and the day of the state behind the marked frames. -/
theorem marked_before (s : State) : (takeMarkedWindows (popRequest s)).seconds = s.seconds ∧ (takeMarkedWindows (popRequest s)).day = s.day ∧
    (takeMarkedWindows (popRequest s)).trunk = (popRequest s).trunk := by
  have hleaves := takeMarkedWindows_leaves (popRequest s)
  exact ⟨hleaves .seconds (by decide), hleaves .day (by decide), hleaves .trunk (by decide)⟩

theorem restart_yields (h : RequestAtHead s tag 0x5F fields) :
    Yields .restart s (RestartDone s (takeMarkedWindows (popRequest s)) (restartRest (takeMarkedWindows (popRequest s))) tag) := by
  obtain ⟨hreply, hwaits, hhead⟩ := h
  obtain ⟨rest, hbuffer⟩ := List.head?_eq_some_iff.mp hhead
  have htaken : exec .restart s = .next (settleRestart s (answerRequest tag 0x5F (runRestart fields (popRequest s)).2.code
      (runRestart fields (popRequest s)).2.detail (runRestart fields (popRequest s)).2.data (runRestart fields (popRequest s)).1)) :=
    takeRequest_taken (variant := anyForm) hreply hwaits hbuffer rfl
  rw [runRestart_answer] at htaken
  obtain ⟨-, hday, htrunk⟩ := marked_before s
  have hrestarted := (restartRest_restarted (takeMarkedWindows (popRequest s))).leaves
  generalize takeMarkedWindows (popRequest s) = m at htaken hday htrunk hrestarted ⊢
  have hdayEnd : (restartRest m).day = s.day := (hrestarted .day (by decide)).trans hday
  have htrunkEnd : (restartRest m).trunk = (popRequest s).trunk := (hrestarted .trunk (by decide)).trans htrunk
  generalize restartRest m = e at htaken hdayEnd htrunkEnd
  obtain ⟨k, hk⟩ : ∃ k, k = m.uplink.filled.length - (keptEnvelopes m).length := ⟨_, rfl⟩
  rw [← hk] at htaken
  obtain ⟨d, draws, hd, ha⟩ := answerRequest_spec tag 0x5F .accepted (num k) [] e
  have hleaves := answerRequest_leaves tag 0x5F .accepted (num k) [] e
  have hanswer : (answerRequest tag 0x5F .accepted (num k) [] e).trunk = { (popRequest s).trunk with
      reply := some { tag := tag, code := 0x5F, result := .accepted, detail := d, data := [] } } := by
    rw [ha, htrunkEnd]
    rfl
  change exec .restart s = .next (settleRestart s (answerRequest tag 0x5F .accepted (num k) [] e)) at htaken
  generalize answerRequest tag 0x5F .accepted (num k) [] e = a at htaken hleaves hanswer
  have hdone : WorkDone a (settleRestart s a) := workDone_restart (by rw [hanswer]; rfl)
  have hdayAnswer : a.day = s.day := (hleaves .day (by decide)).trans hdayEnd
  have hbagsAnswer : a.bags = e.bags := hleaves .bags (by decide)
  have hunclosed (hopen : s.day.state ≠ .closing) := hdone.unclosed (.inl (by rw [hdayAnswer]; exact hopen))
  have hevents : eventsBut [] e a := eventsBut_of_leaves _ hleaves (by decide)
  refine ⟨_, htaken, ?_⟩
  generalize settleRestart s a = u at hdone hunclosed
  have hreplied : u.trunk = { (popRequest s).trunk with reply := some { tag := tag, code := 0x5F, result := .accepted, detail := d, data := [] } } :=
    (show u.trunk = a.trunk from hdone.part .trunk).trans hanswer
  exact
  { parts := unchangedBut_mono (unchangedBut_trans hleaves hdone.parts) (by decide)
    raises := eventsBut_comp (eventsBut_mono hevents (by simp)) hdone.raises
    bags := fun n b hb ht => by
      have hba : findBag a n = some b := (findBag_congr hbagsAnswer n).trans hb
      rcases ht with ht | hopen
      · exact hdone.bags n b hba ht
      · exact (findBag_congr (hunclosed hopen).1 n).trans hba
    unclosed := fun hopen => by
      obtain ⟨hb, hd, he⟩ := hunclosed hopen
      exact ⟨hb.trans hbagsAnswer, hd.trans (hleaves .day (by decide)), eventsBut_comp hevents he⟩
    replied := ⟨by rw [hreplied]; rfl, by rw [hreplied, hd _ rfl, ← hk]⟩ }

end

end Sys2Proof.Machine.Effects

/-! PROOF. RESTART as a whole (R96, R110, R134, R135, R166, R195). -/

namespace Sys2Proof.Machine.Effects

open Sys2Proof Sys2Proof.Machine Sys2Proof.Machine.Takings Sys2Proof.Machine.TallyCount

section
variable {s u m e : State} {p : Port} {tag : Word16} {fields : List Byte} {n : Nat} {b : Bag}

theorem popRequest_port (s : State) (p : Port) : (popRequest s).port p = s.port p := by cases p <;> rfl

theorem markedWindow_popRequest (s : State) (p : Port) : markedWindow (popRequest s) p = markedWindow s p := markedWindow_congr (by rw [popRequest_port])

theorem restartDone_ports (hr : Restarted (takeMarkedWindows (popRequest s)) e) (hu : RestartDone s m e tag u) (p : Port) :
    (u.port p).tx = Transmitter.reset ∧ (u.port p).out = { reserved := 0, filled := [] } ∧
    (u.port p).down = [] ∧ (u.port p).errors = (s.port p).errors ∧
    ((s.port p).rx = .idle → (u.port p).rx = .idle) ∧
    (∀ bits, (s.port p).rx = .receiving bits → (u.port p).rx = .waitIdle) ∧
    (∀ w, (s.port p).rx = .markWindow w → (u.port p).rx = .waitIdle) := by
  have hport : u.port p = e.port p := by
    cases p
    · exact hu.part .floor
    · exact hu.part .room
  have hkept := takeMarkedWindows_kept (popRequest s) p
  rw [popRequest_port] at hkept
  rw [hport, hr.port]
  obtain ⟨hidle, hreceiving, hwindow⟩ := restarted_rx hkept
  exact ⟨rfl, rfl, rfl, hkept.errors, hidle, hreceiving, hwindow⟩

theorem restartDone_bag (hr : Restarted m e) (hu : RestartDone s m e tag u) (hb : findBag m n = some b) (hkept : b.state.terminal = false ∨ s.day.state ≠ .closing) :
    ∃ b', findBag u n = some b' ∧ BagRestarted m n b b' := by
  obtain ⟨b', hb', hrow⟩ := hr.bag n b hb
  exact ⟨b', hu.bags n b' hb' (hkept.imp hrow.terminal id), hrow⟩

theorem restartDone_leaves (hr : Restarted m e) (hu : RestartDone s m e tag u) :
    unchangedBut ([.bags, .safe, .sessions, .ring, .call, .floor, .room, .uplink] ++ closingParts s ++ Part.replyParts) m u ∧
      eventsBut ([.handoverAborted, .windowMissed] ++ closingEvents s) m u := by
  by_cases hclosing : s.day.state = .closing
  · have hparts : closingParts s = [.bags, .day] := if_pos hclosing
    have hevents : closingEvents s = [.dayChanged] := if_pos hclosing
    rw [hparts, hevents]
    exact ⟨unchangedBut_mono (unchangedBut_trans hr.leaves hu.parts) (by decide),
      eventsBut_comp (eventsBut_mono hr.raises (by decide)) (eventsBut_mono hu.raises (by decide))⟩
  · have hparts : closingParts s = [] := if_neg hclosing
    have hevents : closingEvents s = [] := if_neg hclosing
    obtain ⟨hbags, hday, hnone⟩ := hu.unclosed hclosing
    rw [hparts, hevents]
    refine ⟨fun y hy => ?_, eventsBut_comp hr.raises (eventsBut_mono hnone nofun)⟩
    cases y
    case day => exact hday.trans (hr.leaves .day (by decide))
    case bags => exact absurd (by decide) hy
    all_goals exact (unchangedBut_trans hr.leaves hu.parts) _ (fun hmem => hy (by revert hmem; decide))

end

/-- Settles O56: the marked frames first, then the blocks one by one, then the end of the taking. -/
theorem restartResult : Obligations.RestartResult := by
  unfold Obligations.RestartResult
  intro s tag fields h
  dsimp only
  have hnone (p : Port) (hp : NoMarkedFrame s p) : markedWindow (popRequest s) p = none := (markedWindow_popRequest s p).trans hp
  have hsome (p : Port) (w : Window) (hp : markedWindow s p = some w) : markedWindow (popRequest s) p = some w := (markedWindow_popRequest s p).trans hp
  refine ⟨fun hfloor hroom => takeMarkedWindows_none (hnone _ hfloor) (hnone _ hroom),
    fun p q w hpq hp hq => takeMarkedWindows_one hpq (hsome p w hp) (hnone q hq), fun v w hv hw => ?_, ?_⟩
  · have hfloor := hsome .floor v hv
    have hroom := hsome .room w hw
    have hdraws (p : Port) : markedWindow ((popRequest s).setDraws (s.draws + 1)) p = markedWindow (popRequest s) p := markedWindow_congr (by cases p <;> rfl)
    rcases takeMarkedWindows_both hfloor hroom with he | he <;> rw [he]
    · exact .inl (both_taken nofun ((hdraws _).trans hfloor) ((hdraws _).trans hroom))
    · exact .inr (both_taken nofun ((hdraws _).trans hroom) ((hdraws _).trans hfloor))
  · obtain ⟨u, hu, hdone⟩ := restart_yields h
    have hr := restartRest_restarted (takeMarkedWindows (popRequest s))
    obtain ⟨hseconds, -, -⟩ := marked_before s
    have hports := restartDone_ports hr hdone
    have hleaves := restartDone_leaves hr hdone
    have hbag (n : Nat) (b : Bag) (hb : findBag (takeMarkedWindows (popRequest s)) n = some b) := restartDone_bag (n := n) (b := b) hr hdone hb
    generalize takeMarkedWindows (popRequest s) = m at hdone hr hseconds hleaves hbag
    generalize restartRest m = e at hdone hr
    have hcall : u.call = e.call := hdone.part .call
    have hring : u.ring = e.ring := hdone.part .ring
    have hsessions : u.sessions = e.sessions := hdone.part .sessions
    refine ⟨u, hu, hports, (hdone.part .uplink).trans hr.uplink, fun x hx => ?_, fun x hx => ?_, fun i hphase hslot => ?_, fun hphase => ?_,
      (hdone.part .safe).trans hr.safe, hdone.replied, ⟨fun n b hb hkept => ?_, ?_⟩, hleaves⟩
    · rw [hsessions, hr.session]
      exact if_neg hx
    · rw [hsessions, hr.session]
      exact if_pos hx
    · obtain ⟨hrow, ⟨hidle, -, htimer, -⟩, hringMissed, hcallMissed, heventMissed⟩ :=
        (hr.checked i (activeSlot_of hphase hslot)).congr hring hcall (hdone.event (y := .windowMissed))
      rw [← hseconds]
      exact ⟨hidle, htimer, hrow, hringMissed, hcallMissed, heventMissed⟩
    · obtain ⟨hkeptCall, hkeptRing⟩ := hr.idle (activeSlot_idle hphase)
      exact ⟨hcall.trans hkeptCall, hring.trans hkeptRing⟩
    · obtain ⟨b', hb', hrow⟩ := hbag n b hb hkept
      rw [← hseconds]
      exact ⟨b', hb', hrow.unsigned, hrow.loaded, hrow.handling, fun x hactive hbag hsession hstate => hrow.counted x ⟨hactive, hbag, hsession⟩ hstate,
        fun hother hfree => hrow.other hother fun x hx => hfree x hx.1 hx.2.1 hx.2.2⟩
    · exact (hdone.event (y := .handoverAborted)).trans hr.event

end Sys2Proof.Machine.Effects
